-- ==== Sys2Proof/Word.lean ====
section
/-! DEFINITION. The word types, the identifier types and the sparse-map type of the Kigon K25 model.

Spec: chapter 00 (R2 to R4, sizes and little-endian fields), R14 (die indices), Table 00-1 (engines),
R173 and Table 06-9 (queues), Table 07-11 (bays), Table 12-3 (ports). -/

namespace Sys2Proof

abbrev Bit := BitVec 1
abbrev Byte := BitVec 8
abbrev W16 := BitVec 16
abbrev W32 := BitVec 32
abbrev W64 := BitVec 64
abbrev W128 := BitVec 128

/-- Die index, R14: 0-19 compute, 20-23 edge, 24 apex. -/
abbrev DieId := Fin 25
/-- Compute die C00-C19. -/
abbrev CDie := Fin 20
/-- Edge die E0-E3. -/
abbrev EDie := Fin 4
/-- Physical engine of a compute die, 0-51 (Table 00-1). -/
abbrev PhysEng := Fin 52
/-- Logical engine of a compute die, 0-47. -/
abbrev LogEng := Fin 48
/-- Host-visible command queue, 0-511. -/
abbrev QId := Fin 512
/-- Tenant bay, 0-15. -/
abbrev BayId := Fin 16
/-- Vexoc port P0-P7. -/
abbrev PortId := Fin 8
/-- Host link H0, H1. -/
abbrev LinkId := Fin 2

/-- A sparse map: the entries that differ from the map's default value, keys strictly rising.
Memories are the special case `SMap Byte`, a list of `Host.Cell`. -/
abbrev SMap (α : Type) := List (Nat × α)

/-- The low `w` bits of a natural number as a natural number. -/
def lowBits (w n : Nat) : Nat := n % 2 ^ w

/-- The field `[lo + w - 1 : lo]` of a natural number. -/
def bitsAt (n lo w : Nat) : Nat := n / 2 ^ lo % 2 ^ w

end Sys2Proof
end

