-- ==== Sys2Proof/Operand.lean ====
section
/-! DEFINITION. The operand types of the commands: what the world outside the block, or a timer or a
medium inside it, supplies with a command. -/

namespace Sys2Proof

/-- A byte in transit: none is a poisoned byte (R138, R255). -/
abbrev PByte := Option Byte

/-- What the SRAM reads of an operation met (R136, R137): nothing, a corrected word, or an uncorrectable
one, in a structure of SRAM_ERR_LAST (Table 04-7). -/
inductive Ecc where
  | none
  | corrected (unit word : Nat)
  | uncorrectable (unit word : Nat)
  deriving DecidableEq, Repr

/-- What reading a stored word or line met: data, a correctable error, an uncorrectable error, or, for a
tagged line, a tag that does not verify (R136, R137, R253). -/
inductive Medium where
  | good
  | corrected
  | uncorrectable
  | tampered
  deriving DecidableEq, Repr

/-- An SPDM request (R409): of NEGOTIATE_ALGORITHMS whether the requester offers ECDSA P-384, SHA-384, secp384r1 and
AES-256-GCM; of KEY_EXCHANGE the requester's ephemeral public key; of FINISH whether its MAC verifies, and the root
public key (X then Y) of a requester chain whose signature verifies. -/
inductive SpdmReq where
  | getVersion
  | getCapabilities
  | negotiateAlgorithms (sign hash dhe aead : Bool)
  | getDigests
  | getCertificate (slot : BitVec 4) (off len : W16)
  | challenge (slot : BitVec 4) (nonce : BitVec 256)
  | getMeasurements (index : Byte) (sign : Bool) (nonce : BitVec 256)
  | keyExchange (x y : BitVec 384) (id : W16)
  | finish (id : W32) (mac : Bool) (peer : Option (BitVec 768))
  | endSession (id : W32)
  deriving DecidableEq, Repr

/-- How a management command arrives (R482, R493): endpoint (MGMT0, MGMT1, H0, H1), source EID, VERSION, REQ_ID, and the
SPDM session that carries it. -/
structure MgmtHdr where
  ep : BitVec 2
  src : Byte
  version : Byte
  reqId : W16
  session : Option W32
  deriving DecidableEq, Repr

/-- Who writes or reads a register: a host link (R468) or the device's own firmware (R432, R132). -/
inductive Agent where
  | link (n : LinkId)
  | firmware
  deriving DecidableEq, Repr

/-- The engine a slot operation names, how many cycles a debug stall behind a transfer held it (R74), and
what its SRAM reads met. -/
structure EngRef where
  die : CDie
  eng : PhysEng
  held : Nat
  ecc : Ecc
  deriving DecidableEq, Repr

/-- The started command a command-processor event names: its queue and sequence number. -/
structure CmdRef where
  q : QId
  seq : W32
  deriving DecidableEq, Repr

/-- One mesh packet (R21, R31): its class is the command's; source and destination die, request number,
the incarnations it carries, and the bay it travels for (none: device traffic). -/
structure MeshPkt where
  src : DieId
  dst : DieId
  id : Nat
  srcInc : Byte
  dstInc : Byte
  bay : Option BayId
  age : Nat
  deriving DecidableEq, Repr

end Sys2Proof
end

