-- ==== Sys2Proof/Syntax.lean ====
section
/-! DEFINITION. The commands of the block: one constructor for each row of the opcode table, in its order,
with the operands the sender, a timer or a medium supplies. LAWS.json maps each to its row's mnemonic. -/

namespace Sys2Proof

/-- A command (the rows of the opcode table). -/
inductive Instr where
  /-- REGISTER_WRITE, R7. -/
  | registerWrite (by_ : Agent) (addr : BitVec 26) (size : Nat) (data : W64)
  /-- REGISTER_READ_CLEAR, R7. -/
  | registerReadClear (link : LinkId) (addr : BitVec 26) (size : Nat)
  /-- BAR0_LOW_HALF_TIMEOUT, R37. -/
  | bar0LowHalfTimeout (link : LinkId)
  /-- MESH_REQUEST, R32. -/
  | meshRequest (p : MeshPkt)
  /-- MESH_RESPONSE, R33. -/
  | meshResponse (p : MeshPkt)
  /-- INCARN_BROADCAST_APPLY, R33. -/
  | incarnBroadcastApply (router die : DieId) (inc : Byte)
  /-- MESH_PACKET_AGE_EXPIRY, R25. -/
  | meshPacketAgeExpiry (router : DieId) (p : MeshPkt)
  /-- ENGINE_CLOCK_CHANGE, R27. -/
  | engineClockChange (die : CDie) (mhz : Nat)
  /-- PROGRAM_FIRST_ISSUE, R67. -/
  | programFirstIssue (die : CDie) (eng : PhysEng)
  /-- IMAGE_FETCH_COMPLETE, R165. -/
  | imageFetchComplete (die : CDie) (eng : PhysEng) (handle : W32) (base : BitVec 12) (m : Medium)
  /-- TILE_OVERRUN_EXPIRY, R167. -/
  | tileOverrunExpiry (die : CDie) (eng : PhysEng)
  /-- ENGINE_CLOCK_GATE, R76. -/
  | engineClockGate (die : CDie) (eng : PhysEng)
  /-- ENG_POWER_REQ, R77. -/
  | engPowerReq (die : CDie) (eng : PhysEng) (data : W32)
  /-- ENGINE_POWER_UP_DONE, R77. -/
  | enginePowerUpDone (die : CDie) (eng : PhysEng) (pass : Bool)
  /-- SENT_CTRL_WRITE, R74. -/
  | sentCtrlWrite (die : CDie) (eng : PhysEng) (data : W32)
  /-- DMA_PROMOTION, R122. -/
  | dmaPromotion (die : CDie) (eng : PhysEng) (bank : BitVec 4)
  /-- ASYNC_TRANSFER_COMPLETE, R153. -/
  | asyncTransferComplete (die : CDie) (eng : PhysEng) (tag : BitVec 3) (ecc : Ecc) (m : Medium)
  /-- SLOAD, R52. -/
  | sload (r : EngRef)
  /-- SWAP, R53. -/
  | swap (r : EngRef)
  /-- STREAM, R56. -/
  | stream (r : EngRef) (freeze : Nat)
  /-- SWAP_STREAM, R147. -/
  | swapStream (r : EngRef) (freeze : Nat)
  /-- FADD, R150. -/
  | fadd (r : EngRef)
  /-- FSUB, R150. -/
  | fsub (r : EngRef)
  /-- FMUL, R150. -/
  | fmul (r : EngRef)
  /-- FMA, R150. -/
  | fma (r : EngRef)
  /-- FMIN, R150. -/
  | fmin (r : EngRef)
  /-- FMAX, R150. -/
  | fmax (r : EngRef)
  /-- FCMP, R150. -/
  | fcmp (r : EngRef)
  /-- DADD, R150. -/
  | dadd (r : EngRef)
  /-- DMUL, R150. -/
  | dmul (r : EngRef)
  /-- DFMA, R150. -/
  | dfma (r : EngRef)
  /-- EXP, R114. -/
  | exp (r : EngRef)
  /-- LOG, R114. -/
  | log (r : EngRef)
  /-- RSQRT, R114. -/
  | rsqrt (r : EngRef)
  /-- IADD, R150. -/
  | iadd (r : EngRef)
  /-- ISUB, R150. -/
  | isub (r : EngRef)
  /-- IMUL, R150. -/
  | imul (r : EngRef)
  /-- AND, R150. -/
  | andOp (r : EngRef)
  /-- OR, R150. -/
  | orOp (r : EngRef)
  /-- XOR, R150. -/
  | xorOp (r : EngRef)
  /-- SHL, R150. -/
  | shl (r : EngRef)
  /-- SHR, R150. -/
  | shr (r : EngRef)
  /-- SRA, R150. -/
  | sra (r : EngRef)
  /-- SEL, R150. -/
  | sel (r : EngRef)
  /-- IMIN, R150. -/
  | imin (r : EngRef)
  /-- IMAX, R150. -/
  | imax (r : EngRef)
  /-- EXADD, R106. -/
  | exadd (r : EngRef)
  /-- CVT, R97. -/
  | cvt (r : EngRef)
  /-- RSUM, R150. -/
  | rsum (r : EngRef)
  /-- RMAX, R150. -/
  | rmax (r : EngRef)
  /-- RMIN, R150. -/
  | rmin (r : EngRef)
  /-- EXCVT, R110. -/
  | excvt (r : EngRef)
  /-- RBITS, R327. -/
  | rbits (r : EngRef)
  /-- VLD, R152. -/
  | vld (r : EngRef)
  /-- VST, R152. -/
  | vst (r : EngRef)
  /-- ALD, R152. -/
  | ald (r : EngRef)
  /-- AST, R152. -/
  | ast (r : EngRef)
  /-- LFTR, R153. -/
  | lftr (r : EngRef)
  /-- LFTW, R153. -/
  | lftw (r : EngRef)
  /-- XPUT, R153. -/
  | xput (r : EngRef)
  /-- XGET, R153. -/
  | xget (r : EngRef)
  /-- ASET, R154. -/
  | aset (r : EngRef)
  /-- ABASE, R154. -/
  | abase (r : EngRef)
  /-- ARST, R154. -/
  | arst (r : EngRef)
  /-- SLDI, R154. -/
  | sldi (r : EngRef)
  /-- SADDI, R154. -/
  | saddi (r : EngRef)
  /-- SADD, R154. -/
  | sadd (r : EngRef)
  /-- SSHL, R154. -/
  | sshl (r : EngRef)
  /-- RDRAIN, R160. -/
  | rdrain (r : EngRef)
  /-- RVEC, R160. -/
  | rvec (r : EngRef)
  /-- RRAW, R160. -/
  | rraw (r : EngRef)
  /-- END, R71. -/
  | endProgram (r : EngRef)
  /-- SKIP, R143. -/
  | skip (r : EngRef)
  /-- LOOP, R146. -/
  | loop (r : EngRef)
  /-- WAITT, R144. -/
  | waitt (r : EngRef)
  /-- WAITE, R144. -/
  | waite (r : EngRef)
  /-- WAIT_RELEASE, R145. -/
  | waitRelease (die : CDie) (eng : PhysEng) (n : Nat)
  /-- SIGE, R161. -/
  | sige (r : EngRef)
  /-- SIGE_EVENT_APPLY, R185. -/
  | sigeEventApply (die : CDie) (eng : PhysEng)
  /-- SPAD_OWN_WRITE, R125. -/
  | spadOwnWrite (die : CDie) (eng : PhysEng) (bank : BitVec 4) (data : W32)
  /-- SPAD_HANDOVER, R125. -/
  | spadHandover (die : CDie) (eng : PhysEng) (bank : BitVec 4)
  /-- CLEAR_START, R132. -/
  | clearStart (by_ : Agent) (die : CDie)
  /-- CLEAR_DONE, R134. -/
  | clearDone (die : CDie) (mismatch : Bool) (failing : List PhysEng)
  /-- PATROL_SCRUB_READ, R136. -/
  | patrolScrubRead (die : CDie) (word : BitVec 22) (m : Medium)
  /-- LOFT_REQUEST, R130. -/
  | loftRequest (die : CDie) (bay : Option BayId) (la : BitVec 25) (n : Nat) (bs : Option (List PByte)) (m : Medium)
  /-- DOORBELL, R175. -/
  | doorbell (q : QId) (tail : W32)
  /-- COMMAND_FETCH, R176. -/
  | commandFetch (cp : Fin 8)
  /-- RING_READ_COMPLETE, R179. -/
  | ringReadComplete (q : QId) (words : List W32) (fail : W16)
  /-- COMMAND_START, R186. -/
  | commandStart (c : CmdRef)
  /-- COMMAND_COMPLETE, R189. -/
  | commandComplete (c : CmdRef)
  /-- COMMAND_SIGNAL, R184. -/
  | commandSignal (c : CmdRef)
  /-- DEP_TIMEOUT, R187. -/
  | depTimeout (c : CmdRef)
  /-- DEP_SCAN, R188. -/
  | depScan
  /-- CPL_HEAD_WRITE, R190. -/
  | cplHeadWrite (q : QId) (head : W32)
  /-- Q_ENABLE, R173. -/
  | qEnable (q : QId)
  /-- Q_DISABLE, R172. -/
  | qDisable (q : QId)
  /-- RESUME_CONTINUE, R193. -/
  | resumeContinue (q : QId)
  /-- RESUME_RETRY, R193. -/
  | resumeRetry (q : QId)
  /-- RESUME_DISCARD, R193. -/
  | resumeDiscard (q : QId)
  /-- Q_PREEMPT, R195. -/
  | qPreempt (q : QId)
  /-- QUEUE_PREEMPTED, R195. -/
  | queuePreempted (q : QId)
  /-- BRK_CTRL_WRITE, R197. -/
  | brkCtrlWrite (q : QId) (data : W32)
  /-- EVT_SIG, R184. -/
  | evtSig (data : W64)
  /-- JNL_ACK_WRITE, R199. -/
  | jnlAckWrite (pos : W32)
  /-- NOP, R179. -/
  | nop (c : CmdRef)
  /-- TILE_LAUNCH, R180. -/
  | tileLaunch (c : CmdRef)
  /-- COPY, R181. -/
  | copy (c : CmdRef)
  /-- FILL, R181. -/
  | fill (c : CmdRef)
  /-- COPY_CHUNK_DONE, R181. -/
  | copyChunkDone (c : CmdRef) (ecc : Ecc) (ms md : Medium)
  /-- FENCE, R186. -/
  | fence (c : CmdRef)
  /-- EVT_INIT, R183. -/
  | evtInit (c : CmdRef)
  /-- ENG_FLAG, R185. -/
  | engFlag (c : CmdRef)
  /-- JOURNAL_MARK, R179. -/
  | journalMark (c : CmdRef)
  /-- BAY_CREATE, R205. -/
  | bayCreate (c : CmdRef)
  /-- BAY_SEAL, R401. -/
  | baySeal (c : CmdRef)
  /-- BAY_ROLES, R214. -/
  | bayRoles (c : CmdRef)
  /-- BAY_TEARDOWN, R208. -/
  | bayTeardown (c : CmdRef)
  /-- TEARDOWN_WAIT_EXPIRY, R208. -/
  | teardownWaitExpiry (bay : BayId)
  /-- BAY_SCRUB, R209. -/
  | bayScrub (c : CmdRef)
  /-- HBM_ERASE_DONE, R418. -/
  | hbmEraseDone (bay : BayId)
  /-- PHASE_BEGIN, R224. -/
  | phaseBegin (c : CmdRef)
  /-- PHASE_END, R224. -/
  | phaseEnd (c : CmdRef)
  /-- PHASE_CANCEL, R224. -/
  | phaseCancel (c : CmdRef)
  /-- PHASE_BUDGET_EXPIRY, R225. -/
  | phaseBudgetExpiry (bay : BayId) (timer : BitVec 6)
  /-- ADMISSION_GRANT, R216. -/
  | admissionGrant (c : CmdRef)
  /-- ADMIT_TIMEOUT, R218. -/
  | admitTimeout (c : CmdRef)
  /-- POWER_CONTROL_TICK, R222. -/
  | powerControlTick (bay : BayId) (watts : Nat)
  /-- MEM_MAP, R237. -/
  | memMap (c : CmdRef)
  /-- MEM_UNMAP, R240. -/
  | memUnmap (c : CmdRef)
  /-- MIGRATE, R249. -/
  | migrate (c : CmdRef)
  /-- MIGRATE_SLAB_DONE, R249. -/
  | migrateSlabDone (c : CmdRef) (m : Medium) (fail : Bool)
  /-- PREFETCH_SCHED, R248. -/
  | prefetchSched (c : CmdRef)
  /-- PREFETCH_FETCH, R248. -/
  | prefetchFetch (bay : BayId) (k : BitVec 4)
  /-- HBM_REQUEST, R254. -/
  | hbmRequest (bay : BayId) (va : BitVec 57) (n : Nat) (bs : Option (List PByte)) (m : Medium)
  /-- ZERO_SLAB_WRITE, R239. -/
  | zeroSlabWrite (bay : BayId) (slab : BitVec 41)
  /-- T3_RESPONSE, R256. -/
  | t3Response (link : LinkId) (bay : BayId) (va : BitVec 57) (fill : Bool) (bs : List PByte) (bad error : Bool) (ns : Nat)
  /-- T3_TIMEOUT, R256. -/
  | t3Timeout (bay : BayId) (va : BitVec 57) (fill : Bool)
  /-- WRITE_BACK_DONE, R246. -/
  | writeBackDone (bay : BayId) (slab : BitVec 41) (fail : W16)
  /-- AGE_EPOCH_TICK, R245. -/
  | ageEpochTick (bay : BayId)
  /-- WM_ARM, R257. -/
  | wmArm (bay : BayId) (w : BitVec 3)
  /-- WM_DISARM, R257. -/
  | wmDisarm (bay : BayId) (w : BitVec 3)
  /-- PAGE_ALLOC, R266. -/
  | pageAlloc (c : CmdRef)
  /-- PAGE_FREE, R267. -/
  | pageFree (c : CmdRef)
  /-- PAGE_SWAP_OUT, R283. -/
  | pageSwapOut (c : CmdRef) (m : Medium) (fail : Bool)
  /-- PAGE_SWAP_IN, R283. -/
  | pageSwapIn (c : CmdRef)
  /-- PT_UPDATE_WINDOW, R274. -/
  | ptUpdateWindow (c : CmdRef) (m : Medium)
  /-- PT_UPDATE_ADVANCE, R268. -/
  | ptUpdateAdvance (c : CmdRef)
  /-- RT_ENABLE, R292. -/
  | rtEnable (bay : BayId) (model : BitVec 2)
  /-- RT_DISABLE, R293. -/
  | rtDisable (bay : BayId) (model : BitVec 2)
  /-- RT_STAGE_MEMORY, R302. -/
  | rtStageMemory (c : CmdRef) (m : Medium)
  /-- RT_STAGE_FABRIC, R303. -/
  | rtStageFabric (c : CmdRef) (m : Medium)
  /-- STAGING_LANDING, R303. -/
  | stagingLanding (bay : BayId) (va : W64) (bytes : List Byte)
  /-- STAGE_TIMEOUT, R303. -/
  | stageTimeout (c : CmdRef)
  /-- RT_VERIFY_CHECK_ACTIVE, R300. -/
  | rtVerifyCheckActive (c : CmdRef) (differs : List (BitVec 14))
  /-- RT_VERIFY_CHECK_STAGED, R300. -/
  | rtVerifyCheckStaged (c : CmdRef) (differs : List (BitVec 14))
  /-- RT_VERIFY_PUBLISH, R299. -/
  | rtVerifyPublish (c : CmdRef) (m : Medium)
  /-- RT_ARM_STRICT, R308. -/
  | rtArmStrict (c : CmdRef)
  /-- RT_ARM_ROLLING, R309. -/
  | rtArmRolling (c : CmdRef)
  /-- RT_ABORT, R317. -/
  | rtAbort (c : CmdRef)
  /-- RT_ABORT_ADAPTER, R317. -/
  | rtAbortAdapter (c : CmdRef)
  /-- RT_ADAPTER, R314. -/
  | rtAdapter (c : CmdRef) (m : Medium)
  /-- BARRIER_TIMEOUT, R311. -/
  | barrierTimeout (c : CmdRef)
  /-- RECHECK_PASS, R316. -/
  | recheckPass (bay : BayId) (model : BitVec 2) (active staged : List (BitVec 14))
  /-- RIDGE, R381. -/
  | ridge (c : CmdRef) (m : Medium)
  /-- VALLEY, R382. -/
  | valley (c : CmdRef) (m : Medium)
  /-- COLL_READY, R380. -/
  | collReady (port : PortId) (bytes : List Byte)
  /-- COLL_DATA, R382. -/
  | collData (port : PortId) (bytes : List Byte) (poisoned : Bool) (buf m : Medium)
  /-- COLL_DONE, R385. -/
  | collDone (port : PortId) (bytes : List Byte)
  /-- COLL_ABORT, R389. -/
  | collAbort (port : PortId) (bytes : List Byte)
  /-- COLL_TIMEOUT, R388. -/
  | collTimeout (c : CmdRef)
  /-- PORT_CFG_WRITE, R343. -/
  | portCfgWrite (port : PortId) (data : W32)
  /-- TRAINING_BURST, R343. -/
  | trainingBurst (port : PortId)
  /-- PARTNER_BURST, R343. -/
  | partnerBurst (port : PortId) (lanes : BitVec 5)
  /-- TRAIN_DONE, R343. -/
  | trainDone (port : PortId)
  /-- TRAIN_TIMEOUT, R343. -/
  | trainTimeout (port : PortId)
  /-- ALIGN_DONE, R343. -/
  | alignDone (port : PortId) (locked : W16)
  /-- NEGOTIATE_DONE, R344. -/
  | negotiateDone (port : PortId) (majorMin majorMax : Byte) (features2 features3 : W16) (peer : BitVec 24) (role : PortId)
  /-- LINK_SIGNAL_LOSS, R366. -/
  | linkSignalLoss (port : PortId)
  /-- RETRAIN_DONE, R343. -/
  | retrainDone (port : PortId) (good : W16)
  /-- FLIT_RECEIVE, R347. -/
  | flitReceive (port : PortId) (hdr : W32) (corrected : Nat) (bad : Bool) (ack : Option (BitVec 12))
  /-- FLIT_REPLAY, R364. -/
  | flitReplay (port : PortId) (fseq : BitVec 12)
  /-- LANE_RETIRE, R365. -/
  | laneRetire (port : PortId) (lane : BitVec 4) (count : W32)
  /-- PACKET_RECEIVE, R348. -/
  | packetReceive (port : PortId) (bytes : List Byte)
  /-- LINK_HOLD_EXPIRY, R366. -/
  | linkHoldExpiry (port : PortId)
  /-- REMOTE_REQUEST, R358. -/
  | remoteRequest (port : PortId) (bytes : List Byte) (busy : Bool) (m : Medium)
  /-- REMOTE_RESPONSE, R362. -/
  | remoteResponse (port : PortId) (bytes : List Byte)
  /-- RETRY_BACKOFF_EXPIRY, R359. -/
  | retryBackoffExpiry (bay : BayId) (gen : Byte) (seq : BitVec 48)
  /-- FAB_REQ_TIMEOUT, R362. -/
  | fabReqTimeout (bay : BayId) (gen : Byte) (seq : BitVec 48)
  /-- LW_CFG_WRITE, R360. -/
  | lwCfgWrite (bay : BayId) (win : BitVec 5) (data : W32)
  /-- TIME_EXCHANGE, R369. -/
  | timeExchange (port : PortId) (offset delay : BitVec 32) (depth : Byte)
  /-- PPS_EDGE, R368. -/
  | ppsEdge
  /-- TIME_PARENT_LOSS, R371. -/
  | timeParentLoss
  /-- LINK_AUTH_DONE, R408. -/
  | linkAuthDone (port : PortId) (ok : Bool)
  /-- ATTEST_REPORT, R410. -/
  | attestReport (c : CmdRef)
  /-- ATTEST_SEAL_NONCE, R399. -/
  | attestSealNonce (c : CmdRef)
  /-- ATTEST_ADD_PUBKEY, R403. -/
  | attestAddPubkey (c : CmdRef)
  /-- ATTEST_SET_CONSENT, R413. -/
  | attestSetConsent (c : CmdRef)
  /-- ATTEST_ROTATE_LINK, R404. -/
  | attestRotateLink (c : CmdRef)
  /-- TRNG_HEALTH_FAIL, R395. -/
  | trngHealthFail
  /-- TRNG_RETEST, R395. -/
  | trngRetest (pass : Bool)
  /-- TAMPER_DETECT, R420. -/
  | tamperDetect (kind : Fin 3)
  /-- DSCRUB_START, R419. -/
  | dscrubStart
  /-- SCAN_EXTEST, R414. -/
  | scanExtest
  /-- SCAN_DEBUG_INSTRUCTION, R414. -/
  | scanDebugInstruction (die : DieId)
  /-- GET_VERSION, R409. -/
  | getVersion (ep : BitVec 2)
  /-- GET_CAPABILITIES, R409. -/
  | getCapabilities (ep : BitVec 2)
  /-- NEGOTIATE_ALGORITHMS, R409. -/
  | negotiateAlgorithms (ep : BitVec 2) (sign hash dhe aead : Bool)
  /-- GET_DIGESTS, R409. -/
  | getDigests (ep : BitVec 2)
  /-- GET_CERTIFICATE, R409. -/
  | getCertificate (ep : BitVec 2) (slot : BitVec 4) (off len : W16)
  /-- CHALLENGE, R409. -/
  | challenge (ep : BitVec 2) (slot : BitVec 4) (nonce : BitVec 256)
  /-- GET_MEASUREMENTS, R409. -/
  | getMeasurements (ep : BitVec 2) (index : Byte) (sign : Bool) (nonce : BitVec 256)
  /-- KEY_EXCHANGE, R409. -/
  | keyExchange (ep : BitVec 2) (x y : BitVec 384) (id : W16)
  /-- FINISH, R409. -/
  | finish (ep : BitVec 2) (id : W32) (mac : Bool) (peer : Option (BitVec 768))
  /-- END_SESSION, R409. -/
  | endSession (ep : BitVec 2) (id : W32)
  /-- RESPOND_IF_READY, R412. -/
  | respondIfReady (ep : BitVec 2) (token : Byte)
  /-- ERR_FIFO_POP, R430. -/
  | errFifoPop (die : DieId)
  /-- ENGINE_TEST_DONE, R436. -/
  | engineTestDone (die : CDie) (eng : PhysEng) (pass ok : Bool)
  /-- EDGE_RETURN_TIMEOUT, R441. -/
  | edgeReturnTimeout (die : EDie)
  /-- CLOSE, R433. -/
  | closeDie (by_ : Agent) (die : DieId)
  /-- OFF, R432. -/
  | offDie (by_ : Agent) (die : DieId)
  /-- OPEN, R432. -/
  | openDie (by_ : Agent) (die : DieId)
  /-- POWER_ON, R432. -/
  | powerOn (by_ : Agent) (die : DieId)
  /-- PARTIAL_RESET, R432. -/
  | partialReset (by_ : Agent) (die : DieId)
  /-- DIE_DRAINED, R434. -/
  | dieDrained (die : CDie)
  /-- DRAIN_LIMIT_EXPIRY, R434. -/
  | drainLimitExpiry (die : CDie)
  /-- DIE_POWER_OP_DONE, R432. -/
  | diePowerOpDone (die : DieId)
  /-- ERC_TICK, R442. -/
  | ercTick (die : DieId)
  /-- ERC_ARM, R443. -/
  | ercArm (die : DieId) (failing : Bool)
  /-- ERC_DISARM, R443. -/
  | ercDisarm (die : DieId) (failing : Bool)
  /-- MIRROR_SOURCE, R447. -/
  | mirrorSource (c : CmdRef)
  /-- MIRROR_HOST, R446. -/
  | mirrorHost (c : CmdRef)
  /-- MIRROR_SYNC, R448. -/
  | mirrorSync (c : CmdRef)
  /-- MIRROR_RESTORE, R449. -/
  | mirrorRestore (c : CmdRef) (m : Medium)
  /-- MIRROR_STOP_SOURCE, R450. -/
  | mirrorStopSource (c : CmdRef)
  /-- MIRROR_STOP_HOST, R445. -/
  | mirrorStopHost (c : CmdRef)
  /-- CKPT_TAKE, R451. -/
  | ckptTake (c : CmdRef) (m : Medium)
  /-- CKPT_RESTORE, R455. -/
  | ckptRestore (c : CmdRef) (m : Medium)
  /-- CKPT_SCHED, R454. -/
  | ckptSched (c : CmdRef)
  /-- PKG_RESET_ASSERT, R506. -/
  | pkgResetAssert
  /-- PKG_RESET_RELEASE, R508. -/
  | pkgResetRelease (clocks : BitVec 4)
  /-- BOOT_COMPLETE, R508. -/
  | bootComplete (expect : Byte) (addr : BitVec 24) (dims : BitVec 26) (tags : Bool) (bad : BitVec 20)
  /-- PERST_ASSERT, R473. -/
  | perstAssert (link : LinkId)
  /-- PERST_RELEASE, R507. -/
  | perstRelease (link : LinkId)
  /-- HOST_LINK_DOWN, R473. -/
  | hostLinkDown (link : LinkId)
  /-- HOST_LINK_ERROR, R256. -/
  | hostLinkError (link : LinkId) (bay : BayId) (va : BitVec 57) (fill : Bool) (poisoned : Option Nat)
  /-- BAR2_ACCESS, R469. -/
  | bar2Access (link : LinkId) (off : BitVec 40) (len : Nat) (data : Option (List Byte)) (m : Medium)
  /-- MSIX_UNMASK, R472. -/
  | msixUnmask (link : LinkId) (en mask : Bool)
  /-- SNP_INV, R476. -/
  | snpInv (line : BitVec 58)
  /-- SNP_DATA, R476. -/
  | snpData (line : BitVec 58)
  /-- SNP_CUR, R476. -/
  | snpCur (line : BitVec 58)
  /-- GO_WRITE_PULL, R477. -/
  | goWritePull (line : BitVec 58) (drop : Bool)
  /-- GO_WAIT_EXPIRY, R478. -/
  | goWaitExpiry (line : BitVec 58)
  /-- CC_WIN_CFG_WRITE, R475. -/
  | ccWinCfgWrite (win : BitVec 3) (data : W32)
  /-- CC_FLUSH_DONE, R475. -/
  | ccFlushDone
  /-- MGMT_RESET_ASSERT, R479. -/
  | mgmtResetAssert
  /-- ISLAND_RESTART, R479. -/
  | islandRestart (powerUp ok : Bool) (straps : BitVec 3)
  /-- ISLAND_LOAD_RESTART, R479. -/
  | islandLoadRestart (ok : Bool)
  /-- ENTDAA, R480. -/
  | entdaa (port : Fin 2)
  /-- SETDASA, R480. -/
  | setdasa (port : Fin 2) (addr : BitVec 7)
  /-- RSTDAA, R480. -/
  | rstdaa (port : Fin 2)
  /-- MCTP_PACKET, R482. -/
  | mctpPacket (ep : BitVec 2) (pec : Bool) (src dst : Byte) (tag : BitVec 4) (seq : BitVec 2) (som eom : Bool) (bytes : List Byte)
  /-- MCTP_REASM_TIMEOUT, R482. -/
  | mctpReasmTimeout (ep : BitVec 2) (src : Byte) (tag : BitVec 4)
  /-- SET_ENDPOINT_ID, R482. -/
  | setEndpointId (ep : BitVec 2) (eid : Byte)
  /-- SMBUS_ARA_READ, R509. -/
  | smbusAraRead (port : Fin 2)
  /-- SENSOR_REFRESH, R484. -/
  | sensorRefresh (power power1s amps : W16) (dies stk : List Byte)
  /-- GET_SENSOR_READING, R484. -/
  | getSensorReading (ep : BitVec 2) (src : Byte) (inst : BitVec 5) (sensor : W16)
  /-- PLDM_EVENT_RETRY, R485. -/
  | pldmEventRetry (id : Nat)
  /-- REQUEST_FIRMWARE_DATA, R488. -/
  | requestFirmwareData (ep : BitVec 2) (bytes : List Byte) (last : Bool)
  /-- VERIFY_COMPLETE, R488. -/
  | verifyComplete (ep : BitVec 2) (ua : Byte)
  /-- APPLY_COMPLETE, R488. -/
  | applyComplete (ep : BitVec 2) (ua : Byte)
  /-- ACTIVATE_FIRMWARE, R490. -/
  | activateFirmware (ep : BitVec 2) (src : Byte) (inst : BitVec 5)
  /-- INTAKE_RESUME, R490. -/
  | intakeResume
  /-- ACTIVATION_WATCHDOG, R490. -/
  | activationWatchdog
  /-- FW_TRIAL_EXPIRY, R489. -/
  | fwTrialExpiry
  /-- GET_IDENTITY, R493. -/
  | getIdentity (h : MgmtHdr)
  /-- GET_HEALTH, R493. -/
  | getHealth (h : MgmtHdr)
  /-- READ_DEVLOG, R493. -/
  | readDevlog (h : MgmtHdr) (pos : W32)
  /-- GET_PORTS, R493. -/
  | getPorts (h : MgmtHdr)
  /-- SET_FABRIC, R493. -/
  | setFabric (h : MgmtHdr) (addr dims time : W32)
  /-- SET_PORT, R493. -/
  | setPort (h : MgmtHdr) (port : PortId) (expect sticky : Bool)
  /-- SET_PASS_SLOTS, R356. -/
  | setPassSlots (h : MgmtHdr) (port : PortId) (mask : W64) (job : W16)
  /-- SET_ALIAS, R353. -/
  | setAlias (h : MgmtHdr) (entry : BitVec 4) (logical physical : BitVec 24) (valid : Bool)
  /-- FW_COMMIT, R489. -/
  | fwCommit (h : MgmtHdr)
  /-- SVN_ADVANCE, R489. -/
  | svnAdvance (h : MgmtHdr) (n : Byte)
  /-- DEVICE_SCRUB, R419. -/
  | deviceScrub (h : MgmtHdr)
  /-- DIE_POWER, R432. -/
  | diePower (h : MgmtHdr) (die op : Byte)
  /-- SET_BAY_BUDGET, R220. -/
  | setBayBudget (h : MgmtHdr) (watts : W16)
  /-- RAIL_POWER_FAIL, R498. -/
  | railPowerFail (rail : BitVec 3)
  /-- RAIL_RISE, R500. -/
  | railRise (rail : BitVec 3)
  /-- REFCLK_LOSS, R503. -/
  | refclkLoss (clock : Fin 5)
  /-- THERMAL_EMERGENCY, R512. -/
  | thermalEmergency
  /-- THERMAL_CLAMP_RELEASE, R512. -/
  | thermalClampRelease
  /-- THERMAL_TRIP, R513. -/
  | thermalTrip
  /-- TEST_EN_ASSERT, R517. -/
  | testEnAssert
  /-- HOST_LINK_UP, R507. -/
  | hostLinkUp (link : LinkId) (rate : BitVec 3) (width : BitVec 5) (flit cxl : Bool) (bar2 : BitVec 4)
  /-- H2D_GO, R476. -/
  | h2dGo (line : BitVec 58) (data : List Byte) (excl : Bool)
  /-- TIME_PPS_OUTPUT, R504. -/
  | timePpsOutput
  /-- TEST_EN_RELEASE, R517. -/
  | testEnRelease
  deriving DecidableEq, Repr

end Sys2Proof
end

