-- ==== Sys2Proof/Decode.lean ====
section
/-! DEFINITION. Commands that a word spells: the opcode table gives no row any bits, so there is none. -/

namespace Sys2Proof

/-- (log entry 1: DESIGN CHOICE) -/
def decodeTableWord (_nbits _w : Nat) : Option Instr := none

end Sys2Proof
end

