-- ==== Sys2Proof/Machine/Crc.lean ====
section
/-! DEFINITION. The two CRCs of the spec and the byte-order helpers: CRC-32 (IEEE 802.3) of journal
entries and error records (R200, R426), CRC-16-CCITT of fabric headers (R348), little-endian words (R4). -/

namespace Sys2Proof.Machine

/-- Little-endian bytes of a value. -/
def bytesLE (n x : Nat) : List Nat := (List.range n).map fun i => (x >>> (8 * i)) % 256

def ofBytesLE (l : List Nat) : Nat := l.foldr (fun b a => a * 256 + b) 0

/-- Bytes of 32-bit words in address order. -/
def wordBytes (ws : List Nat) : List Nat := ws.flatMap (bytesLE 4)

/-- 32-bit words of a byte string in address order. -/
def bytesToWords (n : Nat) (bs : List Nat) : List Nat :=
  (List.range n).map fun i => ofBytesLE ((bs.drop (4 * i)).take 4)

def crc32Bit (c : Nat) : Nat := if c % 2 = 1 then (c / 2) ^^^ 0xEDB88320 else c / 2

def crc32Byte (c b : Nat) : Nat :=
  crc32Bit (crc32Bit (crc32Bit (crc32Bit (crc32Bit (crc32Bit (crc32Bit (crc32Bit (c ^^^ b))))))))

/-- CRC-32 of IEEE 802.3. -/
def crc32 (bs : List Nat) : Nat := (bs.foldl crc32Byte 0xFFFFFFFF) ^^^ 0xFFFFFFFF

def crc16Bit (c : Nat) : Nat := if 0x8000 ≤ c then (2 * c % 0x10000) ^^^ 0x1021 else 2 * c

def crc16Byte (c b : Nat) : Nat :=
  crc16Bit (crc16Bit (crc16Bit (crc16Bit (crc16Bit (crc16Bit (crc16Bit (crc16Bit (c ^^^ (b * 256)))))))))

/-- HCRC of R348: polynomial 0x1021, initial value 0xFFFF, no reflection, no final XOR. -/
def crc16 (bs : List Nat) : Nat := bs.foldl crc16Byte 0xFFFF

end Sys2Proof.Machine
end

