-- ==== Sys2Proof/Config.lean ====
section
/-! DEFINITION. What the spec leaves to the part or leaves open: constants without a body, so that no
proof can see a value of theirs. Each is named by a row of the assumption log. -/

namespace Sys2Proof.Config

/-- A fresh value the spec does not state, the n-th one drawn (R134 loft contents, drawn nonces). (log entry 3: DESIGN CHOICE) -/
opaque freeValue : Nat → Nat

/-- The fixed functions exp, log and rsqrt of R114, on FP32 encodings. (log entry 9: DESIGN CHOICE) -/
opaque fpExp : BitVec 32 → BitVec 32
opaque fpLog : BitVec 32 → BitVec 32
opaque fpRsqrt : BitVec 32 → BitVec 32

/-- The FP32 cross-lane sum of R150 under a rounding mode: the spec fixes it but states no order. (log entry 10: DESIGN CHOICE) -/
opaque rsum : Nat → List (BitVec 32) → BitVec 32

/-- SHL, SHR and SRA (0, 1, 2) of a lane by 32 or more: no result is stated. (log entry 11: DESIGN CHOICE) -/
opaque shiftWide : Nat → BitVec 32 → BitVec 32 → BitVec 32

/-- The private scalar of the Alias key for the measurements M0, M1 and M2 (R398: derived from the device secret in the
manner of TCG DICE; the spec gives no formula), and the certificate chain of SPDM slot 0 that carries them.
(log entry 16: DESIGN CHOICE) -/
opaque aliasKey : List Nat → Nat
opaque certChain : List Nat → List Nat

/-- A firmware image (R396, R487), whose layout is not stated: whether its signature verifies under a fused root that is
not revoked and its components match the digests of its header; its SVN; and its components: 0 boot loader, 1
command-processor, 2 Grithal, 3 edge-die, 4 management-island firmware. (log entry 14: DESIGN CHOICE) -/
opaque imageSigned : List (BitVec 8) → Bool
opaque imageSvn : List (BitVec 8) → BitVec 7
opaque imagePart : List (BitVec 8) → Nat → List Nat

/-- The boot ROM's digest (Table 14-2), the fused root revocation bits (R396), the digest of the configuration that M4 is
extended with (its encoding is not stated), by fused SVN minimum, revocation bits and HBM_TAG_EN, and the digest of the
island's ROM firmware (R479). (log entry 14: DESIGN CHOICE) -/
opaque bootRom : List Nat
opaque revoked : BitVec 4
opaque configDigest : Nat → Nat → Nat → List Nat
opaque islandRom : List Nat

/-- The digest that an SPDM signature covers, a transcript under DSP0274, by response and its values (R409), and the
secret of a session by its shared x-coordinate and transcript. (log entry 16: DESIGN CHOICE) -/
opaque spdmDigest : Nat → List Nat → List Nat
opaque spdmSecret : Nat → List Nat → Nat

/-- The bay that a REMOTE stream of a bay addresses on another device: a packet names one (Table 12-6), a stream
descriptor does not (Table 05-8). (log entry 13: DESIGN CHOICE) -/
opaque remoteBay : Nat → Nat → BitVec 4

/-- A byte of a loft whose contents a partial reset lost (R134): the draw that stands for the loss and the
loft address; none is a word that reads as poisoned. (log entry 12: DESIGN CHOICE) -/
opaque lostByte : Nat → Nat → Option (BitVec 8)

/-- The 16-byte authentication tag of a management packet on a port's link, under the key its ends agreed (R408: the
agreement's derivation is not stated). (log entry 16: DESIGN CHOICE) -/
opaque mgmtTag : Nat → List Nat → Nat

/-- Device constants set at manufacture: serial number (R40), fuses naming failed engines of a die (R462).
(log entry 15: DESIGN CHOICE) -/
opaque serial : BitVec 64
opaque fusedFailed : Nat → BitVec 52

end Sys2Proof.Config
end

