-- ==== Sys2Proof/Machine/Output.lean ====
section
/-! DEFINITION. What the block sends out: completions of accesses, host-link requests, messages and
packets, in the order they are sent. -/

namespace Sys2Proof.Machine

/-- CXL.cache messages of the device to its host (R476, R477, Table 16-2). -/
inductive CcMsg where
  | rdShared (line : Nat)
  | rdOwn (line : Nat)
  | dirtyEvict (line : Nat)
  | cleanEvictNoData (line : Nat)
  | rspIFwdM (line : Nat) (data : List Byte)
  | rspSFwdM (line : Nat) (data : List Byte)
  | rspVFwdV (line : Nat) (data : List Byte)
  | rspIHitSE (line : Nat)
  | rspSHitSE (line : Nat)
  | rspIHitI (line : Nat)
  | rspVHitV (line : Nat)
  | data (line : Nat) (data : List Byte) (bogus : Bool)
  deriving DecidableEq, Repr

/-- How a BAR2 or HDM read is answered (R469). -/
inductive Bar2Reply where
  | data (bytes : List Byte) (poisoned : Bool)
  | allOnes
  | completerAbort
  deriving DecidableEq, Repr

/-- SPDM responses (R409): blocks of MEASUREMENTS by index; an ERROR with its code, data and token. -/
inductive SpdmRsp where
  | version (minor : Nat)
  | capabilities
  | algorithms (sign hash dhe aead : Bool)
  | digests (slots : Nat) (digest : List Nat)
  | certificate (slot : Nat) (portion : List Nat) (remainder : Nat)
  | challengeAuth (slot : Nat) (chain nonce signature : List Nat)
  | measurements (blocks : List (Nat × List Nat)) (nonce signature : List Nat)
  | keyExchange (session : Nat) (pub signature : List Nat)
  | finish
  | endSessionAck
  | error (code data : Nat) (token : Option Nat)
  deriving DecidableEq, Repr

/-- One thing the block sends. -/
inductive Output where
  | readData (link addr size data : Nat)
  | hostWrite (link addr : Nat) (bytes : List Byte)
  | hostRead (link addr len : Nat)
  | t3Read (link addr len : Nat)
  | t3Write (link addr ver : Nat) (bytes : List PByte) (plain : Bool)
  | msix (link vec addr data : Nat)
  | cc (m : CcMsg)
  | bar2 (link : Nat) (r : Bar2Reply)
  | loftAnswer (die status : Nat) (bytes : List PByte)
  | memAnswer (bay va status : Nat) (bytes : List PByte)
  | meshDeliver (die id : Nat)
  | meshAnswer (die id : Nat)
  | meshEnd (die id status : Nat)
  | fabric (port : Nat) (bytes : List Byte)
  | replay (port seq : Nat)
  | replayRequest (port seq : Nat)
  | burst (port : Nat)
  | spdm (ep : Nat) (r : SpdmRsp)
  | mgmt (ep dst cmd completion : Nat) (words : List Nat)
  | pldm (ep dst : Nat) (words : List Nat)
  | pldmEvent (ep id kind src value : Nat)
  | received (ep src type : Nat) (bytes : List Byte)
  | inBand (port : Nat)
  | araAnswer (port address : Nat)
  | firmwareRequest (offset len : Nat)
  deriving DecidableEq, Repr

end Sys2Proof.Machine
end

