-- ==== Sys2Proof/Machine/Map.lean ====
section
/-! DEFINITION. Operations on sparse maps in canonical form: keys strictly rising, no entry equal to
the default of its key. Registers, memories and tables of the state are held this way. -/

namespace Sys2Proof.Machine

/-- The value at key `k`, or `d k` where the map lists none. -/
def mget {α : Type} (d : Nat → α) (m : SMap α) (k : Nat) : α :=
  match m with
  | [] => d k
  | (k', v) :: r => if k' = k then v else mget d r k

/-- The map without an entry at `k`. -/
def merase {α : Type} (m : SMap α) (k : Nat) : SMap α :=
  match m with
  | [] => []
  | (k', v) :: r => if k' = k then r else (k', v) :: merase r k

/-- The map with `v` listed at `k`, in key order. -/
def minsert {α : Type} (m : SMap α) (k : Nat) (v : α) : SMap α :=
  match m with
  | [] => [(k, v)]
  | (k', v') :: r =>
    if k < k' then (k, v) :: (k', v') :: r
    else if k = k' then (k, v) :: r
    else (k', v') :: minsert r k v

/-- Writing `v` at `k`: writing the default removes the entry, so that equal maps are equal lists. -/
def mset {α : Type} [DecidableEq α] (d : Nat → α) (m : SMap α) (k : Nat) (v : α) : SMap α :=
  if v = d k then merase m k else minsert m k v

/-- The entry at `k` replaced by its image under `f`. -/
def mmod {α : Type} [DecidableEq α] (d : Nat → α) (m : SMap α) (k : Nat) (f : α → α) : SMap α :=
  mset d m k (f (mget d m k))

/-- Every entry whose key satisfies `p` returned to its default. -/
def mclear {α : Type} (m : SMap α) (p : Nat → Bool) : SMap α :=
  m.filter fun e => !p e.1

/-- Every entry replaced by its image under `f`; an image that is the default is not listed. -/
def mmap {α : Type} [DecidableEq α] (d : Nat → α) (m : SMap α) (f : α → α) : SMap α :=
  (m.map fun e => (e.1, f e.2)).filter fun e => decide (e.2 ≠ d e.1)

/-- Keys strictly rising, all above `lo`, and no entry at its default. -/
def mwfFrom {α : Type} [DecidableEq α] (d : Nat → α) (lo : Option Nat) (m : SMap α) : Bool :=
  match m with
  | [] => true
  | (k, v) :: r =>
    (match lo with
      | none => true
      | some l => decide (l < k)) && decide (v ≠ d k) && mwfFrom d (some k) r

/-- The canonical form of a sparse map. -/
def mwf {α : Type} [DecidableEq α] (d : Nat → α) (m : SMap α) : Bool := mwfFrom d none m

end Sys2Proof.Machine
end

