-- ==== Sys2Proof/Machine/EngState.lean ====
section
/-! DEFINITION. The state of one engine (chapters 02 to 05): scratchpad, accumulator store, vector
registers, stationary sets, sentinel tags, instruction buffer, issue queue, transfers, and the running
tile program. Register values of the engine block are in the register file of Machine/State.lean. -/

namespace Sys2Proof.Machine

/-- A stationary register set (R51, R52, R148): the packed cell rows (row i at byte 96 * i), the scale
string, and the FMT_S, FMT_W and SCALE_W of the SLOAD that filled it. -/
structure StatSet where
  filled : Bool
  fmtS : Nat
  fmtW : Nat
  scaleW : Nat
  rows : SMap Byte
  scales : SMap Byte
  deriving DecidableEq, Repr

def StatSet.empty : StatSet := ⟨false, 0, 0, 0, [], []⟩

/-- A sentinel tag (R69). -/
structure Tag where
  ready : Nat
  hold : Nat
  pend : Nat
  deriving DecidableEq, Repr

def Tag.zero : Tag := ⟨0, 0, 0⟩

/-- A program image as the instruction buffer holds it (R162, Table 05-12). -/
structure Image where
  schedMin : Nat
  bytes : Nat
  words : List W128
  descs : List (List W32)
  pds : List W64
  vms : List W32
  rcs : List (List W32)
  deriving DecidableEq, Repr

/-- A resident image: its handle, its load base PROG_BASE and the buffer words it takes (R162). -/
structure Resident where
  handle : W32
  base : Nat
  used : Nat
  img : Image
  lastLaunch : Nat
  deriving DecidableEq, Repr

/-- How far the image of a waiting launch has come (R165). -/
inductive FetchState where
  | needed                    -- not resident, no fetch started
  | fetching                  -- a fetch is in progress
  | ready                     -- resident
  | failed (status : Nat)     -- the fetch or the image check failed
  deriving DecidableEq, Repr

/-- A launch entry of the issue queue (R66): the command that made it, its stream context, priority,
age and launch parameters. -/
structure Launch where
  q : Nat
  seq : Nat
  bay : Nat
  ctx : Nat
  prio : Nat
  age : Nat
  handle : W32
  va : Nat
  params : List W32
  fetch : FetchState
  replay : Bool
  deriving DecidableEq, Repr

/-- An address stream: the descriptor of Table 05-8 as last set, its step number, the cycles in which
issued operations take its steps, and the index line last read (R155 to R158). -/
structure AStream where
  kind : Nat
  indirect : Bool
  idxDim : Nat
  icount : Nat
  base : W32
  stride0 : W32
  stride1 : W32
  stride2 : W32
  count0 : Nat
  count1 : Nat
  indexWord : W32
  istride : W32
  pos : Nat
  busy : Nat
  windows : List (Nat × Nat)
  line : Option (Nat × List W32)
  lineCyc : Nat
  deriving DecidableEq, Repr

def AStream.zero : AStream :=
  ⟨0, false, 0, 0, 0, 0, 0, 0, 65536, 65536, 0, 0, 0, 0, [], none, 0⟩

/-- One row of a pass on its way through the array (R57): the streamed bytes and block scales, the set
it meets, its descriptor, the FP32 scales, where its result goes and its random bits. -/
structure PassRow where
  enter : Nat
  bytes : List Byte
  scales : List Byte
  set : StatSet
  pd : W64
  ga : W32
  gb : W32
  acc : Option Nat
  outAddr : Option Nat
  outKind : Nat
  outDev : Nat
  draws : List Nat
  last : Bool
  deriving DecidableEq, Repr

/-- What a timed write puts where when it lands. -/
inductive Land where
  | spad (addr : Nat) (bytes : List Byte)
  | acc (slot : Nat) (ws : List W32)
  | vreg (r : Nat) (ws : List W32)
  | setRow (k row : Nat) (bytes : List Byte)
  | setScale (k line : Nat) (bytes : List Byte)
  | pass (p : PassRow)
  | mesh (kind addr dev : Nat) (bytes : List Byte)
  deriving DecidableEq, Repr

/-- A timed write of the running program and the schedule cycle it lands in (readable one later). -/
structure Landing where
  cyc : Nat
  what : Land
  deriving DecidableEq, Repr

/-- The slot operation about to issue: instruction-word index, word, slot number and cycle (R143). -/
structure Cur where
  pc : Nat
  word : W128
  slot : Nat
  cyc : Nat
  deriving DecidableEq, Repr

/-- A held WAITT or WAITE (R144). -/
structure Wait where
  isTag : Bool
  mask : Nat
  quiesce : Bool
  deriving DecidableEq, Repr

/-- An active loop (R146): its first and last body word and the iterations left, this one included. -/
structure LoopFrame where
  first : Nat
  last : Nat
  left : Nat
  deriving DecidableEq, Repr

/-- An address-generation result, usable from the next cycle (R154). -/
inductive AgenWrite where
  | none
  | stream (i : Nat) (st : AStream)
  | base (i : Nat) (b : W32)
  | rewind (i : Nat)
  | sreg (i : Nat) (v : W32)
  deriving DecidableEq, Repr

/-- A timed access to a scratchpad bank in a schedule cycle (R119 to R121). -/
structure BankUse where
  cyc : Nat
  bank : Nat
  deriving DecidableEq, Repr

/-- A failed check and the schedule cycle it fails in (R70, R72, R73, R526): its status, slot, word and
the location fields of Table 05-15. -/
structure Failure where
  cyc : Nat
  status : Nat
  slot : Nat
  pc : Nat
  kind : Nat
  loc : Nat
  expected : Nat
  actual : Nat
  deriving DecidableEq, Repr

/-- An asynchronous transfer (R153): opcode 5 LFTR, 6 LFTW, 7 XPUT, 8 XGET. -/
structure Xfer where
  tag : Nat
  op : Nat
  src : Nat
  dst : Nat
  dev : Nat
  len : Nat
  issue : Nat
  order : Nat
  ctx : Nat
  bay : Nat
  prog : Nat
  deriving DecidableEq, Repr

/-- A write that an XPUT or LFTW of program `prog` sent and that is not yet acknowledged, and a posted
SIGE waiting behind the ones before it (R185). -/
structure SigePost where
  event : Nat
  bay : Nat
  prog : Nat
  cyc : Nat
  deriving DecidableEq, Repr

/-- The running tile program. `xfail`: the failed transfer first in issue order (R153): its issue cycle, status and
details. -/
structure Run where
  launch : Launch
  prog : Nat
  base : Nat
  img : Image
  start : W64
  cur : Option Cur
  wait : Option Wait
  waited : Nat
  loops : List LoopFrame
  release : Option Nat
  sregs : List W32
  streams : List AStream
  agen : AgenWrite
  feedEnd : Nat
  loadEnd : Nat
  setFree : Nat
  feedPd : Option W64
  vecFree : Nat
  lanes : List (Nat × Nat)
  uses : List BankUse
  fails : List Failure
  xfail : Option (Nat × Nat × Nat × Nat)
  debug : Bool
  deriving DecidableEq, Repr

/-- A transfer issued in cycle `issue` has failed: the first in issue order gives the launch its status (R153). -/
def Run.failXfer (r : Run) (issue st d0 d1 : Nat) : Run :=
  match r.xfail with
  | none => { r with xfail := some (issue, st, d0, d1) }
  | some y => if issue < y.1 then { r with xfail := some (issue, st, d0, d1) } else r

/-- What an engine's step asks of the rest of the device; empty between steps. -/
inductive EngOut where
  | ended (status d0 d1 : Nat)
  | fault (f : Failure) (more : Bool) (last : Nat)
  | sige (event cyc : Nat)
  | busy (cycles : Nat)
  | freezeFeed (cycles : Nat)
  | freezeDrain (cycles : Nat)
  | passes (n : Nat)
  | flags (w : W64)
  | rng (blocks : Nat)
  | stall (pc slot cycles sched cause ctx : Nat)
  | mesh (cyc kind addr dev : Nat) (bytes : List Byte)
  | sram (unit word : Nat) (uncorr : Bool)
  | scyc (cyc : Nat)
  deriving DecidableEq, Repr

/-- The state of one physical engine. `lost`: a replay clear wrote the lost code everywhere (R437), and `kept`
names what has been written whole since: scratchpad words, accumulator slots from 2^20, registers from 2^21. -/
structure Engine where
  spad : SMap Byte
  poison : SMap Bool
  acc : SMap W32
  vreg : SMap W32
  set0 : StatSet
  set1 : StatSet
  active : Nat
  tags : SMap Tag
  evFlags : BitVec 256
  xfers : List Xfer
  unacked : List Xfer
  resident : List Resident
  iq : List Launch
  siges : List SigePost
  flight : List Landing
  run : Option Run
  progs : Nat
  promoted : List Nat
  testing : Bool
  lost : Bool
  kept : SMap Bool
  outs : List EngOut
  deriving DecidableEq, Repr

/-- An engine whose structures hold nothing: after power-up, a hardware clear or a die reset
(R76, R77, R132). -/
def Engine.zero : Engine :=
  { spad := [], poison := [], acc := [], vreg := [], set0 := .empty, set1 := .empty, active := 0,
    tags := [], evFlags := 0, xfers := [], unacked := [], resident := [], iq := [], siges := [],
    flight := [], run := none, progs := 0, promoted := [], testing := false,
    lost := false, kept := [], outs := [] }

end Sys2Proof.Machine
end

