-- ==== Sys2Proof/Machine/Parts.lean ====
section
/-! DEFINITION. The parts of the state that no register holds: commands in flight, queue fetching,
admission, phase timers (chapters 06, 07), objects, slabs and lower-tier accesses (chapter 08), error
records and domains (chapter 15), the host links and the coherent cache (chapter 16). -/

namespace Sys2Proof.Machine

/-! ### Commands (chapter 06) -/

/-- How far an accepted command has come (R176, R186, R189, R184). -/
inductive CmdPhase where
  | accepted                        -- accepted, unstarted
  | stopped                         -- stopped at the queue's breakpoint (R197)
  | started
  | finished (st d0 d1 : Nat)       -- its work has ended; the completion is not yet written
  | signalling (st : Nat)           -- completed; its signal is not yet applied
  deriving DecidableEq, Repr

/-- A command's standing with admission (R216, R217). -/
inductive AdmState where
  | none | waiting | granted | expired
  deriving DecidableEq, Repr

/-- One engine of a TILE_LAUNCH (R180): logical and physical engine, whether its launch has entered the
issue queue, and how its program ended. -/
structure Part where
  log : Nat
  phys : Nat
  entered : Bool
  done : Bool
  status : Nat
  d0 : Nat
  d1 : Nat
  flags : W64
  replay : Bool
  deriving DecidableEq, Repr

/-- An accepted command: queue, sequence number, bay (none: admin queue), packet words, header position,
journal position, KTIME of acceptance and of start, phase, whether an error record was written for it, its admission,
whether its opcode has begun its work, whether pre-emption has stopped it at a boundary, bytes or steps done, its launches, and its remote signal. -/
structure Cmd where
  q : Nat
  seq : Nat
  bay : Option Nat
  words : List W32
  pos : Nat
  jpos : Nat
  accept : Nat
  startAt : Nat
  phase : CmdPhase
  errRec : Bool
  adm : AdmState
  ran : Bool
  paused : Bool
  done : Nat
  parts : List Part
  sigSent : Bool
  sigRes : Option Nat
  deriving DecidableEq, Repr

/-- Field `[lo + w - 1 : lo]` of word `i` of a packet (header words 0 to 15, parameters from 16). -/
def wordField (ws : List W32) (i lo w : Nat) : Nat := bitsAt (ws.getD i 0).toNat lo w
def Cmd.f (c : Cmd) (i lo w : Nat) : Nat := wordField c.words i lo w
/-- Parameter word `i` (word 0 of parameter slot 0 is packet word 16). -/
def Cmd.p (c : Cmd) (i lo w : Nat) : Nat := wordField c.words (16 + i) lo w
/-- A 64-bit value in parameter words `i` and `i + 1`. -/
def Cmd.p64 (c : Cmd) (i : Nat) : Nat := c.p i 0 32 + c.p (i + 1) 0 32 * 2 ^ 32
def Cmd.op (c : Cmd) : Nat := c.f 0 0 8
def Cmd.tag (c : Cmd) : Nat := c.f 1 0 32

/-- What a queue does beside its registers: doorbells not yet fetched with their arrival order (R176), the
packet read in progress (R176, R193), a pending DISABLE (Table 06-10), the start of a pre-emption, and the tail at which a packet was only partly
covered (R174). -/
structure QueueX where
  dbs : List (Nat × Nat)
  fetch : Option Nat
  retry : Bool
  disabling : Bool
  preAt : Nat
  short : Option Nat
  deriving DecidableEq, Repr

def QueueX.zero : QueueX := ⟨[], none, false, false, 0, none⟩

/-- A journal entry (Table 06-12). -/
structure JEntry where
  jpos : Nat
  q : Nat
  bay : Nat
  admin : Bool
  op : Nat
  state : Nat
  seq : Nat
  tag : Nat
  status : Nat
  slot : Nat
  kt : Nat
  deriving DecidableEq, Repr

/-- The entry of reset: STATE FREE (Table 06-12). -/
def JEntry.free : JEntry := ⟨0, 0, 0, false, 0, 0, 0, 0, 0, 0, 0⟩

/-! ### Bays (chapter 07) -/

/-- A waiting admission request (R216): its bay, command, the units it asks of each class, its priority
and age. -/
structure AdmReq where
  bay : Nat
  q : Nat
  seq : Nat
  needs : List (Nat × Nat)
  prio : Nat
  accept : Nat
  deriving DecidableEq, Repr

/-- A phase timer (R224, R225). -/
structure PhaseTimer where
  armed : Bool
  q : Nat
  micro : Nat
  start : Nat
  budget : Nat
  ovrSig : Bool
  ovrEvent : Nat
  late : Bool
  deriving DecidableEq, Repr

def PhaseTimer.zero : PhaseTimer := ⟨false, 0, 0, 0, 0, false, 0, false⟩

/-- A bay's teardown and scrub (R208, R209): KTIME at which the teardown started, compute dies whose clear has not
ended and those whose clear failed, whether the channel groups' erase is still to end, and HBM_MODE. -/
structure BayX where
  tdAt : Nat
  clearing : Nat
  failed : Nat
  erasing : Bool
  zeroFill : Bool
  deriving DecidableEq, Repr

def BayX.zero : BayX := ⟨0, 0, 0, false, false⟩

/-- A unit of class 1 or 3 lent by one OPEN bay to another (R219); for class 1 the slab lent. -/
structure Lend where
  cls : Nat
  lender : Nat
  borrower : Nat
  slab : Nat
  deriving DecidableEq, Repr

/-! ### Memory (chapter 08) -/

/-- Who keeps writes out of an object, beside its RO attribute: a mirror region (R446) or a generator
model's area. -/
inductive ObjOwner where
  | user
  | mirror
  | rethatch (m : Nat)
  deriving DecidableEq, Repr

/-- The home that a MIGRATE gives an object (R249): tier and attributes, host addresses, groups. -/
structure NewHome where
  home : Nat
  fill : Bool
  wb : Bool
  link : Nat
  t3 : Nat
  t3tag : Nat
  groups : Nat
  deriving DecidableEq, Repr

/-- An object (R237, Table 08-3): first slab number, slabs, home tier and attributes, host addresses,
groups, its migration state (Table 08-7: 0 stable, 1 MIGRATING, 2 MIXED) and the home of the slabs that have flipped. -/
structure Obj where
  bay : Nat
  base : Nat
  n : Nat
  home : Nat
  fill : Bool
  wb : Bool
  ro : Bool
  link : Nat
  plain : Bool
  layout : Nat
  fmt : Nat
  t3 : Nat
  t3tag : Nat
  groups : Nat
  migr : Nat
  alt : Option NewHome
  owner : ObjOwner
  deriving DecidableEq, Repr

/-- A T2 copy of a T3 slab (R245 to R248): its slab, whether it is dirty, written
again while it is written back, or busy with a fill or a write-back, its age epoch and
filing order, the bay it is borrowed from, and the schedule whose window holds it. -/
structure T2Copy where
  loc : Nat
  dirty : Bool
  again : Bool
  filling : Bool
  wbFail : Bool
  epoch : Nat
  filed : Nat
  lender : Option Nat
  window : Option Nat
  deriving DecidableEq, Repr

/-- A mapped slab: its T2 home if it has one, the ZERO mark (R239), a copy, the T3 version (R252),
whether the slab is COPYING and whether it has flipped to the object's new home (Table 08-7). -/
structure Slab where
  home : Option Nat
  zero : Bool
  copy : Option T2Copy
  ver : Nat
  moving : Bool
  flipped : Bool
  deriving DecidableEq, Repr

def Slab.none : Slab := ⟨Option.none, false, Option.none, 0, false, false⟩

/-- Who waits for a lower-tier access. -/
inductive Waiter where
  | cmd (q seq : Nat)
  | ring (q : Nat)
  | xfer (die eng tag : Nat)
  | image (die eng : Nat)
  | sched (bay n : Nat)
  | dev
  deriving DecidableEq, Repr

/-- An outstanding T3 access (R247, R256): a fill of a slab with the lines that have landed and those whose tag did
not verify, or a direct read of bytes with its data; how it ended, and whether it is a demand fill. -/
structure T3Acc where
  bay : Nat
  slab : Nat
  link : Nat
  va : Nat
  len : Nat
  fill : Bool
  waiters : List Waiter
  res : Option Nat
  data : List PByte
  landed : List Nat
  bad : List Nat
  demand : Bool
  deriving DecidableEq, Repr

/-- A T3 access that expired: its first late arrival writes one error record (R256, R431). -/
structure T3Late where
  bay : Nat
  slab : Nat
  recorded : Bool
  deriving DecidableEq, Repr

/-- A prefetch schedule (R248). -/
structure Sched where
  loop : Bool
  trigger : Nat
  ahead : Nat
  base : Nat
  steps : List (Nat × Nat)
  reserve : Nat
  late : List Nat
  deriving DecidableEq, Repr

/-! ### The key-value cache (chapter 09) -/

/-- A sequence that is not FREE (R265): state (Table 09-2), LENGTH, ADAPTER, the slabs of each allocated block (none
while SWAPPED), the number of blocks, page-table slabs counted for it, its swap area, and the pages digested, at
page * 2^14 + layer * 64 + group. -/
structure KvSeq where
  bay : Nat
  pool : Nat
  seq : Nat
  state : Nat
  len : Nat
  adapter : Nat
  blocks : List (List Nat)
  nblk : Nat
  tables : Nat
  swapVa : Nat
  digested : SMap Bool
  deriving DecidableEq, Repr

/-- A slot of a window: its page, whether it is stale, and when it was last selected (R274). -/
structure KvSlot where
  slot : Nat
  seq : Nat
  page : Nat
  stale : Bool
  last : Nat
  deriving DecidableEq, Repr

/-- An appended position not yet committed (R274): its sequence, K slot, and place in APPEND_IDX order. -/
structure KvAppend where
  seq : Nat
  pos : Nat
  slot : Nat
  idx : Nat
  deriving DecidableEq, Repr

/-- A bound window (R269): its binding, slot map, appends, and the address of its V new rows area. -/
structure KvWin where
  bay : Nat
  win : Nat
  pool : Nat
  layer : Nat
  group : Nat
  die : Nat
  eng : Nat
  ctx : Nat
  base : Nat
  nslot : Nat
  maxp : Nat
  slots : List KvSlot
  appends : List KvAppend
  newRows : Nat
  deriving DecidableEq, Repr

structure KvState where
  seqs : List KvSeq
  wins : List KvWin
  deriving DecidableEq, Repr

/-! ### Faults (chapter 15) -/

/-- An error record (Table 15-1). -/
structure ErrRec where
  status : Nat
  level : Nat
  nest : Nat
  late : Bool
  die : Nat
  inc : Nat
  unit : Nat
  idx : Nat
  bay : Option Nat
  kt : Nat
  cmd : Option (Nat × Nat × Nat)
  recno : Nat
  addr : Nat
  detail : List Nat
  deriving DecidableEq, Repr

/-- An error domain (R427): the active slot and the pending FIFO. -/
structure Domain where
  active : Option ErrRec
  fifo : List ErrRec
  deriving DecidableEq, Repr

def Domain.empty : Domain := ⟨none, []⟩

/-- Handling in progress, kept by the apex die through resets of the die (R427). `todo` says that its
first steps are still to be taken. -/
structure Handling where
  die : Nat
  level : Nat
  nest : Nat
  eng : Nat
  todo : Bool
  deriving DecidableEq, Repr

/-- An engine test in progress (R436): the physical engine, its logical index, the launch that failed and
the launches withdrawn behind it. -/
structure EngTest where
  die : Nat
  phys : Nat
  log : Nat
  failed : Option Launch
  held : List Launch
  status : Nat
  replaying : Bool
  deriving DecidableEq, Repr

/-- A die power operation in progress (R432): 1 CLOSE, 2 OFF, 4 POWER_ON, 5 PARTIAL_RESET; `loss` for the
steps of a die loss (R440) or of edge-die handling (R441); KTIME of its start. -/
structure DieOp where
  op : Nat
  loss : Bool
  start : Nat
  deriving DecidableEq, Repr

def DieOp.none : DieOp := ⟨0, false, 0⟩

/-! ### Host links (chapters 01, 16) -/

/-- A host link beside its registers: the BAR0 high-half latch and the held low half (R37), the MSI-X Enable
and Function Mask bits of its endpoint (R472), and the BAR2 size (R467). -/
structure HostLink where
  latch : Option (Nat × Nat)
  held : Option (Nat × Nat)
  msixEn : Bool
  fnMask : Bool
  bar2Size : Nat
  deriving DecidableEq, Repr

/-- A host link after reset: MSI-X not enabled, BAR2 of 1 GiB (R467, R472). -/
def HostLink.reset : HostLink := ⟨none, none, false, false, 2 ^ 30⟩

/-- A line of the coherent host-line cache (R475): 1 S, 2 E, 3 M; the map lists no I line. -/
structure CLine where
  st : Nat
  data : List Byte
  used : Nat
  deriving DecidableEq, Repr

def CLine.invalid : CLine := ⟨0, [], 0⟩

/-- An eviction-buffer entry (R477, R478). -/
structure CEvict where
  line : Nat
  data : List Byte
  fwd : Bool
  waited : Bool
  deriving DecidableEq, Repr

/-- A device access waiting for its line (R476): a write of bytes at an offset, or a read; whether its
request has been issued. -/
structure CWait where
  line : Nat
  off : Nat
  bytes : List Byte
  write : Bool
  issued : Bool
  deriving DecidableEq, Repr

/-! ### Management (chapter 16) -/

/-- A PLDM event message waiting for its acknowledgement (R485): its number, endpoint, kind, the sensor or die it is
about, its value, and the transmissions made. Kinds: 0 threshold crossing, 1 DEGRADED latch, 2 FAILING latch,
3 DEVICE level, 4 tamper, 5 firmware state. -/
structure PldmEvt where
  id : Nat
  ep : Nat
  kind : Nat
  src : Nat
  value : Nat
  sent : Nat
  deriving DecidableEq, Repr

/-- A message being reassembled (R482): endpoint, source EID, message tag with its tag-owner bit, the sequence numbers
of the packets so far in order, and their bytes. -/
structure Reasm where
  ep : Nat
  src : Nat
  tag : Nat
  seen : List Nat
  bytes : List Byte
  deriving DecidableEq, Repr

/-- A kept response (R483): of PLDM by endpoint, source, type and instance, or of a management command by
endpoint, source and REQ_ID. -/
structure Kept where
  ep : Nat
  src : Nat
  key : Nat
  resp : Output
  kt : Nat
  deriving DecidableEq, Repr

/-- A firmware slot (R487): STATE 0 EMPTY, 1 TRIAL, 2 COMMITTED; TRIES_LEFT; UPDATE_SEQ; the image's SVN;
whether its signature verifies under a fused root and its components match their digests (R396); its bytes. -/
structure FwSlot where
  st : Nat
  tries : Nat
  useq : Nat
  svn : Nat
  signed : Bool
  bytes : List Byte
  deriving DecidableEq, Repr

/-- The management island and firmware update (R479 to R493). `up`: not held in reset; `rom`: it runs its ROM firmware;
the load buffer and the component that runs; events and their count; messages in reassembly; kept responses; the two
flash slots and the fused SVN minimum; update: 0 none, 1 transferring, 2 written, 3 verified; bytes written of it;
`restarting`: an activation, with its start, whether the measurements are complete, and whether the last one failed;
KTIME at which the running TRIAL image booted; words of OPERATOR_KEY_ID written, as a mask; readings of the sensors; the firmware state last
reported; ports whose alert waits for an Alert Response read; commands whose completion the restart holds. -/
structure Mgmt where
  up : Bool
  rom : Bool
  loadBuf : List Nat
  running : List Nat
  events : List PldmEvt
  eventNo : Nat
  reasm : List Reasm
  pldm : List Kept
  cmds : List Kept
  slotA : FwSlot
  slotB : FwSlot
  svnMin : Nat
  update : Nat
  updOff : Nat
  restarting : Bool
  measured : Bool
  actAt : Nat
  fwFail : Bool
  trialAt : Nat
  keySet : Nat
  sensors : SMap Nat
  fwShown : Nat
  alert : Nat
  heldCmds : List (Nat × Nat)
  deriving DecidableEq, Repr

/-! ### Power, pins and reset (chapter 17) -/

/-- The pins and what they hold: PKG_RESET_N low, TEST_EN high, VDD_AON lost, MGMT_RESET_N low; the device holds itself in
reset; the boot has not completed; PERST_Hn_N low by link; REFCLK_SYS, REFCLK_FAB and REFCLK_Hn absent (bits 0, 1, 2 + n);
PRE_FAIL_N driven; the trip latch and the clocks it stopped; TIME_PPS output high since; EXTEST: 0 none, 1 waiting for
the scrub, 2 active; compute dies in a scan debug session; the MGMT_ADDR straps. -/
structure Pins where
  resetLow : Bool
  testEn : Bool
  aonLost : Bool
  mgmtLow : Bool
  hold : Bool
  booting : Bool
  perst : Nat
  noClock : Nat
  trip : Bool
  stopped : Bool
  pps : Option Nat
  extest : Nat
  scan : Nat
  straps : Nat
  deriving DecidableEq, Repr

/-! ### The fabric (chapter 12) -/

/-- What a remote request was made for: an XGET piece at an offset of its transfer, a write of an XPUT (with
its issue cycle), the signal of a command (R184), a mirror forward of a slab and generation (R447), a step of a started command
(MIRROR RESTORE, SYNC's commit signal, rethatch distribution), or nothing that waits. -/
inductive FabFor where
  | xget (die eng tag off : Nat)
  | xput (die eng prog issue : Nat)
  | signal (q seq : Nat)
  | mirror (bay slab gen : Nat)
  | step (q seq : Nat)
  | coll (q seq : Nat)
  | nobody
  deriving DecidableEq, Repr

/-- How far a remote request has come (R357, R359, R362): waiting for response space, sent, in backoff, or ended
with a status, its details and data. -/
inductive FabSt where
  | waiting
  | sent
  | backoff
  | ended (st d0 d1 : Nat) (data : List Byte)
  deriving DecidableEq, Repr

/-- A remote request of a bay (R357, R380): kind 0 WRITE, 1 READ_REQ, 2 SIGNAL, 3 COLL; destination before and after aliases. -/
structure FabReq where
  bay : Nat
  gen : Nat
  seq : Nat
  dev : Nat
  dbay : Nat
  kind : Nat
  addr : Nat
  data : List Byte
  len : Nat
  last : Bool
  tries : Nat
  port : Nat
  owner : FabFor
  st : FabSt
  deriving DecidableEq, Repr

/-- A request that timed out: its first late response writes one record (R362). -/
structure FabLate where
  bay : Nat
  gen : Nat
  seq : Nat
  recorded : Bool
  deriving DecidableEq, Repr

/-- One source's replay window at a bay (R406): the edge die that holds it, the highest SEQ seen, and the SEQs seen with
the status of the response sealed for each (none: no response was sealed). -/
structure RepWin where
  edge : Nat
  bay : Nat
  dev : Nat
  sbay : Nat
  gen : Nat
  top : Nat
  seen : List (Nat × Option Nat)
  deriving DecidableEq, Repr

/-- A running collective of a bay (R379, R380). Command, group entry and its fields; the command's fields; home edge die;
its time limit in ns; KTIME of its start or of the last awaited arrival; the peers whose READY has come; chunks that
have come from peers; chunks combined, read or contributed; packets to send, each to a peer with chunk, GATHER and data;
chunks to write and those written; the own part's failing status; and the children's DONEs: failed members and status. -/
structure Coll where
  q : Nat
  seq : Nat
  bay : Nat
  group : Nat
  gtag : Nat
  id : Nat
  ridge : Bool
  dtype : Nat
  op : Nat
  ret : Bool
  feat : Nat
  src : Nat
  dst : Nat
  len : Nat
  parent : Option (Nat × Nat)
  kids : List (Nat × Nat)
  subtree : Nat
  home : Nat
  limit : Option Nat
  heard : Nat
  ready : List (Nat × Nat)
  inputs : List (Nat × (Nat × Nat) × List PByte)
  combined : List Nat
  outbox : List ((Nat × Nat) × Nat × Bool × List PByte)
  writes : List (Nat × List PByte)
  written : List Nat
  own : Option (Nat × Nat × Nat)
  dones : List ((Nat × Nat) × Nat × Nat)
  deriving DecidableEq, Repr

/-- A READY that has come before its member started: bay, GTAG, COLL_ID, peer, its first payload word and LENGTH. -/
structure CollEarly where
  bay : Nat
  gtag : Nat
  id : Nat
  peer : Nat × Nat
  word : Nat
  len : Nat
  deriving DecidableEq, Repr

/-- A collective that has completed: its first late packet writes one record (R388). -/
structure CollLate where
  bay : Nat
  gtag : Nat
  id : Nat
  home : Nat
  recorded : Bool
  deriving DecidableEq, Repr

/-- A port beside its registers: packets held in link loss (R366), the retry buffer with the FSEQ after each
packet (R364), the next FSEQ to send and to receive, consecutive replays of one FSEQ, whether a link loss is
being timed, and whether the partner is authenticated (R408). -/
structure PortX where
  held : List (List Byte)
  retry : List (Nat × List Byte)
  tx : Nat
  rx : Nat
  replaySeq : Nat
  replays : Nat
  lost : Bool
  auth : Bool
  deriving DecidableEq, Repr

def PortX.zero : PortX := ⟨[], [], 0, 0, 0, 0, false, false⟩

/-- The fabric: requests, expired requests, replay windows, ports, exchanges within 4 ns since the last one
outside, whether a first lock has been reached, the part of a KTIME increment that the slew has gathered, in
10^-9 ns (R369), running collectives, READYs that came early, and collectives that have completed. -/
structure FabState where
  reqs : List FabReq
  late : List FabLate
  wins : List RepWin
  ports : SMap PortX
  exch : Nat
  locked : Bool
  slew : Nat
  colls : List Coll
  early : List CollEarly
  collLate : List CollLate
  deriving DecidableEq, Repr

def FabState.empty : FabState := ⟨[], [], [], [], 0, false, 0, [], [], []⟩

/-! ### Generator models (chapter 10) -/

/-- A layer or adapter slot of a generator model (R291): its first area slab, slabs, format, layout, the physical slabs of
its staging set, ACTIVE_EPOCH, the epoch before its last flip, FIRST_STEP, the epoch its staging set holds or gathers
(0: none), whether that set is staged, whether the active set is CORRUPT, root and length recorded of the active and of
the staging set, and the ranges that have landed in the staging set. -/
structure RtUnit where
  first : Nat
  slabs : Nat
  fmt : Nat
  layout : Nat
  locs : List Nat
  epoch : Nat
  prev : Nat
  firstStep : Nat
  stgEpoch : Nat
  staged : Bool
  corrupt : Bool
  act : Option (List Nat × Nat)
  stg : Option (List Nat × Nat)
  have_ : List (Nat × Nat)
  deriving DecidableEq, Repr

/-- An entry of a manifest (Table 10-4). -/
structure RtEntry where
  idx : Nat
  fmt : Nat
  layout : Nat
  major : Nat
  len : Nat
  digest : List Nat
  deriving DecidableEq, Repr

/-- A staging in progress (R302, R303): the command, its manifest's epoch and entries, whether it takes landings from the
fabric, the units that failed with status and DETAIL1, leaves of the current layer copied, and the shards' headers. -/
structure RtStage where
  q : Nat
  seq : Nat
  epoch : Nat
  entries : List RtEntry
  fabric : Bool
  fails : List (Nat × Nat × Nat × Nat)
  off : Nat
  shards : List Nat
  deriving DecidableEq, Repr

/-- A barrier (R308, R309, R314): the command, whether it still runs, the step at which each gate is held and when its
hold began, the layers still to flip (none waits in an adapter barrier), the start, and the adapters to flip. -/
structure RtBar where
  q : Nat
  seq : Nat
  live : Bool
  rolling : Bool
  steps : List Nat
  since : SMap Nat
  left : List Nat
  start : Nat
  epoch : Nat
  slots : List Nat
  deriving DecidableEq, Repr

/-- An enabled model (R292): layers, adapter slots, the stagings and barriers in progress, and the last stamped step. -/
structure RtModel where
  layers : List RtUnit
  adapts : List RtUnit
  stage : Option RtStage
  adapt : Option RtStage
  arm : Option RtBar
  abar : Option RtBar
  stamp : Option Nat
  deriving DecidableEq, Repr

/-- The generator models at bay * 4 + model, and those whose ENABLE waits for its layer table. -/
structure RtState where
  models : SMap (Option RtModel)
  enabling : List Nat
  deriving DecidableEq, Repr

/-! ### Grithal (chapter 14) -/

/-- What the vault holds of a bay (R401 to R404): the job master key, LINK_EPOCH, the installed publisher keys in
order, SEAL_DIGEST, the live nonce. -/
structure BayKeys where
  jmk : Option (List Nat)
  epoch : Nat
  pubs : List (Nat × Nat)
  digest : List Nat
  nonce : Option (List Nat)
  deriving DecidableEq, Repr

def BayKeys.none : BayKeys := ⟨Option.none, 0, [], [], Option.none⟩

/-- An SPDM connection on an endpoint (R409): its stage (0 none, 1 version, 2 capabilities, 3 negotiated), the session
with its identifier and whether FINISH has established it, its secret, SHA-384 of the root key of the requester it
mutually authenticated, and the token and request deferred (R412). -/
structure Spdm where
  ep : Nat
  stage : Nat
  session : Option Nat
  live : Bool
  secret : Nat
  peer : Option (List Nat)
  deferred : Option (Nat × SpdmReq)
  deriving DecidableEq, Repr

/-- Grithal beside its registers: bays' keys, the private seal key-agreement key, passes of the repeated entropy
test (R395), SPDM connections, the next token, and the device scrub that runs: its start, the dies
whose clear has not ended, and those whose clear failed (R419). -/
structure SecState where
  keys : SMap BayKeys
  ska : Nat
  passes : Nat
  spdm : List Spdm
  tokens : Nat
  scrub : Bool
  scrubAt : Nat
  clearing : Nat
  failed : Nat
  deriving DecidableEq, Repr

def SecState.empty : SecState := ⟨[], 0, 0, [], 0, false, 0, 0, 0⟩

/-! ### Groups of the state -/

/-- A program that the loft's program cache holds (R131): handle, image bytes, last launch. -/
structure Cached where
  die : Nat
  handle : W32
  bytes : List Byte
  last : Nat
  deriving DecidableEq, Repr

/-- The lofts (R127): bytes at die * 2^25 + LA, poison of 64-bit words at die * 2^22 + LA / 8, the draw that
stands for a die's lost contents (R134; 0: not lost) with the bytes written since, the program caches, and KTIME
at the start of each die's clear (R132). -/
structure Lofts where
  bytes : SMap Byte
  poison : SMap Bool
  lost : SMap Nat
  fresh : SMap Bool
  pcache : List Cached
  clr : SMap Nat
  deriving DecidableEq, Repr

/-- The memory tiers (chapter 08): HBM bytes at group * 2^34 + offset, poisoned lines, the use of each
physical slab, objects, mapped slabs at bay * 2^41 + slab number, T3 accesses, prefetch schedules at
bay * 16 + n, the device's own writes that wait for T3, lent units, age epochs, TAG_MISMATCH and POISONED completions, the last
latencies (bay * 2 for demand fills, + 1 for T3 accesses), and the turns of the tier movers (R250): at an edge die's
index the mover that takes its next chunk, at 0 the edge die, from 0, that takes the next chunk with no T2 end. -/
structure Mem where
  hbm : SMap Byte
  poison : SMap Bool
  use : SMap Nat
  objs : List Obj
  slabs : SMap Slab
  t3 : List T3Acc
  late : List T3Late
  scheds : List (Nat × Sched)
  devWrites : List (Nat × Nat × Bool × List PByte)
  lends : List Lend
  epochs : SMap Nat
  badSeen : SMap Nat
  lat : SMap Nat
  turns : SMap Nat
  deriving DecidableEq, Repr

def Mem.empty : Mem := ⟨[], [], [], [], [], [], [], [], [], [], [], [], [], []⟩

/-- The command processors (chapter 06) and the bays' admission and phase timers (chapter 07). -/
structure CmdState where
  cmds : List Cmd
  queues : SMap QueueX
  journal : SMap JEntry
  adms : List AdmReq
  phases : SMap PhaseTimer
  bays : SMap BayX
  deriving DecidableEq, Repr

/-- A checkpoint schedule (R454): the parameter words SCHED stored, the queue and TAG of the SCHED command, the
sequence number of the TAKE it triggered last, and KTIME of its last checkpoint. -/
structure Ckpt where
  words : List W32
  q : Nat
  tag : Nat
  seq : Nat
  last : Nat
  deriving DecidableEq, Repr

/-- A bay's mirror source (R447, R448): the buddy device and bay, the host region, MSLABS, commit event, ranges (first
slab and count); generation; slabs whose half 1 is committed; the 512-bit line map of each slab touched in this
generation; lines landed and not yet forwarded (slab index, line, data) and those held while a SYNC runs; the running
SYNC with its step (0 none, 1 sending and waiting, 2 signalling); and the underlying status of a failure. -/
structure MirSrc where
  dev : Nat
  dbay : Nat
  region : Nat
  mslabs : Nat
  cevt : Nat
  ranges : List (Nat × Nat)
  gen : Nat
  half : SMap Bool
  lines : SMap Nat
  todo : List (Nat × Nat × List Byte)
  held : List (Nat × Nat × List Byte)
  sync : Option (Nat × Nat)
  step : Nat
  failed : Option Nat
  deriving DecidableEq, Repr

/-- A bay's mirror host (R446, R449): the source, region, MSLABS, commit event, the generation of each half at
half * MSLABS + slab, and the commit count that a running RESTORE goes by. -/
structure MirHost where
  dev : Nat
  dbay : Nat
  region : Nat
  mslabs : Nat
  cevt : Nat
  gens : SMap Nat
  frozen : Option Nat
  deriving DecidableEq, Repr

/-- A running CKPT TAKE (R451): its snapshot slabs, KTIME of the snapshot, the objects of its table (VA, slabs, T3 address),
their digests, and whether the snapshot is complete. -/
structure CkptRun where
  q : Nat
  seq : Nat
  locs : List Nat
  kt : Nat
  objs : List (Nat × Nat × Nat)
  digests : List (List Nat)
  taken : Bool
  deriving DecidableEq, Repr

/-- A timeout that has expired and whose first late arrival has not been recorded (R431): the teardown wait of a bay,
the drain limit of a die, the staging of a model's shard or adapter. -/
inductive LateKey where
  | teardown (b : Nat)
  | drain (d : Nat)
  | stage (b m : Nat) (adapter : Bool)
  deriving DecidableEq, Repr

/-- Error domains, device log, handling (chapter 15), spare maps at die * 64 + logical engine and failed
engines at die * 64 + physical engine, die power operations, checkpoint schedules at bay * 4 + n, running checkpoints,
and mirrors by bay. -/
structure Faults where
  domains : SMap Domain
  devlog : SMap (List W32)
  handling : List Handling
  tests : List EngTest
  dieOps : SMap DieOp
  spare : SMap Nat
  failed : SMap Bool
  device : Bool
  ckpts : SMap (Option Ckpt)
  runs : List CkptRun
  mirSrc : SMap (Option MirSrc)
  mirHost : SMap (Option MirHost)
  lateDue : List LateKey
  deriving DecidableEq, Repr

/-- The host links and the coherent cache (chapter 16). -/
structure Hosts where
  h0 : HostLink
  h1 : HostLink
  cc : SMap CLine
  evict : List CEvict
  waits : List CWait
  flush : List Nat
  deriving DecidableEq, Repr

/-- The mesh (chapter 01): requests delivered and not yet answered (R31 to R34), and each router's copy of the incarnation of each
die at router * 32 + die. -/
structure MeshState where
  reqs : List MeshPkt
  copies : SMap Byte
  deriving DecidableEq, Repr

end Sys2Proof.Machine
end

