-- ==== Sys2Proof/Machine/RegTable.lean ====
section
/-! DEFINITION. The register map of BAR0 (R35 to R39): where every register of the spec's register
tables lies, its width, access code (Table 00-5), writable bits and reset value.

An access code, an offset and a reset value here is the register table's own; `table` names it.
The WO rows are the command registers that act when written. -/

namespace Sys2Proof.Machine

/-- Register access codes, Table 00-5. -/
inductive Access where
  | ro | rw | w1c | rc | wo | rws | rwl
  deriving DecidableEq, Repr

/-- The kinds of die of Table 01-10, with `all` for the blocks every die has. -/
inductive BlockKind where
  | all | apex | edge | compute
  deriving DecidableEq, Repr

/-- One row of a register table: registers at `base + i * s1 + j * s2` of a die's block, i < n1, j < n2. -/
structure RegRow where
  kind : BlockKind
  name : String
  base : Nat
  s1 : Nat
  n1 : Nat
  s2 : Nat
  n2 : Nat
  bits : Nat
  acc : Access
  mask : Nat
  reset : Nat
  deriving DecidableEq, Repr

/-- Base of die d's block, R35: the apex die, then E0-E3, then C00-C19. -/
def dieBase (d : Nat) : Nat :=
  if d = 24 then 0
  else if 20 ≤ d then 0x1000000 + (d - 20) * 0x100000
  else 0x2000000 + d * 0x100000

namespace Reg

def DIE_ID (d : Nat) : Nat := dieBase d + 0x0
def DIE_INCARN (d : Nat) : Nat := dieBase d + 0x4
def DIE_STATE (d : Nat) : Nat := dieBase d + 0x8
def DIE_KTIME (d : Nat) : Nat := dieBase d + 0x10
def CLK_STATUS (d : Nat) : Nat := dieBase d + 0x1000
def MESH_STALE_CNT (d : Nat) : Nat := dieBase d + 0x2000
def INCARN_DROP_CNT (d : Nat) : Nat := dieBase d + 0x2004
def ID_PART : Nat := 0x100
def ID_STEPPING : Nat := 0x104
def ID_SERIAL : Nat := 0x108
def ID_PRESENT : Nat := 0x110
def ID_HBM : Nat := 0x114
def INCARN_TABLE (i : Nat) : Nat := 0x120 + i * 0x4
def ERR_STATUS (d : Nat) : Nat := dieBase d + 0x4000
def ERR_OVF_CNT (d : Nat) : Nat := dieBase d + 0x4004
def ERR_FIFO_POP (d : Nat) : Nat := dieBase d + 0x4008
def ERC (d : Nat) : Nat := dieBase d + 0x4010
def ERC_CFG (d : Nat) : Nat := dieBase d + 0x4014
def ERC_THR (d : Nat) : Nat := dieBase d + 0x4018
def ERC_CTRL (d : Nat) : Nat := dieBase d + 0x401C
def ERC_WM_STATUS (d i : Nat) : Nat := dieBase d + 0x4020 + i * 0x10
def ERC_WM_EXTREME (d i : Nat) : Nat := dieBase d + 0x4024 + i * 0x10
def ERC_WM_FIRST_KTIME (d i : Nat) : Nat := dieBase d + 0x4028 + i * 0x10
def ERR_ACTIVE (d i : Nat) : Nat := dieBase d + 0x4100 + i * 0x4
def ERR_HEAD (d i : Nat) : Nat := dieBase d + 0x4140 + i * 0x4
def DEVLOG_POS : Nat := 0x6000
def DEVLOG_RD_IDX : Nat := 0x6004
def DEVLOG_RD (i : Nat) : Nat := 0x6040 + i * 0x4
def HM_CFG : Nat := 0x6080
def HM_STATUS : Nat := 0x6084
def HM_DEGRADED : Nat := 0x6088
def DIE_PCTRL_REFUSED : Nat := 0x608C
def DIE_PCTRL (i : Nat) : Nat := 0x6100 + i * 0x4
def REPLAY_TOTAL_CNT : Nat := 0x6200
def ENG_TEST_CNT : Nat := 0x6204
def GR_STATUS : Nat := 0x100000
def GR_PARTIAL_DIES : Nat := 0x100004
def GR_BOOT : Nat := 0x100008
def MEAS (i j : Nat) : Nat := 0x100100 + i * 0x40 + j * 0x4
def STAGED (i j : Nat) : Nat := 0x100340 + i * 0x40 + j * 0x4
def STAGED5 (i : Nat) : Nat := 0x100440 + i * 0x4
def TAMPER_STATUS : Nat := 0x100400
def TAMPER_CNT : Nat := 0x100404
def DSCRUB_CTRL : Nat := 0x100410
def DSCRUB_STATUS : Nat := 0x100414
def DSCRUB_TIME : Nat := 0x100418
def TRNG_FAIL_CNT : Nat := 0x100420
def Q_CFG (i : Nat) : Nat := 0x200000 + i * 0x200
def Q_IRQ (i : Nat) : Nat := 0x200004 + i * 0x200
def Q_RING_BASE (i : Nat) : Nat := 0x200008 + i * 0x200
def Q_CPL_BASE (i : Nat) : Nat := 0x200010 + i * 0x200
def Q_HEAD (i : Nat) : Nat := 0x200018 + i * 0x200
def Q_TAIL (i : Nat) : Nat := 0x20001C + i * 0x200
def Q_CPL_TAIL (i : Nat) : Nat := 0x200020 + i * 0x200
def Q_CPL_HEAD (i : Nat) : Nat := 0x200024 + i * 0x200
def Q_SEQ (i : Nat) : Nat := 0x200028 + i * 0x200
def Q_STATUS (i : Nat) : Nat := 0x20002C + i * 0x200
def Q_CTRL (i : Nat) : Nat := 0x200030 + i * 0x200
def Q_HALT_SLOT (i : Nat) : Nat := 0x200034 + i * 0x200
def Q_HALT_SEQ (i : Nat) : Nat := 0x200038 + i * 0x200
def Q_BRK_CTRL (i : Nat) : Nat := 0x200040 + i * 0x200
def Q_BRK_VAL (i : Nat) : Nat := 0x200044 + i * 0x200
def Q_BRK_MASK (i : Nat) : Nat := 0x200048 + i * 0x200
def Q_DB_ERR_CNT (i : Nat) : Nat := 0x200050 + i * 0x200
def Q_INFO_DROP_CNT (i : Nat) : Nat := 0x200054 + i * 0x200
def Q_PREEMPT_NS (i : Nat) : Nat := 0x200058 + i * 0x200
def QDB (i : Nat) : Nat := 0x280000 + i * 0x400
def CMD_WAIT_DEFAULT : Nat := 0x240000
def CMD_DEP_SCAN : Nat := 0x240004
def EVT_SIG : Nat := 0x240010
def EVT_SIG_ERR_CNT : Nat := 0x240018
def EVT (i j : Nat) : Nat := 0x250000 + i * 0x2000 + j * 0x8
def JNL_POS : Nat := 0x300000
def JNL_ACK : Nat := 0x300004
def JNL_CFG : Nat := 0x300008
def JNL_MIRROR_BASE : Nat := 0x300010
def JNL_RD_IDX : Nat := 0x300018
def JNL_RD (i : Nat) : Nat := 0x300020 + i * 0x4
def JNL_HOLD_CNT : Nat := 0x300040
def BAY_STATE (i : Nat) : Nat := 0x400000 + i * 0x1000
def BAY_DIES (i : Nat) : Nat := 0x400004 + i * 0x1000
def BAY_GROUPS (i : Nat) : Nat := 0x400008 + i * 0x1000
def BAY_CLK (i : Nat) : Nat := 0x40000C + i * 0x1000
def BAY_POWER (i : Nat) : Nat := 0x400010 + i * 0x1000
def BAY_THROTTLE_CNT (i : Nat) : Nat := 0x400014 + i * 0x1000
def BAY_TURNS (i : Nat) : Nat := 0x400018 + i * 0x1000
def SHARE (i j : Nat) : Nat := 0x400020 + i * 0x1000 + j * 0x4
def USED (i j : Nat) : Nat := 0x400030 + i * 0x1000 + j * 0x4
def ADMIT_TIMEOUT (i : Nat) : Nat := 0x400040 + i * 0x1000
def ADMIT_WAITING (i : Nat) : Nat := 0x400044 + i * 0x1000
def ADMIT_DELAY_CNT (i j : Nat) : Nat := 0x400050 + i * 0x1000 + j * 0x4
def ADMIT_REFUSE_CNT (i j : Nat) : Nat := 0x400060 + i * 0x1000 + j * 0x4
def BAY_ADMIT_LATE_CNT (i : Nat) : Nat := 0x400070 + i * 0x1000
def BORROW_REVOKE_CNT (i : Nat) : Nat := 0x400074 + i * 0x1000
def BAY_LATE_DROP_CNT (i : Nat) : Nat := 0x400078 + i * 0x1000
def ROLE_KIND (i j : Nat) : Nat := 0x400080 + i * 0x1000 + j * 0x4
def PH_RING_BASE (i : Nat) : Nat := 0x4000A0 + i * 0x1000
def PH_RING_CFG (i : Nat) : Nat := 0x4000A8 + i * 0x1000
def PH_RING_TAIL (i : Nat) : Nat := 0x4000AC + i * 0x1000
def PH_RING_HEAD (i : Nat) : Nat := 0x4000B0 + i * 0x1000
def PH_DROP_CNT (i : Nat) : Nat := 0x4000B4 + i * 0x1000
def ROLE_ENG_MAP (i j : Nat) : Nat := 0x400100 + i * 0x1000 + j * 0x4
def PH_STATE (i j : Nat) : Nat := 0x400800 + i * 0x1000 + j * 0x10
def PH_LATE_KTIME (i j : Nat) : Nat := 0x400808 + i * 0x1000 + j * 0x10
def RT_CFG0 (i j : Nat) : Nat := 0x400300 + i * 0x1000 + j * 0x80
def RT_CFG1 (i j : Nat) : Nat := 0x400304 + i * 0x1000 + j * 0x80
def RT_MODEL_ID (i j : Nat) : Nat := 0x400308 + i * 0x1000 + j * 0x80
def RT_LAYER_TAB (i j : Nat) : Nat := 0x400310 + i * 0x1000 + j * 0x80
def RT_AREA_VA (i j : Nat) : Nat := 0x400318 + i * 0x1000 + j * 0x80
def RT_EPOCH_VA (i j : Nat) : Nat := 0x400320 + i * 0x1000 + j * 0x80
def RT_CTRL (i j : Nat) : Nat := 0x400328 + i * 0x1000 + j * 0x80
def RT_STATE (i j : Nat) : Nat := 0x40032C + i * 0x1000 + j * 0x80
def RT_EPOCH_LO (i j : Nat) : Nat := 0x400330 + i * 0x1000 + j * 0x80
def RT_EPOCH_HI (i j : Nat) : Nat := 0x400334 + i * 0x1000 + j * 0x80
def RT_STAGED_EPOCH (i j : Nat) : Nat := 0x400338 + i * 0x1000 + j * 0x80
def RT_STAMP_STEP (i j : Nat) : Nat := 0x40033C + i * 0x1000 + j * 0x80
def RT_RECHECK (i j : Nat) : Nat := 0x400340 + i * 0x1000 + j * 0x80
def RT_NOTICE (i j : Nat) : Nat := 0x400344 + i * 0x1000 + j * 0x80
def RT_HOLD_NS (i j : Nat) : Nat := 0x400348 + i * 0x1000 + j * 0x80
def RT_FLIP_CNT (i j : Nat) : Nat := 0x40034C + i * 0x1000 + j * 0x80
def RT_RECHECK_FAIL_CNT (i j : Nat) : Nat := 0x400350 + i * 0x1000 + j * 0x80
def RT_STRAY_CNT (i j : Nat) : Nat := 0x400354 + i * 0x1000 + j * 0x80
def RT_LAST_RECHECK (i j : Nat) : Nat := 0x400358 + i * 0x1000 + j * 0x80
def LW_VA (i j : Nat) : Nat := 0x400500 + i * 0x1000 + j * 0x10
def LW_SA (i j : Nat) : Nat := 0x400508 + i * 0x1000 + j * 0x10
def LW_CFG (i j : Nat) : Nat := 0x40050C + i * 0x1000 + j * 0x10
def CG_TABLE_VA (i : Nat) : Nat := 0x400700 + i * 0x1000
def CG_CFG (i : Nat) : Nat := 0x400708 + i * 0x1000
def CG_RUNNING (i : Nat) : Nat := 0x40070C + i * 0x1000
def CG_BUSY (i : Nat) : Nat := 0x400710 + i * 0x1000
def COLL_DONE_CNT (i : Nat) : Nat := 0x400718 + i * 0x1000
def COLL_FAIL_CNT (i : Nat) : Nat := 0x40071C + i * 0x1000
def COLL_LATE_CNT (i : Nat) : Nat := 0x400720 + i * 0x1000
def COLL_GATHER_CNT (i : Nat) : Nat := 0x400724 + i * 0x1000
def COLL_SMALL_CNT (i : Nat) : Nat := 0x400728 + i * 0x1000
def BAY_FAULT_CFG (i : Nat) : Nat := 0x400740 + i * 0x1000
def BAY_FAULT_STATUS (i : Nat) : Nat := 0x400744 + i * 0x1000
def REPLAY_CFG (i : Nat) : Nat := 0x400748 + i * 0x1000
def REPLAY_CNT (i : Nat) : Nat := 0x40074C + i * 0x1000
def MIRROR_STATUS (i : Nat) : Nat := 0x400750 + i * 0x1000
def MIRROR_BACKLOG (i : Nat) : Nat := 0x400754 + i * 0x1000
def MIRROR_GEN (i : Nat) : Nat := 0x400758 + i * 0x1000
def MIRROR_COMMIT (i : Nat) : Nat := 0x400760 + i * 0x1000
def MIRROR_TX_BYTES (i : Nat) : Nat := 0x400768 + i * 0x1000
def CKPT_STATUS (i : Nat) : Nat := 0x400770 + i * 0x1000
def CKPT_SKIP_CNT (i : Nat) : Nat := 0x400774 + i * 0x1000
def CKPT_LAST_KTIME (i : Nat) : Nat := 0x400778 + i * 0x1000
def MEM_OBJ_CNT (i : Nat) : Nat := 0x400C00 + i * 0x1000
def MEM_TABLE_SLABS (i : Nat) : Nat := 0x400C04 + i * 0x1000
def MEM_AGE_TICK (i : Nat) : Nat := 0x400C08 + i * 0x1000
def MEM_T3_TIMEOUT (i : Nat) : Nat := 0x400C0C + i * 0x1000
def DEMAND_FILL_CNT (i : Nat) : Nat := 0x400C10 + i * 0x1000
def DEMAND_NOFILL_CNT (i : Nat) : Nat := 0x400C14 + i * 0x1000
def EVICT_CNT (i : Nat) : Nat := 0x400C18 + i * 0x1000
def WB_CNT (i : Nat) : Nat := 0x400C1C + i * 0x1000
def WB_FAIL_CNT (i : Nat) : Nat := 0x400C20 + i * 0x1000
def PF_LATE_CNT (i : Nat) : Nat := 0x400C24 + i * 0x1000
def PF_SKIP_CNT (i : Nat) : Nat := 0x400C28 + i * 0x1000
def T3_LATE_CNT (i j : Nat) : Nat := 0x400C2C + i * 0x1000 + j * 0x4
def PF_STATE (i j : Nat) : Nat := 0x400C40 + i * 0x1000 + j * 0x4
def WM_CFG (i j : Nat) : Nat := 0x400D00 + i * 0x1000 + j * 0x20
def WM_THRESH (i j : Nat) : Nat := 0x400D04 + i * 0x1000 + j * 0x20
def WM_CTRL (i j : Nat) : Nat := 0x400D08 + i * 0x1000 + j * 0x20
def WM_STATUS (i j : Nat) : Nat := 0x400D0C + i * 0x1000 + j * 0x20
def WM_EXTREME (i j : Nat) : Nat := 0x400D10 + i * 0x1000 + j * 0x20
def WM_FIRST_KTIME (i j : Nat) : Nat := 0x400D18 + i * 0x1000 + j * 0x20
def KVP_CFG0 (i j : Nat) : Nat := 0x400E00 + i * 0x1000 + j * 0x20
def KVP_CFG1 (i j : Nat) : Nat := 0x400E04 + i * 0x1000 + j * 0x20
def KVP_GK (i j : Nat) : Nat := 0x400E08 + i * 0x1000 + j * 0x20
def KVP_GEOM (i j : Nat) : Nat := 0x400E0C + i * 0x1000 + j * 0x20
def KVP_SEQS (i j : Nat) : Nat := 0x400E10 + i * 0x1000 + j * 0x20
def KVP_BLOCKS (i j : Nat) : Nat := 0x400E14 + i * 0x1000 + j * 0x20
def KV_GATHER_CNT (i : Nat) : Nat := 0x400E80 + i * 0x1000
def KV_HIT_CNT (i : Nat) : Nat := 0x400E84 + i * 0x1000
def KV_DIGEST_CNT (i : Nat) : Nat := 0x400E88 + i * 0x1000
def KV_SWAP_OUT_CNT (i : Nat) : Nat := 0x400E8C + i * 0x1000
def KV_SWAP_IN_CNT (i : Nat) : Nat := 0x400E90 + i * 0x1000
def BAY_SEC (i : Nat) : Nat := 0x400F00 + i * 0x1000
def BAY_CONSENT (i : Nat) : Nat := 0x400F04 + i * 0x1000
def BAY_CONSENT_EVER (i : Nat) : Nat := 0x400F08 + i * 0x1000
def BAY_OP_SEQ (i : Nat) : Nat := 0x400F10 + i * 0x1000
def BAY_TX_SEQ (i : Nat) : Nat := 0x400F18 + i * 0x1000
def BAY_SEAL_KTIME (i : Nat) : Nat := 0x400F20 + i * 0x1000
def DEV_NOTICE (i : Nat) : Nat := 0x400F28 + i * 0x1000
def DEV_NOTICE_CFG (i : Nat) : Nat := 0x400F2C + i * 0x1000
def DEV_THERM_KTIME (i : Nat) : Nat := 0x400F30 + i * 0x1000
def DEV_BAY_POWER_BUDGET : Nat := 0x410000
def DEV_QUARANTINE : Nat := 0x410004
def DEV_DIES_FREE : Nat := 0x410008
def Q_ROLE (i : Nat) : Nat := 0x410100 + i * 0x4
def HL_STATUS (i : Nat) : Nat := 0x500000 + i * 0x100
def HL_BAR2_CFG (i : Nat) : Nat := 0x500004 + i * 0x100
def HL_BAR2_BASE (i : Nat) : Nat := 0x500008 + i * 0x100
def HL_DROP_CNT (i : Nat) : Nat := 0x500010 + i * 0x100
def HL_BAR2_ERR_CNT (i : Nat) : Nat := 0x500014 + i * 0x100
def HL_TX_BYTES (i : Nat) : Nat := 0x500018 + i * 0x100
def HL_RX_BYTES (i : Nat) : Nat := 0x500020 + i * 0x100
def CC_STATUS : Nat := 0x501004
def CC_WIN_BASE (i : Nat) : Nat := 0x501010 + i * 0x10
def CC_WIN_CFG (i : Nat) : Nat := 0x501018 + i * 0x10
def CC_SNOOP_CNT : Nat := 0x501100
def CC_EVICT_CNT : Nat := 0x501104
def CC_BOGUS_CNT : Nat := 0x501108
def CC_GO_WAIT_CNT : Nat := 0x50110C
def MSIX_ADDR (i : Nat) : Nat := 0x580000 + i * 0x10
def MSIX_DATA (i : Nat) : Nat := 0x580008 + i * 0x10
def MSIX_VCTRL (i : Nat) : Nat := 0x58000C + i * 0x10
def MSIX_PBA (i : Nat) : Nat := 0x588000 + i * 0x8
def MSIX_LINK (i : Nat) : Nat := 0x589000 + i * 0x4
def TIME_CFG : Nat := 0x600000
def TIME_STATUS : Nat := 0x600004
def TIME_OFFSET : Nat := 0x600008
def TIME_DELAY : Nat := 0x60000C
def TIME_RATE : Nat := 0x600010
def TIME_LOCK_KTIME : Nat := 0x600018
def TIME_HOLDOVER_CNT : Nat := 0x600020
def PWR_STATUS : Nat := 0x610000
def PWR_RAIL_FAULT : Nat := 0x610004
def PKG_POWER : Nat := 0x610008
def THERM_STATUS : Nat := 0x61000C
def THERM_EMERG_CNT : Nat := 0x610010
def MI_STATUS : Nat := 0x700000
def MI_EID : Nat := 0x700004
def MI_ADDR : Nat := 0x700008
def MI_DUP_CNT : Nat := 0x700010
def MI_PEC_ERR_CNT : Nat := 0x700014
def MI_REASM_DROP_CNT : Nat := 0x700018
def OPERATOR_KEY_ID (i : Nat) : Nat := 0x700020 + i * 0x4
def FW_STATE : Nat := 0x700050
def FW_TRIAL_S : Nat := 0x700054
def HBM_STATUS (d i : Nat) : Nat := dieBase d + 0x10000 + i * 0x10000
def HBM_TEMP (d i : Nat) : Nat := dieBase d + 0x10004 + i * 0x10000
def HBM_CORR_CNT (d i : Nat) : Nat := dieBase d + 0x10010 + i * 0x10000
def HBM_UNCORR_CNT (d i : Nat) : Nat := dieBase d + 0x10014 + i * 0x10000
def HBM_RD_BYTES (d i : Nat) : Nat := dieBase d + 0x10018 + i * 0x10000
def HBM_WR_BYTES (d i : Nat) : Nat := dieBase d + 0x10020 + i * 0x10000
def TM_STATUS (d i : Nat) : Nat := dieBase d + 0x30000 + i * 0x100
def TM_BYTES (d i : Nat) : Nat := dieBase d + 0x30008 + i * 0x100
def TM_ERR_CNT (d i : Nat) : Nat := dieBase d + 0x30010 + i * 0x100
def HBM_TAG_EN (d : Nat) : Nat := dieBase d + 0x40000
def IU_TAG_FAIL_CNT (d : Nat) : Nat := dieBase d + 0x40004
def IU_POISON_CNT (d : Nat) : Nat := dieBase d + 0x40008
def IU_LAST (d : Nat) : Nat := dieBase d + 0x40010
def SEC_OPEN_FAIL_CNT (d : Nat) : Nat := dieBase d + 0x40800
def SEC_REFUSE_CNT (d : Nat) : Nat := dieBase d + 0x40804
def SEC_SRC_USED (d : Nat) : Nat := dieBase d + 0x40808
def SEC_LINK_AUTH_FAIL_CNT (d : Nat) : Nat := dieBase d + 0x4080C
def HU_STATUS (d : Nat) : Nat := dieBase d + 0x50000
def HU_BYTES (d : Nat) : Nat := dieBase d + 0x50008
def HU_MISMATCH_CNT (d : Nat) : Nat := dieBase d + 0x50010
def PORT_CFG (d i : Nat) : Nat := dieBase d + 0x60000 + i * 0x10000
def PORT_STATUS (d i : Nat) : Nat := dieBase d + 0x60004 + i * 0x10000
def PORT_PEER (d i : Nat) : Nat := dieBase d + 0x60008 + i * 0x10000
def PORT_LANES (d i : Nat) : Nat := dieBase d + 0x6000C + i * 0x10000
def LANE_CORR_MAX (d i : Nat) : Nat := dieBase d + 0x60010 + i * 0x10000
def PORT_FEC_CORR_CNT (d i : Nat) : Nat := dieBase d + 0x60020 + i * 0x10000
def PORT_FEC_UNCORR_CNT (d i : Nat) : Nat := dieBase d + 0x60024 + i * 0x10000
def PORT_REPLAY_CNT (d i : Nat) : Nat := dieBase d + 0x60028 + i * 0x10000
def PORT_RETRAIN_CNT (d i : Nat) : Nat := dieBase d + 0x6002C + i * 0x10000
def PORT_HDR_ERR_CNT (d i : Nat) : Nat := dieBase d + 0x60030 + i * 0x10000
def PORT_LATE_CNT (d i : Nat) : Nat := dieBase d + 0x60034 + i * 0x10000
def PORT_NOSLOT_CNT (d i : Nat) : Nat := dieBase d + 0x60038 + i * 0x10000
def PORT_TX_BYTES (d i : Nat) : Nat := dieBase d + 0x60040 + i * 0x10000
def PORT_RX_BYTES (d i : Nat) : Nat := dieBase d + 0x60048 + i * 0x10000
def PORT_PASS_BYTES (d i : Nat) : Nat := dieBase d + 0x60050 + i * 0x10000
def PORT_UP_KTIME (d i : Nat) : Nat := dieBase d + 0x60058 + i * 0x10000
def SLOT (d i j : Nat) : Nat := dieBase d + 0x61000 + i * 0x10000 + j * 0x4
def RU_STATUS (d : Nat) : Nat := dieBase d + 0x80000
def RU_BYTES_IN (d : Nat) : Nat := dieBase d + 0x80008
def RU_BYTES_OUT (d : Nat) : Nat := dieBase d + 0x80010
def RU_CORR_CNT (d : Nat) : Nat := dieBase d + 0x80018
def RU_UNCORR_CNT (d : Nat) : Nat := dieBase d + 0x8001C
def FAB_DEV_ADDR (d : Nat) : Nat := dieBase d + 0x90000
def FAB_DIMS (d : Nat) : Nat := dieBase d + 0x90004
def FAB_REQ_TIMEOUT_US (d : Nat) : Nat := dieBase d + 0x90008
def FAB_RETRY (d : Nat) : Nat := dieBase d + 0x9000C
def FAB_LINK_HOLD_US (d : Nat) : Nat := dieBase d + 0x90010
def FAB_VERSION (d : Nat) : Nat := dieBase d + 0x90014
def FAB_ALIAS (d i : Nat) : Nat := dieBase d + 0x90100 + i * 0x8
def LOFT_CFG (d : Nat) : Nat := dieBase d + 0x10000
def LOFT_CORR_CNT (d : Nat) : Nat := dieBase d + 0x10010
def LOFT_UNCORR_CNT (d : Nat) : Nat := dieBase d + 0x10014
def LOFT_POISON_CNT (d : Nat) : Nat := dieBase d + 0x10018
def LOFT_PATROL (d : Nat) : Nat := dieBase d + 0x10020
def CLR_CTRL (d : Nat) : Nat := dieBase d + 0x10040
def CLR_STATUS (d : Nat) : Nat := dieBase d + 0x10044
def CLR_TIME (d : Nat) : Nat := dieBase d + 0x10048
def SPARE_MAP (d i : Nat) : Nat := dieBase d + 0x20000 + i * 0x4
def SPARE_STATUS (d : Nat) : Nat := dieBase d + 0x20040
def SPARE_FAILED (d : Nat) : Nat := dieBase d + 0x20044
def ENG_IDENT (d i : Nat) : Nat := dieBase d + 0x80000 + i * 0x1000
def ENG_STATUS (d i : Nat) : Nat := dieBase d + 0x80004 + i * 0x1000
def ENG_PWR (d i : Nat) : Nat := dieBase d + 0x80008 + i * 0x1000
def ENG_SCYC (d i : Nat) : Nat := dieBase d + 0x80010 + i * 0x1000
def ENG_PASS_CNT (d i : Nat) : Nat := dieBase d + 0x80018 + i * 0x1000
def ENG_FREEZE_FEED (d i : Nat) : Nat := dieBase d + 0x80020 + i * 0x1000
def ENG_FREEZE_DRAIN (d i : Nat) : Nat := dieBase d + 0x80024 + i * 0x1000
def ENG_BUSY_CYC (d i : Nat) : Nat := dieBase d + 0x80028 + i * 0x1000
def SENT_CTRL (d i : Nat) : Nat := dieBase d + 0x80040 + i * 0x1000
def SENT_STALL_CNT (d i : Nat) : Nat := dieBase d + 0x80044 + i * 0x1000
def SENT_LOG_PTR (d i : Nat) : Nat := dieBase d + 0x80048 + i * 0x1000
def ACC_FLAGS (d i : Nat) : Nat := dieBase d + 0x80060 + i * 0x1000
def IQ_STATUS (d i : Nat) : Nat := dieBase d + 0x80070 + i * 0x1000
def SENT_LOG (d i j : Nat) : Nat := dieBase d + 0x80100 + i * 0x1000 + j * 0x8
def SF_REC (d i j : Nat) : Nat := dieBase d + 0x80300 + i * 0x1000 + j * 0x4
def SF_CNT (d i : Nat) : Nat := dieBase d + 0x80318 + i * 0x1000
def IB_STATUS (d i : Nat) : Nat := dieBase d + 0x80320 + i * 0x1000
def IB_MISS_CNT (d i : Nat) : Nat := dieBase d + 0x80324 + i * 0x1000
def IB_LOFT_HIT_CNT (d i : Nat) : Nat := dieBase d + 0x80328 + i * 0x1000
def RUN_START (d i : Nat) : Nat := dieBase d + 0x80330 + i * 0x1000
def RUN_HANDLE (d i : Nat) : Nat := dieBase d + 0x80338 + i * 0x1000
def SPAD_OWN (d i j : Nat) : Nat := dieBase d + 0x80400 + i * 0x1000 + j * 0x4
def SPAD_OWN_PEND (d i : Nat) : Nat := dieBase d + 0x80440 + i * 0x1000
def SRAM_CORR_CNT (d i : Nat) : Nat := dieBase d + 0x80450 + i * 0x1000
def SRAM_UNCORR_CNT (d i : Nat) : Nat := dieBase d + 0x80454 + i * 0x1000
def SRAM_ERR_LAST (d i : Nat) : Nat := dieBase d + 0x80458 + i * 0x1000
def RNG_STATUS (d i : Nat) : Nat := dieBase d + 0x80500 + i * 0x1000
def RNG_BLOCK_CNT (d i : Nat) : Nat := dieBase d + 0x80508 + i * 0x1000

end Reg

def regRows0 : List RegRow := [
  ⟨.all, "DIE_ID", 0x0, 0x0, 1, 0x0, 1, 32, .ro, 0x0, 0x0⟩, -- 01-9
  ⟨.all, "DIE_INCARN", 0x4, 0x0, 1, 0x0, 1, 32, .ro, 0x0, 0x0⟩, -- 01-9
  ⟨.all, "DIE_STATE", 0x8, 0x0, 1, 0x0, 1, 32, .ro, 0x0, 0x0⟩, -- 01-9
  ⟨.all, "DIE_KTIME", 0x10, 0x0, 1, 0x0, 1, 64, .ro, 0x0, 0x0⟩, -- 01-9
  ⟨.all, "CLK_STATUS", 0x1000, 0x0, 1, 0x0, 1, 32, .ro, 0x0, 0x0⟩, -- 01-9
  ⟨.all, "MESH_STALE_CNT", 0x2000, 0x0, 1, 0x0, 1, 32, .rc, 0x0, 0x0⟩, -- 01-9
  ⟨.all, "INCARN_DROP_CNT", 0x2004, 0x0, 1, 0x0, 1, 32, .rc, 0x0, 0x0⟩, -- 01-9
  ⟨.apex, "ID_PART", 0x100, 0x0, 1, 0x0, 1, 32, .ro, 0x0, 0x194B25⟩, -- 01-12
  ⟨.apex, "ID_STEPPING", 0x104, 0x0, 1, 0x0, 1, 32, .ro, 0x0, 0xB1⟩, -- 01-12
  ⟨.apex, "ID_SERIAL", 0x108, 0x0, 1, 0x0, 1, 64, .ro, 0x0, 0x0⟩, -- 01-12
  ⟨.apex, "ID_PRESENT", 0x110, 0x0, 1, 0x0, 1, 32, .ro, 0x0, 0xFFFFFFFF⟩, -- 01-12
  ⟨.apex, "ID_HBM", 0x114, 0x0, 1, 0x0, 1, 32, .ro, 0x0, 0x40⟩, -- 01-12
  ⟨.apex, "INCARN_TABLE", 0x120, 0x4, 7, 0x0, 1, 32, .ro, 0x0, 0x0⟩, -- 01-12
  ⟨.all, "ERR_STATUS", 0x4000, 0x0, 1, 0x0, 1, 32, .ro, 0x0, 0x0⟩, -- 15-17
  ⟨.all, "ERR_OVF_CNT", 0x4004, 0x0, 1, 0x0, 1, 32, .rws, 0xFFFFFFFF, 0x0⟩, -- 15-17
  ⟨.all, "ERR_FIFO_POP", 0x4008, 0x0, 1, 0x0, 1, 32, .wo, 0x1, 0x0⟩, -- 15-17
  ⟨.all, "ERC", 0x4010, 0x0, 1, 0x0, 1, 32, .ro, 0x0, 0x0⟩, -- 15-17
  ⟨.all, "ERC_CFG", 0x4014, 0x0, 1, 0x0, 1, 32, .rw, 0xFFFFFFFF, 0x3E80010⟩, -- 15-17
  ⟨.all, "ERC_THR", 0x4018, 0x0, 1, 0x0, 1, 32, .rw, 0xFFFFFFFF, 0x40001000⟩, -- 15-17
  ⟨.all, "ERC_CTRL", 0x401C, 0x0, 1, 0x0, 1, 32, .wo, 0xF, 0x0⟩, -- 15-17
  ⟨.all, "ERC_WM_STATUS", 0x4020, 0x10, 2, 0x0, 1, 32, .ro, 0x0, 0x1⟩, -- 15-17
  ⟨.all, "ERC_WM_EXTREME", 0x4024, 0x10, 2, 0x0, 1, 32, .ro, 0x0, 0x0⟩, -- 15-17
  ⟨.all, "ERC_WM_FIRST_KTIME", 0x4028, 0x10, 2, 0x0, 1, 64, .ro, 0x0, 0x0⟩, -- 15-17
  ⟨.all, "ERR_ACTIVE", 0x4100, 0x4, 16, 0x0, 1, 32, .ro, 0x0, 0x0⟩, -- 15-17
  ⟨.all, "ERR_HEAD", 0x4140, 0x4, 16, 0x0, 1, 32, .ro, 0x0, 0x0⟩, -- 15-17
  ⟨.apex, "DEVLOG_POS", 0x6000, 0x0, 1, 0x0, 1, 32, .ro, 0x0, 0x0⟩, -- 15-18
  ⟨.apex, "DEVLOG_RD_IDX", 0x6004, 0x0, 1, 0x0, 1, 32, .rw, 0xFFFFFFFF, 0x0⟩, -- 15-18
  ⟨.apex, "DEVLOG_RD", 0x6040, 0x4, 16, 0x0, 1, 32, .ro, 0x0, 0x0⟩, -- 15-18
  ⟨.apex, "HM_CFG", 0x6080, 0x0, 1, 0x0, 1, 32, .rw, 0xFFF, 0x0⟩, -- 15-18
  ⟨.apex, "HM_STATUS", 0x6084, 0x0, 1, 0x0, 1, 32, .ro, 0x0, 0x0⟩, -- 15-18
  ⟨.apex, "HM_DEGRADED", 0x6088, 0x0, 1, 0x0, 1, 32, .ro, 0x0, 0x0⟩, -- 15-18
  ⟨.apex, "DIE_PCTRL_REFUSED", 0x608C, 0x0, 1, 0x0, 1, 32, .ro, 0x0, 0x0⟩, -- 15-18
  ⟨.apex, "DIE_PCTRL", 0x6100, 0x4, 24, 0x0, 1, 32, .wo, 0x7, 0x0⟩, -- 15-18
  ⟨.apex, "REPLAY_TOTAL_CNT", 0x6200, 0x0, 1, 0x0, 1, 32, .rc, 0x0, 0x0⟩, -- 15-18
  ⟨.apex, "ENG_TEST_CNT", 0x6204, 0x0, 1, 0x0, 1, 32, .rc, 0x0, 0x0⟩, -- 15-18
  ⟨.apex, "GR_STATUS", 0x100000, 0x0, 1, 0x0, 1, 32, .ro, 0x0, 0x0⟩, -- 14-14
  ⟨.apex, "GR_PARTIAL_DIES", 0x100004, 0x0, 1, 0x0, 1, 32, .ro, 0x0, 0x0⟩, -- 14-14
  ⟨.apex, "GR_BOOT", 0x100008, 0x0, 1, 0x0, 1, 32, .ro, 0x0, 0x0⟩, -- 14-14
  ⟨.apex, "MEAS", 0x100100, 0x40, 6, 0x4, 12, 32, .ro, 0x0, 0x0⟩, -- 14-14
  ⟨.apex, "STAGED", 0x100340, 0x40, 3, 0x4, 12, 32, .ro, 0x0, 0x0⟩, -- 14-14
  ⟨.apex, "STAGED5", 0x100440, 0x4, 12, 0x0, 1, 32, .ro, 0x0, 0x0⟩, -- 14-14
  ⟨.apex, "TAMPER_STATUS", 0x100400, 0x0, 1, 0x0, 1, 32, .w1c, 0xF, 0x0⟩, -- 14-14
  ⟨.apex, "TAMPER_CNT", 0x100404, 0x0, 1, 0x0, 1, 32, .rc, 0x0, 0x0⟩, -- 14-14
  ⟨.apex, "DSCRUB_CTRL", 0x100410, 0x0, 1, 0x0, 1, 32, .wo, 0x1, 0x0⟩, -- 14-14
  ⟨.apex, "DSCRUB_STATUS", 0x100414, 0x0, 1, 0x0, 1, 32, .ro, 0x0, 0x0⟩ -- 14-14
  ]

def regRows1 : List RegRow := [
  ⟨.apex, "DSCRUB_TIME", 0x100418, 0x0, 1, 0x0, 1, 32, .ro, 0x0, 0x0⟩, -- 14-14
  ⟨.apex, "TRNG_FAIL_CNT", 0x100420, 0x0, 1, 0x0, 1, 32, .rc, 0x0, 0x0⟩, -- 14-14
  ⟨.apex, "Q_CFG", 0x200000, 0x200, 512, 0x0, 1, 32, .rwl, 0x1FFFFF, 0x0⟩, -- 06-9
  ⟨.apex, "Q_IRQ", 0x200004, 0x200, 512, 0x0, 1, 32, .rwl, 0x1FFF, 0x0⟩, -- 06-9
  ⟨.apex, "Q_RING_BASE", 0x200008, 0x200, 512, 0x0, 1, 64, .rwl, 0xFFFFFFFFFFFFF000, 0x0⟩, -- 06-9
  ⟨.apex, "Q_CPL_BASE", 0x200010, 0x200, 512, 0x0, 1, 64, .rwl, 0xFFFFFFFFFFFFF000, 0x0⟩, -- 06-9
  ⟨.apex, "Q_HEAD", 0x200018, 0x200, 512, 0x0, 1, 32, .ro, 0x0, 0x0⟩, -- 06-9
  ⟨.apex, "Q_TAIL", 0x20001C, 0x200, 512, 0x0, 1, 32, .ro, 0x0, 0x0⟩, -- 06-9
  ⟨.apex, "Q_CPL_TAIL", 0x200020, 0x200, 512, 0x0, 1, 32, .ro, 0x0, 0x0⟩, -- 06-9
  ⟨.apex, "Q_CPL_HEAD", 0x200024, 0x200, 512, 0x0, 1, 32, .rw, 0xFFFFFFFF, 0x0⟩, -- 06-9
  ⟨.apex, "Q_SEQ", 0x200028, 0x200, 512, 0x0, 1, 32, .ro, 0x0, 0x0⟩, -- 06-9
  ⟨.apex, "Q_STATUS", 0x20002C, 0x200, 512, 0x0, 1, 32, .ro, 0x0, 0x0⟩, -- 06-9
  ⟨.apex, "Q_CTRL", 0x200030, 0x200, 512, 0x0, 1, 32, .wo, 0x1F, 0x0⟩, -- 06-9
  ⟨.apex, "Q_HALT_SLOT", 0x200034, 0x200, 512, 0x0, 1, 32, .ro, 0x0, 0x0⟩, -- 06-9
  ⟨.apex, "Q_HALT_SEQ", 0x200038, 0x200, 512, 0x0, 1, 32, .ro, 0x0, 0x0⟩, -- 06-9
  ⟨.apex, "Q_BRK_CTRL", 0x200040, 0x200, 512, 0x0, 1, 32, .rw, 0x3, 0x0⟩, -- 06-9
  ⟨.apex, "Q_BRK_VAL", 0x200044, 0x200, 512, 0x0, 1, 32, .rw, 0xFFFFFFFF, 0x0⟩, -- 06-9
  ⟨.apex, "Q_BRK_MASK", 0x200048, 0x200, 512, 0x0, 1, 32, .rw, 0xFFFFFFFF, 0x0⟩, -- 06-9
  ⟨.apex, "Q_DB_ERR_CNT", 0x200050, 0x200, 512, 0x0, 1, 32, .rc, 0x0, 0x0⟩, -- 06-9
  ⟨.apex, "Q_INFO_DROP_CNT", 0x200054, 0x200, 512, 0x0, 1, 32, .rc, 0x0, 0x0⟩, -- 06-9
  ⟨.apex, "Q_PREEMPT_NS", 0x200058, 0x200, 512, 0x0, 1, 32, .ro, 0x0, 0x0⟩, -- 06-9
  ⟨.apex, "QDB", 0x280000, 0x400, 512, 0x0, 1, 32, .wo, 0xFFFFFFFF, 0x0⟩, -- 06-9
  ⟨.apex, "CMD_WAIT_DEFAULT", 0x240000, 0x0, 1, 0x0, 1, 32, .rw, 0xFFFFFF, 0xF4240⟩, -- 06-11
  ⟨.apex, "CMD_DEP_SCAN", 0x240004, 0x0, 1, 0x0, 1, 32, .rw, 0xFFFF, 0x64⟩, -- 06-11
  ⟨.apex, "EVT_SIG", 0x240010, 0x0, 1, 0x0, 1, 64, .wo, 0xFFFFFFFFFFFFFFFF, 0x0⟩, -- 06-11
  ⟨.apex, "EVT_SIG_ERR_CNT", 0x240018, 0x0, 1, 0x0, 1, 32, .rc, 0x0, 0x0⟩, -- 06-11
  ⟨.apex, "EVT", 0x250000, 0x2000, 16, 0x8, 1024, 64, .ro, 0x0, 0x1000000000000⟩, -- 06-11
  ⟨.apex, "JNL_POS", 0x300000, 0x0, 1, 0x0, 1, 32, .ro, 0x0, 0x0⟩, -- 06-11
  ⟨.apex, "JNL_ACK", 0x300004, 0x0, 1, 0x0, 1, 32, .rw, 0xFFFFFFFF, 0x0⟩, -- 06-11
  ⟨.apex, "JNL_CFG", 0x300008, 0x0, 1, 0x0, 1, 32, .rw, 0x7, 0x2⟩, -- 06-11
  ⟨.apex, "JNL_MIRROR_BASE", 0x300010, 0x0, 1, 0x0, 1, 64, .rw, 0xFFFFFFFFFFE00000, 0x0⟩, -- 06-11
  ⟨.apex, "JNL_RD_IDX", 0x300018, 0x0, 1, 0x0, 1, 32, .rw, 0xFFFFFFFF, 0x0⟩, -- 06-11
  ⟨.apex, "JNL_RD", 0x300020, 0x4, 8, 0x0, 1, 32, .ro, 0x0, 0x0⟩, -- 06-11
  ⟨.apex, "JNL_HOLD_CNT", 0x300040, 0x0, 1, 0x0, 1, 32, .rc, 0x0, 0x0⟩, -- 06-11
  ⟨.apex, "BAY_STATE", 0x400000, 0x1000, 16, 0x0, 1, 32, .ro, 0x0, 0x0⟩, -- 07-11
  ⟨.apex, "BAY_DIES", 0x400004, 0x1000, 16, 0x0, 1, 32, .ro, 0x0, 0x0⟩, -- 07-11
  ⟨.apex, "BAY_GROUPS", 0x400008, 0x1000, 16, 0x0, 1, 32, .ro, 0x0, 0x0⟩, -- 07-11
  ⟨.apex, "BAY_CLK", 0x40000C, 0x1000, 16, 0x0, 1, 32, .ro, 0x0, 0x0⟩, -- 07-11
  ⟨.apex, "BAY_POWER", 0x400010, 0x1000, 16, 0x0, 1, 32, .ro, 0x0, 0x0⟩, -- 07-11
  ⟨.apex, "BAY_THROTTLE_CNT", 0x400014, 0x1000, 16, 0x0, 1, 32, .rc, 0x0, 0x0⟩, -- 07-11
  ⟨.apex, "BAY_TURNS", 0x400018, 0x1000, 16, 0x0, 1, 32, .ro, 0x0, 0x0⟩, -- 07-11
  ⟨.apex, "SHARE", 0x400020, 0x1000, 16, 0x4, 4, 32, .ro, 0x0, 0x0⟩, -- 07-11
  ⟨.apex, "USED", 0x400030, 0x1000, 16, 0x4, 4, 32, .ro, 0x0, 0x0⟩, -- 07-11
  ⟨.apex, "ADMIT_TIMEOUT", 0x400040, 0x1000, 16, 0x0, 1, 32, .ro, 0x0, 0x0⟩, -- 07-11
  ⟨.apex, "ADMIT_WAITING", 0x400044, 0x1000, 16, 0x0, 1, 32, .ro, 0x0, 0x0⟩ -- 07-11
  ]

def regRows2 : List RegRow := [
  ⟨.apex, "ADMIT_DELAY_CNT", 0x400050, 0x1000, 16, 0x4, 4, 32, .rc, 0x0, 0x0⟩, -- 07-11
  ⟨.apex, "ADMIT_REFUSE_CNT", 0x400060, 0x1000, 16, 0x4, 4, 32, .rc, 0x0, 0x0⟩, -- 07-11
  ⟨.apex, "BAY_ADMIT_LATE_CNT", 0x400070, 0x1000, 16, 0x0, 1, 32, .rc, 0x0, 0x0⟩, -- 07-11
  ⟨.apex, "BORROW_REVOKE_CNT", 0x400074, 0x1000, 16, 0x0, 1, 32, .rc, 0x0, 0x0⟩, -- 07-11
  ⟨.apex, "BAY_LATE_DROP_CNT", 0x400078, 0x1000, 16, 0x0, 1, 32, .rc, 0x0, 0x0⟩, -- 07-11
  ⟨.apex, "ROLE_KIND", 0x400080, 0x1000, 16, 0x4, 8, 32, .ro, 0x0, 0x0⟩, -- 07-11
  ⟨.apex, "PH_RING_BASE", 0x4000A0, 0x1000, 16, 0x0, 1, 64, .rw, 0xFFFFFFFFFFFFFFC0, 0x0⟩, -- 07-11
  ⟨.apex, "PH_RING_CFG", 0x4000A8, 0x1000, 16, 0x0, 1, 32, .rw, 0xF, 0x0⟩, -- 07-11
  ⟨.apex, "PH_RING_TAIL", 0x4000AC, 0x1000, 16, 0x0, 1, 32, .ro, 0x0, 0x0⟩, -- 07-11
  ⟨.apex, "PH_RING_HEAD", 0x4000B0, 0x1000, 16, 0x0, 1, 32, .rw, 0xFFFFFFFF, 0x0⟩, -- 07-11
  ⟨.apex, "PH_DROP_CNT", 0x4000B4, 0x1000, 16, 0x0, 1, 32, .rc, 0x0, 0x0⟩, -- 07-11
  ⟨.apex, "ROLE_ENG_MAP", 0x400100, 0x1000, 16, 0x4, 120, 32, .ro, 0x0, 0xFFFFFFFF⟩, -- 07-11
  ⟨.apex, "PH_STATE", 0x400800, 0x1000, 16, 0x10, 64, 32, .ro, 0x0, 0x0⟩, -- 07-11
  ⟨.apex, "PH_LATE_KTIME", 0x400808, 0x1000, 16, 0x10, 64, 64, .ro, 0x0, 0x0⟩, -- 07-11
  ⟨.apex, "RT_CFG0", 0x400300, 0x1000, 16, 0x80, 4, 32, .rw, 0x3FFFF, 0x0⟩, -- 10-15
  ⟨.apex, "RT_CFG1", 0x400304, 0x1000, 16, 0x80, 4, 32, .rw, 0x1FFFFFFF, 0x0⟩, -- 10-15
  ⟨.apex, "RT_MODEL_ID", 0x400308, 0x1000, 16, 0x80, 4, 32, .rw, 0xFFFFFFFF, 0x0⟩, -- 10-15
  ⟨.apex, "RT_LAYER_TAB", 0x400310, 0x1000, 16, 0x80, 4, 64, .rw, 0xFFFFFFFFFFFFFFF0, 0x0⟩, -- 10-15
  ⟨.apex, "RT_AREA_VA", 0x400318, 0x1000, 16, 0x80, 4, 64, .rw, 0xFFFFFFFFFFFF0000, 0x0⟩, -- 10-15
  ⟨.apex, "RT_EPOCH_VA", 0x400320, 0x1000, 16, 0x80, 4, 64, .rw, 0xFFFFFFFFFFFF0000, 0x0⟩, -- 10-15
  ⟨.apex, "RT_CTRL", 0x400328, 0x1000, 16, 0x80, 4, 32, .wo, 0x3, 0x0⟩, -- 10-15
  ⟨.apex, "RT_STATE", 0x40032C, 0x1000, 16, 0x80, 4, 32, .ro, 0x0, 0x0⟩, -- 10-15
  ⟨.apex, "RT_EPOCH_LO", 0x400330, 0x1000, 16, 0x80, 4, 32, .ro, 0x0, 0x0⟩, -- 10-15
  ⟨.apex, "RT_EPOCH_HI", 0x400334, 0x1000, 16, 0x80, 4, 32, .ro, 0x0, 0x0⟩, -- 10-15
  ⟨.apex, "RT_STAGED_EPOCH", 0x400338, 0x1000, 16, 0x80, 4, 32, .ro, 0x0, 0x0⟩, -- 10-15
  ⟨.apex, "RT_STAMP_STEP", 0x40033C, 0x1000, 16, 0x80, 4, 32, .ro, 0x0, 0x0⟩, -- 10-15
  ⟨.apex, "RT_RECHECK", 0x400340, 0x1000, 16, 0x80, 4, 32, .rw, 0xFFFF, 0x0⟩, -- 10-15
  ⟨.apex, "RT_NOTICE", 0x400344, 0x1000, 16, 0x80, 4, 32, .rw, 0x7FFFFF, 0x0⟩, -- 10-15
  ⟨.apex, "RT_HOLD_NS", 0x400348, 0x1000, 16, 0x80, 4, 32, .ro, 0x0, 0x0⟩, -- 10-15
  ⟨.apex, "RT_FLIP_CNT", 0x40034C, 0x1000, 16, 0x80, 4, 32, .rc, 0x0, 0x0⟩, -- 10-15
  ⟨.apex, "RT_RECHECK_FAIL_CNT", 0x400350, 0x1000, 16, 0x80, 4, 32, .rc, 0x0, 0x0⟩, -- 10-15
  ⟨.apex, "RT_STRAY_CNT", 0x400354, 0x1000, 16, 0x80, 4, 32, .rc, 0x0, 0x0⟩, -- 10-15
  ⟨.apex, "RT_LAST_RECHECK", 0x400358, 0x1000, 16, 0x80, 4, 64, .ro, 0x0, 0x0⟩, -- 10-15
  ⟨.apex, "LW_VA", 0x400500, 0x1000, 16, 0x10, 32, 64, .rw, 0x1FFFFFFFFFF0000, 0x0⟩, -- 12-17
  ⟨.apex, "LW_SA", 0x400508, 0x1000, 16, 0x10, 32, 32, .rw, 0x1FFFFFFF, 0x0⟩, -- 12-17
  ⟨.apex, "LW_CFG", 0x40050C, 0x1000, 16, 0x10, 32, 32, .rw, 0x7FFFFFF, 0x0⟩, -- 12-17
  ⟨.apex, "CG_TABLE_VA", 0x400700, 0x1000, 16, 0x0, 1, 64, .rw, 0x1FFFFFFFFFFF000, 0x0⟩, -- 13-9
  ⟨.apex, "CG_CFG", 0x400708, 0x1000, 16, 0x0, 1, 32, .rw, 0xFFFFFF, 0x2710⟩, -- 13-9
  ⟨.apex, "CG_RUNNING", 0x40070C, 0x1000, 16, 0x0, 1, 32, .ro, 0x0, 0x0⟩, -- 13-9
  ⟨.apex, "CG_BUSY", 0x400710, 0x1000, 16, 0x0, 1, 64, .ro, 0x0, 0x0⟩, -- 13-9
  ⟨.apex, "COLL_DONE_CNT", 0x400718, 0x1000, 16, 0x0, 1, 32, .rc, 0x0, 0x0⟩, -- 13-9
  ⟨.apex, "COLL_FAIL_CNT", 0x40071C, 0x1000, 16, 0x0, 1, 32, .rc, 0x0, 0x0⟩, -- 13-9
  ⟨.apex, "COLL_LATE_CNT", 0x400720, 0x1000, 16, 0x0, 1, 32, .rc, 0x0, 0x0⟩, -- 13-9
  ⟨.apex, "COLL_GATHER_CNT", 0x400724, 0x1000, 16, 0x0, 1, 32, .rc, 0x0, 0x0⟩, -- 13-9
  ⟨.apex, "COLL_SMALL_CNT", 0x400728, 0x1000, 16, 0x0, 1, 32, .rc, 0x0, 0x0⟩ -- 13-9
  ]

def regRows3 : List RegRow := [
  ⟨.apex, "BAY_FAULT_CFG", 0x400740, 0x1000, 16, 0x0, 1, 32, .rw, 0x7FFFFF, 0x0⟩, -- 15-20
  ⟨.apex, "BAY_FAULT_STATUS", 0x400744, 0x1000, 16, 0x0, 1, 32, .ro, 0x0, 0x0⟩, -- 15-20
  ⟨.apex, "REPLAY_CFG", 0x400748, 0x1000, 16, 0x0, 1, 32, .rw, 0xFF, 0x0⟩, -- 15-20
  ⟨.apex, "REPLAY_CNT", 0x40074C, 0x1000, 16, 0x0, 1, 32, .rc, 0x0, 0x0⟩, -- 15-20
  ⟨.apex, "MIRROR_STATUS", 0x400750, 0x1000, 16, 0x0, 1, 32, .ro, 0x0, 0x0⟩, -- 15-20
  ⟨.apex, "MIRROR_BACKLOG", 0x400754, 0x1000, 16, 0x0, 1, 32, .ro, 0x0, 0x0⟩, -- 15-20
  ⟨.apex, "MIRROR_GEN", 0x400758, 0x1000, 16, 0x0, 1, 64, .ro, 0x0, 0x0⟩, -- 15-20
  ⟨.apex, "MIRROR_COMMIT", 0x400760, 0x1000, 16, 0x0, 1, 64, .ro, 0x0, 0x0⟩, -- 15-20
  ⟨.apex, "MIRROR_TX_BYTES", 0x400768, 0x1000, 16, 0x0, 1, 64, .ro, 0x0, 0x0⟩, -- 15-20
  ⟨.apex, "CKPT_STATUS", 0x400770, 0x1000, 16, 0x0, 1, 32, .ro, 0x0, 0x0⟩, -- 15-20
  ⟨.apex, "CKPT_SKIP_CNT", 0x400774, 0x1000, 16, 0x0, 1, 32, .rc, 0x0, 0x0⟩, -- 15-20
  ⟨.apex, "CKPT_LAST_KTIME", 0x400778, 0x1000, 16, 0x0, 1, 64, .ro, 0x0, 0x0⟩, -- 15-20
  ⟨.apex, "MEM_OBJ_CNT", 0x400C00, 0x1000, 16, 0x0, 1, 32, .ro, 0x0, 0x0⟩, -- 08-13
  ⟨.apex, "MEM_TABLE_SLABS", 0x400C04, 0x1000, 16, 0x0, 1, 32, .ro, 0x0, 0x0⟩, -- 08-13
  ⟨.apex, "MEM_AGE_TICK", 0x400C08, 0x1000, 16, 0x0, 1, 32, .rw, 0xFFFF, 0x64⟩, -- 08-13
  ⟨.apex, "MEM_T3_TIMEOUT", 0x400C0C, 0x1000, 16, 0x0, 1, 32, .rw, 0xFFFFFF, 0x32⟩, -- 08-13
  ⟨.apex, "DEMAND_FILL_CNT", 0x400C10, 0x1000, 16, 0x0, 1, 32, .rc, 0x0, 0x0⟩, -- 08-13
  ⟨.apex, "DEMAND_NOFILL_CNT", 0x400C14, 0x1000, 16, 0x0, 1, 32, .rc, 0x0, 0x0⟩, -- 08-13
  ⟨.apex, "EVICT_CNT", 0x400C18, 0x1000, 16, 0x0, 1, 32, .rc, 0x0, 0x0⟩, -- 08-13
  ⟨.apex, "WB_CNT", 0x400C1C, 0x1000, 16, 0x0, 1, 32, .rc, 0x0, 0x0⟩, -- 08-13
  ⟨.apex, "WB_FAIL_CNT", 0x400C20, 0x1000, 16, 0x0, 1, 32, .rc, 0x0, 0x0⟩, -- 08-13
  ⟨.apex, "PF_LATE_CNT", 0x400C24, 0x1000, 16, 0x0, 1, 32, .rc, 0x0, 0x0⟩, -- 08-13
  ⟨.apex, "PF_SKIP_CNT", 0x400C28, 0x1000, 16, 0x0, 1, 32, .rc, 0x0, 0x0⟩, -- 08-13
  ⟨.apex, "T3_LATE_CNT", 0x400C2C, 0x1000, 16, 0x4, 2, 32, .rc, 0x0, 0x0⟩, -- 08-13
  ⟨.apex, "PF_STATE", 0x400C40, 0x1000, 16, 0x4, 16, 32, .ro, 0x0, 0x0⟩, -- 08-13
  ⟨.apex, "WM_CFG", 0x400D00, 0x1000, 16, 0x20, 8, 32, .rw, 0x7FFFFFF, 0x0⟩, -- 08-13
  ⟨.apex, "WM_THRESH", 0x400D04, 0x1000, 16, 0x20, 8, 32, .rw, 0xFFFFFFFF, 0x0⟩, -- 08-13
  ⟨.apex, "WM_CTRL", 0x400D08, 0x1000, 16, 0x20, 8, 32, .wo, 0x3, 0x0⟩, -- 08-13
  ⟨.apex, "WM_STATUS", 0x400D0C, 0x1000, 16, 0x20, 8, 32, .ro, 0x0, 0x0⟩, -- 08-13
  ⟨.apex, "WM_EXTREME", 0x400D10, 0x1000, 16, 0x20, 8, 32, .ro, 0x0, 0x0⟩, -- 08-13
  ⟨.apex, "WM_FIRST_KTIME", 0x400D18, 0x1000, 16, 0x20, 8, 64, .ro, 0x0, 0x0⟩, -- 08-13
  ⟨.apex, "KVP_CFG0", 0x400E00, 0x1000, 16, 0x20, 4, 32, .rwl, 0x3FFFFFF, 0x0⟩, -- 09-9
  ⟨.apex, "KVP_CFG1", 0x400E04, 0x1000, 16, 0x20, 4, 32, .rwl, 0x1FFF, 0x0⟩, -- 09-9
  ⟨.apex, "KVP_GK", 0x400E08, 0x1000, 16, 0x20, 4, 32, .rwl, 0xFFFFFFFF, 0x3F800000⟩, -- 09-9
  ⟨.apex, "KVP_GEOM", 0x400E0C, 0x1000, 16, 0x20, 4, 32, .ro, 0x0, 0x0⟩, -- 09-9
  ⟨.apex, "KVP_SEQS", 0x400E10, 0x1000, 16, 0x20, 4, 32, .ro, 0x0, 0x0⟩, -- 09-9
  ⟨.apex, "KVP_BLOCKS", 0x400E14, 0x1000, 16, 0x20, 4, 32, .ro, 0x0, 0x0⟩, -- 09-9
  ⟨.apex, "KV_GATHER_CNT", 0x400E80, 0x1000, 16, 0x0, 1, 32, .rc, 0x0, 0x0⟩, -- 09-9
  ⟨.apex, "KV_HIT_CNT", 0x400E84, 0x1000, 16, 0x0, 1, 32, .rc, 0x0, 0x0⟩, -- 09-9
  ⟨.apex, "KV_DIGEST_CNT", 0x400E88, 0x1000, 16, 0x0, 1, 32, .rc, 0x0, 0x0⟩, -- 09-9
  ⟨.apex, "KV_SWAP_OUT_CNT", 0x400E8C, 0x1000, 16, 0x0, 1, 32, .rc, 0x0, 0x0⟩, -- 09-9
  ⟨.apex, "KV_SWAP_IN_CNT", 0x400E90, 0x1000, 16, 0x0, 1, 32, .rc, 0x0, 0x0⟩, -- 09-9
  ⟨.apex, "BAY_SEC", 0x400F00, 0x1000, 16, 0x0, 1, 32, .ro, 0x0, 0x0⟩, -- 14-15
  ⟨.apex, "BAY_CONSENT", 0x400F04, 0x1000, 16, 0x0, 1, 32, .ro, 0x0, 0x0⟩, -- 14-15
  ⟨.apex, "BAY_CONSENT_EVER", 0x400F08, 0x1000, 16, 0x0, 1, 32, .ro, 0x0, 0x0⟩ -- 14-15
  ]

def regRows4 : List RegRow := [
  ⟨.apex, "BAY_OP_SEQ", 0x400F10, 0x1000, 16, 0x0, 1, 64, .ro, 0x0, 0x0⟩, -- 14-15
  ⟨.apex, "BAY_TX_SEQ", 0x400F18, 0x1000, 16, 0x0, 1, 64, .ro, 0x0, 0x0⟩, -- 14-15
  ⟨.apex, "BAY_SEAL_KTIME", 0x400F20, 0x1000, 16, 0x0, 1, 64, .ro, 0x0, 0x0⟩, -- 14-15
  ⟨.apex, "DEV_NOTICE", 0x400F28, 0x1000, 16, 0x0, 1, 32, .ro, 0x0, 0x0⟩, -- 14-15
  ⟨.apex, "DEV_NOTICE_CFG", 0x400F2C, 0x1000, 16, 0x0, 1, 32, .rw, 0x7FFFFF, 0x0⟩, -- 14-15
  ⟨.apex, "DEV_THERM_KTIME", 0x400F30, 0x1000, 16, 0x0, 1, 64, .ro, 0x0, 0x0⟩, -- 14-15
  ⟨.apex, "DEV_BAY_POWER_BUDGET", 0x410000, 0x0, 1, 0x0, 1, 32, .rw, 0xFFFF, 0x7D0⟩, -- 07-12
  ⟨.apex, "DEV_QUARANTINE", 0x410004, 0x0, 1, 0x0, 1, 32, .rws, 0x0, 0x0⟩, -- 07-12
  ⟨.apex, "DEV_DIES_FREE", 0x410008, 0x0, 1, 0x0, 1, 32, .ro, 0x0, 0xFFFFF⟩, -- 07-12
  ⟨.apex, "Q_ROLE", 0x410100, 0x4, 64, 0x0, 1, 32, .ro, 0x0, 0xFFFFFFFF⟩, -- 07-12
  ⟨.apex, "HL_STATUS", 0x500000, 0x100, 2, 0x0, 1, 32, .ro, 0x0, 0x0⟩, -- 16-5
  ⟨.apex, "HL_BAR2_CFG", 0x500004, 0x100, 2, 0x0, 1, 32, .rw, 0x1F, 0x0⟩, -- 16-5
  ⟨.apex, "HL_BAR2_BASE", 0x500008, 0x100, 2, 0x0, 1, 64, .rw, 0x1FFFFFFC0000000, 0x0⟩, -- 16-5
  ⟨.apex, "HL_DROP_CNT", 0x500010, 0x100, 2, 0x0, 1, 32, .rc, 0x0, 0x0⟩, -- 16-5
  ⟨.apex, "HL_BAR2_ERR_CNT", 0x500014, 0x100, 2, 0x0, 1, 32, .rc, 0x0, 0x0⟩, -- 16-5
  ⟨.apex, "HL_TX_BYTES", 0x500018, 0x100, 2, 0x0, 1, 64, .ro, 0x0, 0x0⟩, -- 16-5
  ⟨.apex, "HL_RX_BYTES", 0x500020, 0x100, 2, 0x0, 1, 64, .ro, 0x0, 0x0⟩, -- 16-5
  ⟨.apex, "CC_STATUS", 0x501004, 0x0, 1, 0x0, 1, 32, .ro, 0x0, 0x0⟩, -- 16-5
  ⟨.apex, "CC_WIN_BASE", 0x501010, 0x10, 8, 0x0, 1, 64, .rw, 0xFFFFFFFFFFFFF000, 0x0⟩, -- 16-5
  ⟨.apex, "CC_WIN_CFG", 0x501018, 0x10, 8, 0x0, 1, 32, .rw, 0xFFFFF001, 0x0⟩, -- 16-5
  ⟨.apex, "CC_SNOOP_CNT", 0x501100, 0x0, 1, 0x0, 1, 32, .rc, 0x0, 0x0⟩, -- 16-5
  ⟨.apex, "CC_EVICT_CNT", 0x501104, 0x0, 1, 0x0, 1, 32, .rc, 0x0, 0x0⟩, -- 16-5
  ⟨.apex, "CC_BOGUS_CNT", 0x501108, 0x0, 1, 0x0, 1, 32, .rc, 0x0, 0x0⟩, -- 16-5
  ⟨.apex, "CC_GO_WAIT_CNT", 0x50110C, 0x0, 1, 0x0, 1, 32, .rc, 0x0, 0x0⟩, -- 16-5
  ⟨.apex, "MSIX_ADDR", 0x580000, 0x10, 2048, 0x0, 1, 64, .rw, 0xFFFFFFFFFFFFFFFC, 0x0⟩, -- 16-5
  ⟨.apex, "MSIX_DATA", 0x580008, 0x10, 2048, 0x0, 1, 32, .rw, 0xFFFFFFFF, 0x0⟩, -- 16-5
  ⟨.apex, "MSIX_VCTRL", 0x58000C, 0x10, 2048, 0x0, 1, 32, .rw, 0x1, 0x1⟩, -- 16-5
  ⟨.apex, "MSIX_PBA", 0x588000, 0x8, 32, 0x0, 1, 64, .ro, 0x0, 0x0⟩, -- 16-5
  ⟨.apex, "MSIX_LINK", 0x589000, 0x4, 64, 0x0, 1, 32, .rw, 0xFFFFFFFF, 0x0⟩, -- 16-5
  ⟨.apex, "TIME_CFG", 0x600000, 0x0, 1, 0x0, 1, 32, .rw, 0x3FF, 0x0⟩, -- 12-16
  ⟨.apex, "TIME_STATUS", 0x600004, 0x0, 1, 0x0, 1, 32, .ro, 0x0, 0xFF00⟩, -- 12-16
  ⟨.apex, "TIME_OFFSET", 0x600008, 0x0, 1, 0x0, 1, 32, .ro, 0x0, 0x0⟩, -- 12-16
  ⟨.apex, "TIME_DELAY", 0x60000C, 0x0, 1, 0x0, 1, 32, .ro, 0x0, 0x0⟩, -- 12-16
  ⟨.apex, "TIME_RATE", 0x600010, 0x0, 1, 0x0, 1, 32, .ro, 0x0, 0x0⟩, -- 12-16
  ⟨.apex, "TIME_LOCK_KTIME", 0x600018, 0x0, 1, 0x0, 1, 64, .ro, 0x0, 0x0⟩, -- 12-16
  ⟨.apex, "TIME_HOLDOVER_CNT", 0x600020, 0x0, 1, 0x0, 1, 32, .rc, 0x0, 0x0⟩, -- 12-16
  ⟨.apex, "PWR_STATUS", 0x610000, 0x0, 1, 0x0, 1, 32, .ro, 0x0, 0xFF⟩, -- 17-16
  ⟨.apex, "PWR_RAIL_FAULT", 0x610004, 0x0, 1, 0x0, 1, 32, .rws, 0x0, 0x0⟩, -- 17-16
  ⟨.apex, "PKG_POWER", 0x610008, 0x0, 1, 0x0, 1, 32, .ro, 0x0, 0x0⟩, -- 17-16
  ⟨.apex, "THERM_STATUS", 0x61000C, 0x0, 1, 0x0, 1, 32, .ro, 0x0, 0x0⟩, -- 17-16
  ⟨.apex, "THERM_EMERG_CNT", 0x610010, 0x0, 1, 0x0, 1, 32, .rc, 0x0, 0x0⟩, -- 17-16
  ⟨.apex, "MI_STATUS", 0x700000, 0x0, 1, 0x0, 1, 32, .ro, 0x0, 0x0⟩, -- 16-8
  ⟨.apex, "MI_EID", 0x700004, 0x0, 1, 0x0, 1, 32, .ro, 0x0, 0x0⟩, -- 16-8
  ⟨.apex, "MI_ADDR", 0x700008, 0x0, 1, 0x0, 1, 32, .ro, 0x0, 0x0⟩, -- 16-8
  ⟨.apex, "MI_DUP_CNT", 0x700010, 0x0, 1, 0x0, 1, 32, .rc, 0x0, 0x0⟩ -- 16-8
  ]

def regRows5 : List RegRow := [
  ⟨.apex, "MI_PEC_ERR_CNT", 0x700014, 0x0, 1, 0x0, 1, 32, .rc, 0x0, 0x0⟩, -- 16-8
  ⟨.apex, "MI_REASM_DROP_CNT", 0x700018, 0x0, 1, 0x0, 1, 32, .rc, 0x0, 0x0⟩, -- 16-8
  ⟨.apex, "OPERATOR_KEY_ID", 0x700020, 0x4, 12, 0x0, 1, 32, .rw, 0xFFFFFFFF, 0x0⟩, -- 16-8
  ⟨.apex, "FW_STATE", 0x700050, 0x0, 1, 0x0, 1, 32, .ro, 0x0, 0x0⟩, -- 16-8
  ⟨.apex, "FW_TRIAL_S", 0x700054, 0x0, 1, 0x0, 1, 32, .rw, 0xFFFF, 0x258⟩, -- 16-8
  ⟨.edge, "HBM_STATUS", 0x10000, 0x10000, 2, 0x0, 1, 32, .ro, 0x0, 0x0⟩, -- 08-14
  ⟨.edge, "HBM_TEMP", 0x10004, 0x10000, 2, 0x0, 1, 32, .ro, 0x0, 0x0⟩, -- 08-14
  ⟨.edge, "HBM_CORR_CNT", 0x10010, 0x10000, 2, 0x0, 1, 32, .rc, 0x0, 0x0⟩, -- 08-14
  ⟨.edge, "HBM_UNCORR_CNT", 0x10014, 0x10000, 2, 0x0, 1, 32, .rc, 0x0, 0x0⟩, -- 08-14
  ⟨.edge, "HBM_RD_BYTES", 0x10018, 0x10000, 2, 0x0, 1, 64, .ro, 0x0, 0x0⟩, -- 08-14
  ⟨.edge, "HBM_WR_BYTES", 0x10020, 0x10000, 2, 0x0, 1, 64, .ro, 0x0, 0x0⟩, -- 08-14
  ⟨.edge, "TM_STATUS", 0x30000, 0x100, 2, 0x0, 1, 32, .ro, 0x0, 0x0⟩, -- 08-14
  ⟨.edge, "TM_BYTES", 0x30008, 0x100, 2, 0x0, 1, 64, .ro, 0x0, 0x0⟩, -- 08-14
  ⟨.edge, "TM_ERR_CNT", 0x30010, 0x100, 2, 0x0, 1, 32, .rc, 0x0, 0x0⟩, -- 08-14
  ⟨.edge, "HBM_TAG_EN", 0x40000, 0x0, 1, 0x0, 1, 32, .ro, 0x0, 0x0⟩, -- 08-14
  ⟨.edge, "IU_TAG_FAIL_CNT", 0x40004, 0x0, 1, 0x0, 1, 32, .rc, 0x0, 0x0⟩, -- 08-14
  ⟨.edge, "IU_POISON_CNT", 0x40008, 0x0, 1, 0x0, 1, 32, .rc, 0x0, 0x0⟩, -- 08-14
  ⟨.edge, "IU_LAST", 0x40010, 0x0, 1, 0x0, 1, 64, .ro, 0x0, 0x0⟩, -- 08-14
  ⟨.edge, "SEC_OPEN_FAIL_CNT", 0x40800, 0x0, 1, 0x0, 1, 32, .rc, 0x0, 0x0⟩, -- 14-16
  ⟨.edge, "SEC_REFUSE_CNT", 0x40804, 0x0, 1, 0x0, 1, 32, .rc, 0x0, 0x0⟩, -- 14-16
  ⟨.edge, "SEC_SRC_USED", 0x40808, 0x0, 1, 0x0, 1, 32, .ro, 0x0, 0x0⟩, -- 14-16
  ⟨.edge, "SEC_LINK_AUTH_FAIL_CNT", 0x4080C, 0x0, 1, 0x0, 1, 32, .rc, 0x0, 0x0⟩, -- 14-16
  ⟨.edge, "HU_STATUS", 0x50000, 0x0, 1, 0x0, 1, 32, .ro, 0x0, 0x0⟩, -- 10-16
  ⟨.edge, "HU_BYTES", 0x50008, 0x0, 1, 0x0, 1, 64, .ro, 0x0, 0x0⟩, -- 10-16
  ⟨.edge, "HU_MISMATCH_CNT", 0x50010, 0x0, 1, 0x0, 1, 32, .rc, 0x0, 0x0⟩, -- 10-16
  ⟨.edge, "PORT_CFG", 0x60000, 0x10000, 2, 0x0, 1, 32, .rw, 0x3, 0x0⟩, -- 12-14
  ⟨.edge, "PORT_STATUS", 0x60004, 0x10000, 2, 0x0, 1, 32, .ro, 0x0, 0x0⟩, -- 12-14
  ⟨.edge, "PORT_PEER", 0x60008, 0x10000, 2, 0x0, 1, 32, .ro, 0x0, 0x0⟩, -- 12-14
  ⟨.edge, "PORT_LANES", 0x6000C, 0x10000, 2, 0x0, 1, 32, .ro, 0x0, 0x0⟩, -- 12-14
  ⟨.edge, "LANE_CORR_MAX", 0x60010, 0x10000, 2, 0x0, 1, 32, .rw, 0xFFFFFFFF, 0x10000⟩, -- 12-14
  ⟨.edge, "PORT_FEC_CORR_CNT", 0x60020, 0x10000, 2, 0x0, 1, 32, .rc, 0x0, 0x0⟩, -- 12-14
  ⟨.edge, "PORT_FEC_UNCORR_CNT", 0x60024, 0x10000, 2, 0x0, 1, 32, .rc, 0x0, 0x0⟩, -- 12-14
  ⟨.edge, "PORT_REPLAY_CNT", 0x60028, 0x10000, 2, 0x0, 1, 32, .rc, 0x0, 0x0⟩, -- 12-14
  ⟨.edge, "PORT_RETRAIN_CNT", 0x6002C, 0x10000, 2, 0x0, 1, 32, .rc, 0x0, 0x0⟩, -- 12-14
  ⟨.edge, "PORT_HDR_ERR_CNT", 0x60030, 0x10000, 2, 0x0, 1, 32, .rc, 0x0, 0x0⟩, -- 12-14
  ⟨.edge, "PORT_LATE_CNT", 0x60034, 0x10000, 2, 0x0, 1, 32, .rc, 0x0, 0x0⟩, -- 12-14
  ⟨.edge, "PORT_NOSLOT_CNT", 0x60038, 0x10000, 2, 0x0, 1, 32, .rc, 0x0, 0x0⟩, -- 12-14
  ⟨.edge, "PORT_TX_BYTES", 0x60040, 0x10000, 2, 0x0, 1, 64, .ro, 0x0, 0x0⟩, -- 12-14
  ⟨.edge, "PORT_RX_BYTES", 0x60048, 0x10000, 2, 0x0, 1, 64, .ro, 0x0, 0x0⟩, -- 12-14
  ⟨.edge, "PORT_PASS_BYTES", 0x60050, 0x10000, 2, 0x0, 1, 64, .ro, 0x0, 0x0⟩, -- 12-14
  ⟨.edge, "PORT_UP_KTIME", 0x60058, 0x10000, 2, 0x0, 1, 64, .ro, 0x0, 0x0⟩, -- 12-14
  ⟨.edge, "SLOT", 0x61000, 0x10000, 2, 0x4, 64, 32, .rw, 0x1FFFF, 0x0⟩, -- 12-14
  ⟨.edge, "RU_STATUS", 0x80000, 0x0, 1, 0x0, 1, 32, .ro, 0x0, 0x0⟩, -- 13-10
  ⟨.edge, "RU_BYTES_IN", 0x80008, 0x0, 1, 0x0, 1, 64, .ro, 0x0, 0x0⟩, -- 13-10
  ⟨.edge, "RU_BYTES_OUT", 0x80010, 0x0, 1, 0x0, 1, 64, .ro, 0x0, 0x0⟩ -- 13-10
  ]

def regRows6 : List RegRow := [
  ⟨.edge, "RU_CORR_CNT", 0x80018, 0x0, 1, 0x0, 1, 32, .rc, 0x0, 0x0⟩, -- 13-10
  ⟨.edge, "RU_UNCORR_CNT", 0x8001C, 0x0, 1, 0x0, 1, 32, .rc, 0x0, 0x0⟩, -- 13-10
  ⟨.edge, "FAB_DEV_ADDR", 0x90000, 0x0, 1, 0x0, 1, 32, .rw, 0xFFFFFF, 0x0⟩, -- 12-16
  ⟨.edge, "FAB_DIMS", 0x90004, 0x0, 1, 0x0, 1, 32, .rw, 0x3FFFFFF, 0x3000000⟩, -- 12-16
  ⟨.edge, "FAB_REQ_TIMEOUT_US", 0x90008, 0x0, 1, 0x0, 1, 32, .rw, 0xFFFFFF, 0x64⟩, -- 12-16
  ⟨.edge, "FAB_RETRY", 0x9000C, 0x0, 1, 0x0, 1, 32, .rw, 0xF, 0x8⟩, -- 12-16
  ⟨.edge, "FAB_LINK_HOLD_US", 0x90010, 0x0, 1, 0x0, 1, 32, .rw, 0xFFFF, 0x3E8⟩, -- 12-16
  ⟨.edge, "FAB_VERSION", 0x90014, 0x0, 1, 0x0, 1, 32, .ro, 0x0, 0x3F0203⟩, -- 12-16
  ⟨.edge, "FAB_ALIAS", 0x90100, 0x8, 16, 0x0, 1, 64, .rw, 0x1FFFFFFFFFFFF, 0x0⟩, -- 12-16
  ⟨.compute, "LOFT_CFG", 0x10000, 0x0, 1, 0x0, 1, 32, .rwl, 0xF, 0x2⟩, -- 04-9
  ⟨.compute, "LOFT_CORR_CNT", 0x10010, 0x0, 1, 0x0, 1, 32, .rc, 0x0, 0x0⟩, -- 04-9
  ⟨.compute, "LOFT_UNCORR_CNT", 0x10014, 0x0, 1, 0x0, 1, 32, .rc, 0x0, 0x0⟩, -- 04-9
  ⟨.compute, "LOFT_POISON_CNT", 0x10018, 0x0, 1, 0x0, 1, 32, .ro, 0x0, 0x0⟩, -- 04-9
  ⟨.compute, "LOFT_PATROL", 0x10020, 0x0, 1, 0x0, 1, 32, .rw, 0x1, 0x1⟩, -- 04-9
  ⟨.compute, "CLR_CTRL", 0x10040, 0x0, 1, 0x0, 1, 32, .wo, 0x1, 0x0⟩, -- 04-9
  ⟨.compute, "CLR_STATUS", 0x10044, 0x0, 1, 0x0, 1, 32, .ro, 0x0, 0x0⟩, -- 04-9
  ⟨.compute, "CLR_TIME", 0x10048, 0x0, 1, 0x0, 1, 32, .ro, 0x0, 0x0⟩, -- 04-9
  ⟨.compute, "SPARE_MAP", 0x20000, 0x4, 12, 0x0, 1, 32, .ro, 0x0, 0x0⟩, -- 15-19
  ⟨.compute, "SPARE_STATUS", 0x20040, 0x0, 1, 0x0, 1, 32, .ro, 0x0, 0x0⟩, -- 15-19
  ⟨.compute, "SPARE_FAILED", 0x20044, 0x0, 1, 0x0, 1, 64, .ro, 0x0, 0x0⟩, -- 15-19
  ⟨.compute, "ENG_IDENT", 0x80000, 0x1000, 52, 0x0, 1, 32, .ro, 0x0, 0x0⟩, -- 02-12
  ⟨.compute, "ENG_STATUS", 0x80004, 0x1000, 52, 0x0, 1, 32, .ro, 0x0, 0x0⟩, -- 02-12
  ⟨.compute, "ENG_PWR", 0x80008, 0x1000, 52, 0x0, 1, 32, .rw, 0x3, 0x0⟩, -- 02-12
  ⟨.compute, "ENG_SCYC", 0x80010, 0x1000, 52, 0x0, 1, 32, .ro, 0x0, 0x0⟩, -- 02-12
  ⟨.compute, "ENG_PASS_CNT", 0x80018, 0x1000, 52, 0x0, 1, 64, .ro, 0x0, 0x0⟩, -- 02-12
  ⟨.compute, "ENG_FREEZE_FEED", 0x80020, 0x1000, 52, 0x0, 1, 32, .rc, 0x0, 0x0⟩, -- 02-12
  ⟨.compute, "ENG_FREEZE_DRAIN", 0x80024, 0x1000, 52, 0x0, 1, 32, .rc, 0x0, 0x0⟩, -- 02-12
  ⟨.compute, "ENG_BUSY_CYC", 0x80028, 0x1000, 52, 0x0, 1, 64, .ro, 0x0, 0x0⟩, -- 02-12
  ⟨.compute, "SENT_CTRL", 0x80040, 0x1000, 52, 0x0, 1, 32, .rw, 0x7, 0x0⟩, -- 02-12
  ⟨.compute, "SENT_STALL_CNT", 0x80044, 0x1000, 52, 0x0, 1, 32, .rc, 0x0, 0x0⟩, -- 02-12
  ⟨.compute, "SENT_LOG_PTR", 0x80048, 0x1000, 52, 0x0, 1, 32, .ro, 0x0, 0x0⟩, -- 02-12
  ⟨.compute, "ACC_FLAGS", 0x80060, 0x1000, 52, 0x0, 1, 64, .w1c, 0xFFFFFFFFFFFFFFFF, 0x0⟩, -- 02-12
  ⟨.compute, "IQ_STATUS", 0x80070, 0x1000, 52, 0x0, 1, 32, .ro, 0x0, 0x0⟩, -- 02-12
  ⟨.compute, "SENT_LOG", 0x80100, 0x1000, 52, 0x8, 64, 64, .ro, 0x0, 0x0⟩, -- 02-12
  ⟨.compute, "SF_REC", 0x80300, 0x1000, 52, 0x4, 5, 32, .ro, 0x0, 0x0⟩, -- 05-16
  ⟨.compute, "SF_CNT", 0x80318, 0x1000, 52, 0x0, 1, 32, .rc, 0x0, 0x0⟩, -- 05-16
  ⟨.compute, "IB_STATUS", 0x80320, 0x1000, 52, 0x0, 1, 32, .ro, 0x0, 0x0⟩, -- 05-16
  ⟨.compute, "IB_MISS_CNT", 0x80324, 0x1000, 52, 0x0, 1, 32, .rc, 0x0, 0x0⟩, -- 05-16
  ⟨.compute, "IB_LOFT_HIT_CNT", 0x80328, 0x1000, 52, 0x0, 1, 32, .rc, 0x0, 0x0⟩, -- 05-16
  ⟨.compute, "RUN_START", 0x80330, 0x1000, 52, 0x0, 1, 64, .ro, 0x0, 0x0⟩, -- 05-16
  ⟨.compute, "RUN_HANDLE", 0x80338, 0x1000, 52, 0x0, 1, 32, .ro, 0x0, 0x0⟩, -- 05-16
  ⟨.compute, "SPAD_OWN", 0x80400, 0x1000, 52, 0x4, 16, 32, .rw, 0x3F, 0x1010⟩, -- 04-7
  ⟨.compute, "SPAD_OWN_PEND", 0x80440, 0x1000, 52, 0x0, 1, 32, .ro, 0x0, 0x0⟩, -- 04-7
  ⟨.compute, "SRAM_CORR_CNT", 0x80450, 0x1000, 52, 0x0, 1, 32, .rc, 0x0, 0x0⟩, -- 04-7
  ⟨.compute, "SRAM_UNCORR_CNT", 0x80454, 0x1000, 52, 0x0, 1, 32, .rc, 0x0, 0x0⟩ -- 04-7
  ]

def regRows7 : List RegRow := [
  ⟨.compute, "SRAM_ERR_LAST", 0x80458, 0x1000, 52, 0x0, 1, 32, .ro, 0x0, 0x0⟩, -- 04-7
  ⟨.compute, "RNG_STATUS", 0x80500, 0x1000, 52, 0x0, 1, 32, .ro, 0x0, 0x0⟩, -- 11-5
  ⟨.compute, "RNG_BLOCK_CNT", 0x80508, 0x1000, 52, 0x0, 1, 64, .ro, 0x0, 0x0⟩ -- 11-5
  ]

/-- Every register of the register tables. -/
def regRows : List RegRow :=
  regRows0 ++ regRows1 ++ regRows2 ++ regRows3 ++ regRows4 ++ regRows5 ++ regRows6 ++ regRows7

/-- The row covers byte offset `off` of a die's block. -/
def RegRow.covers (r : RegRow) (off : Nat) : Bool :=
  if off < r.base then false
  else
    let d := off - r.base
    let i := if r.s1 = 0 then 0 else d / r.s1
    let e := if r.s1 = 0 then d else d % r.s1
    let j := if r.s2 = 0 then 0 else e / r.s2
    let x := if r.s2 = 0 then e else e % r.s2
    decide (i < r.n1) && decide (j < r.n2) && decide (x < r.bits / 8)

/-- The byte within the register that `off` names, for a row that covers it. -/
def RegRow.byteOf (r : RegRow) (off : Nat) : Nat :=
  let d := off - r.base
  let e := if r.s1 = 0 then d else d % r.s1
  if r.s2 = 0 then e else e % r.s2

/-- Die and block offset of a BAR0 address, R35; none for the unassigned ranges. -/
def splitDie (a : Nat) : Option (Nat × Nat) :=
  if a < 0x1000000 then some (24, a)
  else if a < 0x1400000 then some (20 + (a - 0x1000000) / 0x100000, a % 0x100000)
  else if a < 0x2000000 then none
  else if a < 0x3400000 then some ((a - 0x2000000) / 0x100000, a % 0x100000)
  else none

/-- The kind of die d (Table 01-10). -/
def dieKind (d : Nat) : BlockKind := if d < 20 then .compute else if d < 24 then .edge else .apex

/-- The register that BAR0 address `a` falls in: its die, its row and its own address. -/
def findReg (a : Nat) : Option (Nat × RegRow × Nat) :=
  match splitDie a with
  | none => none
  | some (d, off) =>
    match regRows.find? (fun r => (decide (r.kind = .all) || decide (r.kind = dieKind d)) && r.covers off) with
    | none => none
    | some r => some (d, r, a - r.byteOf off)

/-- The offset of engine p's block in a compute die's block is `0x80000 + p * 0x1000` (R36). -/
def engBlock (d p : Nat) : Nat := dieBase d + 0x80000 + p * 0x1000

/-- The value register `a` takes when its die's incarnation begins, as its table states it (R8).
The registers the tables mark "Per die", "Per engine", "Map" or "Boot" are given by the accessors of
Machine/Ops.lean that read them; here they are 0. Absent offsets read 0 (R6). -/
def resetOf (a : Nat) : W64 :=
  match findReg a with
  | none => 0
  | some (_, r, _) => BitVec.ofNat 64 r.reset

end Sys2Proof.Machine
end

