-- ==== Sys2Proof/Machine/State.lean ====
section
/-! DEFINITION. The state of the block, its reset state, and the reasons a step can stop. -/

namespace Sys2Proof.Machine

/-- The state of the device.
`pending`: the queue of waiting commands. `free`: draws of unstated values so far (the model's own).
`stamp`: arrivals so far, which order them. `ktime`: KTIME (R29). `regs`: every register of BAR0 at its
address, absent entries at their reset values. The other fields hold what no register holds. -/
structure State where
  pending : List Instr
  free : Nat
  stamp : Nat
  ktime : W64
  regs : SMap W64
  mesh : MeshState
  engines : SMap Engine
  lofts : Lofts
  mem : Mem
  kv : KvState
  cq : CmdState
  flt : Faults
  hosts : Hosts
  fab : FabState
  sec : SecState
  rt : RtState
  mgmt : Mgmt
  pins : Pins
  out : List Output
  deriving DecidableEq, Repr

/-- Faults: none, since no command of this block stops the machine; a command that fails ends with a status. -/
inductive Fault where
  /-- Never raised; the type has to have a name for what is not there (safe). -/
  | none
  deriving DecidableEq, Repr

/-- Refusals. -/
inductive Refusal where
  /-- Raised by an arm of exec whose command has no meaning yet (safe: the step stops). -/
  | notModelled (mnemonic : String)
  deriving DecidableEq, Repr

/-- The registers that differ from their tables' values at the release of PKG_RESET_N: the apex die is ON
and every other die is in reset (R432, R508). -/
def resetRegs : SMap W64 :=
  [(0x8, 2), (0x1000, 1000),
   (0x1000008, 1), (0x1001000, 1600), (0x1100008, 1), (0x1101000, 1600),
   (0x1200008, 1), (0x1201000, 1600), (0x1300008, 1), (0x1301000, 1600)] ++
  (List.range 20).flatMap fun n => [(0x2000008 + n * 0x100000, 1), (0x2001000 + n * 0x100000, 1900)]

/-- The management island at the release of PKG_RESET_N: it runs from VDD_AON's power-up (R479), here its ROM firmware
with an empty load buffer; slot A holds a COMMITTED image that verifies, slot B is EMPTY. (log entry 6: DESIGN CHOICE) -/
def Mgmt.reset : Mgmt :=
  { up := true, rom := true, loadBuf := [], running := [], events := [], eventNo := 0, reasm := []
    pldm := [], cmds := [], slotA := ⟨2, 0, 1, 0, true, []⟩, slotB := ⟨0, 0, 0, 0, false, []⟩, svnMin := 0
    update := 0, updOff := 0, restarting := false, measured := false, actAt := 0, fwFail := false, trialAt := 0
    keySet := 0, sensors := [], fwShown := 0, alert := 0, heldCmds := [] }

/-- The pins as PKG_RESET_N is released: every other input at its working level; the boot begins (R508).
(log entry 6: DESIGN CHOICE) -/
def Pins.reset : Pins :=
  { resetLow := false, testEn := false, aonLost := false, mgmtLow := false, hold := false, booting := true
    perst := 0, noClock := 0, trip := false, stopped := false, pps := none, extest := 0, scan := 0, straps := 0 }

/-- The state right after PKG_RESET_N is released, before the boot (R508). (log entries 6, 7: DESIGN CHOICE) -/
def State.reset : State :=
  { pending := [], free := 0, stamp := 0, ktime := 0, regs := resetRegs
    mesh := ⟨[], []⟩, engines := [], lofts := ⟨[], [], [], [], [], []⟩, mem := .empty, kv := ⟨[], []⟩
    cq := ⟨[], [], [], [], [], []⟩, flt := ⟨[], [], [], [], [], [], [], false, [], [], [], [], []⟩
    hosts := ⟨.reset, .reset, [], [], [], []⟩
    fab := .empty, sec := .empty, rt := ⟨[], []⟩
    mgmt := .reset
    pins := .reset
    out := [] }

end Sys2Proof.Machine
end

