-- ==== Sys2Proof/Machine/Status.lean ====
section
/-! DEFINITION. Completion status codes: class in bits [15:8], code in [7:0] (R9, R10), under the names
that the owning chapters of Table 00-6 give them. -/

namespace Sys2Proof.Machine.St

def OK : Nat := 0x0000
def OK_FLAGS : Nat := 0x0001
def OK_REPLAYED : Nat := 0x0002
def DELAYED : Nat := 0x0101
def PHASE_RESTARTED : Nat := 0x0110
def PHASE_LATE : Nat := 0x0111
def PHASE_NOT_RUNNING : Nat := 0x0112
def CAPACITY : Nat := 0x0201
def QUOTA : Nat := 0x0202
def POLICY : Nat := 0x0203
def TORN_DOWN : Nat := 0x0204
def BAD_OPCODE : Nat := 0x0301
def BAD_HEADER : Nat := 0x0302
def RESERVED_NONZERO : Nat := 0x0303
def ILLEGAL_FIELD : Nat := 0x0304
def OUT_OF_RANGE : Nat := 0x0305
def UNOWNED_BANK : Nat := 0x0306
def PRIVILEGE : Nat := 0x0307
def DEP_TIMEOUT : Nat := 0x0308
def DEP_CYCLE : Nat := 0x0309
def CANCELLED : Nat := 0x030A
def BAD_TARGET : Nat := 0x030B
def DOORBELL_OVERRUN : Nat := 0x030C
def EVENT_BUSY : Nat := 0x030D
def RING_READ_FAIL : Nat := 0x030E
def POISONED : Nat := 0x0401
def TAG_MISMATCH : Nat := 0x0402
def ECC_UNCORRECTABLE : Nat := 0x0403
def READ_ONLY : Nat := 0x0404
def LOWER_TIER_FAIL : Nat := 0x0405
def LOWER_TIER_TIMEOUT : Nat := 0x0406
def LINK_DOWN : Nat := 0x0501
def UNREACHABLE : Nat := 0x0502
def FAB_TIMEOUT : Nat := 0x0503
def RETRY_EXHAUSTED : Nat := 0x0504
def DEST_BAY_DOWN : Nat := 0x0505
def FEATURE_UNAVAILABLE : Nat := 0x0506
def REMOTE_BUSY : Nat := 0x0507
def NO_SLOT : Nat := 0x0508
def BAY_MISMATCH : Nat := 0x0601
def JOB_MISMATCH : Nat := 0x0602
def AUTH_FAIL : Nat := 0x0603
def KEY_STALE : Nat := 0x0604
def REPLAY_STALE : Nat := 0x0605
def SOURCE_LIMIT : Nat := 0x0606
def KEY_EXHAUSTED : Nat := 0x0607
def SEAL_FAIL : Nat := 0x0608
def SEAL_NONCE : Nat := 0x0609
def MAC_FAIL : Nat := 0x060A
def KEY_TABLE_FULL : Nat := 0x060B
def ENTROPY_FAIL : Nat := 0x060C
def TARGET_RESET : Nat := 0x0701
def DOMAIN_CLOSED : Nat := 0x0702
def SRAM_UNCORRECTABLE : Nat := 0x0703
def ENGINE_FAILED : Nat := 0x0704
def STATE_LOST : Nat := 0x0705
def DIE_LOST : Nat := 0x0706
def MEMORY_LOST : Nat := 0x0707
def CLEAR_FAILED : Nat := 0x0708
def MESH_ERROR : Nat := 0x0709
def MIRROR_FAIL : Nat := 0x070A
def DEVICE_FAULT : Nat := 0x070B
def BAD_MODEL : Nat := 0x0901
def BAD_STATE : Nat := 0x0902
def BAD_VERSION : Nat := 0x0903
def SIG_INVALID : Nat := 0x0904
def MANIFEST_MISMATCH : Nat := 0x0905
def EPOCH_NOT_NEWER : Nat := 0x0906
def DIGEST_MISMATCH : Nat := 0x0907
def STAGE_TIMEOUT : Nat := 0x0908
def NOT_STAGED : Nat := 0x0909
def BARRIER_TIMEOUT : Nat := 0x090A
def ABORT_TOO_LATE : Nat := 0x090B
def ABORTED : Nat := 0x090C
def STAGE_CLOSED : Nat := 0x090D
def NO_SPACE : Nat := 0x090E
def BAD_ADAPTER : Nat := 0x090F
def BAD_GROUP : Nat := 0x0A01
def GROUP_BUSY : Nat := 0x0A02
def COLL_MISMATCH : Nat := 0x0A03
def COLL_TIMEOUT : Nat := 0x0A04
def MEMBER_LOST : Nat := 0x0A05
def PEER_ABORTED : Nat := 0x0A06
def SUBTREE_FAILED : Nat := 0x0A07
def BAD_POOL : Nat := 0x0B01
def BAD_SEQ : Nat := 0x0B02
def SEQ_EXISTS : Nat := 0x0B03
def SEQ_SWAPPED : Nat := 0x0B04
def SEQ_BUSY : Nat := 0x0B05
def NO_BLOCK : Nat := 0x0B06
def SEQ_TOO_LONG : Nat := 0x0B07
def WINDOW_FULL : Nat := 0x0B08
def WINDOW_RANGE : Nat := 0x0B09
def SWAP_AREA : Nat := 0x0B0A
def NOT_SWAPPED : Nat := 0x0B0B
def DIGEST_OFF : Nat := 0x0B0C
def READ_EARLY : Nat := 0x0801
def READ_PENDING : Nat := 0x0802
def WRITE_ORDER : Nat := 0x0803
def WRITE_HOLD : Nat := 0x0804
def WRITE_PENDING : Nat := 0x0805
def ASYNC_CONFLICT : Nat := 0x0806
def PIPE_BUSY : Nat := 0x0807
def LANE_BUSY : Nat := 0x0808
def SET_NOT_READY : Nat := 0x0809
def SET_NOT_FREE : Nat := 0x080A
def FEEDER_BUSY : Nat := 0x080B
def BANK_TRIPLE : Nat := 0x080C
def STREAM_BUSY : Nat := 0x080D
def TAG_BUSY : Nat := 0x080E
def END_EARLY : Nat := 0x080F
def OVERRUN : Nat := 0x0810

/-- Status class, R9. -/
def cls (st : Nat) : Nat := st / 256

end Sys2Proof.Machine.St
end

