-- ==== Sys2Proof/Machine/Ops.lean ====
section
/-! DEFINITION. The named operations on the state: registers and their fields, counters, free values,
outputs, byte ranges, incarnations and die states, the spare map. -/

namespace Sys2Proof.Machine

/-! ### Registers -/

/-- The value that register `a` holds. -/
def State.reg (s : State) (a : Nat) : Nat := (mget resetOf s.regs a).toNat

def State.setReg (s : State) (a v : Nat) : State :=
  { s with regs := mset resetOf s.regs a (BitVec.ofNat 64 v) }

/-- Bits `[lo + w - 1 : lo]` of register `a`. -/
def State.fld (s : State) (a lo w : Nat) : Nat := bitsAt (s.reg a) lo w

/-- `n` with bits `[lo + w - 1 : lo]` replaced. -/
def putBits (n lo w v : Nat) : Nat := n - bitsAt n lo w * 2 ^ lo + v % 2 ^ w * 2 ^ lo

def State.setFld (s : State) (a lo w v : Nat) : State := s.setReg a (putBits (s.reg a) lo w v)

/-- A counter that saturates at 0xFFFF_FFFF. -/
def State.count (s : State) (a n : Nat) : State := s.setReg a (min 0xFFFFFFFF (s.reg a + n))

/-- A 32-bit counter that wraps. -/
def State.count32 (s : State) (a n : Nat) : State := s.setReg a ((s.reg a + n) % 2 ^ 32)

/-- A 64-bit counter that wraps. -/
def State.count64 (s : State) (a n : Nat) : State := s.setReg a ((s.reg a + n) % 2 ^ 64)

/-- Difference of two 32-bit counts, modulo 2^32 (R175, R190). -/
def sub32 (a b : Nat) : Nat := (a + 2 ^ 32 - b % 2 ^ 32) % 2 ^ 32

/-! ### Free values, outputs, time -/

/-- A value the spec does not state, fresh at each draw. -/
def State.draw (s : State) : Nat × State := (Config.freeValue s.free, { s with free := s.free + 1 })

def State.emit (s : State) (o : Output) : State := { s with out := s.out ++ [o] }

def State.emits (s : State) (os : List Output) : State := { s with out := s.out ++ os }

def State.now (s : State) : Nat := s.ktime.toNat

/-- The next arrival number. -/
def State.tickStamp (s : State) : Nat × State := (s.stamp, { s with stamp := s.stamp + 1 })

/-! ### Bytes and words -/

def W32.bytes (w : W32) : List Byte := (bytesLE 4 w.toNat).map (BitVec.ofNat 8)

/-- `n` little-endian bytes of a value. -/
def leBytes (n v : Nat) : List Byte := (bytesLE n v).map (BitVec.ofNat 8)

def wordsBytes (ws : List Nat) : List Byte := ws.flatMap (leBytes 4)

def bytesVal (bs : List Byte) : Nat := ofBytesLE (bs.map BitVec.toNat)

/-- The 32-bit words of bytes in address order. -/
def bytesWords (bs : List Byte) : List W32 :=
  (List.range ((bs.length + 3) / 4)).map fun i => BitVec.ofNat 32 (bytesVal ((bs.drop (4 * i)).take 4))

/-- Bytes of a range of a byte map. -/
def rangeGet (m : SMap Byte) (a n : Nat) : List Byte := (List.range n).map fun i => mget (fun _ => 0) m (a + i)

/-- A byte map with bytes written from an address. -/
def rangePut (m : SMap Byte) (a : Nat) (bs : List Byte) : SMap Byte :=
  match bs with
  | [] => m
  | b :: r => rangePut (mset (fun _ => 0) m a b) (a + 1) r

/-- Marks of units of `g` bytes that a range touches. -/
def unitsOf (g a n : Nat) : List Nat :=
  if n = 0 then [] else (List.range ((a + n - 1) / g - a / g + 1)).map fun i => a / g + i

def markGet (m : SMap Bool) (k : Nat) : Bool := mget (fun _ => false) m k
def markPut (m : SMap Bool) (k : Nat) (b : Bool) : SMap Bool := mset (fun _ => false) m k b

def unpoisoned (bs : List Byte) : List PByte := bs.map some
def pbyte (b : PByte) : Byte := b.getD 0
def anyPoison (bs : List PByte) : Bool := bs.any fun b => b.isNone

/-- The set bits of a mask, lowest first. -/
def maskList (n m : Nat) : List Nat := (List.range n).filter fun i => decide (bitsAt m i 1 = 1)

def maskCount (n m : Nat) : Nat := (maskList n m).length

/-- A fold over the state. -/
def State.forAll {α : Type} (s : State) (l : List α) (f : State → α → State) : State := l.foldl f s

/-! ### Dies -/

/-- DIE_STATE codes (Table 01-11). -/
def dieOff : Nat := 0
def dieInReset : Nat := 1
def dieOn : Nat := 2
def dieClosed : Nat := 3
def dieDrained : Nat := 4

def State.dieState (s : State) (d : Nat) : Nat := s.fld (Reg.DIE_STATE d) 0 3

def State.setDieState (s : State) (d v : Nat) : State := s.setFld (Reg.DIE_STATE d) 0 3 v

/-- The incarnation of die d, from INCARN_TABLE (R30). -/
def State.incarn (s : State) (d : Nat) : Nat := s.fld (Reg.INCARN_TABLE (d / 4)) (8 * (d % 4)) 8

/-- The entry increments when its die enters reset (R30). -/
def State.bumpIncarn (s : State) (d : Nat) : State :=
  s.setFld (Reg.INCARN_TABLE (d / 4)) (8 * (d % 4)) 8 (s.incarn d + 1)

/-- How a request to die d ends where the die does not serve it (R32): none when it is ON. -/
def State.dieRefuses (s : State) (d : Nat) : Option Nat :=
  let st := s.dieState d
  if d = 24 ∧ s.mgmt.restarting then some St.TARGET_RESET
  else if st = dieOn then none
  else if st = dieInReset then some St.TARGET_RESET
  else some St.DOMAIN_CLOSED

/-! ### The spare map (R78, R462) -/

/-- Physical engines of 48 to 51 that the fuses do not name. -/
def fuseSpares (fused : BitVec 52) : List Nat :=
  [48, 49, 50, 51].filter fun p => decide (bitsAt fused.toNat p 1 = 0)

/-- The initial map of a die's logical engine: itself, or the next fuse-free spare; 0x3F without one. -/
def fuseMap (fused : BitVec 52) (l : Nat) : Nat :=
  if bitsAt fused.toNat l 1 = 0 then l
  else (fuseSpares fused).getD (maskCount l fused.toNat) 0x3F

def spareDefault : Nat → Nat := fun k => fuseMap (Config.fusedFailed (k / 64)) (k % 64)
def failedDefault : Nat → Bool := fun k => decide (bitsAt (Config.fusedFailed (k / 64)).toNat (k % 64) 1 = 1)

/-- The physical engine of logical engine l of die d; 0x3F unmapped. -/
def State.physOf (s : State) (d l : Nat) : Nat := mget spareDefault s.flt.spare (d * 64 + l)

def State.engFailed (s : State) (d p : Nat) : Bool := mget failedDefault s.flt.failed (d * 64 + p)

def State.setSpare (s : State) (d l p : Nat) : State :=
  { s with flt := { s.flt with spare := mset spareDefault s.flt.spare (d * 64 + l) p } }

def State.setFailed (s : State) (d p : Nat) : State :=
  { s with flt := { s.flt with failed := mset failedDefault s.flt.failed (d * 64 + p) true } }

/-- The logical engine that physical engine p holds. -/
def State.logOf (s : State) (d p : Nat) : Option Nat :=
  (List.range 48).find? fun l => decide (s.physOf d l = p)

/-- Spare physical engines of a die: mapped nowhere and not failed, lowest first. -/
def State.spares (s : State) (d : Nat) : List Nat :=
  (List.range 52).filter fun p => (s.logOf d p).isNone && !s.engFailed d p

/-! ### Engines -/

def engKey (d p : Nat) : Nat := d * 64 + p

def engDefault : Nat → Engine := fun _ => Engine.zero

def State.eng (s : State) (d p : Nat) : Engine := mget engDefault s.engines (engKey d p)

def State.setEng (s : State) (d p : Nat) (e : Engine) : State :=
  { s with engines := mset engDefault s.engines (engKey d p) e }

/-! ### Bays -/

def bayFree : Nat := 0
def bayBuilding : Nat := 1
def bayRunning : Nat := 2
def bayTeardown : Nat := 3
def bayTorn : Nat := 4
def bayScrubbing : Nat := 5

def State.bayState (s : State) (b : Nat) : Nat := s.fld (Reg.BAY_STATE b) 0 3

/-- MODE of a bay: true for OPEN (R207). -/
def State.bayOpen (s : State) (b : Nat) : Bool := decide (s.fld (Reg.BAY_STATE b) 3 1 = 1)

/-- A bay that is RUNNING in SEALED mode. -/
def State.baySealed (s : State) (b : Nat) : Bool :=
  decide (s.bayState b = bayRunning) && !s.bayOpen b

/-- The bay that holds compute die d. -/
def State.bayOfDie (s : State) (d : Nat) : Option Nat :=
  (List.range 16).find? fun b =>
    decide (s.bayState b ≠ bayFree) && decide (bitsAt (s.reg (Reg.BAY_DIES b)) d 1 = 1)

/-- The bay that holds channel group g. -/
def State.bayOfGroup (s : State) (g : Nat) : Option Nat :=
  (List.range 16).find? fun b =>
    decide (s.bayState b ≠ bayFree) && decide (bitsAt (s.reg (Reg.BAY_GROUPS b)) g 1 = 1)

def State.dieInBay (s : State) (b d : Nat) : Bool :=
  decide (d < 20) && decide (bitsAt (s.reg (Reg.BAY_DIES b)) d 1 = 1)

/-- Role group of an engine and of a queue (Tables 07-11, 07-12): 0xF none. -/
def State.engRole (s : State) (b d l : Nat) : Nat :=
  s.fld (Reg.ROLE_ENG_MAP b (6 * d + l / 8)) (4 * (l % 8)) 4

def State.queueRole (s : State) (q : Nat) : Nat := s.fld (Reg.Q_ROLE (q / 8)) (4 * (q % 8)) 4

/-- Edge die behind which channel group g lies (R235). -/
def edgeOfGroup (g : Nat) : Nat := 20 + g / 8

/-- Edge die of port P0 to P7. -/
def edgeOfPort (p : Nat) : Nat := 20 + p / 2

/-! ### Updates of grouped parts -/

def State.onCq (s : State) (f : CmdState → CmdState) : State := { s with cq := f s.cq }
def State.onMem (s : State) (f : Mem → Mem) : State := { s with mem := f s.mem }
def State.onKv (s : State) (f : KvState → KvState) : State := { s with kv := f s.kv }
def State.onFlt (s : State) (f : Faults → Faults) : State := { s with flt := f s.flt }
def State.onHosts (s : State) (f : Hosts → Hosts) : State := { s with hosts := f s.hosts }
def State.onLofts (s : State) (f : Lofts → Lofts) : State := { s with lofts := f s.lofts }
def State.onMesh (s : State) (f : MeshState → MeshState) : State := { s with mesh := f s.mesh }

def State.link (s : State) (n : Nat) : HostLink := if n = 0 then s.hosts.h0 else s.hosts.h1

def State.setLink (s : State) (n : Nat) (l : HostLink) : State :=
  s.onHosts fun h => if n = 0 then { h with h0 := l } else { h with h1 := l }

end Sys2Proof.Machine
end

