-- ==== Sys2Proof/Machine/HostOps.lean ====
section
/-! DEFINITION. What the device sends on its host links: MSI-X messages (R472), posted writes (R470, R473),
and the coherent host-line cache behind H0 (R475 to R478). -/

namespace Sys2Proof.Machine

/-- HL_STATUS.LINK_UP of link n. -/
def State.linkUp (s : State) (n : Nat) : Bool := decide (s.fld (Reg.HL_STATUS n) 0 1 = 1)

/-! ### MSI-X -/

/-- The link that vector v is sent on (R472). -/
def State.vecLink (s : State) (v : Nat) : Nat := s.fld (Reg.MSIX_LINK (v / 32)) (v % 32) 1

/-- Whether vector v can be sent now: its link up, its endpoint enabled and unmasked, the vector unmasked; messages are held
during an apex restart (R490). -/
def State.vecOpen (s : State) (v : Nat) : Bool :=
  let n := s.vecLink v
  s.linkUp n && (s.link n).msixEn && !(s.link n).fnMask && decide (s.fld (Reg.MSIX_VCTRL v) 0 1 = 0) && !s.mgmt.restarting

/-- A message: a posted write of four bytes. -/
def State.emitVec (s : State) (v : Nat) : State := (s.emit (.msix (s.vecLink v) v (s.reg (Reg.MSIX_ADDR v)) (s.reg (Reg.MSIX_DATA v)))).count64 (Reg.HL_TX_BYTES (s.vecLink v)) 4

/-- One event of vector v: a message, or its pending bit (R472). -/
def State.sendVec (s : State) (v : Nat) : State :=
  if s.vecOpen v then s.emitVec v
  else s.setFld (Reg.MSIX_PBA (v / 64)) (v % 64) 1 1

/-- Pending vectors that can now be sent go out, one message each (R472). -/
def State.flushVecs (s : State) : State :=
  s.forAll (List.range 32) fun s w =>
    if s.reg (Reg.MSIX_PBA w) = 0 then s
    else s.forAll (List.range 64) fun s i =>
      if s.fld (Reg.MSIX_PBA w) i 1 = 1 && s.vecOpen (w * 64 + i) then
        (s.setFld (Reg.MSIX_PBA w) i 1 0).emitVec (w * 64 + i)
      else s

/-! ### The coherent host-line cache -/

def ccDefault : Nat → CLine := fun _ => CLine.invalid
def State.ccLine (s : State) (l : Nat) : CLine := mget ccDefault s.hosts.cc l
def State.setCcLine (s : State) (l : Nat) (c : CLine) : State :=
  s.onHosts fun h => { h with cc := mset ccDefault h.cc l c }

/-- CC_STATUS.ACTIVE: H0 runs CXL. -/
def State.ccActive (s : State) : Bool := decide (s.fld Reg.CC_STATUS 0 1 = 1)

/-- The host address lies in an enabled window (R475). -/
def State.ccCovers (s : State) (a : Nat) : Bool :=
  (List.range 8).any fun w =>
    decide (s.fld (Reg.CC_WIN_CFG w) 0 1 = 1) && decide (s.reg (Reg.CC_WIN_BASE w) ≤ a) &&
      decide (a < s.reg (Reg.CC_WIN_BASE w) + s.fld (Reg.CC_WIN_CFG w) 12 20 * 4096)

/-- CC_STATUS reports the entries in use. -/
def State.ccCountEvict (s : State) : State := s.setFld Reg.CC_STATUS 2 6 s.hosts.evict.length

/-- Writing back line `l` moves it to the eviction buffer when it is M, and drops it otherwise (Table 16-2). -/
def State.ccEvictLine (s : State) (l : Nat) : State :=
  let c := s.ccLine l
  let s1 := s.setCcLine l .invalid
  if c.st = 3 then
    (((s1.onHosts fun h => { h with evict := h.evict ++ [⟨l, c.data, false, false⟩] }).emit
      (.cc (.dirtyEvict l))).count Reg.CC_EVICT_CNT 1).ccCountEvict
  else if c.st = 0 then s1
  else s1.emit (.cc (.cleanEvictNoData l))

/-- The ways of line `l`'s set that hold a line (R475: 16 ways, 4,096 sets). -/
def State.ccSet (s : State) (l : Nat) : List (Nat × CLine) :=
  s.hosts.cc.filter fun e => decide (e.1 % 4096 = l % 4096)

/-- The least recently used line of a full set. -/
def ccOldest (ls : List (Nat × CLine)) : Option (Nat × CLine) :=
  (ls.filter fun e => decide (e.2.st ≠ 0)).foldl (fun b e =>
    match b with
    | none => some e
    | some m => if e.2.used < m.2.used then some e else some m) none

/-- Room for line `l` in its set; none while an eviction it needs has no entry (R477). -/
def State.ccRoom (s : State) (l : Nat) : Option State :=
  if (s.ccLine l).st ≠ 0 ∨ (s.ccSet l).length < 16 then some s
  else
    match ccOldest (s.ccSet l) with
    | none => none
    | some v => if v.2.st = 3 ∧ 32 ≤ s.hosts.evict.length then none else some (s.ccEvictLine v.1)

def patchBytes (old : List Byte) (off : Nat) (bs : List Byte) : List Byte :=
  (List.range 64).map fun i => if off ≤ i ∧ i < off + bs.length then bs.getD (i - off) 0 else old.getD i 0

/-- Whether a waiting access to the line stands before. -/
def State.ccBusy (s : State) (l : Nat) : Bool :=
  (s.hosts.evict.any fun e => decide (e.line = l)) || s.hosts.waits.any fun w => decide (w.line = l)

/-- A write of `bs` at `off` of line `l`: into an M line at once, otherwise after RdOwn (Table 16-2); it waits
behind an eviction of the line or a full eviction buffer (R476, R477). -/
def State.ccWrite (s : State) (l off : Nat) (bs : List Byte) : State :=
  let wait (s : State) (iss : Bool) : State :=
    s.onHosts fun h => { h with waits := h.waits ++ [⟨l, off, bs, true, iss⟩] }
  if s.ccBusy l then wait s false
  else
    let c := s.ccLine l
    if c.st = 3 then
      let t := s.tickStamp
      t.2.setCcLine l ⟨3, patchBytes c.data off bs, t.1⟩
    else
      match s.ccRoom l with
      | none => wait s false
      | some s1 =>
        let t := s1.tickStamp
        wait ((t.2.setCcLine l ⟨c.st, c.data, t.1 + 1⟩).emit (.cc (.rdOwn l))) true

/-- A read of line `l`: nothing to do when the cache holds it, otherwise RdShared (Table 16-2). -/
def State.ccRead (s : State) (l : Nat) : State :=
  let wait (s : State) (iss : Bool) : State :=
    s.onHosts fun h => { h with waits := h.waits ++ [⟨l, 0, [], false, iss⟩] }
  if s.ccBusy l then wait s false
  else if (s.ccLine l).st ≠ 0 then
    let t := s.tickStamp
    t.2.setCcLine l { s.ccLine l with used := t.1 }
  else
    match s.ccRoom l with
    | none => wait s false
    | some s1 =>
      let t := s1.tickStamp
      wait ((t.2.setCcLine l ⟨0, [], t.1 + 1⟩).emit (.cc (.rdShared l))) true

/-- Accesses that wait without a request issue theirs anew, in order (R476). -/
def State.ccRetry (s : State) : State :=
  let ws := s.hosts.waits
  let s0 := s.onHosts fun h => { h with waits := h.waits.filter fun w => w.issued }
  s0.forAll (ws.filter fun w => !w.issued) fun s w => if w.write then s.ccWrite w.line w.off w.bytes else s.ccRead w.line

/-- A range of host bytes split at 64-byte lines: line, offset and bytes of each piece. -/
def linePieces (fuel a : Nat) (bs : List Byte) : List (Nat × Nat × List Byte) :=
  match fuel with
  | 0 => []
  | f + 1 =>
    match bs with
    | [] => []
    | _ =>
      let k := 64 - a % 64
      (a / 64, a % 64, bs.take k) :: linePieces f (a + k) (bs.drop k)

/-! ### Writes -/

/-- A posted write to host memory: discarded and counted while the link is down (R473), into the coherent
cache when it covers the address (R475), otherwise onto the link. -/
def State.hostWrite (s : State) (n a : Nat) (bs : List Byte) : State :=
  if !s.linkUp n then s.count (Reg.HL_DROP_CNT n) 1
  else if n = 0 && s.ccActive && s.ccCovers a then
    s.forAll (linePieces (bs.length + 1) a bs) fun s p => s.ccWrite p.1 p.2.1 p.2.2
  else (s.emit (.hostWrite n a bs)).count64 (Reg.HL_TX_BYTES n) bs.length

/-- A posted write of T3 data to a link's host memory under a version (R252), dropped while the link is down (R473). -/
def State.t3Send (s : State) (n a ver : Nat) (bs : List PByte) (plain : Bool) : State :=
  if !s.linkUp n then s.count (Reg.HL_DROP_CNT n) 1
  else (s.emit (.t3Write n a ver bs plain)).count64 (Reg.HL_TX_BYTES n) bs.length

/-- A read request for T3 data; on a link that is down it is not sent, and fails with the link's other requests (R473). -/
def State.t3Fetch (s : State) (n a len : Nat) : State := if s.linkUp n then s.emit (.t3Read n a len) else s

/-- Bytes of the coherent cache when it holds every line of the range. -/
def State.ccBytes (s : State) (a n : Nat) : Option (List Byte) :=
  if s.ccActive && s.ccCovers a && (unitsOf 64 a n).all fun l => decide ((s.ccLine l).st ≠ 0) then
    some ((List.range n).map fun i => (s.ccLine ((a + i) / 64)).data.getD ((a + i) % 64) 0)
  else none

end Sys2Proof.Machine
end

