-- ==== Sys2Proof/Machine/EvtOps.lean ====
section
/-! DEFINITION. The journal (R198 to R200), the bay events (R182, R184) and the checkpoint schedules that
follow them (R454). -/

namespace Sys2Proof.Machine

/-! ### The journal -/

/-- Words 0 to 6 of an entry (Table 06-12). -/
def JEntry.body (e : JEntry) : List Nat :=
  [e.jpos, e.q + e.bay * 2 ^ 9 + (if e.admin then 2 ^ 13 else 0) + e.op * 2 ^ 16 + e.state * 2 ^ 24,
   e.seq, e.tag, e.status + e.slot * 2 ^ 16, e.kt % 2 ^ 32, e.kt / 2 ^ 32]

/-- The eight words of an entry; CHECK is the CRC-32 of words 0 to 6 (R200). An entry never written reads 0. -/
def JEntry.words (e : JEntry) : List Nat :=
  if e.state = 0 then List.replicate 8 0 else e.body ++ [crc32 (wordBytes e.body)]

def jnlDefault : Nat → JEntry := fun _ => JEntry.free

def State.jnl (s : State) (pos : Nat) : JEntry := mget jnlDefault s.cq.journal (pos % 65536)

/-- Writes an entry, and its mirror when JNL_CFG.MIRROR_EN is set (R198, R200). -/
def State.jnlWrite (s : State) (e : JEntry) : State :=
  let s1 := s.onCq fun c => { c with journal := mset jnlDefault c.journal (e.jpos % 65536) e }
  if s.fld Reg.JNL_CFG 0 1 = 1 then
    s1.hostWrite (s.fld Reg.JNL_CFG 2 1) (s.reg Reg.JNL_MIRROR_BASE + 32 * (e.jpos % 65536)) (wordsBytes e.words)
  else s1

/-- A change of STATE, with the final status when it is DONE (R198). -/
def State.jnlState (s : State) (pos st status : Nat) : State :=
  s.jnlWrite { s.jnl pos with jpos := pos, state := st, status := if st = 3 then status else 0 }

/-- Whether the next entry can be taken (R199). -/
def State.jnlFree (s : State) : Bool :=
  let e := s.jnl (s.reg Reg.JNL_POS)
  decide (e.state = 0) ||
    (decide (e.state = 3) &&
      (decide (s.fld Reg.JNL_CFG 1 1 = 0) ||
        (let d := sub32 (s.reg Reg.JNL_ACK) e.jpos
         decide (0 < d) && decide (d < 2 ^ 31))))

/-! ### Queues' registers -/

def State.qAdmin (s : State) (q : Nat) : Bool := decide (s.fld (Reg.Q_CFG q) 14 1 = 1)
def State.qBay (s : State) (q : Nat) : Nat := s.fld (Reg.Q_CFG q) 10 4
/-- The bay of a queue's commands; none for an admin queue (R172). -/
def State.qBayOf (s : State) (q : Nat) : Option Nat := if s.qAdmin q then none else some (s.qBay q)
def State.qPrio (s : State) (q : Nat) : Nat := s.fld (Reg.Q_CFG q) 15 3
def State.qState (s : State) (q : Nat) : Nat := s.fld (Reg.Q_STATUS q) 0 3
def State.setQState (s : State) (q v : Nat) : State := s.setFld (Reg.Q_STATUS q) 0 3 v
def State.qSlots (s : State) (q : Nat) : Nat := 2 ^ s.fld (Reg.Q_CFG q) 0 5
def State.qCpl (s : State) (q : Nat) : Nat := 2 ^ s.fld (Reg.Q_CFG q) 5 5
def State.qInflight (s : State) (q : Nat) : Nat := s.fld (Reg.Q_STATUS q) 5 7
def State.setInflight (s : State) (q n : Nat) : State := s.setFld (Reg.Q_STATUS q) 5 7 n

def qDisabled : Nat := 0
def qRunning : Nat := 1
def qHalted : Nat := 2
def qPreempting : Nat := 3
def qPreempted : Nat := 4
def qBreak : Nat := 5

def queueDefault : Nat → QueueX := fun _ => QueueX.zero
def State.qx (s : State) (q : Nat) : QueueX := mget queueDefault s.cq.queues q
def State.setQx (s : State) (q : Nat) (x : QueueX) : State :=
  s.onCq fun c => { c with queues := mset queueDefault c.queues q x }

/-! ### Acceptance -/

/-- A command takes the next sequence number and journal position of its queue (R176, R198). -/
def State.acceptCmd (s : State) (q : Nat) (ws : List W32) (pos : Nat) : Cmd × State :=
  let seq := s.reg (Reg.Q_SEQ q)
  let jp := s.reg Reg.JNL_POS
  let c : Cmd := ⟨q, seq, s.qBayOf q, ws, pos, jp, s.now, 0, .accepted, false, .none, false, false, 0, [], false, none⟩
  let e : JEntry := ⟨jp, q, c.bay.getD 0, s.qAdmin q, c.op, 1, seq, c.tag, 0, pos % s.qSlots q, s.now⟩
  let s1 := ((s.setReg (Reg.Q_SEQ q) ((seq + 1) % 2 ^ 32)).setReg Reg.JNL_POS ((jp + 1) % 2 ^ 32)).jnlWrite e
  (c, (s1.setInflight q (s1.qInflight q + 1)).onCq fun d => { d with cmds := d.cmds ++ [c] })

/-! ### Events -/

/-- The counter of a bay event (R182). -/
def State.evt (s : State) (b e : Nat) : Nat := s.fld (Reg.EVT b e) 0 48

/-- EXT of a bay event. -/
def State.evtExt (s : State) (b e : Nat) : Bool := decide (s.fld (Reg.EVT b e) 48 1 = 1)

def evtTop : Nat := 2 ^ 48 - 1

def State.setEvt (s : State) (b e v : Nat) : State := s.setFld (Reg.EVT b e) 0 48 (min evtTop v)

def ckptDefault : Nat → Option Ckpt := fun _ => none
def State.ckpt (s : State) (b k : Nat) : Option Ckpt := mget ckptDefault s.flt.ckpts (b * 4 + k)
def State.setCkpt (s : State) (b k : Nat) (c : Option Ckpt) : State :=
  s.onFlt fun f => { f with ckpts := mset ckptDefault f.ckpts (b * 4 + k) c }

/-- Whether schedule k triggers as STEP_EVENT reaches `v` (R454). -/
def State.ckptDue (s : State) (b k v : Nat) (c : Ckpt) : Bool :=
  let every := wordField c.words 10 0 16
  let period := wordField c.words 11 0 32
  (decide (every ≠ 0) && decide (v % every = 0)) ||
    (decide (period ≠ 0) && decide (c.last + period * 1000000 ≤ s.now)) ||
    (decide (wordField c.words 12 0 1 = 1) && decide (s.fld (Reg.CKPT_STATUS b) (4 + k) 1 = 1))

/-- The packet of a triggered checkpoint: CKPT, OP TAKE, CKPT_STEP `v`, the TAG of its SCHED command (R454). -/
def Ckpt.packet (c : Ckpt) (k v : Nat) : List W32 :=
  let hdr : List W32 := [0x01000130, BitVec.ofNat 32 c.tag] ++ List.replicate 14 0
  let par := c.words.set 0 (BitVec.ofNat 32 (k * 4))
  hdr ++ par.set 7 (BitVec.ofNat 32 v)

/-- A signal of event `e`: its counter rises by ADD (`max` false) or MAX, saturating (R182), and the
checkpoint schedules whose STEP_EVENT it is are evaluated (R454). `fuel` bounds the chain of permit events. -/
def State.signal (fuel : Nat) (s : State) (b e : Nat) (isMax : Bool) (v : Nat) : State :=
  match fuel with
  | 0 => s
  | n + 1 =>
    let old := s.evt b e
    let new := min evtTop (if isMax then max old v else old + v)
    let s1 := s.setEvt b e new
    if new = old then s1
    else s1.forAll (List.range 4) fun s k =>
      match s.ckpt b k with
      | none => s
      | some c =>
        if wordField c.words 9 0 10 ≠ e then s
        else
          let permit := wordField c.words 8 0 10
          if !s.ckptDue b k new c then State.signal n s b permit true new
          else if s.fld (Reg.CKPT_STATUS b) k 1 = 1 then
            State.signal n (s.count (Reg.CKPT_SKIP_CNT b) 1) b permit true new
          else
            let a := s.acceptCmd c.q (c.packet k new) (s.reg (Reg.Q_HEAD c.q))
            ((a.2.setCkpt b k (some { c with seq := a.1.seq })).setFld (Reg.CKPT_STATUS b) k 1 1).setFld (Reg.CKPT_STATUS b) (4 + k) 1 0

/-- (log entry 23: DESIGN CHOICE) -/
def sigFuel : Nat := 64

def State.evtAdd (s : State) (b e v : Nat) : State := s.signal sigFuel b e false v
def State.evtMax (s : State) (b e v : Nat) : State := s.signal sigFuel b e true v

/-- The TAKE of a schedule ends: the schedule is no longer running, and a TAKE that did not complete OK leaves its
PERMIT_EVENT raised all the same (R454). -/
def State.ckptEnd (s : State) (c : Cmd) (ok : Bool) : State :=
  let b := c.bay.getD 0
  if c.op ≠ 0x30 then s
  else s.forAll (List.range 4) fun s k =>
    match s.ckpt b k with
    | none => s
    | some x =>
      if x.q ≠ c.q ∨ x.seq ≠ c.seq ∨ s.fld (Reg.CKPT_STATUS b) k 1 = 0 then s
      else
        let s1 := s.setFld (Reg.CKPT_STATUS b) k 1 0
        if ok then s1.setCkpt b k (some { x with last := s.now })
        else s1.evtMax b (c.p 8 0 10) (c.p 7 0 32)

/-- A notice that a configuration word of the form VECTOR [10:0], IRQ_EN [11], EVENT [21:12], SIG_EN [22]
enables (Tables 14-15 and 15-20). -/
def State.notice (s : State) (b cfg : Nat) : State :=
  let s1 := if bitsAt cfg 22 1 = 1 then s.evtAdd b (bitsAt cfg 12 10) 1 else s
  if bitsAt cfg 11 1 = 1 then s1.sendVec (bitsAt cfg 0 11) else s1

end Sys2Proof.Machine
end

