-- ==== Sys2Proof/Machine/ErrOps.lean ====
section
/-! DEFINITION. Error records, error domains, escalation, error-rate counters and their notices (R426 to R430,
R442 to R444), and the events reported to the management bus (R485). -/

namespace Sys2Proof.Machine

/-- Words 0 to 14 of a record (Table 15-1). -/
def ErrRec.body (r : ErrRec) : List Nat :=
  let q := r.cmd.getD (0, 0, 0)
  [r.status + r.level * 2 ^ 16 + r.nest * 2 ^ 19 + (if r.late then 2 ^ 22 else 0) + 2 ^ 24,
   r.die + r.inc * 2 ^ 5 + r.unit * 2 ^ 13 + r.idx * 2 ^ 16 + r.bay.getD 0 * 2 ^ 22 +
     (if r.bay.isSome then 2 ^ 26 else 0),
   r.kt % 2 ^ 32, r.kt / 2 ^ 32, q.1 + (if r.cmd.isSome then 2 ^ 9 else 0), q.2.1, q.2.2, r.recno,
   r.addr % 2 ^ 32, r.addr / 2 ^ 32] ++ (List.range 5).map fun i => r.detail.getD i 0

/-- The sixteen words of a record, CHECK last (R426). -/
def ErrRec.words (r : ErrRec) : List Nat := r.body ++ [crc32 (wordBytes r.body)]

def domDefault : Nat → Domain := fun _ => Domain.empty
def State.domain (s : State) (d : Nat) : Domain := mget domDefault s.flt.domains d
def State.setDomain (s : State) (d : Nat) (x : Domain) : State :=
  s.onFlt fun f => { f with domains := mset domDefault f.domains d x }

/-! ### Watermarks of the error-rate counter -/

/-- The device log takes every record in order (R427). -/
def State.logRec (s : State) (r : ErrRec) : State :=
  let dl := mset (fun _ => ([] : List W32)) s.flt.devlog (r.recno % 4096) (r.words.map (BitVec.ofNat 32))
  let s1 := s.onFlt fun f => { f with devlog := dl }
  s1.setReg Reg.DEVLOG_POS ((r.recno + 1) % 2 ^ 32)

def State.onMgmt (s : State) (f : Mgmt → Mgmt) : State := { s with mgmt := f s.mgmt }

/-- Port n (0, 1) is in I3C mode (MI_STATUS). -/
def State.inI3c (s : State) (n : Nat) : Bool := decide (s.fld Reg.MI_STATUS n 1 = 1)

/-- The EID of endpoint n: 0 when unassigned (Table 16-8). -/
def State.eid (s : State) (n : Nat) : Nat := s.fld Reg.MI_EID (8 * n) 8

/-- An event's message to the receiver of endpoint n (R485). -/
def State.sendEvent (s : State) (kind src value n : Nat) : State :=
  let id := s.mgmt.eventNo
  (s.onMgmt fun m => { m with events := m.events ++ [⟨id, n, kind, src, value, 1⟩], eventNo := id + 1 }).emit
    (.pldmEvent n id kind src value)

/-- The alert of an event: an in-band interrupt on a port in I3C mode, ALERT_N for one in SMBus mode (R480, R509). -/
def State.alertPort (s : State) (n : Nat) : State :=
  if s.inI3c n then s.emit (.inBand n) else s.onMgmt fun m => { m with alert := putBits m.alert n 1 1 }

/-- An event of R485: logged in the device log, sent to every receiver registered, and signalled on the ports. -/
def State.pldmEvent (s : State) (kind src value : Nat) : State :=
  let s1 := s.logRec ⟨0, 0, 0, false, 24, s.incarn 24, 7, kind, none, s.now, none, s.reg Reg.DEVLOG_POS, 0, []⟩
  if s.mgmt.up then
    let s2 := if s.mgmt.rom then s1
      else s1.forAll ((List.range 4).filter fun n => decide (s1.eid n ≠ 0)) fun s n => s.sendEvent kind src value n
    (s2.alertPort 0).alertPort 1
  else s1

/-- The HM_CFG vector (R430, R444). -/
def State.hmVector (s : State) : State :=
  if s.fld Reg.HM_CFG 11 1 = 1 then s.sendVec (s.fld Reg.HM_CFG 0 11) else s

/-- The notice of BAY_FAULT_CFG (R440, R444, R450). -/
def State.bayFaultNotice (s : State) (b : Nat) : State := s.notice b (s.reg (Reg.BAY_FAULT_CFG b))

/-- The pre-fail notice reaches a bay (R444): PREFAIL, its notice, and the checkpoint schedules' pending bits. -/
def State.prefailBay (s : State) (b : Nat) : State :=
  let s1 := s.setFld (Reg.BAY_FAULT_STATUS b) 0 1 1
  let s2 := s1.forAll (List.range 4) fun s k =>
    if (s.ckpt b k).isSome then s.setFld (Reg.CKPT_STATUS b) (4 + k) 1 1 else s
  s2.bayFaultNotice b

/-- The notice of a threshold: 0 DEGRADED to the operator, 1 FAILING to the operator and the bays (R444). -/
def State.ercNotice (s : State) (d t : Nat) : State :=
  if t = 0 then ((s.setFld Reg.HM_DEGRADED d 1 1).hmVector).pldmEvent 1 d (s.reg (Reg.ERC d))
  else
    let s1 := ((s.setFld Reg.HM_STATUS d 1 1).hmVector).pldmEvent 2 d (s.reg (Reg.ERC d))
    s1.forAll (List.range 16) fun s b =>
      if s.bayState b = bayFree then s
      else if 20 ≤ d ∨ s.dieInBay b d then s.prefailBay b else s

/-- Threshold t of die d's counter: 0 DEGRADED, 1 FAILING. -/
def State.ercThr (s : State) (d t : Nat) : Nat := s.fld (Reg.ERC_THR d) (16 * t) 16

/-- One crossing of threshold t (R443 under R257): COUNT, and on the first since ARM the latch, its time and
the notice. -/
def State.ercCross (s : State) (d t : Nat) : State :=
  let a := Reg.ERC_WM_STATUS d t
  let s1 := s.setFld a 16 16 (min 0xFFFF (s.fld a 16 16 + 1))
  if s.fld a 1 1 = 1 then s1
  else ((s1.setFld a 1 1 1).setReg (Reg.ERC_WM_FIRST_KTIME d t) s.now).ercNotice d t

/-- The comparison of an armed threshold after the counter changed from `old` (R443). -/
def State.ercCheck (s : State) (d old t : Nat) : State :=
  if s.fld (Reg.ERC_WM_STATUS d t) 0 1 = 0 then s
  else
    let v := s.reg (Reg.ERC d)
    let s1 := s.setReg (Reg.ERC_WM_EXTREME d t) (max v (s.reg (Reg.ERC_WM_EXTREME d t)))
    if old ≤ s.ercThr d t ∧ s.ercThr d t < v then s1.ercCross d t else s1

/-- Events add their weight to the domain's counter, which is then compared (R442, Table 15-8). -/
def State.ercAdd (s : State) (d w : Nat) : State :=
  let old := s.reg (Reg.ERC d)
  let s1 := s.setReg (Reg.ERC d) (min 0xFFFF (old + w))
  (s1.ercCheck d old 0).ercCheck d old 1

/-- ARM of threshold t (R443, R257). -/
def State.ercArm (s : State) (d t : Nat) : State :=
  let v := s.reg (Reg.ERC d)
  let s1 := ((s.setReg (Reg.ERC_WM_STATUS d t) 1).setReg (Reg.ERC_WM_FIRST_KTIME d t) 0).setReg
    (Reg.ERC_WM_EXTREME d t) v
  let s2 := s1.setFld (if t = 0 then Reg.HM_DEGRADED else Reg.HM_STATUS) d 1 0
  if s.ercThr d t < v then s2.ercCross d t else s2

/-- DISARM of threshold t. -/
def State.ercDisarm (s : State) (d t : Nat) : State :=
  ((s.setReg (Reg.ERC_WM_STATUS d t) 0).setReg (Reg.ERC_WM_FIRST_KTIME d t) 0).setFld
    (if t = 0 then Reg.HM_DEGRADED else Reg.HM_STATUS) d 1 0

/-! ### Records -/

/-- What a new error names: its domain, own level, status, unit and index, bay, command, address, detail,
whether it is a late arrival, the engine it concerns, and its weight in the error-rate counter. -/
structure ErrIn where
  die : Nat
  level : Nat
  status : Nat
  unit : Nat
  idx : Nat
  bay : Option Nat
  cmd : Option (Nat × Nat × Nat)
  addr : Nat
  detail : List Nat
  late : Bool
  weight : Nat

/-- A REQUEST-level uncorrectable error (Table 15-8: weight 64). -/
def errRequest (die status unit idx : Nat) (bay : Option Nat) (addr : Nat) : ErrIn :=
  ⟨die, 1, status, unit, idx, bay, none, addr, [], false, 64⟩

/-- A record that reports no error of the hardware: a late arrival, or a command's failure. -/
def errNote (die level status unit idx : Nat) (bay : Option Nat) (cmd : Option (Nat × Nat × Nat)) (addr : Nat)
    (detail : List Nat) (late : Bool) : ErrIn :=
  ⟨die, level, status, unit, idx, bay, cmd, addr, detail, late, 0⟩

/-- The record's weight of its level (Table 15-8). -/
def levelWeight (level : Nat) : Nat := if level = 2 then 2048 else if 3 ≤ level then 16384 else 0

/-- The level above a die's active one: ENGINE, DIE, BAY, DEVICE on compute dies, DIE, DEVICE on edge dies,
DEVICE on the apex die (R429). -/
def nextLevel (d l : Nat) : Nat := if d < 20 then min 5 (l + 1) else 5

/-- A record enters the FIFO, or is counted when the FIFO is full (R430). -/
def State.pushFifo (s : State) (d : Nat) (r : ErrRec) : State :=
  let x := s.domain d
  if 16 ≤ x.fifo.length then s.count (Reg.ERR_OVF_CNT d) 1
  else (s.setDomain d { x with fifo := x.fifo ++ [r] }).hmVector

/-- The domain's slot and FIFO are its registers; a die that is not in reset or off has them (R427). -/
def State.domainLive (s : State) (d : Nat) : Bool :=
  decide (s.dieState d ≠ dieOff) && decide (s.dieState d ≠ dieInReset)

/-- The handling in progress for die d (R427). -/
def State.handlingOf (s : State) (d : Nat) : Option Handling := s.flt.handling.find? fun h => decide (h.die = d)

def State.setHandling (s : State) (h : Handling) : State :=
  s.onFlt fun f => { f with handling := (f.handling.filter fun x => decide (x.die ≠ h.die)) ++ [h] }

/-- A new error: its record is written, placed in its domain, counted, and its handling is due (R427 to R430,
R442). A second error of ENGINE level or above raises the active handling (R429). -/
def State.raise (s : State) (e : ErrIn) : State :=
  let act := s.handlingOf e.die
  let esc := decide (2 ≤ e.level) && act.isSome
  let lvl := if esc then
      max (if (act.map (·.level)).getD 0 = 5 then 5 else nextLevel e.die ((act.map (·.level)).getD 0)) e.level
    else e.level
  let nest := if esc then min 7 ((act.map (·.nest)).getD 0 + 1) else 0
  let r : ErrRec := ⟨e.status, lvl, nest, e.late, e.die, s.incarn e.die, e.unit, e.idx, e.bay, s.now, e.cmd,
    s.reg Reg.DEVLOG_POS, e.addr, e.detail⟩
  let s1 := s.logRec r
  let s2 :=
    if esc then
      let x := s1.domain e.die
      let s' := if s1.domainLive e.die then
          (s1.setDomain e.die { x with active := x.active.map fun a => { a with level := lvl, nest := nest } }).pushFifo e.die r
        else s1
      s'.setHandling ⟨e.die, lvl, nest, e.idx, decide ((act.map (·.level)).getD 0 < lvl)⟩
    else if 2 ≤ e.level then
      (if s1.domainLive e.die then s1.setDomain e.die { s1.domain e.die with active := some r } else s1).setHandling
        ⟨e.die, lvl, 0, e.idx, true⟩
    else if s1.domainLive e.die then s1.pushFifo e.die r
    else s1
  s2.ercAdd e.die (if 2 ≤ e.level then levelWeight lvl else e.weight)

/-- The record of the first late arrival of a timeout (R431): LEVEL NONE, since nothing fails by it. -/
def State.lateRecord (s : State) (die status unit idx : Nat) (bay : Option Nat) (cmd : Option (Nat × Nat × Nat))
    (addr : Nat) : State :=
  s.raise (errNote die 0 status unit idx bay cmd addr [] true)

/-- Timeout k has expired: its first late arrival is to be recorded. -/
def State.armLate (s : State) (k : LateKey) : State :=
  s.onFlt fun f => { f with lateDue := if f.lateDue.contains k then f.lateDue else f.lateDue ++ [k] }

/-- Timeout k is armed anew. -/
def State.clearLate (s : State) (k : LateKey) : State :=
  s.onFlt fun f => { f with lateDue := f.lateDue.filter fun x => decide (x ≠ k) }

/-- A late arrival of timeout k: `rec` writes its record if it is the first. -/
def State.lateArrival (s : State) (k : LateKey) (rec_ : State → State) : State :=
  if s.flt.lateDue.contains k then rec_ (s.clearLate k) else s

/-- The end of a die's handling: its record moves to the FIFO tail (R428). -/
def State.endHandling (s : State) (d : Nat) : State :=
  let s1 := s.onFlt fun f => { f with handling := f.handling.filter fun h => decide (h.die ≠ d) }
  match (s1.domain d).active with
  | none => s1
  | some r => (s1.setDomain d { s1.domain d with active := none }).pushFifo d r

/-- Class 0x07 details (R459): DETAIL0 names the die and its incarnation. -/
def State.dieDetail (s : State) (d : Nat) : Nat := d + s.incarn d * 32

/-- DEVICE level holds until PKG_RESET_N (R441). -/
def State.deviceFault (s : State) : Bool := s.flt.device

end Sys2Proof.Machine
end

