-- ==== Sys2Proof/Machine/MemOps.lean ====
section
/-! DEFINITION. The memory tiers: the loft (R127 to R138), channel groups and slabs (R235 to R239), objects and
translation (R230 to R233), T2 copies of T3 slabs (R244 to R247), direct T3 accesses (R256), poison (R253 to
R255), and the watermarks that follow them (R257).

HBM and loft hold plaintext: encryption and tags are the same on every path that writes and reads a line
(R251, R252), so what they decide here is whether a line reads as data, as poisoned or as tampered. -/

namespace Sys2Proof.Machine

/-! ### Watermarks -/

/-- The crossing rule of R257 for a source that changed from `old` to `new`. -/
def wmCrossed (down : Bool) (thr old new : Nat) : Bool :=
  if down then decide (thr ≤ old) && decide (new < thr) else decide (old ≤ thr) && decide (thr < new)

/-- A crossing of watermark w: COUNT, and on the first since ARM the latch, its time and its notice. -/
def State.wmCross (s : State) (b w : Nat) : State :=
  let a := Reg.WM_STATUS b w
  let s1 := s.setFld a 16 16 (min 0xFFFF (s.fld a 16 16 + 1))
  if s.fld a 1 1 = 1 then s1
  else
    let s2 := (s1.setFld a 1 1 1).setReg (Reg.WM_FIRST_KTIME b w) s.now
    let s3 := if s.fld (Reg.WM_CFG b w) 4 1 = 1 then s2.evtAdd b (s.fld (Reg.WM_CFG b w) 5 10) 1 else s2
    if s.fld (Reg.WM_CFG b w) 15 1 = 1 then s3.sendVec (s.fld (Reg.WM_CFG b w) 16 11) else s3

/-- An update of source `src` of bay b, from `old` to `new`, seen by its armed watermarks. -/
def State.wmUpdate (s : State) (b src old new : Nat) : State :=
  s.forAll (List.range 8) fun s w =>
    if s.fld (Reg.WM_STATUS b w) 0 1 = 0 ∨ s.fld (Reg.WM_CFG b w) 0 3 ≠ src then s
    else
      let down := decide (s.fld (Reg.WM_CFG b w) 3 1 = 1)
      let x := s.reg (Reg.WM_EXTREME b w)
      let s1 := s.setReg (Reg.WM_EXTREME b w) (if down then min x new else max x new)
      if wmCrossed down (s.reg (Reg.WM_THRESH b w)) old new then s1.wmCross b w else s1

/-- A counter that a watermark can watch. -/
def State.countWm (s : State) (a b src n : Nat) : State :=
  let s1 := s.count a n
  s1.wmUpdate b src (s.reg a) (s1.reg a)

/-! ### Slabs of the channel groups -/

def slabsPerGroup : Nat := 262144

/-- HBM_TAG_EN of the edge die behind which group g lies (R236). -/
def State.tagsOn (s : State) (g : Nat) : Bool := decide (s.fld (Reg.HBM_TAG_EN (edgeOfGroup g)) 0 1 = 1)

/-- Slabs of a group that can be allocated (R235). -/
def State.usable (s : State) (g : Nat) : Nat := if s.tagsOn g then 245760 else slabsPerGroup

def useDefault : Nat → Nat := fun _ => 0

/-- The lowest number from `lo` below `hi` that a rising list of keys does not hold. -/
def firstGap (l : SMap Nat) (lo hi : Nat) : Option Nat :=
  match l with
  | [] => if lo < hi then some lo else none
  | (k, _) :: r =>
    if k < lo then firstGap r lo hi
    else if k = lo then firstGap r (lo + 1) hi
    else if lo < hi then some lo else none

/-- The lowest free slab of group g (R238), as group * 262144 + index. -/
def State.lowestFree (s : State) (g : Nat) : Option Nat :=
  firstGap s.mem.use (g * slabsPerGroup) (g * slabsPerGroup + s.usable g)

/-- Groups of a bay, lowest first. -/
def State.groups (s : State) (b : Nat) : List Nat := maskList 32 (s.reg (Reg.BAY_GROUPS b))

/-- A slab is taken for bay b. -/
def State.takeSlab (s : State) (b loc : Nat) : State :=
  s.onMem fun m => { m with use := mset useDefault m.use loc (b + 1) }

/-- A slab is given back; its bytes are not reachable any more (R239). -/
def State.giveSlab (s : State) (loc : Nat) : State :=
  s.onMem fun m => { m with use := mset useDefault m.use loc 0 }

/-- The lowest free slab of the first group of the bay that has one. -/
def State.anyFree (s : State) (b : Nat) : Option Nat := (s.groups b).findSome? fun g => s.lowestFree g

/-! ### Shares -/

def slabKey (b n : Nat) : Nat := b * 2 ^ 41 + n
def slabDefault : Nat → Slab := fun _ => Slab.none
def State.slab (s : State) (b n : Nat) : Slab := mget slabDefault s.mem.slabs (slabKey b n)
def State.setSlab (s : State) (b n : Nat) (x : Slab) : State :=
  s.onMem fun m => { m with slabs := mset slabDefault m.slabs (slabKey b n) x }

/-- Mapped slabs of a bay with their numbers. -/
def State.baySlabs (s : State) (b : Nat) : List (Nat × Slab) :=
  (s.mem.slabs.filter fun e => decide (e.1 / 2 ^ 41 = b)).map fun e => (e.1 % 2 ^ 41, e.2)

def State.epoch (s : State) (b : Nat) : Nat := mget (fun _ => 0) s.mem.epochs b

/-- Age of a copy in ticks (R245). -/
def State.ageOf (s : State) (b : Nat) (c : T2Copy) : Nat := (s.epoch b + 65536 - c.epoch) % 65536

/-- A copy is evictable unless it fills or belongs to a prefetch window (R245). -/
def T2Copy.evictable (c : T2Copy) : Bool := !c.filling && c.window.isNone && !c.wbFail

/-- Clean evictable copies of a bay. -/
def State.cleanCopies (s : State) (b : Nat) : List (Nat × T2Copy) :=
  (s.baySlabs b).filterMap fun e =>
    match e.2.copy with
    | some c => if c.evictable && !c.dirty then some (e.1, c) else none
    | none => none

def State.share (s : State) (b k : Nat) : Nat := s.fld (Reg.SHARE b k) 0 24
def State.used (s : State) (b k : Nat) : Nat := s.fld (Reg.USED b k) 0 24

/-- Units of class k that bay b has lent (R219). -/
def State.lentBy (s : State) (b k : Nat) : Nat :=
  (s.mem.lends.filter fun l => decide (l.lender = b) && decide (l.cls = k)).length

/-- Free units of a class: the share less what is held and what is lent. -/
def State.freeUnits (s : State) (b k : Nat) : Nat := s.share b k - s.used b k - s.lentBy b k

/-- Evictable copies of a bay, clean or dirty. -/
def State.evictables (s : State) (b : Nat) : Nat :=
  ((s.baySlabs b).filter fun e => match e.2.copy with | some c => c.evictable | none => false).length

/-- Source 2 of Table 08-11: free plus evictable slabs. -/
def State.spareSlabs (s : State) (b : Nat) : Nat := s.freeUnits b 1 + s.evictables b

/-- A slab's copy changes, and the watermarks on free plus evictable slabs follow. -/
def State.setCopy (s : State) (b n : Nat) (c : Option T2Copy) : State :=
  let s1 := s.setSlab b n { s.slab b n with copy := c }
  s1.wmUpdate b 2 (s.spareSlabs b) (s1.spareSlabs b)

/-- Units that an admission can be given at once (R244). -/
def State.reclaimable (s : State) (b : Nat) : Nat := s.freeUnits b 1 + (s.cleanCopies b).length

/-- USEDk changes, and the watermarks on it and on free plus evictable slabs follow. -/
def State.setUsed (s : State) (b k v : Nat) : State :=
  let s1 := s.setFld (Reg.USED b k) 0 24 v
  if k = 1 then
    (s1.wmUpdate b 0 (s.used b 1) v).wmUpdate b 2 (s.spareSlabs b) (s1.spareSlabs b)
  else if k = 0 then s1.wmUpdate b 1 (s.used b 0) v
  else s1

/-! ### Objects -/

/-- The first address of the loft aperture (R230). -/
def apertureBase : Nat := 0x01FFFFFFC0000000

def vaMask : Nat := 2 ^ 57

/-- The object of bay b that maps slab n. -/
def State.objRaw (s : State) (b n : Nat) : Option Obj :=
  s.mem.objs.find? fun o => decide (o.bay = b) && decide (o.base ≤ n) && decide (n < o.base + o.n)

/-- The object with the attributes of the home that its slab now has (Table 08-7). -/
def Obj.atSlab (o : Obj) (x : Slab) : Obj :=
  if !x.flipped then o
  else
    match o.alt with
    | none => o
    | some h => { o with home := h.home, fill := h.fill, wb := h.wb, link := h.link, t3 := h.t3, t3tag := h.t3tag, groups := h.groups }

def State.objAt (s : State) (b n : Nat) : Option Obj := (s.objRaw b n).map fun o => o.atSlab (s.slab b n)

/-- Objects stand in order of bay and base. -/
def insertObj (o : Obj) (l : List Obj) : List Obj :=
  match l with
  | [] => [o]
  | x :: r => if o.bay < x.bay ∨ (o.bay = x.bay ∧ o.base < x.base) then o :: x :: r else x :: insertObj o r

def State.setObj (s : State) (o : Obj) : State :=
  s.onMem fun m => { m with objs := m.objs.map fun x => if x.bay = o.bay ∧ x.base = o.base then o else x }

/-- Entries of one table level that the ranges need: each covers 2^k slabs, ranges in rising order (R231). -/
def tableCount (k : Nat) (next : Nat) (os : List Obj) : Nat :=
  match os with
  | [] => 0
  | o :: r =>
    let a := max next (o.base / 2 ^ k)
    let z := (o.base + o.n - 1) / 2 ^ k + 1
    (z - a) + tableCount k (max next z) r

/-- Table slabs of a bay (R231): four of the root, one for each mid table (2^26 slabs) and leaf table (2^13). -/
def State.tableSlabs (s : State) (b : Nat) (os : List Obj) : Nat :=
  let mine := os.filter fun o => decide (o.bay = b)
  if s.bayState b = bayFree then 0 else 4 + tableCount 26 0 mine + tableCount 13 0 mine

/-! ### The loft -/

def loftTop (s : State) (d : Nat) : Nat := 2 ^ 25 - s.fld (Reg.LOFT_CFG d) 0 4 * 2 ^ 20

/-- A loft byte: lost contents are free values until written or cleared (R134), poisoned words are none. -/
def State.loftByte (s : State) (d la : Nat) : PByte :=
  if markGet s.lofts.poison (d * 2 ^ 22 + la / 8) then none
  else
    let n := mget (fun _ => 0) s.lofts.lost d
    if n ≠ 0 ∧ !markGet s.lofts.fresh (d * 2 ^ 25 + la) then Config.lostByte n la
    else some (mget (fun _ => 0) s.lofts.bytes (d * 2 ^ 25 + la))

def State.loftGet (s : State) (d la n : Nat) : List PByte := (List.range n).map fun i => s.loftByte d (la + i)

/-- One loft byte is stored; the poison mark of its word is set or cleared by the caller. -/
def State.loftSet1 (s : State) (d la : Nat) (v : Byte) : State :=
  s.onLofts fun l => { l with
    bytes := mset (fun _ => 0) l.bytes (d * 2 ^ 25 + la) v
    fresh := if mget (fun _ => 0) l.lost d = 0 then l.fresh else markPut l.fresh (d * 2 ^ 25 + la) true }

/-- LOFT_POISON_CNT follows the words poisoned now (Table 04-9). -/
def State.loftMark (s : State) (d w : Nat) (b : Bool) : State :=
  let was := markGet s.lofts.poison (d * 2 ^ 22 + w)
  let s1 := s.onLofts fun l => { l with poison := markPut l.poison (d * 2 ^ 22 + w) b }
  let n := s.fld (Reg.LOFT_POISON_CNT d) 0 16
  if b && !was then s1.setFld (Reg.LOFT_POISON_CNT d) 0 16 (min 0xFFFF (n + 1))
  else if !b && was then s1.setFld (Reg.LOFT_POISON_CNT d) 0 16 (n - 1)
  else s1

/-- The part of `bs`, written from `la`, that falls in 64-bit word w: offset in the word and bytes. -/
def wordPart (g la : Nat) (bs : List PByte) (w : Nat) : Nat × List PByte :=
  let a := max la (w * g)
  let z := min (la + bs.length) (w * g + g)
  (a - w * g, (bs.drop (a - la)).take (z - a))

/-- A write of one word of the loft: a partial write of a poisoned word is aborted (R137, R138); poisoned bytes
poison the word they land in (R137). False when the write was aborted. -/
def State.loftWord (s : State) (d w : Nat) (part : Nat × List PByte) : State × Bool :=
  let whole := decide (part.2.length = 8)
  if !whole && markGet s.lofts.poison (d * 2 ^ 22 + w) then (s, false)
  else if anyPoison part.2 then (s.loftMark d w true, true)
  else
    let s1 := (List.range part.2.length).foldl (fun s i =>
      s.loftSet1 d (w * 8 + part.1 + i) (pbyte (part.2.getD i (some 0)))) s
    ((if whole then s1.loftMark d w false else s1), true)

/-- A loft write; the status is POISONED when a partial word was poisoned. -/
def State.loftPut (s : State) (d la : Nat) (bs : List PByte) : State × Option Nat :=
  (unitsOf 8 la bs.length).foldl (fun q w =>
    let r := q.1.loftWord d w (wordPart 8 la bs w)
    (r.1, if r.2 then q.2 else some St.POISONED)) (s, none)

/-- How a loft request ends where the loft does not serve it: the die's state (R32), a clear in progress (R132),
another bay's identity, an address in the program cache or beyond (R130). `bay` none is device traffic. -/
def State.loftRefuses (s : State) (d : Nat) (bay : Option Nat) (la n : Nat) : Option Nat :=
  match s.dieRefuses d with
  | some st => some st
  | none =>
    if s.fld (Reg.CLR_STATUS d) 0 2 = 1 then some St.DOMAIN_CLOSED
    else if bay.isSome && decide (s.bayOfDie d ≠ bay) then some St.BAY_MISMATCH
    else if loftTop s d < la + n then some St.OUT_OF_RANGE
    else none

/-! ### HBM lines -/

/-- The line of a byte address of HBM is its number divided by 128. -/
def State.hbmGet (s : State) (pa n : Nat) : List PByte :=
  (List.range n).map fun i =>
    if markGet s.mem.poison ((pa + i) / 128) then none else some (mget (fun _ => 0) s.mem.hbm (pa + i))

/-- Why an access to group g fails as a whole: its edge die (R32), or a failed stack (0x0707). -/
def State.hbmRefuses (s : State) (g : Nat) : Option Nat :=
  match s.dieRefuses (edgeOfGroup g) with
  | some st => some st
  | none => if s.fld (Reg.HBM_STATUS (edgeOfGroup g) (g / 4 % 2)) 1 1 = 1 then some St.MEMORY_LOST else none

def groupOf (loc : Nat) : Nat := loc / slabsPerGroup

def State.hbmCount (s : State) (g : Nat) (wr : Bool) (n : Nat) : State :=
  if wr then s.count64 (Reg.HBM_WR_BYTES (edgeOfGroup g) (g / 4 % 2)) n
  else s.count64 (Reg.HBM_RD_BYTES (edgeOfGroup g) (g / 4 % 2)) n

/-- The line is poisoned (R253), counted, and named in IU_LAST. -/
def State.poisonLine (s : State) (g pa va b : Nat) (t3 : Bool) : State :=
  let s1 := s.onMem fun m => { m with poison := markPut m.poison (pa / 128) true }
  (s1.count (Reg.IU_POISON_CNT (edgeOfGroup g)) 1).setReg (Reg.IU_LAST (edgeOfGroup g))
    (va / 128 + b * 2 ^ 50 + (if t3 then 2 ^ 54 else 0))

/-- A store of part of one line whose access is allowed; a partial write of a poisoned line aborts (R254). -/
def State.hbmPut (s : State) (pa : Nat) (bs : List PByte) : State × Bool :=
  let line := pa / 128
  let whole := decide (bs.length = 128)
  if !whole && markGet s.mem.poison line then (s, false)
  else if anyPoison bs then
    ((s.hbmCount (groupOf (pa / 65536)) true bs.length).onMem fun m => { m with poison := markPut m.poison line true }, true)
  else
    ((s.hbmCount (groupOf (pa / 65536)) true bs.length).onMem fun m => { m with
      hbm := rangePut m.hbm pa (bs.map pbyte)
      poison := if whole then markPut m.poison line false else m.poison }, true)

/-- The turn kept at `k`, and the next one of `n`. -/
def State.turn (s : State) (k n : Nat) : Nat × State :=
  let v := mget (fun _ => 0) s.mem.turns k
  (v, s.onMem fun m => { m with turns := mset (fun _ => 0) m.turns k ((v + 1) % n) })

/-- One chunk of a tier mover (R250): `g` the channel group that decides its edge die, none for work without a T2 end;
its bytes, or its failure. -/
def State.moved (s : State) (g : Option Nat) (n : Nat) (ok : Bool) : State :=
  let e := match g with
    | some g => (edgeOfGroup g, s)
    | none => ((s.turn 0 4).1 + 20, (s.turn 0 4).2)
  let m := e.2.turn e.1 2
  if ok then m.2.count64 (Reg.TM_BYTES e.1 m.1) n else m.2.count (Reg.TM_ERR_CNT e.1 m.1) 1

/-- A slab of zeros with valid tags (R239). -/
def State.zeroSlab (s : State) (loc : Nat) : State :=
  s.onMem fun m => { m with
    hbm := mclear m.hbm fun a => decide (a / 65536 = loc)
    poison := mclear m.poison fun l => decide (l / 512 = loc) }

/-- A tier mover writes a slab with zeros (R239). -/
def State.zeroWrite (s : State) (loc : Nat) : State :=
  ((s.zeroSlab loc).hbmCount (groupOf loc) true 65536).moved (some (groupOf loc)) 65536 true

/-- Copies a whole slab, poison included (R255). -/
def State.copySlab (s : State) (src dst : Nat) : State :=
  let bytes := s.mem.hbm.filter fun e => decide (e.1 / 65536 = src)
  let marks := s.mem.poison.filter fun e => decide (e.1 / 512 = src)
  let s1 := ((s.zeroSlab dst).hbmCount (groupOf src) false 65536).hbmCount (groupOf dst) true 65536
  s1.onMem fun m => { m with
    hbm := bytes.foldl (fun h e => mset (fun _ => 0) h (dst * 65536 + e.1 % 65536) e.2) m.hbm
    poison := marks.foldl (fun h e => markPut h (dst * 512 + e.1 % 512) e.2) m.poison }

/-! ### T2 copies of T3 slabs -/

/-- A copy goes before another: older by more than the tolerance of one tick, or filed first (R245). -/
def olderCopy (a : Nat) (c : T2Copy) (a' : Nat) (c' : T2Copy) : Bool :=
  decide (a' + 1 < a) || (decide (a ≤ a' + 1) && decide (a' ≤ a + 1) && decide (c.filed < c'.filed))

/-- The copy to evict: the oldest evictable one, clean or dirty, the first filed among equals (R245). -/
def State.evictee (s : State) (b : Nat) : Option (Nat × T2Copy) :=
  ((s.baySlabs b).filterMap fun e =>
    match e.2.copy with
    | some c => if c.evictable then some (e.1, c) else none
    | none => none).foldl (fun m e =>
      match m with
      | none => some e
      | some x =>
        if olderCopy (s.ageOf b e.2) e.2 (s.ageOf b x.2) x.2 then some e else some x) none

/-- A lent slab returns to its lender (R219). -/
def State.unlend (s : State) (loc : Nat) : State :=
  s.onMem fun m => { m with lends := m.lends.filter fun l => !(decide (l.cls = 1) && decide (l.slab = loc)) }

/-- A copy is dropped and its slab freed (R245); the reservation of a window keeps its unit (R248). -/
def State.dropCopy (s : State) (b n : Nat) : State :=
  match (s.slab b n).copy with
  | none => s
  | some c =>
    let s1 := ((s.setCopy b n none).giveSlab c.loc).unlend c.loc
    if c.window.isSome then s1 else s1.setUsed b 1 (s1.used b 1 - 1)

/-- The host-link address of a byte of a T3 object (Table 08-3). -/
def Obj.t3Addr (o : Obj) (va : Nat) : Nat := o.t3 + (va - o.base * 65536)

/-- A dirty copy is sent to its home: one write of the slab under its next version (R246, R252). A slab whose
version is spent stays resident (R252). -/
def State.writeBack (s : State) (o : Obj) (n : Nat) : State :=
  match (s.slab o.bay n).copy with
  | none => s
  | some c =>
    let x := s.slab o.bay n
    if 0xFFFFFFFF ≤ x.ver then
      (s.setCopy o.bay n (some { c with wbFail := true })).count (Reg.WB_FAIL_CNT o.bay) 1
    else
      ((s.setSlab o.bay n { x with ver := x.ver + 1 }).setCopy o.bay n (some { c with filling := true })).hbmCount (groupOf c.loc) false 65536 |>.t3Send o.link (o.t3Addr (n * 65536)) (x.ver + 1) (s.hbmGet (c.loc * 65536) 65536) o.plain

/-- A lender for a clean copy: another RUNNING OPEN bay with a unit to spare (R207, R219). -/
def State.lenderFor (s : State) (b k : Nat) : Option Nat :=
  if !s.bayOpen b then none
  else (List.range 16).find? fun l =>
    decide (l ≠ b) && decide (s.bayState l = bayRunning) && s.bayOpen l && decide (0 < s.freeUnits l k)

/-- The outcome of asking for a slab of the pool for a copy. -/
inductive CopySlab where
  | got (loc : Nat) (lender : Option Nat) (s : State)
  | later (s : State)
  | none

/-- A slab for a fill (R247): a free one of the share, one borrowed in OPEN mode, or an evicted one; a dirty
evictee is written back first. -/
def State.slabForFill (s : State) (b : Nat) : CopySlab :=
  let own := if 0 < s.freeUnits b 1 then s.anyFree b else Option.none
  match own with
  | some loc => .got loc Option.none ((s.takeSlab b loc).setUsed b 1 (s.used b 1 + 1))
  | Option.none =>
    match (s.lenderFor b 1).bind fun l => (s.anyFree l).map fun loc => (l, loc) with
    | some (l, loc) =>
      let s1 := (s.takeSlab b loc).onMem fun m => { m with lends := m.lends ++ [⟨1, l, b, loc⟩] }
      .got loc (some l) (s1.setUsed b 1 (s.used b 1 + 1))
    | Option.none =>
      match s.evictee b with
      | Option.none => .none
      | some (n, c) =>
        if c.dirty then
          match s.objAt b n with
          | Option.none => .none
          | some o => .later (s.writeBack o n)
        else
          let s1 := (s.dropCopy b n).count (Reg.EVICT_CNT b) 1
          .got c.loc Option.none ((s1.takeSlab b c.loc).setUsed b 1 (s1.used b 1 + 1))

/-! ### T3 accesses -/

def State.setT3 (s : State) (l : List T3Acc) : State := s.onMem fun m => { m with t3 := l }

def T3Acc.waits (a : T3Acc) (w : Waiter) : Bool := a.waiters.any fun x => decide (x = w)

/-- The access that covers a read, as its waiter sees it. -/
def State.t3Find (s : State) (w : Waiter) (b va n : Nat) : Option T3Acc :=
  s.mem.t3.find? fun a => decide (a.bay = b) && a.waits w &&
    (if a.fill then decide (a.slab = va / 65536) else decide (a.va ≤ va) && decide (va + n ≤ a.va + a.len))

/-- The outcomes that `w` has seen are forgotten; an access nobody waits for any more ends with its data. -/
def State.t3Done (s : State) (w : Waiter) : State :=
  s.setT3 ((s.mem.t3.map fun a =>
    if a.res.isSome ∨ (!a.fill ∧ a.data ≠ []) then { a with waiters := a.waiters.filter fun x => decide (x ≠ w) }
    else a).filter fun a => !((a.res.isSome || (!a.fill && decide (a.data ≠ []))) && decide (a.waiters = [])))

/-- A direct read of a T3 line is issued (R247, R256). -/
def State.t3Direct (s : State) (w : Waiter) (o : Obj) (va n : Nat) : State :=
  (s.setT3 (s.mem.t3 ++ [⟨o.bay, va / 65536, o.link, va, n, false, [w], none, [], [], [], false⟩])).t3Fetch o.link (o.t3Addr va) n

/-- `w` joins the fill of a slab (R247). -/
def State.joinFill (s : State) (w : Waiter) (b n : Nat) : State :=
  s.setT3 (s.mem.t3.map fun a =>
    if a.bay = b ∧ a.slab = n ∧ a.fill ∧ a.res.isNone ∧ !a.waits w then { a with waiters := a.waiters ++ [w] } else a)

/-- A fill of slab n of an object into slab `loc` starts (R247). -/
def State.startFill (s : State) (ws : List Waiter) (o : Obj) (n loc : Nat) (lender window : Option Nat) (demand : Bool) : State :=
  let t := (s.zeroSlab loc).tickStamp
  let c : T2Copy := ⟨loc, false, false, true, false, s.epoch o.bay, t.1, lender, window⟩
  let s1 := t.2.setCopy o.bay n (some c)
  (s1.setT3 (s1.mem.t3 ++ [⟨o.bay, n, o.link, n * 65536, 65536, true, ws, none, [], [], [], demand⟩])).t3Fetch o.link (o.t3Addr (n * 65536)) 65536

/-! ### Accesses to the bay virtual range -/

/-- How an access stands: served, failed with a status at an address, or waiting for T3. -/
inductive Acc where
  | ok
  | fail (st va : Nat)
  | wait
  deriving DecidableEq, Repr

/-- The worse of two: a failure stands, then a wait. -/
def Acc.and (a b : Acc) : Acc :=
  match a, b with
  | .fail st va, _ => .fail st va
  | .wait, .fail st va => .fail st va
  | .wait, _ => .wait
  | .ok, x => x

/-- A range split where it crosses a 128-byte line: address and length of each piece. -/
def pieces (fuel va n : Nat) : List (Nat × Nat) :=
  match fuel with
  | 0 => []
  | f + 1 =>
    if n = 0 then []
    else
      let k := min n (128 - va % 128)
      (va, k) :: pieces f (va + k) (n - k)

def linesOf (va n : Nat) : List (Nat × Nat) := pieces (n / 128 + 2) va n

/-- An access to a window slab that has not landed: PF_LATE_CNT once for each step (R248). -/
def State.schedLate (s : State) (b k n : Nat) : State :=
  match s.mem.scheds.find? fun e => decide (e.1 = b * 16 + k) with
  | none => s
  | some (_, sc) =>
    let step := (List.range sc.steps.length).find? fun i =>
      let p := sc.steps.getD i (0, 0)
      decide (p.1 / 65536 ≤ n) && decide (n < p.1 / 65536 + p.2)
    match step with
    | none => s
    | some i =>
      if sc.late.any fun j => decide (j = i) then s
      else
        (s.onMem fun m => { m with scheds := m.scheds.map fun e =>
          if e.1 = b * 16 + k then (e.1, { e.2 with late := e.2.late ++ [i] }) else e }).countWm
          (Reg.PF_LATE_CNT b) b 5 1

/-- A line of a slab that fills has landed. -/
def State.lineLanded (s : State) (b n line : Nat) : Bool :=
  s.mem.t3.any fun a => a.fill && decide (a.bay = b) && decide (a.slab = n) && a.landed.contains line

/-- A T3 slab is prepared for an access: its copy, its fill to wait for, or a direct access. -/
def State.t3Touch (s : State) (w : Waiter) (o : Obj) (va n : Nat) (direct : Bool) : State × Acc :=
  match s.t3Find w o.bay va n with
  | some a =>
    (s, match a.res with
      | some st => .fail st va
      | none =>
        if a.fill then
          if a.bad.contains (va / 128 % 512) then .fail St.TAG_MISMATCH va
          else if a.landed.contains (va / 128 % 512) then .ok else .wait
        else if a.data = [] then .wait else .ok)
  | none =>
    match (s.slab o.bay (va / 65536)).copy with
    | some c =>
      if c.filling && c.dirty then (s, .ok)
      else if c.filling && s.lineLanded o.bay (va / 65536) (va / 128 % 512) then (s, .ok)
      else if c.filling then
        let s1 := s.joinFill w o.bay (va / 65536)
        match c.window with
        | none => (s1, .wait)
        | some k => (s1.schedLate o.bay k (va / 65536), .wait)
      else
        (s.setSlab o.bay (va / 65536)
          { s.slab o.bay (va / 65536) with copy := some { c with epoch := s.epoch o.bay } }, .ok)
    | none =>
      if !o.fill then if direct then (s.t3Direct w o va n, .wait) else (s, .ok)
      else
        match s.slabForFill o.bay with
        | .got loc l s1 => ((s1.startFill [w] o (va / 65536) loc l none true).count (Reg.DEMAND_FILL_CNT o.bay) 1, .wait)
        | .later s1 => (s1, .wait)
        | .none =>
          let s1 := s.count (Reg.DEMAND_NOFILL_CNT o.bay) 1
          if direct then (s1.t3Direct w o va n, .wait) else (s1, .ok)

end Sys2Proof.Machine
end

