-- ==== Sys2Proof/Machine/MemAccess.lean ====
section
/-! DEFINITION. Reads and writes of the bay virtual range (R229 to R233, R246, R253 to R256) by the device's own
requesters: command processors, tier movers, windows and rings. -/

namespace Sys2Proof.Machine

/-- A TAG_MISMATCH or POISONED completion of a bay (source 6 of Table 08-11). -/
def State.sawBad (s : State) (b : Nat) : State :=
  let n := mget (fun _ => 0) s.mem.badSeen b
  (s.onMem fun m => { m with badSeen := mset (fun _ => 0) m.badSeen b (n + 1) }).wmUpdate b 6 n (n + 1)

/-- What an HBM read meets beside stored poison (R136, R253): a corrected error is counted; a failing tag or an
uncorrectable error poisons the line, writes a record and fails the request. -/
def State.meetMedium (s : State) (m : Medium) (g pa va b : Nat) (t3 : Bool) : State × Option Nat :=
  let d := edgeOfGroup g
  match m with
  | .good => (s, none)
  | .corrected => ((s.count (Reg.HBM_CORR_CNT d (g / 4 % 2)) 1).ercAdd d 1, none)
  | .uncorrectable =>
    let s1 := (s.poisonLine g pa va b t3).count (Reg.HBM_UNCORR_CNT d (g / 4 % 2)) 1
    (s1.raise (errRequest d St.ECC_UNCORRECTABLE 3 g (some b) va), some St.ECC_UNCORRECTABLE)
  | .tampered =>
    if !s.tagsOn g then (s, none)
    else
      let s1 := (s.poisonLine g pa va b t3).count (Reg.IU_TAG_FAIL_CNT d) 1
      ((s1.raise (errRequest d St.TAG_MISMATCH 3 g (some b) va)).sawBad b, some St.TAG_MISMATCH)

/-- A read of bytes of one T2 line at a physical address (R253, R255). -/
def State.t2Read (s : State) (m : Medium) (b va pa n : Nat) : State × List PByte × Acc :=
  let g := groupOf (pa / 65536)
  match s.hbmRefuses g with
  | some st => (s, List.replicate n none, .fail st va)
  | none =>
    let s0 := s.hbmCount g false n
    if markGet s0.mem.poison (pa / 128) then (s0.sawBad b, List.replicate n none, .fail St.POISONED va)
    else
      let r := s0.meetMedium m g pa va b false
      match r.2 with
      | some st => (r.1, List.replicate n none, .fail st va)
      | none => (r.1, r.1.hbmGet pa n, .ok)

/-! ### Mirrored slabs (R447 to R449) -/

def mirSrcDefault : Nat → Option MirSrc := fun _ => none
def State.mirSrc (s : State) (b : Nat) : Option MirSrc := mget mirSrcDefault s.flt.mirSrc b
def State.setMirSrc (s : State) (b : Nat) (x : Option MirSrc) : State :=
  s.onFlt fun f => { f with mirSrc := mset mirSrcDefault f.mirSrc b x }

def mirHostDefault : Nat → Option MirHost := fun _ => none
def State.mirHost (s : State) (b : Nat) : Option MirHost := mget mirHostDefault s.flt.mirHost b
def State.setMirHost (s : State) (b : Nat) (x : Option MirHost) : State :=
  s.onFlt fun f => { f with mirHost := mset mirHostDefault f.mirHost b x }

/-- The index of a slab number through a list of ranges in order. -/
def rangeIndex (rs : List (Nat × Nat)) (n : Nat) : Option Nat :=
  match rs with
  | [] => none
  | (a, k) :: r => if a ≤ n ∧ n < a + k then some (n - a) else (rangeIndex r n).map (· + k)

/-- The slab number of an index. -/
def rangeSlab (rs : List (Nat × Nat)) (i : Nat) : Nat :=
  match rs with
  | [] => 0
  | (a, k) :: r => if i < k then a + i else rangeSlab r (i - k)

/-- Bytes of the bay that wait to be forwarded or acknowledged. -/
def State.mirBacklog (s : State) (b : Nat) : Nat :=
  match s.mirSrc b with
  | none => 0
  | some x => 128 * (x.todo.length + x.held.length) +
      ((s.fab.reqs.filter fun r => match r.owner with | .mirror b' _ _ => decide (b' = b) | _ => false).map fun r =>
        r.data.length).foldl (· + ·) 0

/-- Writes to a mirrored slab wait at a backlog of 64 MiB (R447). -/
def State.mirFull (s : State) (b n : Nat) : Bool :=
  match s.mirSrc b with
  | none => false
  | some x => (rangeIndex x.ranges n).isSome && x.failed.isNone && decide (2 ^ 26 ≤ s.mirBacklog b)

/-- The 128 bytes of the line at a physical address. -/
def State.lineBytes (s : State) (pa : Nat) : List Byte := (s.hbmGet (pa / 128 * 128) 128).map pbyte

/-- A write has landed in a line: a mirrored slab's line is to be forwarded, after the running SYNC if there is one. -/
def State.mirLanded (s : State) (b va pa : Nat) : State :=
  match s.mirSrc b with
  | none => s
  | some x =>
    match rangeIndex x.ranges (va / 65536) with
    | none => s
    | some i =>
      let e := (i, va / 128 % 512, s.lineBytes pa)
      if x.failed.isSome then s
      else if x.sync.isSome then s.setMirSrc b (some { x with held := x.held ++ [e] })
      else s.setMirSrc b (some { x with todo := x.todo ++ [e] })

/-- A write has landed in a hosted region: a half whose generation is at most C takes C + 1 (R449). -/
def State.mirHosted (s : State) (b va n : Nat) : State :=
  match s.mirHost b with
  | none => s
  | some x =>
    if va < x.region ∨ x.region + 2 * x.mslabs * 65536 ≤ va then s
    else
      let c := x.frozen.getD (s.fld (Reg.EVT b x.cevt) 0 48)
      s.setMirHost b (some { x with gens := (unitsOf 65536 (va - x.region) n).foldl (fun g i =>
        if mget (fun _ => 0) g i ≤ c then mset (fun _ => 0) g i (c + 1) else g) x.gens })

/-- A write of bytes of one T2 line (R254). A partial write reads the line first, and aborts if it gives anything
but data. -/
def State.t2Write (s : State) (m : Medium) (b va pa : Nat) (bs : List PByte) : State × Acc :=
  let g := groupOf (pa / 65536)
  match s.hbmRefuses g with
  | some st => (s, .fail st va)
  | none =>
    let whole := decide (bs.length = 128)
    if whole then ((s.hbmPut pa bs).1.mirLanded b va pa, .ok)
    else if markGet s.mem.poison (pa / 128) then (s.sawBad b, .fail St.POISONED va)
    else
      let r := s.meetMedium m g pa va b false
      match r.2 with
      | some st => (r.1, .fail st va)
      | none => ((r.1.hbmPut pa bs).1.mirLanded b va pa, .ok)

/-- Whether the aperture address lies on a die of the bay, and its loft address (R230). -/
def aperture (va : Nat) : Nat × Nat := ((va - apertureBase) / 2 ^ 25, (va - apertureBase) % 2 ^ 25)

/-- Details of a class 0x04 or 0x07 failure at a bay virtual address (R258, R459): the address with its tier (0 to 3
for T0 to T3), or the die that failed. -/
def State.vaDetail (s : State) (b st va : Nat) : Nat × Nat :=
  let a := aperture va
  let die (d : Nat) : Nat × Nat := (d + s.incarn d * 32, 0)
  if apertureBase ≤ va then
    if St.cls st = 4 then (a.2, 2 ^ 18 + a.1 * 2 ^ 20) else if St.cls st = 7 then die a.1 else (0, 0)
  else
    let x := s.slab b (va / 65536)
    if St.cls st = 4 then (va / 128 % 2 ^ 32, va / 2 ^ 39 % 2 ^ 18 + (if x.home.isSome then 2 else 3) * 2 ^ 18)
    else if St.cls st = 7 then
      die (edgeOfGroup (groupOf ((x.home.orElse fun _ => x.copy.map (·.loc)).getD 0)))
    else (0, 0)

/-- Details of a class 0x04 or 0x07 failure at a loft address, or at a scratchpad address of a logical engine. -/
def State.loftDetail (s : State) (d st la : Nat) : Nat × Nat :=
  if St.cls st = 4 then (la, 2 ^ 18 + d * 2 ^ 20) else if St.cls st = 7 then (d + s.incarn d * 32, 0) else (0, 0)

def State.spadDetail (s : State) (d l st sa : Nat) : Nat × Nat :=
  if St.cls st = 4 then (sa, d * 2 ^ 20 + l * 2 ^ 25) else if St.cls st = 7 then (d + s.incarn d * 32, 0) else (0, 0)

/-- How far the first poisoned byte lies from the start. -/
def firstPoison (bs : List PByte) : Nat := (bs.takeWhile fun x => x.isSome).length

/-- A read that gives no data: its bytes are none. -/
def badRead (s : State) (n st va : Nat) : State × List PByte × Acc := (s, List.replicate n none, .fail st va)

/-- A read through the loft aperture (R230). -/
def State.readLoft (s : State) (b va n : Nat) : State × List PByte × Acc :=
  if !s.dieInBay b (aperture va).1 then badRead s n St.OUT_OF_RANGE va
  else
    match s.loftRefuses (aperture va).1 (some b) (aperture va).2 n with
    | some st => badRead s n st va
    | none =>
      (s, s.loftGet (aperture va).1 (aperture va).2 n,
        if anyPoison (s.loftGet (aperture va).1 (aperture va).2 n) then .fail St.POISONED va else .ok)

/-- A read of a T3 home once its access may go on: from the copy in T2, or from the data that T3 has returned. -/
def State.readT3 (w : Waiter) (m : Medium) (b : Nat) (s : State) (va n : Nat) : State × List PByte × Acc :=
  match (s.slab b (va / 65536)).copy with
  | some c => s.t2Read m b va (c.loc * 65536 + va % 65536) n
  | none =>
    match s.t3Find w b va n with
    | some a =>
      if anyPoison ((a.data.drop (va - a.va)).take n) then
        (s.sawBad b, (a.data.drop (va - a.va)).take n, .fail St.POISONED va)
      else (s, (a.data.drop (va - a.va)).take n, .ok)
    | none => (s, List.replicate n none, .wait)

/-- What a T3 access gives once it has been made: the data, or the wait or failure that it met. -/
def readTouched (w : Waiter) (m : Medium) (b va n : Nat) (r : State × Acc) : State × List PByte × Acc :=
  match r.2 with
  | .ok => State.readT3 w m b r.1 va n
  | other => (r.1, List.replicate n none, other)

/-- One piece of a read, within a 128-byte line. -/
def State.readPiece (w : Waiter) (m : Medium) (b : Nat) (s : State) (va n : Nat) : State × List PByte × Acc :=
  if vaMask ≤ va then badRead s n St.OUT_OF_RANGE va
  else if apertureBase ≤ va then s.readLoft b va n
  else
    match s.objAt b (va / 65536) with
    | none => badRead s n St.OUT_OF_RANGE va
    | some o =>
      match (s.slab b (va / 65536)).home with
      | some loc =>
        if (s.slab b (va / 65536)).zero then (s, List.replicate n (some 0), .ok)
        else s.t2Read m b va (loc * 65536 + va % 65536) n
      | none => readTouched w m b va n (s.t3Touch w o va n true)

/-- A read among several that one command makes: what it fetched stays until the command has seen it all. -/
def State.vaReadKeep (w : Waiter) (m : Medium) (s : State) (b va n : Nat) : State × List PByte × Acc :=
  (linesOf va n).foldl (fun q p =>
    let x := State.readPiece w m b q.1 p.1 p.2
    (x.1, q.2.1 ++ x.2.1, q.2.2.and x.2.2)) (s, ([] : List PByte), Acc.ok)

/-- A read of a range (R229 to R233): its bytes, poisoned ones as none, and how it stands. Every piece is
requested, so that one wait serves all. -/
def State.vaReadM (w : Waiter) (m : Medium) (s : State) (b va n : Nat) : State × List PByte × Acc :=
  let r := s.vaReadKeep w m b va n
  (if r.2.2 = .wait then r.1 else r.1.t3Done w, r.2)

def State.vaRead (w : Waiter) (s : State) (b va n : Nat) : State × List PByte × Acc := s.vaReadM w .good b va n

/-- Who writes: the bay's own requesters, the device itself (R446), or the device into an epoch area, which no RO
attribute stops (R312). -/
inductive WriteBy where
  | bay
  | device
  | area
  deriving DecidableEq, Repr

/-- Whether the object refuses a write (Table 08-3, R291, R446). -/
def Obj.readOnly (o : Obj) (by_ : WriteBy) : Bool :=
  (o.ro && decide (by_ ≠ .area)) ||
    (match o.owner with
     | .user => false
     | .mirror => decide (by_ = .bay)
     | .rethatch _ => true)

/-- A loft write that has been made, or was aborted (R138). -/
def loftWritten (va : Nat) (r : State × Option Nat) : State × Acc :=
  (r.1, match r.2 with | some st => .fail st va | none => .ok)

/-- A write through the loft aperture (R230). -/
def State.writeLoft (s : State) (b va : Nat) (bs : List PByte) : State × Acc :=
  if !s.dieInBay b (aperture va).1 then (s, .fail St.OUT_OF_RANGE va)
  else
    match s.loftRefuses (aperture va).1 (some b) (aperture va).2 bs.length with
    | some st => (s, .fail st va)
    | none => loftWritten va (s.loftPut (aperture va).1 (aperture va).2 bs)

/-- A T2 slab that reads as zeros is written with them before its first write (R239). -/
def State.zeroFirst (s : State) (b n loc : Nat) : State :=
  if (s.slab b n).zero then (s.zeroWrite loc).setSlab b n { s.slab b n with zero := false } else s

/-- A write of a copy has been made: the copy is dirty, or the write goes through to T3 (R246). -/
def State.copyWritten (o : Obj) (b va : Nat) (c : T2Copy) (bs : List PByte) (q : State × Acc) : State × Acc :=
  if o.wb && c.lender.isNone then
    (q.1.setCopy b (va / 65536) (some { c with dirty := true, again := c.filling }), q.2)
  else
    (q.1.t3Send o.link (o.t3Addr va) (q.1.slab b (va / 65536)).ver bs o.plain, q.2)

/-- A write of a T3 home once its access may go on, or what that access met. -/
def writeTouched (m : Medium) (o : Obj) (b va : Nat) (bs : List PByte) (r : State × Acc) : State × Acc :=
  match r.2 with
  | .ok =>
    match (r.1.slab b (va / 65536)).copy with
    | some c => State.copyWritten o b va c bs (r.1.t2Write m b va (c.loc * 65536 + va % 65536) bs)
    | none => (r.1.t3Send o.link (o.t3Addr va) (r.1.slab b (va / 65536)).ver bs o.plain, .ok)
  | other => (r.1, other)

/-- One piece of a write, within a 128-byte line. -/
def State.writePiece (w : Waiter) (by_ : WriteBy) (m : Medium) (b : Nat) (s : State) (va : Nat) (bs : List PByte) :
    State × Acc :=
  if vaMask ≤ va then (s, .fail St.OUT_OF_RANGE va)
  else if apertureBase ≤ va then s.writeLoft b va bs
  else
    match s.objAt b (va / 65536) with
    | none => (s, .fail St.OUT_OF_RANGE va)
    | some o =>
      if o.readOnly by_ then (s, .fail St.READ_ONLY va)
      else if (s.slab b (va / 65536)).moving then (s, .wait)
      else
        match (s.slab b (va / 65536)).home with
        | some loc => (s.zeroFirst b (va / 65536) loc).t2Write m b va (loc * 65536 + va % 65536) bs
        | none => writeTouched m o b va bs (s.t3Touch w o va bs.length (!o.plain && decide (bs.length < 128)))

/-- Whether a write of the range can proceed now: every T3 slab it touches is served (R247), no slab is being copied, and no
mirrored slab's backlog is full (R447). -/
def State.writeReady (w : Waiter) (by_ : WriteBy) (b : Nat) (s : State) (va n : Nat) : State × Acc :=
  (linesOf va n).foldl (fun q p =>
    if apertureBase ≤ p.1 then q
    else
      match q.1.objAt b (p.1 / 65536) with
      | none => q
      | some o =>
        if o.readOnly by_ then q
        else if ((q.1.slab b (p.1 / 65536)).moving || q.1.mirFull b (p.1 / 65536)) then (q.1, q.2.and .wait)
        else if (q.1.slab b (p.1 / 65536)).home.isSome then q
        else
          let r := q.1.t3Touch w o p.1 p.2 (!o.plain && decide (p.2 < 128))
          (r.1, q.2.and r.2)) (s, Acc.ok)

/-- A write of a range: nothing is written while a T3 slab has to be fetched first. -/
def State.vaWriteM (w : Waiter) (by_ : WriteBy) (m : Medium) (s : State) (b va : Nat) (bs : List PByte) : State × Acc :=
  let r := State.writeReady w by_ b s va bs.length
  if r.2 = .wait then r
  else
    let q := (linesOf va bs.length).foldl (fun q p =>
      let x := State.writePiece w by_ m b q.1 p.1 ((bs.drop (p.1 - va)).take p.2)
      (x.1, q.2.and x.2)) (r.1, r.2)
    (q.1.t3Done w, q.2)

def State.vaWrite (w : Waiter) (by_ : WriteBy) (s : State) (b va : Nat) (bs : List PByte) : State × Acc :=
  s.vaWriteM w by_ .good b va bs

/-- A write of the device's own records (rings, stamps, phase records; `area`: an epoch area): one that has to wait
for T3 waits in order; one that fails leaves an error record. -/
def State.devWriteBy (s : State) (area : Bool) (b va : Nat) (bs : List PByte) : State :=
  let r := s.vaWrite .dev (if area then .area else .device) b va bs
  match r.2 with
  | .ok => r.1
  | .wait => r.1.onMem fun m => { m with devWrites := m.devWrites ++ [(b, va, area, bs)] }
  | .fail st a => r.1.raise (errNote 24 1 st 7 0 (some b) none a [] false)

def State.devWrite (s : State) (b va : Nat) (bs : List Byte) : State := s.devWriteBy false b va (unpoisoned bs)

/-- The device's own writes that waited are tried again (R247). -/
def State.retryDevWrites (s : State) : State :=
  let ws := s.mem.devWrites
  (s.onMem fun m => { m with devWrites := [] }).forAll ws fun s w => s.devWriteBy w.2.2.1 w.1 w.2.1 w.2.2.2

/-- The bytes of a bay range when they are all there at once. -/
def State.peek (s : State) (b va n : Nat) : List PByte := (s.vaRead .dev b va n).2.1

end Sys2Proof.Machine
end

