-- ==== Sys2Proof/Machine/QueueOps.lean ====
section
/-! DEFINITION. Commands of the queues: finding and replacing them, completion records (R189, R192), halting
(R191), the end of a command, its signal (R184), and the start rule (R186). -/

namespace Sys2Proof.Machine

def State.findCmd (s : State) (q seq : Nat) : Option Cmd :=
  s.cq.cmds.find? fun c => decide (c.q = q) && decide (c.seq = seq)

def State.setCmd (s : State) (c : Cmd) : State :=
  s.onCq fun d => { d with cmds := d.cmds.map fun x => if x.q = c.q ∧ x.seq = c.seq then c else x }

def State.dropCmd (s : State) (c : Cmd) : State :=
  s.onCq fun d => { d with cmds := d.cmds.filter fun x => !(decide (x.q = c.q) && decide (x.seq = c.seq)) }

/-- The commands of a queue, in acceptance order. -/
def State.qCmds (s : State) (q : Nat) : List Cmd := s.cq.cmds.filter fun c => decide (c.q = q)

def Cmd.unstarted (c : Cmd) : Bool := decide (c.phase = .accepted) || decide (c.phase = .stopped)

/-- Accepted and not yet completed. -/
def Cmd.live (c : Cmd) : Bool :=
  match c.phase with
  | .signalling _ => false
  | _ => true

def Cmd.started (c : Cmd) : Bool := c.live && !c.unstarted

/-- The apex die runs its firmware: booted, not held in reset, not restarting (R490, R508), clocks running (R513). -/
def State.apexUp (s : State) : Bool :=
  decide (s.dieState 24 = dieOn) && !s.mgmt.restarting && !s.pins.hold && !s.pins.booting && !s.pins.stopped

/-! ### Header fields (Table 06-2) -/

def Cmd.pslots (c : Cmd) : Nat := c.f 0 8 3
def Cmd.fence (c : Cmd) : Bool := decide (c.f 0 11 1 = 1)
def Cmd.errOnly (c : Cmd) : Bool := decide (c.f 0 12 1 = 1)
def Cmd.irq (c : Cmd) : Bool := decide (c.f 0 13 1 = 1)
def Cmd.nwait (c : Cmd) : Nat := c.f 2 0 3
def Cmd.timeout (c : Cmd) : Nat := c.f 2 8 24
def Cmd.sigOp (c : Cmd) : Nat := c.f 3 0 2
def Cmd.sigRemote (c : Cmd) : Bool := decide (c.f 3 2 1 = 1)
def Cmd.sigOnErr (c : Cmd) : Bool := decide (c.f 3 3 1 = 1)
def Cmd.sigEvent (c : Cmd) : Nat := c.f 3 4 10
def Cmd.sigValue (c : Cmd) : Nat := c.f 4 0 32 + c.f 5 0 16 * 2 ^ 32
def Cmd.sigDev (c : Cmd) : Nat := c.f 6 0 24
def Cmd.sigBay (c : Cmd) : Nat := c.f 6 24 4
/-- Event and threshold of wait n. -/
def Cmd.wait (c : Cmd) (n : Nat) : Nat × Nat := (c.f (8 + 2 * n) 0 10, c.f (8 + 2 * n) 16 16 + c.f (9 + 2 * n) 0 32 * 2 ^ 16)
def Cmd.waits (c : Cmd) : List (Nat × Nat) := (List.range c.nwait).map c.wait

/-- A wait holds when the counter is at or above its value (R182). -/
def State.waitsHold (s : State) (c : Cmd) : Bool :=
  c.waits.all fun w => decide (w.2 ≤ s.evt (c.bay.getD 0) w.1)

/-! ### Completion records -/

/-- The 32 bytes of a record (Table 06-7). -/
def recordWords (st : Nat) (phase final err : Bool) (c : Cmd) (kt d0 d1 : Nat) : List Nat :=
  [st + (if phase then 2 ^ 16 else 0) + (if final then 2 ^ 17 else 0) + (if err then 2 ^ 18 else 0),
   c.tag, c.seq, c.q + c.op * 2 ^ 16, kt % 2 ^ 32, kt / 2 ^ 32, d0, d1]

/-- Writes a ring record in host memory or in the bay range (R173). -/
def State.ringWrite (s : State) (q a : Nat) (bs : List Byte) : State :=
  if s.fld (Reg.Q_CFG q) 19 1 = 1 then s.devWrite (s.qBay q) a bs
  else s.hostWrite (s.fld (Reg.Q_CFG q) 20 1) a bs

/-- One completion record at Q_CPL_TAIL (R189). -/
def State.putRecord (s : State) (c : Cmd) (st d0 d1 : Nat) (final : Bool) : State :=
  let t := s.reg (Reg.Q_CPL_TAIL c.q)
  let n := s.qCpl c.q
  let ws := recordWords st (decide (t / n % 2 = 0)) final c.errRec c s.now d0 d1
  (s.ringWrite c.q (s.reg (Reg.Q_CPL_BASE c.q) + 32 * (t % n)) (wordsBytes ws)).setReg (Reg.Q_CPL_TAIL c.q)
    ((t + 1) % 2 ^ 32)

/-- The queue's vector, when IRQ_EN is 1 (R192). -/
def State.qVector (s : State) (q : Nat) : State :=
  if s.fld (Reg.Q_IRQ q) 11 1 = 1 then s.sendVec (s.fld (Reg.Q_IRQ q) 0 11) else s

def State.irqAll (s : State) (q : Nat) : Bool := decide (s.fld (Reg.Q_IRQ q) 12 1 = 1)

/-- Completion-ring records written or reserved and not yet consumed (R176 condition 3). Every live command
holds one reservation. -/
def State.cplInUse (s : State) (q : Nat) : Nat :=
  sub32 (s.reg (Reg.Q_CPL_TAIL q)) (s.reg (Reg.Q_CPL_HEAD q)) + ((s.qCmds q).filter (·.live)).length

/-- An informational record, dropped and counted when no record is free beyond those reserved (R189). -/
def State.infoRecord (s : State) (c : Cmd) (st d0 d1 : Nat) : State :=
  if s.qCpl c.q ≤ s.cplInUse c.q then s.count (Reg.Q_INFO_DROP_CNT c.q) 1
  else
    let s1 := s.putRecord c st d0 d1 false
    if s1.irqAll c.q then s1.qVector c.q else s1

/-! ### Halting and the end of a command -/

/-- Classes whose final statuses halt a queue (R191). CANCELLED is the exception: it is what the operations
that themselves stop or continue the queue write (R193, R208, Table 06-10). (log entry 22: DEDUCED) -/
def halts (st : Nat) : Bool :=
  (decide (St.cls st = 3) || decide (St.cls st = 6) || decide (St.cls st = 7) || decide (St.cls st = 8)) &&
    decide (st ≠ St.CANCELLED)

/-- The queue enters HALTED; HALT_STATUS, Q_HALT_SEQ and Q_HALT_SLOT name the cause (R191). A halt already
recorded stands. -/
def State.haltQueue (s : State) (q st seq slot : Nat) : State :=
  let x := s.qState q
  if x = qRunning ∨ x = qPreempting ∨ x = qBreak ∨ x = qPreempted then
    ((((s.setQState q qHalted).setFld (Reg.Q_STATUS q) 16 16 st).setReg (Reg.Q_HALT_SEQ q) seq).setReg
      (Reg.Q_HALT_SLOT q) slot).qVector q
  else s

/-- A pending DISABLE takes effect once nothing is in flight (Table 06-10). -/
def State.settleDisable (s : State) (q : Nat) : State :=
  if (s.qx q).disabling && decide (s.qInflight q = 0) then
    (s.setQState q qDisabled).setQx q .zero
  else s

/-- Whether the command signals its event at the end (Table 06-2, R184). -/
def Cmd.signals (c : Cmd) (st : Nat) : Bool :=
  decide (c.sigOp ≠ 0) && (decide (St.cls st = 0) || c.sigOnErr)

/-- The final completion (R189 to R192, R198): journal DONE, the record and its message, the halt, and the
signal left to apply. `sig` is false for a packet that failed its checks (R179). -/
def State.complete (s : State) (c : Cmd) (st d0 d1 : Nat) (sig : Bool) : State :=
  let s1 := s.jnlState c.jpos 3 st
  let s2 :=
    if c.errOnly && decide (St.cls st = 0) then s1
    else
      let r := s1.putRecord c st d0 d1 true
      if c.irq || decide (2 ≤ St.cls st) || r.irqAll c.q then r.qVector c.q else r
  let s3 := s2.setInflight c.q (s2.qInflight c.q - 1)
  let s4 := if halts st then s3.haltQueue c.q st c.seq c.pos else s3
  let due := sig && c.signals st && !c.sigRemote && c.bay.isSome
  (if due then s4.setCmd { c with phase := .signalling st } else s4.dropCmd c).settleDisable c.q

/-- A started command's work has ended; its completion follows (R189). During an apex restart the completion is held
(R490). -/
def State.finish (s : State) (c : Cmd) (st d0 d1 : Nat) : State :=
  let s1 := s.setCmd { c with ran := true, phase := .finished st d0 d1 }
  if s.mgmt.restarting then { s1 with mgmt := { s1.mgmt with heldCmds := s1.mgmt.heldCmds ++ [(c.q, c.seq)] } } else s1

/-- The command as the state now holds it. -/
def State.refreshCmd (s : State) (c : Cmd) : Cmd := (s.findCmd c.q c.seq).getD c

/-- Units of classes that the command holds until it ends go back: its arbiter slot (R216). -/
def State.releaseSlot (s : State) (c : Cmd) : State :=
  match c.bay with
  | none => s
  | some b => if c.adm = .granted then s.setUsed b 3 (s.used b 3 - 1) else s

/-- The opcode row of a started command that has not begun its work. -/
def State.perform (s : State) (op : Nat) (r : CmdRef) (f : Cmd → State → State) : State :=
  match s.findCmd r.q r.seq.toNat with
  | none => s
  | some c => if s.apexUp && decide (c.phase = .started) && !c.ran && decide (c.op = op) then f c s else s

/-- A command that has begun and not yet ended. -/
def State.running (s : State) (op : Nat) (r : CmdRef) (f : Cmd → State → State) : State :=
  match s.findCmd r.q r.seq.toNat with
  | none => s
  | some c => if decide (c.phase = .started) && c.ran && decide (c.op = op) then f c s else s

/-! ### Starting (R186) -/

/-- The oldest unstarted command of a queue. -/
def State.oldest (s : State) (q : Nat) : Option Cmd := (s.qCmds q).find? (·.unstarted)

/-- A FENCE command starts once every earlier command of its queue has completed. -/
def State.fenceHolds (s : State) (c : Cmd) : Bool :=
  !c.fence || !((s.qCmds c.q).any fun x => x.started)

/-- RUNNING queues start commands; at BREAK the commands before the stopped one do (R197). -/
def State.mayStart (s : State) (c : Cmd) : Bool :=
  (decide (s.qState c.q = qRunning) || decide (s.qState c.q = qBreak)) && !(s.qx c.q).disabling &&
    decide (c.phase = .accepted) && decide ((s.oldest c.q).map (·.seq) = some c.seq) &&
    s.waitsHold c && s.fenceHolds c &&
    (match c.bay with | none => true | some b => decide (s.bayState b = bayRunning))

def State.startCmd (s : State) (c : Cmd) : State :=
  (s.setCmd { c with phase := .started, startAt := s.now }).jnlState c.jpos 2 0

end Sys2Proof.Machine
end

