-- ==== Sys2Proof/Machine/AdmOps.lean ====
section
/-! DEFINITION. Admission to the four resource classes of Table 07-6 (R216 to R219). -/

namespace Sys2Proof.Machine

/-- The engines a TILE_LAUNCH names: die and logical engines (Table 06-5). -/
def launchDie (c : Cmd) : Nat := c.p 19 0 5
def launchMask (c : Cmd) : Nat := c.p 20 0 32 + c.p 21 0 16 * 2 ^ 32
def launchEngines (c : Cmd) : List Nat := maskList 48 (launchMask c)

/-- Issue-queue entries of an engine (R66): 64. -/
def State.iqRoom (s : State) (d p : Nat) : Bool := decide ((s.eng d p).iq.length < 64)

/-- Copies that a write-back would make reclaimable. -/
def State.dirtyCopies (s : State) (b : Nat) : List (Nat × T2Copy) :=
  (s.baySlabs b).filterMap fun e =>
    match e.2.copy with
    | some c => if c.evictable && c.dirty then some (e.1, c) else none
    | none => none

/-- Units of class `k` free to bay b now, borrowing and revocation included (R217, R219, R244). -/
def State.available (s : State) (b k : Nat) (c : Cmd) : Nat :=
  if k = 1 then s.reclaimable b + s.lentBy b 1
  else if k = 2 then
    ((launchEngines c).filter fun l => s.iqRoom (launchDie c) (s.physOf (launchDie c) l)).length
  else if k = 3 then s.freeUnits b 3 + s.lentBy b 3 + (if (s.lenderFor b 3).isSome then 1 else 0)
  else s.freeUnits b k

/-- The order of a wait list: priority, then age, then queue number (R216). -/
def AdmReq.before (a b : AdmReq) : Bool :=
  decide (b.prio < a.prio) ||
    (decide (a.prio = b.prio) && (decide (a.accept < b.accept) ||
      (decide (a.accept = b.accept) && decide (a.q < b.q))))

def AdmReq.has (a : AdmReq) (k : Nat) : Bool := a.needs.any fun n => decide (n.1 = k)

/-- Requests of the same bay and class ahead of `r`. -/
def State.ahead (s : State) (r : AdmReq) (k : Nat) : Nat :=
  (s.cq.adms.filter fun a => decide (a.bay = r.bay) && a.has k && a.before r).length

/-- ADMIT_WAITING follows the lists. -/
def State.countWaiting (s : State) (b : Nat) : State :=
  s.forAll (List.range 4) fun s k =>
    s.setFld (Reg.ADMIT_WAITING b) (8 * k) 8
      (min 0xFF (s.cq.adms.filter fun a => decide (a.bay = b) && a.has k).length)

/-- A lent unit is revoked for its lender (R219): a borrowed slab's copy is dropped, an arbiter slot returns. -/
def State.revoke (s : State) (l : Lend) : State :=
  let s1 := s.count (Reg.BORROW_REVOKE_CNT l.lender) 1
  if l.cls = 1 then
    match (s1.baySlabs l.borrower).find? fun e =>
        match e.2.copy with | some c => decide (c.loc = l.slab) | none => false with
    | some e => s1.dropCopy l.borrower e.1
    | none => s1.unlend l.slab
  else
    (s1.onMem fun m => { m with lends := m.lends.erase l }).setUsed l.borrower 3 (s1.used l.borrower 3 - 1)

/-- Revokes up to `n` units of class k lent by bay b. -/
def State.revokeN (s : State) (b k n : Nat) : State :=
  s.forAll ((s.mem.lends.filter fun l => decide (l.lender = b) && decide (l.cls = k)).take n) State.revoke

/-- Drops clean copies, oldest first, until `n` units of the share are free (R244, R245). -/
def State.evictClean (fuel n : Nat) (s : State) (b : Nat) : State :=
  match fuel with
  | 0 => s
  | f + 1 =>
    if n ≤ s.freeUnits b 1 then s
    else
      let old := (s.cleanCopies b).foldl (fun m e =>
        match m with
        | none => some e
        | some x => if olderCopy (s.ageOf b e.2) e.2 (s.ageOf b x.2) x.2 then some e else some x) (none : Option (Nat × T2Copy))
      match old with
      | none => s
      | some e => ((s.dropCopy b e.1).count (Reg.EVICT_CNT b) 1).evictClean f n b

/-- The units are taken for the request (R217: all served together). -/
def State.takeUnits (s : State) (b k n : Nat) : State :=
  if k = 1 then
    let s1 := if s.reclaimable b < n then s.revokeN b 1 (n - s.reclaimable b) else s
    let s2 := s1.evictClean (n + 1) n b
    s2.setUsed b 1 (s2.used b 1 + n)
  else if k = 3 then
    let s1 := if s.freeUnits b 3 < n then s.revokeN b 3 (n - s.freeUnits b 3) else s
    if n ≤ s1.freeUnits b 3 then s1.setUsed b 3 (s1.used b 3 + n)
    else
      match s1.lenderFor b 3 with
      | none => s1.setUsed b 3 (s1.used b 3 + n)
      | some l =>
        (s1.onMem fun m => { m with lends := m.lends ++ [⟨3, l, b, 0⟩] }).setUsed b 3 (s1.used b 3 + n)
  else s.setUsed b k (s.used b k + n)

def State.canServe (s : State) (r : AdmReq) (c : Cmd) : Bool :=
  r.needs.all fun n => decide (s.ahead r n.1 = 0) && decide (n.2 ≤ s.available r.bay n.1 c)

def State.serve (s : State) (r : AdmReq) : State := s.forAll r.needs fun s n => s.takeUnits r.bay n.1 n.2

/-- The refusal of a request: class or resource and units in DETAIL0, units available in DETAIL1 (Table 07-8). -/
def refusalDetail (res units : Nat) : Nat := res % 16 + units % 2 ^ 24 * 2 ^ 8

/-- Where a request stands. -/
inductive Admitted where
  | served (c : Cmd) (s : State)
  | waits (s : State)
  | refused (s : State)

/-- The reason of a delay (Table 07-7). -/
def State.delayReason (s : State) (r : AdmReq) (c : Cmd) (k n : Nat) : Nat :=
  if 0 < s.ahead r k then 1
  else if k = 1 ∧ s.available r.bay 1 c < n ∧ n ≤ s.available r.bay 1 c + (s.dirtyCopies r.bay).length then 3
  else 0

/-- Dirty copies are written back so that the request can be served later (R244). -/
def State.reclaim (s : State) (b n : Nat) : State :=
  s.forAll ((s.dirtyCopies b).take n) fun s e =>
    match s.objAt b e.1 with
    | none => s
    | some o => s.writeBack o e.1

/-- A command asks for its units (R216 to R218): served, delayed with one record, or refused. A request already
granted goes on; one that waits keeps waiting. -/
def State.admitUnits (s : State) (c : Cmd) (b : Nat) (needs0 : List (Nat × Nat)) : Admitted :=
  let needs := needs0.filter fun n => decide (n.2 ≠ 0)
  let r : AdmReq := ⟨b, c.q, c.seq, needs, s.qPrio c.q, c.accept⟩
  match c.adm with
  | .granted => .served c s
  | .waiting => .waits s
  | .expired => .waits s
  | .none =>
    match needs.find? fun n => decide (s.share b n.1 = 0) with
    | some n =>
      .refused ((s.count (Reg.ADMIT_REFUSE_CNT b n.1) 1).finish c St.POLICY (refusalDetail n.1 n.2) 0)
    | none =>
      match needs.find? fun n => decide (s.share b n.1 < n.2) with
      | some n =>
        .refused ((s.count (Reg.ADMIT_REFUSE_CNT b n.1) 1).finish c St.QUOTA (refusalDetail n.1 n.2)
          (s.available b n.1 c))
      | none =>
        if s.canServe r c then
          let c' := { c with adm := .granted }
          .served c' ((s.serve r).setCmd c')
        else
          match needs.find? fun n => decide (0 < s.ahead r n.1) || decide (s.available b n.1 c < n.2) with
          | none => .waits s
          | some n =>
            if s.reg (Reg.ADMIT_TIMEOUT b) = 0 then
              .refused ((s.count (Reg.ADMIT_REFUSE_CNT b n.1) 1).finish c St.CAPACITY (refusalDetail n.1 n.2)
                (s.available b n.1 c))
            else
              let why := s.delayReason r c n.1 n.2
              let s1 := (s.count (Reg.ADMIT_DELAY_CNT b n.1) 1).infoRecord c St.DELAYED
                (min 0xFFFF (s.ahead r n.1) + n.1 * 2 ^ 16) (why + n.2 % 2 ^ 24 * 2 ^ 8)
              let s2 := if why = 3 then s1.reclaim b (n.2 - s1.available b 1 c) else s1
              let s3 := s2.onCq fun d => { d with adms := d.adms ++ [r] }
              .waits ((s3.setCmd { c with adm := .waiting }).countWaiting b)

/-- The request of a command leaves its lists. -/
def State.dropAdm (s : State) (q seq : Nat) : State :=
  s.onCq fun d => { d with adms := d.adms.filter fun a => !(decide (a.q = q) && decide (a.seq = seq)) }

def State.findAdm (s : State) (q seq : Nat) : Option AdmReq :=
  s.cq.adms.find? fun a => decide (a.q = q) && decide (a.seq = seq)

/-- An arbiter slot held for a command goes back when it ends (R216, class 3), to its lender if it was lent. -/
def State.freeArbiter (s : State) (b : Nat) : State :=
  let s1 := s.setUsed b 3 (s.used b 3 - 1)
  match s1.mem.lends.find? fun l => decide (l.cls = 3) && decide (l.borrower = b) with
  | none => s1
  | some l => s1.onMem fun m => { m with lends := m.lends.erase l }

end Sys2Proof.Machine
end

