-- ==== Sys2Proof/Machine/Aes.lean ====
section
/-! DEFINITION. The AES-128 block cipher of FIPS 197, as the random-number lane uses it (R323), the
lane's block function and value extraction (R323, R326). -/

namespace Sys2Proof.Machine

/-- The FIPS 197 S-box, entry i in byte i. -/
def sboxTable : Nat :=
  0x16BB54B00F2D99416842E6BF0D89A18CDF2855CEE9871E9B948ED9691198F8E19E1DC186B95735610EF6034866B53E708A8BBD4B1F74DDE8C6B4A61C2E2578BA08AE7A65EAF4566CA94ED58D6D37C8E779E4959162ACD3C25C2406490A3A32E0DB0B5EDE14B8EE4688902A22DC4F816073195D643D7EA7C41744975FEC130CCDD2F3FF1021DAB6BCF5389D928F40A351A89F3C507F02F94585334D43FBAAEFD0CF584C4A39BECB6A5BB1FC20ED00D153842FE329B3D63B52A05A6E1B1A2C830975B227EBE28012079A059618C323C7041531D871F1E5A534CCF73F362693FDB7C072A49CAFA2D4ADF04759FA7DC982CA76ABD7FE2B670130C56F6BF27B777C63

def sbox (i : Nat) : Nat := (sboxTable >>> (8 * (i % 256))) % 256

/-- Multiplication by x in the AES field. -/
def xtime (a : Nat) : Nat := if 128 ≤ a then (2 * a) ^^^ 0x11B else 2 * a

/-- A 128-bit value as its 16 bytes, byte 0 most significant. -/
def bytesBE (n x : Nat) : List Nat := (List.range n).map fun i => x / 2 ^ (8 * (n - 1 - i)) % 256

def ofBytesBE (l : List Nat) : Nat := l.foldl (fun a b => a * 256 + b) 0

def xorBytes (a b : List Nat) : List Nat := List.zipWith (fun x y => x ^^^ y) a b

/-- The next round key from the last one (FIPS 197 key expansion for AES-128). -/
def aesNextKey (rcon : Nat) (k : List Nat) : List Nat :=
  let t := [sbox (k.getD 13 0) ^^^ rcon, sbox (k.getD 14 0), sbox (k.getD 15 0), sbox (k.getD 12 0)]
  let w0 := xorBytes (k.take 4) t
  let w1 := xorBytes ((k.drop 4).take 4) w0
  let w2 := xorBytes ((k.drop 8).take 4) w1
  let w3 := xorBytes ((k.drop 12).take 4) w2
  w0 ++ w1 ++ w2 ++ w3

/-- ShiftRows after SubBytes: byte (row r, column c) comes from column c + r. -/
def aesSubShift (s : List Nat) : List Nat :=
  (List.range 16).map fun i => sbox (s.getD ((i + 4 * (i % 4)) % 16) 0)

def aesMixCol (a b c d : Nat) : Nat := xtime a ^^^ (xtime b ^^^ b) ^^^ c ^^^ d

def aesMix (s : List Nat) : List Nat :=
  (List.range 16).map fun i =>
    let c := i / 4 * 4
    let r := i % 4
    aesMixCol (s.getD (c + r) 0) (s.getD (c + (r + 1) % 4) 0) (s.getD (c + (r + 2) % 4) 0) (s.getD (c + (r + 3) % 4) 0)

/-- Rounds 1 to 10; the last has no MixColumns. -/
def aesRounds (rcons : List Nat) (key st : List Nat) : List Nat :=
  match rcons with
  | [] => st
  | rc :: rest =>
    let key' := aesNextKey rc key
    let t := aesSubShift st
    let u := if rest.isEmpty then t else aesMix t
    aesRounds rest key' (xorBytes u key')

def aes128 (key block : List Nat) : List Nat :=
  aesRounds [0x01, 0x02, 0x04, 0x08, 0x10, 0x20, 0x40, 0x80, 0x1B, 0x36] key (xorBytes block key)

/-- rng_block, R323. -/
def rngBlock (seed stream tag index draw : Nat) : Nat :=
  let key := seed * 2 ^ 64 + stream * 2 ^ 16 + tag
  let ctr := index % 2 ^ 96 * 2 ^ 32 + draw
  ofBytesBE (aes128 (bytesBE 16 key) (bytesBE 16 ctr))

/-- rand_value, R326: b bits for the element of logical index i and draw d. -/
def randValue (seed stream tag i d b : Nat) : Nat :=
  let u := if b ≤ 16 then 16 else 32
  let n := 128 / u
  let blk := rngBlock seed stream tag (i - i % n) d
  let k := i % n
  blk / 2 ^ (128 - u * (k + 1)) % 2 ^ u / 2 ^ (u - b)

/-- The three vectors of Table 11-2, which the lane's self-test computes (R324, R334). -/
def rngKat : Bool :=
  decide (rngBlock 0x0001020304050607 0x08090A0B0C0D 0x0E0F 0x00112233445566778899AABB 0xCCDDEEFF
      = 0x69C4E0D86A7B0430D8CDB78070B4C55A) &&
  decide (rngBlock 0x2B7E151628AED2A6 0xABF7158809CF 0x4F3C 0x3243F6A8885A308D313198A2 0xE0370734
      = 0x3925841D02DC09FBDC118597196A0B32) &&
  decide (rngBlock 0 0 0 0 0 = 0x66E94BD4EF8A2C3B884CFA59CA342B2E)

end Sys2Proof.Machine
end

