-- ==== Sys2Proof/Machine/Formats.lean ====
section
/-! DEFINITION. Number formats, rounding, conversions and exact accumulation (chapter 03, R81 to R114).

Every arithmetic result is formed exactly as a dyadic number and rounded once, as the rules state it. -/

namespace Sys2Proof.Machine

/-- An exact number: NaN, an infinity, or (-1)^neg * m * 2^e. A zero keeps its sign. -/
inductive Num where
  | nan
  | inf (neg : Bool)
  | fin (neg : Bool) (m : Nat) (e : Int)
  deriving DecidableEq, Repr

/-- How a float format spends its all-ones exponent (Table 03-2). -/
inductive FltKind where
  | ieee      -- infinity and NaN
  | e4m3      -- one NaN encoding per sign, no infinity
  | finite    -- neither
  deriving DecidableEq, Repr

/-- Field widths and bias of a float format, Table 03-2. -/
structure Flt where
  eb : Nat
  mb : Nat
  bias : Int
  kind : FltKind
  deriving DecidableEq, Repr

/-- A format of Table 03-1 as its code names it. -/
inductive Fmt where
  | flt (f : Flt)
  | int (w : Nat) (signed : Bool)
  | e8m0
  | exa
  deriving DecidableEq, Repr

def fp64 : Flt := ⟨11, 52, 1023, .ieee⟩
def fp32 : Flt := ⟨8, 23, 127, .ieee⟩
def bf16 : Flt := ⟨8, 7, 127, .ieee⟩
def fp16 : Flt := ⟨5, 10, 15, .ieee⟩
def e4m3 : Flt := ⟨4, 3, 7, .e4m3⟩
def e5m2 : Flt := ⟨5, 2, 15, .ieee⟩
def e3m2 : Flt := ⟨3, 2, 3, .finite⟩
def e2m3 : Flt := ⟨2, 3, 1, .finite⟩
def e2m1 : Flt := ⟨2, 1, 1, .finite⟩

/-- Table 03-1: format of a 4-bit code. -/
def fmtOf (code : Nat) : Fmt :=
  match code % 16 with
  | 0x0 => .flt fp32
  | 0x1 => .flt bf16
  | 0x2 => .flt fp16
  | 0x3 => .flt e4m3
  | 0x4 => .flt e5m2
  | 0x5 => .flt e3m2
  | 0x6 => .flt e2m3
  | 0x7 => .flt e2m1
  | 0x8 => .int 8 true
  | 0x9 => .int 8 false
  | 0xA => .int 4 true
  | 0xB => .int 16 true
  | 0xC => .int 32 true
  | 0xD => .e8m0
  | 0xE => .exa
  | _ => .flt fp64

/-- Width in bits of a format (Table 03-1). -/
def Fmt.width (f : Fmt) : Nat :=
  match f with
  | .flt g => 1 + g.eb + g.mb
  | .int w _ => w
  | .e8m0 => 8
  | .exa => 128

def fmtWidth (code : Nat) : Nat := (fmtOf code).width

/-- The number a float encoding stands for (R82, R83, R84). -/
def Flt.decode (f : Flt) (x : Nat) : Num :=
  let neg := decide (x / 2 ^ (f.eb + f.mb) % 2 = 1)
  let ex := bitsAt x f.mb f.eb
  let ma := bitsAt x 0 f.mb
  let ones := 2 ^ f.eb - 1
  if f.kind = .ieee ∧ ex = ones then (if ma = 0 then .inf neg else .nan)
  else if f.kind = .e4m3 ∧ ex = ones ∧ ma = 2 ^ f.mb - 1 then .nan
  else if ex = 0 then .fin neg ma (1 - f.bias - f.mb)
  else .fin neg (2 ^ f.mb + ma) (Int.ofNat ex - f.bias - f.mb)

/-- The largest finite encoding without its sign (Table 03-2). -/
def Flt.maxEnc (f : Flt) : Nat :=
  match f.kind with
  | .ieee => (2 ^ f.eb - 1) * 2 ^ f.mb - 1
  | .e4m3 => 2 ^ (f.eb + f.mb) - 2
  | .finite => 2 ^ (f.eb + f.mb) - 1

/-- The encoding with the sign bit of `neg` set. -/
def Flt.signed (f : Flt) (neg : Bool) (x : Nat) : Nat :=
  if neg then 2 ^ (f.eb + f.mb) + x else x

/-- Canonical NaN (R83); +0 where the format has none (Table 03-9). -/
def Flt.nanEnc (f : Flt) : Nat :=
  match f.kind with
  | .ieee => (2 ^ f.eb - 1) * 2 ^ f.mb + 2 ^ (f.mb - 1)
  | .e4m3 => 2 ^ (f.eb + f.mb) - 1
  | .finite => 0

def Flt.infEnc (f : Flt) : Nat := (2 ^ f.eb - 1) * 2 ^ f.mb

/-- Rounding modes, Table 03-7; `sr b r` carries the width b and the random value r of R95. -/
inductive Rnd where
  | rne | rtz | rup | rdn
  | sr (b : Nat) (r : Nat)
  deriving DecidableEq, Repr

/-- The deterministic mode of a 3-bit code, and SR with its draw. -/
def rndOf (code b r : Nat) : Rnd :=
  match code with
  | 0 => .rne
  | 1 => .rtz
  | 2 => .rup
  | 3 => .rdn
  | _ => .sr b r

/-- Whether a magnitude truncated to `q`, with remainder `rem` of `2^sh`, is rounded up (R94, R95). -/
def Rnd.up (m : Rnd) (neg : Bool) (q rem sh : Nat) : Bool :=
  match m with
  | .rne => decide (2 ^ sh < 2 * rem) || (decide (2 * rem = 2 ^ sh) && decide (q % 2 = 1))
  | .rtz => false
  | .rup => decide (rem ≠ 0) && !neg
  | .rdn => decide (rem ≠ 0) && neg
  | .sr b r => decide (2 ^ b ≤ rem * 2 ^ b / 2 ^ sh + r)

/-- The magnitude `m * 2^e` rounded to a multiple of `2^q`: the multiple. -/
def roundAt (md : Rnd) (neg : Bool) (m : Nat) (e q : Int) : Nat :=
  if q ≤ e then m * 2 ^ (e - q).toNat
  else
    let sh := (q - e).toNat
    let k := m / 2 ^ sh
    if md.up neg k (m % 2 ^ sh) sh then k + 1 else k

/-- Overflow result of Table 03-9, without the sign. -/
def Flt.ovf (f : Flt) (md : Rnd) (neg sat : Bool) : Nat :=
  if sat then f.maxEnc
  else match f.kind with
    | .e4m3 => f.nanEnc
    | .finite => f.maxEnc
    | .ieee =>
      match md with
      | .rne => f.infEnc
      | .rtz => f.maxEnc
      | .rup => if neg then f.maxEnc else f.infEnc
      | .rdn => if neg then f.infEnc else f.maxEnc
      | .sr _ _ => f.infEnc

/-- Whether an overflow or infinity of `f` gives canonical NaN, which carries no sign (R83). -/
def Flt.ovfIsNan (f : Flt) (sat : Bool) : Bool := !sat && decide (f.kind = .e4m3)

/-- Rounding an exact number to a float format (R94 to R98). The grid goes on without limit above the
largest finite value; a value that rounds above it overflows. -/
def Flt.round (f : Flt) (md : Rnd) (sat : Bool) (x : Num) : Nat :=
  match x with
  | .nan => f.nanEnc
  | .inf neg =>
    if sat then f.signed neg f.maxEnc
    else match f.kind with
      | .ieee => f.signed neg f.infEnc
      | .e4m3 => f.nanEnc
      | .finite => f.signed neg f.maxEnc
  | .fin neg m e =>
    if m = 0 then f.signed neg 0
    else
      let top := Int.ofNat (Nat.log2 m) + e
      let q := max (top - f.mb) (1 - f.bias - f.mb)
      let k := roundAt md neg m e q
      let carry := decide (k = 2 ^ (f.mb + 1))
      let k' := if carry then 2 ^ f.mb else k
      let q' := if carry then q + 1 else q
      let enc :=
        if k' < 2 ^ f.mb then k'
        else (q' + f.bias + f.mb).toNat * 2 ^ f.mb + (k' - 2 ^ f.mb)
      if enc ≤ f.maxEnc then f.signed neg enc
      else if f.ovfIsNan sat then f.nanEnc
      else f.signed neg (f.ovf md neg sat)

/-- The number a two's-complement or unsigned integer encoding stands for (Table 03-3). -/
def intOf (w : Nat) (signed : Bool) (x : Nat) : Int :=
  let v := x % 2 ^ w
  if signed ∧ 2 ^ (w - 1) ≤ v then Int.ofNat v - 2 ^ w else Int.ofNat v

def Num.ofInt (i : Int) : Num := .fin (decide (i < 0)) i.natAbs 0

/-- Rounding to an integer format: saturated to its range; NaN gives 0 (Table 03-8, Table 03-9). -/
def roundInt (w : Nat) (signed : Bool) (md : Rnd) (x : Num) : Nat :=
  let hi : Int := if signed then 2 ^ (w - 1) - 1 else 2 ^ w - 1
  let lo : Int := if signed then -(2 ^ (w - 1)) else 0
  let clamp (i : Int) : Nat := ((max lo (min hi i)) % (2 ^ w)).toNat
  match x with
  | .nan => 0
  | .inf neg => clamp (if neg then lo else hi)
  | .fin neg m e =>
    let k := Int.ofNat (roundAt md neg m e 0)
    clamp (if neg then -k else k)

/-- Conversion to E8M0 from the exact value (R99). -/
def roundE8m0 (x : Num) : Nat :=
  match x with
  | .nan => 0xFF
  | .inf _ => 0xFF
  | .fin _ m e =>
    if m = 0 then 0
    else (max 0 (min 254 (Int.ofNat (Nat.log2 m) + e + 127))).toNat

/-- The exact number that an element of a format holds. An EXA128 value has no number here: its window
is given by the instruction (`exaNum`). -/
def Fmt.decode (f : Fmt) (x : Nat) : Num :=
  match f with
  | .flt g => g.decode x
  | .int w s => Num.ofInt (intOf w s x)
  | .e8m0 => if x % 256 = 255 then .nan else .fin false 1 (Int.ofNat (x % 256) - 127)
  | .exa => .nan

/-- Conversion of an exact number into a format (R97 to R99). No conversion into EXA128 exists. -/
def Fmt.encode (f : Fmt) (md : Rnd) (sat : Bool) (x : Num) : Nat :=
  match f with
  | .flt g => g.round md sat x
  | .int w s => roundInt w s md x
  | .e8m0 => roundE8m0 x
  | .exa => 0

/-- Exact product, with IEEE 754 signs, infinities and NaNs. -/
def Num.mul (a b : Num) : Num :=
  match a, b with
  | .nan, _ => .nan
  | _, .nan => .nan
  | .inf s, .inf t => .inf (s != t)
  | .inf s, .fin t m _ => if m = 0 then .nan else .inf (s != t)
  | .fin s m _, .inf t => if m = 0 then .nan else .inf (s != t)
  | .fin s m e, .fin t n d => .fin (s != t) (m * n) (e + d)

/-- Signed mantissa over the exponent `q`, for `q ≤ e`. -/
def Num.scaled (neg : Bool) (m : Nat) (e q : Int) : Int :=
  let k := Int.ofNat (m * 2 ^ (e - q).toNat)
  if neg then -k else k

/-- Exact sum. An exact zero of opposite signs is +0, or -0 under RDN, as IEEE 754 has it. -/
def Num.add (md : Rnd) (a b : Num) : Num :=
  match a, b with
  | .nan, _ => .nan
  | _, .nan => .nan
  | .inf s, .inf t => if s = t then .inf s else .nan
  | .inf s, .fin _ _ _ => .inf s
  | .fin _ _ _, .inf t => .inf t
  | .fin s m e, .fin t n d =>
    let q := min e d
    let v := Num.scaled s m e q + Num.scaled t n d q
    if v = 0 then
      (if s = t ∧ m = 0 ∧ n = 0 then .fin s 0 q else .fin (decide (md = .rdn)) 0 q)
    else .fin (decide (v < 0)) v.natAbs q

def Num.neg (a : Num) : Num :=
  match a with
  | .nan => .nan
  | .inf s => .inf (!s)
  | .fin s m e => .fin (!s) m e

/-- a < b on the extended reals, for operands that are not NaN; the two zeros are equal. -/
def Num.lt (a b : Num) : Bool :=
  match a, b with
  | .nan, _ => false
  | _, .nan => false
  | .inf s, .inf t => s && !t
  | .inf s, .fin _ _ _ => s
  | .fin _ _ _, .inf t => !t
  | .fin s m e, .fin t n d =>
    let q := min e d
    decide (Num.scaled s m e q < Num.scaled t n d q)

def Num.isNan (a : Num) : Bool := decide (a = .nan)

def Num.eqv (a b : Num) : Bool := !a.isNan && !b.isNan && !a.lt b && !b.lt a

/-- Order of R113 for min and max: -0 lies below +0. -/
def Num.below (a b : Num) : Bool :=
  if a.eqv b then
    match a, b with
    | .fin s _ _, .fin t _ _ => s && !t
    | _, _ => false
  else a.lt b

/-- FP32 and FP64 arithmetic of the vector unit (R113): exact, rounded once. -/
def Flt.addOp (f : Flt) (md : Rnd) (x y : Nat) : Nat := f.round md false ((f.decode x).add md (f.decode y))
def Flt.subOp (f : Flt) (md : Rnd) (x y : Nat) : Nat := f.round md false ((f.decode x).add md (f.decode y).neg)
def Flt.mulOp (f : Flt) (md : Rnd) (x y : Nat) : Nat := f.round md false ((f.decode x).mul (f.decode y))
def Flt.fmaOp (f : Flt) (md : Rnd) (z x y : Nat) : Nat :=
  f.round md false ((f.decode z).add md ((f.decode x).mul (f.decode y)))

/-- FMIN and FMAX (R113): the other operand where exactly one is NaN. -/
def Flt.minOp (f : Flt) (x y : Nat) : Nat :=
  let a := f.decode x
  let b := f.decode y
  if a.isNan ∧ b.isNan then f.nanEnc
  else if a.isNan then y else if b.isNan then x
  else if b.below a then y else x

def Flt.maxOp (f : Flt) (x y : Nat) : Nat :=
  let a := f.decode x
  let b := f.decode y
  if a.isNan ∧ b.isNan then f.nanEnc
  else if a.isNan then y else if b.isNan then x
  else if a.below b then y else x

/-- FCMP conditions of VM.CMP (Table 05-5): 0 EQ, 1 LT, 2 LE, 3 UNORD. -/
def Flt.cmpOp (f : Flt) (cmp x y : Nat) : Nat :=
  let a := f.decode x
  let b := f.decode y
  let r :=
    match cmp % 4 with
    | 0 => a.eqv b
    | 1 => a.lt b
    | 2 => a.lt b || a.eqv b
    | _ => a.isNan || b.isNan
  if r then 1 else 0

/-! ### EXA128 (R103 to R110) -/

/-- EXA_NAN is `none` (Table 03-3). -/
abbrev Exa := Option Int

def exaMax : Int := 2 ^ 127 - 1

def exaClip (v : Int) : Exa := if v ≤ exaMax ∧ -exaMax ≤ v then some v else none

/-- EXA128 addition, R106. -/
def exaAdd (a b : Exa) : Exa :=
  match a, b with
  | some x, some y => exaClip (x + y)
  | _, _ => none

/-- The window term of a product, truncated toward zero, and its inexact flag (R103). -/
def exaTerm (p : Num) (b : Int) : Exa × Bool :=
  match p with
  | .fin neg m e =>
    if b ≤ e then (exaClip (Num.scaled neg m e b), false)
    else
      let sh := (b - e).toNat
      let k := Int.ofNat (m / 2 ^ sh)
      (exaClip (if neg then -k else k), decide (m % 2 ^ sh ≠ 0))
  | _ => (none, false)

/-- The 128-bit encoding (Table 03-3). -/
def exaBits (a : Exa) : Nat :=
  match a with
  | none => 2 ^ 127
  | some v => (v % 2 ^ 128).toNat

def exaOfBits (x : Nat) : Exa :=
  if x % 2 ^ 128 = 2 ^ 127 then none else some (intOf 128 true x)

/-- V × 2^B × G_a × G_b exactly; NaN for EXA_NAN and for a NaN or infinite G; a zero is +0 (R110). -/
def exaNum (v : Exa) (b : Int) (ga gb : Num) : Num :=
  match v, ga, gb with
  | some i, .fin s m e, .fin t n d =>
    let k := i.natAbs * m * n
    .fin (if k = 0 then false else (decide (i < 0) != (s != t))) k (b + e + d)
  | _, _, _ => .nan

/-- Conversion out of EXA128: as any conversion, with every zero result +0 (R110). -/
def exaEncode (code : Nat) (md : Rnd) (sat : Bool) (x : Num) : Nat :=
  let r := (fmtOf code).encode md sat x
  match fmtOf code with
  | .flt f => if r = f.signed true 0 then 0 else r
  | _ => r

/-! ### Operand pairs of the array (R89 to R92) -/

/-- Rate of an operand pair, 0 for an illegal one (Table 03-5). -/
def pairRate (s w : Nat) : Nat :=
  let cls (c : Nat) : Nat :=       -- 1 FP16, 2 8-bit float, 3 6- and 4-bit float, 4 8-bit integer, 5 INT4, 6 BF16
    match c with
    | 0x2 => 1 | 0x3 => 2 | 0x4 => 2 | 0x5 => 3 | 0x6 => 3 | 0x7 => 3
    | 0x8 => 4 | 0x9 => 4 | 0xA => 5 | 0x1 => 6 | _ => 0
  match cls s, cls w with
  | 1, 1 => 1 | 1, 2 => 1 | 1, 3 => 1
  | 2, 1 => 1 | 2, 2 => 2 | 2, 3 => 2
  | 3, 1 => 1 | 3, 2 => 2 | 3, 3 => 4
  | 4, 4 => 2 | 4, 5 => 2 | 5, 4 => 2 | 5, 5 => 4
  | 6, 6 => 1
  | _, _ => 0

/-- Pass depth K of a pair (R91). -/
def pairK (s w : Nat) : Nat := 32 * pairRate s w

/-- Scaling admissible for an element format (Table 03-4): 0 none, 1 MX-32, 2 K-16. -/
def scaleOk (fmt sc : Nat) : Bool :=
  match sc with
  | 0 => true
  | 1 => [0x3, 0x4, 0x5, 0x6, 0x7, 0x8].contains fmt
  | 2 => [0x3, 0x4, 0x5, 0x6, 0x7].contains fmt
  | _ => false

/-- Accumulation modes of a pair (Table 03-6): 0 FP32, 1 EXA128, 2 INT32. -/
def accModeOk (s w scS scW mode : Nat) : Bool :=
  let isInt (c : Nat) := decide (c = 0x8 ∨ c = 0x9 ∨ c = 0xA)
  if s = 0x1 then decide (mode = 0)
  else if isInt s then
    if (s = 0x8 ∧ scS = 1) ∨ (w = 0x8 ∧ scW = 1) then decide (mode = 1)
    else decide (mode = 1 ∨ mode = 2)
  else decide (mode = 0 ∨ mode = 1)

/-- A block scale as a number: MX-32 is E8M0, K-16 is E4M3 with bit 7 clear (R87, R88, R90). -/
def scaleNum (sc x : Nat) : Num :=
  match sc with
  | 0 => .fin false 1 0
  | 1 => Fmt.e8m0.decode x
  | _ => if 128 ≤ x % 256 then .nan else e4m3.decode x

/-- The element value under its scaling mode: INT8 under MX-32 carries 2^-6 (R87). -/
def elemNum (fmt sc x : Nat) : Num :=
  let v := (fmtOf fmt).decode x
  if fmt = 0x8 ∧ sc = 1 then v.mul (.fin false 1 (-6)) else v

/-- Elements sharing one scale: 32 under MX-32, 16 under K-16. -/
def blockLen (sc : Nat) : Nat := if sc = 1 then 32 else 16

/-- x_hi and x_lo of an FP32 operand (R111), as BF16 encodings. -/
def splitHi (x : Nat) : Nat :=
  match fp32.decode x with
  | .nan => bf16.nanEnc
  | _ => x / 2 ^ 16 % 2 ^ 16

def splitLo (x : Nat) : Nat :=
  match fp32.decode x with
  | .nan => 0
  | .inf _ => 0
  | .fin s m e => bf16.round .rne false ((Num.fin s m e).add .rne (bf16.decode (splitHi x)).neg)

end Sys2Proof.Machine
end

