-- ==== Sys2Proof/Machine/EngCore.lean ====
section
/-! DEFINITION. The engine's shared machinery: memories, the pass through the array, landing of timed
writes, the hazard sentinel, address streams, the decode check of an instruction word, and the
sequencer's move from one slot operation to the next (chapters 02, 03, 04 and 05). -/

namespace Sys2Proof.Machine

/-! ### Memories -/

/-- (log entry 8: DESIGN CHOICE) -/
def zeroByte : Nat → Byte := fun _ => 0
def zeroWord : Nat → W32 := fun _ => 0
def notPoisoned : Nat → Bool := fun _ => false

/-- `n` bytes of a byte memory from `a`. -/
def readBytes (m : SMap Byte) (a n : Nat) : List Byte :=
  (List.range n).map fun i => mget zeroByte m (a + i)

/-- Bytes stored from `a` on. -/
def writeBytes (m : SMap Byte) (a : Nat) (bs : List Byte) : SMap Byte :=
  match bs with
  | [] => m
  | b :: r => writeBytes (mset zeroByte m a b) (a + 1) r

def bytesNat (bs : List Byte) : Nat := ofBytesLE (bs.map BitVec.toNat)
def natBytes (n x : Nat) : List Byte := (bytesLE n x).map (BitVec.ofNat 8)

/-- The whole granules of `g` bytes inside `[a, a+n)`. -/
def wholeWords (g a n : Nat) : List Nat :=
  let lo := (a + g - 1) / g
  let hi := (a + n) / g
  (List.range (hi - lo)).map (· + lo)

/-- Every granule of `g` bytes that `[a, a+n)` touches. -/
def touched (g a n : Nat) : List Nat :=
  if n = 0 then [] else (List.range ((a + n - 1) / g - a / g + 1)).map (· + a / g)

/-- What is written whole is not lost any more (R437). -/
def Engine.keep (e : Engine) (ks : List Nat) : Engine :=
  if e.lost then { e with kept := ks.foldl (fun m k => mset notPoisoned m k true) e.kept } else e

def accKept (slot : Nat) : Nat := 2 ^ 20 + slot
def vregKept (r : Nat) : Nat := 2 ^ 21 + r

/-- A location that still holds the lost code (R437). -/
def Engine.isLost (e : Engine) (k : Nat) : Bool := e.lost && !mget notPoisoned e.kept k

/-- A store into the scratchpad: a word written whole loses its poison and its lost mark (R138, R437). -/
def Engine.store (e : Engine) (a : Nat) (bs : List Byte) : Engine :=
  let e1 := e.keep (wholeWords 4 a bs.length)
  { e1 with
    spad := writeBytes e.spad a bs
    poison := (wholeWords 4 a bs.length).foldl (fun m w => mset notPoisoned m w false) e.poison }

def Engine.poisonedAt (e : Engine) (a n : Nat) : Bool :=
  (touched 4 a n).any fun w => mget notPoisoned e.poison w

def Engine.vregWord (e : Engine) (r l : Nat) : W32 := mget zeroWord e.vreg (r * 64 + l)

def Engine.vregLanes (e : Engine) (r : Nat) : List W32 := (List.range 64).map (e.vregWord r)

def storeWords (m : SMap W32) (k : Nat) (ws : List W32) : SMap W32 :=
  match ws with
  | [] => m
  | w :: r => storeWords (mset zeroWord m k w) (k + 1) r

def Engine.accLanes (e : Engine) (slot : Nat) : List W32 :=
  (List.range 32).map fun c => mget zeroWord e.acc (slot * 32 + c)

def Engine.setOf (e : Engine) (k : Nat) : StatSet := if k = 0 then e.set0 else e.set1

def Engine.putSet (e : Engine) (k : Nat) (s : StatSet) : Engine :=
  if k = 0 then { e with set0 := s } else { e with set1 := s }

/-! ### Pass descriptors (Table 05-3) -/

def pdF (pd : W64) (lo w : Nat) : Nat := bitsAt pd.toNat lo w
def pdFmtS (pd : W64) := pdF pd 0 4
def pdFmtW (pd : W64) := pdF pd 4 4
def pdScaleS (pd : W64) := pdF pd 8 2
def pdScaleW (pd : W64) := pdF pd 10 2
def pdAcc (pd : W64) := pdF pd 12 2
def pdDrain (pd : W64) := pdF pd 14 2
def pdFmtOut (pd : W64) := pdF pd 16 4
def pdRmode (pd : W64) := pdF pd 20 3
def pdSrBits (pd : W64) := pdF pd 23 5
def pdSat (pd : W64) : Bool := decide (pdF pd 28 1 = 1)
def pdMesh (pd : W64) : Bool := decide (pdF pd 29 1 = 1)
def pdWbase (pd : W64) : Int := intOf 10 true (pdF pd 32 10)
def pdAccAs (pd : W64) := pdF pd 42 4
def pdOutAs (pd : W64) := pdF pd 46 4
def pdSscaleAs (pd : W64) := pdF pd 50 4
def pdGa (pd : W64) := pdF pd 54 4
def pdGb (pd : W64) := pdF pd 58 4
def pdK (pd : W64) := pairK (pdFmtS pd) (pdFmtW pd)

/-- The combinations of a pass descriptor that R93 admits (R89, R91, R92, R97, R104, R148). -/
def passOk (pd : W64) : Bool :=
  decide (pdF pd 30 2 = 0) && decide (pdF pd 62 2 = 0) &&
  decide (pairRate (pdFmtS pd) (pdFmtW pd) ≠ 0) &&
  scaleOk (pdFmtS pd) (pdScaleS pd) && scaleOk (pdFmtW pd) (pdScaleW pd) &&
  accModeOk (pdFmtS pd) (pdFmtW pd) (pdScaleS pd) (pdScaleW pd) (pdAcc pd) &&
  decide (pdRmode pd ≤ 4) &&
  (decide (pdRmode pd ≠ 4) || (decide (8 ≤ pdSrBits pd) && decide (pdSrBits pd ≤ 24))) &&
  (!pdMesh pd || decide (pdDrain pd = 3)) &&
  (decide (pdAcc pd ≠ 1) || decide (pdScaleS pd ≠ 0) || decide (pdScaleW pd ≠ 0) || decide (pdF pd 32 10 = 0)) &&
  (decide (pdDrain pd < 2) || !([0xD, 0xE, 0xF].contains (pdFmtOut pd)))

/-- The window base of a pass (R104, R105). -/
def pdBase (pd : W64) : Int := if pdScaleS pd = 0 ∧ pdScaleW pd = 0 then -48 else pdWbase pd

/-- Bytes of one feeder row and of one loader row (Table 02-2, R50, Table 08-5). -/
def rowBytes (fmt k : Nat) : Nat := k * fmtWidth fmt / 8

/-- Bytes of streaming block scale per row (R149). -/
def scaleBytes (sc k : Nat) : Nat := if sc = 0 then 0 else k / blockLen sc

/-- Scale lines of a stationary set (Table 02-3). -/
def scaleLines (sc k : Nat) : Nat := (32 * scaleBytes sc k + 63) / 64

/-- Bytes of a drained row and the alignment it takes (Table 04-1). -/
def outBytes (fmt : Nat) : Nat := 4 * fmtWidth fmt
def outAlign (fmt : Nat) : Nat :=
  let b := outBytes fmt
  if b ≤ 16 then 16 else if b ≤ 32 then 32 else if b ≤ 64 then 64 else 128

/-! ### The array (R100 to R106) -/

/-- The products of column c in increasing k, block scales included. -/
def columnProducts (p : PassRow) (c : Nat) : List Num :=
  let pd := p.pd
  let kk := pdK pd
  let m := kk / 32
  let fs := pdFmtS pd
  let fw := p.set.fmtW
  let ws := fmtWidth fs
  let ww := fmtWidth fw
  let x := bytesNat p.bytes
  let xs := bytesNat p.scales
  let nbw := scaleBytes (pdScaleW pd) kk
  (List.range kk).map fun k =>
    let a := elemNum fs (pdScaleS pd) ((x >>> (ws * k)) % 2 ^ ws)
    let row := bytesNat (readBytes p.set.rows (96 * (k / m)) (4 * m * ww))
    let b := elemNum fw (pdScaleW pd) ((row >>> (ww * (c * m + k % m))) % 2 ^ ww)
    let sa := if pdScaleS pd = 0 then scaleNum 0 0
      else scaleNum (pdScaleS pd) ((xs >>> (8 * (k / blockLen (pdScaleS pd)))) % 256)
    let sb := if pdScaleW pd = 0 then scaleNum 0 0
      else scaleNum (pdScaleW pd)
        (mget zeroByte p.set.scales (c * nbw + k / blockLen (pdScaleW pd))).toNat
    ((a.mul sa).mul b).mul sb

/-- FP32 accumulation of a pass in increasing k (R100), as an FP32 encoding. -/
def fp32Sum (ps : List Num) : Nat :=
  match ps with
  | [] => 0
  | p :: r => r.foldl (fun s q => fp32.round .rne false ((fp32.decode s).add .rne q)) (fp32.round .rne false p)

/-- INT32 accumulation (R102): the wrapped sum, and whether an addition left the range. -/
def int32Add (acc : Int × Bool) (t : Int) : Int × Bool :=
  let v := acc.1 + t
  (intOf 32 true (v % 2 ^ 32).toNat, acc.2 || decide (v < -(2 ^ 31)) || decide (2 ^ 31 ≤ v))

def Num.toInt (a : Num) : Int :=
  match a with
  | .fin s m e => if 0 ≤ e then Num.scaled s m e 0 else 0
  | _ => 0

def int32Sum (ps : List Num) : Int × Bool :=
  match ps with
  | [] => (0, false)
  | p :: r => r.foldl (fun a q => int32Add a q.toInt) (int32Add (0, false) p.toInt)

/-- EXA128 pass sum (R103, R106), with the inexact and overflow flags of R109. -/
def exaSum (b : Int) (ps : List Num) : Exa × Bool × Bool :=
  ps.foldl (fun a p =>
    let t := exaTerm p b
    let s := exaAdd a.1 t.1
    (s, a.2.1 || t.2, a.2.2 || s.isNone)) (some 0, false, false)

/-- The new accumulator column and the value drained: old row words `w` (one FP32 or INT32 word, or four
EXA128 words), ADD or SET. The result is the new words, the exact value for conversion, and the flags. -/
def drainColumn (p : PassRow) (c : Nat) (old : List W32) (add : Bool) : List W32 × Num × Bool × Bool :=
  let pd := p.pd
  let ps := columnProducts p c
  let ga := if pdScaleS pd = 2 then fp32.decode p.ga.toNat else .fin false 1 0
  let gb := if pdScaleW pd = 2 then fp32.decode p.gb.toNat else .fin false 1 0
  match pdAcc pd with
  | 0 =>
    let s := fp32Sum ps
    let v := if add then fp32.round .rne false ((fp32.decode (old.getD 0 0).toNat).add .rne (fp32.decode s)) else s
    ([BitVec.ofNat 32 v], ((fp32.decode v).mul ga).mul gb, false, false)
  | 1 =>
    let s := exaSum (pdBase pd) ps
    let o := exaOfBits (bytesNat (old.flatMap fun w => natBytes 4 w.toNat))
    let v := if add then exaAdd o s.1 else s.1
    let bits := exaBits v
    ((List.range 4).map fun k => BitVec.ofNat 32 (bits >>> (32 * k)), exaNum v (pdBase pd) ga gb,
      s.2.1, s.2.2 || v.isNone)
  | _ =>
    let s := int32Sum ps
    let v := if add then int32Add s (intOf 32 true (old.getD 0 0).toNat) else s
    ([BitVec.ofInt 32 v.1], Num.ofInt v.1, false, v.2)

/-- One converted element of a drained row (R59, R97, R110). -/
def drainElement (pd : W64) (draw : Nat) (x : Num) : Nat :=
  let md := rndOf (pdRmode pd) (pdSrBits pd) draw
  if pdAcc pd = 1 then exaEncode (pdFmtOut pd) md (pdSat pd) x
  else (fmtOf (pdFmtOut pd)).encode md (pdSat pd) x

/-- Elements packed densely into bytes (R86). -/
def packRow (w : Nat) (xs : List Nat) : List Byte :=
  natBytes (xs.length * w / 8) (xs.foldr (fun x a => a * 2 ^ w + x % 2 ^ w) 0)

def insertLanding (l : Landing) (ls : List Landing) : List Landing :=
  match ls with
  | [] => [l]
  | h :: r => if l.cyc < h.cyc then l :: h :: r else h :: insertLanding l r

def Engine.addLanding (e : Engine) (cyc : Nat) (w : Land) : Engine :=
  { e with flight := insertLanding ⟨cyc, w⟩ e.flight }

/-- Stage O4 of a pass row (R57, R58, R109, R159): the accumulator row, its flags, and the converted
row on its way out two cycles later. -/
def landPass (e : Engine) (cyc : Nat) (p : PassRow) : Engine :=
  let pd := p.pd
  let exa := decide (pdAcc pd = 1)
  let n := if exa then 4 else 1
  let d := pdDrain pd
  let add := decide (d = 1 ∨ d = 2)
  let slot := (p.acc.getD 0) * n
  let masked := decide (d < 3) && p.acc.isNone
  let old (c : Nat) : List W32 := (List.range n).map fun k => mget zeroWord e.acc ((slot + k) * 32 + c)
  let cols := (List.range 32).map fun c => drainColumn p c (old c) (add && !masked)
  let bit (f : List W32 × Num × Bool × Bool → Bool) : Nat :=
    (List.zip (List.range 32) cols).foldl (fun a q => if f q.2 then a + 2 ^ q.1 else a) 0
  let flags : W64 := BitVec.ofNat 64 (bit (fun q => q.2.2.1) + bit (fun q => q.2.2.2) * 2 ^ 32)
  let e1 :=
    if d = 3 ∨ masked then e
    else
      let acc := (List.range n).foldl (fun m k =>
        storeWords m ((slot + k) * 32) (cols.map fun q => q.1.getD k 0)) e.acc
      let e' := e.keep ((List.range n).map fun k => accKept (slot + k))
      { e' with acc := acc }
  let e2 := if masked then e1 else { e1 with outs := e1.outs ++ [.flags flags] }
  let e3 := if p.last then { e2 with outs := e2.outs ++ [.passes 1] } else e2
  if d < 2 ∨ masked then e3
  else
    match p.outAddr with
    | none => e3
    | some a =>
      let xs := (List.zip cols p.draws).map fun q => drainElement pd q.2 q.1.2.1
      let bs := packRow (fmtWidth (pdFmtOut pd)) xs
      if pdMesh pd then e3.addLanding (cyc + 2) (.mesh p.outKind a p.outDev bs)
      else e3.addLanding (cyc + 2) (.spad a bs)

/-- A timed write lands. -/
def applyLand (e : Engine) (l : Landing) : Engine :=
  match l.what with
  | .spad a bs => e.store a bs
  | .acc slot ws => { e.keep ((List.range (ws.length / 32)).map fun k => accKept (slot + k)) with
                      acc := storeWords e.acc (slot * 32) ws }
  | .vreg r ws => { e.keep [vregKept r] with vreg := storeWords e.vreg (r * 64) ws }
  | .setRow k row bs =>
    let s := e.setOf k
    e.putSet k { s with rows := writeBytes s.rows (96 * row) bs }
  | .setScale k line bs =>
    let s := e.setOf k
    e.putSet k { s with scales := writeBytes s.scales (64 * line) bs }
  | .pass p => landPass e l.cyc p
  | .mesh kind a dev bs => { e with outs := e.outs ++ [.mesh l.cyc kind a dev bs] }

/-- Every timed write that lands before cycle `t` lands, in order. -/
def commitFuel (fuel t : Nat) (e : Engine) : Engine :=
  match fuel with
  | 0 => e
  | n + 1 =>
    match e.flight with
    | [] => e
    | l :: r => if l.cyc < t then commitFuel n t (applyLand { e with flight := r } l) else e

def Engine.commitTo (e : Engine) (t : Nat) : Engine := commitFuel (2 * e.flight.length) t e

/-- The engine's memories as a read in cycle `t` finds them (R70). -/
def Engine.view (e : Engine) (t : Nat) : Engine := e.commitTo t

/-! ### The hazard sentinel (R69, R70, R73) -/

def noTag : Nat → Tag := fun _ => Tag.zero
def accKey (a : Nat) : Nat := 16384 + a
def vregKey (v : Nat) : Nat := 17408 + v
def setKey (k : Nat) : Nat := 17472 + k

/-- LOC_KIND and LOC_INDEX of a tagged location (Table 05-15). -/
def locOf (key : Nat) : Nat × Nat :=
  if key < 16384 then (0, key)
  else if key < 17408 then (1, key - 16384)
  else if key < 17472 then (2, key - 17408)
  else (3, key - 17472)

def Engine.tag (e : Engine) (k : Nat) : Tag := mget noTag e.tags k

def Engine.setTag (e : Engine) (k : Nat) (t : Tag) : Engine := { e with tags := mset noTag e.tags k t }

def Engine.withRun (e : Engine) (f : Run → Run) : Engine := { e with run := e.run.map f }

/-- EXPECTED where no cycle applies (Table 05-15). -/
def noCycle : Nat := 0xFFFFF

def Engine.fail (e : Engine) (f : Failure) : Engine := e.withRun fun r => { r with fails := r.fails ++ [f] }

/-- A class 0x03 or data outcome in cycle `cyc`. -/
def Engine.reject (e : Engine) (cyc status slot pc : Nat) : Engine :=
  e.fail ⟨cyc, status, slot, pc, 15, 0, noCycle, cyc⟩

/-- The lost mark of an accumulator slot or vector register by its tag key. -/
def keptOfKey (key : Nat) : Option Nat :=
  if key < 16384 then none
  else if key < 17408 then some (accKept (key - 16384))
  else if key < 17472 then some (vregKept (key - 17408))
  else none

/-- A read of a lost accumulator slot or vector register ends the program (R437). -/
def lostRead (e : Engine) (key t pc slot : Nat) : Engine :=
  if !e.lost then e
  else
    match keptOfKey key with
    | none => e
    | some k => if (e.view t).isLost k then e.reject t St.STATE_LOST slot pc else e

/-- on_read and on_issue_read of R70. -/
def onRead (e : Engine) (key t pc slot : Nat) : Engine :=
  let g := e.tag key
  let l := locOf key
  let e1 :=
    if g.pend ≠ 0 then e.fail ⟨t, St.READ_PENDING, slot, pc, l.1, l.2, noCycle, t⟩
    else if t < g.ready then e.fail ⟨t, St.READ_EARLY, slot, pc, l.1, l.2, g.ready, t⟩
    else e
  (lostRead e1 key t pc slot).setTag key { g with hold := max g.hold t }

/-- on_issue_write of R70. -/
def onWrite (e : Engine) (key tIssue tLand pc slot : Nat) : Engine :=
  let g := e.tag key
  let l := locOf key
  let e1 :=
    if g.pend ≠ 0 then e.fail ⟨tLand, St.WRITE_PENDING, slot, pc, l.1, l.2, noCycle, tLand⟩
    else if tIssue < g.ready ∧ tLand < g.ready then
      e.fail ⟨tLand, St.WRITE_ORDER, slot, pc, l.1, l.2, g.ready, tLand⟩
    else if tLand < g.hold then e.fail ⟨tLand, St.WRITE_HOLD, slot, pc, l.1, l.2, g.hold, tLand⟩
    else e
  e1.setTag key { g with ready := tLand + 1 }

/-- on_issue_async of R70. -/
def onAsync (e : Engine) (key tIssue pc slot : Nat) : Engine :=
  let g := e.tag key
  let l := locOf key
  let e1 :=
    if tIssue < g.hold ∨ tIssue + 1 < g.ready then
      e.fail ⟨tIssue, St.ASYNC_CONFLICT, slot, pc, l.1, l.2, max g.hold (g.ready - 1), tIssue⟩
    else e
  e1.setTag key { g with pend := g.pend + 1 }

/-- A release lowers a line's PEND by one (R153). -/
def Engine.release (e : Engine) (key : Nat) : Engine :=
  let g := e.tag key
  e.setTag key { g with pend := g.pend - 1 }

def foldKeys (f : Engine → Nat → Engine) (e : Engine) (ks : List Nat) : Engine := ks.foldl f e

/-- Owner codes of the sixteen banks (Table 04-8) as the access finds them. -/
abbrev Owners := List Nat

def bankOwned (own : Owners) (ctx bank : Nat) : Bool :=
  let o := own.getD bank 0x1F
  decide (o = 0x10) || decide (o = ctx)

def Engine.ctx (e : Engine) : Nat := (e.run.map fun r => r.launch.ctx).getD 0

/-- Bank use and ownership of a timed access in cycle `t` (R119, R124). -/
def useBanks (own : Owners) (e : Engine) (t slot pc a n : Nat) : Engine :=
  let banks := (touched 64 a n).map (· % 16)
  let e1 := e.withRun fun r => { r with uses := r.uses ++ banks.map fun b => ⟨t, b⟩ }
  if banks.all (bankOwned own e.ctx) then e1 else e1.reject t St.UNOWNED_BANK slot pc

/-- A timed scratchpad read of `[a, a+n)` in cycle `t`: tags, banks, ownership and poison. -/
def timedRead (own : Owners) (e : Engine) (t slot pc a n : Nat) : Engine :=
  let e1 := foldKeys (fun e k => onRead e k t pc slot) e (touched 64 a n)
  let e2 := useBanks own e1 t slot pc a n
  let v := e.view t
  let e3 := if v.poisonedAt a n then e2.reject t St.POISONED slot pc else e2
  if e.lost && (touched 4 a n).any v.isLost then e3.reject t St.STATE_LOST slot pc else e3

/-- A timed scratchpad write of `[a, a+n)` that lands in cycle `tLand`. -/
def timedWrite (own : Owners) (e : Engine) (tIssue tLand slot pc a n : Nat) : Engine :=
  let e1 := foldKeys (fun e k => onWrite e k tIssue tLand pc slot) e (touched 64 a n)
  useBanks own e1 tLand slot pc a n

/-! ### Address streams (R155 to R159, R524, R525) -/

def Run.stream (r : Run) (i : Nat) : AStream := r.streams.getD i .zero
def Engine.stream (e : Engine) (i : Nat) : AStream := (e.run.map fun r => r.stream i).getD .zero
def Engine.putStream (e : Engine) (i : Nat) (st : AStream) : Engine :=
  e.withRun fun r => { r with streams := r.streams.set i st }
def Engine.sreg (e : Engine) (i : Nat) : W32 := (e.run.map fun r => r.sregs.getD i 0).getD 0

/-- Counter k of step n (R157). -/
def AStream.counter (s : AStream) (n k : Nat) : Nat :=
  match k with
  | 0 => n % s.count0
  | 1 => n / s.count0 % s.count1
  | _ => n / (s.count0 * s.count1)

def AStream.stride (s : AStream) (k : Nat) : W32 :=
  match k with
  | 0 => s.stride0
  | 1 => s.stride1
  | _ => s.stride2

/-- Device address of a REMOTE stream, and the bay virtual address bits [56:32] it carries. -/
def AStream.device (s : AStream) : Nat := s.indexWord.toNat % 2 ^ 24
def AStream.remoteTop (s : AStream) : Nat := s.istride.toNat % 2 ^ 25 * 2 ^ 32

/-- stream_addr of R157 for step n, with the index word `x` of an indirect stream. -/
def AStream.addr (s : AStream) (n : Nat) (x : W32) : Nat :=
  let part (k : Nat) : W32 :=
    if s.indirect ∧ k = s.idxDim then x * s.istride
    else BitVec.ofNat 32 (s.counter n k) * s.stride k
  let a := (s.base + part 0 + part 1 + part 2).toNat
  if s.kind = 3 then s.remoteTop + a else a

/-- The base of a transfer's end of a stream (R153). -/
def AStream.baseAddr (s : AStream) : Nat :=
  if s.kind = 3 then s.remoteTop + s.base.toNat else s.base.toNat

/-- One step of stream i taken in cycle `t` by the word at `pc` issued in cycle `tIssue`: its address, or
none for a masked step. An index line is read four cycles before its first step. -/
def streamStep (own : Owners) (e : Engine) (i tIssue pc t : Nat) : Engine × Option Nat :=
  let s := e.stream i
  let next (e : Engine) (st : AStream) : Engine := e.putStream i { st with pos := st.pos + 1 }
  if !s.indirect then (next e s, some (s.addr s.pos 0))
  else
    let c := s.counter s.pos s.idxDim
    let ln := c / 32
    let have_ := match s.line with | some (l, _) => decide (l = ln) | none => false
    let a := s.indexWord.toNat % 2 ^ 20 + 128 * ln
    let rel := (e.run.bind fun r => r.release)
    let early := decide (t < 4) || (decide (t < tIssue + 4) &&
      (match rel with | some q => decide (t - 4 ≤ q) | none => false))
    let e1 :=
      if have_ then e
      else if early then e.reject tIssue St.ILLEGAL_FIELD 3 pc
      else if 2 ^ 20 < a + 128 then e.reject (t - 4) St.OUT_OF_RANGE 3 pc
      else timedRead own e (t - 4) 3 pc a 128
    let words : List W32 :=
      match s.line with
      | some (l, ws) => if l = ln then ws else
          (List.range 32).map fun k => BitVec.ofNat 32 (bytesNat (readBytes (e.view (t - 4)).spad (a + 4 * k) 4))
      | none => (List.range 32).map fun k => BitVec.ofNat 32 (bytesNat (readBytes (e.view (t - 4)).spad (a + 4 * k) 4))
    let e2 := foldKeys (fun e k => let g := e.tag k; e.setTag k { g with hold := max g.hold t }) e1
      (if a + 128 ≤ 2 ^ 20 then touched 64 a 128 else [])
    let x := words.getD (c % 32) 0
    let s' := { s with line := some (ln, words), lineCyc := if have_ then s.lineCyc else t - 4 }
    if x = 0xFFFFFFFF then (next e2 s', none)
    else if s.icount ≤ x.toNat then (next (e2.reject s'.lineCyc St.OUT_OF_RANGE 3 pc) s', none)
    else (next e2 s', some (s.addr s.pos x))

/-- The cycles `[a, b]` in which a consumer takes steps of stream i; two consumers in one cycle are
STREAM_BUSY (R155). `multi` marks an operation that holds the stream busy to its last step. -/
def claimStream (e : Engine) (i a b slot pc : Nat) (multi : Bool) : Engine :=
  let s := e.stream i
  let hit := s.windows.find? fun w => decide (w.1 ≤ b) && decide (a ≤ w.2)
  let e1 :=
    match hit with
    | some w => e.fail ⟨max a w.1, St.STREAM_BUSY, slot, pc, 7, i, noCycle, max a w.1⟩
    | none => e
  e1.putStream i { s with windows := s.windows.filter (fun w => decide (a ≤ w.2)) ++ [(a, b)],
                          busy := if multi then max s.busy (b + 1) else s.busy }

/-- The cycle in which a step's address is formed and checked (R157). -/
def formCycle (e : Engine) (i tIssue : Nat) : Nat :=
  let s := e.stream i
  if s.indirect then s.lineCyc else tIssue

/-- The address is aligned and its bytes lie in the scratchpad (R117, R118, R159). -/
def checkSpad (e : Engine) (t slot pc a n align : Nat) : Engine :=
  if a % align ≠ 0 then e.reject t St.ILLEGAL_FIELD slot pc
  else if 2 ^ 20 < a + n then e.reject t St.OUT_OF_RANGE slot pc
  else e

def spadOk (a n align : Nat) : Bool := decide (a % align = 0) && decide (a + n ≤ 2 ^ 20)

/-- The stream's KIND is one its consumer accepts (R524). -/
def needKind (e : Engine) (i slot pc t : Nat) (kinds : List Nat) : Engine :=
  if kinds.contains (e.stream i).kind then e else e.reject t St.ILLEGAL_FIELD slot pc

/-! ### Slots of an instruction word (Table 05-1) -/

def wArray (w : W128) : Nat := bitsAt w.toNat 8 28
def wVector (w : W128) : Nat := bitsAt w.toNat 36 28
def wLdst (w : W128) : Nat := bitsAt w.toNat 64 20
def wAgen (w : W128) : Nat := bitsAt w.toNat 84 20
def wMisc (w : W128) : Nat := bitsAt w.toNat 104 8
def wCtrl (w : W128) : Nat := bitsAt w.toNat 112 16
def wDelta (w : W128) : Nat := bitsAt w.toNat 0 6

/-- Slot k of a word, numbered as in Table 02-17. -/
def wSlot (w : W128) (k : Nat) : Nat :=
  match k with
  | 0 => wArray w
  | 1 => wVector w
  | 2 => wLdst w
  | 3 => wAgen w
  | 4 => wMisc w
  | _ => wCtrl w

/-- Opcode of slot k: bits [3:0], and [5:0] in the vector slot (R141). -/
def wOp (w : W128) (k : Nat) : Nat := if k = 1 then wSlot w 1 % 64 else wSlot w k % 16

/-- Vector mode register fields (Table 05-5). -/
def vmF (vm : W32) (lo w : Nat) : Nat := bitsAt vm.toNat lo w
def vmSrc (vm : W32) := vmF vm 0 4
def vmDst (vm : W32) := vmF vm 4 4
def vmRmode (vm : W32) := vmF vm 8 3
def vmSrBits (vm : W32) := vmF vm 11 5
def vmSat (vm : W32) : Bool := decide (vmF vm 16 1 = 1)
def vmCmp (vm : W32) := vmF vm 17 2
def vmWbase (vm : W32) : Int := intOf 10 true (vmF vm 19 10)

/-- Operand fields of the vector slot (R150). -/
def vD (x : Nat) := bitsAt x 6 6
def vA (x : Nat) := bitsAt x 12 6
def vB (x : Nat) := bitsAt x 18 6
def vM (x : Nat) := bitsAt x 24 4

def arrayOk (img : Image) (w : W128) : Bool :=
  let x := wArray w
  let pd := img.pds.getD (bitsAt x 4 4) 0
  let pdThere := decide (bitsAt x 4 4 < img.pds.length) && passOk pd
  match x % 16 with
  | 0 => decide (x = 0)
  | 1 => pdThere && decide (bitsAt x 12 16 = 0)
  | 2 => decide (x = 2)
  | 3 => pdThere && (decide (pdRmode pd ≠ 4) || decide (wOp w 4 = 1))
  | 4 => pdThere && (decide (pdRmode pd ≠ 4) || decide (wOp w 4 = 1))
  | _ => false

def vectorOk (img : Image) (w : W128) : Bool :=
  let x := wVector w
  let op := x % 64
  let vm := img.vms.getD (vM x) 0
  let vmThere := decide (vM x < img.vms.length) && decide (vmF vm 29 3 = 0)
  let noB := decide (vB x = 0)
  let noM := decide (vM x = 0)
  let even := decide (vD x % 2 = 0) && decide (vA x % 2 = 0) && decide (vB x % 2 = 0)
  if op = 0 then decide (x = 0)
  else if op ≤ 0x07 then vmThere && decide (vmRmode vm ≤ 3)
  else if op ≤ 0x0A then vmThere && decide (vmRmode vm ≤ 3) && even
  else if op ≤ 0x0D then noB && noM
  else if 0x10 ≤ op ∧ op ≤ 0x1C then noM
  else if op = 0x20 then
    noB && vmThere && decide (vmRmode vm ≤ 4) && decide (vmSrc vm ≠ 0xE) && decide (vmDst vm ≠ 0xE) &&
    (decide (vmRmode vm ≠ 4) || (decide (8 ≤ vmSrBits vm) && decide (vmSrBits vm ≤ 24) && decide (wOp w 4 = 2))) &&
    (decide (vmSrc vm ≠ 0xF) || decide (vA x % 2 = 0)) && (decide (vmDst vm ≠ 0xF) || decide (vD x % 2 = 0))
  else if op = 0x22 then noB && vmThere && decide (vmRmode vm ≤ 3)
  else if op = 0x23 ∨ op = 0x24 then noB && noM
  else if op = 0x28 then
    decide (bitsAt x 16 2 = 0) && vmThere && decide (vmRmode vm ≤ 3) && decide (vmDst vm ≠ 0xE) &&
    (decide (vmDst vm ≠ 0xF) || decide (vD x % 2 = 0))
  else if op = 0x2C then decide (vA x = 0) && noB && noM && decide (wOp w 4 = 3)
  else false

def ldstOk (w : W128) : Bool :=
  let x := wLdst w
  match x % 16 with
  | 0 => decide (x = 0)
  | 1 => decide (bitsAt x 14 6 = 0)
  | 2 => decide (bitsAt x 14 6 = 0)
  | 3 => decide (bitsAt x 14 6 = 0)
  | 4 => decide (bitsAt x 14 6 = 0)
  | 5 => decide (bitsAt x 19 1 = 0)
  | 6 => decide (bitsAt x 19 1 = 0)
  | 7 => decide (bitsAt x 19 1 = 0)
  | 8 => decide (bitsAt x 19 1 = 0)
  | _ => false

def agenOk (img : Image) (w : W128) : Bool :=
  let x := wAgen w
  match x % 16 with
  | 0 => decide (x = 0)
  | 1 => decide (bitsAt x 14 6 = 0) && decide (bitsAt x 8 6 < img.descs.length)
  | 2 => decide (bitsAt x 12 8 = 0)
  | 3 => decide (bitsAt x 8 12 = 0)
  | 4 => true
  | 5 => true
  | 6 => decide (bitsAt x 12 8 = 0)
  | 7 => decide (bitsAt x 13 7 = 0)
  | _ => false

def miscOk (img : Image) (w : W128) : Bool :=
  let x := wMisc w
  let rc := decide (bitsAt x 6 2 = 0) && decide (bitsAt x 4 2 < img.rcs.length)
  match x % 16 with
  | 0 => decide (x = 0)
  | 1 => rc && (decide (wOp w 0 = 3) || decide (wOp w 0 = 4))
  | 2 => rc && decide (wOp w 1 = 0x20)
  | 3 => rc && decide (wOp w 1 = 0x2C)
  | _ => false

def ctrlOk (img : Image) (pc : Nat) (w : W128) : Bool :=
  let x := wCtrl w
  match x % 16 with
  | 0 => decide (x = 0)
  | 1 => decide (x = 1) && decide (pc + 1 = img.words.length) &&
      decide (wArray w = 0 ∧ wVector w = 0 ∧ wLdst w = 0 ∧ wAgen w = 0 ∧ wMisc w = 0)
  | 2 => true
  | 3 => true
  | 4 => decide (bitsAt x 13 3 = 0)
  | 5 => decide (bitsAt x 13 3 = 0)
  | 6 => decide (bitsAt x 12 4 = 0)
  | _ => false

/-- The decode check of a word at its issue (R141, R142, R148, R150, R151, R160, R163). -/
def wordOk (img : Image) (pc : Nat) (w : W128) : Bool :=
  decide (bitsAt w.toNat 6 2 = 0) && arrayOk img w && vectorOk img w && ldstOk w && agenOk img w &&
  miscOk img w && ctrlOk img pc w

/-! ### The sequencer -/

/-- Class 0x03 outcomes govern (R526); then schedule faults, then the rest. -/
def failRank (f : Failure) : Nat :=
  let c := St.cls f.status
  (if c = 3 then 0 else if c = 8 then 1 else 2) * 8 + f.slot

/-- The failure that ends the program: the earliest cycle, then rank and slot order (R73, R526), with the
MORE bit of Table 05-15. -/
def pickFail (fs : List Failure) : Option (Failure × Bool) :=
  match fs with
  | [] => none
  | f :: r =>
    let best := r.foldl (fun b g =>
      if g.cyc < b.cyc ∨ (g.cyc = b.cyc ∧ failRank g < failRank b) then g else b) f
    some (best, decide (1 < (fs.filter fun g => decide (g.cyc = best.cyc) && decide (St.cls g.status = 8)).length))

/-- Scratchpad lines that a transfer reads or writes. -/
def xferLines (x : Xfer) : List Nat := touched 64 (if x.op = 5 ∨ x.op = 8 then x.dst else x.src) x.len

/-- A program is abandoned in the failing cycle (R72): writes that land earlier stand, nothing lands in
that cycle or later, and a transfer issued in it never starts. -/
def abandon (e : Engine) (f : Failure) (more : Bool) : Engine :=
  let prog := (e.run.map fun r => r.prog).getD 0
  let lastPc := (e.run.bind fun r => r.cur.map fun c => c.pc).getD 0
  let e1 := e.commitTo f.cyc
  let dead := e1.xfers.filter fun x => decide (x.prog = prog) && decide (f.cyc ≤ x.issue)
  let e2 := dead.foldl (fun e x => foldKeys (fun e k => e.release k) e (xferLines x)) e1
  { e2 with
    run := none
    flight := []
    xfers := e2.xfers.filter fun x => !(decide (x.prog = prog) && decide (f.cyc ≤ x.issue))
    outs := e2.outs ++ [.scyc f.cyc, .fault f more lastPc] }

/-- Accesses to one bank in one cycle. -/
def useCount (us : List BankUse) (u : BankUse) : Nat := (us.filter fun v => decide (v = u)).length

/-- Bank arbitration of the cycles before `t` (R120 to R122): one freeze for each cycle with a conflict or
a promoted DMA access, a schedule fault for three accesses to a bank. -/
def settleBanks (e : Engine) (t pc slot : Nat) : Engine :=
  match e.run with
  | none => e
  | some r =>
    let past := r.uses.filter fun u => decide (u.cyc < t)
    let kinds := past.eraseDups
    let triples := kinds.filter fun u => decide (3 ≤ useCount past u)
    let fails := if r.debug then []
      else triples.map fun u => (⟨u.cyc, St.BANK_TRIPLE, slot, pc, 6, u.bank, noCycle, u.cyc⟩ : Failure)
    let limit := ((r.fails ++ fails).map fun f => f.cyc).foldl min t
    let hot := kinds.filter fun u => decide (u.cyc < limit) &&
      (decide (2 ≤ useCount past u) || (e.promoted.contains u.bank && decide (useCount past u = 1)))
    let frozen := ((hot.map fun u => u.cyc).eraseDups).length
    let stalls := if r.debug then triples.map fun u => EngOut.stall pc slot 1 u.cyc 3 r.launch.ctx else []
    let served := hot.filterMap fun u => if useCount past u = 1 then some u.bank else none
    { e with
      run := some { r with uses := r.uses.filter fun u => decide (t ≤ u.cyc)
                           fails := r.fails ++ fails }
      promoted := e.promoted.filter fun b => !served.contains b
      outs := e.outs ++ (if frozen = 0 then [] else [.freezeFeed frozen, .busy frozen]) ++ stalls }

/-- The failures of cycles before `t` take effect. -/
def settleFails (e : Engine) (t : Nat) : Engine :=
  match e.run with
  | none => e
  | some r =>
    match pickFail (r.fails.filter fun f => decide (f.cyc < t)) with
    | none => e
    | some (f, more) => abandon e f more

/-- The AGEN result becomes usable (R154). -/
def Engine.applyAgen (e : Engine) : Engine :=
  e.withRun fun r =>
    let r' := { r with agen := AgenWrite.none }
    match r.agen with
    | .none => r
    | .stream i st => { r' with streams := r.streams.set i st }
    | .base i b => let s := r.stream i; { r' with streams := r.streams.set i { s with base := b } }
    | .rewind i => let s := r.stream i; { r' with streams := r.streams.set i { s with pos := 0, line := none } }
    | .sreg i v => { r' with sregs := r.sregs.set i v }

/-- The first slot from k on that holds an operation. -/
def firstSlot (w : W128) (k : Nat) : Option Nat :=
  ([0, 1, 2, 3, 4, 5].filter fun i => decide (k ≤ i) && decide (wOp w i ≠ 0)).head?

/-- The word after the one at `pc`, with the loops it ends (R146). -/
def nextPc (pc : Nat) (loops : List LoopFrame) : Nat × List LoopFrame :=
  match loops with
  | [] => (pc + 1, [])
  | f :: r =>
    if pc = f.last then
      (if 1 < f.left then (f.first, { f with left := f.left - 1 } :: r) else nextPc pc r)
    else (pc + 1, f :: r)

/-- The program is rejected in cycle `cyc` along with whatever fails in it. -/
def abandonNow (e : Engine) (cyc status slot pc : Nat) : Engine :=
  settleFails (e.reject cyc status slot pc) (cyc + 1)

/-- The sequencer reaches the word at `pc` in cycle `cyc` and stops at the first slot operation from
there on; words without one pass. -/
def goWord (fuel : Nat) (e : Engine) (pc cyc : Nat) : Engine :=
  match fuel with
  | 0 => e
  | n + 1 =>
    let from_ := (e.run.bind fun r => r.cur.map fun c => (c.pc, c.slot)).getD (0, 0)
    let e1 := settleFails (settleBanks e cyc from_.1 from_.2) cyc
    match e1.run with
    | none => e1
    | some _ =>
      let e2 := (e1.commitTo (cyc - 4)).applyAgen
      match e2.run with
      | none => e2
      | some r =>
        match r.img.words[pc]? with
        | none => abandonNow e2 cyc St.ILLEGAL_FIELD 5 pc
        | some w =>
          let e3 := { e2 with run := some { r with cur := some ⟨pc, w, 0, cyc⟩ }, outs := e2.outs ++ [.scyc cyc] }
          if !wordOk r.img pc w then abandonNow e3 cyc St.ILLEGAL_FIELD 0 pc
          else
            match firstSlot w 0 with
            | some k => e3.withRun fun r => { r with cur := some ⟨pc, w, k, cyc⟩ }
            | none =>
              let nx := nextPc pc r.loops
              let gap := (match r.img.words[nx.1]? with | some w' => wDelta w' | none => 0) + 1
              goWord n (e3.withRun fun r => { r with loops := nx.2 }) nx.1 (cyc + gap)

/-- Words a program can pass before its overrun timer ends it (R69: the count stays below 2^20). (log entry 19: DESIGN CHOICE) -/
def wordFuel : Nat := 2 ^ 20

/-- SKIP of a word (R143). -/
def wSkip (w : W128) : Nat := if wOp w 5 = 2 then bitsAt (wCtrl w) 4 12 else 0

/-- After a slot operation: the next one of the word, or of the words that follow. -/
def advance (e : Engine) : Engine :=
  match e.run with
  | none => e
  | some r =>
    match r.cur with
    | none => e
    | some c =>
      match firstSlot c.word (c.slot + 1) with
      | some k => e.withRun fun r => { r with cur := some { c with slot := k } }
      | none =>
        let nx := nextPc c.pc r.loops
        let gap := (match r.img.words[nx.1]? with | some w' => wDelta w' | none => 0) + 1 + wSkip c.word
        let e1 := e.withRun fun r => { r with loops := nx.2 }
        let e2 := { e1 with outs := e1.outs ++ [.busy gap] }
        goWord wordFuel e2 nx.1 (c.cyc + gap)

/-- The slot operation that issues now, when it is operation `op` of slot `slot` and no wait holds. -/
def Engine.issuing (e : Engine) (slot op : Nat) : Option Cur :=
  match e.run with
  | none => none
  | some r =>
    if r.wait.isSome then none
    else
      match r.cur with
      | none => none
      | some c => if c.slot = slot ∧ wOp c.word slot = op then some c else none

/-- Whether an earlier check of this cycle already ends the program (R72). -/
def Engine.doomed (e : Engine) (t : Nat) : Bool :=
  (e.run.map fun r => r.fails.any fun f => decide (f.cyc ≤ t)).getD false

/-- The cause that debug-stall mode logs for a code (Table 05-14). -/
def stallCause (st : Nat) (expected hold : Nat) : Nat :=
  if st = St.READ_EARLY ∨ st = St.WRITE_ORDER then 0
  else if st = St.WRITE_HOLD then 1
  else if st = St.READ_PENDING ∨ st = St.WRITE_PENDING ∨ st = St.TAG_BUSY then 2
  else if st = St.ASYNC_CONFLICT then (if expected = hold then 1 else 0)
  else if st = St.LANE_BUSY then 4
  else if st = St.SET_NOT_READY then 5
  else if st = St.SET_NOT_FREE then 6
  else 3

/-- Failures that `op` adds at the current cycle. -/
def newFails (old new : Engine) : List Failure :=
  let n := (old.run.map fun r => r.fails.length).getD 0
  (new.run.map fun r => r.fails.drop n).getD []

/-- An operation issues under the sentinel's mode (R74). In CHECK mode its failures are recorded. In
debug-stall mode a failed check moves the issue cycle to where it passes and logs the stall; a check
that waits for a transfer leaves the operation waiting (`waited`). -/
def issueOp (fuel : Nat) (op : Engine → Cur → Engine) (e : Engine) (c : Cur) : Engine :=
  let e1 := op e c
  let debug := (e.run.map fun r => r.debug).getD false
  let fs := (newFails e e1).filter fun f => decide (St.cls f.status = 8)
  if !debug || fs.isEmpty || (newFails e e1).any (fun f => decide (St.cls f.status = 3)) then
    e1.withRun fun r => { r with waited := 0 }
  else
    match fuel with
    | 0 => e1
    | n + 1 =>
      if fs.any fun f => decide (f.expected = noCycle) then e.withRun fun r => { r with waited := 1 }
      else
        let f := fs.headD ⟨0, 0, 0, 0, 0, 0, 0, 0⟩
        let d := (fs.map fun f => f.expected - f.actual).foldl max 1
        let c' := { c with cyc := c.cyc + d }
        let e2 := e.withRun fun r => { r with cur := some c' }
        issueOp n op
          { e2 with outs := e2.outs ++
              [.stall c.pc c.slot d c.cyc (stallCause f.status f.expected (e.tag f.loc).hold) e.ctx, .busy d] } c'

/-- What an operation's SRAM reads met: a corrected word is counted; an uncorrectable one ends the
program with the class 0x07 code (R136, R137). -/
def meetEcc (x : Ecc) (e : Engine) (c : Cur) : Engine :=
  match x with
  | .none => e
  | .corrected u w => { e with outs := e.outs ++ [.sram u w false] }
  | .uncorrectable u w =>
    { e.reject c.cyc St.SRAM_UNCORRECTABLE c.slot c.pc with outs := e.outs ++ [.sram u w true] }

/-- A debug stall behind a transfer holds the operation (R74). -/
def Engine.stallWaits (e : Engine) : Bool :=
  match e.run with
  | none => false
  | some r => decide (r.waited ≠ 0)

/-- The step of an engine whose sequencer has reached operation `op` of slot `slot`: the operation
issues, and the sequencer moves on. `held` is how many cycles a debug stall behind a transfer lasted. -/
def slotStep (slot op held : Nat) (x : Ecc) (f : Engine → Cur → Engine) (e : Engine) : Engine :=
  match e.issuing slot op with
  | none => e
  | some c =>
    let stalled := e.stallWaits
    let d := max 1 held
    let c' := if stalled then { c with cyc := c.cyc + d } else c
    let e0 := if stalled then
        { (e.withRun fun r => { r with cur := some c' }) with
          outs := e.outs ++ [.stall c.pc c.slot d c.cyc 2 e.ctx, .busy d] }
      else e
    let e1 := issueOp 64 f (meetEcc x e0 c') c'
    if e1.stallWaits then e1 else advance e1

end Sys2Proof.Machine
end

