-- ==== Sys2Proof/Machine/EngArray.lean ====
section
/-! DEFINITION. The array slot (Table 05-2): SLOAD, SWAP, STREAM and SWAP_STREAM, with the feeder, the
loader, the streaming scales and the drain (R51 to R60, R147 to R149), and the random draws of R326 to R331. -/

namespace Sys2Proof.Machine

/-- The random context that the misc slot of a word names (Table 05-10, Table 11-4). -/
def rcOf (img : Image) (w : W128) : List W32 := img.rcs.getD (bitsAt (wMisc w) 4 2) []

def rcWord (rc : List W32) (i : Nat) : Nat := (rc.getD i 0).toNat
def rcSeed (rc : List W32) : Nat := rcWord rc 0 + rcWord rc 1 * 2 ^ 32
def rcStream (rc : List W32) : Nat := rcWord rc 2 + rcWord rc 3 % 2 ^ 16 * 2 ^ 32
def rcTag (rc : List W32) : Nat := rcWord rc 3 / 2 ^ 16
def rcIbase (rc : List W32) : Nat := rcWord rc 4 + rcWord rc 5 * 2 ^ 32
def rcStep (rc : List W32) : Nat := rcWord rc 6
def rcRow (e : Engine) (rc : List W32) : Nat := (e.sreg (bitsAt (rcWord rc 7) 0 4)).toNat
def rcCol (e : Engine) (rc : List W32) : Nat := (e.sreg (bitsAt (rcWord rc 7) 4 4)).toNat
def rcDraw (e : Engine) (rc : List W32) : Nat := (e.sreg (bitsAt (rcWord rc 7) 8 4)).toNat

/-- R331: every row and vector operation starts at a block boundary. -/
def rngAligned (e : Engine) (rc : List W32) : Bool :=
  decide (rcStep rc % 8 = 0) && decide ((rcIbase rc + rcCol e rc) % 8 = 0)

/-- The draws of `n` consecutive elements of row `r`, of width b (R330). -/
def rngDraws (e : Engine) (rc : List W32) (r n b : Nat) : List Nat :=
  (List.range n).map fun c =>
    randValue (rcSeed rc) (rcStream rc) (rcTag rc)
      ((rcIbase rc + (rcRow e rc + r) * rcStep rc + rcCol e rc + c) % 2 ^ 96) (rcDraw e rc) b

/-- The image of the running program. -/
def Engine.img (e : Engine) : Image :=
  (e.run.map fun r => r.img).getD ⟨0, 0, [], [], [], [], []⟩

/-- A set's contents with the loads still on their way into it (R52: a swap in the ready cycle uses every
written value in time). -/
def settledSet (e : Engine) (k : Nat) : StatSet :=
  (e.flight.foldl (fun e l =>
    match l.what with
    | .setRow i _ _ => if i = k then applyLand e l else e
    | .setScale i _ _ => if i = k then applyLand e l else e
    | _ => e) e).setOf k

/-- The set's recorded depth, format and scaling are the descriptor's (R148). -/
def setMatches (s : StatSet) (pd : W64) : Bool :=
  s.filled && decide (pairK s.fmtS s.fmtW = pdK pd) && decide (s.fmtW = pdFmtW pd) &&
  decide (s.scaleW = pdScaleW pd)

/-- Row alignment of feeder and loader: 64 B, and 128 B for a 96-byte row (Table 04-1). -/
def rowAlign (n : Nat) : Nat := if n = 96 then 128 else 64

/-- One loader step: cell row or scale line `i` of `n` bytes read in cycle `t` and written four later. -/
def loadStep (own : Owners) (as_ pc tIssue n k : Nat) (scale : Bool) (e : Engine) (i : Nat) : Engine :=
  let t := tIssue + i
  let st := streamStep own e as_ tIssue pc t
  let e1 := st.1
  let line := i - 32
  let land (bs : List Byte) : Land := if scale then .setScale k line bs else .setRow k i bs
  match st.2 with
  | none => e1.addLanding (t + 4) (land (List.replicate n 0))
  | some a =>
    let e2 := checkSpad e1 (formCycle e1 as_ tIssue) 0 pc a n (rowAlign n)
    if !spadOk a n (rowAlign n) then e2
    else
      let e3 := timedRead own e2 t 0 pc a n
      e3.addLanding (t + 4) (land (readBytes (e3.view t).spad a n))

/-- SLOAD (R51, R52, R54, R55, R147). -/
def opSload (own : Owners) (e : Engine) (c : Cur) : Engine :=
  match e.run with
  | none => e
  | some r =>
    let x := wArray c.word
    let pd := r.img.pds.getD (bitsAt x 4 4) 0
    let as_ := bitsAt x 8 4
    let t := c.cyc
    let k := 1 - e.active
    let kk := pdK pd
    let n := 4 * (kk / 32) * fmtWidth (pdFmtW pd)
    let lines := if pdScaleW pd = 0 then 0 else scaleLines (pdScaleW pd) kk
    let len := 32 + lines
    let e1 := if t < r.loadEnd then e.fail ⟨t, St.FEEDER_BUSY, 0, c.pc, 15, 0, r.loadEnd, t⟩ else e
    let e2 := if t < r.setFree then e1.fail ⟨t, St.SET_NOT_FREE, 0, c.pc, 3, k, r.setFree, t⟩ else e1
    let e3 := needKind e2 as_ 0 c.pc t [0]
    let e4 := claimStream e3 as_ t (t + len - 1) 0 c.pc true
    let s : StatSet := ⟨true, pdFmtS pd, pdFmtW pd, pdScaleW pd, [], []⟩
    let e5 := (e4.putSet k s).setTag (setKey k) { e.tag (setKey k) with ready := t + len }
    let e6 := (List.range 32).foldl (loadStep own as_ c.pc t n k false) e5
    let e7 := ((List.range lines).map (· + 32)).foldl (loadStep own as_ c.pc t 64 k true) e6
    e7.withRun fun r => { r with loadEnd := t + len }

/-- The swap itself (R53 to R55): the shadow set becomes active, the retired one accepts a load from
cycle s + 32, and rows of a running stream that enter from cycle s meet the new set. -/
def swapSets (e : Engine) (c : Cur) : Engine :=
  match e.run with
  | none => e
  | some r =>
    let t := c.cyc
    let k := 1 - e.active
    let ready := (e.tag (setKey k)).ready
    let e1 := if t < ready then e.fail ⟨t, St.SET_NOT_READY, 0, c.pc, 3, k, ready, t⟩ else e
    let s := settledSet e1 k
    let bad := decide (t < r.feedEnd) && (match r.feedPd with | some pd => !setMatches s pd | none => false)
    let e2 := if bad then e1.reject t St.ILLEGAL_FIELD 0 c.pc else e1
    let flight := e2.flight.map fun l =>
      match l.what with
      | .pass p => if t ≤ p.enter then { l with what := .pass { p with set := s } } else l
      | _ => l
    { e2 with active := k, flight := flight, run := e2.run.map fun r => { r with setFree := t + 32 } }

def opSwap (e : Engine) (c : Cur) : Engine := swapSets e c

/-- What one STREAM carries from row to row. -/
structure StreamCtx where
  own : Owners
  pc : Nat
  t0 : Nat
  pd : W64
  as_ : Nat
  n : Nat
  set : StatSet
  rc : List W32
  deriving DecidableEq, Repr

/-- The feeder's read of row r: its bytes, zeros for a masked step (R56, R159). -/
def feedRow (k : StreamCtx) (e : Engine) (r : Nat) : Engine × List Byte :=
  let t := k.t0 + r
  let nb := rowBytes (pdFmtS k.pd) (pdK k.pd)
  let st := streamStep k.own e k.as_ k.t0 k.pc t
  match st.2 with
  | none => (st.1, List.replicate nb 0)
  | some a =>
    let e1 := checkSpad st.1 (formCycle st.1 k.as_ k.t0) 0 k.pc a nb (rowAlign nb)
    if !spadOk a nb (rowAlign nb) then (e1, [])
    else
      let e2 := timedRead k.own e1 t 0 k.pc a nb
      (e2, readBytes (e2.view t).spad a nb)

/-- The streaming scale line for rows j * 128 / s on, read in cycle t0 - 4 + j * 128 / s (R149, R525). -/
def scaleRow (k : StreamCtx) (lines : List (List Byte)) (e : Engine) (r : Nat) : Engine × List (List Byte) :=
  let s := scaleBytes (pdScaleS k.pd) (pdK k.pd)
  if pdScaleS k.pd = 0 ∨ s = 0 ∨ r % (128 / s) ≠ 0 then (e, lines)
  else
    let rel := (e.run.bind fun r => r.release)
    let early := decide (r = 0) && (decide (k.t0 < 4) ||
      (match rel with | some q => decide (k.t0 - 4 ≤ q) | none => false))
    if early then (e.reject k.t0 St.ILLEGAL_FIELD 3 k.pc, lines)
    else
      let t := k.t0 - 4 + r
      let as_ := pdSscaleAs k.pd
      let st := streamStep k.own e as_ k.t0 k.pc t
      match st.2 with
      | none => (st.1, lines ++ [List.replicate 128 0])
      | some a =>
        let e1 := checkSpad st.1 (formCycle st.1 as_ k.t0) 3 k.pc a 128 4
        if !spadOk a 128 4 then (e1, lines)
        else
          let e2 := timedRead k.own e1 t 3 k.pc a 128
          (e2, lines ++ [readBytes (e2.view t).spad a 128])

/-- The drain's accumulator step of row r (R58, R60, R159): the row it reads and writes in stage O4. -/
def accRow (k : StreamCtx) (e : Engine) (r : Nat) : Engine × Option Nat :=
  let d := pdDrain k.pd
  if d = 3 then (e, none)
  else
    let t := k.t0 + 71 + r
    let as_ := pdAccAs k.pd
    let st := streamStep k.own e as_ k.t0 k.pc t
    match st.2 with
    | none => (st.1, none)
    | some a =>
      let exa := decide (pdAcc k.pd = 1)
      let top := if exa then 256 else 1024
      if top ≤ a then (st.1.reject (formCycle st.1 as_ k.t0) St.OUT_OF_RANGE 0 k.pc, none)
      else
        let keys := if exa then (List.range 4).map fun i => accKey (4 * a + i) else [accKey a]
        let e1 := if d = 0 then st.1 else foldKeys (fun e x => onRead e x t k.pc 0) st.1 keys
        let e2 := foldKeys (fun e x => onWrite e x k.t0 t k.pc 0) e1 keys
        (e2, some a)

/-- The drain's output step of row r (R58, R59, R159): scratchpad, or the mesh queue with MESH set. An address past the
loft's tier abandons the program; one in the program cache is refused when the row arrives there (R130). -/
def outRow (k : StreamCtx) (masked : Bool) (e : Engine) (r : Nat) : Engine × Option Nat :=
  if pdDrain k.pd < 2 then (e, none)
  else
    let t := k.t0 + 73 + r
    let as_ := pdOutAs k.pd
    let st := streamStep k.own e as_ k.t0 k.pc t
    match st.2 with
    | none => (st.1, none)
    | some a =>
      let n := outBytes (pdFmtOut k.pd)
      let f := formCycle st.1 as_ k.t0
      if pdMesh k.pd then
        if (e.stream as_).kind = 2 ∧ 2 ^ 25 < a + n then (st.1.reject f St.OUT_OF_RANGE 0 k.pc, none)
        else (st.1, some a)
      else
        let e1 := checkSpad st.1 f 0 k.pc a n (outAlign (pdFmtOut k.pd))
        if !spadOk a n (outAlign (pdFmtOut k.pd)) then (e1, none)
        else if masked then (e1, none)
        else (timedWrite k.own e1 k.t0 t 0 k.pc a n, some a)

/-- The reads of row r of a stream, scales and feeder; every read of the operation is checked and holds its location as the
operation issues, before the writes of its rows (R70). -/
def readRow (k : StreamCtx) (q : Engine × List (List Byte) × List (List Byte)) (r : Nat) :
    Engine × List (List Byte) × List (List Byte) :=
  let sc := scaleRow k q.2.1 q.1 r
  let fd := feedRow k sc.1 r
  (fd.1, sc.2, q.2.2 ++ [fd.2])

/-- Row r of a stream once it is read: accumulator and output steps, and its pass through the array. -/
def streamRow (k : StreamCtx) (lines rows : List (List Byte)) (e0 : Engine) (r : Nat) : Engine :=
  let ac := accRow k e0 r
  let masked := decide (pdDrain k.pd < 3) && ac.2.isNone
  let ou := outRow k masked ac.1 r
  let s := scaleBytes (pdScaleS k.pd) (pdK k.pd)
  let per := if s = 0 then 1 else 128 / s
  let scales := if s = 0 then [] else (((lines.getD (r / per) []).drop (r % per * s)).take s)
  let e := ou.1
  let os := e.stream (pdOutAs k.pd)
  let draws :=
    if pdRmode k.pd = 4 ∧ 2 ≤ pdDrain k.pd then rngDraws e k.rc r 32 (pdSrBits k.pd)
    else List.replicate 32 0
  let row : PassRow :=
    { enter := k.t0 + r, bytes := rows.getD r [], scales := scales, set := k.set, pd := k.pd,
      ga := e.sreg (pdGa k.pd), gb := e.sreg (pdGb k.pd), acc := ac.2, outAddr := ou.2,
      outKind := os.kind, outDev := os.device, draws := draws, last := decide (r + 1 = k.n) }
  e.addLanding (k.t0 + 71 + r) (.pass row)

/-- Each check or claim of an operation, where its condition calls for it. -/
def failIf (b : Bool) (f : Failure) (e : Engine) : Engine := if b then e.fail f else e
def rejectIf (b : Bool) (t st slot pc : Nat) (e : Engine) : Engine := if b then e.reject t st slot pc else e
def needKindIf (b : Bool) (as_ pc t : Nat) (kinds : List Nat) (e : Engine) : Engine :=
  if b then needKind e as_ 0 pc t kinds else e
def claimIf (b : Bool) (as_ lo hi pc : Nat) (e : Engine) : Engine := if b then claimStream e as_ lo hi 0 pc true else e

/-- The checks of a STREAM at its issue (R56, R142, R147 to R149, R156). -/
def streamChecks (r : Run) (pd : W64) (as_ : Nat) (set : StatSet) (rc : List W32) (c : Cur) (e : Engine) : Engine :=
  needKindIf (decide (2 ≤ pdDrain pd)) (pdOutAs pd) c.pc c.cyc (if pdMesh pd then [2, 3] else [0]) <|
  needKindIf (decide (pdDrain pd ≠ 3)) (pdAccAs pd) c.pc c.cyc [1] <|
  needKindIf (decide (pdScaleS pd ≠ 0)) (pdSscaleAs pd) c.pc c.cyc [0] <|
  needKindIf true as_ c.pc c.cyc [0] <|
  rejectIf (decide (pdRmode pd = 4) && !rngAligned e rc) c.cyc St.ILLEGAL_FIELD 4 c.pc <|
  rejectIf (!setMatches set pd) c.cyc St.ILLEGAL_FIELD 0 c.pc <|
  failIf (decide (c.cyc < r.feedEnd)) ⟨c.cyc, St.FEEDER_BUSY, 0, c.pc, 15, 0, r.feedEnd, c.cyc⟩ e

/-- The address streams that a STREAM of n rows claims, each for the cycles of its steps (R155). -/
def streamClaims (pd : W64) (as_ n : Nat) (c : Cur) (e : Engine) : Engine :=
  claimIf (decide (2 ≤ pdDrain pd)) (pdOutAs pd) (c.cyc + 73) (c.cyc + 72 + n) c.pc <|
  claimIf (decide (pdDrain pd ≠ 3)) (pdAccAs pd) (c.cyc + 71) (c.cyc + 70 + n) c.pc <|
  claimIf (decide (pdScaleS pd ≠ 0)) (pdSscaleAs pd) (c.cyc - 4) (c.cyc + n - 1) c.pc <|
  claimIf true as_ c.cyc (c.cyc + n - 1) c.pc e

/-- The rows of a STREAM: all reads, then the accumulator and output steps (R70). -/
def streamRows (k : StreamCtx) (e : Engine) : Engine :=
  let q := (List.range k.n).foldl (readRow k) (e, [], [])
  (List.range k.n).foldl (streamRow k q.2.1 q.2.2) q.1

/-- STREAM (R56 to R60, R147 to R149) once the sets are as the operation finds them. -/
def streamFrom (own : Owners) (c : Cur) (e : Engine) : Engine :=
  match e.run with
  | none => e
  | some r =>
    let x := wArray c.word
    let pd := r.img.pds.getD (bitsAt x 4 4) 0
    let as_ := bitsAt x 8 4
    let n := bitsAt x 12 16 + 1
    let set := settledSet e e.active
    let rc := rcOf r.img c.word
    let e1 := streamChecks r pd as_ set rc c e
    if (newFails e e1).any (fun f => decide (f.status = St.ILLEGAL_FIELD)) then e1
    else
      (streamRows ⟨own, c.pc, c.cyc, pd, as_, n, set, rc⟩ (streamClaims pd as_ n c e1)).withRun fun r =>
        { r with feedEnd := c.cyc + n, feedPd := some pd }

/-- STREAM, with `swap` for SWAP_STREAM. -/
def opStreamWith (swap : Bool) (own : Owners) (e : Engine) (c : Cur) : Engine :=
  streamFrom own c (if swap then swapSets e c else e)

def opStream (own : Owners) (e : Engine) (c : Cur) : Engine :=
  opStreamWith false own e c

def opSwapStream (own : Owners) (e : Engine) (c : Cur) : Engine :=
  opStreamWith true own e c

end Sys2Proof.Machine
end

