-- ==== Sys2Proof/Machine/EngVector.lean ====
section
/-! DEFINITION. The vector slot (Table 05-4): one operation per constructor over the shared issue of
R62 and R63, with the latencies of Table 02-8 and the arithmetic of R96, R97, R106, R110, R113 and R114. -/

namespace Sys2Proof.Machine

/-- A vector operation: the pipeline check (R63), the sentinel's reads and writes (R70), and the results
landing `lat - 1` cycles after issue (readable from issue + `lat`). `dsts` are the registers written. -/
def vecOp (lat itv : Nat) (srcs dsts : List Nat) (f : Engine → List (List W32)) (e : Engine) (c : Cur) : Engine :=
  match e.run with
  | none => e
  | some r =>
    let t := c.cyc
    let e1 := if t < r.vecFree then e.fail ⟨t, St.PIPE_BUSY, 1, c.pc, 4, 0, r.vecFree, t⟩ else e
    let e2 := foldKeys (fun e v => onRead e (vregKey v) t c.pc 1) e1 srcs
    let e3 := foldKeys (fun e v => onWrite e (vregKey v) t (t + lat - 1) c.pc 1) e2 dsts
    let vals := f (e3.view t)
    let e4 := (List.zip dsts vals).foldl (fun e q => e.addLanding (t + lat - 1) (.vreg q.1 q.2)) e3
    e4.withRun fun r => { r with vecFree := t + itv }

/-- Operand fields of the word's vector slot. -/
def opD (c : Cur) : Nat := vD (wVector c.word)
def opA (c : Cur) : Nat := vA (wVector c.word)
def opB (c : Cur) : Nat := vB (wVector c.word)
def opVm (e : Engine) (c : Cur) : W32 := e.img.vms.getD (vM (wVector c.word)) 0
def opRnd (e : Engine) (c : Cur) : Rnd := rndOf (vmRmode (opVm e c)) 0 0

/-- Lane-wise binary operation on VA and VB. -/
def lanes2 (c : Cur) (f : Nat → Nat → Nat) (e : Engine) : List (List W32) :=
  [List.zipWith (fun a b => BitVec.ofNat 32 (f a.toNat b.toNat)) (e.vregLanes (opA c)) (e.vregLanes (opB c))]

def lanes2w (c : Cur) (f : W32 → W32 → W32) (e : Engine) : List (List W32) :=
  [List.zipWith f (e.vregLanes (opA c)) (e.vregLanes (opB c))]

def lanes1 (c : Cur) (f : W32 → W32) (e : Engine) : List (List W32) := [(e.vregLanes (opA c)).map f]

/-- The 64 FP64 values of a register pair: low words in the even register, high words in the odd one. -/
def pairLanes (e : Engine) (r : Nat) : List Nat :=
  List.zipWith (fun a b => a.toNat + b.toNat * 2 ^ 32) (e.vregLanes r) (e.vregLanes (r + 1))

def splitPair (xs : List Nat) : List (List W32) :=
  [xs.map fun x => BitVec.ofNat 32 x, xs.map fun x => BitVec.ofNat 32 (x / 2 ^ 32)]

def pairOf (r : Nat) : List Nat := [r, r + 1]

/-- FP32 group of Table 02-8: latency 6. -/
def fp32Op (f : Nat → Nat → Nat) (e : Engine) (c : Cur) : Engine :=
  vecOp 6 1 [opA c, opB c] [opD c] (lanes2 c f) e c

/-- FADD (R113, R150). -/
def opFadd (e : Engine) (c : Cur) : Engine :=
  fp32Op (fp32.addOp (opRnd e c)) e c

/-- FSUB. -/
def opFsub (e : Engine) (c : Cur) : Engine :=
  fp32Op (fp32.subOp (opRnd e c)) e c

/-- FMUL. -/
def opFmul (e : Engine) (c : Cur) : Engine :=
  fp32Op (fp32.mulOp (opRnd e c)) e c

/-- FMA: VD + VA × VB, rounded once. -/
def opFma (e : Engine) (c : Cur) : Engine :=
  vecOp 6 1 [opA c, opB c, opD c] [opD c] (fun v =>
    [(List.range 64).map fun l => BitVec.ofNat 32 (fp32.fmaOp (opRnd e c) (v.vregWord (opD c) l).toNat
      (v.vregWord (opA c) l).toNat (v.vregWord (opB c) l).toNat)]) e c

/-- FMIN. -/
def opFmin (e : Engine) (c : Cur) : Engine :=
  fp32Op fp32.minOp e c

/-- FMAX. -/
def opFmax (e : Engine) (c : Cur) : Engine :=
  fp32Op fp32.maxOp e c

/-- FCMP under VM.CMP: 1 or 0 per lane. -/
def opFcmp (e : Engine) (c : Cur) : Engine :=
  fp32Op (fp32.cmpOp (vmCmp (opVm e c))) e c

/-- FP64 group of Table 02-8: latency 8, issue interval 4, register pairs. -/
def fp64Op (f : Nat → Nat → Nat) (e : Engine) (c : Cur) : Engine :=
  vecOp 8 4 (pairOf (opA c) ++ pairOf (opB c)) (pairOf (opD c))
    (fun v => splitPair (List.zipWith f (pairLanes v (opA c)) (pairLanes v (opB c)))) e c

/-- DADD. -/
def opDadd (e : Engine) (c : Cur) : Engine :=
  fp64Op (fp64.addOp (opRnd e c)) e c

/-- DMUL. -/
def opDmul (e : Engine) (c : Cur) : Engine :=
  fp64Op (fp64.mulOp (opRnd e c)) e c

/-- DFMA: VD + VA × VB on pairs, rounded once. -/
def opDfma (e : Engine) (c : Cur) : Engine :=
  vecOp 8 4 (pairOf (opA c) ++ pairOf (opB c) ++ pairOf (opD c)) (pairOf (opD c)) (fun v =>
    splitPair (List.zipWith (fun z q => fp64.fmaOp (opRnd e c) z q.1 q.2) (pairLanes v (opD c))
      (List.zip (pairLanes v (opA c)) (pairLanes v (opB c))))) e c

/-- exp, log and rsqrt group: latency 20, issue interval 4; the rounding mode has no effect (R114). -/
def transOp (f : W32 → W32) (e : Engine) (c : Cur) : Engine := vecOp 20 4 [opA c] [opD c] (lanes1 c f) e c

/-- EXP (R114). -/
def opExp (e : Engine) (c : Cur) : Engine :=
  transOp Config.fpExp e c

/-- LOG (R114). -/
def opLog (e : Engine) (c : Cur) : Engine :=
  transOp Config.fpLog e c

/-- RSQRT (R114). -/
def opRsqrt (e : Engine) (c : Cur) : Engine :=
  transOp Config.fpRsqrt e c

/-- INT32, logic, shift and select group: latency 3. -/
def intOp (f : W32 → W32 → W32) (e : Engine) (c : Cur) : Engine :=
  vecOp 3 1 [opA c, opB c] [opD c] (lanes2w c f) e c

/-- A shift by VB's lane; for 32 or more the result is the part's own. -/
def shiftLane (k : Nat) (f : W32 → Nat → W32) (a b : W32) : W32 :=
  if b.toNat < 32 then f a b.toNat else Config.shiftWide k a b

/-- IADD. -/
def opIadd (e : Engine) (c : Cur) : Engine :=
  intOp (fun a b => a + b) e c

/-- ISUB. -/
def opIsub (e : Engine) (c : Cur) : Engine :=
  intOp (fun a b => a - b) e c

/-- IMUL keeps the low 32 bits. -/
def opImul (e : Engine) (c : Cur) : Engine :=
  intOp (fun a b => a * b) e c

/-- AND. -/
def opAnd (e : Engine) (c : Cur) : Engine :=
  intOp (fun a b => a &&& b) e c

/-- OR. -/
def opOr (e : Engine) (c : Cur) : Engine :=
  intOp (fun a b => a ||| b) e c

/-- XOR. -/
def opXor (e : Engine) (c : Cur) : Engine :=
  intOp (fun a b => a ^^^ b) e c

/-- SHL. -/
def opShl (e : Engine) (c : Cur) : Engine :=
  intOp (shiftLane 0 fun a n => a <<< n) e c

/-- SHR, logical. -/
def opShr (e : Engine) (c : Cur) : Engine :=
  intOp (shiftLane 1 fun a n => a >>> n) e c

/-- SRA, arithmetic. -/
def opSra (e : Engine) (c : Cur) : Engine :=
  intOp (shiftLane 2 fun a n => a.sshiftRight n) e c

/-- SEL: VD ≠ 0 ? VA : VB. -/
def opSel (e : Engine) (c : Cur) : Engine :=
  vecOp 3 1 [opA c, opB c, opD c] [opD c] (fun v =>
    [(List.range 64).map fun l =>
      if v.vregWord (opD c) l ≠ 0 then v.vregWord (opA c) l else v.vregWord (opB c) l]) e c

/-- IMIN, signed. -/
def opImin (e : Engine) (c : Cur) : Engine :=
  intOp (fun a b => if b.slt a then b else a) e c

/-- IMAX, signed. -/
def opImax (e : Engine) (c : Cur) : Engine :=
  intOp (fun a b => if a.slt b then b else a) e c

/-- The sixteen EXA128 values of a register: value k in lanes 4k to 4k + 3 (R86). -/
def exaLanes (e : Engine) (r : Nat) : List Exa :=
  (List.range 16).map fun k =>
    exaOfBits (bytesNat ((List.range 4).flatMap fun i => natBytes 4 (e.vregWord r (4 * k + i)).toNat))

def exaWords (xs : List Exa) : List W32 :=
  xs.flatMap fun x => (List.range 4).map fun i => BitVec.ofNat 32 (exaBits x >>> (32 * i))

/-- EXADD: sixteen EXA128 sums, without a flag (R106, R109). -/
def opExadd (e : Engine) (c : Cur) : Engine :=
  vecOp 3 1 [opA c, opB c] [opD c] (fun v =>
    [exaWords (List.zipWith exaAdd (exaLanes v (opA c)) (exaLanes v (opB c)))]) e c

/-- One converted element of CVT: a narrow element lies in the low bits of its lane. -/
def cvtLane (vm : W32) (draw x : Nat) : Nat :=
  (fmtOf (vmDst vm)).encode (rndOf (vmRmode vm) (vmSrBits vm) draw) (vmSat vm)
    ((fmtOf (vmSrc vm)).decode (x % 2 ^ fmtWidth (vmSrc vm)))

/-- CVT (R97 to R99, R150, R151): stochastic with RVEC, then 17 to 24 bits take two cycles. -/
def opCvt (e : Engine) (c : Cur) : Engine :=
  let vm := opVm e c
  let sr := decide (vmRmode vm = 4)
  let b := vmSrBits vm
  let wide := sr && decide (17 ≤ b)
  let rc := rcOf e.img c.word
  let draws := if sr then rngDraws e rc 0 64 b else List.replicate 64 0
  let srcs := if vmSrc vm = 0xF then pairOf (opA c) else [opA c]
  let dsts := if vmDst vm = 0xF then pairOf (opD c) else [opD c]
  let f (v : Engine) : List (List W32) :=
    let xs := if vmSrc vm = 0xF then pairLanes v (opA c) else (v.vregLanes (opA c)).map BitVec.toNat
    let ys := List.zipWith (fun r x => cvtLane vm r x) draws xs
    if vmDst vm = 0xF then splitPair ys else [ys.map fun y => BitVec.ofNat 32 y]
  let e1 := if sr && !rngAligned e rc then e.reject c.cyc St.ILLEGAL_FIELD 1 c.pc else e
  vecOp (if wide then 5 else 4) (if wide then 2 else 1) srcs dsts f e1 c

/-- Cross-lane reductions: latency 10, the result in every lane of VD. -/
def reduceOp (f : List W32 → W32) (e : Engine) (c : Cur) : Engine :=
  vecOp 10 1 [opA c] [opD c] (fun v => [List.replicate 64 (f (v.vregLanes (opA c)))]) e c

def foldLanes (f : Nat → Nat → Nat) (xs : List W32) : W32 :=
  match xs with
  | [] => 0
  | x :: r => BitVec.ofNat 32 (r.foldl (fun a b => f a b.toNat) x.toNat)

/-- RSUM: the FP32 sum of the lanes; the spec states no order of addition. -/
def opRsum (e : Engine) (c : Cur) : Engine :=
  reduceOp (Config.rsum (vmRmode (opVm e c))) e c

/-- RMAX. -/
def opRmax (e : Engine) (c : Cur) : Engine :=
  reduceOp (foldLanes fp32.maxOp) e c

/-- RMIN. -/
def opRmin (e : Engine) (c : Cur) : Engine :=
  reduceOp (foldLanes fp32.minOp) e c

/-- EXCVT (R110, R150): the EXA128 row named by stream VA[3:0] into lanes 0 to 31 of VD, with B from
VM.WBASE and G_a, G_b from lanes 0 and 1 of VB. A masked step loads zeros, as ALD's does. (log entry 20: DEDUCED) -/
def opExcvt (own : Owners) (e : Engine) (c : Cur) : Engine :=
  let vm := opVm e c
  let t := c.cyc
  let as_ := opA c % 16
  let e1 := needKind e as_ 1 c.pc t [1]
  let e2 := claimStream e1 as_ t t 1 c.pc false
  let st := streamStep own e2 as_ t c.pc t
  let row := st.2.getD 0
  let bad := decide (256 ≤ row)
  let e3 := if bad then st.1.reject (formCycle st.1 as_ t) St.OUT_OF_RANGE 1 c.pc else st.1
  let keys := if bad || st.2.isNone then [] else (List.range 4).map fun i => accKey (4 * row + i)
  let e4 := foldKeys (fun e k => onRead e k t c.pc 1) e3 keys
  let dsts := if vmDst vm = 0xF then pairOf (opD c) else [opD c]
  let f (v : Engine) : List (List W32) :=
    let g (l : Nat) : Num := fp32.decode (v.vregWord (opB c) l).toNat
    let cell (col : Nat) : Exa :=
      if st.2.isNone then some 0
      else exaOfBits (bytesNat ((List.range 4).flatMap fun i =>
        natBytes 4 (mget zeroWord v.acc ((4 * row + i) * 32 + col)).toNat))
    let ys := (List.range 32).map fun col =>
      exaEncode (vmDst vm) (rndOf (vmRmode vm) 0 0) (vmSat vm) (exaNum (cell col) (vmWbase vm) (g 0) (g 1))
    if vmDst vm = 0xF then splitPair ys else [ys.map fun y => BitVec.ofNat 32 y]
  if (newFails e e4).any (fun x => decide (St.cls x.status = 3)) then e4
  else vecOp 12 2 [opB c] dsts f e4 c

/-- RBITS: 64 raw 32-bit units, readable from issue + 3 (R327). -/
def opRbits (e : Engine) (c : Cur) : Engine :=
  let rc := rcOf e.img c.word
  let e1 := if rngAligned e rc then e else e.reject c.cyc St.ILLEGAL_FIELD 1 c.pc
  vecOp 3 2 [] [opD c] (fun _ => [(rngDraws e rc 0 64 32).map fun y => BitVec.ofNat 32 y]) e1 c

end Sys2Proof.Machine
end

