-- ==== Sys2Proof/Machine/EngSlots.lean ====
section
/-! DEFINITION. The load/store, address-generation, random/misc and control slots (Tables 05-6, 05-7, 05-10,
05-11; R144 to R146, R152 to R161). -/

namespace Sys2Proof.Machine

/-! ### Load/store slot -/

def lsV (c : Cur) : Nat := bitsAt (wLdst c.word) 4 6
def lsAs (c : Cur) : Nat := bitsAt (wLdst c.word) 10 4

/-- Lanes of 256 scratchpad bytes. -/
def lanesOf (bs : List Byte) : List W32 :=
  (List.range 64).map fun l => BitVec.ofNat 32 (bytesNat ((bs.drop (4 * l)).take 4))

/-- VLD: 256 bytes read in the issue cycle, readable at issue + 3 (Table 05-6); a masked step loads zeros. -/
def opVld (own : Owners) (e : Engine) (c : Cur) : Engine :=
  let t := c.cyc
  let as_ := lsAs c
  let e1 := claimStream (needKind e as_ 2 c.pc t [0]) as_ t t 2 c.pc false
  let st := streamStep own e1 as_ t c.pc t
  let wr (e : Engine) (ws : List W32) : Engine :=
    (onWrite e (vregKey (lsV c)) t (t + 2) c.pc 2).addLanding (t + 2) (.vreg (lsV c) ws)
  match st.2 with
  | none => wr st.1 (List.replicate 64 0)
  | some a =>
    let e2 := checkSpad st.1 (formCycle st.1 as_ t) 2 c.pc a 256 4
    if !spadOk a 256 4 then e2
    else
      let e3 := timedRead own e2 t 2 c.pc a 256
      wr e3 (lanesOf (readBytes (e3.view t).spad a 256))

/-- VST: V read at issue, lines land at issue + 1; a masked step writes nothing (R159). -/
def opVst (own : Owners) (e : Engine) (c : Cur) : Engine :=
  let t := c.cyc
  let as_ := lsAs c
  let e1 := claimStream (needKind e as_ 2 c.pc t [0]) as_ t t 2 c.pc false
  let e2 := onRead e1 (vregKey (lsV c)) t c.pc 2
  let st := streamStep own e2 as_ t c.pc t
  match st.2 with
  | none => st.1
  | some a =>
    let e3 := checkSpad st.1 (formCycle st.1 as_ t) 2 c.pc a 256 4
    if !spadOk a 256 4 then e3
    else
      let ws := (e3.view t).vregLanes (lsV c)
      (timedWrite own e3 t (t + 1) 2 c.pc a 256).addLanding (t + 1)
        (.spad a (ws.flatMap fun w => natBytes 4 w.toNat))

/-- ALD: two accumulator slots, V readable at issue + 2. -/
def opAld (own : Owners) (e : Engine) (c : Cur) : Engine :=
  let t := c.cyc
  let as_ := lsAs c
  let e1 := claimStream (needKind e as_ 2 c.pc t [1]) as_ t t 2 c.pc false
  let st := streamStep own e1 as_ t c.pc t
  let wr (e : Engine) (ws : List W32) : Engine :=
    (onWrite e (vregKey (lsV c)) t (t + 1) c.pc 2).addLanding (t + 1) (.vreg (lsV c) ws)
  match st.2 with
  | none => wr st.1 (List.replicate 64 0)
  | some a =>
    if 1024 < a + 2 then st.1.reject (formCycle st.1 as_ t) St.OUT_OF_RANGE 2 c.pc
    else
      let e2 := foldKeys (fun e k => onRead e k t c.pc 2) st.1 [accKey a, accKey (a + 1)]
      let v := e2.view t
      wr e2 (v.accLanes a ++ v.accLanes (a + 1))

/-- AST: two accumulator slots land at issue + 1. -/
def opAst (own : Owners) (e : Engine) (c : Cur) : Engine :=
  let t := c.cyc
  let as_ := lsAs c
  let e1 := claimStream (needKind e as_ 2 c.pc t [1]) as_ t t 2 c.pc false
  let e2 := onRead e1 (vregKey (lsV c)) t c.pc 2
  let st := streamStep own e2 as_ t c.pc t
  match st.2 with
  | none => st.1
  | some a =>
    if 1024 < a + 2 then st.1.reject (formCycle st.1 as_ t) St.OUT_OF_RANGE 2 c.pc
    else
      let ws := (st.1.view t).vregLanes (lsV c)
      let e3 := foldKeys (fun e k => onWrite e k t (t + 1) c.pc 2) st.1 [accKey a, accKey (a + 1)]
      (e3.addLanding (t + 1) (.acc a (ws.take 32))).addLanding (t + 1) (.acc (a + 1) (ws.drop 32))

/-- An asynchronous transfer issues (R153): LEN, kinds, ranges, bank ownership and its tag are checked in
the issue cycle; it then holds its scratchpad lines and its tag. `kd` and `ks` are the KINDs of its
destination and source. -/
def opXfer (kd ks : Nat) (own : Owners) (e : Engine) (c : Cur) : Engine :=
  match e.run with
  | none => e
  | some r =>
    let t := c.cyc
    let x := wLdst c.word
    let dst := e.stream (bitsAt x 4 4)
    let src := e.stream (bitsAt x 8 4)
    let tag := bitsAt x 12 3
    let len := (e.sreg (bitsAt x 15 4)).toNat
    let near := if kd = 0 then dst.baseAddr else src.baseAddr
    let banks := (touched 64 near len).map (· % 16)
    if len % 4 ≠ 0 ∨ 2 ^ 20 < len then e.reject t St.ILLEGAL_FIELD 2 c.pc
    else if dst.kind ≠ kd ∨ src.kind ≠ ks then e.reject t St.ILLEGAL_FIELD 2 c.pc
    else if len = 0 then e
    else if near % 4 ≠ 0 then e.reject t St.ILLEGAL_FIELD 2 c.pc
    else if 2 ^ 20 < near + len then e.reject t St.OUT_OF_RANGE 2 c.pc
    else if !banks.all (bankOwned own e.ctx) then e.reject t St.UNOWNED_BANK 2 c.pc
    else
      let busy := e.xfers.any fun y => decide (y.tag = tag)
      let e1 := if busy then e.fail ⟨t, St.TAG_BUSY, 2, c.pc, 8, tag, noCycle, t⟩ else e
      if busy || e1.doomed t then e1
      else
        let e2 := foldKeys (fun e k => onAsync e k t c.pc 2) e1 (touched 64 near len)
        let y : Xfer := ⟨tag, x % 16, src.baseAddr, dst.baseAddr,
          if kd = 3 then dst.device else src.device, len, t, e2.xfers.length, r.launch.ctx, r.launch.bay, r.prog⟩
        { e2 with xfers := e2.xfers ++ [y] }

/-- LFTR: loft to scratchpad. -/
def opLftr (own : Owners) (e : Engine) (c : Cur) : Engine := opXfer 0 2 own e c
/-- LFTW: scratchpad to loft. -/
def opLftw (own : Owners) (e : Engine) (c : Cur) : Engine := opXfer 2 0 own e c
/-- XPUT: scratchpad to a remote address. -/
def opXput (own : Owners) (e : Engine) (c : Cur) : Engine := opXfer 3 0 own e c
/-- XGET: remote address to scratchpad. -/
def opXget (own : Owners) (e : Engine) (c : Cur) : Engine := opXfer 0 3 own e c

/-! ### Address-generation slot -/

def agF (c : Cur) (lo w : Nat) : Nat := bitsAt (wAgen c.word) lo w

def Engine.setAgen (e : Engine) (a : AgenWrite) : Engine := e.withRun fun r => { r with agen := a }

/-- ASET, ABASE or ARST on a busy stream is a schedule fault (R155). -/
def streamFree (e : Engine) (i : Nat) (c : Cur) : Engine :=
  let s := e.stream i
  if c.cyc < s.busy then e.fail ⟨c.cyc, St.STREAM_BUSY, 3, c.pc, 7, i, s.busy, c.cyc⟩ else e

/-- The stream that descriptor `d` loads (Table 05-8), its counters at 0. -/
def streamOf (d : List W32) : AStream :=
  let w (i : Nat) : W32 := d.getD i 0
  let n (i lo k : Nat) : Nat := bitsAt (w i).toNat lo k
  let cnt (x : Nat) : Nat := if x = 0 then 65536 else x
  { kind := n 0 0 2, indirect := decide (n 0 2 1 = 1), idxDim := n 0 3 2, icount := n 0 8 24,
    base := w 1, stride0 := w 2, stride1 := w 3, stride2 := w 4, count0 := cnt (n 5 0 16),
    count1 := cnt (n 5 16 16), indexWord := w 6, istride := w 7, pos := 0, busy := 0, windows := [],
    line := none, lineCyc := 0 }

/-- ASET: loads a stream from a descriptor and resets its counters. -/
def opAset (e : Engine) (c : Cur) : Engine :=
  let i := agF c 4 4
  (streamFree e i c).setAgen (.stream i (streamOf (e.img.descs.getD (agF c 8 6) [])))

/-- ABASE: BASE := (BASE + S) mod 2^32. -/
def opAbase (e : Engine) (c : Cur) : Engine :=
  let i := agF c 4 4
  (streamFree e i c).setAgen (.base i ((e.stream i).base + e.sreg (agF c 8 4)))

/-- ARST: resets the counters. -/
def opArst (e : Engine) (c : Cur) : Engine :=
  let i := agF c 4 4
  (streamFree e i c).setAgen (.rewind i)

/-- The sign-extended 12-bit immediate. -/
def agImm (c : Cur) : W32 := (BitVec.ofNat 12 (agF c 8 12)).signExtend 32

def opSldi (e : Engine) (c : Cur) : Engine := e.setAgen (.sreg (agF c 4 4) (agImm c))
def opSaddi (e : Engine) (c : Cur) : Engine := e.setAgen (.sreg (agF c 4 4) (e.sreg (agF c 4 4) + agImm c))
def opSadd (e : Engine) (c : Cur) : Engine :=
  e.setAgen (.sreg (agF c 4 4) (e.sreg (agF c 4 4) + e.sreg (agF c 8 4)))
def opSshl (e : Engine) (c : Cur) : Engine := e.setAgen (.sreg (agF c 4 4) (e.sreg (agF c 4 4) <<< agF c 8 5))

/-! ### Random/misc slot (R64, R65, R160) -/

/-- A consumer takes the random lane for the cycles `[a, b]`; overlapping windows are LANE_BUSY. -/
def claimLane (a b : Nat) (e : Engine) (c : Cur) : Engine :=
  match e.run with
  | none => e
  | some r =>
    let hit := r.lanes.filter fun w => decide (w.1 ≤ b) && decide (a ≤ w.2)
    let at_ := (hit.map fun w => max a w.1).foldl min b
    let free := (hit.map fun w => w.2 + 1).foldl max 0
    let e1 := if hit.isEmpty then e else e.fail ⟨at_, St.LANE_BUSY, 4, c.pc, 5, 0, free, at_⟩
    { (e1.withRun fun r => { r with lanes := r.lanes ++ [(a, b)] }) with
      outs := e1.outs ++ [.rng (8 * (b + 1 - a))] }

/-- RDRAIN: the drain of the word's STREAM, cycles t0 + 70 to t0 + 70 + N - 1. -/
def opRdrain (e : Engine) (c : Cur) : Engine :=
  claimLane (c.cyc + 70) (c.cyc + 70 + bitsAt (wArray c.word) 12 16) e c

/-- RVEC: the word's CVT, one cycle, or two for 17 to 24 stochastic bits (Table 02-9). -/
def opRvec (e : Engine) (c : Cur) : Engine :=
  let vm := opVm e c
  claimLane c.cyc (if vmRmode vm = 4 ∧ 17 ≤ vmSrBits vm then c.cyc + 1 else c.cyc) e c

/-- RRAW: the word's RBITS, two cycles. -/
def opRraw (e : Engine) (c : Cur) : Engine := claimLane c.cyc (c.cyc + 1) e c

/-! ### Control slot (R143 to R146, R161) -/

def ctF (c : Cur) (lo w : Nat) : Nat := bitsAt (wCtrl c.word) lo w

/-- The greatest READY or HOLD of the program (R71, R145). -/
def lastTag (e : Engine) : Nat × Nat :=
  e.tags.foldl (fun b q => if b.1 < max q.2.ready q.2.hold then (max q.2.ready q.2.hold, q.1) else b) (0, 0)

/-- END (R71): the check of every READY and HOLD, which no debug stall hides (R74); the program ends. The
launch takes the status of its first failed transfer (R153), else OK, or OK_FLAGS. -/
def opEnd (e : Engine) (c : Cur) : Engine :=
  let m := lastTag e
  let l := locOf m.2
  if c.cyc < m.1 then
    settleFails (e.fail ⟨c.cyc, St.END_EARLY, 5, c.pc, l.1, l.2, m.1, c.cyc⟩) (c.cyc + 1)
  else
    let e1 := settleFails (settleBanks e (c.cyc + 1) c.pc 5) (c.cyc + 1)
    match e1.run with
    | none => e1
    | some r =>
      let last := (e1.flight.map fun x => x.cyc).foldl max 0
      let e2 := e1.commitTo (last + 3)
      let x := r.xfail.getD (0, St.OK, 0, 0)
      { e2 with run := none, outs := e2.outs ++ [.scyc c.cyc, .busy 1, .ended x.2.1 x.2.2.1 x.2.2.2] }

/-- SKIP adds to the next word's gap; the sequencer reads it from the word (R143). -/
def opSkip (e : Engine) (_c : Cur) : Engine := e

/-- LOOP: repeats the next L words S times (R146). -/
def opLoop (e : Engine) (c : Cur) : Engine :=
  match e.run with
  | none => e
  | some r =>
    let n := (e.sreg (ctF c 4 4)).toNat
    let l := ctF c 8 8 + 1
    if n = 0 ∨ 4 ≤ r.loops.length ∨ r.img.words.length < c.pc + 1 + l then
      e.reject c.cyc St.ILLEGAL_FIELD 5 c.pc
    else e.withRun fun r => { r with loops := ⟨c.pc + 1, c.pc + l, n⟩ :: r.loops }

/-- The condition of a held wait (R144): the named tags are free, or the event flag is set. -/
def waitHolds (e : Engine) (w : Wait) : Bool :=
  if w.isTag then !(e.xfers.any fun x => decide (bitsAt w.mask x.tag 1 = 1))
  else decide (bitsAt e.evFlags.toNat w.mask 1 = 1)

/-- The first cycle from `t` in which the program is quiet (R145). -/
def quietCycle (e : Engine) (t : Nat) : Nat :=
  let r := e.run.map fun r => max (max r.vecFree r.feedEnd) (max r.loadEnd
    ((r.lanes.map fun w => w.2 + 1).foldl max 0))
  max t (max (lastTag e).1 (r.getD 0))

def clearFlag (e : Engine) (w : Wait) : Engine :=
  if w.isTag then e
  else { e with evFlags := e.evFlags &&& ~~~((1 : BitVec 256) <<< w.mask) }

/-- WAITT and WAITE: a condition that holds at issue does not hold the sequencer (R144, R145). -/
def opWait (isTag : Bool) (e : Engine) (c : Cur) : Engine :=
  let w : Wait := ⟨isTag, ctF c 4 8, decide (ctF c 12 1 = 1)⟩
  if waitHolds e w && (!w.quiesce || decide (quietCycle e c.cyc = c.cyc)) then
    (clearFlag e w).withRun fun r => { r with release := some c.cyc }
  else e.withRun fun r => { r with wait := some w }

def opWaitt (e : Engine) (c : Cur) : Engine := opWait true e c
def opWaite (e : Engine) (c : Cur) : Engine := opWait false e c

/-- SIGE: posts an event to the command processors (R161, R185). -/
def opSige (e : Engine) (c : Cur) : Engine :=
  if e.doomed c.cyc then e else { e with outs := e.outs ++ [.sige (ctF c 4 8) c.cyc] }

/-- After a wait operation the sequencer moves on unless it is held. -/
def waitStep (isTag : Bool) (op : Nat) (e : Engine) : Engine :=
  match e.issuing 5 op with
  | none => e
  | some c =>
    let e1 := opWait isTag e c
    match e1.run with
    | none => e1
    | some r => if r.wait.isSome then e1 else advance e1

/-- A held wait releases once its condition holds, `n` cycles after it issued, or later when QUIESCE
says so; the next word counts from the release (R144, R145). -/
def waitRelease (n : Nat) (e : Engine) : Engine :=
  match e.run with
  | none => e
  | some r =>
    match r.wait, r.cur with
    | some w, some c =>
      if waitHolds e w then
        let t := if w.quiesce then quietCycle e (c.cyc + n) else c.cyc + n
        let e1 := clearFlag e w
        let e2 := { (e1.withRun fun r => { r with wait := none, release := some t, cur := some { c with cyc := t } })
          with outs := e1.outs ++ [.busy (t - c.cyc)] }
        advance e2
      else e
    | _, _ => e

end Sys2Proof.Machine
end

