-- ==== Sys2Proof/Machine/Crypto.lean ====
section
/-! DEFINITION. The cryptographic functions of the spec by the standards it names: AES-256 (FIPS 197) in GCM
(SP 800-38D) for R363 and R401, SHA-384 (FIPS 180-4), HMAC, HKDF (RFC 5869), ECDH and ECDSA on P-384 (R394). -/

namespace Sys2Proof.Machine

/-! ### AES-256 -/

/-- Key schedule words of AES-256: eight words are kept, and each step makes the next eight. -/
def aes256Next (rcon : Nat) (k : List Nat) : List Nat :=
  let w (i : Nat) : List Nat := (k.drop (4 * i)).take 4
  let last := w 7
  let t := [sbox (last.getD 1 0) ^^^ rcon, sbox (last.getD 2 0), sbox (last.getD 3 0), sbox (last.getD 0 0)]
  let w0 := xorBytes (w 0) t
  let w1 := xorBytes (w 1) w0
  let w2 := xorBytes (w 2) w1
  let w3 := xorBytes (w 3) w2
  let w4 := xorBytes (w 4) (w3.map sbox)
  let w5 := xorBytes (w 5) w4
  let w6 := xorBytes (w 6) w5
  let w7 := xorBytes (w 7) w6
  w0 ++ w1 ++ w2 ++ w3 ++ w4 ++ w5 ++ w6 ++ w7

/-- Two rounds with each expanded key pair; the fourteenth has no MixColumns. -/
def aes256Rounds (rcons : List Nat) (key st : List Nat) : List Nat :=
  let a := xorBytes (aesMix (aesSubShift st)) (key.drop 16)
  match rcons with
  | [] => a
  | rc :: rest =>
    let key' := aes256Next rc key
    let t := aesSubShift a
    if rest.isEmpty then xorBytes t (key'.take 16)
    else aes256Rounds rest key' (xorBytes (aesMix t) (key'.take 16))

def aes256 (key block : List Nat) : List Nat :=
  aes256Rounds [0x01, 0x02, 0x04, 0x08, 0x10, 0x20, 0x40] key (xorBytes block (key.take 16))

/-! ### GCM -/

/-- Multiplication in GF(2^128) with GCM's bit order. -/
def gfMulFuel (fuel x z v : Nat) : Nat :=
  match fuel with
  | 0 => z
  | n + 1 =>
    let z' := if x / 2 ^ n % 2 = 1 then z ^^^ v else z
    let v' := if v % 2 = 1 then (v / 2) ^^^ (0xE1 * 2 ^ 120) else v / 2
    gfMulFuel n x z' v'

def gfMul (x y : Nat) : Nat := gfMulFuel 128 x 0 y

/-- Byte blocks of 16, the last one padded with zeros. -/
def blocks16 (fuel : Nat) (bs : List Nat) : List (List Nat) :=
  match fuel with
  | 0 => []
  | n + 1 =>
    match bs with
    | [] => []
    | _ => (bs.take 16 ++ List.replicate (16 - min 16 bs.length) 0) :: blocks16 n (bs.drop 16)

def ghash (h : Nat) (bs : List (List Nat)) : Nat := bs.foldl (fun y b => gfMul (y ^^^ ofBytesBE b) h) 0

/-- The CTR keystream from counter block j0 + 1 on, over a message. -/
def gcmCtr (key : List Nat) (iv : List Nat) (bs : List Nat) : List Nat :=
  let n := (bs.length + 15) / 16
  xorBytes bs ((List.range n).flatMap fun i => aes256 key (iv ++ bytesBE 4 (i + 2)))

def gcmTag (key iv ad ct : List Nat) : Nat :=
  let h := ofBytesBE (aes256 key (List.replicate 16 0))
  let s := ghash h (blocks16 (ad.length + 1) ad ++ blocks16 (ct.length + 1) ct ++
    [bytesBE 8 (8 * ad.length) ++ bytesBE 8 (8 * ct.length)])
  s ^^^ ofBytesBE (aes256 key (iv ++ [0, 0, 0, 1]))

/-- Sealing with a 96-bit IV: ciphertext and tag. -/
def gcmSeal (key iv ad pt : List Nat) : List Nat × Nat :=
  let ct := gcmCtr key iv pt
  (ct, gcmTag key iv ad ct)

/-- Opening: the plaintext when the tag verifies. -/
def gcmOpen (key iv ad ct : List Nat) (tag : Nat) : Option (List Nat) :=
  if gcmTag key iv ad ct = tag then some (gcmCtr key iv ct) else none

/-! ### SHA-384 -/

/-- Round constants: the fractional parts of the cube roots of the first 80 primes. -/
def sha512K0 : List Nat :=
  [0x428A2F98D728AE22, 0x7137449123EF65CD, 0xB5C0FBCFEC4D3B2F, 0xE9B5DBA58189DBBC, 0x3956C25BF348B538,
   0x59F111F1B605D019, 0x923F82A4AF194F9B, 0xAB1C5ED5DA6D8118, 0xD807AA98A3030242, 0x12835B0145706FBE,
   0x243185BE4EE4B28C, 0x550C7DC3D5FFB4E2, 0x72BE5D74F27B896F, 0x80DEB1FE3B1696B1, 0x9BDC06A725C71235,
   0xC19BF174CF692694, 0xE49B69C19EF14AD2, 0xEFBE4786384F25E3, 0x0FC19DC68B8CD5B5, 0x240CA1CC77AC9C65,
   0x2DE92C6F592B0275, 0x4A7484AA6EA6E483, 0x5CB0A9DCBD41FBD4, 0x76F988DA831153B5, 0x983E5152EE66DFAB,
   0xA831C66D2DB43210, 0xB00327C898FB213F, 0xBF597FC7BEEF0EE4, 0xC6E00BF33DA88FC2, 0xD5A79147930AA725,
   0x06CA6351E003826F, 0x142929670A0E6E70, 0x27B70A8546D22FFC, 0x2E1B21385C26C926, 0x4D2C6DFC5AC42AED,
   0x53380D139D95B3DF, 0x650A73548BAF63DE, 0x766A0ABB3C77B2A8, 0x81C2C92E47EDAEE6, 0x92722C851482353B]

def sha512K1 : List Nat :=
  [0xA2BFE8A14CF10364, 0xA81A664BBC423001, 0xC24B8B70D0F89791, 0xC76C51A30654BE30, 0xD192E819D6EF5218,
   0xD69906245565A910, 0xF40E35855771202A, 0x106AA07032BBD1B8, 0x19A4C116B8D2D0C8, 0x1E376C085141AB53,
   0x2748774CDF8EEB99, 0x34B0BCB5E19B48A8, 0x391C0CB3C5C95A63, 0x4ED8AA4AE3418ACB, 0x5B9CCA4F7763E373,
   0x682E6FF3D6B2B8A3, 0x748F82EE5DEFB2FC, 0x78A5636F43172F60, 0x84C87814A1F0AB72, 0x8CC702081A6439EC,
   0x90BEFFFA23631E28, 0xA4506CEBDE82BDE9, 0xBEF9A3F7B2C67915, 0xC67178F2E372532B, 0xCA273ECEEA26619C,
   0xD186B8C721C0C207, 0xEADA7DD6CDE0EB1E, 0xF57D4F7FEE6ED178, 0x06F067AA72176FBA, 0x0A637DC5A2C898A6,
   0x113F9804BEF90DAE, 0x1B710B35131C471B, 0x28DB77F523047D84, 0x32CAAB7B40C72493, 0x3C9EBE0A15C9BEBC,
   0x431D67C49C100D4C, 0x4CC5D4BECB3E42B6, 0x597F299CFC657E2A, 0x5FCB6FAB3AD6FAEC, 0x6C44198C4A475817]

/-- Initial value of SHA-384: fractional parts of the square roots of the ninth to sixteenth primes. -/
def sha384Init : List Nat :=
  [0xCBBB9D5DC1059ED8, 0x629A292A367CD507, 0x9159015A3070DD17, 0x152FECD8F70E5939, 0x67332667FFC00B31,
   0x8EB44A8768581511, 0xDB0C2E0D64F98FA7, 0x47B5481DBEFA4FA4]

def rotr64 (x n : Nat) : Nat := x / 2 ^ n + x % 2 ^ n * 2 ^ (64 - n)

def shaExtend (fuel : Nat) (w : List Nat) : List Nat :=
  match fuel with
  | 0 => w
  | n + 1 =>
    -- `w` holds the last sixteen words, oldest first
    let a := w.getD 1 0
    let b := w.getD 14 0
    let s0 := rotr64 a 1 ^^^ rotr64 a 8 ^^^ (a / 2 ^ 7)
    let s1 := rotr64 b 19 ^^^ rotr64 b 61 ^^^ (b / 2 ^ 6)
    let x := (w.getD 0 0 + s0 + w.getD 9 0 + s1) % 2 ^ 64
    w.getD 0 0 :: shaExtend n (w.drop 1 ++ [x])

structure ShaVars where
  a : Nat
  b : Nat
  c : Nat
  d : Nat
  e : Nat
  f : Nat
  g : Nat
  h : Nat

def shaRound (v : ShaVars) (kw : Nat) : ShaVars :=
  let s1 := rotr64 v.e 14 ^^^ rotr64 v.e 18 ^^^ rotr64 v.e 41
  let ch := (v.e &&& v.f) ^^^ ((2 ^ 64 - 1 - v.e) &&& v.g)
  let t1 := v.h + s1 + ch + kw
  let s0 := rotr64 v.a 28 ^^^ rotr64 v.a 34 ^^^ rotr64 v.a 39
  let mj := (v.a &&& v.b) ^^^ (v.a &&& v.c) ^^^ (v.b &&& v.c)
  ⟨(t1 + s0 + mj) % 2 ^ 64, v.a, v.b, v.c, (v.d + t1) % 2 ^ 64, v.e, v.f, v.g⟩

def shaBlock (hs : List Nat) (blk : List Nat) : List Nat :=
  let w0 := (List.range 16).map fun i => ofBytesBE ((blk.drop (8 * i)).take 8)
  let ws := (shaExtend 64 w0).take 80
  let v0 : ShaVars := ⟨hs.getD 0 0, hs.getD 1 0, hs.getD 2 0, hs.getD 3 0, hs.getD 4 0, hs.getD 5 0, hs.getD 6 0, hs.getD 7 0⟩
  let v := (List.zipWith (fun k w => k + w) (sha512K0 ++ sha512K1) ws).foldl shaRound v0
  List.zipWith (fun x y => (x + y) % 2 ^ 64) hs [v.a, v.b, v.c, v.d, v.e, v.f, v.g, v.h]

def shaBlocks (fuel : Nat) (hs : List Nat) (bs : List Nat) : List Nat :=
  match fuel with
  | 0 => hs
  | n + 1 => if bs.isEmpty then hs else shaBlocks n (shaBlock hs (bs.take 128)) (bs.drop 128)

/-- SHA-384 of a byte string: 48 bytes. -/
def sha384 (bs : List Nat) : List Nat :=
  let n := bs.length
  let pad := (239 - n % 128) % 128
  let m := bs ++ 0x80 :: (List.replicate pad 0 ++ bytesBE 16 (8 * n))
  ((shaBlocks (m.length / 128) sha384Init m).take 6).flatMap fun x => bytesBE 8 x

def hmac384 (key msg : List Nat) : List Nat :=
  let k0 := if 128 < key.length then sha384 key else key
  let k := k0 ++ List.replicate (128 - k0.length) 0
  sha384 (k.map (fun b => b ^^^ 0x5C) ++ sha384 (k.map (fun b => b ^^^ 0x36) ++ msg))

/-- HKDF-Expand. -/
def hkdfExpand (prk info : List Nat) (len : Nat) : List Nat :=
  let n := (len + 47) / 48
  (((List.range n).foldl (fun q i =>
    let t := hmac384 prk (q.2 ++ info ++ [i + 1])
    (q.1 ++ t, t)) (([] : List Nat), ([] : List Nat))).1).take len

def hkdf (salt ikm info : List Nat) (len : Nat) : List Nat := hkdfExpand (hmac384 salt ikm) info len

/-! ### P-384 -/

def p384P : Nat := 2 ^ 384 - 2 ^ 128 - 2 ^ 96 + 2 ^ 32 - 1
def p384N : Nat := 0xFFFFFFFFFFFFFFFFFFFFFFFFFFFFFFFFFFFFFFFFFFFFFFFFC7634D81F4372DDF581A0DB248B0A77AECEC196ACCC52973
def p384B : Nat := 0xB3312FA7E23EE7E4988E056BE3F82D19181D9C6EFE8141120314088F5013875AC656398D8A2ED19D2A85C8EDD3EC2AEF
def p384Gx : Nat := 0xAA87CA22BE8B05378EB1C71EF320AD746E1D3B628BA79B9859F741E082542A385502F25DBF55296C3A545E3872760AB7
def p384Gy : Nat := 0x3617DE4A96262C6F5D9E98BF9292DC29F8F41DBD289A147CE9DA3113B5F0B8C00A60B1CE1D7E819D7A431D7C90EA0E5F

/-- x^e mod m, by squaring. -/
def powMod (fuel x e m : Nat) : Nat :=
  match fuel with
  | 0 => 1 % m
  | n + 1 =>
    if e = 0 then 1 % m
    else
      let h := powMod n (x * x % m) (e / 2) m
      if e % 2 = 1 then h * x % m else h

def invMod (x m : Nat) : Nat := powMod 385 (x % m) (m - 2) m

/-- A point of the curve; none is the point at infinity. -/
abbrev Point := Option (Nat × Nat)

def pointAdd (a b : Point) : Point :=
  match a, b with
  | none, q => q
  | p, none => p
  | some (x1, y1), some (x2, y2) =>
    let p := p384P
    if x1 = x2 ∧ (y1 + y2) % p = 0 then none
    else
      let l := if x1 = x2 then (3 * x1 * x1 + (p - 3)) * invMod (2 * y1) p % p
               else (y2 + (p - y1)) * invMod (x2 + (p - x1)) p % p
      let x3 := (l * l + (p - x1) + (p - x2)) % p
      some (x3, (l * (x1 + (p - x3)) + (p - y1)) % p)

def pointMul (fuel k : Nat) (a : Point) : Point :=
  match fuel with
  | 0 => none
  | n + 1 =>
    if k = 0 then none
    else
      let h := pointMul n (k / 2) (pointAdd a a)
      if k % 2 = 1 then pointAdd a h else h

def onCurve (x y : Nat) : Bool :=
  decide (x < p384P) && decide (y < p384P) &&
    decide (y * y % p384P = (x * x * x + (p384P - 3) * x + p384B) % p384P)

/-- A public key is X then Y, 48 bytes each, big-endian (R399). -/
abbrev PubKey := Nat × Nat

def pubBytes (k : PubKey) : List Nat := bytesBE 48 k.1 ++ bytesBE 48 k.2

def p384Public (d : Nat) : PubKey := (pointMul 385 d (some (p384Gx, p384Gy))).getD (0, 0)

/-- The shared x-coordinate, when the peer's key lies on the curve. -/
def p384Ecdh (d : Nat) (k : PubKey) : Option Nat :=
  if onCurve k.1 k.2 then (pointMul 385 d (some k)).map (·.1) else none

/-- An ECDSA signature r, s of a digest under a private key with a drawn nonce. -/
def ecdsaSign (d : Nat) (digest : List Nat) (nonce : Nat) : Nat × Nat :=
  let z := ofBytesBE digest
  let k := nonce % (p384N - 1) + 1
  let r := ((pointMul 385 k (some (p384Gx, p384Gy))).map (·.1)).getD 0 % p384N
  (r, invMod k p384N * ((z + r * d) % p384N) % p384N)

def ecdsaVerify (k : PubKey) (digest : List Nat) (r s : Nat) : Bool :=
  let z := ofBytesBE digest
  if !onCurve k.1 k.2 || decide (r = 0 ∨ p384N ≤ r ∨ s = 0 ∨ p384N ≤ s) then false
  else
    let w := invMod s p384N
    match pointAdd (pointMul 385 (z * w % p384N) (some (p384Gx, p384Gy))) (pointMul 385 (r * w % p384N) (some k)) with
    | none => false
    | some (x, _) => decide (x % p384N = r)

end Sys2Proof.Machine
end

