-- ==== Sys2Proof/Machine/FabOps.lean ====
section
/-! DEFINITION. The Vexoc fabric's shared operations: addresses, routing and detours (R340, R350 to R353), packet
headers and sealing (R348, R349, R363), slots (R355, R356), ports' queues (R366), and remote requests from their
start to their end (R357, R362, R404). -/

namespace Sys2Proof.Machine

/-! ### Addresses and ports -/

/-- Coordinate of a device address: axis 0 X, 1 Y, 2 Z (R341). -/
def coord (a axis : Nat) : Nat := bitsAt a (8 * axis) 8

def setCoord (a axis v : Nat) : Nat := putBits a (8 * axis) 8 v

def State.ownDev (s : State) : Nat := s.fld (Reg.FAB_DEV_ADDR 20) 0 24
def State.dimSize (s : State) (axis : Nat) : Nat := s.fld (Reg.FAB_DIMS 20) (8 * axis) 8 + 1
/-- EXPRESS_AXIS; 3 none. -/
def State.expressAxis (s : State) : Nat := s.fld (Reg.FAB_DIMS 20) 24 2

/-- Whether a device address lies inside FAB_DIMS (R350). -/
def State.devInDims (s : State) (a : Nat) : Bool :=
  [0, 1, 2].all fun x => decide (coord a x < s.dimSize x)

def portDie (p : Nat) : Nat := 20 + p / 2
def portIx (p : Nat) : Nat := p % 2
def State.portCfg (s : State) (p lo w : Nat) : Nat := s.fld (Reg.PORT_CFG (portDie p) (portIx p)) lo w
def State.portFld (s : State) (p lo w : Nat) : Nat := s.fld (Reg.PORT_STATUS (portDie p) (portIx p)) lo w
def State.setPortFld (s : State) (p lo w v : Nat) : State :=
  s.setFld (Reg.PORT_STATUS (portDie p) (portIx p)) lo w v

/-- Port states (Table 12-3). -/
def portDisabled : Nat := 0
def portDetect : Nat := 1
def portTrain : Nat := 2
def portAlign : Nat := 3
def portNegotiate : Nat := 4
def portActive : Nat := 5
def portRetrain : Nat := 6
def portFailed : Nat := 7

def State.portState (s : State) (p : Nat) : Nat := s.portFld p 0 3
def State.routeFail (s : State) (p : Nat) : Bool := decide (s.portFld p 3 1 = 1)

def portDefault : Nat → PortX := fun _ => PortX.zero
def State.portX (s : State) (p : Nat) : PortX := mget portDefault s.fab.ports p
def State.onFab (s : State) (f : FabState → FabState) : State := { s with fab := f s.fab }
def State.setPortX (s : State) (p : Nat) (x : PortX) : State :=
  s.onFab fun f => { f with ports := mset portDefault f.ports p x }

/-- A step of ±1 or ±2 along an axis, modulo its size. -/
def State.stepCoord (s : State) (a axis : Nat) (plus : Bool) (n : Nat) : Nat :=
  let z := s.dimSize axis
  setCoord a axis ((coord a axis + (if plus then n else z * n - n)) % z)

/-- The device that Table 12-1 cables to a port; none for an axis of size 1 or an unused express port. -/
def State.neighbour (s : State) (p : Nat) : Option Nat :=
  let plus := decide (p % 2 = 0)
  if p < 6 then if s.dimSize (p / 2) = 1 then none else some (s.stepCoord s.ownDev (p / 2) plus 1)
  else if s.expressAxis = 3 then none else some (s.stepCoord s.ownDev s.expressAxis plus 2)

/-! ### Routing (R350 to R352) -/

/-- Where a packet goes at this device. -/
inductive Route where
  | here
  | out (port vsub : Nat) (dl det : Bool)
  | unreachable (port : Nat)
  deriving DecidableEq, Repr

/-- The first axis on which two addresses differ. -/
def turnAxis (a b : Nat) : Option Nat := [0, 1, 2].find? fun x => decide (coord a x ≠ coord b x)

/-- Whether n steps from coordinate c cross the dateline of a ring of size z (R351). -/
def crosses (c z n : Nat) (plus : Bool) : Bool := if plus then decide (z ≤ c + n) else decide (c < n)

/-- The hop of a packet for `dst` that came in along `inAxis` with DL and DETOUR. -/
def State.route (s : State) (dst : Nat) (inAxis : Option Nat) (dl det : Bool) : Route :=
  let own := s.ownDev
  match turnAxis own dst with
  | none => .here
  | some x =>
    let z := s.dimSize x
    let c := coord own x
    let d := (coord dst x + z - c) % z
    let plus := decide (d ≤ z - d)
    let dist := if plus then d else z - d
    let stay := decide (inAxis = some x)
    let dl0 := stay && dl
    let det0 := stay && det
    let p := 2 * x + (if plus then 0 else 1)
    if s.routeFail p then
      let ep := if plus then 6 else 7
      if s.expressAxis = x ∧ 2 ≤ dist ∧ !det0 ∧ s.portState ep = portActive then
        .out ep 2 (dl0 || crosses c z 2 plus) true
      else .unreachable p
    else
      let dl' := dl0 || crosses c z 1 plus
      .out p (if dl' then 1 else 0) dl' det0

/-- Axis along which a packet arrives at a port. -/
def State.portAxis (s : State) (p : Nat) : Nat := if p < 6 then p / 2 else s.expressAxis

/-- The first valid alias of a destination (R353). -/
def State.alias_ (s : State) (dev : Nat) : Nat :=
  let hit := (List.range 16).find? fun a =>
    decide (s.fld (Reg.FAB_ALIAS 20 a) 48 1 = 1) && decide (s.fld (Reg.FAB_ALIAS 20 a) 0 24 = dev)
  match hit with
  | some a => s.fld (Reg.FAB_ALIAS 20 a) 24 24
  | none => dev

/-! ### Packets -/

/-- A packet header (Table 12-6). `lenOrKind` is word 3 [31:24]: the length of a READ_REQ in 32-byte units. -/
structure PktHdr where
  type : Nat
  cls : Nat
  vsub : Nat
  dl : Bool
  det : Bool
  last : Bool
  len : Nat
  dst : Nat
  dbay : Nat
  sbay : Nat
  src : Nat
  key : Nat
  job : Nat
  age : Nat
  units : Nat
  addr : Nat
  seq : Nat
  deriving DecidableEq, Repr

def b2n (b : Bool) (n : Nat) : Nat := if b then n else 0

/-- Words 0 to 6 and the low half of word 7, as 30 bytes. -/
def PktHdr.bytes30 (h : PktHdr) : List Nat :=
  wordBytes [h.type + h.cls * 16 + h.vsub * 64 + b2n h.dl 256 + b2n h.det 512 + b2n h.last 1024 + h.len * 2 ^ 19,
    h.dst + h.dbay * 2 ^ 24 + h.sbay * 2 ^ 28, h.src + h.key * 2 ^ 24, h.job + h.age * 2 ^ 16 + h.units * 2 ^ 24,
    h.addr % 2 ^ 32, h.addr / 2 ^ 32, h.seq % 2 ^ 32] ++ bytesLE 2 (h.seq / 2 ^ 32)

/-- The 32 bytes with the HCRC of R348. -/
def PktHdr.bytes (h : PktHdr) : List Nat := h.bytes30 ++ bytesLE 2 (crc16 h.bytes30)

/-- The header that 32 bytes hold, and whether its HCRC is right. -/
def parseHdr (bs : List Nat) : PktHdr × Bool :=
  let w := bytesToWords 8 bs
  let f (i lo n : Nat) : Nat := bitsAt (w.getD i 0) lo n
  (⟨f 0 0 4, f 0 4 2, f 0 6 2, decide (f 0 8 1 = 1), decide (f 0 9 1 = 1), decide (f 0 10 1 = 1), f 0 19 13,
    f 1 0 24, f 1 24 4, f 1 28 4, f 2 0 24, f 2 24 8, f 3 0 16, f 3 16 8, f 3 24 8, f 4 0 32 + f 5 0 32 * 2 ^ 32,
    f 6 0 32 + f 7 0 16 * 2 ^ 32⟩, decide (crc16 (bs.take 30) = f 7 16 16) && decide (32 ≤ bs.length))

/-- Additional data of R363: mutable fields and HCRC zero. -/
def PktHdr.ad (h : PktHdr) : List Nat :=
  { h with vsub := 0, dl := false, det := false, age := 0 }.bytes30 ++ [0, 0]

/-- IV of R363. -/
def PktHdr.iv (h : PktHdr) : List Nat := bytesBE 12 (h.src * 2 ^ 72 + h.sbay * 2 ^ 68 + h.seq)

/-! ### Job keys (R402, Table 14-5) -/

def keysDefault : Nat → BayKeys := fun _ => BayKeys.none
def State.bayKeys (s : State) (b : Nat) : BayKeys := mget keysDefault s.sec.keys b
def State.onSec (s : State) (f : SecState → SecState) : State := { s with sec := f s.sec }
def State.setBayKeys (s : State) (b : Nat) (k : BayKeys) : State :=
  s.onSec fun x => { x with keys := mset keysDefault x.keys b k }

/-- The bay's seal nonce lapses (R399). -/
def State.lapseNonce (s : State) (b : Nat) : State :=
  (s.setBayKeys b { s.bayKeys b with nonce := none }).setFld (Reg.BAY_SEC b) 2 1 0

def State.bayJob (s : State) (b : Nat) : Nat := s.fld (Reg.BAY_SEC b) 16 16
def State.txGen (s : State) (b : Nat) : Nat := s.fld (Reg.BAY_SEC b) 4 8

/-- ASCII bytes of a string. -/
def ascii (t : String) : List Nat := t.toList.map Char.toNat

/-- HKDF-Expand under the job master key (R402). -/
def BayKeys.expand (k : BayKeys) (info : List Nat) (n : Nat) : List Nat :=
  match k.jmk with
  | some j => hkdfExpand (hmac384 (List.replicate 48 0) j) info n
  | Option.none => []

/-- K_LINK(g): bytes 0 to 31 seal REQ and COLL, bytes 32 to 63 RSP. -/
def State.linkKey (s : State) (b g : Nat) (rsp : Bool) : List Nat :=
  let k := s.bayKeys b
  let all := k.expand (ascii "link" ++ bytesBE 2 (s.bayJob b) ++ bytesBE 4 k.epoch ++ [g]) 64
  if rsp then all.drop 32 else all.take 32

/-- A sealed packet: header, ciphertext, tag (R348, R363). -/
def State.sealPkt (s : State) (b : Nat) (h : PktHdr) (payload : List Nat) : List Byte :=
  let r := gcmSeal (s.linkKey b h.key (decide (h.cls = 1))) h.iv h.ad payload
  (h.bytes ++ r.1 ++ bytesBE 16 r.2).map (BitVec.ofNat 8)

/-- Opening of an arriving packet under the key its KEY_ID selects (R404, R405). -/
def State.openPkt (s : State) (b : Nat) (h : PktHdr) (bs : List Byte) : Option (List Nat) :=
  let ns := bs.map BitVec.toNat
  gcmOpen (s.linkKey b h.key (decide (h.cls = 1))) h.iv h.ad ((ns.drop 32).take h.len)
    (ofBytesBE ((ns.drop (32 + h.len)).take 16))

/-- A packet with its mutable fields changed, its HCRC recomputed (R349). -/
def rehead (h : PktHdr) (bs : List Byte) : List Byte := h.bytes.map (BitVec.ofNat 8) ++ bs.drop 32

/-! ### Slots and sending -/

/-- The job owns a slot of the port (R355). -/
def State.ownsSlot (s : State) (p job : Nat) : Bool :=
  (List.range 64).any fun i =>
    let v := s.reg (Reg.SLOT (portDie p) (portIx p) i)
    decide (bitsAt v 16 1 = 1) && decide (bitsAt v 0 16 = job)

/-- Flits that a packet's bytes take (R347: slots of 124 bytes). -/
def flitsOf (bs : List Byte) : Nat := (bs.length + 123) / 124

/-- A packet leaves on an ACTIVE port, kept for replay until it is acknowledged; it waits in the port's queue
while the link is lost (R364, R366). -/
def State.portPut (s : State) (p : Nat) (bs : List Byte) : State :=
  let x := s.portX p
  if s.portState p = portActive then
    let tx := (x.tx + flitsOf bs) % 4096
    (s.setPortX p { x with tx := tx, retry := x.retry ++ [(tx, bs)] }).emit (.fabric p bs)
  else s.setPortX p { x with held := x.held ++ [bs] }

/-! ### Remote requests (R357) -/

/-- Status codes of class 0x05 carry the device and the port in DETAIL0 (R372); class 0x06 the peer (R422). -/
def fabDetail0 (st dev dbay port : Nat) : Nat :=
  if St.cls st = 5 then dev + port * 2 ^ 24 else if St.cls st = 6 then dev + dbay * 2 ^ 24 else 0

def FabReq.is (r : FabReq) (b g q : Nat) : Bool := decide (r.bay = b) && decide (r.gen = g) && decide (r.seq = q)

def State.setReq (s : State) (r : FabReq) : State :=
  s.onFab fun f => { f with reqs := f.reqs.map fun x => if x.is r.bay r.gen r.seq then r else x }

/-- The end of a request; its owner hears of it when the device next settles. -/
def State.endReq (s : State) (r : FabReq) (st d1 : Nat) (data : List Byte) : State :=
  s.setReq { r with st := .ended st (fabDetail0 st r.dev r.dbay r.port) d1 data }

def FabReq.hdr (s : State) (r : FabReq) : PktHdr :=
  let n := r.data.length
  ⟨if r.kind = 3 then 6 else if r.kind = 2 then 5 else r.kind, if r.kind = 3 then 2 else 0, 0, false, false, r.last, if r.kind = 1 then 0 else n,
    s.alias_ r.dev, r.dbay, r.bay, s.ownDev, r.gen, s.bayJob r.bay, min 255 r.tries,
    if r.kind = 1 then (r.len + 31) / 32 else 0, r.addr, r.seq⟩

/-- Whether the answer of a request is still awaited. -/
def FabReq.open_ (r : FabReq) : Bool :=
  match r.st with
  | .sent => true
  | .backoff => true
  | _ => false

/-- Response space of the bay's part on an edge die that its reads hold: 16 KiB for each fabric slot (R357). -/
def State.rspUsed (s : State) (b e : Nat) : Nat :=
  ((s.fab.reqs.filter fun r => decide (r.bay = b) && decide (r.kind = 1) && decide (r.port / 2 = e) && r.open_).map
    (·.len)).foldl (· + ·) 0

/-- The attempt is sent on the wire (R350 to R356, R362). -/
def State.transmit (s : State) (r : FabReq) : State :=
  let h := r.hdr s
  if !s.devInDims h.dst then s.endReq r St.UNREACHABLE 0 []
  else
    match s.route h.dst none false false with
    | .here => s.endReq r St.UNREACHABLE 0 []
    | .unreachable p => s.endReq { r with port := p } St.UNREACHABLE 0 []
    | .out p v dl det =>
      let r' := { r with port := p }
      if !s.ownsSlot p h.job then
        (s.count (Reg.PORT_NOSLOT_CNT (portDie p) (portIx p)) 1).endReq r' St.NO_SLOT s.ownDev []
      else if r.kind = 1 ∧ 16384 * s.share r.bay 3 < s.rspUsed r.bay (p / 2) + r.len then
        s.setReq { r' with st := .waiting }
      else
        let pkt := s.sealPkt r.bay { h with vsub := v, dl := dl, det := det } (r.data.map BitVec.toNat)
        ((s.setReq { r' with st := .sent }).portPut p pkt).count64
          (Reg.PORT_TX_BYTES (portDie p) (portIx p)) r.data.length

/-- A new request of bay b: it takes the next SEQ of the bay's generation (R357, R404) and is sent. -/
def State.remote (s : State) (owner : FabFor) (b dev dbay kind addr : Nat) (data : List Byte) (len : Nat) (last : Bool) :
    State :=
  let q := s.fld (Reg.BAY_TX_SEQ b) 0 48
  let r : FabReq := ⟨b, s.txGen b, q, dev, dbay, kind, addr, data, len, last, 0, 0, owner, .waiting⟩
  if q = 2 ^ 48 - 1 then
    (s.onFab fun f => { f with reqs := f.reqs ++ [r] }).endReq r St.KEY_EXHAUSTED 0 []
  else
    let s1 := s.setReg (Reg.BAY_TX_SEQ b) (q + 1)
    let s2 := if 2 ^ 47 ≤ q + 1 then s1.setFld (Reg.BAY_SEC b) 3 1 1 else s1
    (s2.onFab fun f => { f with reqs := f.reqs ++ [r] }).transmit r

/-- Requests that waited for response space are tried again, in order. -/
def State.retryWaiting (s : State) : State :=
  s.forAll (s.fab.reqs.filter fun r => decide (r.st = .waiting)) fun s r => s.transmit r

/-- A range split into packets of at most 4,096 bytes: offset, length, and whether it is the last. -/
def packetCuts (n : Nat) : List (Nat × Nat × Bool) :=
  (List.range ((n + 4095) / 4096)).map fun i => (4096 * i, min 4096 (n - 4096 * i), decide (n ≤ 4096 * (i + 1)))

/-- A write of bytes to a bay range on another device (R357). -/
def State.remoteWrite (s : State) (owner : FabFor) (b dev dbay addr : Nat) (bs : List Byte) : State :=
  s.forAll (packetCuts bs.length) fun s c =>
    s.remote owner b dev dbay 0 (addr + c.1) ((bs.drop c.1).take c.2.1) c.2.1 c.2.2

/-- Payload of a SIGNAL: EVENT, OP and VALUE (Table 12-7). -/
def signalBytes (e : Nat) (op v : Nat) : List Byte := leBytes 8 (e + op * 2 ^ 10 + v % 2 ^ 48 * 2 ^ 16)

def State.remoteSignal (s : State) (owner : FabFor) (b dev dbay e op v : Nat) : State :=
  s.remote owner b dev dbay 2 0 (signalBytes e op v) 8 true

/-- Requests of an owner, and whether they have all ended. -/
def State.reqsOf (s : State) (o : FabFor) : List FabReq := s.fab.reqs.filter fun r => decide (r.owner = o)

def FabReq.done (r : FabReq) : Bool :=
  match r.st with
  | .ended .. => true
  | _ => false

/-- Status of the first request that failed, with its details. -/
def firstFailed (rs : List FabReq) : Option (Nat × Nat × Nat) :=
  rs.findSome? fun r =>
    match r.st with
    | .ended st d0 d1 _ => if st = 0 then none else some (st, d0, d1)
    | _ => none

def State.dropReqs (s : State) (p : FabReq → Bool) : State :=
  s.onFab fun f => { f with reqs := f.reqs.filter fun r => !p r }

end Sys2Proof.Machine
end

