-- ==== Sys2Proof/Machine/EngLife.lean ====
section
/-! DEFINITION. Engines in the device: what a program's step asks of the rest (registers, completions, records,
R71 to R80, R168 to R170), ENGINE-level handling (R435 to R439), launches and images (R66, R67, R162 to R165). -/

namespace Sys2Proof.Machine

/-! ### The end of a launch on one engine (R180, R192, R439) -/

/-- The lowest logical engine whose program did not end normally governs; then a replay; then non-zero flags. -/
def State.launchDone (s : State) (c : Cmd) : State :=
  match c.parts.find? fun x => decide (x.status ≠ 0) with
  | some x =>
    if St.cls x.status = 7 then s.finish c x.status (s.dieDetail (launchDie c)) (if x.status = St.ENGINE_FAILED then x.log else 0)
    else s.finish c x.status x.d0 x.d1
  | none =>
    if c.parts.any (·.replay) then s.finish c St.OK_REPLAYED 0 0
    else
      match c.parts.find? fun x => decide (x.flags ≠ 0) with
      | none => s.finish c St.OK 0 0
      | some x =>
        let f := x.flags.toNat
        s.finish c St.OK_FLAGS (x.log + b2n (decide (f % 2 ^ 32 ≠ 0)) (2 ^ 16) + b2n (decide (f / 2 ^ 32 ≠ 0)) (2 ^ 17))
          (f % 2 ^ 32 ||| f / 2 ^ 32)

/-- A launch has ended on physical engine p of die d with a status; the end of a replay ends its handling (Table 15-2). -/
def State.partEnd (s : State) (d p : Nat) (l : Launch) (st d0 d1 : Nat) : State :=
  match s.findCmd l.q l.seq with
  | none => s
  | some c =>
    if c.op ≠ 1 ∨ c.phase ≠ .started then s
    else
      let flags := BitVec.ofNat 64 (s.reg (Reg.ACC_FLAGS d p))
      let c' := { c with parts := c.parts.map fun x =>
        if x.phys = p ∧ x.entered ∧ !x.done then
          { x with done := true, status := st, d0 := d0, d1 := d1, flags := flags, replay := x.replay || l.replay }
        else x }
      let s1 := if l.replay then
          (s.onFlt fun f => { f with tests := f.tests.filter fun t => !(decide (t.die = d) && t.replaying) }).endHandling d
        else s
      if c'.parts.all (·.done) then s1.launchDone c' else s1.setCmd c'

/-- Launch parameter words: slot 0 then slot 1 (Table 06-5). -/
def Launch.word (l : Launch) (i : Nat) : Nat := (l.params.getD i 0).toNat

/-! ### ENGINE-level handling (R435, R436) -/

/-- The launches waiting on the engine are withdrawn and held, and its test starts. -/
def State.startTest (s : State) (d p : Nat) (failed : Option Launch) (st : Nat) : State :=
  let e := s.eng d p
  let t : EngTest := ⟨d, p, (s.logOf d p).getD 0x3F, failed, e.iq, st, false⟩
  ((s.onFlt fun f => { f with tests := f.tests ++ [t] }).setEng d p { e with iq := [], testing := true }).count
    Reg.ENG_TEST_CNT 1

/-- An engine fault: its record, and the test unless it escalated a handling in progress (R429, R436). -/
def State.engineFault (s : State) (d p : Nat) (bay : Option Nat) (failed : Option Launch) (st : Nat) : State :=
  let cmd := failed.bind fun l => (s.findCmd l.q l.seq).map fun c => (c.q, c.seq, c.tag)
  let s1 := s.raise ⟨d, 2, st, 1, p, bay, cmd, 0, [s.dieDetail d, 0], false, 0⟩
  match s1.handlingOf d with
  | some h =>
    if h.level = 2 then (s1.setHandling { h with eng := p, todo := false }).startTest d p failed st else s1
  | none => s1

/-! ### What an engine's step asks of the device -/

/-- One stall log entry (Table 02-17, R75). -/
def State.logStall (s : State) (d p pc slot n sched cause ctx : Nat) : State :=
  let s1 := s.count (Reg.SENT_STALL_CNT d p) n
  let i := s.fld (Reg.SENT_LOG_PTR d p) 0 6
  let full := decide (s.fld (Reg.SENT_LOG_PTR d p) 6 1 = 1)
  if full && decide (s.fld (Reg.SENT_CTRL d p) 2 1 = 0) then s1
  else
    let v := pc + slot * 2 ^ 12 + min 0xFFFF n * 2 ^ 16 + sched % 2 ^ 20 * 2 ^ 32 + cause * 2 ^ 52 + ctx * 2 ^ 56
    (s1.setReg (Reg.SENT_LOG d p i) v).setReg (Reg.SENT_LOG_PTR d p)
      ((i + 1) % 64 + b2n (full || decide (i = 63)) 64)

/-- Words 0 to 4 of a schedule-fault detail (Table 05-15). -/
def faultWords (r : Run) (f : Failure) (more : Bool) (last : Nat) : List Nat :=
  let late := decide (f.status = St.OVERRUN)
  [f.status % 256 + f.slot * 2 ^ 8 + b2n more (2 ^ 11) + (r.base + (if late then last else f.pc)) % 4096 * 2 ^ 12 +
      r.launch.ctx * 2 ^ 24 + f.kind * 2 ^ 28,
   (if late then r.img.schedMin else f.expected) % 2 ^ 20 + r.base * 2 ^ 20, f.actual % 2 ^ 20, f.loc % 2 ^ 14,
   r.launch.handle.toNat]

/-- A program that did not reach END: its record, its launch's completion and the queue's halt (R72, R137, R169). -/
def State.programFault (s : State) (d p : Nat) (r : Run) (f : Failure) (more : Bool) (last : Nat) : State :=
  let l := r.launch
  let s0 := s.setFld (Reg.ENG_STATUS d p) 4 1 0
  if St.cls f.status = 8 then
    let ws := faultWords r f more last
    let s1 := s0.forAll (List.range 5) fun s i => s.setReg (Reg.SF_REC d p i) (ws.getD i 0)
    let s2 := (s1.count (Reg.SF_CNT d p) 1).setFld (Reg.ENG_STATUS d p) 6 1 1
    let c := s2.findCmd l.q l.seq
    let s3 := s2.raise (errNote d 1 f.status 1 p (some l.bay) (c.map fun c => (c.q, c.seq, c.tag)) 0 ws false)
    let s4 := match c with
      | some c => s3.setCmd { c with errRec := true }
      | none => s3
    (s4.partEnd d p l f.status 0 0).haltQueue l.q f.status l.seq ((c.map (·.pos)).getD 0)
  else if f.status = St.SRAM_UNCORRECTABLE then s0.engineFault d p (some l.bay) (some l) f.status
  else s0.partEnd d p l f.status 0 0

/-- The bay that a REMOTE access of bay b names on another device. -/
def remoteBay (b dev : Nat) : Nat := (Config.remoteBay b dev).toNat

/-- A row of program r that this device refuses fails its launch as a transfer of cycle `cyc` would; the rows before and
after it stand. -/
def State.rowFails (s : State) (d p cyc : Nat) (r : Run) (st : Nat) (det : Nat × Nat) : State :=
  s.setEng d p ((s.eng d p).withRun fun x => if x.prog ≠ r.prog then x else x.failXfer cyc st det.1 det.2)

/-- A drained row on its way to the loft or to a remote address (R58, R59), refused by R130 or R232 there. -/
def State.drainRow (s : State) (d p : Nat) (r : Run) (cyc kind addr dev : Nat) (bs : List Byte) : State :=
  if kind = 2 then
    match s.loftRefuses d (some r.launch.bay) addr bs.length with
    | some st => s.rowFails d p cyc r st (s.loftDetail d st addr)
    | none => (s.loftPut d addr (unpoisoned bs)).1
  else if dev = s.ownDev then
    let q := s.vaWrite .dev .bay r.launch.bay addr (unpoisoned bs)
    match q.2 with
    | .ok => q.1
    | .wait => q.1.onMem fun m => { m with devWrites := m.devWrites ++ [(r.launch.bay, addr, false, unpoisoned bs)] }
    | .fail st va => q.1.rowFails d p cyc r st (q.1.vaDetail r.launch.bay st va)
  else s.remoteWrite .nobody r.launch.bay dev (remoteBay r.launch.bay dev) addr bs

def State.engOut (s : State) (d p : Nat) (r : Run) (o : EngOut) : State :=
  match o with
  | .ended st d0 d1 => (s.setFld (Reg.ENG_STATUS d p) 4 1 0).partEnd d p r.launch st d0 d1
  | .fault f more last => s.programFault d p r f more last
  | .sige ev cyc =>
    let e := s.eng d p
    s.setEng d p { e with siges := e.siges ++ [⟨(bitsAt (r.launch.word 22) 0 10 + ev) % 1024, r.launch.bay, r.prog, cyc⟩] }
  | .busy n => s.count64 (Reg.ENG_BUSY_CYC d p) n
  | .freezeFeed n => s.count (Reg.ENG_FREEZE_FEED d p) n
  | .freezeDrain n => s.count (Reg.ENG_FREEZE_DRAIN d p) n
  | .passes n => s.count64 (Reg.ENG_PASS_CNT d p) n
  | .flags w => s.setReg (Reg.ACC_FLAGS d p) (s.reg (Reg.ACC_FLAGS d p) ||| w.toNat)
  | .rng n => s.count64 (Reg.RNG_BLOCK_CNT d p) n
  | .stall pc slot n sched cause ctx => s.logStall d p (r.base + pc) slot n sched cause ctx
  | .mesh cyc kind addr dev bs => s.drainRow d p r cyc kind addr dev bs
  | .sram unit word unc =>
    let s1 := s.setReg (Reg.SRAM_ERR_LAST d p) (unit % 8 + b2n unc 8 + word % 2 ^ 18 * 16)
    if unc then s1.count (Reg.SRAM_UNCORR_CNT d p) 1 else (s1.count (Reg.SRAM_CORR_CNT d p) 1).ercAdd d 1
  | .scyc c => s.setReg (Reg.ENG_SCYC d p) (c % 2 ^ 32)

/-- An engine's step in the device: what it asks is done in order, and transfers from other devices that it
started send their requests (R357). -/
def State.engineDo (s : State) (d p : Nat) (f : Engine → Engine) : State :=
  let e := s.eng d p
  let e1 := f e
  match e.run with
  | none => s
  | some r0 =>
    let r := e1.run.getD r0
    let s1 := (s.setEng d p { e1 with outs := [] }).forAll e1.outs fun s o => s.engOut d p r o
    s1.forAll (e1.xfers.filter fun x => decide (x.op = 8) && decide (x.dev ≠ s.ownDev) && !e.xfers.contains x) fun s x =>
      s.forAll (packetCuts x.len) fun s c =>
        s.remote (.xget d p x.tag c.1) x.bay x.dev (remoteBay x.bay x.dev) 1 (x.src + c.1) [] c.2.1 c.2.2

/-- Owners of the sixteen banks (Table 04-8). -/
def State.owners (s : State) (d p : Nat) : Owners := (List.range 16).map fun k => s.fld (Reg.SPAD_OWN d p k) 0 5

/-- A slot operation's row: it acts on the engine whose sequencer has reached it. -/
def State.slotOp (s : State) (r : EngRef) (slot op : Nat) (f : Owners → Engine → Cur → Engine) : State :=
  let d := r.die.val
  let p := r.eng.val
  s.engineDo d p (slotStep slot op r.held r.ecc (f (s.owners d p)))

/-! ### Launches (R66, R165, R180) -/

/-- Whether the loft's program cache holds a handle for die d. -/
def State.cached (s : State) (d : Nat) (h : W32) : Option Cached :=
  s.lofts.pcache.find? fun c => decide (c.die = d) && decide (c.handle = h)

/-- The launch of a command for one of its engines; S15 is the ordinal when S15_ORDINAL is set (R180). -/
def launchOf (s : State) (c : Cmd) (b ordinal : Nat) (resident : Bool) : Launch :=
  let ps := (List.range 32).map fun i => c.words.getD (16 + i) 0
  let ps := if c.p 19 9 1 = 1 then ps.set 15 (BitVec.ofNat 32 ordinal) else ps
  ⟨c.q, c.seq, b, c.p 19 5 4, s.qPrio c.q, c.accept, c.words.getD 32 0, c.p 17 0 32 + c.p 18 0 25 * 2 ^ 32, ps,
    if resident then .ready else .fetching, false⟩

/-- The launch enters the issue queue of a physical engine (R66, R165). -/
def State.enqueue (s : State) (d p : Nat) (l : Launch) : State :=
  let e := s.eng d p
  let s1 := s.setEng d p { e with iq := e.iq ++ [l] }
  if l.fetch = .ready then s1
  else (if (s.cached d l.handle).isSome then s1.count (Reg.IB_LOFT_HIT_CNT d p) 1 else s1).count (Reg.IB_MISS_CNT d p) 1

def Engine.isResident (e : Engine) (h : W32) : Bool := e.resident.any fun r => decide (r.handle = h)

/-! ### Images (R162, R163) -/

/-- The counts of an image header. -/
structure ImgHdr where
  magic : Nat
  version : Nat
  words : Nat
  sched : Nat
  descs : Nat
  pds : Nat
  vms : Nat
  rcs : Nat
  bytes : Nat

def imgHdr (w : List Nat) : ImgHdr :=
  let f (i lo n : Nat) : Nat := bitsAt (w.getD i 0) lo n
  ⟨f 0 0 16, f 0 16 8, f 1 0 13, f 2 0 20, f 3 0 7, f 3 7 5, f 3 12 5, f 3 17 3, f 4 0 32⟩

def ImgHdr.body (h : ImgHdr) : Nat := 16 * h.words + 32 * h.descs + 8 * h.pds + 4 * h.vms + 32 * h.rcs

def ImgHdr.ok (h : ImgHdr) : Bool :=
  decide (h.magic = 0x4B54) && decide (h.version = 1) && decide (1 ≤ h.words) && decide (h.words ≤ 4096) &&
    decide (h.descs ≤ 64) && decide (h.pds ≤ 16) && decide (h.vms ≤ 16) && decide (h.rcs ≤ 4) &&
    decide (h.bytes = 64 + h.body) && decide ((h.body + 15) / 16 ≤ 4096)

/-- A stream descriptor that R156 does not refuse. -/
def descOk (d : List W32) : Bool :=
  let f (i lo n : Nat) : Nat := bitsAt (d.getD i 0).toNat lo n
  let remote := decide (f 0 0 2 = 3)
  decide (f 0 3 2 ≠ 3) && decide (f 0 5 3 = 0) && !(remote && decide (f 0 2 1 = 1)) &&
    (if remote then decide (f 6 24 8 = 0) && decide (f 7 25 7 = 0) else decide (f 6 20 12 = 0))

/-- The image that bytes hold, or none when R163 or R331 rejects it. -/
def parseImage (bs : List Byte) : Option Image :=
  let h := imgHdr ((bytesWords (bs.take 64)).map BitVec.toNat)
  let part (off n i : Nat) : List Byte := (bs.drop (64 + off + n * i)).take n
  let o1 := 16 * h.words
  let o2 := o1 + 32 * h.descs
  let o3 := o2 + 8 * h.pds
  let o4 := o3 + 4 * h.vms
  let img : Image :=
    { schedMin := h.sched
      bytes := h.bytes
      words := (List.range h.words).map fun i => BitVec.ofNat 128 (bytesVal (part 0 16 i))
      descs := (List.range h.descs).map fun i => bytesWords (part o1 32 i)
      pds := (List.range h.pds).map fun i => BitVec.ofNat 64 (bytesVal (part o2 8 i))
      vms := (List.range h.vms).map fun i => BitVec.ofNat 32 (bytesVal (part o3 4 i))
      rcs := (List.range h.rcs).map fun i => bytesWords (part o4 32 i) }
  let ends := (List.range h.words).map fun i => decide (wOp (img.words.getD i 0) 5 = 1)
  if h.ok && ends.getLastD false && !(ends.dropLast.any id) && img.descs.all descOk &&
      img.rcs.all (fun r => decide (bitsAt (r.getD 7 0).toNat 12 20 = 0)) then some img
  else none

/-- Buffer words in use. -/
def Engine.bufUsed (e : Engine) : Nat := (e.resident.map (·.used)).foldl (· + ·) 0

/-- IB_STATUS (Table 05-16). -/
def State.ibStatus (s : State) (d p : Nat) : State :=
  let e := s.eng d p
  s.setReg (Reg.IB_STATUS d p) (e.bufUsed + min 63 e.resident.length * 2 ^ 13 +
    b2n (e.iq.any fun l => decide (l.fetch = .fetching)) (2 ^ 19))

/-- Resident images in the order in which they may be evicted. -/
def evictOrder (rs : List Resident) : List Resident :=
  rs.foldl (fun a r => (a.filter fun x => decide (x.lastLaunch ≤ r.lastLaunch)) ++ r ::
    (a.filter fun x => decide (r.lastLaunch < x.lastLaunch))) []

/-- Evicts images, least recently launched first, until `n` buffer words are free (R165). -/
def evictFor (n : Nat) (keep : W32 → Bool) (e : Engine) : Engine :=
  (evictOrder (e.resident.filter fun r => !keep r.handle)).foldl (fun e r =>
    if e.bufUsed + n ≤ 4096 then e else { e with resident := e.resident.filter fun x => decide (x.handle ≠ r.handle) }) e

/-- The order in which launches run (R66, R216): priority, then age, then queue number. -/
def Launch.before (a b : Launch) : Bool :=
  decide (b.prio < a.prio) || (decide (a.prio = b.prio) && (decide (a.age < b.age) ||
    (decide (a.age = b.age) && (decide (a.q < b.q) || (decide (a.q = b.q) && decide (a.seq < b.seq))))))

/-- Program-cache bytes of die d in use. -/
def State.pcacheUsed (s : State) (d : Nat) : Nat :=
  ((s.lofts.pcache.filter fun c => decide (c.die = d)).map fun c => c.bytes.length).foldl (· + ·) 0

/-- A handle that some issue-queue entry of the die names (R131). -/
def State.handleQueued (s : State) (d : Nat) (h : W32) : Bool :=
  (List.range 52).any fun p => (s.eng d p).iq.any fun l => decide (l.handle = h)

/-- The oldest evictable program of the die's cache. -/
def State.pcacheOldest (s : State) (d : Nat) : Option Cached :=
  ((s.lofts.pcache.filter fun c => decide (c.die = d) && !s.handleQueued d c.handle)).foldl (fun m c =>
    match m with
    | none => some c
    | some x => if c.last < x.last then some c else some x) none

/-- A fetched program enters the cache when it fits after evictions; otherwise it bypasses it (R131). -/
def State.pcacheFill (fuel : Nat) (s : State) (d : Nat) (h : W32) (bs : List Byte) : State :=
  match fuel with
  | 0 => s
  | n + 1 =>
    let room := s.fld (Reg.LOFT_CFG d) 0 4 * 2 ^ 20
    if (s.cached d h).isSome ∨ room < bs.length then s
    else if s.pcacheUsed d + bs.length ≤ room then
      s.onLofts fun l => { l with pcache := l.pcache ++ [⟨d, h, bs, s.stamp⟩] }
    else
      match s.pcacheOldest d with
      | none => s
      | some c => State.pcacheFill n (s.onLofts fun l => { l with pcache := l.pcache.filter fun x =>
          !(decide (x.die = d) && decide (x.handle = c.handle)) }) d h bs

/-- A launch leaves the issue queue without running: its queue slot is free again and it ends with a status. -/
def State.failLaunch (s : State) (d p : Nat) (l : Launch) (st : Nat) (det : Nat × Nat) : State :=
  let e := s.eng d p
  let s1 := s.setEng d p { e with iq := e.iq.filter fun x => !(decide (x.q = l.q) && decide (x.seq = l.seq)) }
  ((s1.setUsed l.bay 2 (s1.used l.bay 2 - 1)).partEnd d p l st det.1 det.2).ibStatus d p

/-- An engine whose die serves it and that has power. -/
def State.engineUp (s : State) (d p : Nat) : Bool :=
  decide (s.dieState d = dieOn) && (decide (s.fld (Reg.ENG_STATUS d p) 2 2 = 1) || decide (s.fld (Reg.ENG_STATUS d p) 2 2 = 2))

end Sys2Proof.Machine
end

