-- ==== Sys2Proof/Machine/EngProgram.lean ====
section
/-! DEFINITION. Programs, images, transfers and power of the engines: the rows ENGINE_CLOCK_CHANGE to
ASYNC_TRANSFER_COMPLETE and SIGE_EVENT_APPLY (R27, R66, R67, R74 to R78, R122, R153, R162 to R167, R185, R334). -/

namespace Sys2Proof.Machine

open Host (Outcome)

/-! ### Clock and power -/

/-- A package thermal emergency clamps every compute die (R512). -/
def State.clamped (s : State) : Bool := decide (s.fld Reg.THERM_STATUS 13 1 = 1)

/-- ENGINE_CLOCK_CHANGE: 1,200 to 2,100 MHz in 50 MHz steps (R27, Table 01-4). -/
def State.setClock (s : State) (d mhz : Nat) : State :=
  if 1200 ≤ mhz ∧ mhz ≤ 2100 ∧ mhz % 50 = 0 then s.setFld (Reg.CLK_STATUS d) 0 12 (if s.clamped then 1200 else mhz) else s

/-- PWR of ENG_STATUS (Table 02-11): 0 OFF, 1 CLOCK_GATED, 2 ON, 3 CLEARING. -/
def State.pwr (s : State) (d p : Nat) : Nat := s.fld (Reg.ENG_STATUS d p) 2 2
def State.setPwr (s : State) (d p v : Nat) : State := s.setFld (Reg.ENG_STATUS d p) 2 2 v

/-- ENGINE_CLOCK_GATE (R76). -/
def State.clockGate (s : State) (d p : Nat) : State :=
  let e := s.eng d p
  if s.dieState d = dieOn ∧ s.pwr d p = 2 ∧ e.run.isNone ∧ e.iq = [] ∧ s.fld (Reg.ENG_PWR d p) 1 1 = 0 then s.setPwr d p 1
  else s

/-- The engine loses its power: nothing is held, and the RC counters and the stall log are lost (R76, R80). -/
def State.engineOff (s : State) (d p : Nat) : State :=
  let s1 := (s.setEng d p .zero).setPwr d p 0
  let s2 := s1.forAll [Reg.ENG_FREEZE_FEED d p, Reg.ENG_FREEZE_DRAIN d p, Reg.SENT_STALL_CNT d p, Reg.SENT_LOG_PTR d p,
    Reg.SF_CNT d p, Reg.IB_MISS_CNT d p, Reg.IB_LOFT_HIT_CNT d p, Reg.SRAM_CORR_CNT d p, Reg.SRAM_UNCORR_CNT d p,
    Reg.IB_STATUS d p] fun s a => s.setReg a 0
  s2.forAll (List.range 64) fun s i => s.setReg (Reg.SENT_LOG d p i) 0

/-- ENG_POWER_REQ: a write of ENG_PWR (Table 02-15, R77). -/
def State.engPower (s : State) (d p v : Nat) : State :=
  if s.dieState d ≠ dieOn then s
  else if bitsAt v 0 1 = 0 then
    if (s.logOf d p).isSome then s else (s.setReg (Reg.ENG_PWR d p) (v % 4)).engineOff d p
  else
    let s1 := s.setReg (Reg.ENG_PWR d p) (v % 4)
    if s.pwr d p = 0 then s1.setPwr d p 3 else s1

/-- The random lane's self-test (R334): its result bits, and the failed engine's handling. -/
def State.selfTest (s : State) (d p : Nat) (ok : Bool) : State :=
  if ok then s.setReg (Reg.RNG_STATUS d p) 1
  else (s.setReg (Reg.RNG_STATUS d p) 2).engineFault d p (s.bayOfDie d) none St.ENGINE_FAILED

/-- ENGINE_POWER_UP_DONE: the engine is cleared, tested and ON (R76, R77, R334). -/
def State.powerUp (s : State) (d p : Nat) (ok : Bool) : State :=
  if s.dieState d = dieOn ∧ s.pwr d p = 3 then
    let e := s.eng d p
    ((s.setEng d p { Engine.zero with iq := e.iq, evFlags := e.evFlags, testing := e.testing }).setPwr d p 2).selfTest d p ok
  else s

/-- SENT_CTRL_WRITE (R74, Table 02-16). -/
def State.sentCtrl (s : State) (d p v : Nat) : State :=
  let m := bitsAt v 0 2
  let ok := decide (m = 0) || (decide (m = 1) &&
    (match s.bayOfDie d with | some b => decide (s.fld (Reg.BAY_CONSENT b) 0 1 = 1) | none => false))
  let s1 := s.setFld (Reg.SENT_CTRL d p) 2 1 (bitsAt v 2 1)
  if ok then s1.setFld (Reg.SENT_CTRL d p) 0 2 m else s1

/-! ### First issue (R66, R67, R71) -/

/-- A handover of a bank that concerns a context is pending (R125). -/
def State.ctxHeld (s : State) (d p ctx : Nat) : Bool :=
  (List.range 16).any fun k =>
    let r := s.reg (Reg.SPAD_OWN d p k)
    let own := bitsAt r 0 5
    let new := bitsAt r 8 5
    decide (bitsAt r 13 1 = 1) &&
      (decide (16 ≤ own) || decide (16 ≤ new) || decide (own = ctx) || decide (new = ctx))

/-- A launch of a queue outside the engine's present role group is still accepted for it (R214). -/
def State.oldGroupLeft (s : State) (b d log : Nat) (q : Nat) : Bool :=
  let role := s.engRole b d log
  decide (s.queueRole q = role) && s.cq.cmds.any fun c =>
    decide (c.bay = some b) && decide (c.op = 1) && c.live && decide (launchDie c = d) &&
      decide (bitsAt (launchMask c) log 1 = 1) && decide (s.queueRole c.q ≠ role)

/-- A launch that may run now: its queue is not halted (R169), no handover holds its context, its group may run. -/
def State.launchEligible (s : State) (d p : Nat) (l : Launch) : Bool :=
  (decide (s.qState l.q ≠ qHalted) || (s.qx l.q).disabling) && !s.ctxHeld d p l.ctx &&
    !s.oldGroupLeft l.bay d ((s.logOf d p).getD 0x3F) l.q

/-- The entry that runs next. -/
def State.nextLaunch (s : State) (d p : Nat) : Option Launch :=
  ((s.eng d p).iq.filter fun l => s.launchEligible d p l).foldl (fun m l =>
    match m with
    | none => some l
    | some x => if l.before x then some l else some x) none

/-- Registers, tags and contexts that a launch loads (R71, R154, R160). -/
def startRun (l : Launch) (r : Resident) (prog : Nat) (now : W64) (debug : Bool) : Run :=
  { launch := l, prog := prog, base := r.base, img := r.img, start := now, cur := none, wait := none, waited := 0
    loops := [], release := none, sregs := l.params.take 16, streams := List.replicate 16 AStream.zero
    agen := .none, feedEnd := 0, loadEnd := 0, setFree := 0, feedPd := none, vecFree := 0, lanes := [], uses := []
    fails := [], xfail := none, debug := debug }

/-- PROGRAM_FIRST_ISSUE. -/
def State.firstIssue (s : State) (d p : Nat) : State :=
  let e := s.eng d p
  if !s.engineUp d p || e.run.isSome || e.testing || decide (s.fld (Reg.CLR_STATUS d) 0 2 = 1) then s
  else
    match s.nextLaunch d p with
    | none => s
    | some l =>
      match (if l.fetch = .ready then e.resident.find? fun r => decide (r.handle = l.handle) else none) with
      | none => s
      | some r =>
        let consent := decide (s.fld (Reg.BAY_CONSENT l.bay) 0 1 = 1)
        let debug := decide (s.fld (Reg.SENT_CTRL d p) 0 2 = 1) && consent
        let t := s.tickStamp
        let s1 := if consent then t.2 else t.2.setFld (Reg.SENT_CTRL d p) 0 2 0
        let e1 := { e with
          iq := e.iq.filter fun x => decide (x ≠ l)
          resident := e.resident.map fun x => if x.handle = l.handle then { x with lastLaunch := t.1 } else x
          tags := (e.tags.filter fun k => decide (k.2.pend ≠ 0)).map fun k => (k.1, ⟨0, 0, k.2.pend⟩)
          progs := e.progs + 1
          run := some (startRun l r (e.progs + 1) s.ktime debug) }
        let s2 := (s1.onLofts fun x => { x with pcache := x.pcache.map fun c =>
          if c.die = d ∧ c.handle = l.handle then { c with last := t.1 } else c }).setEng d p e1
        let s3 := s2.forAll [(Reg.ACC_FLAGS d p, 0), (Reg.ENG_SCYC d p, 0), (Reg.RUN_START d p, s.now),
          (Reg.RUN_HANDLE d p, l.handle.toNat)] fun s w => s.setReg w.1 w.2
        let s4 := (((s3.setFld (Reg.ENG_STATUS d p) 6 1 0).setFld (Reg.ENG_STATUS d p) 4 1 1).setPwr d p 2).setUsed l.bay 2
          (s3.used l.bay 2 - 1)
        (s4.ibStatus d p).engineDo d p fun e => goWord wordFuel e 0 0

/-! ### Image fetch (R163, R165) -/

/-- The handles that a fetch must leave: every handle that an entry names, or, with no program running, those of
entries that run before the one that needs space (R165). -/
def keepHandles (e : Engine) (l : Launch) (h : W32) : Bool :=
  e.iq.any fun x => decide (x.handle = h) && (e.run.isSome || x.before l || decide (x.handle = l.handle))

def overlaps (a n b m : Nat) : Bool := decide (a < b + m) && decide (b < a + n)

/-- An image that has been read: it is checked and becomes resident at the given load base, or its launch fails. -/
def State.imageRead (s : State) (d p : Nat) (l : Launch) (base : Nat) (bs : List Byte) (fill : Bool) : State :=
  match parseImage bs with
  | none => s.failLaunch d p l St.ILLEGAL_FIELD (0, 0)
  | some img =>
    let n := (img.bytes - 64 + 15) / 16
    let e := s.eng d p
    let e1 := evictFor n (keepHandles e l) e
    let gone := e.resident.filter fun r => !e1.isResident r.handle
    if 4096 < e1.bufUsed + n ∨ 4096 < base + n ∨ e1.resident.any fun r => overlaps base n r.base r.used then s
    else
      let back (x : Launch) : Launch :=
        if x.handle = l.handle then { x with fetch := .ready }
        else if gone.any fun r => decide (r.handle = x.handle) then { x with fetch := .fetching }
        else x
      let e2 := { e1 with
        resident := e1.resident ++ [⟨l.handle, base, n, img, s.stamp⟩]
        iq := e1.iq.map back }
      let s1 := s.setEng d p e2
      (if fill then s1.pcacheFill 4096 d l.handle bs else s1).ibStatus d p

/-- IMAGE_FETCH_COMPLETE for the entries that name handle `h`: from the program cache, or from the image's address,
whose reads meet `m`. -/
def State.imageFetch (s : State) (d p : Nat) (h : W32) (base : Nat) (m : Medium) : State :=
  let e := s.eng d p
  if !s.engineUp d p then s
  else
    match (e.iq.filter fun l => decide (l.handle = h) && decide (l.fetch ≠ .ready)).foldl (fun q l =>
        match q with
        | none => some l
        | some x => if l.before x then some l else some x) (none : Option Launch) with
    | none => s
    | some l =>
      match s.cached d h with
      | some c => s.imageRead d p l base c.bytes false
      | none =>
        let w := Waiter.image d p
        let r := s.vaReadM w m l.bay l.va 64
        match r.2.2 with
        | .wait => r.1
        | .fail st va => r.1.failLaunch d p l st (r.1.vaDetail l.bay st va)
        | .ok =>
          let n := (imgHdr ((bytesWords (r.2.1.map pbyte)).map BitVec.toNat)).bytes
          if n < 64 ∨ 64 + 65536 < n then r.1.failLaunch d p l St.ILLEGAL_FIELD (0, 0)
          else
            let q := r.1.vaReadM w m l.bay l.va n
            match q.2.2 with
            | .wait => q.1
            | .fail st va => q.1.failLaunch d p l st (q.1.vaDetail l.bay st va)
            | .ok => q.1.imageRead d p l base (q.2.1.map pbyte) true

/-! ### Overrun (R167) -/

/-- TILE_OVERRUN_EXPIRY: 64,000 ns after the first issue. -/
def State.overrun (s : State) (d p : Nat) : State :=
  s.engineDo d p fun e =>
    match e.run with
    | none => e
    | some r =>
      if s.now < r.start.toNat + 64000 then e
      else
        let c := r.cur.getD ⟨0, 0, 0, 0⟩
        match pickFail (r.fails.filter fun f => decide (f.cyc ≤ c.cyc)) with
        | some (f, more) => abandon e f more
        | none => abandon e ⟨c.cyc, St.OVERRUN, 7, c.pc, 15, 0, r.img.schedMin, c.cyc⟩ false

/-! ### Asynchronous transfers (R137, R138, R153) -/

/-- Scratchpad bytes as a transfer reads them: poisoned words are none. -/
def Engine.dmaRead (e : Engine) (a n : Nat) : List PByte :=
  (List.range n).map fun i =>
    if mget notPoisoned e.poison ((a + i) / 4) then none else some (mget zeroByte e.spad (a + i))

/-- Bytes that land: whole words of data lose their marks, words with a poisoned byte are poisoned. -/
def Engine.dmaWrite (e : Engine) (a : Nat) (bs : List PByte) : Engine :=
  let e1 := e.store a (bs.map pbyte)
  { e1 with poison := (touched 4 a bs.length).foldl (fun m w =>
      if anyPoison (wordPart 4 a bs w).2 then mset notPoisoned m w true else m) e1.poison }

/-- A word that an uncorrectable error of the read hit is poisoned where it lies (R137). -/
def Engine.markWord (e : Engine) (x : Ecc) : Engine :=
  match x with
  | .uncorrectable 0 w => { e with poison := mset notPoisoned e.poison w true }
  | _ => e

/-- The transfer's lines are released and its tag is free; a failure is kept for the program's END (R153). -/
def Engine.endXfer (e : Engine) (x : Xfer) (res : Option (Nat × Nat × Nat)) : Engine :=
  let e1 := foldKeys (fun e k => e.release k) e (xferLines x)
  let e2 := { e1 with
    xfers := e1.xfers.filter fun y => decide (y ≠ x)
    unacked := if x.op = 7 ∧ res.isNone then e1.unacked ++ [x] else e1.unacked }
  match res with
  | none => e2
  | some (st, d0, d1) =>
    e2.withRun fun r =>
      if r.prog ≠ x.prog then r else r.failXfer x.issue st d0 d1

/-- An error met by the DMA read of a scratchpad word: counted, and recorded when uncorrectable (R136, R137). -/
def State.dmaEcc (s : State) (d p : Nat) (x : Ecc) (bay : Nat) : State :=
  match x with
  | .none => s
  | .corrected u w => ((s.setReg (Reg.SRAM_ERR_LAST d p) (u % 8 + w % 2 ^ 18 * 16)).count (Reg.SRAM_CORR_CNT d p) 1).ercAdd d 1
  | .uncorrectable u w =>
    ((s.setReg (Reg.SRAM_ERR_LAST d p) (u % 8 + 8 + w % 2 ^ 18 * 16)).count (Reg.SRAM_UNCORR_CNT d p) 1).raise
      (errRequest d St.SRAM_UNCORRECTABLE 1 p (some bay) (4 * w))

/-- A loft word met an error on a read (R136, R137); while the die's handling is in progress it escalates (R429,
Table 15-7). -/
def State.loftMeet (s : State) (d w : Nat) (m : Medium) (bay : Option Nat) : State :=
  match m with
  | .good => s
  | .corrected => (s.count (Reg.LOFT_CORR_CNT d) 1).ercAdd d 1
  | _ =>
    let e := errRequest d St.SRAM_UNCORRECTABLE 2 0 bay (8 * w)
    ((s.loftMark d w true).count (Reg.LOFT_UNCORR_CNT d) 1).raise (if (s.handlingOf d).isSome then { e with level := 2 } else e)

/-- The failure of an access to the bay range, as a transfer reports it. -/
def State.accResult (s : State) (b : Nat) (a : Acc) : Option (Nat × Nat × Nat) :=
  match a with
  | .fail st va => some (st, s.vaDetail b st va)
  | _ => none

/-- Poisoned words among bytes read from loft address `la` or scratchpad address `sa` (R255). -/
def State.loftPoison (s : State) (d la : Nat) (bs : List PByte) : Option (Nat × Nat × Nat) :=
  if anyPoison bs then some (St.POISONED, s.loftDetail d St.POISONED (la + firstPoison bs)) else none

def State.spadPoison (s : State) (d p sa : Nat) (bs : List PByte) : Option (Nat × Nat × Nat) :=
  if anyPoison bs then some (St.POISONED, s.spadDetail d ((s.logOf d p).getD 0x3F) St.POISONED (sa + firstPoison bs))
  else none

/-- The source bytes of an LFTW or XPUT; a lost word ends the transfer with STATE_LOST (R437). -/
def State.xferSource (s : State) (d p : Nat) (x : Xfer) (ecc : Ecc) : State × Option (List PByte) :=
  let s1 := s.dmaEcc d p ecc x.bay
  let e := (s1.eng d p).markWord ecc
  let s2 := s1.setEng d p e
  if e.lost && (touched 4 x.src x.len).any e.isLost then (s2, none) else (s2, some (e.dmaRead x.src x.len))

def State.endXferAt (s : State) (d p : Nat) (x : Xfer) (res : Option (Nat × Nat × Nat)) : State :=
  s.setEng d p ((s.eng d p).endXfer x res)

/-- LFTR: loft bytes land in the scratchpad. -/
def State.lftrDone (s : State) (d p : Nat) (x : Xfer) (m : Medium) : State :=
  match s.loftRefuses d (some x.bay) x.src x.len with
  | some st => s.endXferAt d p x (some (st, s.loftDetail d st x.src))
  | none =>
    let s1 := s.loftMeet d (x.src / 8) m (some x.bay)
    let bs := s1.loftGet d x.src x.len
    (s1.setEng d p ((s1.eng d p).dmaWrite x.dst bs)).endXferAt d p x (s1.loftPoison d x.src bs)

/-- LFTW: scratchpad bytes land in the loft. -/
def State.lftwDone (s : State) (d p : Nat) (x : Xfer) (ecc : Ecc) : State :=
  match s.loftRefuses d (some x.bay) x.dst x.len with
  | some st => s.endXferAt d p x (some (st, s.loftDetail d st x.dst))
  | none =>
    let r := s.xferSource d p x ecc
    match r.2 with
    | none => r.1.endXferAt d p x (some (St.STATE_LOST, r.1.dieDetail d, 0))
    | some bs =>
      let q := r.1.loftPut d x.dst bs
      q.1.endXferAt d p x (match q.2 with | some st => some (st, q.1.loftDetail d st x.dst) | none => q.1.spadPoison d p x.src bs)

/-- XPUT: the bytes leave the scratchpad, for another device or for a range of this one. -/
def State.xputDone (s : State) (d p : Nat) (x : Xfer) (ecc : Ecc) : State :=
  let r := s.xferSource d p x ecc
  match r.2 with
  | none => r.1.endXferAt d p x (some (St.STATE_LOST, r.1.dieDetail d, 0))
  | some bs =>
    if x.dev = s.ownDev then
      let q := r.1.vaWrite (.xfer d p x.tag) .bay x.bay x.dst bs
      if q.2 = .wait then q.1
      else
        let res := match q.1.accResult x.bay q.2 with | some y => some y | none => q.1.spadPoison d p x.src bs
        let e := (q.1.eng d p).endXfer x res
        q.1.setEng d p { e with unacked := e.unacked.filter fun y => decide (y ≠ x) }
    else if anyPoison bs then r.1.endXferAt d p x (r.1.spadPoison d p x.src bs)
    else
      (r.1.endXferAt d p x none).remoteWrite (.xput d p x.prog x.issue) x.bay x.dev (remoteBay x.bay x.dev) x.dst (bs.map pbyte)

/-- XGET: the bytes land once every response is in; poisoned ones land marked poisoned (R255), those before any other
failure stand. -/
def State.xgetDone (s : State) (d p : Nat) (x : Xfer) (m : Medium) : State :=
  if x.dev = s.ownDev then
    let r := s.vaReadM (.xfer d p x.tag) m x.bay x.src x.len
    match r.2.2 with
    | .wait => r.1
    | .ok => (r.1.setEng d p ((r.1.eng d p).dmaWrite x.dst r.2.1)).endXferAt d p x none
    | .fail st va =>
      let good := if st = St.POISONED then r.2.1 else r.2.1.take (va - x.src)
      (r.1.setEng d p ((r.1.eng d p).dmaWrite x.dst good)).endXferAt d p x (some (st, r.1.vaDetail x.bay st va))
  else
    let mine (r : FabReq) : Bool := (packetCuts x.len).any fun c => decide (r.owner = .xget d p x.tag c.1)
    let rs := s.fab.reqs.filter mine
    if !(rs.all (·.done)) then s
    else
      let s1 := rs.foldl (fun s r =>
        match r.owner, r.st with
        | .xget _ _ _ off, .ended 0 _ _ bs => s.setEng d p ((s.eng d p).dmaWrite (x.dst + off) (unpoisoned (bs.take r.len)))
        | _, _ => s) s
      (s1.dropReqs mine).endXferAt d p x (firstFailed rs)

/-- ASYNC_TRANSFER_COMPLETE of the transfer that holds `tag`. -/
def State.asyncDone (s : State) (d p tag : Nat) (ecc : Ecc) (m : Medium) : State :=
  match (s.eng d p).xfers.find? fun x => decide (x.tag = tag) with
  | none => s
  | some x =>
    if s.dieState d ≠ dieOn then s
    else if x.op = 5 then s.lftrDone d p x m
    else if x.op = 6 then s.lftwDone d p x ecc
    else if x.op = 7 then s.xputDone d p x ecc
    else s.xgetDone d p x m

/-! ### Events of SIGE (R185) -/

/-- SIGE_EVENT_APPLY: the oldest SIGE whose program's earlier XPUTs and LFTWs are all acknowledged. -/
def State.sigeApply (s : State) (d p : Nat) : State :=
  let e := s.eng d p
  match e.siges with
  | [] => s
  | g :: rest =>
    let before (x : Xfer) : Bool := decide (x.prog = g.prog) && decide (x.issue ≤ g.cyc) && (decide (x.op = 6) || decide (x.op = 7))
    if e.xfers.any before || e.unacked.any before then s
    else (s.setEng d p { e with siges := rest }).evtAdd g.bay g.event 1

/-! ### Meanings -/

def execEngineClockChange (die : CDie) (mhz : Nat) (s : State) : Outcome State Fault Refusal := .next (s.setClock die.val mhz)
def execProgramFirstIssue (die : CDie) (eng : PhysEng) (s : State) : Outcome State Fault Refusal :=
  .next (s.firstIssue die.val eng.val)
def execImageFetchComplete (die : CDie) (eng : PhysEng) (handle : W32) (base : BitVec 12) (m : Medium) (s : State) :
    Outcome State Fault Refusal := .next (s.imageFetch die.val eng.val handle base.toNat m)
def execTileOverrunExpiry (die : CDie) (eng : PhysEng) (s : State) : Outcome State Fault Refusal :=
  .next (s.overrun die.val eng.val)
def execEngineClockGate (die : CDie) (eng : PhysEng) (s : State) : Outcome State Fault Refusal :=
  .next (s.clockGate die.val eng.val)
def execEngPowerReq (die : CDie) (eng : PhysEng) (data : W32) (s : State) : Outcome State Fault Refusal :=
  .next (s.engPower die.val eng.val data.toNat)
def execEnginePowerUpDone (die : CDie) (eng : PhysEng) (pass : Bool) (s : State) : Outcome State Fault Refusal :=
  .next (s.powerUp die.val eng.val pass)
def execSentCtrlWrite (die : CDie) (eng : PhysEng) (data : W32) (s : State) : Outcome State Fault Refusal :=
  .next (if s.dieState die.val = dieOn then s.sentCtrl die.val eng.val data.toNat else s)
/-- DMA_PROMOTION: a DMA access of the bank has waited 64 engine cycles (R122). -/
def execDmaPromotion (die : CDie) (eng : PhysEng) (bank : BitVec 4) (s : State) : Outcome State Fault Refusal :=
  .next (s.engineDo die.val eng.val fun e => { e with promoted := e.promoted ++ [bank.toNat] })
def execAsyncTransferComplete (die : CDie) (eng : PhysEng) (tag : BitVec 3) (ecc : Ecc) (m : Medium) (s : State) :
    Outcome State Fault Refusal := .next (s.asyncDone die.val eng.val tag.toNat ecc m)
def execSigeEventApply (die : CDie) (eng : PhysEng) (s : State) : Outcome State Fault Refusal :=
  .next (s.sigeApply die.val eng.val)

end Sys2Proof.Machine
end

