-- ==== Sys2Proof/Machine/Loft.lean ====
section
/-! DEFINITION. Bank ownership, the hardware clear and the loft (R123 to R140): the rows SPAD_OWN_WRITE to
LOFT_REQUEST. -/

namespace Sys2Proof.Machine

open Host (Outcome)

/-! ### Handovers (R125, R126) -/

/-- PENDING of bank k and of SPAD_OWN_PEND. -/
def State.setPending (s : State) (d p k : Nat) (b : Bool) : State :=
  (s.setFld (Reg.SPAD_OWN d p k) 13 1 (b2n b 1)).setFld (Reg.SPAD_OWN_PEND d p) k 1 (b2n b 1)

/-- SPAD_OWN_WRITE (Table 04-8). -/
def State.spadOwnWrite (s : State) (d p k v : Nat) : State :=
  if s.dieState d ≠ dieOn then s
  else
    let o := bitsAt v 0 5
    let s1 := s.setFld (Reg.SPAD_OWN d p k) 5 1 (bitsAt v 5 1)
    if 0x11 ≤ o ∧ o ≤ 0x1E then s1
    else
      let s2 := s1.setFld (Reg.SPAD_OWN d p k) 8 5 o
      s2.setPending d p k (decide (o ≠ s.fld (Reg.SPAD_OWN d p k) 0 5))

/-- Whether a program of the contexts that a handover concerns runs. -/
def Engine.runsFor (e : Engine) (old new : Nat) : Bool :=
  match e.run with
  | none => false
  | some r => decide (16 ≤ old) || decide (16 ≤ new) || decide (r.launch.ctx = old) || decide (r.launch.ctx = new)

/-- A transfer into or out of bank k is in flight. -/
def Engine.bankBusy (e : Engine) (k : Nat) : Bool := e.xfers.any fun x => (xferLines x).any fun l => decide (l % 16 = k)

/-- The bytes of bank k read zero, with their poison gone (R126). -/
def Engine.clearBank (e : Engine) (k : Nat) : Engine :=
  let e1 := e.keep ((List.range 262144).filter fun w => decide (w / 16 % 16 = k))
  { e1 with
    spad := mclear e.spad fun a => decide (a / 64 % 16 = k)
    poison := mclear e.poison fun w => decide (w / 16 % 16 = k) }

/-- SPAD_HANDOVER. -/
def State.spadHandover (s : State) (d p k : Nat) : State :=
  let r := s.reg (Reg.SPAD_OWN d p k)
  let e := s.eng d p
  if s.dieState d ≠ dieOn ∨ bitsAt r 13 1 = 0 ∨ e.runsFor (bitsAt r 0 5) (bitsAt r 8 5) ∨ e.bankBusy k then s
  else
    let s1 := if bitsAt r 5 1 = 1 then s.setEng d p (e.clearBank k) else s
    (s1.setFld (Reg.SPAD_OWN d p k) 0 5 (bitsAt r 8 5)).setPending d p k false

/-! ### The hardware clear (R132 to R134) -/

/-- No program, no launch waiting and no transfer on the die. -/
def State.dieQuiet (s : State) (d : Nat) : Bool :=
  (List.range 52).all fun p =>
    let e := s.eng d p
    e.run.isNone && decide (e.iq = []) && decide (e.xfers = [])

/-- A START of the clear, from apex firmware. -/
def State.clearStart (s : State) (d : Nat) : State :=
  if s.fld (Reg.CLR_STATUS d) 0 2 = 1 ∧ s.dieState d = dieOn then s
  else if s.dieState d = dieOn ∧ s.dieQuiet d then
    (s.setReg (Reg.CLR_STATUS d) 1).onLofts fun l => { l with clr := mset (fun _ => 0) l.clr d s.now }
  else s.setFld (Reg.CLR_STATUS d) 2 1 1

/-- Every structure of the die and its loft hold zero, poison and lost marks are gone (R132, R138, R437). -/
def State.clearDie (s : State) (d : Nat) : State :=
  let s1 := s.onLofts fun l => { l with
    bytes := mclear l.bytes fun k => decide (k / 2 ^ 25 = d)
    poison := mclear l.poison fun k => decide (k / 2 ^ 22 = d)
    lost := mset (fun _ => 0) l.lost d 0
    fresh := mclear l.fresh fun k => decide (k / 2 ^ 25 = d)
    pcache := l.pcache.filter fun c => decide (c.die ≠ d) }
  (s1.setReg (Reg.LOFT_POISON_CNT d) 0).forAll (List.range 52) fun s p =>
    if s.pwr d p = 0 then s
    else
      let e := s.eng d p
      let s2 := s.setEng d p { Engine.zero with evFlags := e.evFlags, testing := e.testing, progs := e.progs }
      ((s2.setReg (Reg.SENT_LOG_PTR d p) 0).forAll (List.range 64) fun s i => s.setReg (Reg.SENT_LOG d p i) 0).ibStatus d p

/-- CLEAR_DONE: the verify pass ends with or without a mismatch; `failing` names engines whose random lane fails its
self-test (R334). -/
def State.clearDone (s : State) (d : Nat) (mismatch : Bool) (failing : List PhysEng) : State :=
  if s.fld (Reg.CLR_STATUS d) 0 2 ≠ 1 ∨ s.dieState d ≠ dieOn then s
  else if mismatch ∧ s.fld (Reg.CLR_STATUS d) 3 1 = 0 then s.setFld (Reg.CLR_STATUS d) 3 1 1
  else
    let s1 := s.clearDie d
    let s2 := s1.setReg (Reg.CLR_TIME d) (min 0xFFFFFFFF (s.now - mget (fun _ => 0) s.lofts.clr d))
    if mismatch then
      (s2.setFld (Reg.CLR_STATUS d) 0 2 3).raise (errRequest d St.CLEAR_FAILED 0 0 (s.bayOfDie d) 0)
    else
      (s2.setFld (Reg.CLR_STATUS d) 0 2 2).forAll (List.range 52) fun s p =>
        if s.pwr d p = 0 then s else s.selfTest d p (!failing.any fun x => decide (x.val = p))

/-! ### Patrol and requests -/

/-- PATROL_SCRUB_READ of a loft word (R136, R137). -/
def State.patrol (s : State) (d w : Nat) (m : Medium) : State :=
  if s.dieState d ≠ dieOn ∨ s.fld (Reg.LOFT_PATROL d) 0 1 = 0 ∨ s.fld (Reg.CLR_STATUS d) 0 2 = 1 then s
  else s.loftMeet d w m (s.bayOfDie d)

/-- LOFT_REQUEST: a mesh request of a bay (none: device traffic) reads `n` bytes or writes `bs` (R130, R137, R138). -/
def State.loftRequest (s : State) (d : Nat) (bay : Option Nat) (la n : Nat) (bs : Option (List PByte)) (m : Medium) : State :=
  let len := match bs with | some l => l.length | none => n
  match s.loftRefuses d bay la len with
  | some st => s.emit (.loftAnswer d st [])
  | none =>
    match bs with
    | none =>
      let s1 := s.loftMeet d (la / 8) m bay
      let r := s1.loftGet d la n
      s1.emit (.loftAnswer d (if anyPoison r then St.POISONED else St.OK) r)
    | some l =>
      let r := s.loftPut d la l
      r.1.emit (.loftAnswer d (r.2.getD St.OK) [])

/-! ### Meanings -/

def execSpadOwnWrite (die : CDie) (eng : PhysEng) (bank : BitVec 4) (data : W32) (s : State) : Outcome State Fault Refusal :=
  .next (s.spadOwnWrite die.val eng.val bank.toNat data.toNat)
def execSpadHandover (die : CDie) (eng : PhysEng) (bank : BitVec 4) (s : State) : Outcome State Fault Refusal :=
  .next (s.spadHandover die.val eng.val bank.toNat)
/-- CLEAR_START: a write of CLR_CTRL.START, discarded from any agent but apex firmware. -/
def execClearStart (by_ : Agent) (die : CDie) (s : State) : Outcome State Fault Refusal :=
  .next (match by_ with | .firmware => s.clearStart die.val | .link _ => s)
def execPatrolScrubRead (die : CDie) (word : BitVec 22) (m : Medium) (s : State) : Outcome State Fault Refusal :=
  .next (s.patrol die.val word.toNat m)
def execLoftRequest (die : CDie) (bay : Option BayId) (la : BitVec 25) (n : Nat) (bs : Option (List PByte)) (m : Medium)
    (s : State) : Outcome State Fault Refusal :=
  .next (s.loftRequest die.val (bay.map (·.val)) la.toNat n bs m)

end Sys2Proof.Machine
end

