-- ==== Sys2Proof/Machine/Accept.lean ====
section
/-! DEFINITION. The checks of acceptance (R179): which opcodes there are and their PSLOTS (Table 06-3), the
reserved bits of their parameters, the privilege rule (R172), and each opcode's checks of its own fields. -/

namespace Sys2Proof.Machine

/-- Parameter word `i` of a packet's words. -/
def pw (ws : List W32) (i lo w : Nat) : Nat := wordField ws (16 + i) lo w

/-- The 64-bit value of two parameter words. -/
def pw64 (ws : List W32) (i : Nat) : Nat := pw ws i 0 32 + pw ws (i + 1) 0 32 * 2 ^ 32

def f32 : Nat := 0xFFFFFFFF
def hi57 : Nat := 0x1FFFFFF

/-- The opcodes of Table 06-3. -/
def knownOps : List Nat :=
  [0x00, 0x01, 0x02, 0x03, 0x04, 0x05, 0x06, 0x07, 0x10, 0x11, 0x12, 0x13, 0x18, 0x19, 0x1A, 0x1B, 0x1C,
   0x20, 0x21, 0x22, 0x23, 0x24, 0x28, 0x29, 0x30, 0x31, 0x38, 0x40, 0x41, 0x42, 0x43, 0x44, 0x48]

/-- MIRROR_CFG's slots: one, and one for every four ranges of SOURCE and RESTORE (R445). -/
def mirrorSlots (ws : List W32) : Nat :=
  if pw ws 0 0 3 = 0 ∨ pw ws 0 0 3 = 3 then 1 + (pw ws 6 0 5 + 3) / 4 else 1

/-- The PSLOTS an opcode allows (Table 06-3 and the chapters that define it). -/
def slotsOk (op n : Nat) (ws : List W32) : Bool :=
  match op with
  | 0x00 | 0x04 | 0x07 => decide (n = 0)
  | 0x01 => decide (n = 2)
  | 0x41 => decide (n = 4)
  | 0x42 => decide (n = 5)
  | 0x31 => decide (n = mirrorSlots ws)
  | 0x20 | 0x24 | 0x28 | 0x29 => decide (1 ≤ n)
  | 0x38 =>
    let o := pw ws 0 0 4
    decide (1 ≤ n) && (if o = 2 ∨ o = 3 then decide (n = 4) else if o ≤ 4 then decide (n = 1) else true)
  | _ => decide (n = 1)

def adminOp (op : Nat) : Bool := decide (0x40 ≤ op) && decide (op ≤ 0x44)

/-- The bits of each parameter word that are not reserved; words beyond the list are reserved. -/
def paramMasks (op : Nat) (ws : List W32) : List Nat :=
  match op with
  | 0x01 => List.replicate 18 f32 ++ [hi57, 0x3FF, f32, 0xFFFF, 0x3FF]
  | 0x02 => [0xFFF, 0x3FFFFF, f32, hi57, f32, hi57, f32]
  | 0x03 => [0xF0C, 0x3FF800, 0, 0, f32, hi57, f32, f32]
  | 0x05 => [0x3FFFFF, f32, 0xFFFF]
  | 0x06 => [0x3FFF, f32, 0xFFFF]
  | 0x10 =>
    let t3 := decide (pw ws 0 0 2 = 1)
    [0x7FFF, f32, hi57, 0xFFFFFF, if t3 then f32 else 0, if t3 then f32 else 0,
     if t3 && decide (pw ws 0 6 1 = 0) then f32 else 0, if t3 && decide (pw ws 0 6 1 = 0) then f32 else 0,
     if t3 then 0 else f32]
  | 0x11 => [1, f32, hi57]
  | 0x12 =>
    let t3 := decide (pw ws 0 0 2 = 1)
    [0x2F, f32, hi57, 0, if t3 then f32 else 0, if t3 then f32 else 0, if t3 then f32 else 0,
     if t3 then f32 else 0, if t3 then 0 else f32]
  | 0x13 => if pw ws 0 4 1 = 1 then List.replicate 16 f32
            else [0x7FFFFF, 0x7FF, f32, hi57, f32, 0xFFFF]
  | 0x18 | 0x19 => [3, 0x7FF, f32, hi57]
  | 0x1A => [3, 0x3FFF, f32, hi57]
  | 0x1B => [3, 0x3FFF]
  | 0x1C =>
    if pw ws 0 2 1 = 1 then [7, 0, 0, 0, 0, 0x7FF, f32, hi57]
    else [0x1FFF, 0x7FFF, 0xFFFFF, 0x3FFFFF, 0x3FFF, 0x7FF, f32, hi57,
          if pw ws 0 11 1 = 1 then f32 else 0, if pw ws 0 11 1 = 1 then hi57 else 0, f32, 0xFFFFF]
  | 0x20 | 0x24 =>
    let fabric := decide (pw ws 0 2 2 = 1)
    [if op = 0x20 then 0x1F else 0xF, f32, hi57, if fabric then 0 else f32, if fabric then 0 else hi57,
     if fabric then 0xFFFFFF else 0, if op = 0x24 then 0xFFFFFF else 0, if fabric then 0x1FFFFFFF else 2 ^ 28,
     if fabric then 0x3FF else 0]
  | 0x21 => if pw ws 0 2 2 = 2 then [0xF, f32, hi57, f32, hi57] else [0xF]
  | 0x22 => [0x23, 0, 0, 0, 0, 0, 0xFFFFFF]
  | 0x23 => [0x43]
  | 0x28 => [0x3F, 0xFFFF, f32, hi57, f32, hi57, f32, 0xFFFFFF]
  | 0x29 => [0x7FF, 0xFFFF, f32, hi57, f32, hi57, f32, 0xFFFFFF]
  | 0x30 => [0x1F, f32, f32, hi57, 0x1FF, f32, hi57, f32, 0x3FF, 0x3FF, 0xFFFF, f32, 1]
  | 0x31 =>
    [7, 0xFFFFFFF, f32, hi57, 0xFFFFFF, 0x3FF, 0x1F] ++ List.replicate 9 0 ++
      (List.range (pw ws 6 0 5)).flatMap fun _ => [f32, hi57, 0xFFFFFF, 0]
  | 0x38 =>
    let o := pw ws 0 0 4
    [if o = 0 then 0x1FF else 0xFF, if o ≤ 1 then f32 else 0, if o ≤ 1 then f32 else 0] ++
      List.replicate 8 (if o = 0 then f32 else 0) ++ List.replicate 5 0 ++
      (if o = 2 ∨ o = 3 then (if o = 3 then 0xF else f32) :: List.replicate 37 f32 else [])
  | 0x41 =>
    [0xFF, 0xFFFF, 0xF] ++ List.replicate 9 f32 ++ List.replicate 4 0 ++ List.replicate 36 f32
  | 0x40 => [0x7F, 0x1FFFFFF, f32, 0x3FF003F, 0xFFFF, 0xFFFFFF, 0x7F, 0xFFFFFF]
  | 0x42 =>
    [0x1FF] ++ List.replicate 15 0 ++ ((List.range 20).flatMap fun _ => [f32, 0xFFFF]) ++ List.replicate 8 0 ++
      List.replicate 16 f32
  | 0x43 => [0xF]
  | 0x44 => [0x1F]
  | 0x48 => [0x7FFFF, f32, f32]
  | _ => List.replicate 112 f32

/-- The bits of the header words that are not reserved (Table 06-2). -/
def headerMasks (ws : List W32) : List Nat :=
  let n := wordField ws 2 0 3
  let remote := decide (wordField ws 3 2 1 = 1)
  [0xFF003FFF, f32, 0xFFFFFF07, 0x3FFF, f32, 0xFFFF, if remote then 0xFFFFFFF else 0, 0] ++
    (List.range 4).flatMap fun i => if i < n then [0xFFFF03FF, f32] else [0, 0]

/-- Some bit outside the masks is set (R5). -/
def outside (ws : List W32) (masks : List Nat) : Bool :=
  (List.range ws.length).any fun i =>
    decide ((ws.getD i 0).toNat &&& ((f32 ^^^ masks.getD i 0)) ≠ 0)

/-- A virtual address of 57 bits lies off a boundary. -/
def misaligned (a k : Nat) : Bool := decide (a % k ≠ 0)

/-- Bits of a COPY or FILL address above its space's width (Table 06-6). -/
def addrTooWide (space a : Nat) : Bool :=
  (decide (space = 1) && decide (2 ^ 25 ≤ a)) || (decide (space = 2) && decide (2 ^ 20 ≤ a))

/-- COPY and FILL (R181, Table 06-6). -/
def copyCheck (copy : Bool) (ws : List W32) : Option Nat :=
  let ss := pw ws 0 0 2
  let ds := pw ws 0 2 2
  let sa := pw64 ws 2
  let da := pw64 ws 4
  let n := pw ws 6 0 32
  let samePlace := decide (ss = ds) && (decide (ss = 0) || (decide (pw ws 1 0 5 = pw ws 1 11 5) &&
    (decide (ss = 1) || decide (pw ws 1 5 6 = pw ws 1 16 6))))
  if addrTooWide ss sa || addrTooWide ds da then some St.RESERVED_NONZERO
  else if ss = 3 ∨ ds = 3 then some St.ILLEGAL_FIELD
  else if (decide (ss ≠ 0) && decide (20 ≤ pw ws 1 0 5)) || (decide (ds ≠ 0) && decide (20 ≤ pw ws 1 11 5)) then
    some St.ILLEGAL_FIELD
  else if (decide (ss = 2) && (misaligned sa 4 || misaligned n 4 || decide (48 ≤ pw ws 1 5 6))) ||
      (decide (ds = 2) && (misaligned da 4 || misaligned n 4 || decide (48 ≤ pw ws 1 16 6))) then some St.ILLEGAL_FIELD
  else if copy && samePlace && decide (n ≠ 0) && decide (sa < da + n) && decide (da < sa + n) then some St.ILLEGAL_FIELD
  else none

/-- MEM_MAP's fields (R237, Table 08-3). -/
def memMapCheck (ws : List W32) : Option Nat :=
  let home := pw ws 0 0 2
  let va := pw64 ws 1
  let n := pw ws 3 0 24
  let bad := decide (2 ≤ home) || misaligned va 65536 || decide (n = 0) || decide (apertureBase < va + n * 65536) ||
    decide (5 ≤ pw ws 0 7 4) || (decide (pw ws 0 7 4 = 0) && decide (pw ws 0 11 4 ≠ 0)) ||
    (decide (home = 0) && decide (pw ws 0 2 2 ≠ 0 ∨ pw ws 0 5 2 ≠ 0)) ||
    (decide (home = 1) && decide (pw ws 0 3 1 = 1) && decide (pw ws 0 2 1 = 0)) ||
    (decide (home = 1) && (misaligned (pw64 ws 4) 4096 || misaligned (pw64 ws 6) 4096))
  if bad then some St.ILLEGAL_FIELD else none

/-- MIGRATE's fields (R249). -/
def migrateCheck (ws : List W32) : Option Nat :=
  let home := pw ws 0 0 2
  if decide (2 ≤ home) || (decide (home = 0) && decide (pw ws 0 2 2 ≠ 0 ∨ pw ws 0 5 1 ≠ 0)) ||
      (decide (home = 1) && decide (pw ws 0 3 1 = 1) && decide (pw ws 0 2 1 = 0)) ||
      (decide (home = 1) && (misaligned (pw64 ws 4) 4096 || misaligned (pw64 ws 6) 4096)) || decide (apertureBase ≤ pw64 ws 1)
  then some St.ILLEGAL_FIELD else none

/-- PREFETCH_SCHED's fields (R248, Table 08-6). -/
def prefetchCheck (ws : List W32) : Option Nat :=
  if pw ws 0 4 1 = 1 then none
  else if pw ws 0 16 7 = 0 ∨ 64 < pw ws 0 16 7 ∨ pw ws 1 0 11 = 0 ∨ 1024 < pw ws 1 0 11 then some St.ILLEGAL_FIELD
  else none

/-- The KV commands' counts and addresses (R266, R267, R269, R282). -/
def kvCheck (op : Nat) (ws : List W32) : Option Nat :=
  let nseq := if op = 0x1C then pw ws 5 0 11 else pw ws 1 0 11
  if op = 0x1A then if misaligned (pw64 ws 2) 65536 then some St.ILLEGAL_FIELD else none
  else if op = 0x1B then none
  else if nseq = 0 ∨ 1024 < nseq then some St.ILLEGAL_FIELD
  else if op = 0x1C ∧ pw ws 0 2 1 = 0 then
    if pw ws 3 0 11 = 0 ∨ 1024 < pw ws 3 0 11 ∨ pw ws 3 11 11 = 0 ∨ 1024 < pw ws 3 11 11 ∨ 20 ≤ pw ws 1 0 5 ∨
        48 ≤ pw ws 1 5 6 ∨ (pw ws 0 11 1 = 1 ∧ (1024 < pw ws 10 0 11 ∨ pw ws 10 11 9 = 0 ∨ 256 < pw ws 10 11 9)) then
      some St.ILLEGAL_FIELD
    else none
  else none

/-- The rethatch commands (Table 10-5). -/
def rtCheck (op : Nat) (ws : List W32) : Option Nat :=
  let o := pw ws 0 2 2
  if (op = 0x20 ∨ op = 0x24) ∧ (2 ≤ o ∨ (o = 0 ∧ pw ws 7 28 1 = 1) ∨ (o = 1 ∧ pw ws 5 0 24 = 0)) ∨ (op = 0x21 ∧ o = 3) then
    some St.ILLEGAL_FIELD
  else none

/-- RIDGE and VALLEY, as far as the group entry does not decide (R378, Table 13-5). -/
def collCheck (valley : Bool) (ws : List W32) : Option Nat :=
  let dt := pw ws 0 6 2
  let op := pw ws 0 8 2
  let n := pw ws 6 0 32
  if (valley ∧ (dt = 3 ∨ op = 3 ∨ (dt = 2 ∧ op ≠ 0))) ∨ n = 0 ∨ 2 ^ 32 - 16 < n ∨
      n % (if valley ∧ dt = 2 then 16 else 4) ≠ 0 ∨ pw64 ws 2 % 16 ≠ 0 ∨ pw64 ws 4 % 16 ≠ 0 then some St.ILLEGAL_FIELD
  else none

/-- CKPT and MIRROR_CFG (R445, R451, Tables 15-9, 15-10). -/
def ckptCheck (ws : List W32) : Option Nat :=
  let op := pw ws 0 0 2
  if op = 3 ∨ (op ≠ 1 ∧ !(op = 2 ∧ pw ws 0 4 1 = 1) ∧
      (pw ws 1 16 16 = 0 ∨ pw ws 1 16 16 ≤ pw ws 1 0 16 ∨ pw ws 4 0 9 = 0 ∨ 256 < pw ws 4 0 9)) then
    some St.ILLEGAL_FIELD
  else none

def mirrorCheck (ws : List W32) : Option Nat :=
  let op := pw ws 0 0 3
  let n := pw ws 6 0 5
  if 6 ≤ op ∨ ((op = 0 ∨ op = 3) ∧ (n = 0 ∨ 16 < n)) ∨ (op = 1 ∧ (misaligned (pw64 ws 2) 65536 = true ∨ pw ws 4 0 24 = 0))
  then some St.ILLEGAL_FIELD else none

/-- BAY_CREATE's ranges (Table 07-3). -/
def createCheck (ws : List W32) : Option Nat :=
  let auto := pw ws 0 5 1
  let autoG := pw ws 0 6 1
  if (auto = 1 ∧ (pw ws 1 20 5 = 0 ∨ 20 < pw ws 1 20 5)) ∨ (autoG = 1 ∧ (pw ws 3 0 6 = 0 ∨ 32 < pw ws 3 0 6)) ∨
      18 < pw ws 3 16 5 ∨ 18 < pw ws 3 21 5 ∨ pw ws 3 21 5 < pw ws 3 16 5 ∨ 64 < pw ws 6 0 7 then
    some St.ILLEGAL_FIELD
  else none

/-- The checks that an opcode makes of its own fields. -/
def ownCheck (op : Nat) (ws : List W32) : Option Nat :=
  match op with
  | 0x01 =>
    if pw ws 20 0 32 = 0 ∧ pw ws 21 0 16 = 0 then some St.ILLEGAL_FIELD
    else if misaligned (pw64 ws 17) 16 then some St.ILLEGAL_FIELD
    else if 20 ≤ pw ws 19 0 5 then some St.ILLEGAL_FIELD
    else none
  | 0x02 => copyCheck true ws
  | 0x03 => copyCheck false ws
  | 0x05 =>
    if pw ws 0 10 11 = 0 ∨ 1024 < pw ws 0 10 11 ∨ 1024 < pw ws 0 0 10 + pw ws 0 10 11 then some St.ILLEGAL_FIELD
    else none
  | 0x06 => if 20 ≤ pw ws 0 0 5 then some St.ILLEGAL_FIELD else none
  | 0x10 => memMapCheck ws
  | 0x12 => migrateCheck ws
  | 0x13 => prefetchCheck ws
  | 0x18 | 0x19 | 0x1A | 0x1B | 0x1C => kvCheck op ws
  | 0x20 | 0x21 | 0x24 => rtCheck op ws
  | 0x28 | 0x29 => collCheck (decide (op = 0x29)) ws
  | 0x30 => ckptCheck ws
  | 0x31 => mirrorCheck ws
  | 0x38 => if 5 ≤ pw ws 0 0 4 then some St.ILLEGAL_FIELD else none
  | 0x40 => createCheck ws
  | 0x41 => if pw ws 0 4 4 ≠ 1 then some St.ILLEGAL_FIELD else none
  | 0x48 => if pw ws 0 6 2 = 3 then some St.ILLEGAL_FIELD else none
  | _ => none

/-- The target checks of TILE_LAUNCH and ENG_FLAG (R180, R211, R214): engines of the queue's role group that are
mapped. -/
def State.targetCheck (s : State) (q b : Nat) (ws : List W32) : Option Nat :=
  let d := pw ws 19 0 5
  let r := s.queueRole q
  if (maskList 48 (pw ws 20 0 32 + pw ws 21 0 16 * 2 ^ 32)).all fun l =>
      decide (s.engRole b d l = r) && decide (r ≠ 0xF) && decide (s.physOf d l ≠ 0x3F)
  then none else some St.BAD_TARGET

/-- A resource of another bay named: a die that the bay does not hold (R172, PRIVILEGE). -/
def State.dieCheck (s : State) (b d : Nat) : Option Nat := if s.dieInBay b d then none else some St.PRIVILEGE

/-- The first of several checks that fails. -/
def firstFail (l : List (Option Nat)) : Option Nat := l.findSome? id

/-- The privilege check (code 0x07): an admin opcode on a bay queue, a bay's opcode on an admin queue's missing
bay, or a die of another bay. -/
def State.privilege (s : State) (q op : Nat) (ws : List W32) : Option Nat :=
  match s.qBayOf q with
  | none =>
    if op = 0x38 ∧ pw ws 0 0 4 = 4 then some St.PRIVILEGE
    else if adminOp op || decide (op = 0x00) || decide (op = 0x04) || decide (op = 0x07) || decide (op = 0x38) then none
    else some St.PRIVILEGE
  | some b =>
    if adminOp op then some St.PRIVILEGE
    else
      match op with
      | 0x38 => if pw ws 0 4 4 ≠ b ∨ pw ws 0 0 4 = 1 then some St.PRIVILEGE else none
      | 0x02 | 0x03 =>
        firstFail [if pw ws 0 0 2 = 0 then none else s.dieCheck b (pw ws 1 0 5),
                   if pw ws 0 2 2 = 0 then none else s.dieCheck b (pw ws 1 11 5)]
      | 0x06 => s.dieCheck b (pw ws 0 0 5)
      | 0x1C => if pw ws 0 2 1 = 0 then s.dieCheck b (pw ws 1 0 5) else none
      | _ => none

/-- The checks of R179 in their order: BAD_HEADER, BAD_OPCODE, RESERVED_NONZERO, PRIVILEGE, then the opcode's
own; a device at DEVICE level ends every later command (R441). -/
def State.acceptCheck (s : State) (q : Nat) (ws : List W32) : Option Nat :=
  let op := wordField ws 0 0 8
  let n := wordField ws 0 8 3
  let known := knownOps.any fun k => decide (k = op)
  if wordField ws 0 24 8 ≠ 1 ∨ (known ∧ !slotsOk op n ws) ∨ 4 < wordField ws 2 0 3 ∨ wordField ws 3 0 2 = 3 then
    some St.BAD_HEADER
  else if !known then some St.BAD_OPCODE
  else if outside (ws.take 16) (headerMasks ws) || outside (ws.drop 16) (paramMasks op ws) then
    some St.RESERVED_NONZERO
  else
    match s.privilege q op ws with
    | some st => some st
    | none =>
      match ownCheck op ws with
      | some st => some st
      | none =>
        if s.deviceFault then some St.DEVICE_FAULT
        else
          match s.qBayOf q with
          | none => if wordField ws 2 0 3 ≠ 0 ∨ wordField ws 3 0 2 ≠ 0 then some St.ILLEGAL_FIELD else none
          | some b => if op = 0x01 then s.targetCheck q b ws else none

end Sys2Proof.Machine
end

