-- ==== Sys2Proof/Machine/Queue.lean ====
section
/-! DEFINITION. Command queues: doorbells, fetching and acceptance, start and end of commands, dependency
time-outs and cycles, resume, pre-emption, breakpoints, host signals and the journal's acknowledgement
(R171 to R201). -/

namespace Sys2Proof.Machine

open Host (Outcome)

/-! ### Doorbells (R175) -/

/-- (log entry 21: DEDUCED) -/
def State.doorbell (s : State) (q d : Nat) : State :=
  if !s.apexUp then s
  else
    let step := sub32 d (s.reg (Reg.Q_TAIL q))
    if s.qState q = qDisabled ∨ step = 0 ∨ 2 ^ 31 ≤ step then s.count (Reg.Q_DB_ERR_CNT q) 1
    else if s.qSlots q < sub32 d (s.reg (Reg.Q_HEAD q)) then
      s.haltQueue q St.DOORBELL_OVERRUN (s.reg (Reg.Q_SEQ q)) (s.reg (Reg.Q_HEAD q))
    else
      let t := s.tickStamp
      (t.2.setReg (Reg.Q_TAIL q) d).setQx q { t.2.qx q with dbs := (t.2.qx q).dbs ++ [(d, t.1)] }

/-! ### Fetching (R176) -/

/-- Conditions 1 to 3 of R176, with a packet to read. -/
def State.fetchable (s : State) (q : Nat) : Bool :=
  let x := s.qx q
  decide (s.qState q = qRunning) && !x.disabling && x.fetch.isNone &&
    decide (s.reg (Reg.Q_HEAD q) ≠ s.reg (Reg.Q_TAIL q)) && decide (x.short ≠ some (s.reg (Reg.Q_TAIL q))) &&
    decide (s.qInflight q < 64) && decide (s.cplInUse q < s.qCpl q) &&
    (match s.qBayOf q with | none => true | some b => decide (s.bayState b = bayRunning))

/-- Arrival of the oldest unfetched doorbell of a queue. -/
def State.oldestDb (s : State) (q : Nat) : Nat := (((s.qx q).dbs.head?).map (·.2)).getD 0

/-- The queue that a command processor fetches: the highest priority, then the oldest unfetched doorbell. -/
def State.pickQueue (s : State) (cp : Nat) : Option Nat :=
  ((List.range 64).map fun i => i * 8 + cp).foldl (fun m q =>
    if !s.fetchable q then m
    else
      match m with
      | none => some q
      | some p =>
        if s.qPrio p < s.qPrio q ∨ (s.qPrio p = s.qPrio q ∧ s.oldestDb q < s.oldestDb p) then some q else some p) none

/-- Address of the ring slot of counter value `pos` (R174). -/
def State.slotAddr (s : State) (q pos : Nat) : Nat := s.reg (Reg.Q_RING_BASE q) + 64 * (pos % s.qSlots q)

/-- A packet read starts: a request to host memory, through the coherent cache where a window covers it. -/
def State.readPacket (s : State) (q pos : Nat) : State :=
  let s1 := s.setQx q { s.qx q with fetch := some pos }
  if s.fld (Reg.Q_CFG q) 18 1 = 1 then s1
  else
    let a := s.slotAddr q pos
    if s.fld (Reg.Q_CFG q) 20 1 = 0 && s.ccActive && s.ccCovers a then s1.ccRead (a / 64)
    else if s.linkUp (s.fld (Reg.Q_CFG q) 20 1) then s1.emit (.hostRead (s.fld (Reg.Q_CFG q) 20 1) a 64)
    else s1

/-- COMMAND_FETCH: the journal must be able to take an entry (R176 condition 4, R199). -/
def State.commandFetch (s : State) (cp : Nat) : State :=
  if !s.apexUp then s
  else
    match s.pickQueue cp with
    | none => s
    | some q => if s.jnlFree then s.readPacket q (s.reg (Reg.Q_HEAD q)) else s.count Reg.JNL_HOLD_CNT 1

/-! ### Acceptance (R176, R179) -/

/-- A packet that could not be read. -/
inductive PacketRead where
  | words (ws : List W32)
  | failed (st : Nat)
  | wait

/-- The words of `n` ring slots from counter value `pos` of a ring in the bay range (R173). -/
def State.slotsVa (s : State) (q pos n : Nat) : State × PacketRead :=
  (List.range n).foldl (fun r i =>
    match r.2 with
    | .words ws =>
      let x := r.1.vaRead (.ring q) (r.1.qBay q) (r.1.slotAddr q (pos + i)) 64
      match x.2.2 with
      | .ok => (x.1, .words (ws ++ bytesWords (x.2.1.map pbyte)))
      | .fail st _ => (x.1, .failed st)
      | .wait => (x.1, .wait)
    | _ => r) (s, .words [])

/-- The packet as it was read: from the bay range, from the coherent cache, or as the host returned it. -/
def State.packet (s : State) (q pos : Nat) (ws : List W32) (fail : Nat) : State × PacketRead :=
  if s.fld (Reg.Q_CFG q) 18 1 = 1 then
    let h := s.slotsVa q pos 1
    match h.2 with
    | .words hs => h.1.slotsVa q pos (1 + wordField hs 0 8 3)
    | _ => h
  else if fail ≠ 0 then (s, .failed fail)
  else
    let a := s.slotAddr q pos
    match (if s.fld (Reg.Q_CFG q) 20 1 = 0 then s.ccBytes a 64 else none) with
    | some bs => (s, .words (bytesWords bs ++ (ws.drop 16)))
    | none => (s.count64 (Reg.HL_RX_BYTES (s.fld (Reg.Q_CFG q) 20 1)) (4 * ws.length), .words ws)

/-- Doorbells that the consumed slots cover are no longer unfetched. -/
def pruneDbs (head : Nat) (l : List (Nat × Nat)) : List (Nat × Nat) :=
  l.filter fun e => decide (sub32 e.1 head ≠ 0) && decide (sub32 e.1 head < 2 ^ 31)

/-- Whether the breakpoint matches (R197). -/
def State.breakHit (s : State) (c : Cmd) : Bool :=
  let v := s.reg (Reg.Q_BRK_VAL c.q)
  let m := s.reg (Reg.Q_BRK_MASK c.q)
  decide (s.fld (Reg.Q_BRK_CTRL c.q) 0 1 = 1) &&
    (if s.fld (Reg.Q_BRK_CTRL c.q) 1 1 = 1 then decide (c.tag &&& m = v &&& m) else decide (c.seq = v))

/-- The queue stops before the command starts (R197). -/
def State.enterBreak (s : State) (c : Cmd) : State :=
  let s1 := (s.setCmd { c with phase := .stopped }).jnlState c.jpos 4 0
  (((((s1.setQState c.q qBreak).setReg (Reg.Q_HALT_SEQ c.q) c.seq).setReg (Reg.Q_HALT_SLOT c.q) c.pos).setFld
    (Reg.Q_BRK_CTRL c.q) 0 1 0)).qVector c.q

/-- A packet is accepted (R176, R179): a sequence number, a journal entry and a reserved record; a failing check
completes it at once. -/
def State.accept (s : State) (q pos : Nat) (ws : List W32) (fail : Option Nat) : State :=
  let atHead := decide (s.reg (Reg.Q_HEAD q) = pos)
  let s0 := s.setQx q { s.qx q with fetch := none, retry := false, short := none }
  let head := (pos + 1 + wordField ws 0 8 3) % 2 ^ 32
  let s1 := if fail.isNone && atHead then
      (s0.setReg (Reg.Q_HEAD q) head).setQx q { s0.qx q with dbs := pruneDbs head (s0.qx q).dbs }
    else s0
  let a := s1.acceptCmd q ws pos
  match fail with
  | some st => a.2.complete a.1 St.RING_READ_FAIL st 0 false
  | none =>
    match a.2.acceptCheck q ws with
    | some st => a.2.complete a.1 st 0 0 false
    | none => if a.2.breakHit a.1 then a.2.enterBreak a.1 else a.2

/-- RING_READ_COMPLETE: a read that ends after a condition of R176 has gone leaves the packet in the ring. -/
def State.ringReadComplete (s : State) (q : Nat) (ws0 : List W32) (fail : Nat) : State :=
  match (s.qx q).fetch with
  | none => s
  | some pos =>
    if !s.apexUp then s
    else
      let keep := s.setQx q { s.qx q with fetch := none }
      if !(decide (s.qState q = qRunning) && !(s.qx q).disabling && decide (s.qInflight q < 64) &&
          decide (s.cplInUse q < s.qCpl q)) then keep
      else if !s.jnlFree then keep.count Reg.JNL_HOLD_CNT 1
      else
        let r := s.packet q pos ws0 fail
        match r.2 with
        | .wait => r.1
        | .failed st => r.1.accept q pos [] (some st)
        | .words ws =>
          let n := wordField ws 0 8 3
          if !(s.qx q).retry && decide (sub32 (s.reg (Reg.Q_TAIL q)) pos < 1 + n) then
            r.1.setQx q { r.1.qx q with fetch := none, short := some (s.reg (Reg.Q_TAIL q)) }
          else r.1.accept q pos ((List.range (16 * (1 + n))).map fun i => ws.getD i 0) none

/-! ### Start, end, signal -/

def State.commandStart (s : State) (r : CmdRef) : State :=
  match s.findCmd r.q r.seq.toNat with
  | none => s
  | some c => if s.apexUp && s.mayStart c then s.startCmd c else s

/-- COMMAND_COMPLETE: a remote signal is acknowledged first, and its failure is the command's (R184, R189). -/
def State.commandComplete (s : State) (r : CmdRef) : State :=
  match s.findCmd r.q r.seq.toNat with
  | none => s
  | some c =>
    match c.phase with
    | .finished st d0 d1 =>
      if !s.apexUp then s
      else if c.sigRemote && c.signals st then
        match c.sigRes with
        | none => s
        | some st' => if st' = 0 then s.complete c st d0 d1 true else s.complete c st' 0 0 true
      else s.complete c st d0 d1 true
    | _ => s

/-- The local signal of a completed command (R184). -/
def State.localSignal (s : State) (c : Cmd) : State :=
  match c.bay with
  | none => s.dropCmd c
  | some b => (s.dropCmd c).signal sigFuel b c.sigEvent (decide (c.sigOp = 2)) c.sigValue

/-! ### Dependencies -/

/-- CMD_WAIT_DEFAULT stands in for a timeout of 0; 0xFF_FFFF never expires (Table 06-2). -/
def State.waitLimit (s : State) (c : Cmd) : Nat :=
  if c.timeout = 0 then s.fld Reg.CMD_WAIT_DEFAULT 0 24 else c.timeout

/-- DEP_TIMEOUT of the oldest unstarted command of its queue, unless its waits hold (R187). -/
def State.depTimeout (s : State) (r : CmdRef) : State :=
  match s.findCmd r.q r.seq.toNat with
  | none => s
  | some c =>
    if s.apexUp && c.unstarted && decide ((s.oldest c.q).map (·.seq) = some c.seq) && !s.waitsHold c &&
        decide (s.waitLimit c ≠ 0xFFFFFF) then
      s.complete c St.DEP_TIMEOUT 0 0 true
    else s

/-- A signal of an accepted, unstarted command that could satisfy a wait (R188). -/
def Cmd.couldSatisfy (c : Cmd) (w : Nat × Nat) : Bool :=
  c.unstarted && decide (c.sigEvent = w.1) && !c.sigRemote &&
    ((decide (c.sigOp = 1) && decide (c.sigValue ≠ 0)) || (decide (c.sigOp = 2) && decide (w.2 ≤ c.sigValue)))

/-- Edges of bay b's wait graph over events without EXT: queue, event, next queue (R188). -/
def State.waitEdges (s : State) (b : Nat) : List (Nat × Nat × Nat) :=
  let cs := s.cq.cmds.filter fun c => decide (c.bay = some b)
  cs.flatMap fun c =>
    if decide ((s.oldest c.q).map (·.seq) = some c.seq) && decide (c.phase = .accepted) then
      (c.waits.filter fun w => !decide (w.2 ≤ s.evt b w.1) && !s.evtExt b w.1).flatMap fun w =>
        (cs.filter fun x => x.couldSatisfy w).map fun x => (c.q, w.1, x.q)
    else []

/-- Queues reached from a set along edges. -/
def reach (fuel : Nat) (es : List (Nat × Nat × Nat)) (qs : List Nat) : List Nat :=
  match fuel with
  | 0 => qs
  | n + 1 =>
    let more := (es.filter fun e => qs.contains e.1 && !qs.contains e.2.2).map fun e => e.2.2
    if more.isEmpty then qs else reach n es (qs ++ more.eraseDups)

/-- The edge by which a queue lies on a cycle. -/
def cycleEdge (es : List (Nat × Nat × Nat)) (q : Nat) : Option (Nat × Nat × Nat) :=
  es.find? fun e => decide (e.1 = q) && (decide (e.2.2 = q) || (reach 512 es [e.2.2]).contains q)

/-- DEP_SCAN (R188). -/
def State.depScan (s : State) : State :=
  if !s.apexUp || decide (s.fld Reg.CMD_DEP_SCAN 0 16 = 0) then s
  else s.forAll (List.range 16) fun s b =>
    let es := s.waitEdges b
    let hit := ((es.map (·.1)).eraseDups).filterMap fun q => cycleEdge es q
    s.forAll hit fun s e =>
      match s.oldest e.1 with
      | none => s
      | some c =>
        let s1 := s.raise (errNote 24 1 St.DEP_CYCLE 7 0 (some b) (some (c.q, c.seq, c.tag)) 0 [] false)
        s1.complete { c with errRec := true } St.DEP_CYCLE e.2.1 e.2.2 true

/-! ### Completion ring, enable and disable -/

/-- CPL_HEAD_WRITE (R190). -/
def State.cplHeadWrite (s : State) (q d : Nat) : State :=
  if !s.apexUp then s
  else
    let h := s.reg (Reg.Q_CPL_HEAD q)
    let step := sub32 d h
    if 2 ^ 31 ≤ step ∨ sub32 (s.reg (Reg.Q_CPL_TAIL q)) h < step then s.count (Reg.Q_DB_ERR_CNT q) 1
    else s.setReg (Reg.Q_CPL_HEAD q) d

/-- Whether Q_CFG lets the queue run (R173, R206, R211). -/
def State.cfgOk (s : State) (q : Nat) : Bool :=
  let l := s.fld (Reg.Q_CFG q) 0 5
  let c := s.fld (Reg.Q_CFG q) 5 5
  decide (6 ≤ l) && decide (l ≤ 16) && decide (6 ≤ c) && decide (c ≤ 16) &&
    !misaligned (s.reg (Reg.Q_RING_BASE q)) 4096 && !misaligned (s.reg (Reg.Q_CPL_BASE q)) 4096 &&
    (if s.qAdmin q then decide (s.fld (Reg.Q_CFG q) 18 2 = 0)
     else decide (s.bayState (s.qBay q) = bayRunning) && decide (s.queueRole q ≠ 0xF))

/-- Q_ENABLE (R173, Table 06-10). -/
def State.qEnable (s : State) (q : Nat) : State :=
  if !s.apexUp || decide (s.qState q ≠ qDisabled) then s
  else if !s.cfgOk q then s.setFld (Reg.Q_STATUS q) 4 1 1
  else
    let s1 := s.forAll [Reg.Q_HEAD q, Reg.Q_TAIL q, Reg.Q_CPL_TAIL q, Reg.Q_CPL_HEAD q, Reg.Q_SEQ q]
      fun s a => s.setReg a 0
    ((s1.setFld (Reg.Q_STATUS q) 4 1 0).setQState q qRunning).setQx q .zero

/-- Unstarted commands of a queue complete CANCELLED. -/
def State.cancelUnstarted (s : State) (q : Nat) : State :=
  s.forAll ((s.qCmds q).filter (·.unstarted)) fun s c => (s.ckptEnd c false).complete c St.CANCELLED 0 0 true

/-- Q_DISABLE (Table 06-10). -/
def State.qDisable (s : State) (q : Nat) : State :=
  if !s.apexUp || decide (s.qState q = qDisabled) then s
  else
    let s1 := s.setQx q { s.qx q with disabling := true, fetch := none }
    (s1.cancelUnstarted q).settleDisable q

/-! ### Launches in issue queues -/

/-- Removes a command's launch from an engine's issue queue (R195). -/
def State.withdraw (s : State) (c : Cmd) (d p : Nat) : State :=
  let e := s.eng d p
  let s1 := s.setEng d p { e with iq := e.iq.filter fun l => !(decide (l.q = c.q) && decide (l.seq = c.seq)) }
  match c.bay with
  | none => s1
  | some b => if e.iq.any fun l => decide (l.q = c.q) && decide (l.seq = c.seq) then s1.setUsed b 2 (s1.used b 2 - 1) else s1

/-- Whether a part of a launch waits in an issue queue. -/
def State.partWaits (s : State) (c : Cmd) (p : Part) : Bool :=
  p.entered && !p.done && (s.eng (launchDie c) p.phys).iq.any fun l => decide (l.q = c.q) && decide (l.seq = c.seq)

/-- The waiting launches of a started TILE_LAUNCH are withdrawn; one of which nothing has run returns to the
accepted, unstarted state (R195, Table 06-12). -/
def State.withdrawLaunches (s : State) (c : Cmd) : State :=
  let d := launchDie c
  let back := c.parts.filter fun p => s.partWaits c p
  let s1 := s.forAll back fun s p => s.withdraw c d p.phys
  let parts := c.parts.map fun p => if s.partWaits c p then { p with entered := false } else p
  if parts.all fun p => !p.entered then
    ((s1.setCmd { c with parts := [], ran := false, adm := .none, phase := .accepted }).dropAdm c.q c.seq).jnlState c.jpos 1 0
  else s1.setCmd { c with parts := parts }

/-- Q_PREEMPT (R195). A halted or stopped queue keeps the request for its RESUME (R193). -/
def State.qPreempt (s : State) (q : Nat) : State :=
  if !s.apexUp then s
  else if s.qState q = qRunning then
    let s1 := ((s.setQState q qPreempting).setFld (Reg.Q_STATUS q) 3 1 1).setQx q
      { s.qx q with preAt := s.now, fetch := none }
    s1.forAll ((s1.qCmds q).filter fun c => decide (c.op = 1) && c.started) State.withdrawLaunches
  else if s.qState q = qHalted ∨ s.qState q = qBreak then s.setFld (Reg.Q_STATUS q) 3 1 1
  else s

/-- Commands during whose work their queue reaches PREEMPTED: CKPT and MIRROR_CFG occupy no engine (R456), RT_ARM,
RT_ABORT and stagings from the fabric neither (R318), nor do collectives (R390). -/
def Cmd.runsThrough (c : Cmd) : Bool :=
  decide (c.op = 0x30) || decide (c.op = 0x31) || decide (c.op = 0x22) || decide (c.op = 0x23) ||
    decide (c.op = 0x28) || decide (c.op = 0x29) ||
    ((decide (c.op = 0x20) || decide (c.op = 0x24)) && decide (c.p 0 2 2 = 1))

/-- Work of a command that keeps a pre-empting queue from PREEMPTED (R195). -/
def State.busyFor (s : State) (c : Cmd) : Bool :=
  decide (c.phase = .started) && !c.paused && !c.runsThrough &&
    (decide (c.op ≠ 1) || c.parts.any fun p => p.entered && !p.done)

/-- QUEUE_PREEMPTED (R195, R192). -/
def State.queuePreempted (s : State) (q : Nat) : State :=
  if s.apexUp && decide (s.qState q = qPreempting) && !((s.qCmds q).any fun c => s.busyFor c) then
    ((((s.setQState q qPreempted).setFld (Reg.Q_STATUS q) 3 1 0).setReg (Reg.Q_PREEMPT_NS q)
      (min 0xFFFFFFFF (s.now - (s.qx q).preAt)))).qVector q
  else s

/-! ### Resume (R193) -/

/-- The state a resumed queue enters: PREEMPTING when a pre-emption was requested (R193). -/
def State.resumeTo (s : State) (q : Nat) : State :=
  if s.fld (Reg.Q_STATUS q) 3 1 = 1 then
    (s.setQState q qPreempting).setQx q { s.qx q with preAt := s.now }
  else s.setQState q qRunning

/-- The command stopped at BREAK may start (R193). -/
def State.unstop (s : State) (q : Nat) : State :=
  s.forAll ((s.qCmds q).filter fun c => decide (c.phase = .stopped)) fun s c =>
    (s.setCmd { c with phase := .accepted }).jnlState c.jpos 1 0

/-- Work stopped by pre-emption goes on (R195, R196). -/
def State.unpause (s : State) (q : Nat) : State :=
  s.forAll ((s.qCmds q).filter fun c => c.paused) fun s c => s.setCmd { c with paused := false }

def State.resumeContinue (s : State) (q : Nat) : State :=
  if !s.apexUp then s
  else if s.qState q = qHalted ∨ s.qState q = qBreak ∨ s.qState q = qPreempted then
    ((s.resumeTo q).unstop q).unpause q
  else s

/-- RETRY: valid only in HALTED; the packet at Q_HALT_SLOT is read again. -/
def State.resumeRetry (s : State) (q : Nat) : State :=
  if !s.apexUp || decide (s.qState q ≠ qHalted) then s
  else
    let pos := s.reg (Reg.Q_HALT_SLOT q)
    let s1 := (s.resumeTo q).setQx q { (s.resumeTo q).qx q with retry := true }
    s1.readPacket q pos

def State.resumeDiscard (s : State) (q : Nat) : State :=
  if !s.apexUp then s
  else if s.qState q = qHalted ∨ s.qState q = qBreak then
    let s1 := s.cancelUnstarted q
    let s2 := s1.setReg (Reg.Q_HEAD q) (s1.reg (Reg.Q_TAIL q))
    (s2.setQx q { s2.qx q with dbs := [], fetch := none, short := none }).resumeTo q
  else s

/-! ### Breakpoints, host signals, the journal's acknowledgement -/

/-- BRK_CTRL_WRITE: EN = 1 needs the BREAKPOINT consent of the queue's bay; admin queues never accept it
(R197, Table 14-9). -/
def State.brkCtrlWrite (s : State) (q v : Nat) : State :=
  if !s.apexUp then s
  else if bitsAt v 0 1 = 1 ∧ (s.qAdmin q ∨ s.fld (Reg.BAY_CONSENT (s.qBay q)) 1 1 = 0) then s
  else s.setReg (Reg.Q_BRK_CTRL q) (v % 4)

/-- EVT_SIG (R184, Table 06-11). -/
def State.evtSig (s : State) (v : Nat) : State :=
  if !s.apexUp then s
  else
    let b := bitsAt v 10 4
    let op := bitsAt v 14 2
    if (s.bayState b = bayBuilding ∨ s.bayState b = bayRunning) ∧ (op = 1 ∨ op = 2) then
      s.signal sigFuel b (bitsAt v 0 10) (decide (op = 2)) (bitsAt v 16 48)
    else s.count Reg.EVT_SIG_ERR_CNT 1

/-- JNL_ACK_WRITE (R199). -/
def State.jnlAckWrite (s : State) (d : Nat) : State :=
  if !s.apexUp then s
  else
    let a := s.reg Reg.JNL_ACK
    if 2 ^ 31 ≤ sub32 d a ∨ sub32 (s.reg Reg.JNL_POS) a < sub32 d a then s else s.setReg Reg.JNL_ACK d

/-! ### Meanings -/

def execDoorbell (q : QId) (tail : W32) (s : State) : Outcome State Fault Refusal := .next (s.doorbell q tail.toNat)
def execCommandFetch (cp : Fin 8) (s : State) : Outcome State Fault Refusal := .next (s.commandFetch cp)
def execRingReadComplete (q : QId) (words : List W32) (fail : W16) (s : State) : Outcome State Fault Refusal :=
  .next (s.ringReadComplete q words fail.toNat)
def execCommandStart (c : CmdRef) (s : State) : Outcome State Fault Refusal := .next (s.commandStart c)
def execCommandComplete (c : CmdRef) (s : State) : Outcome State Fault Refusal := .next (s.commandComplete c)
def execDepTimeout (c : CmdRef) (s : State) : Outcome State Fault Refusal := .next (s.depTimeout c)
def execDepScan (s : State) : Outcome State Fault Refusal := .next s.depScan
def execCplHeadWrite (q : QId) (head : W32) (s : State) : Outcome State Fault Refusal := .next (s.cplHeadWrite q head.toNat)
def execQEnable (q : QId) (s : State) : Outcome State Fault Refusal := .next (s.qEnable q)
def execQDisable (q : QId) (s : State) : Outcome State Fault Refusal := .next (s.qDisable q)
def execResumeContinue (q : QId) (s : State) : Outcome State Fault Refusal := .next (s.resumeContinue q)
def execResumeRetry (q : QId) (s : State) : Outcome State Fault Refusal := .next (s.resumeRetry q)
def execResumeDiscard (q : QId) (s : State) : Outcome State Fault Refusal := .next (s.resumeDiscard q)
def execQPreempt (q : QId) (s : State) : Outcome State Fault Refusal := .next (s.qPreempt q)
def execQueuePreempted (q : QId) (s : State) : Outcome State Fault Refusal := .next (s.queuePreempted q)
def execBrkCtrlWrite (q : QId) (data : W32) (s : State) : Outcome State Fault Refusal := .next (s.brkCtrlWrite q data.toNat)
def execEvtSig (data : W64) (s : State) : Outcome State Fault Refusal := .next (s.evtSig data.toNat)
def execJnlAckWrite (pos : W32) (s : State) : Outcome State Fault Refusal := .next (s.jnlAckWrite pos.toNat)

end Sys2Proof.Machine
end

