-- ==== Sys2Proof/Machine/Opcodes.lean ====
section
/-! DEFINITION. The opcodes that chapter 06 defines: NOP, TILE_LAUNCH, COPY, FILL, FENCE, EVT_INIT, ENG_FLAG and
JOURNAL_MARK (R180 to R186). -/

namespace Sys2Proof.Machine

open Host (Outcome)

/-- Ends a command with status `st`. -/
def State.endsWith (c : Cmd) (st : Nat) (s : State) : State := s.finish c st 0 0

/-- A status of class 0x07 about die d (R459). -/
def State.endsDie (c : Cmd) (d st : Nat) (s : State) : State := s.finish c st (s.dieDetail d) 0

/-! ### TILE_LAUNCH (R180) -/

/-- The launch of one engine of the mask enters its issue queue. -/
def State.enterPart (s : State) (c : Cmd) (x : Part) : State :=
  let d := launchDie c
  let ordinal := maskCount x.log (launchMask c)
  s.enqueue d x.phys (launchOf s c (c.bay.getD 0) ordinal ((s.eng d x.phys).isResident (c.words.getD 32 0)))

/-- The launches of the command's engines, under the spare map of this moment (R78). -/
def State.launchAll (s : State) (c : Cmd) : State :=
  let d := launchDie c
  let parts := (launchEngines c).map fun l => (⟨l, s.physOf d l, true, false, 0, 0, 0, 0, false⟩ : Part)
  (s.setCmd { c with ran := true, parts := parts }).forAll parts fun s x => s.enterPart c x

/-- The first engine of a launch that is mapped out. -/
def State.launchHole (s : State) (c : Cmd) : Option Nat :=
  (launchEngines c).find? fun l => decide (s.physOf (launchDie c) l = 0x3F)

def Admitted.launch : Admitted → State
  | .served c s => s.launchAll c
  | .waits s => s
  | .refused s => s

/-- Its admission, with one engine slot for each engine (R216, class 2). -/
def State.launchAdmit (c : Cmd) (s : State) : State :=
  (s.admitUnits c (c.bay.getD 0) [(2, (launchEngines c).length)]).launch

/-- TILE_LAUNCH on a die that is up: every engine must be there. -/
def State.launchUp (c : Cmd) (s : State) (hole : Option Nat) : State :=
  match hole with
  | some l => s.finish c St.ENGINE_FAILED (s.dieDetail (launchDie c)) l
  | none => s.launchAdmit c

def State.launchOn (c : Cmd) (s : State) (refusal : Option Nat) : State :=
  match refusal with
  | some st => s.endsDie c (launchDie c) st
  | none => s.launchUp c (s.launchHole c)

/-- TILE_LAUNCH begins: its die and engines, then its admission (R216, class 2). -/
def State.tileLaunch (c : Cmd) (s : State) : State := s.launchOn c (s.dieRefuses (launchDie c))

/-- Launches that a pre-emption withdrew enter again once the queue runs (R195, R196). -/
def State.relaunch (c : Cmd) (s : State) : State :=
  let d := launchDie c
  let back := c.parts.filter fun x => !x.entered && s.iqRoom d x.phys
  let c' := { c with parts := c.parts.map fun x => if back.contains x then { x with entered := true } else x }
  let b := c.bay.getD 0
  ((s.setCmd c').setUsed b 2 (s.used b 2 + back.length)).forAll back fun s x => s.enterPart c x

/-! ### COPY and FILL (R181) -/

/-- One side of a COPY or FILL: its space, context, die, logical engine and first address. -/
structure Side where
  space : Nat
  ctx : Nat
  die : Nat
  log : Nat
  addr : Nat

def Cmd.src (c : Cmd) : Side := ⟨c.p 0 0 2, c.p 0 4 4, c.p 1 0 5, c.p 1 5 6, c.p64 2⟩
def Cmd.dst (c : Cmd) : Side := ⟨c.p 0 2 2, c.p 0 8 4, c.p 1 11 5, c.p 1 16 6, c.p64 4⟩
def Cmd.copyLen (c : Cmd) : Nat := c.p 6 0 32

/-- Banks that a scratchpad range touches. -/
def banksOf (a n : Nat) : List Nat :=
  if n = 0 then [] else ((List.range (min 16 ((a + n - 1) / 64 - a / 64 + 1))).map fun i => (a / 64 + i) % 16)

/-- The checks of a whole scratchpad range made before its first byte moves (R124, R181). -/
def State.spadCheck (s : State) (x : Side) (n : Nat) : Option (Nat × Nat × Nat) :=
  if x.space ≠ 2 then none
  else
    match s.dieRefuses x.die with
    | some st => some (st, s.dieDetail x.die, 0)
    | none =>
      let p := s.physOf x.die x.log
      if p = 0x3F then some (St.ENGINE_FAILED, s.dieDetail x.die, x.log)
      else if 2 ^ 20 < x.addr + n then some (St.OUT_OF_RANGE, 0, 0)
      else if (banksOf x.addr n).all fun k => bankOwned (s.owners x.die p) x.ctx k then none
      else some (St.UNOWNED_BANK, 0, 0)

/-- COPY or FILL begins. -/
def State.copyStart (copy : Bool) (c : Cmd) (s : State) : State :=
  let n := c.copyLen
  if n = 0 then s.endsWith c St.OK
  else
    match (if copy then s.spadCheck c.src n else none) with
    | some (st, d0, d1) => s.finish c st d0 d1
    | none =>
      match s.spadCheck c.dst n with
      | some (st, d0, d1) => s.finish c st d0 d1
      | none => s.setCmd { c with ran := true }

/-- What a chunk read gives: bytes with an earlier failure, a wait, or a failure without data. -/
inductive Moved where
  | bytes (bs : List PByte) (bad : Option (Nat × Nat × Nat))
  | wait
  | fail (st d0 d1 : Nat)

/-- The source bytes of a chunk; poisoned bytes travel marked poisoned (R137, R255). -/
def State.chunkRead (s : State) (c : Cmd) (x : Side) (off n : Nat) (ecc : Ecc) (m : Medium) : State × Moved :=
  let b := c.bay.getD 0
  let a := x.addr + off
  if x.space = 0 then
    let r := s.vaReadM (.cmd c.q c.seq) m b a n
    match r.2.2 with
    | .ok => (r.1, .bytes r.2.1 none)
    | .wait => (r.1, .wait)
    | .fail st va =>
      let d := r.1.vaDetail b st va
      (r.1, if st = St.POISONED then .bytes r.2.1 (some (st, d.1, d.2)) else .fail st d.1 d.2)
  else if x.space = 1 then
    match s.loftRefuses x.die (some b) a n with
    | some st => (s, .fail st (s.loftDetail x.die st a).1 (s.loftDetail x.die st a).2)
    | none =>
      let s1 := s.loftMeet x.die (a / 8) m (some b)
      let bs := s1.loftGet x.die a n
      (s1, .bytes bs (s1.loftPoison x.die a bs))
  else
    let p := s.physOf x.die x.log
    match (if p = 0x3F then some St.ENGINE_FAILED else s.dieRefuses x.die) with
    | some st => (s, .fail st (s.dieDetail x.die) (if st = St.ENGINE_FAILED then x.log else 0))
    | none =>
      let s1 := s.dmaEcc x.die p ecc b
      let e := (s1.eng x.die p).markWord ecc
      let s2 := s1.setEng x.die p e
      if e.lost && (touched 4 a n).any e.isLost then (s2, .fail St.STATE_LOST (s2.dieDetail x.die) 0)
      else
        let bs := e.dmaRead a n
        (s2, .bytes bs (s2.spadPoison x.die p a bs))

/-- The bytes of a chunk are stored; none when the store has to wait. -/
def State.chunkWrite (s : State) (c : Cmd) (x : Side) (off : Nat) (bs : List PByte) (m : Medium) :
    Option (State × Option (Nat × Nat × Nat)) :=
  let b := c.bay.getD 0
  let a := x.addr + off
  if x.space = 0 then
    let r := s.vaWriteM (.cmd c.q c.seq) .bay m b a bs
    if r.2 = .wait then none else some (r.1, r.1.accResult b r.2)
  else if x.space = 1 then
    match s.loftRefuses x.die (some b) a bs.length with
    | some st => some (s, some (st, s.loftDetail x.die st a))
    | none =>
      let r := s.loftPut x.die a bs
      some (r.1, r.2.map fun st => (st, r.1.loftDetail x.die st a))
  else
    let p := s.physOf x.die x.log
    match (if p = 0x3F then some St.ENGINE_FAILED else s.dieRefuses x.die) with
    | some st => some (s, some (st, s.dieDetail x.die, if st = St.ENGINE_FAILED then x.log else 0))
    | none => some (s.setEng x.die p ((s.eng x.die p).dmaWrite a bs), none)

/-- Bytes `off` to `off + n` of a FILL: the pattern from its byte 0. -/
def fillBytes (pattern off n : Nat) : List PByte :=
  (List.range n).map fun i => some (BitVec.ofNat 8 (pattern / 2 ^ (8 * ((off + i) % 4))))

/-- The writes of a store that waits for T3 have started its fills; the state with them. -/
def State.chunkPending (s : State) (c : Cmd) (x : Side) (off : Nat) (bs : List PByte) (m : Medium) : State :=
  (s.vaWriteM (.cmd c.q c.seq) .bay m (c.bay.getD 0) (x.addr + off) bs).1

/-- The channel group that decides where a chunk runs: that of its destination, or of its source (R250). -/
def State.chunkGroup (s : State) (c : Cmd) : Option Nat :=
  let g (x : Side) : Option Nat :=
    if x.space ≠ 0 ∨ apertureBase ≤ x.addr + c.done then none
    else
      let y := s.slab (c.bay.getD 0) ((x.addr + c.done) / 65536)
      (y.home.orElse fun _ => y.copy.map (·.loc)).map groupOf
  (g c.dst).orElse fun _ => if c.op = 2 then g c.src else none

/-- COPY_CHUNK_DONE: one chunk of at most 64 KiB; then the next, the end, or a stop at pre-emption (R181, R195). -/
def State.copyChunk (s : State) (c : Cmd) (ecc : Ecc) (ms md : Medium) : State :=
  if c.paused then s
  else
    let n := min 65536 (c.copyLen - c.done)
    let r := if c.op = 2 then s.chunkRead c c.src c.done n ecc ms
             else (s, .bytes (fillBytes (c.p 7 0 32) c.done n) none)
    match r.2 with
    | .wait => r.1
    | .fail st d0 d1 => (r.1.moved (s.chunkGroup c) n false).finish c st d0 d1
    | .bytes bs bad =>
      match r.1.chunkWrite c c.dst c.done bs md with
      | none => r.1.chunkPending c c.dst c.done bs md
      | some (s1, res) =>
        match bad.orElse fun _ => res with
        | some (st, d0, d1) => (s1.moved (s.chunkGroup c) n false).finish c st d0 d1
        | none =>
          let s2 := s1.moved (s.chunkGroup c) n true
          if c.copyLen ≤ c.done + n then s2.finish c St.OK 0 0
          else s2.setCmd { c with done := c.done + n, paused := decide (s1.qState c.q = qPreempting) }

/-! ### FENCE, EVT_INIT, ENG_FLAG -/

/-- Every earlier command of the queue has completed (R186). -/
def State.allEarlierDone (s : State) (c : Cmd) : Bool :=
  !(((s.qCmds c.q).takeWhile fun x => decide (x.seq ≠ c.seq)).any fun x => x.live)

/-- EVT_INIT (R183). -/
def State.evtInit (c : Cmd) (s : State) : State :=
  let b := c.bay.getD 0
  let first := c.p 0 0 10
  let n := c.p 0 10 11
  let busy := s.cq.cmds.any fun x => x.live && x.unstarted && decide (x.bay = c.bay) &&
    x.waits.any fun w => decide (first ≤ w.1) && decide (w.1 < first + n)
  if busy then s.endsWith c St.EVENT_BUSY
  else
    let v := c.p 1 0 32 + c.p 2 0 16 * 2 ^ 32
    (s.forAll (List.range n) fun s i => s.setReg (Reg.EVT b (first + i)) (v + c.p 0 21 1 * 2 ^ 48)).endsWith c St.OK

/-- Event flag f of a physical engine (R185). -/
def State.setFlag (s : State) (d p f : Nat) (clear : Bool) : State :=
  let e := s.eng d p
  let bit : BitVec 256 := BitVec.ofNat 256 (2 ^ f)
  s.setEng d p { e with evFlags := if clear then e.evFlags &&& ~~~bit else e.evFlags ||| bit }

/-- ENG_FLAG: the logical engines are reached through the spare map; an unmapped one has no flags. -/
def State.engFlag (c : Cmd) (s : State) : State :=
  let d := c.p 0 0 5
  match s.dieRefuses d with
  | some st => s.endsDie c d st
  | none =>
    (s.forAll (maskList 48 (c.p 1 0 32 + c.p 2 0 16 * 2 ^ 32)) fun s l =>
      if s.physOf d l = 0x3F then s else s.setFlag d (s.physOf d l) (c.p 0 5 8) (decide (c.p 0 13 1 = 1))).endsWith c St.OK

/-! ### Meanings -/

def execNop (c : CmdRef) (s : State) : Outcome State Fault Refusal := .next (s.perform 0x00 c fun c s => s.endsWith c St.OK)
def execTileLaunch (c : CmdRef) (s : State) : Outcome State Fault Refusal :=
  .next ((s.perform 0x01 c State.tileLaunch).running 0x01 c fun x t =>
    if (x.parts.any fun y => !y.entered) && decide (t.qState x.q = qRunning) then t.relaunch x else t)
def execCopy (c : CmdRef) (s : State) : Outcome State Fault Refusal := .next (s.perform 0x02 c (State.copyStart true))
def execFill (c : CmdRef) (s : State) : Outcome State Fault Refusal := .next (s.perform 0x03 c (State.copyStart false))
/-- COPY_CHUNK_DONE: `ecc` what a scratchpad source read met, `ms` and `md` what reads of the source and of the
destination met. -/
def execCopyChunkDone (c : CmdRef) (ecc : Ecc) (ms md : Medium) (s : State) : Outcome State Fault Refusal :=
  .next ((s.running 0x02 c fun x t => t.copyChunk x ecc ms md).running 0x03 c fun x t => t.copyChunk x ecc ms md)
def execFence (c : CmdRef) (s : State) : Outcome State Fault Refusal :=
  .next (s.perform 0x04 c fun c s => if s.allEarlierDone c then s.endsWith c St.OK else s)
def execEvtInit (c : CmdRef) (s : State) : Outcome State Fault Refusal := .next (s.perform 0x05 c State.evtInit)
def execEngFlag (c : CmdRef) (s : State) : Outcome State Fault Refusal := .next (s.perform 0x06 c State.engFlag)
def execJournalMark (c : CmdRef) (s : State) : Outcome State Fault Refusal :=
  .next (s.perform 0x07 c fun c s => s.endsWith c St.OK)

end Sys2Proof.Machine
end

