-- ==== Sys2Proof/Machine/Bays.lean ====
section
/-! DEFINITION. Bays: creation, role groups, teardown and scrub (R203 to R214, R418), admission's grants and
time-outs (R216 to R218), power control (R222) and phase timers (R224 to R226). -/

namespace Sys2Proof.Machine

open Host (Outcome)

def bayXDefault : Nat → BayX := fun _ => BayX.zero
def State.bayX (s : State) (b : Nat) : BayX := mget bayXDefault s.cq.bays b
def State.setBayX (s : State) (b : Nat) (x : BayX) : State :=
  s.onCq fun c => { c with bays := mset bayXDefault c.bays b x }

/-- A bay-control command refused for the bay's state (R204, Table 07-8). -/
def State.wrongState (c : Cmd) (s : State) : State := s.finish c St.POLICY 7 0

/-! ### Hops (R19) -/

def absDiff (a b : Nat) : Nat := (a - b) + (b - a)

def dieCentre (d : Nat) : Nat × Nat :=
  if d < 20 then (d / 5, d % 5)
  else if d = 24 then (0, 2)
  else (if d = 20 ∨ d = 22 then 1 else 2, if d = 20 ∨ d = 21 then 0 else 4)

/-- Where die d joins the grid, seen from `ref`. -/
def gridPoint (d : Nat) (ref : Nat × Nat) : Nat × Nat :=
  if d < 20 then (d / 5, d % 5)
  else if d = 24 then (0, min (max ref.2 1) 3)
  else
    let lo := if d = 20 ∨ d = 22 then 0 else 2
    (min (max ref.1 lo) (lo + 1), if d = 20 ∨ d = 21 then 0 else 4)

def hops (a b : Nat) : Nat :=
  if (a = 20 ∧ b = 21) ∨ (a = 21 ∧ b = 20) ∨ (a = 22 ∧ b = 23) ∨ (a = 23 ∧ b = 22) then 1
  else
    let p := gridPoint a (dieCentre b)
    let q := gridPoint b p
    absDiff p.1 q.1 + absDiff p.2 q.2 + (if 20 ≤ a then 1 else 0) + (if 20 ≤ b then 1 else 0)

/-! ### BAY_CREATE (R205, R210, R221) -/

/-- Bays other than b that hold resources. -/
def State.otherBays (s : State) (b : Nat) : List Nat :=
  (List.range 16).filter fun x => decide (x ≠ b) && decide (s.bayState x ≠ bayFree)

def State.dieFree (s : State) (d : Nat) : Bool :=
  (s.bayOfDie d).isNone && decide (s.fld Reg.DEV_QUARANTINE d 1 = 0)

/-- The `n` items of a list with the least cost, ties to the earlier one, in rising order. -/
def leastCost (cost : Nat → Nat) (n : Nat) (l : List Nat) : List Nat :=
  let sorted := l.foldl (fun a x => (a.filter fun y => decide (cost y ≤ cost x)) ++ x ::
    (a.filter fun y => decide (cost x < cost y))) []
  l.filter fun x => (sorted.take n).contains x

def sumOver {α : Type} (f : α → Nat) (l : List α) : Nat := (l.map f).foldl (· + ·) 0

/-- The groups and dies that BAY_CREATE takes: picked by hops, or the masks'. -/
def State.pickGroups (s : State) (c : Cmd) : List Nat :=
  let free := (List.range 32).filter fun g => (s.bayOfGroup g).isNone
  if c.p 0 6 1 = 0 then maskList 32 (c.p 2 0 32)
  else
    let dies := if c.p 0 5 1 = 1 then [24] else maskList 20 (c.p 1 0 20)
    leastCost (fun g => sumOver (hops (edgeOfGroup g)) dies) (c.p 3 0 6) free

def State.pickDies (s : State) (c : Cmd) (groups : List Nat) : List Nat :=
  let free := (List.range 20).filter fun d => s.dieFree d
  if c.p 0 5 1 = 0 then maskList 20 (c.p 1 0 20)
  else leastCost (fun d => sumOver (fun g => hops d (edgeOfGroup g)) groups) (c.p 1 20 5) free

/-- Fixed-arbiter slots that jobs of no bay hold: those of the port that gives most (R356). -/
def State.passSlots (s : State) : Nat :=
  ((List.range 8).map fun p =>
    ((List.range 64).filter fun i =>
      let v := s.reg (Reg.SLOT (portDie p) (portIx p) i)
      decide (bitsAt v 16 1 = 1) && !((List.range 16).any fun b =>
        decide (s.bayState b ≠ bayFree) && decide (s.bayJob b = bitsAt v 0 16))).length).foldl max 0

/-- Worst-case draw in watts of a compute die at a coded clock (R221). -/
def clockPower (step : Nat) : Nat := 40 + 4 * step

/-- The failure of BAY_CREATE: status, resource, units requested and available (R205, Table 07-8). (log entry 29: DEDUCED) -/
def State.createFails (s : State) (c : Cmd) (groups dies : List Nat) : Option (Nat × Nat × Nat × Nat) :=
  let b := c.p 0 0 4
  let freeDies := ((List.range 20).filter fun d => s.dieFree d).length
  let freeGroups := ((List.range 32).filter fun g => (s.bayOfGroup g).isNone).length
  let nDies := if c.p 0 5 1 = 1 then c.p 1 20 5 else dies.length
  let nGroups := if c.p 0 6 1 = 1 then c.p 3 0 6 else groups.length
  let usable := sumOver s.usable groups
  let others := sumOver (fun x => s.share x 3) (s.otherBays b) + s.passSlots
  let cap := c.p 4 0 16
  let budget := s.fld Reg.DEV_BAY_POWER_BUDGET 0 16
  let caps := sumOver (fun x => s.fld (Reg.BAY_POWER x) 0 16) (s.otherBays b)
  if dies.any fun d => decide (s.fld Reg.DEV_QUARANTINE d 1 = 1) then some (St.POLICY, 4, nDies, freeDies)
  else if dies.length < nDies ∨ dies.any fun d => (s.bayOfDie d).isSome then some (St.CAPACITY, 4, nDies, freeDies)
  else if groups.length < nGroups ∨ groups.any fun g => (s.bayOfGroup g).isSome then
    some (St.CAPACITY, 5, nGroups, freeGroups)
  else if c.p 0 4 1 = 0 ∧ groups.any fun g => !s.tagsOn g then some (St.POLICY, 5, nGroups, freeGroups)
  else if usable < c.p 5 0 24 then some (St.POLICY, 0, c.p 5 0 24, usable)
  else if 64 < c.p 6 0 7 + others then some (St.CAPACITY, 3, c.p 6 0 7, 64 - others)
  else if cap < nDies * clockPower (c.p 3 16 5) ∨ nDies * 130 < cap then some (St.POLICY, 6, cap, budget - caps)
  else if budget < cap + caps then some (St.CAPACITY, 6, cap, budget - caps)
  else none

def maskOf (l : List Nat) : Nat := sumOver (fun i => 2 ^ i) l

/-- BAY_CREATE assigns everything or nothing; the four slabs of the root table are counted at once (R231). None succeeds in
RECOVERY (R396). -/
def State.bayCreate (c : Cmd) (s : State) : State :=
  let b := c.p 0 0 4
  if s.bayState b ≠ bayFree then s.wrongState c
  else if s.fld Reg.GR_STATUS 3 1 = 1 then s.finish c St.POLICY (refusalDetail 7 0) 0
  else
    let groups := s.pickGroups c
    let dies := s.pickDies c groups
    match s.createFails c groups dies with
    | some (st, res, n, avail) => s.finish c st (refusalDetail res n) avail
    | none =>
      let kv := c.p 5 0 24
      let s1 := s.forAll [
          (Reg.BAY_STATE b, bayBuilding + c.p 0 4 1 * 8), (Reg.BAY_DIES b, maskOf dies), (Reg.BAY_GROUPS b, maskOf groups),
          (Reg.BAY_CLK b, c.p 3 16 5 + c.p 3 21 5 * 2 ^ 5 + c.p 3 16 5 * 2 ^ 10), (Reg.BAY_POWER b, c.p 4 0 16),
          (Reg.SHARE b 0, kv), (Reg.SHARE b 1, sumOver s.usable groups - kv), (Reg.SHARE b 2, dies.length * 48 * 64),
          (Reg.SHARE b 3, c.p 6 0 7), (Reg.ADMIT_TIMEOUT b, c.p 7 0 24)] fun s w => s.setReg w.1 w.2
      ((s1.setUsed b 1 4).forAll dies fun s d => s.setClock d (1200 + 50 * c.p 3 16 5)).endsWith c St.OK

/-! ### BAY_ROLES (R211 to R214) -/

/-- Engines of the masks, as die and logical engine. -/
def roleEngines (c : Cmd) : List (Nat × Nat) :=
  (List.range 20).flatMap fun d =>
    (maskList 48 (c.p (16 + 2 * d) 0 32 + c.p (17 + 2 * d) 0 16 * 2 ^ 32)).map fun l => (d, l)

def roleQueues (c : Cmd) : List Nat := (List.range 512).filter fun q => decide (c.p (64 + q / 32) (q % 32) 1 = 1)

def State.setEngRole (s : State) (b d l g : Nat) : State :=
  s.setFld (Reg.ROLE_ENG_MAP b (6 * d + l / 8)) (4 * (l % 8)) 4 g
def State.setQueueRole (s : State) (q g : Nat) : State := s.setFld (Reg.Q_ROLE (q / 8)) (4 * (q % 8)) 4 g

/-- Queues bound to a bay. -/
def State.bayQueues (s : State) (b : Nat) : List Nat :=
  (List.range 512).filter fun q => !s.qAdmin q && decide (s.qBay q = b) &&
    (decide (s.qState q ≠ qDisabled) || decide (s.queueRole q ≠ 0xF))

/-- Every engine and queue of group g leaves it. -/
def State.clearRole (s : State) (b g : Nat) : State :=
  let s1 := s.forAll (maskList 20 (s.reg (Reg.BAY_DIES b))) fun s d => s.forAll (List.range 48) fun s l =>
    if s.engRole b d l = g then s.setEngRole b d l 0xF else s
  (s1.forAll (s1.bayQueues b) fun s q => if s.queueRole q = g then s.setQueueRole q 0xF else s).setReg (Reg.ROLE_KIND b g) 0

def State.rolesBad (s : State) (c : Cmd) (b g : Nat) : Bool :=
  ((roleEngines c).any fun e => !s.dieInBay b e.1 ||
      (decide (s.engRole b e.1 e.2 ≠ g) && decide (s.engRole b e.1 e.2 ≠ 0xF))) ||
    (roleQueues c).any fun q => s.qAdmin q || decide (s.qBay q ≠ b) ||
      (decide (s.queueRole q ≠ g) && decide (s.queueRole q ≠ 0xF))

/-- A launch of a queue of another group still targets an engine of the masks (R214). -/
def State.rolesPending (s : State) (c : Cmd) (b g : Nat) : Bool :=
  s.cq.cmds.any fun x => x.live && decide (x.bay = some b) && decide (x.op = 1) && decide (s.queueRole x.q ≠ g) &&
    (roleEngines c).any fun e => decide (launchDie x = e.1) && decide (bitsAt (launchMask x) e.2 1 = 1)

def State.bayRoles (c : Cmd) (s : State) : State :=
  let b := c.p 0 0 4
  let g := c.p 0 4 3
  if s.bayState b ≠ bayBuilding ∧ s.bayState b ≠ bayRunning then s.wrongState c
  else if c.p 0 8 1 = 1 then (s.clearRole b g).endsWith c St.OK
  else if s.rolesBad c b g then s.endsWith c St.ILLEGAL_FIELD
  else
    let s1 := (s.clearRole b g).setReg (Reg.ROLE_KIND b g) (1 + c.p 0 7 1 * 2)
    let s2 := (s1.forAll (roleEngines c) fun s e => s.setEngRole b e.1 e.2 g).forAll (roleQueues c) fun s q => s.setQueueRole q g
    if s2.rolesPending c b g then s2.setCmd { c with ran := true } else s2.endsWith c St.OK

/-- A BAY_ROLES that waits for moved engines ends when they have drained. -/
def State.bayRolesWait (s : State) (c : Cmd) : State :=
  if s.rolesPending c (c.p 0 0 4) (c.p 0 4 3) then s else s.endsWith c St.OK

/-! ### Teardown (R208) -/

/-- The running program of an engine is abandoned (R72) without an end of its launch. -/
def State.killRun (s : State) (d p : Nat) : State :=
  let e := s.eng d p
  match e.run with
  | none => s
  | some r =>
    let cyc := (r.cur.map (·.cyc)).getD 0
    (s.setEng d p { abandon e ⟨cyc, 0, 0, 0, 0, 0, 0, 0⟩ false with outs := [] }).setFld (Reg.ENG_STATUS d p) 4 1 0

/-- A started TILE_LAUNCH of a bay in teardown: its waiting launches end CANCELLED. -/
def State.cancelWaiting (s : State) (c : Cmd) : State :=
  let d := launchDie c
  let back := c.parts.filter fun x => s.partWaits c x || !x.entered
  let s1 := s.forAll (back.filter (·.entered)) fun s x => s.withdraw c d x.phys
  let c' := { c with parts := c.parts.map fun x => if back.contains x then { x with done := true, status := St.CANCELLED } else x }
  if c'.parts ≠ [] ∧ c'.parts.all (·.done) then s1.launchDone c' else s1.setCmd c'

/-- Steps 1 and 2 of a teardown; `cause` is BAY_STATE.CAUSE. -/
def State.teardown (s : State) (b cause : Nat) : State :=
  let s1 := ((((s.lapseNonce b).setFld (Reg.BAY_STATE b) 0 3 bayTeardown).setFld (Reg.BAY_STATE b) 4 2 cause).setBayX b
    { s.bayX b with tdAt := s.now })
  let s2 := s1.forAll (s1.bayQueues b) fun s q => s.cancelUnstarted q
  let s3 := s2.forAll (s2.cq.cmds.filter fun c => decide (c.bay = some b) && decide (c.phase = .started)) fun s c =>
    if c.op = 1 then s.cancelWaiting c
    else if c.op = 2 ∨ c.op = 3 then s.setCmd { c with paused := true } else s
  s3.forAll (maskList 20 (s3.reg (Reg.BAY_DIES b))) fun s d => s.forAll (List.range 52) fun s p => s.killRun d p

/-- A request of the bay is outstanding on the mesh, the fabric or the host links. -/
def State.outstanding (s : State) (b : Nat) : Bool :=
  (s.fab.reqs.any fun r => decide (r.bay = b) && !r.done) ||
    (s.mem.t3.any fun a => decide (a.bay = b) && a.res.isNone) ||
    (s.mesh.reqs.any fun m => decide (m.bay.map (·.val) = some b)) ||
    (maskList 20 (s.reg (Reg.BAY_DIES b))).any fun d => (List.range 52).any fun p => decide ((s.eng d p).xfers ≠ [])

/-- What the bay had outstanding is forgotten: later responses find nothing to complete. -/
def State.forget (s : State) (b : Nat) : State :=
  let s1 := ((s.onFab fun f => { f with
      reqs := f.reqs.filter fun r => decide (r.bay ≠ b)
      colls := f.colls.filter fun c => decide (c.bay ≠ b)
      early := f.early.filter fun c => decide (c.bay ≠ b)
      collLate := f.collLate.filter fun c => decide (c.bay ≠ b) }).onMem fun m =>
    { m with t3 := m.t3.filter fun a => decide (a.bay ≠ b), late := m.late.filter fun a => decide (a.bay ≠ b),
             devWrites := m.devWrites.filter fun w => decide (w.1 ≠ b) }).onCq fun c =>
    { c with adms := c.adms.filter fun a => decide (a.bay ≠ b) }
  ((((s1.setReg (Reg.CG_RUNNING b) 0).setReg (Reg.CG_BUSY b) 0).setMirSrc b none).setMirHost b none).forAll (maskList 20 (s1.reg (Reg.BAY_DIES b))) fun s d => s.forAll (List.range 52) fun s p =>
    let e := s.eng d p
    if e.xfers = [] ∧ e.unacked = [] ∧ e.siges = [] then s
    else s.setEng d p { (e.xfers.foldl (fun e x => e.endXfer x none) e) with xfers := [], unacked := [], siges := [] }

/-- Slots of the bay's job on every port are released (R356). -/
def State.freeSlots (s : State) (job : Nat) : State :=
  if job = 0 then s
  else s.forAll (List.range 8) fun s p => s.forAll (List.range 64) fun s i =>
    let a := Reg.SLOT (portDie p) (portIx p) i
    if s.fld a 16 1 = 1 ∧ s.fld a 0 16 = job then s.setReg a 0 else s

/-- Admin commands of opcode `op` that have begun and wait on bay b. -/
def State.waitingAdmin (s : State) (op b : Nat) : List Cmd :=
  s.cq.cmds.filter fun c => decide (c.phase = .started) && c.ran && c.bay.isNone && decide (c.op = op) && decide (c.p 0 0 4 = b)

/-- Every generator model of a bay is disabled (R293). -/
def State.disableModels (s : State) (b : Nat) : State :=
  ({ s with rt := ⟨mclear s.rt.models fun k => decide (k / 4 = b), s.rt.enabling.filter fun k => decide (k / 4 ≠ b)⟩ }).forAll
    (List.range 4) fun s m => ((s.setReg (Reg.RT_STATE b m) 0).clearLate (.stage b m false)).clearLate (.stage b m true)

/-- Launches of the bay that engine tests hold are gone, a replay of one has ended, and so has BAY-level handling of the
bay's dies (R208, Table 15-2). -/
def State.tornTests (s : State) (b : Nat) : State :=
  let ds := maskList 20 (s.reg (Reg.BAY_DIES b))
  let lapsed := s.flt.tests.filter fun t => t.replaying && ds.contains t.die
  let s1 := s.onFlt fun f => { f with tests := (f.tests.filter fun t => !lapsed.contains t).map fun t =>
    { t with failed := t.failed.filter fun l => decide (l.bay ≠ b), held := t.held.filter fun l => decide (l.bay ≠ b) } }
  let s2 := s1.forAll lapsed fun s t => s.endHandling t.die
  s2.forAll ds fun s d => if (s.handlingOf d).any fun h => decide (h.level = 4) then s.endHandling d else s

/-- Steps 4 and 5: started commands end TORN_DOWN, queues are DISABLED, the bay is TORN. -/
def State.torn (s : State) (b : Nat) : State :=
  let s1 := s.forAll (s.cq.cmds.filter fun c => decide (c.bay = some b)) fun s c =>
    match c.phase with
    | .started => s.complete c St.TORN_DOWN 0 0 true
    | .finished st d0 d1 => s.complete c st d0 d1 true
    | _ => s
  let s2 := ((s1.forget b).tornTests b).forAll (s1.bayQueues b) fun s q => (s.setQState q qDisabled).setQx q .zero
  let s3 := ((s2.freeSlots (s2.bayJob b)).setReg (Reg.BAY_TURNS b) 0).setBayKeys b { s2.bayKeys b with pubs := [] }
  let s4 := ((s3.setFld (Reg.BAY_SEC b) 12 4 0).setFld (Reg.BAY_STATE b) 0 3 bayTorn)
  ((s4.disableModels b).forAll (s4.waitingAdmin 0x43 b) fun s c => s.endsWith c St.OK).forAll (s4.waitingAdmin 0x42 b) fun s c =>
    s.endsWith c St.TORN_DOWN

/-- BAY_TEARDOWN (R204). -/
def State.bayTeardownCmd (c : Cmd) (s : State) : State :=
  let b := c.p 0 0 4
  let st := s.bayState b
  if st = bayBuilding ∨ st = bayRunning then (s.teardown b 1).setCmd { c with ran := true }
  else if st = bayTeardown then s.setCmd { c with ran := true }
  else if st = bayFree then s.wrongState c
  else s.endsWith c St.OK

def State.teardownWait (s : State) (b : Nat) : State :=
  if s.bayState b ≠ bayTeardown then s
  else if !s.outstanding b then (s.clearLate (.teardown b)).torn b
  else if (s.bayX b).tdAt + 10000 ≤ s.now then (s.torn b).armLate (.teardown b)
  else s

/-! ### Scrub (R209, R418) -/

/-- Registers at addresses `lo` to `hi - 1` return to their reset values. -/
def State.resetRegs (s : State) (lo hi : Nat) : State :=
  { s with regs := mclear s.regs fun a => decide (lo ≤ a) && decide (a < hi) }

/-- Memory, keys and registers of a bay are erased (R418, R239). -/
def State.eraseGroups (s : State) (b : Nat) : State :=
  let gs := maskList 32 (s.reg (Reg.BAY_GROUPS b))
  let s1 := s.onMem fun m => { m with
    hbm := mclear m.hbm fun a => gs.contains (groupOf (a / 65536))
    poison := mclear m.poison fun l => gs.contains (groupOf (l / 512))
    use := mclear m.use fun k => gs.contains (groupOf k)
    objs := m.objs.filter fun o => decide (o.bay ≠ b)
    slabs := mclear m.slabs fun k => decide (k / 2 ^ 41 = b)
    scheds := m.scheds.filter fun e => decide (e.1 / 16 ≠ b)
    lends := m.lends.filter fun l => decide (l.lender ≠ b) && decide (l.borrower ≠ b)
    epochs := mset (fun _ => 0) m.epochs b 0
    badSeen := mset (fun _ => 0) m.badSeen b 0
    lat := mclear m.lat fun k => decide (k / 2 = b) }
  ((s1.onKv fun k => { k with seqs := k.seqs.filter fun q => decide (q.bay ≠ b), wins := k.wins.filter fun w => decide (w.bay ≠ b) }).setBayKeys
    b .none).setFld (Reg.BAY_SEC b) 0 2 2

/-- The last step of a scrub: the bay is FREE, its events, registers, landing windows and replay entries are clear. -/
def State.freeBay (s : State) (b : Nat) : State :=
  let dies := s.reg (Reg.BAY_DIES b)
  let bad := (s.bayX b).failed
  let qs := s.bayQueues b
  let s1 := s.setReg Reg.DEV_QUARANTINE (s.reg Reg.DEV_QUARANTINE ||| (dies &&& bad))
  let s2 := s1.forAll qs fun s q => s.setQueueRole q 0xF
  let s3 := (s2.resetRegs (0x400000 + b * 0x1000) (0x401000 + b * 0x1000)).resetRegs (Reg.EVT b 0) (Reg.EVT b 0 + 8192)
  let s4 := (s3.onFab fun f => { f with wins := f.wins.filter fun w => decide (w.bay ≠ b), late := f.late.filter fun w => decide (w.bay ≠ b) }).onCq
    fun c => { c with phases := mclear c.phases fun k => decide (k / 64 = b), bays := mset bayXDefault c.bays b .zero }
  let s5 := s4.forAll (List.range 4) fun s k => s.setCkpt b k none
  s5.forAll (s5.waitingAdmin 0x44 b) fun s c =>
    match (maskList 20 bad).head? with
    | none => s.endsWith c St.OK
    | some d => s.endsDie c d St.CLEAR_FAILED

/-- The bay becomes FREE once every die's clear and the erase have ended. -/
def State.settleScrub (s : State) (b : Nat) : State :=
  let x := s.bayX b
  if s.bayState b = bayScrubbing ∧ x.clearing = 0 ∧ !x.erasing then s.freeBay b else s

/-- A die's clear has ended, or it has nothing to clear. -/
def State.scrubDie (s : State) (d : Nat) (failed : Bool) : State :=
  s.forAll (List.range 16) fun s b =>
    let x := s.bayX b
    if s.bayState b = bayScrubbing ∧ bitsAt x.clearing d 1 = 1 then
      (s.setBayX b { x with clearing := putBits x.clearing d 1 0, failed := putBits x.failed d 1 (b2n failed 1) }).settleScrub b
    else s

def State.bayScrub (c : Cmd) (s : State) : State :=
  let b := c.p 0 0 4
  if s.bayState b ≠ bayTorn then s.wrongState c
  else
    let dies := maskList 20 (s.reg (Reg.BAY_DIES b))
    let live := dies.filter fun d => decide (s.dieState d ≠ dieOff) && decide (s.dieState d ≠ dieInReset)
    let s1 := ((s.setFld (Reg.BAY_STATE b) 0 3 bayScrubbing).setBayX b
      { s.bayX b with clearing := maskOf live, failed := 0, erasing := true, zeroFill := decide (c.p 0 4 1 = 1) }).setCmd
      { c with ran := true }
    s1.forAll live fun s d => s.clearStart d

def State.eraseDone (s : State) (b : Nat) : State :=
  let x := s.bayX b
  if s.bayState b = bayScrubbing ∧ x.erasing then
    ((s.eraseGroups b).setBayX b { x with erasing := false }).settleScrub b
  else s

/-! ### Admission's events (R216, R218) -/

def State.admissionGrant (s : State) (r : CmdRef) : State :=
  match s.findCmd r.q r.seq.toNat with
  | none => s
  | some c =>
    match s.findAdm r.q r.seq.toNat with
    | some a =>
      if s.canServe a c then
        (((s.serve a).setCmd { c with adm := .granted }).dropAdm a.q a.seq).countWaiting a.bay
      else s
    | none =>
      if c.adm = .expired then
        ((s.count (Reg.BAY_ADMIT_LATE_CNT (c.bay.getD 0)) 1).setCmd { c with adm := .none }).lateRecord 24 St.CAPACITY 7 0 c.bay
          (some (c.q, c.seq, c.tag)) 0
      else s

def State.admitTimeout (s : State) (r : CmdRef) : State :=
  match s.findCmd r.q r.seq.toNat, s.findAdm r.q r.seq.toNat with
  | some c, some a =>
    if s.reg (Reg.ADMIT_TIMEOUT a.bay) = 0xFFFFFF then s
    else
      let n := (a.needs.find? fun n => decide (s.available a.bay n.1 c < n.2)).getD (a.needs.headD (0, 0))
      ((((s.count (Reg.ADMIT_REFUSE_CNT a.bay n.1) 1).dropAdm a.q a.seq).countWaiting a.bay).setCmd
        { c with adm := .expired }).finish { c with adm := .expired } St.CAPACITY (refusalDetail n.1 n.2) (s.available a.bay n.1 c)
  | _, _ => s

/-! ### Power control (R222) -/

/-- POWER_CONTROL_TICK: `avg` is the bay's power in watts over the last 1 ms; the clamp of a thermal emergency overrides
the controller (R512). -/
def State.powerTick (s : State) (b avg : Nat) : State :=
  if s.bayState b = bayFree then s
  else
    let cap := s.fld (Reg.BAY_POWER b) 0 16
    let lo := s.fld (Reg.BAY_CLK b) 0 5
    let hi := s.fld (Reg.BAY_CLK b) 5 5
    let cur := s.fld (Reg.BAY_CLK b) 10 5
    let s1 := s.setFld (Reg.BAY_POWER b) 16 16 (min 0xFFFF avg)
    let move (s : State) (k : Nat) : State :=
      (s.setFld (Reg.BAY_CLK b) 10 5 k).forAll (maskList 20 (s.reg (Reg.BAY_DIES b))) fun s d => s.setClock d (1200 + 50 * k)
    if s.clamped then s1
    else if cap < avg then if lo < cur then (move s1 (cur - 1)).count (Reg.BAY_THROTTLE_CNT b) 1 else s1
    else if avg * 100 < cap * 95 ∧ cur < hi then move s1 (cur + 1)
    else s1

/-! ### Phase timers (R224 to R226) -/

def phaseDefault : Nat → PhaseTimer := fun _ => PhaseTimer.zero
def State.phase (s : State) (b t : Nat) : PhaseTimer := mget phaseDefault s.cq.phases (b * 64 + t)
def State.setPhase (s : State) (b t : Nat) (x : PhaseTimer) : State :=
  s.onCq fun c => { c with phases := mset phaseDefault c.phases (b * 64 + t) x }

/-- Words of a phase record (Table 07-9). -/
def phaseWords (t : Nat) (x : PhaseTimer) (overrun restarted : Bool) (endQ endAt : Nat) : List Nat :=
  [t + b2n overrun 64 + b2n restarted 128 + x.q * 2 ^ 8 + endQ * 2 ^ 17, x.micro, x.start % 2 ^ 32, x.start / 2 ^ 32,
   endAt % 2 ^ 32, endAt / 2 ^ 32, x.budget, 0]

/-- A phase record goes to the bay's ring, or is dropped when it is full (R226). -/
def State.putPhase (s : State) (b : Nat) (ws : List Nat) : State :=
  let lg := s.fld (Reg.PH_RING_CFG b) 0 4
  let tail := s.reg (Reg.PH_RING_TAIL b)
  if lg < 4 ∨ 12 < lg then s
  else if 2 ^ lg ≤ sub32 tail (s.reg (Reg.PH_RING_HEAD b)) then s.count (Reg.PH_DROP_CNT b) 1
  else
    (s.setReg (Reg.PH_RING_TAIL b) ((tail + 1) % 2 ^ 32)).devWrite b
      (s.reg (Reg.PH_RING_BASE b) + 32 * (tail % 2 ^ lg)) (wordsBytes ws)

def State.setPhState (s : State) (b t : Nat) (run late : Bool) : State :=
  (s.setFld (Reg.PH_STATE b t) 0 1 (b2n run 1)).setFld (Reg.PH_STATE b t) 1 1 (b2n late 1)

def State.phOver (s : State) (b t : Nat) : Bool := decide (s.fld (Reg.PH_STATE b t) 1 1 = 1)

def State.phaseBegin (c : Cmd) (s : State) : State :=
  if c.p 0 6 2 ≠ 0 then s
  else
    let b := c.bay.getD 0
    let t := c.p 0 0 6
    let x := s.phase b t
    let s1 := if x.armed then s.putPhase b (phaseWords t x false true c.q c.startAt) else s
    let y : PhaseTimer := ⟨true, c.q, c.p 1 0 32, c.startAt, c.p 2 0 32, decide (c.p 0 8 1 = 1), c.p 0 9 10, false⟩
    (((s1.setPhase b t y).setPhState b t true false).setReg (Reg.PH_LATE_KTIME b t) 0).endsWith c (if x.armed then St.PHASE_RESTARTED else St.OK)

def State.phaseEnd (c : Cmd) (s : State) : State :=
  if c.p 0 6 2 ≠ 1 then s
  else
    let b := c.bay.getD 0
    let t := c.p 0 0 6
    let x := s.phase b t
    if x.armed then
      (((s.putPhase b (phaseWords t x false false c.q c.startAt)).setPhase b t { x with armed := false }).setPhState b t
        false false).endsWith c St.OK
    else if s.phOver b t then
      let n := s.fld (Reg.PH_STATE b t) 2 16
      let s1 := s.setFld (Reg.PH_STATE b t) 2 16 (min 0xFFFF (n + 1))
      let s2 := if x.late then s1
        else (s1.setReg (Reg.PH_LATE_KTIME b t) c.startAt).lateRecord 24 St.PHASE_LATE 7 0 (some b) (some (c.q, c.seq, c.tag)) 0
      (s2.setPhase b t { x with late := true }).endsWith c St.PHASE_LATE
    else s.endsWith c St.PHASE_NOT_RUNNING

def State.phaseCancel (c : Cmd) (s : State) : State :=
  if c.p 0 6 2 ≠ 2 then s
  else
    let b := c.bay.getD 0
    let t := c.p 0 0 6
    ((s.setPhase b t { s.phase b t with armed := false }).setPhState b t false (s.phOver b t)).endsWith c St.OK

/-- PHASE_BUDGET_EXPIRY (R225). -/
def State.phaseExpiry (s : State) (b t : Nat) : State :=
  let x := s.phase b t
  if x.armed ∧ x.budget ≠ 0 ∧ x.start + x.budget ≤ s.now then
    let s1 := s.putPhase b (phaseWords t x true false 0 0)
    let s2 := if x.ovrSig then s1.evtAdd b x.ovrEvent 1 else s1
    (s2.setPhase b t { x with armed := false }).setPhState b t false true
  else s

/-! ### Meanings -/

def execBayCreate (c : CmdRef) (s : State) : Outcome State Fault Refusal := .next (s.perform 0x40 c State.bayCreate)
def execBayRoles (c : CmdRef) (s : State) : Outcome State Fault Refusal :=
  .next ((s.running 0x42 c fun x t => t.bayRolesWait x).perform 0x42 c State.bayRoles)
def execBayTeardown (c : CmdRef) (s : State) : Outcome State Fault Refusal := .next (s.perform 0x43 c State.bayTeardownCmd)
def execTeardownWaitExpiry (bay : BayId) (s : State) : Outcome State Fault Refusal := .next (s.teardownWait bay.val)
def execBayScrub (c : CmdRef) (s : State) : Outcome State Fault Refusal := .next (s.perform 0x44 c State.bayScrub)
def execHbmEraseDone (bay : BayId) (s : State) : Outcome State Fault Refusal := .next (s.eraseDone bay.val)
def execPhaseBegin (c : CmdRef) (s : State) : Outcome State Fault Refusal := .next (s.perform 0x48 c State.phaseBegin)
def execPhaseEnd (c : CmdRef) (s : State) : Outcome State Fault Refusal := .next (s.perform 0x48 c State.phaseEnd)
def execPhaseCancel (c : CmdRef) (s : State) : Outcome State Fault Refusal := .next (s.perform 0x48 c State.phaseCancel)
def execPhaseBudgetExpiry (bay : BayId) (timer : BitVec 6) (s : State) : Outcome State Fault Refusal :=
  .next (s.phaseExpiry bay.val timer.toNat)
def execAdmissionGrant (c : CmdRef) (s : State) : Outcome State Fault Refusal := .next (s.admissionGrant c)
def execAdmitTimeout (c : CmdRef) (s : State) : Outcome State Fault Refusal := .next (s.admitTimeout c)
def execPowerControlTick (bay : BayId) (watts : Nat) (s : State) : Outcome State Fault Refusal :=
  .next (s.powerTick bay.val watts)
end Sys2Proof.Machine
end

