-- ==== Sys2Proof/Machine/Fabric.lean ====
section
/-! DEFINITION. The Vexoc fabric: ports and their training (R343, R344), flits, replay and lanes (R347, R364, R365),
packets at a hop (R348 to R356), link loss (R366), remote requests at their destination and their answers (R357 to
R362, R404 to R407), landing windows (R360) and link authentication (R408). -/

namespace Sys2Proof.Machine

open Host (Outcome)

/-! ### Ports (R343, R344) -/

/-- Failure causes (Table 12-15). -/
def causeVersion : Nat := 1
def causeMiscabled : Nat := 2
def causeLanes : Nat := 3
def causeTrain : Nat := 4
def causeSecurity : Nat := 5

/-- The port's edge die serves it. -/
def State.portUp (s : State) (p : Nat) : Bool := decide (s.dieState (portDie p) = dieOn)

/-- REFCLK_FAB is there and the clocks run (R503, R513). -/
def State.fabClock (s : State) : Bool := decide (bitsAt s.pins.noClock 1 1 = 0) && !s.pins.stopped

/-- Lanes in use: their mask and their number. -/
def State.setLanes (s : State) (p mask : Nat) : State :=
  (s.setReg (Reg.PORT_LANES (portDie p) (portIx p)) mask).setPortFld p 4 5 (maskCount 16 mask)

/-- The port enters a state other than ACTIVE; leaving ACTIVE begins link loss (R366). -/
def State.enterPort (s : State) (p st cause : Nat) : State :=
  let was := s.portState p
  let s1 := (s.setPortFld p 0 3 st).setPortFld p 9 3 cause
  let s2 := if st = portRetrain then s1 else ((s1.setLanes p 0).setPortFld p 12 4 0).setPortFld p 16 16 0
  let s3 := s2.setPortX p { s2.portX p with auth := false }
  if was = portActive then s3.setPortX p { s3.portX p with lost := true } else s3

/-- PORT_CFG_WRITE: EXPECT starts DETECT or disables the port. A device at DEVICE level keeps its ports DISABLED (R441). -/
def State.portCfgWrite (s : State) (p v : Nat) : State :=
  if !s.portUp p then s
  else
    let s1 := s.setReg (Reg.PORT_CFG (portDie p) (portIx p)) (v % 4)
    if bitsAt v 0 1 = 0 then s1.enterPort p portDisabled 0
    else if s.portState p = portDisabled && !s.deviceFault then s1.enterPort p portDetect 0
    else s1

/-- TRAINING_BURST, every 1 ms in DETECT. -/
def State.trainingBurst (s : State) (p : Nat) : State := if s.portState p = portDetect then s.emit (.burst p) else s

/-- PARTNER_BURST, received on `lanes` lanes. -/
def State.partnerBurst (s : State) (p lanes : Nat) : State :=
  if s.portState p = portDetect ∧ 8 ≤ lanes ∧ s.fabClock then s.setPortFld p 0 3 portTrain else s

def State.trainDone (s : State) (p : Nat) : State :=
  if s.portState p = portTrain ∧ s.fabClock then s.setPortFld p 0 3 portAlign else s

def State.trainTimeout (s : State) (p : Nat) : State :=
  if s.portState p = portTrain then s.enterPort p portFailed causeTrain else s

/-- The lanes whose whole group of four is good (R365). -/
def goodLanes (mask : Nat) : Nat :=
  sumOver (fun g => if bitsAt mask (4 * g) 4 = 15 then 15 * 2 ^ (4 * g) else 0) (List.range 4)

/-- ALIGN_DONE with the mask of lanes that locked. -/
def State.alignDone (s : State) (p locked : Nat) : State :=
  if s.portState p ≠ portAlign ∨ !s.fabClock then s
  else
    let m := goodLanes locked
    if maskCount 16 m < 8 then s.enterPort p portFailed causeLanes
    else (s.setLanes p m).setPortFld p 0 3 portNegotiate

/-- Packets that waited for the port go out (R366). -/
def State.releaseHeld (s : State) (p : Nat) : State :=
  let x := s.portX p
  (s.setPortX p { x with held := [] }).forAll x.held fun s bs => s.portPut p bs

/-- The port enters ACTIVE: its time, ROUTE_FAIL under FAIL_STICKY, and the traffic held meanwhile (R366). -/
def State.portActivate (s : State) (p : Nat) : State :=
  let s1 := (s.setPortFld p 0 3 portActive).setReg (Reg.PORT_UP_KTIME (portDie p) (portIx p)) s.now
  let s2 := if s1.portCfg p 1 1 = 1 then s1 else s1.setPortFld p 3 1 0
  (s2.setPortX p { s2.portX p with lost := false, auth := false, replays := 0 }).releaseHeld p

/-- Features offered under a major (Table 12-16). -/
def ownFeatures (major : Nat) : Nat := if major = 3 then 0x3F else 0x2E

/-- NEGOTIATE_DONE: the partner's majors, its features under majors 2 and 3, its address and role (R344). -/
def State.negotiateDone (s : State) (p lo hi f2 f3 peer role : Nat) : State :=
  if s.portState p ≠ portNegotiate ∨ !s.fabClock then s
  else
    let major := if lo ≤ 3 ∧ 3 ≤ hi then 3 else if lo ≤ 2 ∧ 2 ≤ hi then 2 else 0
    if major = 0 then s.enterPort p portFailed causeVersion
    else if s.neighbour p ≠ some peer ∨ role ≠ p ^^^ 1 then s.enterPort p portFailed causeMiscabled
    else
      let s1 := ((s.setPortFld p 12 4 major).setPortFld p 16 16 ((if major = 3 then f3 else f2) &&& ownFeatures major)).setReg
        (Reg.PORT_PEER (portDie p) (portIx p)) (peer + role * 2 ^ 24)
      s1.portActivate p

/-- The port enters RETRAIN: counted, with its weight in the error-rate counter (R343, Table 15-8). -/
def State.startRetrain (s : State) (p : Nat) : State :=
  ((s.enterPort p portRetrain 0).count (Reg.PORT_RETRAIN_CNT (portDie p) (portIx p)) 1).ercAdd (portDie p) 256

def State.signalLoss (s : State) (p : Nat) : State := if s.portState p = portActive then s.startRetrain p else s

/-- RETRAIN_DONE: the lanes still in use that trained again. -/
def State.retrainDone (s : State) (p good : Nat) : State :=
  if s.portState p ≠ portRetrain ∨ !s.fabClock then s
  else
    let m := goodLanes (s.reg (Reg.PORT_LANES (portDie p) (portIx p)) &&& good)
    if maskCount 16 m < 8 then s.enterPort p portDetect 0 else (s.setLanes p m).portActivate p

/-! ### Flits (R347, R364, R365) -/

/-- An acknowledgement of every flit before `a` frees the retry buffer. -/
def PortX.acked (x : PortX) (a : Nat) : PortX :=
  { x with retry := x.retry.filter fun e => decide (2048 ≤ (a + 4096 - e.1) % 4096), replays := 0 }

/-- FLIT_RECEIVE: header, codewords corrected, whether an uncorrectable codeword overlaps it, and the acknowledgement it
carries. -/
def State.flitReceive (s : State) (p hdr corrected : Nat) (bad : Bool) (ack : Option Nat) : State :=
  if s.portState p ≠ portActive then s
  else
    let d := portDie p
    let k := portIx p
    let s1 := s.count (Reg.PORT_FEC_CORR_CNT d k) corrected
    if bad then
      (((s1.count (Reg.PORT_FEC_UNCORR_CNT d k) 1).ercAdd d 8).count (Reg.PORT_REPLAY_CNT d k) 1).emit
        (.replayRequest p (s1.portX p).rx)
    else if bitsAt hdr 0 2 = 3 ∨ 12 ≤ bitsAt hdr 14 4 then s1.count (Reg.PORT_HDR_ERR_CNT d k) 1
    else
      let x := s1.portX p
      let x1 := if bitsAt hdr 0 2 = 1 ∧ bitsAt hdr 2 12 = x.rx then { x with rx := (x.rx + 1) % 4096 } else x
      s1.setPortX p (match ack with | some a => x1.acked a | none => x1)

/-- FLIT_REPLAY: the partner asks for replay from `fseq` (R364). -/
def State.flitReplay (s : State) (p fseq : Nat) : State :=
  if s.portState p ≠ portActive then s
  else
    let x := s.portX p
    let n := if x.replaySeq = fseq ∧ x.replays ≠ 0 then x.replays + 1 else 1
    if 16 ≤ n then (s.setPortX p { x with replaySeq := fseq, replays := 0 }).startRetrain p
    else (s.setPortX p { x with replaySeq := fseq, replays := n }).emit (.replay p fseq)

/-- LANE_RETIRE: `count` corrected symbols of a lane in one millisecond (R365). -/
def State.laneRetire (s : State) (p lane count : Nat) : State :=
  let m := s.reg (Reg.PORT_LANES (portDie p) (portIx p))
  if s.portState p ≠ portActive ∨ bitsAt m lane 1 = 0 ∨ count ≤ s.reg (Reg.LANE_CORR_MAX (portDie p) (portIx p)) then s
  else
    let m' := goodLanes (putBits m lane 1 0)
    let s1 := s.ercAdd (portDie p) 1024
    if maskCount 16 m' < 8 then s1.enterPort p portDetect 0 else (s1.startRetrain p).setLanes p m'

/-! ### Packets of this device and at a hop -/

/-- A management packet's bytes on a port, with the tag of the link's key (R407, R408). -/
def mgmtBytes (p : Nat) (h : PktHdr) : List Byte :=
  (h.bytes ++ bytesBE 16 (Config.mgmtTag p h.ad)).map (BitVec.ofNat 8)

/-- A NACK that the device sends in the management class toward the sender of `h` (R356, R407). -/
def State.mgmtNack (s : State) (h : PktHdr) (st : Nat) (retry : Bool) : State :=
  let a : PktHdr := { h with
    type := 4, cls := 3, vsub := 0, dl := false, det := false, last := false, len := 0, dst := h.src, dbay := h.sbay
    sbay := h.dbay, src := s.ownDev, age := 0, units := 0, addr := st + b2n retry (2 ^ 16) }
  match s.route a.dst none false false with
  | .out p v dl det => s.portPut p (mgmtBytes p { a with vsub := v, dl := dl, det := det })
  | _ => s

/-- The packet is sent on by its route: in its job's slot, or answered with NO_SLOT or UNREACHABLE (R352, R356). -/
def State.forward (s : State) (h : PktHdr) (bs : List Byte) (inAxis : Option Nat) : State :=
  match s.route h.dst inAxis h.dl h.det with
  | .here => s
  | .unreachable _ => s.mgmtNack h St.UNREACHABLE false
  | .out p v dl det =>
    let h' := { h with vsub := v, dl := dl, det := det }
    if h.cls = 3 then
      s.portPut p (if h.type = 4 then mgmtBytes p h' else rehead h' bs)
    else if s.ownsSlot p h.job then
      ((s.portPut p (rehead h' bs)).count64 (Reg.PORT_PASS_BYTES (portDie p) (portIx p)) h.len).count64
        (Reg.PORT_TX_BYTES (portDie p) (portIx p)) h.len
    else (s.count (Reg.PORT_NOSLOT_CNT (portDie p) (portIx p)) 1).mgmtNack h St.NO_SLOT false

/-- The header is one that R348 does not drop. -/
def PktHdr.ok (h : PktHdr) : Bool :=
  decide (h.len ≤ 4096) && decide (h.len % 4 = 0) && decide (h.type < 8) && decide (h.vsub ≠ 3)

/-- PACKET_RECEIVE: a packet for another device is sent on; one for this device is left to the row of its type. -/
def State.packetReceive (s : State) (p : Nat) (bs : List Byte) : State :=
  if s.portState p ≠ portActive then s
  else
    let q := parseHdr (bs.map BitVec.toNat)
    if !(q.2 && q.1.ok) then s.count (Reg.PORT_HDR_ERR_CNT (portDie p) (portIx p)) 1
    else if q.1.cls = 3 && !(s.portX p).auth then s
    else
      let s1 := s.count64 (Reg.PORT_RX_BYTES (portDie p) (portIx p)) q.1.len
      if q.1.dst = s.ownDev then s1 else s1.forward q.1 bs (some (s.portAxis p))

/-! ### Link loss (R366) -/

/-- A packet left on a failed port: sent on by a detour, answered, or ended with LINK_DOWN when it is this device's. -/
def State.reroute (s : State) (p : Nat) (bs : List Byte) : State :=
  let h := (parseHdr (bs.map BitVec.toNat)).1
  let mine := decide (h.src = s.ownDev)
  match s.route h.dst (if mine then none else some (s.portAxis p)) h.dl h.det with
  | .out p' v dl det => s.portPut p' (rehead { h with vsub := v, dl := dl, det := det } bs)
  | .here => s
  | .unreachable _ =>
    if !mine then s.mgmtNack h St.UNREACHABLE false
    else
      match s.fab.reqs.find? fun r => r.is h.sbay h.key h.seq && r.open_ with
      | some r => if h.cls = 0 ∨ h.cls = 2 then s.endReq { r with port := p } St.LINK_DOWN 0 [] else s
      | none => s

/-- LINK_HOLD_EXPIRY: FAB_LINK_HOLD_US without ACTIVE. -/
def State.linkHold (s : State) (p : Nat) : State :=
  let x := s.portX p
  if !x.lost || decide (s.portState p = portActive) then s
  else
    let s1 := (s.setPortFld p 3 1 1).setPortX p { x with lost := false, held := [], retry := [] }
    let s2 := s1.raise (errNote (portDie p) 1 St.LINK_DOWN 5 p none none 0 [] false)
    s2.forAll (x.retry.map (·.2) ++ x.held) fun s bs => s.reroute p bs

/-! ### Requests at their destination (R358 to R360, R404 to R407) -/

/-- How the destination answers: nothing, in the management class, or sealed with a status and data. -/
inductive FabAnswer where
  | silent
  | mgmt (st : Nat) (retry : Bool)
  | answered (st : Nat) (data : List Byte)

/-- A response under the key of its request (R363, R404). -/
def State.sendAnswer (s : State) (h : PktHdr) (st : Nat) (data : List Byte) : State :=
  let t := if h.type = 1 ∧ st = 0 then 2 else if st = 0 then 3 else 4
  let a : PktHdr := { h with
    type := t, cls := 1, vsub := 0, dl := false, det := false, last := true, len := data.length, dst := h.src
    dbay := h.sbay, src := s.ownDev, sbay := h.dbay, age := 0, units := 0, addr := st }
  match s.route a.dst none false false with
  | .out p v dl det =>
    if t = 4 || s.ownsSlot p a.job then
      (s.portPut p (s.sealPkt h.dbay { a with vsub := v, dl := dl, det := det } (data.map BitVec.toNat))).count64
        (Reg.PORT_TX_BYTES (portDie p) (portIx p)) data.length
    else s.count (Reg.PORT_NOSLOT_CNT (portDie p) (portIx p)) 1
  | _ => s

/-- The answer is sent; refusals of class 0x06 are counted at the ingress edge die (R425). -/
def State.answer (s : State) (p : Nat) (h : PktHdr) (a : FabAnswer) : State :=
  match a with
  | .silent => s
  | .mgmt st retry => (if St.cls st = 6 then s.count (Reg.SEC_REFUSE_CNT (portDie p)) 1 else s).mgmtNack h st retry
  | .answered st data => (if St.cls st = 6 then s.count (Reg.SEC_REFUSE_CNT (portDie p)) 1 else s).sendAnswer h st data

/-- The replay window of a packet's source and generation. -/
def RepWin.of (w : RepWin) (b : Nat) (h : PktHdr) : Bool :=
  decide (w.bay = b) && decide (w.dev = h.src) && decide (w.sbay = h.sbay) && decide (w.gen = h.key)

/-- SEC_SRC_USED follows the windows. -/
def State.countWins (s : State) : State :=
  s.forAll [20, 21, 22, 23] fun s e =>
    s.setReg (Reg.SEC_SRC_USED e) (min 16384 (s.fab.wins.filter fun w => decide (w.edge = e)).length)

/-- Windows of generations that can no longer be accepted are freed (R404, R406). -/
def genLive (tx g : Nat) : Bool := decide ((g + 257 - tx) % 256 ≤ 2)

def State.pruneWins (s : State) (b : Nat) : State :=
  (s.onFab fun f => { f with wins := f.wins.filter fun w => decide (w.bay ≠ b) || genLive (s.txGen b) w.gen }).countWins

/-- What the replay window says of a SEQ (R406): a fresh one, one below the window, or one seen with its answer. -/
inductive Replay where
  | fresh
  | stale
  | seen (st : Option Nat)
  | noEntry

def State.replay (s : State) (e b : Nat) (h : PktHdr) : Replay :=
  match s.fab.wins.find? fun w => w.of b h with
  | none =>
    if 256 * s.share b 3 ≤ (s.fab.wins.filter fun w => decide (w.edge = e) && decide (w.bay = b)).length then .noEntry
    else .fresh
  | some w =>
    match w.seen.find? fun x => decide (x.1 = h.seq) with
    | some x => .seen x.2
    | none => if h.seq + 1024 ≤ w.top then .stale else .fresh

/-- The SEQ is recorded with the status of its sealed answer. -/
def State.recordSeq (s : State) (e b : Nat) (h : PktHdr) (st : Option Nat) : State :=
  let put (w : RepWin) : RepWin :=
    let top := max w.top h.seq
    { w with top := top, seen := (h.seq, st) :: w.seen.filter fun x => decide (x.1 ≠ h.seq) && decide (top < x.1 + 1024) }
  if s.fab.wins.any fun w => w.of b h then
    s.onFab fun f => { f with wins := f.wins.map fun w => if w.of b h then put w else w }
  else
    (s.onFab fun f => { f with wins := f.wins ++ [put ⟨e, b, h.src, h.sbay, h.key, h.seq, []⟩] }).countWins

/-- Window w of bay b: base, bytes, engine, scratchpad base. -/
structure LandWin where
  va : Nat
  len : Nat
  die : Nat
  eng : Nat
  ctx : Nat
  sa : Nat
  flag : Nat
  flagEn : Bool

def State.landWin (s : State) (b w : Nat) : Option LandWin :=
  let c := s.reg (Reg.LW_CFG b w)
  let a := s.reg (Reg.LW_SA b w)
  if bitsAt c 0 1 = 0 then none
  else some ⟨s.reg (Reg.LW_VA b w), bitsAt c 16 11 * 1024, bitsAt c 1 5, bitsAt c 6 6, bitsAt c 12 4, bitsAt a 0 20,
    bitsAt a 20 8, decide (bitsAt a 28 1 = 1)⟩

/-- The window that a write of n bytes touches. -/
def State.landing (s : State) (b va n : Nat) : Option LandWin :=
  (List.range 32).findSome? fun w =>
    match s.landWin b w with
    | none => none
    | some x => if va < x.va + x.len ∧ x.va < va + n then some x else none

/-- A write lands in a window (R360). -/
def State.land (s : State) (x : LandWin) (va : Nat) (bs : List Byte) (last : Bool) : State × Nat :=
  if va < x.va ∨ x.va + x.len < va + bs.length then (s, St.OUT_OF_RANGE)
  else
    match s.dieRefuses x.die with
    | some st => (s, st)
    | none =>
      let p := s.physOf x.die x.eng
      let sa := x.sa + (va - x.va)
      if p = 0x3F then (s, St.ENGINE_FAILED)
      else if !((banksOf sa bs.length).all fun k => bankOwned (s.owners x.die p) x.ctx k) then (s, St.UNOWNED_BANK)
      else
        let s1 := s.setEng x.die p ((s.eng x.die p).dmaWrite sa (unpoisoned bs))
        (if x.flagEn && last then s1.setFlag x.die p x.flag false else s1, St.OK)

/-- An access as a status; a wait leaves the request where it is. -/
def accStatus (a : Acc) : Option Nat :=
  match a with
  | .ok => some St.OK
  | .fail st _ => some st
  | .wait => none

/-- The request is applied: the state, and its status with the data of a read; none while it waits for a lower tier. -/
def State.applyRemote (s : State) (b : Nat) (h : PktHdr) (pl : List Byte) (m : Medium) : State × Option (Nat × List Byte) :=
  if h.type = 0 then
    match s.landing b h.addr pl.length with
    | some x =>
      let r := s.land x h.addr pl h.last
      (r.1, some (r.2, []))
    | none =>
      let r := s.vaWriteM .dev .device m b h.addr (unpoisoned pl)
      (if r.2 = .ok then r.1.mirHosted b h.addr pl.length else r.1, (accStatus r.2).map fun st => (st, []))
  else if h.type = 1 then
    let r := s.vaReadM .dev m b h.addr (32 * h.units)
    (r.1, (accStatus r.2.2).map fun st => (st, if st = 0 then r.2.1.map pbyte else []))
  else
    let v := bytesVal pl
    let op := bitsAt v 10 2
    if op = 1 ∨ op = 2 then (s.signal sigFuel b (bitsAt v 0 10) (decide (op = 2)) (bitsAt v 16 48), some (St.OK, []))
    else (s, some (St.ILLEGAL_FIELD, []))

/-- REMOTE_REQUEST: a WRITE, READ_REQ or SIGNAL for this device on port p; `busy` when its translation or landing queue
is full (R359). -/
def State.remoteRequest (s : State) (p : Nat) (bs : List Byte) (busy : Bool) (m : Medium) : State :=
  let q := parseHdr (bs.map BitVec.toNat)
  let h := q.1
  let b := h.dbay
  let e := portDie p
  if !(q.2 && h.ok) || decide (h.dst ≠ s.ownDev) || decide (h.cls ≠ 0) || !(decide (h.type = 0) || decide (h.type = 1) ||
      decide (h.type = 5)) || decide (s.dieState e ≠ dieOn) then s
  else if s.bayState b ≠ bayRunning then s.answer p h (.mgmt St.DEST_BAY_DOWN false)
  else if h.job ≠ s.bayJob b then s.answer p h (.mgmt St.JOB_MISMATCH false)
  else
    match s.openPkt b h bs with
    | none =>
      (s.count (Reg.SEC_OPEN_FAIL_CNT e) 1).raise (errNote e 1 St.AUTH_FAIL 5 p (some b) none 0 [h.src + h.sbay * 2 ^ 24] false)
    | some pl =>
      if !genLive (s.txGen b) h.key then s.answer p h (.answered St.KEY_STALE [])
      else
        match s.replay e b h with
        | .noEntry => s.answer p h (.answered St.SOURCE_LIMIT [])
        | .stale => s.answer p h (.mgmt St.REPLAY_STALE false)
        | .seen (some st) =>
          if h.type = 1 then s.answer p h (.mgmt St.REPLAY_STALE false) else s.answer p h (.answered st [])
        | _ =>
          if busy then (s.recordSeq e b h none).answer p h (.mgmt St.REMOTE_BUSY true)
          else
            let r := s.applyRemote b h (pl.map (BitVec.ofNat 8)) m
            match r.2 with
            | none => r.1
            | some (st, data) => (r.1.recordSeq e b h (some st)).answer p h (.answered st data)

/-! ### Answers (R359, R362) -/

/-- The timeout or retry limit registers. -/
def State.retryMax (s : State) : Nat := s.fld (Reg.FAB_RETRY 20) 0 4

/-- DETAIL1 of a NACK's status (Tables 12-13, 14-13). -/
def nackDetail (h : PktHdr) (st : Nat) : Nat :=
  if st = St.NO_SLOT then h.src
  else if st = St.KEY_STALE then h.key
  else if st = St.REPLAY_STALE then h.seq % 2 ^ 32
  else 0

/-- What an answer does to its outstanding request. -/
def State.takeAnswer (s : State) (r : FabReq) (h : PktHdr) (pl : List Byte) : State :=
  let st := h.addr % 2 ^ 16
  let retry := decide (bitsAt h.addr 16 1 = 1)
  if h.type = 4 ∧ retry then
    if r.tries < s.retryMax then s.setReq { r with st := .backoff } else s.endReq r St.RETRY_EXHAUSTED st []
  else if h.type = 4 ∧ h.cls = 3 ∧ st = St.REPLAY_STALE ∧ r.kind = 1 then s.endReq r St.LINK_DOWN 0 []
  else if h.type = 2 ∧ st = 0 then s.endReq r St.OK 0 pl
  else s.endReq r st (nackDetail h st) []

/-- A response to a request that has timed out (R362). -/
def State.lateAnswer (s : State) (p b g q : Nat) : State :=
  match s.fab.late.find? fun l => decide (l.bay = b) && decide (l.gen = g) && decide (l.seq = q) with
  | none => s
  | some l =>
    let s1 := s.count (Reg.PORT_LATE_CNT (portDie p) (portIx p)) 1
    if l.recorded then s1
    else
      (s1.onFab fun f => { f with late := f.late.map fun x => if x = l then { x with recorded := true } else x }).lateRecord
        (portDie p) St.FAB_TIMEOUT 5 p (some b) none 0

/-- REMOTE_RESPONSE: an ACK, READ_RSP or NACK arrives on port p. -/
def State.remoteResponse (s : State) (p : Nat) (bs : List Byte) : State :=
  let q := parseHdr (bs.map BitVec.toNat)
  let h := q.1
  let b := h.dbay
  let e := portDie p
  let mgmt := decide (h.cls = 3)
  if !(q.2 && h.ok) || decide (h.dst ≠ s.ownDev) || !(decide (h.cls = 1) || (mgmt && decide (h.type = 4) && (s.portX p).auth)) ||
      !(decide (h.type = 2) || decide (h.type = 3) || decide (h.type = 4)) || decide (s.dieState e ≠ dieOn) then s
  else if mgmt && decide ((bs.drop 32).map BitVec.toNat ≠ bytesBE 16 (Config.mgmtTag p h.ad)) then s
  else
    match (if mgmt then some [] else s.openPkt b h bs) with
    | none =>
      (s.count (Reg.SEC_OPEN_FAIL_CNT e) 1).raise (errNote e 1 St.AUTH_FAIL 5 p (some b) none 0 [h.src + h.sbay * 2 ^ 24] false)
    | some pl =>
      match s.fab.reqs.find? fun r => r.is b h.key h.seq with
      | none => s.lateAnswer p b h.key h.seq
      | some r => if r.st = .sent then (s.takeAnswer r h (pl.map (BitVec.ofNat 8))).retryWaiting else s

/-- RETRY_BACKOFF_EXPIRY: the request is sent again with its SEQ. -/
def State.backoffExpiry (s : State) (b g q : Nat) : State :=
  match s.fab.reqs.find? fun r => r.is b g q with
  | none => s
  | some r => if r.st = .backoff then s.transmit { r with tries := r.tries + 1 } else s

/-- FAB_REQ_TIMEOUT: the attempt has gone unanswered. -/
def State.reqTimeout (s : State) (b g q : Nat) : State :=
  match s.fab.reqs.find? fun r => r.is b g q with
  | none => s
  | some r =>
    if r.st ≠ .sent ∨ r.kind = 3 then s
    else
      let s1 := s.onFab fun f => { f with late := f.late ++ [⟨b, g, q, false⟩] }
      (s1.endReq r St.FAB_TIMEOUT (s.fld (Reg.FAB_REQ_TIMEOUT_US 20) 0 24) []).retryWaiting

/-! ### What ended requests mean to their owners -/

/-- Writes of an XPUT have all been answered: an acknowledged one lets the program's SIGEs go on; a failure is the
transfer's (R153, R185). -/
def State.xputEnds (s : State) (d p prog issue : Nat) : State :=
  let rs := s.reqsOf (.xput d p prog issue)
  if !(rs.all (·.done)) then s
  else
    let e := s.eng d p
    let mine (x : Xfer) : Bool := decide (x.prog = prog) && decide (x.issue = issue)
    let e' := match firstFailed rs with
      | none => { e with unacked := e.unacked.filter fun x => !mine x }
      | some (st, d0, d1) => e.withRun fun r =>
        if r.prog ≠ prog then r else r.failXfer issue st d0 d1
    (s.setEng d p e').dropReqs fun r => decide (r.owner = .xput d p prog issue)

/-- A command's remote signal has been answered (R184). -/
def State.signalEnds (s : State) (q seq : Nat) : State :=
  let rs := s.reqsOf (.signal q seq)
  let s1 := s.dropReqs fun r => decide (r.owner = .signal q seq)
  match s1.findCmd q seq with
  | none => s1
  | some c => s1.setCmd { c with sigRes := some (((firstFailed rs).map (·.1)).getD 0) }

/-- Ended requests of XPUTs, signals and writes that nobody awaits reach their owners. -/
def State.settleFab (s : State) : State :=
  s.forAll (s.fab.reqs.filter (·.done)) fun s r =>
    match r.owner with
    | .xput d p prog issue => if (s.reqsOf r.owner) = [] then s else s.xputEnds d p prog issue
    | .signal q seq => s.signalEnds q seq
    | .nobody => s.dropReqs fun x => decide (x.owner = .nobody) && x.done
    | _ => s

/-- COMMAND_SIGNAL: a completed command's local signal is applied; a remote signal is sent once the work has ended and
its writes are acknowledged (R184). -/
def State.commandSignal (s : State) (r : CmdRef) : State :=
  match s.findCmd r.q r.seq.toNat with
  | none => s
  | some c =>
    if !s.apexUp then s
    else
      match c.phase with
      | .signalling _ => s.localSignal c
      | .finished st _ _ =>
        if c.sigRemote && c.signals st && !c.sigSent then
          match c.bay with
          | none => s
          | some b => ((s.setCmd { c with sigSent := true }).remoteSignal (.signal c.q c.seq) b c.sigDev c.sigBay c.sigEvent
              c.sigOp c.sigValue).settleFab
        else s
      | _ => s

/-! ### Landing windows (R360) -/

/-- ENABLE of a window is refused for an overlap or a length (R360, Table 12-17). -/
def State.lwBad (s : State) (b w v : Nat) : Bool :=
  let len := bitsAt v 16 11 * 1024
  let va := s.reg (Reg.LW_VA b w)
  decide (len = 0) || decide (1024 * 1024 < len) || decide (2 ^ 20 < bitsAt (s.reg (Reg.LW_SA b w)) 0 20 + len) ||
    decide (apertureBase < va + len) || decide (20 ≤ bitsAt v 1 5) || decide (48 ≤ bitsAt v 6 6) ||
    (List.range 32).any fun x =>
      decide (x ≠ w) && (match s.landWin b x with | none => false | some y => decide (va < y.va + y.len) && decide (y.va < va + len))

/-- LW_CFG_WRITE. -/
def State.lwCfgWrite (s : State) (b w v : Nat) : State :=
  if bitsAt v 0 1 = 1 && s.lwBad b w v then s else s.setReg (Reg.LW_CFG b w) (v % 2 ^ 27)

/-- LINK_AUTH_DONE (R408). -/
def State.linkAuth (s : State) (p : Nat) (ok : Bool) : State :=
  if s.portState p ≠ portActive then s
  else if ok then s.setPortX p { s.portX p with auth := true }
  else (s.count (Reg.SEC_LINK_AUTH_FAIL_CNT (portDie p)) 1).enterPort p portFailed causeSecurity

/-! ### Meanings -/

def execCommandSignal (c : CmdRef) (s : State) : Outcome State Fault Refusal := .next (s.commandSignal c)
def execPortCfgWrite (port : PortId) (data : W32) (s : State) : Outcome State Fault Refusal :=
  .next (s.portCfgWrite port.val data.toNat)
def execTrainingBurst (port : PortId) (s : State) : Outcome State Fault Refusal := .next (s.trainingBurst port.val)
def execPartnerBurst (port : PortId) (lanes : BitVec 5) (s : State) : Outcome State Fault Refusal :=
  .next (s.partnerBurst port.val lanes.toNat)
def execTrainDone (port : PortId) (s : State) : Outcome State Fault Refusal := .next (s.trainDone port.val)
def execTrainTimeout (port : PortId) (s : State) : Outcome State Fault Refusal := .next (s.trainTimeout port.val)
def execAlignDone (port : PortId) (locked : W16) (s : State) : Outcome State Fault Refusal :=
  .next (s.alignDone port.val locked.toNat)
def execNegotiateDone (port : PortId) (majorMin majorMax : Byte) (features2 features3 : W16) (peer : BitVec 24)
    (role : PortId) (s : State) : Outcome State Fault Refusal :=
  .next (s.negotiateDone port.val majorMin.toNat majorMax.toNat features2.toNat features3.toNat peer.toNat role.val)
def execLinkSignalLoss (port : PortId) (s : State) : Outcome State Fault Refusal := .next (s.signalLoss port.val)
def execRetrainDone (port : PortId) (good : W16) (s : State) : Outcome State Fault Refusal :=
  .next (s.retrainDone port.val good.toNat)
def execFlitReceive (port : PortId) (hdr : W32) (corrected : Nat) (bad : Bool) (ack : Option (BitVec 12)) (s : State) :
    Outcome State Fault Refusal := .next (s.flitReceive port.val hdr.toNat corrected bad (ack.map (·.toNat)))
def execFlitReplay (port : PortId) (fseq : BitVec 12) (s : State) : Outcome State Fault Refusal :=
  .next (s.flitReplay port.val fseq.toNat)
def execLaneRetire (port : PortId) (lane : BitVec 4) (count : W32) (s : State) : Outcome State Fault Refusal :=
  .next (s.laneRetire port.val lane.toNat count.toNat)
def execPacketReceive (port : PortId) (bytes : List Byte) (s : State) : Outcome State Fault Refusal :=
  .next (s.packetReceive port.val bytes)
def execLinkHoldExpiry (port : PortId) (s : State) : Outcome State Fault Refusal := .next (s.linkHold port.val).settleFab
def execRemoteRequest (port : PortId) (bytes : List Byte) (busy : Bool) (m : Medium) (s : State) :
    Outcome State Fault Refusal := .next (s.remoteRequest port.val bytes busy m)
def execRemoteResponse (port : PortId) (bytes : List Byte) (s : State) : Outcome State Fault Refusal :=
  .next (s.remoteResponse port.val bytes).settleFab
def execRetryBackoffExpiry (bay : BayId) (gen : Byte) (seq : BitVec 48) (s : State) : Outcome State Fault Refusal :=
  .next (s.backoffExpiry bay.val gen.toNat seq.toNat).settleFab
def execFabReqTimeout (bay : BayId) (gen : Byte) (seq : BitVec 48) (s : State) : Outcome State Fault Refusal :=
  .next (s.reqTimeout bay.val gen.toNat seq.toNat).settleFab
def execLwCfgWrite (bay : BayId) (win : BitVec 5) (data : W32) (s : State) : Outcome State Fault Refusal :=
  .next (s.lwCfgWrite bay.val win.toNat data.toNat)
def execLinkAuthDone (port : PortId) (ok : Bool) (s : State) : Outcome State Fault Refusal := .next (s.linkAuth port.val ok)

end Sys2Proof.Machine
end

