-- ==== Sys2Proof/Machine/Memory.lean ====
section
/-! DEFINITION. The memory tiers' commands and events: mapping, migration, prefetch schedules, HBM and T3 accesses,
write-backs, ages and watermarks (R237 to R257). -/

namespace Sys2Proof.Machine

open Host (Outcome)

/-! ### MEM_MAP (R237 to R239) -/

def State.addObj (s : State) (o : Obj) : State := s.onMem fun m => { m with objs := insertObj o m.objs }

def State.removeObj (s : State) (o : Obj) : State :=
  s.onMem fun m => { m with objs := m.objs.filter fun x => !(decide (x.bay = o.bay) && decide (x.base = o.base)) }

/-- The groups named, or every group of the bay. -/
def State.groupList (s : State) (b mask : Nat) : List Nat := if mask = 0 then s.groups b else maskList 32 mask

/-- Slab i of an object goes to the (i mod k)-th group, and there to the lowest free slab (R238). -/
def State.placeSlab (s : State) (b mask i : Nat) : Option Nat :=
  let gs := s.groupList b mask
  match gs[i % gs.length]? with
  | none => none
  | some g => s.lowestFree g

/-- The slabs of a T2 object, each marked ZERO (R238, R239); none where a group has no free slab. -/
def State.placeAll (s : State) (o : Obj) (n i : Nat) : Option State :=
  match n with
  | 0 => some s
  | k + 1 =>
    match s.placeSlab o.bay o.groups i with
    | none => none
    | some loc =>
      let s1 := s.takeSlab o.bay loc
      State.placeAll (s1.setSlab o.bay (o.base + i) { Slab.none with home := some loc, zero := true }) o k (i + 1)

def rangesOverlap (a n b m : Nat) : Bool := decide (a < b + m) && decide (b < a + n)

/-- The object that a MEM_MAP packet describes. -/
def mapObj (c : Cmd) : Obj :=
  { bay := c.bay.getD 0, base := c.p64 1 / 65536, n := c.p 3 0 24, home := c.p 0 0 2, fill := decide (c.p 0 2 1 = 1)
    wb := decide (c.p 0 3 1 = 1), ro := decide (c.p 0 4 1 = 1), link := c.p 0 5 1, plain := decide (c.p 0 6 1 = 1)
    layout := c.p 0 7 4, fmt := c.p 0 11 4, t3 := c.p64 4, t3tag := c.p64 6, groups := c.p 8 0 32, migr := 0, alt := none
    owner := .user }

/-- New table slabs of an object (R231). -/
def State.newTables (s : State) (o : Obj) : Nat :=
  s.tableSlabs o.bay (insertObj o s.mem.objs) - s.tableSlabs o.bay s.mem.objs

def State.memMap (c : Cmd) (s : State) : State :=
  let o := mapObj c
  let mine := s.mem.objs.filter fun x => decide (x.bay = o.bay)
  if (mine.any fun x => rangesOverlap x.base x.n o.base o.n) ∨ 65536 ≤ mine.length then s.endsWith c St.ILLEGAL_FIELD
  else if (maskList 32 o.groups).any fun g => !(s.groups o.bay).contains g then s.endsWith c St.PRIVILEGE
  else if o.plain && !s.bayOpen o.bay then s.finish c St.POLICY (refusalDetail 1 o.n) 0
  else
    match s.admitUnits c o.bay [(1, s.newTables o + (if o.home = 0 then o.n else 0))] with
    | .waits s' => s'
    | .refused s' => s'
    | .served c' s' =>
      if o.home = 1 then (s'.addObj o).endsWith c' St.OK
      else
        match s'.placeAll o o.n 0 with
        | some t => (t.addObj o).endsWith c' St.OK
        | none =>
          (s'.setUsed o.bay 1 (s'.used o.bay 1 - (s.newTables o + o.n))).finish c' St.CAPACITY (refusalDetail 5 o.n) 0

/-! ### MEM_UNMAP (R240) -/

/-- The rethatch area of a model (R291). -/
def Obj.isArea (o : Obj) : Bool :=
  match o.owner with
  | .rethatch _ => true
  | _ => false

/-- Slabs of an object with their copies. -/
def State.objCopies (s : State) (o : Obj) : List (Nat × T2Copy) :=
  (s.baySlabs o.bay).filterMap fun e =>
    match e.2.copy with
    | some c => if o.base ≤ e.1 ∧ e.1 < o.base + o.n then some (e.1, c) else none
    | none => none

/-- An access or a write-back of the object is under way (R233). -/
def State.objBusy (s : State) (o : Obj) : Bool :=
  (s.mem.t3.any fun a => decide (a.bay = o.bay) && decide (o.base ≤ a.slab) && decide (a.slab < o.base + o.n) && a.res.isNone) ||
    (s.objCopies o).any fun e => e.2.filling

/-- Phase 2: translations and slabs are gone (R240). -/
def State.unmapObj (s : State) (o : Obj) : State :=
  let s1 := s.forAll (s.objCopies o) fun s e => s.dropCopy o.bay e.1
  let homes := (s1.baySlabs o.bay).filterMap fun e => if o.base ≤ e.1 ∧ e.1 < o.base + o.n then e.2.home else none
  let s2 := s1.forAll homes fun s loc => s.giveSlab loc
  let before := s2.tableSlabs o.bay s2.mem.objs
  let mine (k : Nat) : Bool := decide (slabKey o.bay o.base ≤ k) && decide (k < slabKey o.bay (o.base + o.n))
  let s3 := (s2.removeObj o).onMem fun m => { m with slabs := mclear m.slabs mine }
  s3.setUsed o.bay 1 (s3.used o.bay 1 - homes.length - (before - s3.tableSlabs o.bay s3.mem.objs))

/-- Write-backs of the object's dirty copies start, those that failed before included. -/
def State.writeBackObj (s : State) (o : Obj) : State :=
  s.forAll ((s.objCopies o).filter fun e => e.2.dirty && !e.2.filling) fun s e =>
    match s.objAt o.bay e.1 with
    | none => s
    | some x => s.writeBack x e.1

/-- MEM_UNMAP goes as far as it can: dirty copies are written back, then the object is unmapped once nothing of it
is under way. -/
def State.unmapStep (s : State) (c : Cmd) (o : Obj) : State :=
  if o.migr = 1 then s
  else if c.p 0 0 1 = 0 ∧ (s.objCopies o).any fun e => e.2.dirty then
    if (s.objCopies o).any fun e => e.2.dirty && !e.2.filling && e.2.wbFail then
      s.finish c St.LOWER_TIER_FAIL (s.vaDetail o.bay St.LOWER_TIER_FAIL (o.base * 65536)).1
        (s.vaDetail o.bay St.LOWER_TIER_FAIL (o.base * 65536)).2
    else s.writeBackObj o
  else if s.objBusy o then s
  else (s.unmapObj o).endsWith c St.OK

def State.memUnmap (c : Cmd) (s : State) : State :=
  let b := c.bay.getD 0
  match s.mem.objs.find? fun o => decide (o.bay = b) && decide (o.base * 65536 = c.p64 1) with
  | none => s.endsWith c St.ILLEGAL_FIELD
  | some o =>
    if o.isArea then s.endsWith c St.READ_ONLY
    else if o.owner ≠ .user then s.endsWith c St.ILLEGAL_FIELD
    else
      let s1 := s.forAll ((s.objCopies o).filter fun e => e.2.wbFail) fun s e =>
        s.setCopy b e.1 (some { e.2 with wbFail := false })
      (s1.setCmd { c with ran := true }).unmapStep { c with ran := true } o

def State.memUnmapAgain (s : State) (c : Cmd) : State :=
  match s.mem.objs.find? fun o => decide (o.bay = c.bay.getD 0) && decide (o.base * 65536 = c.p64 1) with
  | none => s.endsWith c St.OK
  | some o => s.unmapStep c o

/-! ### MIGRATE (R249) -/

def migrateHome (c : Cmd) : NewHome :=
  ⟨c.p 0 0 2, decide (c.p 0 2 1 = 1), decide (c.p 0 3 1 = 1), c.p 0 5 1, c.p64 4, c.p64 6, c.p 8 0 32⟩

/-- Slabs of the object that have not flipped. -/
def State.unflipped (s : State) (o : Obj) : List Nat :=
  ((List.range o.n).map fun i => o.base + i).filter fun n => !(s.slab o.bay n).flipped

/-- The slab's data are on their way. -/
def State.moveStart (s : State) (c : Cmd) (o : Obj) (n : Nat) (x : Slab) : State :=
  let s1 := s.setSlab o.bay n { x with moving := true }
  match o.alt with
  | none => s
  | some h =>
    let src := x.home.orElse fun _ => x.copy.map (·.loc)
    match src with
    | none =>
      (s1.setT3 (s1.mem.t3 ++ [⟨o.bay, n, o.link, n * 65536, 65536, false, [.cmd c.q c.seq], none, [], [], [], false⟩])).t3Fetch o.link (o.t3Addr (n * 65536)) 65536
    | some loc =>
      if h.home = 0 then s1
      else
        let data := if x.home.isSome && x.zero then List.replicate 65536 (some 0) else s.hbmGet (loc * 65536) 65536
        s1.t3Send h.link (h.t3 + (n - o.base) * 65536) 0 data o.plain

/-- The mover takes a slab: it is COPYING. A dirty copy is written back first, a T3 slab is read, and a slab that
goes to T3 is written to its new place. -/
def State.moveSlab (s : State) (c : Cmd) (o : Obj) (n : Nat) : State :=
  let x := s.slab o.bay n
  match x.copy with
  | some cp =>
    if cp.filling then s
    else if cp.dirty then (match s.objAt o.bay n with | none => s | some e => s.writeBack e n)
    else s.moveStart c o n x
  | none => s.moveStart c o n x

/-- The next slab is taken, unless pre-emption stops the command at this boundary. -/
def State.moveNext (s : State) (c : Cmd) (o : Obj) : State :=
  match (s.unflipped o).head? with
  | none => s
  | some n => if s.qState c.q = qPreempting then s.setCmd { c with paused := true } else s.moveSlab c o n

/-- Every slab has flipped: the object is STABLE at its new home. -/
def State.migrated (s : State) (c : Cmd) (o : Obj) : State :=
  let o' := match o.alt with
    | none => o
    | some h => { o with home := h.home, fill := h.fill, wb := h.wb, link := h.link, t3 := h.t3, t3tag := h.t3tag, groups := h.groups }
  let s1 := s.setObj { o' with migr := 0, alt := none }
  (s1.forAll (s1.baySlabs o.bay) fun s e =>
    if o.base ≤ e.1 ∧ e.1 < o.base + o.n then s.setSlab o.bay e.1 { s.slab o.bay e.1 with flipped := false } else s).endsWith c St.OK

/-- MIGRATE into T2 is admitted for the slabs still to move (R216, class 1). -/
def State.migrateAdmit (s : State) (c : Cmd) (left : Nat) : Admitted :=
  if (migrateHome c).home = 0 then s.admitUnits c (c.bay.getD 0) [(1, left)] else .served c s

/-- A failed copy: the slab is STABLE at its old home and the command ends; units not used go back. -/
def State.migrateFails (s : State) (c : Cmd) (o : Obj) (n st d0 d1 : Nat) : State :=
  let left := (s.unflipped o).length
  let s1 := s.setSlab o.bay n { s.slab o.bay n with moving := false }
  let s2 := if (o.alt.map (·.home)) = some 0 then s1.setUsed o.bay 1 (s1.used o.bay 1 - left) else s1
  (if left = o.n then s2.setObj { o with migr := 0, alt := none } else s2.setObj { o with migr := 2 }).finish c st d0 d1

def State.migrate (c : Cmd) (s : State) : State :=
  let b := c.bay.getD 0
  let h := migrateHome c
  match s.mem.objs.find? fun o => decide (o.bay = b) && decide (o.base * 65536 = c.p64 1) with
  | none => s.endsWith c St.ILLEGAL_FIELD
  | some o =>
    if o.isArea then s.endsWith c St.READ_ONLY
    else if o.owner ≠ .user ∨ (o.migr = 2 ∧ o.alt ≠ some h) then s.endsWith c St.ILLEGAL_FIELD
    else if o.migr = 1 then s
    else if (maskList 32 h.groups).any fun g => !(s.groups b).contains g then s.endsWith c St.PRIVILEGE
    else
      match s.migrateAdmit c (s.unflipped o).length with
      | .waits s' => s'
      | .refused s' => s'
      | .served c' s' =>
        let c2 := { c' with ran := true }
        let o2 := { o with migr := 1, alt := some h }
        ((s'.setObj o2).setCmd c2).moveNext c2 o2

/-- The object of a MIGRATE in progress. -/
def State.migrating (s : State) (c : Cmd) : Option Obj :=
  s.mem.objs.find? fun o => decide (o.bay = c.bay.getD 0) && decide (o.base * 65536 = c.p64 1) && decide (o.migr = 1)

/-- A MIGRATE whose next slab is not yet COPYING takes it. -/
def State.migrateAgain (s : State) (c : Cmd) : State :=
  match s.migrating c with
  | none => s
  | some o =>
    if c.paused then s
    else
      match (s.unflipped o).head? with
      | none => s
      | some n => if (s.slab o.bay n).moving then s else s.moveSlab c o n

/-- The data of the slab being copied: `failed` with a status, waiting, or ready with the T3 bytes, none when they are
in T2. -/
inductive SlabRead where
  | failed (st va : Nat)
  | wait
  | t2 (loc : Nat) (zero : Bool)
  | t3 (bs : List PByte)

def State.slabRead (s : State) (c : Cmd) (o : Obj) (n : Nat) (m : Medium) : State × SlabRead :=
  let x := s.slab o.bay n
  match x.home.orElse fun _ => x.copy.map (·.loc) with
  | some loc =>
    if x.home.isSome && x.zero then (s, .t2 loc true)
    else
      match s.hbmRefuses (groupOf loc) with
      | some st => (s, .failed st (n * 65536))
      | none =>
        let r := s.meetMedium m (groupOf loc) (loc * 65536) (n * 65536) o.bay false
        match r.2 with
        | some st => (r.1, .failed st (n * 65536))
        | none =>
          match (List.range 512).find? fun i => markGet r.1.mem.poison (loc * 512 + i) with
          | some i => (r.1.sawBad o.bay, .failed St.POISONED (n * 65536 + i * 128))
          | none => (r.1, .t2 loc false)
  | none =>
    match s.mem.t3.find? fun a => decide (a.bay = o.bay) && decide (a.slab = n) && !a.fill && a.waits (.cmd c.q c.seq) with
    | none => (s, .wait)
    | some a =>
      match a.res with
      | some st => (s.t3Done (.cmd c.q c.seq), .failed st (n * 65536))
      | none =>
        if a.data = [] then (s, .wait)
        else if anyPoison a.data then
          ((s.t3Done (.cmd c.q c.seq)).sawBad o.bay, .failed St.POISONED (n * 65536 + firstPoison a.data))
        else (s.t3Done (.cmd c.q c.seq), .t3 a.data)

/-- The old place of a flipped slab is free again. -/
def State.leaveOld (s : State) (o : Obj) (n : Nat) (x : Slab) : State :=
  let s1 := s.dropCopy o.bay n
  match x.home with
  | none => s1
  | some loc => (s1.giveSlab loc).setUsed o.bay 1 (s1.used o.bay 1 - 1)

/-- After a flip: the next slab, or the end. -/
def State.moveFlipped (s : State) (c : Cmd) (o : Obj) : State :=
  if s.unflipped o = [] then s.migrated c o else s.moveNext c o

/-- MIGRATE_SLAB_DONE: the copy is verified and the slab flips, or the MIGRATE ends. `fail` is the host link's answer to
a write of the slab to T3. -/
def State.migrateSlabDone (s : State) (c : Cmd) (m : Medium) (fail : Nat) : State :=
  match s.migrating c with
  | none => s
  | some o =>
    match (s.unflipped o).head?, o.alt with
    | some n, some h =>
      let x := s.slab o.bay n
      if !x.moving then s
      else
        let r := s.slabRead c o n m
        let bad (t : State) (st va : Nat) : State :=
          (t.moved (((x.home.orElse fun _ => x.copy.map (·.loc))).map groupOf) 65536 false).migrateFails c o n st (t.vaDetail o.bay st va).1 (t.vaDetail o.bay st va).2
        match r.2 with
        | .wait => r.1
        | .failed st va => bad r.1 st va
        | got =>
          if h.home = 1 then
            if fail ≠ 0 then bad r.1 St.LOWER_TIER_FAIL (n * 65536)
            else
              let s1 := match got with
                | .t3 bs => r.1.t3Send h.link (h.t3 + (n - o.base) * 65536) 0 bs o.plain
                | _ => r.1
              let s2 := s1.moved (((x.home.orElse fun _ => x.copy.map (·.loc))).map groupOf) 65536 true
              ((s2.leaveOld o n x).setSlab o.bay n { Slab.none with flipped := true }).moveFlipped c o
          else
            match r.1.placeSlab o.bay h.groups (n - o.base) with
            | none => r.1.migrateFails c o n St.CAPACITY (refusalDetail 5 1) 0
            | some dst =>
              let s1 := (r.1.takeSlab o.bay dst).moved (some (groupOf dst)) 65536 true
              let s2 := match got with
                | .t2 loc zero => if zero then s1 else s1.copySlab loc dst
                | .t3 bs => s1.onMem fun w => { w with hbm := rangePut w.hbm (dst * 65536) (bs.map pbyte) }
                | _ => s1
              let zero := match got with | .t2 _ z => z | _ => false
              let s3 := (s2.leaveOld o n x).setSlab o.bay n { Slab.none with home := some dst, zero := zero, flipped := true }
              s3.moveFlipped c o
    | _, _ => s

/-! ### Prefetch schedules (R248) -/

def State.sched (s : State) (b k : Nat) : Option Sched := (s.mem.scheds.find? fun e => decide (e.1 = b * 16 + k)).map (·.2)

def State.setSched (s : State) (b k : Nat) (x : Option Sched) : State :=
  let rest := s.mem.scheds.filter fun e => decide (e.1 ≠ b * 16 + k)
  s.onMem fun m => { m with scheds := match x with | none => rest | some v => rest ++ [(b * 16 + k, v)] }

/-- A slab that a schedule fetches: a T3 slab of a FILL object. -/
def State.fetchableSlab (s : State) (b n : Nat) : Bool :=
  match s.objAt b n with
  | some o => decide (o.home = 1) && o.fill
  | none => false

/-- Slabs of a step, and those that are fetched. -/
def stepSlabs (p : Nat × Nat) : List Nat := (List.range p.2).map fun i => p.1 / 65536 + i
def State.stepLeft (s : State) (b : Nat) (p : Nat × Nat) : Nat := ((stepSlabs p).filter fun n => s.fetchableSlab b n).length

/-- Steps of the window at position c. -/
def windowSteps (loop : Bool) (nsteps ahead c : Nat) : List Nat :=
  if loop then (List.range (min ahead nsteps)).map fun i => (c + i) % nsteps
  else (List.range ahead).filterMap fun i => if c + i < nsteps then some (c + i) else none

/-- The reservation: the most slabs that any AHEAD consecutive steps hold. -/
def State.reserveOf (s : State) (b : Nat) (loop : Bool) (ahead : Nat) (steps : List (Nat × Nat)) : Nat :=
  ((List.range steps.length).map fun c =>
    sumOver (fun i => s.stepLeft b (steps.getD i (0, 0))) (windowSteps loop steps.length ahead c)).foldl max 0

/-- Copies that a schedule's window holds, in filing order. -/
def State.windowCopies (s : State) (b k : Nat) : List (Nat × T2Copy) :=
  let l := (s.baySlabs b).filterMap fun e =>
    match e.2.copy with
    | some c => if c.window = some k then some (e.1, c) else none
    | none => none
  l.foldl (fun a x => (a.filter fun y => decide (y.2.filed ≤ x.2.filed)) ++ x :: (a.filter fun y => decide (x.2.filed < y.2.filed))) []

/-- The schedule goes: its reservation is released, its copies stay as plain copies of the pool. -/
def State.dropSched (s : State) (b k : Nat) : State :=
  match s.sched b k with
  | none => s
  | some x =>
    let cs := s.windowCopies b k
    let s1 := s.forAll cs fun s e => s.setCopy b e.1 (some { e.2 with window := none })
    (s1.setSched b k none).setUsed b 1 (s1.used b 1 + cs.length - x.reserve)

/-- Steps of a step list. -/
def parseSteps (n : Nat) (bs : List PByte) : List (Nat × Nat) :=
  (List.range n).map fun i =>
    let e := (bs.drop (16 * i)).map pbyte
    (bytesVal (e.take 8) % 2 ^ 57, bytesVal ((e.drop 8).take 2))

def State.prefetchSched (c : Cmd) (s : State) : State :=
  let b := c.bay.getD 0
  let k := c.p 0 0 4
  if s.qPrio c.q < 6 then s.finish c St.POLICY 1 0
  else if c.p 0 4 1 = 1 then (s.dropSched b k).endsWith c St.OK
  else
    let n := c.p 1 0 11
    let r := s.vaRead (.cmd c.q c.seq) b (c.p64 2) (16 * n)
    match r.2.2 with
    | .wait => r.1
    | .fail st va => r.1.finish c st (r.1.vaDetail b st va).1 (r.1.vaDetail b st va).2
    | .ok =>
      let steps := parseSteps n r.2.1
      if steps.any fun p => misaligned p.1 65536 || decide (p.2 = 0) then r.1.endsWith c St.ILLEGAL_FIELD
      else
        let loop := decide (c.p 0 5 1 = 1)
        let need := r.1.reserveOf b loop (c.p 0 16 7) steps
        match r.1.admitUnits c b [(1, need)] with
        | .waits s' => s'
        | .refused s' => s'
        | .served c' s' =>
          ((s'.dropSched b k).setSched b k (some ⟨loop, c.p 0 6 10, c.p 0 16 7, c.p 4 0 32 + c.p 5 0 16 * 2 ^ 32, steps, need, []⟩)).endsWith
            c' St.OK

/-- Position c of a schedule. -/
def State.schedPos (s : State) (b : Nat) (x : Sched) : Nat := s.evt b x.trigger - x.base

def State.schedWindow (s : State) (b : Nat) (x : Sched) : List Nat :=
  windowSteps x.loop x.steps.length x.ahead (s.schedPos b x)

/-- Slabs that the window holds, step by step. -/
def State.windowSlabs (s : State) (b : Nat) (x : Sched) : List Nat :=
  (s.schedWindow b x).flatMap fun i => stepSlabs (x.steps.getD i (0, 0))

/-- One slab of the window: adopted, fetched into a slab of the reservation, or left for later when a dirty slab has
to be written back first. -/
def State.fetchSlab (s : State) (b k : Nat) (x : Sched) (n : Nat) : State :=
  match s.objAt b n with
  | none => s
  | some o =>
    if !(decide (o.home = 1) && o.fill) then s
    else
      match (s.slab b n).copy with
      | some c => if c.window = some k then s else
          let s1 := s.setCopy b n (some { c with window := some k })
          if c.window.isSome then s1 else s1.setUsed b 1 (s1.used b 1 - 1)
      | none =>
        let cs := s.windowCopies b k
        let go (s : State) (loc : Nat) : State := (s.takeSlab b loc).startFill [.sched b k] o n loc none (some k) false
        if cs.length < x.reserve then
          match s.anyFree b with
          | some loc => go s loc
          | none => s
        else
          let keep := s.windowSlabs b x
          match cs.find? fun e => !keep.contains e.1 && !e.2.filling with
          | none => s
          | some (v, c) =>
            if c.dirty then (match s.objAt b v with | none => s | some ov => s.writeBack ov v)
            else go (s.dropCopy b v) c.loc

/-- PREFETCH_FETCH: the slabs of the window, in step order (R248). -/
def State.prefetchFetch (s : State) (b k : Nat) : State :=
  match s.sched b k with
  | none => s
  | some x =>
    let w := s.schedWindow b x
    let unmapped := (w.filter fun i => (stepSlabs (x.steps.getD i (0, 0))).any fun n => (s.objAt b n).isNone).length
    let s1 := s.count (Reg.PF_SKIP_CNT b) unmapped
    let x' := { x with late := x.late.filter fun i => w.contains i }
    (s1.setSched b k (some x')).forAll (s.windowSlabs b x) fun s n => s.fetchSlab b k x' n

/-! ### HBM lines (R239, R253, R254) -/

/-- HBM_REQUEST: a read or a write of bytes of one line by a requester of bay b. -/
def State.hbmRequest (s : State) (b va n : Nat) (bs : Option (List PByte)) (m : Medium) : State :=
  match bs with
  | none =>
    let r := State.readPiece .dev m b s va (min n (128 - va % 128))
    match r.2.2 with
    | .ok => r.1.emit (.memAnswer b va St.OK r.2.1)
    | .fail st _ => r.1.emit (.memAnswer b va st r.2.1)
    | .wait => r.1
  | some l =>
    let r := State.writePiece .dev .bay m b s va (l.take (128 - va % 128))
    match r.2 with
    | .ok => r.1.emit (.memAnswer b va St.OK [])
    | .fail st _ => r.1.emit (.memAnswer b va st [])
    | .wait => r.1

/-- ZERO_SLAB_WRITE: the tier mover writes a ZERO slab with zeros (R239). -/
def State.zeroSlabWrite (s : State) (b n : Nat) : State :=
  let x := s.slab b n
  match x.home with
  | some loc => if x.zero then (s.zeroWrite loc).setSlab b n { x with zero := false } else s
  | none => s

/-! ### T3 (R246, R247, R256) -/

/-- The last latency of a kind, and the watermarks on it (sources 3 and 4). -/
def State.latency (s : State) (b kind ns : Nat) : State :=
  let k := b * 2 + kind
  let v := min 0xFFFFFFFF ns
  let old := mget (fun _ => 0) s.mem.lat k
  (s.onMem fun m => { m with lat := mset (fun _ => 0) m.lat k v }).wmUpdate b (3 + kind) old v

def T3Acc.same (a : T3Acc) (b n va : Nat) (fill : Bool) : Bool :=
  decide (a.bay = b) && decide (a.slab = n) && decide (a.fill = fill) && (fill || decide (a.va = va)) && a.res.isNone

/-- An access that nobody waits for any more is forgotten. -/
def State.dropIdle (s : State) : State :=
  s.setT3 (s.mem.t3.filter fun a => !(a.res.isSome && a.waiters.all fun w => match w with | .sched .. => true | _ => false))

/-- The access ends with a status for every waiter; a fill's slab is freed. -/
def State.t3Ends (s : State) (a : T3Acc) (st : Nat) : State :=
  let s1 := s.setT3 (s.mem.t3.map fun x => if x = a then { x with res := some st } else x)
  let s2 := match (s.slab a.bay a.slab).copy with
    | some c => if a.fill then (s1.moved (some (groupOf c.loc)) 65536 false).dropCopy a.bay a.slab else s1
    | none => s1
  s2.dropIdle

/-- Lines of a fill land in its slab: poisoned bytes poison their line (R255), a tag that does not verify poisons it and
writes a record (R253). -/
def State.landLine (s : State) (a : T3Acc) (loc va : Nat) (bs : List PByte) (bad : Bool) : State :=
  let line := va / 128 % 512
  let pa := loc * 65536 + line * 128
  let s1 := (s.hbmPut pa bs).1
  if !bad then s1
  else
    let g := groupOf loc
    let s2 := (s1.poisonLine g pa va a.bay true).count (Reg.IU_TAG_FAIL_CNT (edgeOfGroup g)) 1
    (s2.raise (errRequest (edgeOfGroup g) St.TAG_MISMATCH 3 g (some a.bay) va)).sawBad a.bay

/-- Data of a fill arrive. -/
def State.fillLands (s : State) (a : T3Acc) (va : Nat) (bs : List PByte) (bad : Bool) (ns : Nat) : State :=
  match (s.slab a.bay a.slab).copy with
  | none => s
  | some c =>
    let ls := unitsOf 128 va bs.length
    let s1 := s.forAll ls fun s l => s.landLine a c.loc (l * 128) ((bs.drop (l * 128 - va)).take 128) bad
    let idx := ls.map (· % 512)
    let landed := a.landed ++ idx.filter fun i => !a.landed.contains i
    let a' := { a with landed := landed, bad := if bad then a.bad ++ idx else a.bad }
    let s2 := if a.demand ∧ a.landed = [] then s1.latency a.bay 0 ns else s1
    if 512 ≤ landed.length then
      let s3 := ((s2.setT3 (s2.mem.t3.filter fun x => decide (x ≠ a))).latency a.bay 1 ns).moved (some (groupOf c.loc)) 65536 true
      s3.setCopy a.bay a.slab (((s3.slab a.bay a.slab).copy).map fun c => { c with filling := false })
    else s2.setT3 (s2.mem.t3.map fun x => if x = a then a' else x)

/-- T3_RESPONSE: bytes from `va` of a fill or a direct access, poisoned ones as none; `bad`: the tag does not verify;
`error`: the host link reports an error instead; `ns`: time since the miss. -/
def State.t3Response (s : State) (link b va : Nat) (fill : Bool) (bs : List PByte) (bad error : Bool) (ns : Nat) : State :=
  let n := va / 65536
  match s.mem.t3.find? fun a => a.same b n va fill with
  | some a =>
    let t :=
      if error then s.t3Ends a St.LOWER_TIER_FAIL
      else if fill then s.fillLands a va bs bad ns
      else
        let s1 := s.latency b 1 ns
        if bad then
          (((s1.count (Reg.IU_TAG_FAIL_CNT 20) 1).raise (errRequest 20 St.TAG_MISMATCH 3 0 (some b) va)).sawBad b).t3Ends a St.TAG_MISMATCH
        else
          s1.setT3 (s1.mem.t3.map fun x => if x = a then { x with data := (bs.take a.len) ++ List.replicate (a.len - bs.length) none } else x)
    (if error then t else t.count64 (Reg.HL_RX_BYTES link) bs.length).retryDevWrites
  | none =>
    if s.bayState b = bayTorn ∨ s.bayState b = bayScrubbing ∨ s.bayState b = bayFree then
      (s.count (Reg.BAY_LATE_DROP_CNT b) 1).lateArrival (.teardown b) fun s =>
        s.lateRecord 24 St.TORN_DOWN 4 link (some b) none va
    else
      let s1 := s.count (Reg.T3_LATE_CNT b link) 1
      match s1.mem.late.find? fun l => decide (l.bay = b) && decide (l.slab = n) with
      | none => s1
      | some l =>
        if l.recorded then s1
        else
          (s1.onMem fun m => { m with late := m.late.map fun x => if x = l then { l with recorded := true } else x }).lateRecord
            24 St.LOWER_TIER_TIMEOUT 4 link (some b) none va

/-- T3_TIMEOUT (R256). -/
def State.t3Timeout (s : State) (b va : Nat) (fill : Bool) : State :=
  match s.mem.t3.find? fun a => a.same b (va / 65536) va fill with
  | none => s
  | some a =>
    let l : T3Late := ⟨b, a.slab, false⟩
    ((s.t3Ends a St.LOWER_TIER_TIMEOUT).onMem fun m =>
      { m with late := if m.late.contains l then m.late else m.late ++ [l] }).retryDevWrites

/-- WRITE_BACK_DONE: the copy is clean, or stays dirty with a record (R246). -/
def State.writeBackDone (s : State) (b n st : Nat) : State :=
  match (s.slab b n).copy with
  | none => s
  | some c =>
    if !(c.dirty && c.filling) then s
    else if st = 0 then
      (s.setCopy b n (some { c with dirty := c.again, again := false, filling := false, wbFail := false })).count (Reg.WB_CNT b) 1
        |>.moved (some (groupOf c.loc)) 65536 true
    else
      (((s.moved (some (groupOf c.loc)) 65536 false).setCopy b n (some { c with again := false, filling := false, wbFail := true })).count (Reg.WB_FAIL_CNT b) 1).raise
        (errNote 24 1 st 4 (((s.objAt b n).map (·.link)).getD 0) (some b) none (n * 65536) [] false)

/-! ### Ages and watermarks (R245, R257) -/

/-- AGE_EPOCH_TICK: copies are refiled at age 32,768. -/
def State.ageTick (s : State) (b : Nat) : State :=
  if s.bayState b = bayFree then s
  else
    let e := (s.epoch b + 1) % 65536
    let s1 := s.onMem fun m => { m with epochs := mset (fun _ => 0) m.epochs b e }
    s1.forAll (s1.baySlabs b) fun s x =>
      match x.2.copy with
      | none => s
      | some c => if 32768 < s.ageOf b c then s.setCopy b x.1 (some { c with epoch := (e + 32768) % 65536 }) else s

/-- The value of a watermark source now (Table 08-11). -/
def State.wmSource (s : State) (b src : Nat) : Nat :=
  if src = 0 then s.used b 1
  else if src = 1 then s.used b 0
  else if src = 2 then s.spareSlabs b
  else if src = 3 then mget (fun _ => 0) s.mem.lat (b * 2)
  else if src = 4 then mget (fun _ => 0) s.mem.lat (b * 2 + 1)
  else if src = 5 then s.reg (Reg.PF_LATE_CNT b)
  else mget (fun _ => 0) s.mem.badSeen b

def State.wmArm (s : State) (b w : Nat) : State :=
  let v := s.wmSource b (s.fld (Reg.WM_CFG b w) 0 3)
  let thr := s.reg (Reg.WM_THRESH b w)
  let s1 := ((s.setReg (Reg.WM_STATUS b w) 1).setReg (Reg.WM_FIRST_KTIME b w) 0).setReg (Reg.WM_EXTREME b w) v
  if (if s.fld (Reg.WM_CFG b w) 3 1 = 1 then decide (v < thr) else decide (thr < v)) then s1.wmCross b w else s1

def State.wmDisarm (s : State) (b w : Nat) : State :=
  (s.setReg (Reg.WM_STATUS b w) 0).setReg (Reg.WM_FIRST_KTIME b w) 0

/-! ### Meanings -/

def execMemMap (c : CmdRef) (s : State) : Outcome State Fault Refusal := .next (s.perform 0x10 c State.memMap)
def execMemUnmap (c : CmdRef) (s : State) : Outcome State Fault Refusal :=
  .next ((s.running 0x11 c fun x t => t.memUnmapAgain x).perform 0x11 c State.memUnmap)
def execMigrate (c : CmdRef) (s : State) : Outcome State Fault Refusal :=
  .next ((s.running 0x12 c fun x t => t.migrateAgain x).perform 0x12 c State.migrate)
def execMigrateSlabDone (c : CmdRef) (m : Medium) (fail : Bool) (s : State) : Outcome State Fault Refusal :=
  .next (s.running 0x12 c fun x t => t.migrateSlabDone x m (b2n fail 1))
def execPrefetchSched (c : CmdRef) (s : State) : Outcome State Fault Refusal := .next (s.perform 0x13 c State.prefetchSched)
def execPrefetchFetch (bay : BayId) (k : BitVec 4) (s : State) : Outcome State Fault Refusal :=
  .next (s.prefetchFetch bay.val k.toNat)
def execHbmRequest (bay : BayId) (va : BitVec 57) (n : Nat) (bs : Option (List PByte)) (m : Medium) (s : State) :
    Outcome State Fault Refusal := .next (s.hbmRequest bay.val va.toNat n bs m)
def execZeroSlabWrite (bay : BayId) (slab : BitVec 41) (s : State) : Outcome State Fault Refusal :=
  .next (s.zeroSlabWrite bay.val slab.toNat)
def execT3Response (link : LinkId) (bay : BayId) (va : BitVec 57) (fill : Bool) (bs : List PByte) (bad error : Bool)
    (ns : Nat) (s : State) : Outcome State Fault Refusal :=
  .next (s.t3Response link.val bay.val va.toNat fill bs bad error ns)
def execT3Timeout (bay : BayId) (va : BitVec 57) (fill : Bool) (s : State) : Outcome State Fault Refusal :=
  .next (s.t3Timeout bay.val va.toNat fill)
def execWriteBackDone (bay : BayId) (slab : BitVec 41) (fail : W16) (s : State) : Outcome State Fault Refusal :=
  .next (s.writeBackDone bay.val slab.toNat fail.toNat)
def execAgeEpochTick (bay : BayId) (s : State) : Outcome State Fault Refusal := .next (s.ageTick bay.val)
def execWmArm (bay : BayId) (w : BitVec 3) (s : State) : Outcome State Fault Refusal := .next (s.wmArm bay.val w.toNat)
def execWmDisarm (bay : BayId) (w : BitVec 3) (s : State) : Outcome State Fault Refusal :=
  .next (s.wmDisarm bay.val w.toNat)

end Sys2Proof.Machine
end

