-- ==== Sys2Proof/Machine/RtOps.lean ====
section
/-! DEFINITION. Generator models: their registers and records, shard digests and manifests (R294 to R298), staging
(R301 to R305), gates, barriers, flips and stamps (R306 to R312). -/

namespace Sys2Proof.Machine

def rtDefault : Nat → Option RtModel := fun _ => none
def State.onRt (s : State) (f : RtState → RtState) : State := { s with rt := f s.rt }
def State.model (s : State) (b m : Nat) : Option RtModel := mget rtDefault s.rt.models (b * 4 + m)
def State.setModel (s : State) (b m : Nat) (x : Option RtModel) : State :=
  s.onRt fun r => { r with models := mset rtDefault r.models (b * 4 + m) x }

/-- RTm_STATE.STATE (Table 10-6). -/
def rtDisabled : Nat := 0
def rtIdle : Nat := 1
def rtStaging : Nat := 2
def rtStaged : Nat := 3
def rtArmed : Nat := 4
def rtRolling : Nat := 5

def State.rtSt (s : State) (b m : Nat) : Nat := s.fld (Reg.RT_STATE b m) 0 3
def State.setRtSt (s : State) (b m v : Nat) : State := s.setFld (Reg.RT_STATE b m) 0 3 v

/-- DETAIL0 of class 0x09 (R320). -/
def rtDetail (m idx : Nat) (adapter : Bool) : Nat := m + idx % 2 ^ 13 * 4 + b2n adapter (2 ^ 15)

/-! ### Units -/

/-- A layer or an adapter slot of a model. -/
def RtModel.unit (x : RtModel) (adapter : Bool) (i : Nat) : Option RtUnit := (if adapter then x.adapts else x.layers)[i]?

def RtModel.setUnit (x : RtModel) (adapter : Bool) (i : Nat) (u : RtUnit) : RtModel :=
  if adapter then { x with adapts := x.adapts.set i u } else { x with layers := x.layers.set i u }

/-- First slab number of the model's area. -/
def State.areaSlab (s : State) (b m : Nat) : Nat := s.reg (Reg.RT_AREA_VA b m) / 65536

/-- The physical slab that unit slab i reads from: the active set. -/
def State.activeLoc (s : State) (b m : Nat) (u : RtUnit) (i : Nat) : Nat :=
  ((s.slab b (s.areaSlab b m + u.first + i)).home).getD 0

/-! ### The epoch area (Table 10-9) -/

def State.epochWrite (s : State) (b m off : Nat) (ws : List Nat) : State :=
  s.devWriteBy true b (s.reg (Reg.RT_EPOCH_VA b m) + off) (unpoisoned (wordsBytes ws))

/-- The record of a layer or an adapter slot. -/
def State.putUnitRec (s : State) (b m : Nat) (adapter : Bool) (i : Nat) (u : RtUnit) : State :=
  let se := if u.staged then u.stgEpoch else 0
  if adapter then s.epochWrite b m (0x2000 + 8 * i) [u.epoch, se]
  else s.epochWrite b m (0x1000 + 16 * i) [u.epoch, u.firstStep % 2 ^ 32, se, b2n u.staged 1 + b2n u.corrupt 2]

/-- A unit changes, and its record with it. -/
def State.putUnit (s : State) (b m : Nat) (adapter : Bool) (i : Nat) (u : RtUnit) : State :=
  match s.model b m with
  | none => s
  | some x => (s.setModel b m (some (x.setUnit adapter i u))).putUnitRec b m adapter i u

def minOf (l : List Nat) : Nat := l.foldl min (l.headD 0)
def maxOf (l : List Nat) : Nat := l.foldl max 0

/-- The registers that follow from the model: epochs, MIXED, CORRUPT layers, staged epoch (Table 10-15). -/
def State.rtPublish (s : State) (b m : Nat) : State :=
  match s.model b m with
  | none => s
  | some x =>
    let es := x.layers.map (·.epoch)
    let lo := minOf es
    let hi := maxOf es
    let stg := maxOf (x.layers.map (·.stgEpoch))
    let s1 := ((s.setReg (Reg.RT_EPOCH_LO b m) lo).setReg (Reg.RT_EPOCH_HI b m) hi).setReg (Reg.RT_STAGED_EPOCH b m)
      (max stg ((x.stage.map (·.epoch)).getD 0))
    (s1.setFld (Reg.RT_STATE b m) 3 1 (b2n (decide (lo ≠ hi)) 1)).setFld (Reg.RT_STATE b m) 4 9
      (x.layers.filter (·.corrupt)).length

/-! ### Shard digests (R295) -/

def hashLeaf (data : List Nat) : List Nat := sha384 (0 :: data)
def hashNode (l r : List Nat) : List Nat := sha384 (1 :: (l ++ r))

/-- The largest power of two below n. -/
def splitAt_ (fuel k n : Nat) : Nat :=
  match fuel with
  | 0 => k
  | f + 1 => if 2 * k < n then splitAt_ f (2 * k) n else k

def hashTree (fuel : Nat) (h : List (List Nat)) : List Nat :=
  match fuel with
  | 0 => h.headD []
  | f + 1 =>
    match h with
    | [x] => x
    | _ =>
      let k := splitAt_ h.length 1 h.length
      hashNode (hashTree f (h.take k)) (hashTree f (h.drop k))

def shardDigest (payload : List Nat) : List Nat :=
  let n := (payload.length + 65535) / 65536
  hashTree (n + 1) ((List.range n).map fun i => hashLeaf ((payload.drop (65536 * i)).take 65536))

/-- The payload bytes of a set of physical slabs; none where a line is poisoned. -/
def State.setBytes (s : State) (locs : List Nat) (len : Nat) : List PByte :=
  ((locs.flatMap fun l => s.hbmGet (l * 65536) 65536)).take len

/-- The root of a set, HU_BYTES counted where its first slab lies; none where a line is poisoned. -/
def State.rootOf (s : State) (locs : List Nat) (len : Nat) : State × Option (List Nat) :=
  let d := edgeOfGroup (groupOf (locs.headD 0))
  let bs := s.setBytes locs len
  (s.count64 (Reg.HU_BYTES d) len, if anyPoison bs then none else some (shardDigest (bs.map fun b => (pbyte b).toNat)))

/-- A root that does not match is counted (Table 10-16). -/
def State.huMismatch (s : State) (locs : List Nat) : State :=
  s.count (Reg.HU_MISMATCH_CNT (edgeOfGroup (groupOf (locs.headD 0)))) 1

/-! ### Manifests and shard headers (Tables 10-2 to 10-4) -/

structure RtManifest where
  magic : Nat
  major : Nat
  modelId : Nat
  epoch : Nat
  n : Nat
  kind : Nat
  key : List Nat
  entries : List RtEntry
  signed : List Nat
  r : Nat
  s : Nat

def wordsOf (bs : List Nat) : List Nat := bytesToWords (bs.length / 4) bs

def rtEntryOf (bs : List Nat) : RtEntry :=
  let w := wordsOf (bs.take 16)
  let f (i lo n : Nat) : Nat := bitsAt (w.getD i 0) lo n
  ⟨f 0 0 13, f 0 13 4, f 0 17 4, f 1 0 8, f 2 0 32 + f 3 0 8 * 2 ^ 32, (bs.drop 16).take 48⟩

/-- A manifest from its bytes: header, NENTRIES entries, signature. -/
def parseManifest (bs : List Nat) : RtManifest :=
  let w := wordsOf (bs.take 128)
  let f (i lo n : Nat) : Nat := bitsAt (w.getD i 0) lo n
  let n := f 3 0 13
  let sig := bs.drop (128 * (1 + n))
  ⟨f 0 0 16, f 0 16 8, f 1 0 32, f 2 0 32, n, f 3 13 1, (bs.drop 24).take 48,
    (List.range n).map fun i => rtEntryOf ((bs.drop (128 * (1 + i))).take 128), bs.take (128 * (1 + n)),
    ofBytesBE (sig.take 48), ofBytesBE ((sig.drop 48).take 48)⟩

/-- Whether a shard header is the one its entry and manifest describe (R298). -/
def headerAgrees (man : RtManifest) (e : RtEntry) (bs : List Nat) : Bool :=
  let w := wordsOf (bs.take 128)
  let f (i lo n : Nat) : Nat := bitsAt (w.getD i 0) lo n
  decide (f 0 0 16 = 0x5348) && decide (f 0 16 8 = e.major) && decide (f 1 0 32 = man.modelId) &&
    decide (f 2 0 32 = man.epoch) && decide (f 3 0 13 = e.idx) && decide (f 3 13 1 = man.kind) &&
    decide (f 4 0 32 + f 5 0 8 * 2 ^ 32 = e.len) && decide (f 6 0 4 = e.fmt) && decide (f 6 4 4 = e.layout)

/-! ### Keys -/

/-- The private scalar of a bay's job publishing key (R402). -/
def State.pubScalar (s : State) (b : Nat) : Option Nat :=
  let k := s.bayKeys b
  if k.jmk.isNone then none else some (ofBytesBE (k.expand (ascii "pub") 48) % (p384N - 1) + 1)

/-- The keys a bay can verify a manifest under: installed publisher keys and its job publishing key (R298). -/
def State.heldKeys (s : State) (b : Nat) : List PubKey :=
  (s.bayKeys b).pubs ++ (match s.pubScalar b with | some d => [p384Public d] | none => [])

/-- SHA-384 of a key in SEC 1 uncompressed form. -/
def keyId (k : PubKey) : List Nat := sha384 (4 :: pubBytes k)

/-- The manifest's key is held and its signature verifies. -/
def State.sigValid (s : State) (b : Nat) (man : RtManifest) : Bool :=
  match (s.heldKeys b).find? fun k => decide (keyId k = man.key) with
  | none => false
  | some k => ecdsaVerify k (sha384 man.signed) man.r man.s

/-! ### The checks of a manifest -/

/-- A check that failed: status, index and DETAIL1. -/
abbrev RtFail := Option (Nat × Nat × Nat)

/-- R297 and R298 but for the key and the shard headers; `layers` of the model for KIND 0. -/
def manifestCheck (modelId kind : Nat) (layers : List RtUnit) (man : RtManifest) : RtFail :=
  if man.magic ≠ 0x4D46 ∨ man.n = 0 ∨ 4096 < man.n then some (St.MANIFEST_MISMATCH, 0, 0)
  else if man.major ≠ 1 ∧ man.major ≠ 2 ∨ (man.major = 1 ∧ man.kind = 1) then some (St.BAD_VERSION, 0, man.major)
  else
    match man.entries.find? fun e => decide (e.major ≠ 1 ∧ e.major ≠ 2) with
    | some e => some (St.BAD_VERSION, e.idx, e.major)
    | none =>
      if man.kind ≠ kind ∨ man.modelId ≠ modelId ∨ man.epoch = 0 then some (St.MANIFEST_MISMATCH, 0, 0)
      else
        match man.entries.find? fun e => decide (e.len = 0 ∨ e.len % 128 ≠ 0) with
        | some e => some (St.MANIFEST_MISMATCH, e.idx, 0)
        | none =>
          if kind = 1 then none
          else if man.n ≠ layers.length ∨ !((List.range layers.length).all fun l => man.entries.any fun e => decide (e.idx = l)) then
            some (St.MANIFEST_MISMATCH, 0, 0)
          else
            match man.entries.find? fun e =>
                match layers[e.idx]? with
                | none => true
                | some u => decide (e.fmt ≠ u.fmt ∨ e.layout ≠ u.layout ∨ u.slabs * 65536 < e.len) with
            | some e => some (St.MANIFEST_MISMATCH, e.idx, 0)
            | none => none

/-- What reading a manifest or its shards gives. -/
inductive RtRead where
  | ok (man : RtManifest) (shards : List Nat)
  | wait
  | fail (st d0 d1 : Nat)

/-- The bytes of a range for a command that reads several. -/
def State.rtBytes (s : State) (c : Cmd) (m : Medium) (va n : Nat) : State × Option (List Nat) × Acc :=
  let r := s.vaReadKeep (.cmd c.q c.seq) m (c.bay.getD 0) va n
  (r.1, if r.2.2 = .ok then some (r.2.1.map fun b => (pbyte b).toNat) else none, r.2.2)

/-- A read for a model that brought no data: the access's failure, or the wait. -/
def State.rtNoData (s : State) (b : Nat) (a : Acc) : RtRead :=
  match a with
  | .fail st va => .fail st (s.vaDetail b st va).1 (s.vaDetail b st va).2
  | _ => .wait

def rtParsed (all : Option (List Nat)) (otherwise : RtRead) : RtRead :=
  match all with
  | some bs => .ok (parseManifest bs) []
  | none => otherwise

/-- The whole manifest of n entries. -/
def State.rtReadEntries (s : State) (c : Cmd) (m : Medium) (n : Nat) : State × RtRead :=
  let r := s.rtBytes c m (c.p64 1) (128 * (1 + n) + 96)
  (r.1, rtParsed r.2.1 (r.1.rtNoData (c.bay.getD 0) r.2.2))

/-- Manifest entries that a first line announces, where it announces any that can be. -/
def manifestSize (bs : List Nat) : Option Nat :=
  let n := (parseManifest bs).n
  if n = 0 ∨ 4096 < n then none else some n

def State.rtReadSized (c : Cmd) (m : Medium) (h : State × Option (List Nat) × Acc) (n : Option Nat) : State × RtRead :=
  match n with
  | none => (h.1, rtParsed h.2.1 (h.1.rtNoData (c.bay.getD 0) h.2.2))
  | some n => h.1.rtReadEntries c m n

def State.rtReadFirst (c : Cmd) (m : Medium) (h : State × Option (List Nat) × Acc) : State × RtRead :=
  State.rtReadSized c m h (h.2.1.bind manifestSize)

/-- The manifest (R298). Its checks are the caller's and come first. -/
def State.rtReadManifest (s : State) (c : Cmd) (m : Medium) : State × RtRead :=
  State.rtReadFirst c m (s.rtBytes c m (c.p64 1) 128)

/-- Bay addresses of the shard headers (R299), and the first entry whose header disagrees. -/
def State.rtReadShards (s : State) (c : Cmd) (m : Medium) (man : RtManifest) : State × RtRead × RtFail :=
  let b := c.bay.getD 0
  let t := s.rtBytes c m (c.p64 3) (8 * man.n)
  let stop (s : State) (a : Acc) : State × RtRead × RtFail :=
    match a with
    | .fail st va => (s, .fail st (s.vaDetail b st va).1 (s.vaDetail b st va).2, none)
    | _ => (s, .wait, none)
  match t.2.1 with
  | none => stop t.1 t.2.2
  | some tb =>
    let vas := (List.range man.n).map fun i => ofBytesLE ((tb.drop (8 * i)).take 8) % 2 ^ 57
    let q := (List.range man.n).foldl (fun (q : State × Acc × RtFail) i =>
      let e := man.entries.getD i ⟨0, 0, 0, 0, 0, []⟩
      let r := q.1.rtBytes c m (vas.getD i 0) 128
      let bad : RtFail :=
        match r.2.1 with
        | some hb => if headerAgrees man e hb then none else some (St.MANIFEST_MISMATCH, e.idx, 0)
        | none => none
      (r.1, q.2.1.and r.2.2, q.2.2.orElse fun _ => bad)) (t.1, Acc.ok, none)
    match q.2.1 with
    | .ok => (q.1, .ok man vas, q.2.2)
    | a => stop q.1 a

/-! ### Staging sets -/

/-- A unit's staging is discarded. -/
def RtUnit.discard (u : RtUnit) : RtUnit := { u with stgEpoch := 0, staged := false, stg := none, have_ := [] }

/-- All staging of the layers is discarded (R301, R317). -/
def State.discardStaging (s : State) (b m : Nat) : State :=
  match s.model b m with
  | none => s
  | some x => (s.forAll (List.range x.layers.length) fun s i =>
      match (s.model b m).bind fun x => x.unit false i with
      | none => s
      | some u => if u.stgEpoch = 0 then s else s.putUnit b m false i u.discard).rtPublish b m

/-- Why the edge dies and stacks behind a set refuse it, with DETAIL0 (R319, R459). -/
def State.setRefuses (s : State) (locs : List Nat) : Option (Nat × Nat) :=
  ((locs.map groupOf).eraseDups).findSome? fun g =>
    (s.hbmRefuses g).map fun st => (st, edgeOfGroup g + s.incarn (edgeOfGroup g) * 32)

/-- The staging set takes bytes at an offset of its payload. -/
def State.stagePut (s : State) (u : RtUnit) (off : Nat) (bs : List Byte) : State :=
  (linesOf off bs.length).foldl (fun s p =>
    let loc := u.locs.getD (p.1 / 65536) 0
    (s.hbmPut (loc * 65536 + p.1 % 65536) (unpoisoned ((bs.drop (p.1 - off)).take p.2))).1) s

/-- The staging set of a unit is emptied for an epoch: zeros after the payload (R294). -/
def State.stageOpen (s : State) (b m : Nat) (adapter : Bool) (i epoch : Nat) (u : RtUnit) : State :=
  let s1 := s.forAll u.locs fun s l => s.zeroSlab l
  s1.putUnit b m adapter i { u.discard with stgEpoch := epoch }

def RtModel.stageOf (x : RtModel) (adapter : Bool) : Option RtStage := if adapter then x.adapt else x.stage
def RtModel.setStage (x : RtModel) (adapter : Bool) (g : Option RtStage) : RtModel :=
  if adapter then { x with adapt := g } else { x with stage := g }
def State.setStage (s : State) (b m : Nat) (adapter : Bool) (g : Option RtStage) : State :=
  match s.model b m with
  | none => s
  | some x => s.setModel b m (some (x.setStage adapter g))

/-- A failure of a unit; the latest of a unit counts. -/
def RtStage.fail (g : RtStage) (i st d0 d1 : Nat) : RtStage :=
  { g with fails := (g.fails.filter fun f => decide (f.1 ≠ i)) ++ [(i, st, d0, d1)] }

/-- Entries whose unit is not staged at the epoch, lowest index first, and those that have not failed either. -/
def RtModel.missing (x : RtModel) (adapter : Bool) (g : RtStage) : List RtEntry :=
  g.entries.filter fun e =>
    match x.unit adapter e.idx with
    | none => false
    | some u => !(u.staged && decide (u.stgEpoch = g.epoch))

def lowestIdx (l : List Nat) : Nat := minOf l

/-- The end of a staging (R305): the status of the lowest failing unit; `late` stands for units without one. -/
def RtModel.stageResult (x : RtModel) (m : Nat) (adapter : Bool) (g : RtStage) (late : Nat) : Nat × Nat × Nat :=
  let mi := x.missing adapter g
  match mi with
  | [] => (St.OK, 0, 0)
  | _ =>
    let i := lowestIdx (mi.map (·.idx))
    match g.fails.find? fun f => decide (f.1 = i) with
    | some f => (f.2.1, if St.cls f.2.1 = 9 then rtDetail m i adapter else f.2.2.1, f.2.2.2)
    | none => (late, rtDetail m i adapter, if late = St.STAGE_TIMEOUT then mi.length else 0)

/-! ### Barriers -/

/-- DONE(l) and GATE(l) (R306). -/
def State.rtEvt (s : State) (b m k : Nat) : Nat := s.fld (Reg.RT_CFG0 b m) 8 10 + k
def State.rtDone (s : State) (b m l : Nat) : Nat := s.evt b (s.rtEvt b m (2 * l))
def State.rtGate (s : State) (b m l : Nat) : Nat := s.evt b (s.rtEvt b m (2 * l + 1))

/-- The step a barrier holds gate l at. -/
def RtBar.hold (x : RtBar) (l : Nat) : Option Nat :=
  if x.rolling && !x.left.contains l then none else x.steps[l]?

/-- The value gate l may reach: the lowest of the pending barriers (R311). -/
def RtModel.gateTop (x : RtModel) (l : Nat) : Option Nat :=
  match x.arm.bind fun a => a.hold l, x.abar.bind fun a => a.hold l with
  | some a, some c => some (min a c)
  | some a, none => some a
  | none, y => y

/-- Two sets of a unit change places (R310): FIRST_STEP and epochs follow. The old set keeps its recorded root until it is
staged again. -/
def State.flipUnit (s : State) (b m : Nat) (adapter : Bool) (i first : Nat) : State :=
  match (s.model b m).bind fun x => x.unit adapter i with
  | none => s
  | some u =>
    let base := s.areaSlab b m + u.first
    let old := (List.range u.slabs).map fun k => s.activeLoc b m u k
    let s1 := s.forAll (List.range u.slabs) fun s k =>
      s.setSlab b (base + k) { s.slab b (base + k) with home := some (u.locs.getD k 0), zero := false }
    (s1.putUnit b m adapter i { u with
      locs := old, epoch := u.stgEpoch, prev := u.epoch, firstStep := first, stgEpoch := 0, staged := false, corrupt := false,
      act := u.stg, stg := none, have_ := [] }).count (Reg.RT_FLIP_CNT b m) 1

/-- Holds that begin now: a gate whose DONE has reached the barrier's step (R308, R309). -/
def State.markHolds (s : State) (b m : Nat) (x : RtBar) : RtBar :=
  let due := (List.range x.steps.length).filter fun l =>
    match x.hold l with
    | some k => decide (k ≤ s.rtDone b m l)
    | none => false
  let since := due.foldl (fun h l => if (h.find? fun e => decide (e.1 = l)).isSome then h else minsert h l s.now) x.since
  { x with since := since }

/-- RTm_HOLD_NS: the longest hold of the barrier so far. -/
def State.putHold (s : State) (b m : Nat) (x : RtBar) : State :=
  s.setReg (Reg.RT_HOLD_NS b m) (min 0xFFFFFFFF (maxOf (x.since.map fun e => s.now - e.2)))

/-- The command of a barrier ends. -/
def State.endBar (s : State) (x : RtBar) (st d0 d1 : Nat) : State :=
  if !x.live then s
  else
    match s.findCmd x.q x.seq with
    | none => s
    | some c => s.finish c st d0 d1

/-- Every layer has reached the barrier's step. -/
def State.allReached (s : State) (b m : Nat) (x : RtBar) : Bool :=
  (List.range x.steps.length).all fun l => decide (x.steps.getD l 0 ≤ s.rtDone b m l)

def State.setBars (s : State) (b m : Nat) (arm abar : Option RtBar) : State :=
  match s.model b m with
  | none => s
  | some x => s.setModel b m (some { x with arm := arm, abar := abar })

/-- The arm barrier goes as far as DONE lets it (R308, R309). -/
def State.armStep (s : State) (b m : Nat) : State :=
  match s.model b m with
  | none => s
  | some x =>
    match x.arm with
    | none => s
    | some a0 =>
      let a := s.markHolds b m a0
      if a.rolling then
        let go := a.left.filter fun l => decide (a.steps.getD l 0 ≤ s.rtDone b m l)
        if go = [] then s.setBars b m (some a) x.abar
        else
          let s1 := (s.forAll go fun s l => s.flipUnit b m false l (a.steps.getD l 0 + 1)).putHold b m a
          let left := a.left.filter fun l => !go.contains l
          if left = [] then
            (((s1.setBars b m none x.abar).setRtSt b m rtIdle).rtPublish b m).endBar a St.OK 0 0
          else
            ((s1.setBars b m (some { a with left := left, since := a.since.filter fun e => !go.contains e.1 }) x.abar).setRtSt b m
              rtRolling).rtPublish b m
      else if s.allReached b m a then
        let s1 := (s.forAll (List.range a.steps.length) fun s l => s.flipUnit b m false l (a.steps.getD l 0 + 1)).putHold b m a
        (((s1.setBars b m none x.abar).setRtSt b m rtIdle).rtPublish b m).endBar a St.OK 0 0
      else s.setBars b m (some a) x.abar

/-- The adapter barrier (R314). -/
def State.abarStep (s : State) (b m : Nat) : State :=
  match s.model b m with
  | none => s
  | some x =>
    match x.abar with
    | none => s
    | some a0 =>
      let a := s.markHolds b m a0
      if s.allReached b m a then
        let s1 := (s.forAll a.slots fun s i => s.flipUnit b m true i (a.steps.getD 0 0 + 1)).putHold b m a
        (s1.setBars b m x.arm none).endBar a St.OK 0 0
      else s.setBars b m x.arm (some a)

/-- Gates rise to DONE + 1, or to the step at which a barrier holds them (R307). -/
def State.raiseGates (s : State) (b m : Nat) : State :=
  match s.model b m with
  | none => s
  | some x => s.forAll (List.range x.layers.length) fun s l =>
      let v := s.rtDone b m l + 1
      let t := match x.gateTop l with | none => v | some k => min v k
      if s.rtGate b m l < t then s.evtMax b (s.rtEvt b m (2 * l + 1)) t else s

/-- Epoch of a layer in step k: its active epoch from FIRST_STEP on, the one before it otherwise. -/
def RtUnit.epochAt (u : RtUnit) (k : Nat) : Nat := if u.firstStep ≤ k then u.epoch else u.prev

/-- The stamp entry of step k (Table 10-10): lowest and highest epoch, MIXED and CORRUPT. -/
def RtModel.stampWords (x : RtModel) (k : Nat) : List Nat :=
  let es := x.layers.map fun u => u.epochAt k
  [k % 2 ^ 32, minOf es, maxOf es, b2n (decide (minOf es ≠ maxOf es)) 1 + b2n (x.layers.any (·.corrupt)) 2]

/-- The stamp entry, then SEVT (R312). -/
def State.stampModel (s : State) (b m k : Nat) (x : RtModel) : State :=
  let s1 := s.epochWrite b m (k % 256 * 16) (x.stampWords k)
  ((s1.setModel b m (some { x with stamp := some k })).setReg (Reg.RT_STAMP_STEP b m) (k % 2 ^ 32)).evtMax b
    (s1.rtEvt b m (2 * x.layers.length)) k

def State.stampStep (s : State) (b m k : Nat) : State :=
  match s.model b m with
  | none => s
  | some x => s.stampModel b m k x

/-- Stamps of the steps that the lowest gate has newly reached, each once and in order (R312). -/
def State.putStamps (s : State) (b m : Nat) : State :=
  match s.model b m with
  | none => s
  | some x =>
    let low := minOf ((List.range x.layers.length).map fun l => s.rtGate b m l)
    let from_ := match x.stamp with | none => low | some k => max (k + 1) (low - 255)
    s.forAll ((List.range (low + 1 - from_)).map fun i => from_ + i) fun s k => s.stampStep b m k

/-- A model goes on: barriers that DONE has reached flip, gates rise, and stamps follow. A gate is held at the lowest of
its barriers, so that DONE reaches them in step order (R311). -/
def State.rtGo (s : State) (b m : Nat) : State := (((s.abarStep b m).armStep b m).raiseGates b m).putStamps b m

/-! ### Ends of stagings -/

/-- The adapters are staged: their barrier is taken (R314). -/
def State.openAbar (s : State) (b m : Nat) (g : RtStage) (c : Cmd) : State :=
  match s.model b m with
  | none => s
  | some x =>
    let top := maxOf ((List.range x.layers.length).map fun l => s.rtGate b m l)
    let bar : RtBar := ⟨g.q, g.seq, true, false, x.layers.map fun _ => top, [], [], s.now, g.epoch, g.entries.map (·.idx)⟩
    ((s.setModel b m (some { x with adapt := none, abar := some bar })).setCmd { c with paused := true }).rtGo b m

/-- Nobody waits any more for the requests of an owner. -/
def State.orphan (s : State) (o : FabFor) : State :=
  s.onFab fun f => { f with reqs := f.reqs.map fun r => if r.owner = o then { r with owner := .nobody } else r }

/-- A staging ends (R305). -/
def State.stageEnd (s : State) (b m : Nat) (adapter : Bool) (res : Nat × Nat × Nat) : State :=
  match (s.model b m).bind fun x => x.stageOf adapter with
  | none => s
  | some g =>
    match s.findCmd g.q g.seq with
    | none => s.setStage b m adapter none
    | some c =>
      let s0 := s.orphan (.step g.q g.seq)
      if adapter then
        if res.1 = St.OK then s0.openAbar b m g c
        else (s0.setStage b m true none).finish c res.1 res.2.1 res.2.2
      else
        let s1 := s0.setStage b m false none
        let s2 := if res.1 = St.OK then s1.setRtSt b m rtStaged
          else
            match s1.model b m with
            | none => s1
            | some x => (if x.layers.all fun u => !u.staged then s1.discardStaging b m else s1).setRtSt b m rtIdle
        (s2.rtPublish b m).finish c res.1 res.2.1 res.2.2

/-- A unit whose payload is all there is compared with its DIGEST (R302, R303). -/
def State.stageCompare (s : State) (b m : Nat) (adapter : Bool) (e : RtEntry) : State :=
  match s.model b m with
  | none => s
  | some x =>
    match x.unit adapter e.idx, x.stageOf adapter with
    | some u, some g =>
      let r := s.rootOf u.locs e.len
      if r.2 = some e.digest then
        (r.1.setStage b m adapter (some { g with fails := g.fails.filter fun f => decide (f.1 ≠ e.idx) })).putUnit b m adapter
          e.idx { u with staged := true, stg := some (e.digest, e.len), have_ := [(0, e.len)] }
      else
        ((r.1.huMismatch u.locs).setStage b m adapter (some (g.fail e.idx St.DIGEST_MISMATCH 0 0))).putUnit b m adapter e.idx
          { u with staged := false, stg := none }
    | _, _ => s

/-- Entries still to be moved: neither staged nor failed. -/
def RtModel.todo (x : RtModel) (adapter : Bool) (g : RtStage) : List RtEntry :=
  (x.missing adapter g).filter fun e => !(g.fails.any fun f => decide (f.1 = e.idx))

/-- A staging whose every unit is staged or has failed ends. -/
def State.stageCheckEnd (s : State) (b m : Nat) (adapter : Bool) : State :=
  match s.model b m with
  | none => s
  | some x =>
    match x.stageOf adapter with
    | none => s
    | some g => if x.todo adapter g = [] then s.stageEnd b m adapter (x.stageResult m adapter g St.OK) else s

/-! ### Landings (R303) -/

/-- A range joins those that have landed: rising, joined where they touch. -/
def addRange (l : List (Nat × Nat)) (a n : Nat) : List (Nat × Nat) :=
  match l with
  | [] => [(a, n)]
  | (x, k) :: r =>
    if a + n < x then (a, n) :: (x, k) :: r
    else if x + k < a then (x, k) :: addRange r a n
    else addRange r (min a x) (max (a + n) (x + k) - min a x)

/-- The model whose area holds a slab. -/
def State.areaModel (s : State) (b n : Nat) : Option Nat :=
  (s.objAt b n).bind fun o => match o.owner with | .rethatch m => some m | _ => none

/-- The unit that holds slab `k` of the area. -/
def RtModel.unitAt (x : RtModel) (k : Nat) : Option (Bool × Nat × RtUnit) :=
  let f (l : List RtUnit) : Option (Nat × RtUnit) :=
    ((List.range l.length).zip l).find? fun e => decide (e.2.first ≤ k) && decide (k < e.2.first + e.2.slabs)
  match f x.layers with
  | some e => some (false, e.1, e.2)
  | none => (f x.adapts).map fun e => (true, e.1, e.2)

/-- The landing is refused (R303). -/
def State.stageClosed (s : State) (b m : Nat) : State × Nat := (s.count (Reg.RT_STRAY_CNT b m) 1, St.STAGE_CLOSED)

/-- A landing for which no staging runs: the first after the staging's timeout is recorded (R303, R431). -/
def State.stageStray (s : State) (b m va : Nat) (adapter : Bool) : State × Nat :=
  ((s.stageClosed b m).1.lateArrival (.stage b m adapter) fun s => s.lateRecord 24 St.STAGE_TIMEOUT 4 0 (some b) none va,
    St.STAGE_CLOSED)

/-- A ridge landing in a rethatch area: its status (R303). -/
def State.landStaging (s : State) (b m va : Nat) (bs : List Byte) : State × Nat :=
  match s.model b m with
  | none => s.stageClosed b m
  | some x =>
    let k := va / 65536 - s.areaSlab b m
    match x.unitAt k with
    | none => s.stageClosed b m
    | some (ad, i, u) =>
      let off := va - (s.areaSlab b m + u.first) * 65536
      match x.stageOf ad with
      | none => s.stageStray b m va ad
      | some g =>
        match g.entries.find? fun e => decide (e.idx = i) with
        | none => s.stageClosed b m
        | some e =>
          if !g.fabric ∨ e.len < off + bs.length then s.stageClosed b m
          else
            match s.setRefuses u.locs with
            | some r => ((s.setStage b m ad (some (g.fail i r.1 r.2 0))).stageCheckEnd b m ad, r.1)
            | none =>
              let have' := addRange u.have_ off bs.length
              let s1 := (s.stagePut u off bs).putUnit b m ad i { u with have_ := have', staged := u.staged }
              let s2 := if have' = [(0, e.len)] then s1.stageCompare b m ad e else s1
              (s2.stageCheckEnd b m ad, St.OK)

/-! ### The ready signal and settling -/

/-- A ready signal that has ended: a failure ends the command (R304). -/
def State.readySettle (s : State) (b m : Nat) (adapter : Bool) : State :=
  match (s.model b m).bind fun x => x.stageOf adapter with
  | none => s
  | some g =>
    let rs := s.reqsOf (.step g.q g.seq)
    match firstFailed rs with
    | some f => s.stageEnd b m adapter f
    | none => s.dropReqs fun r => decide (r.owner = .step g.q g.seq) && r.done

/-- The models of a bay whose DONE counters may have moved go on; during an apex restart nothing does (R307, R319). -/
def State.rtSettle (s : State) : State :=
  if !s.apexUp then s
  else s.forAll s.rt.models fun s e =>
    (((s.readySettle (e.1 / 4) (e.1 % 4) false).readySettle (e.1 / 4) (e.1 % 4) true).rtGo (e.1 / 4) (e.1 % 4))

end Sys2Proof.Machine
end

