-- ==== Sys2Proof/Machine/Rethatch.lean ====
section
/-! DEFINITION. Generator models: ENABLE and DISABLE, RT_STAGE, RT_ADAPTER, RT_VERIFY, RT_ARM, RT_ABORT, landings,
time-outs and re-checks (R289 to R319). -/

namespace Sys2Proof.Machine

open Host (Outcome)

/-! ### ENABLE and DISABLE (R292, R293) -/

/-- Layer l's entry of the layer table: SLABS, FMT, LAYOUT, GROUPS (Table 10-1). -/
def layerEntry (bs : List Nat) (l : Nat) : Nat × Nat × Nat × Nat :=
  let w := wordsOf ((bs.drop (16 * l)).take 8)
  (bitsAt (w.getD 0 0) 0 24, bitsAt (w.getD 0 0) 24 4, bitsAt (w.getD 0 0) 28 4, w.getD 1 0)

/-- `n` slabs placed from slab i on in the groups of a mask (R238). -/
def State.placeSet (n i : Nat) (s : State) (b mask : Nat) : Option (State × List Nat) :=
  match n with
  | 0 => some (s, [])
  | k + 1 =>
    match s.placeSlab b mask i with
    | none => none
    | some loc => (State.placeSet k (i + 1) (s.takeSlab b loc) b mask).map fun r => (r.1, loc :: r.2)

/-- Both sets of a unit: set 0 is active at first, marked ZERO, and set 1 is the staging set (R291, R292). -/
def State.placeUnit (s : State) (b base first slabs fmt layout mask : Nat) : Option (State × RtUnit) :=
  match State.placeSet slabs 0 s b mask with
  | none => none
  | some r0 =>
    match State.placeSet slabs 0 r0.1 b mask with
    | none => none
    | some r1 =>
      let s2 := r1.1.forAll (List.range slabs) fun s i =>
        s.setSlab b (base + first + i) { Slab.none with home := some (r0.2.getD i 0), zero := true }
      some (s2, ⟨first, slabs, fmt, layout, r1.2, 0, 0, 0, 0, false, false, none, none, []⟩)

/-- The units of a model: slabs, format, layout and groups of each. -/
def State.placeUnits (s : State) (b base first : Nat) (l : List (Nat × Nat × Nat × Nat)) : Option (State × List RtUnit) :=
  match l with
  | [] => some (s, [])
  | e :: r =>
    match s.placeUnit b base first e.1 e.2.1 e.2.2.1 e.2.2.2 with
    | none => none
    | some x => (State.placeUnits x.1 b base (first + e.1) r).map fun y => (y.1, x.2 :: y.2)

def State.notEnabling (s : State) (b m : Nat) : State :=
  s.onRt fun r => { r with enabling := r.enabling.filter fun k => decide (k ≠ b * 4 + m) }

/-- ENABLE fails: ERR holds the low byte of the code. -/
def State.enableFails (s : State) (b m st : Nat) : State := (s.notEnabling b m).setFld (Reg.RT_STATE b m) 13 8 (st % 256)

/-- The object that stands for a model's area (R291). -/
def areaObj (b m base n : Nat) : Obj :=
  { bay := b, base := base, n := n, home := 0, fill := false, wb := false, ro := false, link := 0, plain := false, layout := 0
    fmt := 0, t3 := 0, t3tag := 0, groups := 0, migr := 0, alt := none, owner := .rethatch m }

/-- The model is enabled: epochs 0, the epoch area written, gates at DONE + 1, the first stamp (R292, R312). -/
def State.modelUp (s : State) (b m : Nat) (layers adapts : List RtUnit) : State :=
  let s1 := (s.notEnabling b m).setModel b m (some ⟨layers, adapts, none, none, none, none, none⟩)
  let s2 := (s1.setReg (Reg.RT_STATE b m) rtIdle).epochWrite b m 0 (List.replicate (0xA000 / 4) 0)
  let s3 := s2.forAll (List.range layers.length) fun s l => s.setEvt b (s.rtEvt b m (2 * l + 1)) (s.rtDone b m l + 1)
  (s3.rtPublish b m).rtGo b m

/-- ENABLE: the configuration is checked and the area reserved (R292). -/
def State.rtTry (s : State) (b m : Nat) : State :=
  let n := s.fld (Reg.RT_CFG0 b m) 0 8 + 1
  let na := s.fld (Reg.RT_CFG1 b m) 0 13
  let az := s.fld (Reg.RT_CFG1 b m) 13 16
  let bad (s : State) : State := s.enableFails b m St.BAD_MODEL
  if 1023 < s.fld (Reg.RT_CFG0 b m) 8 10 + 2 * n ∨ 4096 < na ∨ (na ≠ 0 ∧ az = 0) then bad s
  else
    let r := s.vaRead .dev b (s.reg (Reg.RT_LAYER_TAB b m)) (16 * n)
    match r.2.2 with
    | .wait => r.1
    | .fail _ _ => bad r.1
    | .ok =>
      let s := r.1
      let tab := r.2.1.map fun x => (pbyte x).toNat
      let es := (List.range n).map (layerEntry tab)
      let base := s.areaSlab b m
      let all := es ++ List.replicate na (az, 0, 0, 0)
      let total := sumOver (fun e : Nat × Nat × Nat × Nat => e.1) all
      let o := areaObj b m base total
      let mine := s.mem.objs.filter fun x => decide (x.bay = b)
      let okEntry (e : Nat × Nat × Nat × Nat) : Bool :=
        decide (e.1 ≠ 0) && decide (e.2.1 ≤ 0xA) && decide (e.2.2.1 ≤ 3) &&
          (maskList 32 e.2.2.2).all fun g => (s.groups b).contains g
      let epochOk := mine.any fun x => decide (x.base * 65536 = s.reg (Reg.RT_EPOCH_VA b m)) && decide (x.home = 0) &&
        decide (x.migr = 0) && decide (x.owner = .user)
      if !(es.all okEntry) || decide (apertureBase < (base + total) * 65536) ||
          (mine.any fun x => rangesOverlap x.base x.n base total) || !epochOk then bad s
      else
        let need := 2 * total + s.newTables o
        let ahead := s.cq.adms.any fun a => decide (a.bay = b) && a.has 1
        if 65536 ≤ mine.length ∨ ahead ∨ s.share b 1 < need ∨ s.reclaimable b + s.lentBy b 1 < need then
          s.enableFails b m St.NO_SPACE
        else
          match (s.takeUnits b 1 need).placeUnits b base 0 all with
          | none => s.enableFails b m St.NO_SPACE
          | some x => (x.1.addObj o).modelUp b m (x.2.take n) (x.2.drop n)

/-- RTm_CTRL.ENABLE of a DISABLED model. -/
def State.rtEnable (s : State) (b m : Nat) : State :=
  if s.rtSt b m ≠ rtDisabled ∨ s.rt.enabling.contains (b * 4 + m) then s
  else (s.onRt fun r => { r with enabling := r.enabling ++ [b * 4 + m] }).rtTry b m

/-- RTm_CTRL.DISABLE of an IDLE model: its slabs are free; a running RT_ADAPTER has no model any more (R293). -/
def State.rtDisable (s : State) (b m : Nat) : State :=
  match s.model b m with
  | none => s
  | some x =>
    if s.rtSt b m ≠ rtIdle then s
    else
      let stop (s : State) (q seq : Nat) : State :=
        match s.findCmd q seq with
        | none => s
        | some c => s.finish c St.BAD_MODEL (rtDetail m 0 true) 0
      let s1 := match x.adapt with | none => s | some g => (s.orphan (.step g.q g.seq)) |> fun s => stop s g.q g.seq
      let s2 := match x.abar with | none => s1 | some a => stop s1 a.q a.seq
      let locs := (x.layers ++ x.adapts).flatMap (·.locs)
      let s3 := s2.forAll locs fun s l => s.giveSlab l
      let s4 := s3.setUsed b 1 (s3.used b 1 - locs.length)
      let s5 := match s4.mem.objs.find? fun o => decide (o.bay = b) && decide (o.owner = .rethatch m) with
        | none => s4
        | some o => s4.unmapObj o
      ((s5.setModel b m none).setReg (Reg.RT_STATE b m) 0)

/-! ### RT_STAGE and RT_ADAPTER (R301 to R305, R314) -/

/-- The ready signal (R304). -/
def State.sendReady (s : State) (c : Cmd) (b m : Nat) (adapter : Bool) : State :=
  if c.p 7 28 1 = 0 then s
  else
    let dev := c.p 7 0 24
    let db := c.p 7 24 4
    if dev = s.ownDev then
      if s.bayState db ≠ bayRunning then s.stageEnd b m adapter (St.DEST_BAY_DOWN, fabDetail0 St.DEST_BAY_DOWN dev db 0, 0)
      else if s.bayJob db ≠ s.bayJob b then s.stageEnd b m adapter (St.JOB_MISMATCH, fabDetail0 St.JOB_MISMATCH dev db 0, 0)
      else s.evtAdd db (c.p 8 0 10) 1
    else (s.remoteSignal (.step c.q c.seq) b dev db (c.p 8 0 10) 1 1).readySettle b m adapter

/-- The staging begins: units that are not yet staged at the epoch are opened; with SOURCE FABRIC the ready signal goes. -/
def State.stageBegin (s : State) (c : Cmd) (b m : Nat) (adapter fabric : Bool) (man : RtManifest) (vas : List Nat) : State :=
  let g : RtStage := ⟨c.q, c.seq, man.epoch, man.entries, fabric, [], 0, vas⟩
  let s1 := ((s.setCmd { c with ran := true }).setStage b m adapter (some g)).clearLate (.stage b m adapter)
  let s2 := if adapter then s1 else s1.setRtSt b m rtStaging
  let s3 := s2.forAll man.entries fun s e =>
    match (s.model b m).bind fun x => x.unit adapter e.idx with
    | none => s
    | some u => if u.staged ∧ u.stgEpoch = man.epoch then s else s.stageOpen b m adapter e.idx man.epoch u
  let s4 := if adapter then s3 else s3.rtPublish b m
  let s5 := if fabric then s4.sendReady c b m adapter else s4
  s5.stageCheckEnd b m adapter

/-- Ends a rethatch command. -/
def State.rtEnds (s : State) (c : Cmd) (m : Nat) (adapter : Bool) (f : Nat × Nat × Nat) : State :=
  (s.t3Done (.cmd c.q c.seq)).finish c f.1 (rtDetail m f.2.1 adapter) f.2.2

/-- The shard headers have been read: `go` gets them; a wait or a failure ends here. -/
def State.withShards (c : Cmd) (m : Nat) (adapter : Bool) (go : State → RtManifest → List Nat → State)
    (q : State × RtRead × RtFail) : State :=
  match q.2.2 with
  | some f => q.1.rtEnds c m adapter f
  | none =>
    match q.2.1 with
    | .wait => q.1
    | .fail st d0 d1 => (q.1.t3Done (.cmd c.q c.seq)).finish c st d0 d1
    | .ok man vas => go (q.1.t3Done (.cmd c.q c.seq)) man vas

/-- The manifest has been read: its checks, then its shards. -/
def State.withRead (c : Cmd) (md : Medium) (m : Nat) (adapter fabric : Bool) (check : RtManifest → RtFail)
    (go : State → RtManifest → List Nat → State) (r : State × RtRead) : State :=
  match r.2 with
  | .wait => r.1
  | .fail st d0 d1 => (r.1.t3Done (.cmd c.q c.seq)).finish c st d0 d1
  | .ok man _ =>
    match check man with
    | some f => r.1.rtEnds c m adapter f
    | none =>
      if fabric then go (r.1.t3Done (.cmd c.q c.seq)) man []
      else State.withShards c m adapter go (r.1.rtReadShards c md man)

/-- `go` gets the manifest and its shards once they have been read and checked. -/
def State.withManifest (s : State) (c : Cmd) (md : Medium) (m : Nat) (adapter fabric : Bool) (check : RtManifest → RtFail)
    (go : State → RtManifest → List Nat → State) : State :=
  State.withRead c md m adapter fabric check go (s.rtReadManifest c md)

/-- RT_STAGE after its manifest's checks: signature, epoch, and what is staged already (R301). -/
def State.stageGo (c : Cmd) (b m : Nat) (fabric : Bool) (s : State) (man : RtManifest) (vas : List Nat) : State :=
  let hi := s.reg (Reg.RT_EPOCH_HI b m)
  let mixed := s.fld (Reg.RT_STATE b m) 3 1
  let stg := s.reg (Reg.RT_STAGED_EPOCH b m)
  if !s.sigValid b man then s.rtEnds c m false (St.SIG_INVALID, 0, 0)
  else if !(decide (hi < man.epoch) || (decide (c.p 0 4 1 = 1) && decide (hi = man.epoch) && decide (mixed = 0))) then
    s.rtEnds c m false (St.EPOCH_NOT_NEWER, 0, hi)
  else if s.rtSt b m = rtStaged ∧ stg = man.epoch then s.endsWith c St.OK
  else (if stg ≠ man.epoch then s.discardStaging b m else s).stageBegin c b m false fabric man vas

def State.rtStage (fabric : Bool) (md : Medium) (c : Cmd) (s : State) : State :=
  let b := c.bay.getD 0
  let m := c.p 0 0 2
  if c.p 0 2 2 ≠ b2n fabric 1 then s
  else
    match s.model b m with
    | none => s.rtEnds c m false (St.BAD_MODEL, 0, 0)
    | some x =>
      if s.rtSt b m ≠ rtIdle ∧ s.rtSt b m ≠ rtStaged then s.rtEnds c m false (St.BAD_STATE, 0, 0)
      else s.withManifest c md m false fabric (manifestCheck (s.reg (Reg.RT_MODEL_ID b m)) 0 x.layers)
        (State.stageGo c b m fabric)

/-- One leaf is copied into the staging set; the last one of a unit is followed by the comparison (R302). -/
def State.stageLeaf (s : State) (c : Cmd) (b m : Nat) (adapter : Bool) (md : Medium) (x : RtModel) (g : RtStage) (e : RtEntry)
    (u : RtUnit) : State :=
  let va := g.shards.getD ((g.entries.findIdx? fun y => decide (y.idx = e.idx)).getD 0) 0 + 128 + g.off * 65536
  let n := min 65536 (e.len - g.off * 65536)
  match s.setRefuses u.locs with
  | some f => s.setModel b m (some (x.setStage adapter (some { g.fail e.idx f.1 f.2 0 with off := 0 })))
  | none =>
    let r := s.vaReadM (.cmd c.q c.seq) md b va n
    match r.2.2 with
    | .wait => r.1
    | .fail st a =>
      let d := r.1.vaDetail b st a
      r.1.setStage b m adapter (some { g.fail e.idx st d.1 d.2 with off := 0 })
    | .ok =>
      let s1 := (r.1.stagePut u (g.off * 65536) (r.2.1.map pbyte)).moved ((u.locs[g.off]?).map groupOf) n true
      if e.len ≤ g.off * 65536 + n then
        (s1.setStage b m adapter (some { g with off := 0 })).stageCompare b m adapter e
      else s1.setStage b m adapter (some { g with off := g.off + 1 })

/-- A staging from memory goes on by one leaf, or stops there for a pre-emption (R318). -/
def State.stageMore (adapter : Bool) (md : Medium) (c : Cmd) (s : State) : State :=
  let b := c.bay.getD 0
  let m := c.p 0 0 2
  match s.model b m with
  | none => s
  | some x =>
    match x.stageOf adapter with
    | none => s
    | some g =>
      if c.paused || g.fabric || decide (g.q ≠ c.q) || decide (g.seq ≠ c.seq) then s
      else
        match (x.todo adapter g).head? with
        | none => s.stageCheckEnd b m adapter
        | some e =>
          match x.unit adapter e.idx with
          | none => s
          | some u =>
            let s1 := (s.stageLeaf c b m adapter md x g e u).stageCheckEnd b m adapter
            match s1.findCmd c.q c.seq with
            | none => s1
            | some c' => if s1.qState c.q = qPreempting ∧ c'.phase = .started then s1.setCmd { c' with paused := true } else s1

/-- R314's own checks of an adapter manifest. -/
def adapterCheck (modelId slabs : Nat) (x : RtModel) (man : RtManifest) : RtFail :=
  match manifestCheck modelId 1 x.layers man with
  | some f => some f
  | none =>
    match man.entries.find? fun e => decide (x.adapts.length ≤ e.idx) with
    | some e => some (St.BAD_ADAPTER, e.idx, 0)
    | none =>
      if (man.entries.map (·.idx)).eraseDups.length ≠ man.entries.length then some (St.MANIFEST_MISMATCH, 0, 0)
      else (man.entries.find? fun e => decide (slabs * 65536 < e.len)).map fun e => (St.MANIFEST_MISMATCH, e.idx, 0)

/-- RT_ADAPTER after its manifest's checks. -/
def State.adapterGo (c : Cmd) (b m : Nat) (fabric : Bool) (x : RtModel) (s : State) (man : RtManifest) (vas : List Nat) : State :=
  if !s.sigValid b man then s.rtEnds c m true (St.SIG_INVALID, 0, 0)
  else
    match man.entries.find? fun e => match x.unit true e.idx with | some u => decide (man.epoch ≤ u.epoch) | none => false with
    | some e => s.rtEnds c m true (St.EPOCH_NOT_NEWER, e.idx, ((x.unit true e.idx).map (·.epoch)).getD 0)
    | none => s.stageBegin c b m true fabric man vas

def State.rtAdapter (md : Medium) (c : Cmd) (s : State) : State :=
  let b := c.bay.getD 0
  let m := c.p 0 0 2
  let fabric := decide (c.p 0 2 2 = 1)
  match s.model b m with
  | none => s.rtEnds c m true (St.BAD_MODEL, 0, 0)
  | some x =>
    if x.adapt.isSome || x.abar.isSome then s.rtEnds c m true (St.BAD_STATE, 0, 0)
    else if x.adapts = [] then s.rtEnds c m true (St.BAD_ADAPTER, 0, 0)
    else s.withManifest c md m true fabric (adapterCheck (s.reg (Reg.RT_MODEL_ID b m)) (s.fld (Reg.RT_CFG1 b m) 13 16) x)
      (State.adapterGo c b m fabric x)

/-- STAGING_LANDING. -/
def State.stagingLanding (s : State) (b va : Nat) (bs : List Byte) : State :=
  match s.areaModel b (va / 65536) with
  | none => s
  | some m => (s.landStaging b m va bs).1

/-- STAGE_TIMEOUT (R303): landings of the expiry cycle have counted. -/
def State.stageTimeout (s : State) (r : CmdRef) : State :=
  match s.findCmd r.q r.seq.toNat with
  | none => s
  | some c =>
    let b := c.bay.getD 0
    let m := c.p 0 0 2
    let adapter := decide (c.op = 0x24)
    match s.model b m with
    | none => s
    | some x =>
      match x.stageOf adapter with
      | none => s
      | some g =>
        if s.apexUp && g.fabric && decide (g.q = c.q) && decide (g.seq = c.seq) &&
            decide (c.startAt + c.p 5 0 24 * 1000000 ≤ s.now) then
          (s.stageEnd b m adapter (x.stageResult m adapter g St.STAGE_TIMEOUT)).armLate (.stage b m adapter)
        else s

/-! ### RT_VERIFY and re-checks (R299, R300, R316) -/

/-- Layers and slots that have a recorded root of the set asked for: kind, index, unit, locations, root, length. -/
def State.recorded (s : State) (b m : Nat) (staged : Bool) (x : RtModel) : List (Bool × Nat × List Nat × List Nat × Nat) :=
  let f (adapter : Bool) (l : List RtUnit) : List (Bool × Nat × List Nat × List Nat × Nat) :=
    ((List.range l.length).zip l).filterMap fun e =>
      let u := e.2
      if staged then
        if u.staged then u.stg.map fun r => (adapter, e.1, u.locs, r.1, r.2) else none
      else u.act.map fun r => (adapter, e.1, (List.range u.slabs).map (s.activeLoc b m u), r.1, r.2)
  f false x.layers ++ f true x.adapts

/-- What re-reading the sets gives: the units whose root differs, and the first set that cannot be read. `differs` names
the units (index, bit 13 for an adapter) whose memory no longer returns what was stored. -/
def State.recheck (s : State) (b m : Nat) (staged : Bool) (x : RtModel) (differs : List (BitVec 14)) :
    State × List (Bool × Nat) × Option (Nat × Nat) :=
  (s.recorded b m staged x).foldl (fun q e =>
    match q.1.setRefuses e.2.2.1 with
    | some f => (q.1, q.2.1, q.2.2.orElse fun _ => some f)
    | none =>
      let r := q.1.rootOf e.2.2.1 e.2.2.2.2
      let bad := decide (r.2 ≠ some e.2.2.2.1) || differs.any fun d => decide (d.toNat = e.2.1 + b2n e.1 8192)
      if bad then (r.1.huMismatch e.2.2.1, q.2.1 ++ [(e.1, e.2.1)], q.2.2) else (r.1, q.2)) (s, [], none)

/-- A mismatch in an active set (R316). -/
def State.activeMismatch (b m : Nat) (s : State) (f : Bool × Nat) : State :=
  match (s.model b m).bind fun x => x.unit f.1 f.2 with
  | none => s
  | some u =>
    let s1 := if f.1 then s else s.putUnit b m false f.2 { u with corrupt := true }
    let s2 := (s1.raise (errNote (edgeOfGroup (groupOf (s1.activeLoc b m u 0))) 1 St.DIGEST_MISMATCH 4 0 (some b) none
      ((s.areaSlab b m + u.first) * 65536) [] false)).count (Reg.RT_RECHECK_FAIL_CNT b m) 1
    (if u.corrupt then s2 else s2.notice b (s2.reg (Reg.RT_NOTICE b m))).rtPublish b m

/-- A mismatch in a staged set unstages it; the model is no longer STAGED, and an RT_ARM that waits ends. -/
def State.stagedMismatch (b m : Nat) (s : State) (f : Bool × Nat) : State :=
  match (s.model b m).bind fun x => x.unit f.1 f.2 with
  | none => s
  | some u =>
    let s1 := s.putUnit b m f.1 f.2 u.discard
    if f.1 then s1
    else
      let s2 :=
        if s1.rtSt b m = rtStaged then s1.setRtSt b m rtIdle
        else if s1.rtSt b m = rtArmed then
          match (s1.model b m).bind (·.arm) with
          | none => s1
          | some a =>
            let t := (s1.setBars b m none ((s1.model b m).bind (·.abar))).setRtSt b m rtIdle
            (t.endBar a St.DIGEST_MISMATCH (rtDetail m f.2 false) 0).rtGo b m
        else s1
      s2.rtPublish b m

/-- RT_VERIFY CHECK_ACTIVE or CHECK_STAGED. -/
def State.verifyCheck (staged : Bool) (differs : List (BitVec 14)) (c : Cmd) (s : State) : State :=
  let b := c.bay.getD 0
  let m := c.p 0 0 2
  if c.p 0 2 2 ≠ b2n staged 1 then s
  else
    match s.model b m with
    | none => s.rtEnds c m false (St.BAD_MODEL, 0, 0)
    | some x =>
      if staged ∧ s.rtSt b m ≠ rtStaged then s.rtEnds c m false (St.BAD_STATE, 0, 0)
      else
        let r := s.recheck b m staged x differs
        let s1 := r.1.forAll r.2.1 (if staged then State.stagedMismatch b m else State.activeMismatch b m)
        match r.2.1.head?, r.2.2 with
        | some f, _ => s1.rtEnds c m f.1 (St.DIGEST_MISMATCH, f.2, 0)
        | none, some f => s1.finish c f.1 f.2 0
        | none, none => s1.endsWith c St.OK

/-- RECHECK_PASS: active sets, and staged sets of a STAGED or ARMED model. -/
def State.recheckPass (s : State) (b m : Nat) (active staged : List (BitVec 14)) : State :=
  match s.model b m with
  | none => s
  | some x =>
    if s.reg (Reg.RT_RECHECK b m) = 0 then s
    else
      let r := s.recheck b m false x active
      let s1 := r.1.forAll r.2.1 (State.activeMismatch b m)
      let s2 := if s1.rtSt b m = rtStaged ∨ s1.rtSt b m = rtArmed then
          match s1.model b m with
          | none => s1
          | some y =>
            let q := s1.recheck b m true y staged
            q.1.forAll q.2.1 (State.stagedMismatch b m)
        else s1
      s2.setReg (Reg.RT_LAST_RECHECK b m) s2.now

/-- PUBLISH's checks of the manifest as software left it (R299). -/
def publishCheck (man : RtManifest) : RtFail :=
  if man.magic ≠ 0x4D46 ∨ man.n = 0 ∨ 4096 < man.n ∨ man.epoch = 0 then some (St.MANIFEST_MISMATCH, 0, 0)
  else if man.major ≠ 1 ∧ man.major ≠ 2 ∨ (man.major = 1 ∧ man.kind = 1) then some (St.BAD_VERSION, 0, man.major)
  else
    match man.entries.find? fun e => decide (e.major ≠ 1 ∧ e.major ≠ 2) with
    | some e => some (St.BAD_VERSION, e.idx, e.major)
    | none => (man.entries.find? fun e => decide (e.len = 0 ∨ e.len % 128 ≠ 0)).map fun e => (St.MANIFEST_MISMATCH, e.idx, 0)

/-- The payloads of the shards, each as one read: the digests, or how it stands. -/
def State.payloadDigests (s : State) (c : Cmd) (md : Medium) (man : RtManifest) (vas : List Nat) :
    State × Acc × List (List Nat) :=
  (List.range man.n).foldl (fun q i =>
    let e := man.entries.getD i ⟨0, 0, 0, 0, 0, []⟩
    let va := vas.getD i 0 + 128
    let r := q.1.rtBytes c md va e.len
    match r.2.1 with
    | none => (r.1, q.2.1.and r.2.2, q.2.2)
    | some bs =>
      let s1 := match (r.1.slab (c.bay.getD 0) (va / 65536)).home with
        | some loc => r.1.count64 (Reg.HU_BYTES (edgeOfGroup (groupOf loc))) e.len
        | none => r.1
      (s1, q.2.1, q.2.2 ++ [shardDigest bs])) (s, Acc.ok, [])

/-- The manifest with key identifier, PUB_KTIME and digests filled in, and its signature (R296, R299). -/
def publishBytes (man : RtManifest) (scalar now nonce : Nat) (digests : List (List Nat)) : List Nat :=
  let hdr := man.signed.take 16 ++ bytesLE 8 now ++ keyId (p384Public scalar) ++ (man.signed.drop 72).take 56
  let ents := (List.range man.n).flatMap fun i =>
    let e := (man.signed.drop (128 * (1 + i))).take 128
    e.take 16 ++ digests.getD i [] ++ e.drop 64
  let sig := ecdsaSign scalar (sha384 (hdr ++ ents)) nonce
  hdr ++ ents ++ bytesBE 48 sig.1 ++ bytesBE 48 sig.2

/-- PUBLISH once headers agree: hash, fill in, sign, write. -/
def State.publishGo (c : Cmd) (md : Medium) (b m : Nat) (s : State) (man : RtManifest) (vas : List Nat) : State :=
  match s.pubScalar b with
  | none => s.rtEnds c m false (St.SIG_INVALID, 0, 0)
  | some k =>
    let r := s.payloadDigests c md man vas
    match r.2.1 with
    | .wait => r.1
    | .fail st va => (r.1.t3Done (.cmd c.q c.seq)).finish c st (r.1.vaDetail b st va).1 (r.1.vaDetail b st va).2
    | .ok =>
      let n := 128 * (1 + man.n) + 96
      let ready := State.writeReady (.cmd c.q c.seq) .bay b r.1 (c.p64 1) n
      if ready.2 = .wait then ready.1
      else
        let d := r.1.draw
        let w := d.2.vaWriteM (.cmd c.q c.seq) .bay md b (c.p64 1)
          ((publishBytes man k r.1.now d.1 r.2.2).map fun x => some (BitVec.ofNat 8 x))
        match w.2 with
        | .fail st va => w.1.finish c st (w.1.vaDetail b st va).1 (w.1.vaDetail b st va).2
        | _ => w.1.endsWith c St.OK

def State.verifyPublish (md : Medium) (c : Cmd) (s : State) : State :=
  if c.p 0 2 2 ≠ 2 then s
  else s.withManifest c md (c.p 0 0 2) false false publishCheck (State.publishGo c md (c.bay.getD 0) (c.p 0 0 2))

/-! ### RT_ARM, RT_ABORT, BARRIER_TIMEOUT (R308 to R311, R317) -/

def State.rtArm (rolling : Bool) (c : Cmd) (s : State) : State :=
  let b := c.bay.getD 0
  let m := c.p 0 0 2
  if c.p 0 5 1 ≠ b2n rolling 1 then s
  else
    match s.model b m with
    | none => s.rtEnds c m false (St.BAD_MODEL, 0, 0)
    | some x =>
      if s.rtSt b m ≠ rtStaged then s.rtEnds c m false (St.NOT_STAGED, 0, 0)
      else
        let ls := List.range x.layers.length
        let gates := ls.map fun l => s.rtGate b m l
        let bar : RtBar := ⟨c.q, c.seq, true, rolling, if rolling then gates else gates.map fun _ => maxOf gates, [],
          if rolling then ls else [], s.now, s.reg (Reg.RT_STAGED_EPOCH b m), []⟩
        (((s.setCmd { c with ran := true }).setBars b m (some bar) x.abar).setRtSt b m rtArmed).rtGo b m

/-- The command of a staging or barrier ends ABORTED. -/
def State.abortCmd (s : State) (q seq m : Nat) (adapter : Bool) : State :=
  match s.findCmd q seq with
  | none => s
  | some c => s.rtEnds c m adapter (St.ABORTED, 0, 0)

/-- RT_ABORT of the model's RT_STAGE or RT_ARM. A barrier that has been reached wins. -/
def State.rtAbort (c : Cmd) (s : State) : State :=
  let b := c.bay.getD 0
  let m := c.p 0 0 2
  if c.p 0 6 1 = 1 then s
  else
    let s0 := s.rtSettle
    match s0.model b m with
    | none => s0.endsWith c St.OK
    | some x =>
      let st := s0.rtSt b m
      if st = rtRolling then s0.rtEnds c m false (St.ABORT_TOO_LATE, 0, 0)
      else
        let s1 := match x.stage with
          | none => s0
          | some g => ((s0.orphan (.step g.q g.seq)).abortCmd g.q g.seq m false).setStage b m false none
        let s2 := match x.arm with
          | none => s1
          | some a => ((s1.putHold b m a).endBar a St.ABORTED (rtDetail m 0 false) 0).setBars b m none x.abar
        let s3 := if st = rtStaging ∨ st = rtStaged ∨ st = rtArmed then (s2.setRtSt b m rtIdle).discardStaging b m else s2
        (s3.rtGo b m).endsWith c St.OK

/-- RT_ABORT of the model's RT_ADAPTER; one whose flip has been made, but which has not completed, is past aborting. -/
def State.rtAbortAdapter (c : Cmd) (s : State) : State :=
  let b := c.bay.getD 0
  let m := c.p 0 0 2
  if c.p 0 6 1 = 0 then s
  else
    let s0 := s.rtSettle
    match s0.model b m with
    | none => s0.endsWith c St.OK
    | some x =>
      match x.adapt, x.abar with
      | some g, _ =>
        (((s0.orphan (.step g.q g.seq)).abortCmd g.q g.seq m true).setStage b m true none).endsWith c St.OK
      | none, some a =>
        ((((s0.putHold b m a).endBar a St.ABORTED (rtDetail m 0 true) 0).setBars b m x.arm none).rtGo b m).endsWith c St.OK
      | none, none =>
        let flipped := s0.cq.cmds.any fun y => decide (y.bay = c.bay) && decide (y.op = 0x24) && decide (y.p 0 0 2 = m) &&
          decide (y.phase = .finished St.OK 0 0)
        if flipped then s0.rtEnds c m true (St.ABORT_TOO_LATE, 0, 0) else s0.endsWith c St.OK

/-- The barrier's time has passed. -/
def State.barLate (s : State) (x : RtBar) (c : Cmd) : Bool :=
  x.live && decide (x.q = c.q) && decide (x.seq = c.seq) && decide (c.p 6 0 24 ≠ 0) &&
    decide (x.start + c.p 6 0 24 * 1000 ≤ s.now)

/-- BARRIER_TIMEOUT: DONE updates of the expiry cycle come first (R311). -/
def State.barrierTimeout (s0 : State) (r : CmdRef) : State :=
  if !s0.apexUp then s0
  else
    let s := s0.rtSettle
    match s.findCmd r.q r.seq.toNat with
    | none => s
    | some c =>
      let b := c.bay.getD 0
      let m := c.p 0 0 2
      match s.model b m with
      | none => s
      | some x =>
        let low := minOf ((List.range x.layers.length).map fun l => s.rtDone b m l) % 2 ^ 32
        match x.arm, x.abar with
        | some a, y =>
          if s.barLate a c then
            if s.rtSt b m = rtRolling then
              (s.setBars b m (some { a with live := false }) y).endBar a St.BARRIER_TIMEOUT (rtDetail m 0 false) low
            else
              ((((s.putHold b m a).setBars b m none y).setRtSt b m rtStaged).endBar a St.BARRIER_TIMEOUT (rtDetail m 0 false)
                low).rtGo b m
          else
            match y with
            | some z =>
              if s.barLate z c then
                (((s.putHold b m z).setBars b m (some a) none).endBar z St.BARRIER_TIMEOUT (rtDetail m 0 true) low).rtGo b m
              else s
            | none => s
        | none, some z =>
          if s.barLate z c then
            (((s.putHold b m z).setBars b m none none).endBar z St.BARRIER_TIMEOUT (rtDetail m 0 true) low).rtGo b m
          else s
        | none, none => s

/-- The models of every bay go on: an ENABLE whose layer table had to be fetched is tried again. -/
def State.rtPoll (s : State) : State := (s.forAll s.rt.enabling fun s k => s.rtTry (k / 4) (k % 4)).rtSettle

/-! ### Meanings -/

def execRtEnable (bay : BayId) (model : BitVec 2) (s : State) : Outcome State Fault Refusal :=
  .next (s.rtEnable bay.val model.toNat)
def execRtDisable (bay : BayId) (model : BitVec 2) (s : State) : Outcome State Fault Refusal :=
  .next (s.rtDisable bay.val model.toNat)
/-- RT_STAGE with SOURCE MEMORY: its start, or its next leaf; `m` what reads of the manifest and shards met. -/
def execRtStageMemory (c : CmdRef) (m : Medium) (s : State) : Outcome State Fault Refusal :=
  .next ((s.running 0x20 c (State.stageMore false m)).perform 0x20 c (State.rtStage false m))
def execRtStageFabric (c : CmdRef) (m : Medium) (s : State) : Outcome State Fault Refusal :=
  .next (s.perform 0x20 c (State.rtStage true m))
def execStagingLanding (bay : BayId) (va : W64) (bytes : List Byte) (s : State) : Outcome State Fault Refusal :=
  .next (s.stagingLanding bay.val va.toNat bytes)
def execStageTimeout (c : CmdRef) (s : State) : Outcome State Fault Refusal := .next (s.stageTimeout c)
def execRtVerifyCheckActive (c : CmdRef) (differs : List (BitVec 14)) (s : State) : Outcome State Fault Refusal :=
  .next (s.perform 0x21 c (State.verifyCheck false differs))
def execRtVerifyCheckStaged (c : CmdRef) (differs : List (BitVec 14)) (s : State) : Outcome State Fault Refusal :=
  .next (s.perform 0x21 c (State.verifyCheck true differs))
def execRtVerifyPublish (c : CmdRef) (m : Medium) (s : State) : Outcome State Fault Refusal :=
  .next (s.perform 0x21 c (State.verifyPublish m))
def execRtArmStrict (c : CmdRef) (s : State) : Outcome State Fault Refusal := .next (s.perform 0x22 c (State.rtArm false))
def execRtArmRolling (c : CmdRef) (s : State) : Outcome State Fault Refusal := .next (s.perform 0x22 c (State.rtArm true))
def execRtAbort (c : CmdRef) (s : State) : Outcome State Fault Refusal := .next (s.perform 0x23 c State.rtAbort)
def execRtAbortAdapter (c : CmdRef) (s : State) : Outcome State Fault Refusal :=
  .next (s.perform 0x23 c State.rtAbortAdapter)
def execRtAdapter (c : CmdRef) (m : Medium) (s : State) : Outcome State Fault Refusal :=
  .next ((s.running 0x24 c (State.stageMore true m)).perform 0x24 c (State.rtAdapter m))
def execBarrierTimeout (c : CmdRef) (s : State) : Outcome State Fault Refusal := .next (s.barrierTimeout c)
def execRecheckPass (bay : BayId) (model : BitVec 2) (active staged : List (BitVec 14)) (s : State) :
    Outcome State Fault Refusal :=
  .next (s.recheckPass bay.val model.toNat active staged)

end Sys2Proof.Machine
end

