-- ==== Sys2Proof/Machine/Scrub.lean ====
section
/-! DEFINITION. The device scrub (R419, Table 14-12) and tamper detection (R420). -/

namespace Sys2Proof.Machine

open Host (Outcome)

/-- DSCRUB_STATUS.STATE (Table 14-14). -/
def scrubRunning : Nat := 1
def scrubDone : Nat := 2
def scrubFailed : Nat := 3

/-- EXTEST waits for the scrub before the pins are given to the scan port (R414). -/
def State.extestGo (s : State) : State :=
  if s.pins.extest = 1 then { s with pins := { s.pins with extest := 2 } } else s

/-- The last clear has ended: every bay is FREE, dies whose clear failed are quarantined (R209, R419). -/
def State.scrubEnd (s : State) : State :=
  let bad := s.sec.failed
  let bays := (List.range 16).filter fun b => decide (s.bayState b ≠ bayFree)
  let s1 := s.setReg Reg.DEV_QUARANTINE (s.reg Reg.DEV_QUARANTINE ||| bad)
  let s2 := s1.forAll bays fun s b => ((s.eraseGroups b).setBayX b { s.bayX b with failed := bad }).freeBay b
  let s3 := s2.onSec fun x => { x with scrub := false, failed := 0 }
  (((s3.setFld Reg.DSCRUB_STATUS 0 2 (if bad = 0 then scrubDone else scrubFailed)).setReg Reg.DSCRUB_TIME
    (min 0xFFFFFFFF (s.now - s.sec.scrubAt)))).extestGo

/-- The bay's keys are zeroised, its programs abandoned and its commands ended; it reads TEARDOWN, CAUSE 2 (R419). -/
def State.scrubBay (s : State) (b : Nat) : State :=
  let was := s.bayState b
  let s1 := s.setBayKeys b .none
  let s2 := if was = bayBuilding ∨ was = bayRunning ∨ was = bayTeardown then ((s1.teardown b 2).torn b) else s1
  let s3 := (s2.setFld (Reg.BAY_SEC b) 0 3 (if s.fld (Reg.BAY_SEC b) 0 2 = 0 then 0 else 2)).setBayX b .zero
  (s3.setFld (Reg.BAY_STATE b) 0 3 bayTeardown).setFld (Reg.BAY_STATE b) 4 2 2

/-- The device scrub starts; cause: 0 command, 1 tamper, 2 scan, 3 reset. One that runs already goes on. -/
def State.scrubStart (s : State) (cause : Nat) : State :=
  if s.sec.scrub then s
  else
    let live := (List.range 20).filter fun d => decide (s.dieState d = dieOn)
    let s1 := (s.setReg Reg.DSCRUB_STATUS (scrubRunning + cause * 4)).onSec fun x =>
      { x with scrub := true, scrubAt := s.now, clearing := maskOf live, failed := 0 }
    let s2 := s1.forAll ((List.range 16).filter fun b => decide (s.bayState b ≠ bayFree)) State.scrubBay
    let s3 := (s2.forAll live fun s d => s.setClock d 1900).forAll live fun s d => s.clearStart d
    if live = [] then s3.scrubEnd else s3

/-- A die's clear has ended, or the die has left ON, while the device scrub runs. -/
def State.scrubDieDone (s : State) (d : Nat) (failed : Bool) : State :=
  if !s.sec.scrub || decide (bitsAt s.sec.clearing d 1 = 0) then s
  else
    let s1 := s.onSec fun x => { x with clearing := putBits x.clearing d 1 0, failed := putBits x.failed d 1 (b2n failed 1) }
    if s1.sec.clearing = 0 then s1.scrubEnd else s1

/-- A tamper detection of kind 0 VOLTAGE, 1 CLOCK, 2 TEMP (R420). -/
def State.tamper (s : State) (kind : Nat) : State :=
  (((s.setFld Reg.TAMPER_STATUS kind 1 1).count Reg.TAMPER_CNT 1).scrubStart 1).pldmEvent 4 kind 1

/-- DSCRUB_START: a write of DSCRUB_CTRL.START, or the management command. -/
def State.scrubCommand (s : State) : State := if s.apexUp then s.scrubStart 0 else s

/-- CLEAR_DONE: see `State.clearDone`; a bay's scrub (R209) or a device scrub (R419) that waited for the die goes on. -/
def execClearDone (die : CDie) (mismatch : Bool) (failing : List PhysEng) (s : State) : Outcome State Fault Refusal :=
  let was := s.fld (Reg.CLR_STATUS die.val) 0 2
  let t := s.clearDone die.val mismatch failing
  let now := t.fld (Reg.CLR_STATUS die.val) 0 2
  .next (if was = 1 ∧ now ≠ 1 then (t.scrubDie die.val (decide (now = 3))).scrubDieDone die.val (decide (now = 3)) else t)
def execTamperDetect (kind : Fin 3) (s : State) : Outcome State Fault Refusal :=
  .next (if s.pins.hold then s else s.tamper kind.val)
def execDscrubStart (s : State) : Outcome State Fault Refusal := .next s.scrubCommand
/-- SCAN_EXTEST: while a bay is sealed the device is scrubbed before the pins are given to the scan port (R414, R419). -/
def execScanExtest (s : State) : Outcome State Fault Refusal :=
  .next (if (List.range 16).any fun b => decide (s.fld (Reg.BAY_SEC b) 0 2 = 1) then
      ({ s with pins := { s.pins with extest := 1 } }).scrubStart 2
    else { s with pins := { s.pins with extest := 2 } })

end Sys2Proof.Machine
end

