-- ==== Sys2Proof/Machine/Security.lean ====
section
/-! DEFINITION. Grithal: measurements (R397), the seal nonce and BAY_SEAL (R399 to R402, R527, R356), the tenant's
operations (R403, R404, R413), attestation reports (R410, R411), the entropy test (R395) and the scan port (R414). -/

namespace Sys2Proof.Machine

open Host (Outcome)

/-! ### Measurements -/

def zero48 : List Nat := List.replicate 48 0

/-- The 48 bytes of twelve digest registers; word 0 holds bytes 0 to 3 (Table 14-14). -/
def State.digestRegs (s : State) (a : Nat → Nat) : List Nat := (List.range 12).flatMap fun j => bytesLE 4 (s.reg (a j))

def State.setDigest (s : State) (a : Nat → Nat) (bs : List Nat) : State :=
  s.forAll (List.range 12) fun s j => s.setReg (a j) (ofBytesLE ((bs.drop (4 * j)).take 4))

def State.meas (s : State) (i : Nat) : List Nat := s.digestRegs (Reg.MEAS i)

/-- Registers of the staged measurement S1, S2, S3 or S5. -/
def stagedRegs (i : Nat) : Nat → Nat := if i = 5 then Reg.STAGED5 else Reg.STAGED (i - 1)

def State.staged (s : State) (i : Nat) : List Nat := s.digestRegs (stagedRegs i)

/-- Extending with a digest: M := SHA-384(M, d) (R397). -/
def extendMeas (m d : List Nat) : List Nat := sha384 (m ++ d)

def stagedIx : List Nat := [1, 2, 3, 5]

/-- S registers are valid: a staged image has loaded them (R397). -/
def State.anyStaged (s : State) : Bool := stagedIx.any fun i => decide (s.staged i ≠ zero48)

/-- A loaded S register differs from its M register. -/
def State.stageDiffers (s : State) : Bool :=
  stagedIx.any fun i => decide (s.staged i ≠ zero48) && decide (s.staged i ≠ s.meas i)

/-- Dies in PARTIAL_RESET, by die index. -/
def State.resetDies (s : State) : Nat := maskOf ((List.range 25).filter fun d => decide (s.dieState d = dieInReset))

/-- STATE of R411: 0 STEADY, 1 UPDATE_STAGED, 2 APEX_RESTARTING, 3 PARTIAL_RESET. -/
def State.grState (s : State) : Nat :=
  if s.mgmt.restarting ∧ s.mgmt.measured then 2
  else if s.resetDies ≠ 0 then 3
  else if s.stageDiffers then 1
  else 0

/-- The private scalar of the alias key under the present measurements (R398). -/
def State.aliasScalar (s : State) : Nat := Config.aliasKey (s.meas 0 ++ s.meas 1 ++ s.meas 2) % (p384N - 1) + 1

/-- A signature as r then s, 48 bytes each, big-endian (Table 14-3). -/
def sigBytes (sig : Nat × Nat) : List Nat := bytesBE 48 sig.1 ++ bytesBE 48 sig.2

/-- The alias key's signature of a digest; its nonce is a value the spec does not state. -/
def State.aliasSign (s : State) (digest : List Nat) : List Nat × State :=
  let t := s.draw
  (sigBytes (ecdsaSign s.aliasScalar digest t.1), t.2)

def State.skaPub (s : State) : PubKey := p384Public s.sec.ska

/-- GR_STATUS.TRNG_OK (R395). -/
def State.trngOk (s : State) : Bool := decide (s.fld Reg.GR_STATUS 4 1 = 1)

/-! ### Reports -/

def serialWords : List Nat := [Config.serial.toNat % 2 ^ 32, Config.serial.toNat / 2 ^ 32]

/-- Report words 1 to 3 (Table 14-8): the device state record. -/
def State.devRecord (s : State) (bay : Nat) : List Nat :=
  [s.grState + b2n s.anyStaged 4 + s.fld Reg.GR_STATUS 3 1 * 8 + s.fld (Reg.HBM_TAG_EN 20) 0 1 * 16 + bay * 2 ^ 5,
   s.resetDies, s.fld Reg.ID_STEPPING 0 8 + s.fld Reg.GR_BOOT 1 7 * 2 ^ 8 + s.fld Reg.GR_BOOT 8 7 * 2 ^ 15]

/-- Report words 160 to 205 of a bay; zero for a bay in FREE. -/
def State.bayRecord (s : State) (b : Nat) : List Nat :=
  if s.bayState b = bayFree then List.replicate 46 0
  else
    let k := s.bayKeys b
    let kt := s.reg (Reg.BAY_SEAL_KTIME b)
    let op := s.reg (Reg.BAY_OP_SEQ b)
    [s.bayState b + b2n (s.bayOpen b) 8, s.reg (Reg.BAY_DIES b), s.reg (Reg.BAY_GROUPS b),
     s.bayJob b + s.txGen b * 2 ^ 16 + k.pubs.length * 2 ^ 24, s.reg (Reg.BAY_CONSENT b), s.reg (Reg.BAY_CONSENT_EVER b),
     op % 2 ^ 32, op / 2 ^ 32] ++
      wordsOf (match s.pubScalar b with | some d => keyId (p384Public d) | none => zero48) ++
      wordsOf (if k.pubs = [] then zero48 else sha384 (k.pubs.flatMap keyId)) ++
      wordsOf (if k.digest = [] then zero48 else k.digest) ++ [kt % 2 ^ 32, kt / 2 ^ 32]

/-- Report words 0 to 207 (Table 14-8); `bay`: the bay reported, none for a device-only report. -/
def State.reportWords (s : State) (bay : Option Nat) (nonce : List Nat) : List Nat :=
  [0x4154 + 2 ^ 16] ++ s.devRecord (bay.getD 0x1F) ++ serialWords ++ [s.now % 2 ^ 32, s.now / 2 ^ 32] ++ nonce ++
    (if s.fld Reg.GR_STATUS 3 1 = 1 then wordsOf (s.meas 0) ++ List.replicate 60 0
     else (List.range 6).flatMap fun i => wordsOf (s.meas i)) ++ (stagedIx.flatMap fun i => wordsOf (s.staged i)) ++
    wordsOf (pubBytes s.skaPub) ++ (match bay with | some b => s.bayRecord b | none => List.replicate 46 0) ++ [0, 0]

def wordsToBytes (ws : List Nat) : List Nat := ws.flatMap (bytesLE 4)

/-- Words with the alias key's signature over their SHA-384. -/
def State.signedWords (s : State) (ws : List Nat) : List Nat × State :=
  let g := s.aliasSign (sha384 (wordsToBytes ws))
  (ws ++ wordsOf g.1, g.2)

/-- A record goes to OUT_ADDR: a bay virtual address on a bay queue, a host-link address on an admin queue (Table 14-6). -/
def State.attestOut (s : State) (c : Cmd) (ws : List Nat) : State :=
  let bs := wordsBytes ws
  match c.bay with
  | none => (s.hostWrite (s.fld (Reg.Q_CFG c.q) 20 1) (c.p64 1) bs).endsWith c St.OK
  | some b =>
    let r := s.vaWrite (.cmd c.q c.seq) .bay b (c.p64 1) (unpoisoned bs)
    match r.2 with
    | .wait => r.1
    | .ok => r.1.endsWith c St.OK
    | .fail st va =>
      let d := r.1.vaDetail b st va
      r.1.finish c st d.1 d.2

def State.attestReport (c : Cmd) (s : State) : State :=
  if c.p 0 0 4 ≠ 0 then s
  else
    let r := s.signedWords (s.reportWords (if c.p 0 8 1 = 1 then none else some (c.p 0 4 4))
      ((List.range 8).map fun i => c.p (3 + i) 0 32))
    r.2.attestOut c r.1

/-- ATTEST SEAL_NONCE: a fresh nonce replaces the bay's live one (R399, Table 14-3). -/
def State.sealNonce (c : Cmd) (s : State) : State :=
  let b := c.p 0 4 4
  if c.p 0 0 4 ≠ 1 then s
  else if s.bayState b ≠ bayBuilding then s.wrongState c
  else if !s.trngOk then s.endsWith c St.ENTROPY_FAIL
  else
    let t := s.draw
    let nonce := bytesBE 32 t.1
    let s1 := (t.2.setBayKeys b { t.2.bayKeys b with nonce := some nonce }).setFld (Reg.BAY_SEC b) 2 1 1
    let md := sha384 ((List.range 6).flatMap fun i => s1.meas i)
    let r := s1.signedWords ([0x534E + b * 2 ^ 16, 0] ++ serialWords ++ wordsOf nonce ++ wordsOf (pubBytes s1.skaPub) ++ wordsOf md)
    r.2.attestOut c r.1

/-! ### BAY_SEAL -/

/-- Bytes of parameter words `i` to `i + n - 1`. -/
def Cmd.pbytes (c : Cmd) (i n : Nat) : List Nat := (List.range n).flatMap fun j => bytesLE 4 (c.p (i + j) 0 32)

/-- A public key in parameter words from `i`: X then Y, big-endian. -/
def Cmd.pkey (c : Cmd) (i : Nat) : PubKey := (ofBytesBE (c.pbytes i 12), ofBytesBE (c.pbytes (i + 12) 12))

/-- The job master key that the package wraps, when it opens (R401). -/
def State.unwrap (s : State) (c : Cmd) : Option (List Nat) :=
  match p384Ecdh s.sec.ska (c.pkey 16) with
  | none => none
  | some x =>
    let k := hkdf (c.pbytes 3 8) (bytesBE 48 x) (ascii "EWK25 seal" ++ bytesBE 8 Config.serial.toNat ++ [c.p 0 0 4]) 44
    gcmOpen (k.take 32) (k.drop 32) (c.pbytes 0 16) (c.pbytes 40 8) (ofBytesBE (c.pbytes 48 4))

/-- The job's slots on a port: the lowest free indices in bit-reversed order (R356). -/
def revIndex (i : Nat) : Nat :=
  (List.range 6).foldl (fun a k => a + bitsAt i k 1 * 2 ^ (5 - k)) 0

def State.giveSlots (s : State) (job n : Nat) : State :=
  s.forAll (List.range 8) fun s p =>
    let free := ((List.range 64).map revIndex).filter fun i => decide (s.fld (Reg.SLOT (portDie p) (portIx p) i) 16 1 = 0)
    s.forAll (free.take n) fun s i => s.setReg (Reg.SLOT (portDie p) (portIx p) i) (job + 2 ^ 16)

/-- The lexicographically least `need` turns of a rising list that go on from `last` with no cyclic gap above `g`. -/
def pickTurns (g first : Nat) (l : List Nat) (last need : Nat) : Option (List Nat) :=
  match need with
  | 0 => if first + 20 ≤ last + g then some [] else none
  | n + 1 =>
    match l with
    | [] => none
    | t :: r =>
      if last + g < t then none
      else
        match pickTurns g first r t n with
        | some x => some (t :: x)
        | none => pickTurns g first r last (n + 1)
termination_by structural l

/-- The first choice with largest gap `g`, over every lowest turn. -/
def turnsFrom (g k : Nat) (l : List Nat) : Option (List Nat) :=
  match l with
  | [] => none
  | t :: r =>
    match pickTurns g t r t (k - 1) with
    | some x => some (t :: x)
    | none => turnsFrom g k r

/-- The turns of a bay of k dies and their gap: the least gap, then the lowest turns (R527). -/
def bestTurns (k : Nat) (free : List Nat) : Option (List Nat × Nat) :=
  ((List.range 20).map (· + 1)).findSome? fun g => (turnsFrom g k free).map fun x => (x, g)

/-- The bay takes its turns of the rotation. -/
def State.giveTurns (s : State) (b : Nat) : State :=
  let held := (List.range 16).foldl (fun m x => m ||| s.fld (Reg.BAY_TURNS x) 0 20) 0
  let free := (List.range 20).filter fun t => decide (bitsAt held t 1 = 0)
  match bestTurns (maskCount 20 (s.reg (Reg.BAY_DIES b))) free with
  | none => s
  | some (ts, g) => s.setReg (Reg.BAY_TURNS b) (maskOf ts + g * 2 ^ 20)

/-- Keys, registers, slots and turns of a bay whose package opened; the bay is RUNNING (R401). -/
def State.sealed (s : State) (c : Cmd) (jmk : List Nat) : State :=
  let b := c.p 0 0 4
  let job := c.p 1 0 16
  let k : BayKeys := ⟨some jmk, c.p 11 0 32, [], sha384 (c.pbytes 0 16), none⟩
  let s1 := (s.setBayKeys b k).forAll [
    (Reg.BAY_SEC b, 1 + job * 2 ^ 16), (Reg.BAY_CONSENT b, c.p 2 0 32), (Reg.BAY_CONSENT_EVER b, c.p 2 0 32),
    (Reg.BAY_OP_SEQ b, 0), (Reg.BAY_TX_SEQ b, 0), (Reg.BAY_SEAL_KTIME b, s.now)] fun s w => s.setReg w.1 w.2
  let s2 := s1.giveSlots job (s1.share b 3)
  let s3 := if s2.bayOpen b then s2 else s2.giveTurns b
  (s3.setFld (Reg.BAY_STATE b) 0 3 bayRunning).endsWith c St.OK

def State.baySeal (c : Cmd) (s : State) : State :=
  let b := c.p 0 0 4
  let job := c.p 1 0 16
  if s.bayState b ≠ bayBuilding then s.wrongState c
  else
    let live := (s.bayKeys b).nonce
    let s1 := s.lapseNonce b
    if live ≠ some (c.pbytes 3 8) then s1.endsWith c St.SEAL_NONCE
    else
      match s1.unwrap c with
      | none => s1.endsWith c St.SEAL_FAIL
      | some jmk =>
        if job = 0 ∨ (s1.otherBays b).any fun x => decide (s1.bayJob x = job) then s1.finish c St.POLICY (refusalDetail 7 0) 0
        else s1.sealed c jmk

/-! ### The tenant's operations -/

/-- The HMAC verifies under the bay's K_MAC and OP_SEQ rises (R403). -/
def State.tenantOk (s : State) (c : Cmd) : Bool :=
  let b := c.p 0 4 4
  let k := s.bayKeys b
  let msg := bytesBE 8 Config.serial.toNat ++ [b] ++ c.pbytes 0 1 ++ c.pbytes 16 26
  k.jmk.isSome && decide (hmac384 (k.expand (ascii "mac") 48) msg = c.pbytes 42 12) &&
    decide (s.reg (Reg.BAY_OP_SEQ b) < c.p64 40)

/-- An authenticated operation, or MAC_FAIL with the low half of BAY_OP_SEQ (Table 14-13). -/
def State.tenantOp (s : State) (c : Cmd) (op : Nat) (f : State → State) : State :=
  let b := c.p 0 4 4
  if c.p 0 0 4 ≠ op then s
  else if !s.tenantOk c then s.finish c St.MAC_FAIL 0 (s.reg (Reg.BAY_OP_SEQ b) % 2 ^ 32)
  else f (s.setReg (Reg.BAY_OP_SEQ b) (c.p64 40))

def State.addPubkey (c : Cmd) (s : State) : State :=
  s.tenantOp c 2 fun s =>
    let b := c.p 0 4 4
    let k := s.bayKeys b
    let new := c.pkey 16
    if k.pubs.any fun x => decide (keyId x = keyId new) then s.endsWith c St.OK
    else if 8 ≤ k.pubs.length then s.endsWith c St.KEY_TABLE_FULL
    else ((s.setBayKeys b { k with pubs := k.pubs ++ [new] }).setFld (Reg.BAY_SEC b) 12 4 (k.pubs.length + 1)).endsWith c St.OK

/-- Grants withdrawn: breakpoints of the bay's queues are disabled, and scan debug sessions on its dies end; Sentinels
return to CHECK at the next launch, and PROFILE reads return zero, by the consent word itself (R413, R74). -/
def State.withdraw413 (s : State) (b lost : Nat) : State :=
  let s1 := if bitsAt lost 1 1 = 1 then s.forAll (s.bayQueues b) fun s q => s.setFld (Reg.Q_BRK_CTRL q) 0 1 0 else s
  if bitsAt lost 3 1 = 1 then
    { s1 with pins := { s1.pins with scan := s1.pins.scan - (s1.pins.scan &&& s1.reg (Reg.BAY_DIES b)) } }
  else s1

def State.setConsent (c : Cmd) (s : State) : State :=
  s.tenantOp c 3 fun s =>
    let b := c.p 0 4 4
    let old := s.reg (Reg.BAY_CONSENT b)
    let new := c.p 16 0 32
    let s1 := (s.setReg (Reg.BAY_CONSENT b) new).setReg (Reg.BAY_CONSENT_EVER b) (s.reg (Reg.BAY_CONSENT_EVER b) ||| new)
    (s1.withdraw413 b (old - (old &&& new))).endsWith c St.OK

/-- ATTEST ROTATE_LINK: the next send generation, SEQ from 0 (R404). -/
def State.rotateLink (c : Cmd) (s : State) : State :=
  let b := c.p 0 4 4
  if c.p 0 0 4 ≠ 4 then s
  else
    ((((s.setFld (Reg.BAY_SEC b) 4 8 (s.txGen b + 1)).setFld (Reg.BAY_SEC b) 3 1 0).setReg (Reg.BAY_TX_SEQ b) 0).pruneWins b).endsWith
      c St.OK

/-! ### Entropy, scan -/

/-- TRNG_HEALTH_FAIL: TRNG_OK clears and the DRBG stops (R395). -/
def State.trngFail (s : State) : State :=
  ((s.setFld Reg.GR_STATUS 4 1 0).count Reg.TRNG_FAIL_CNT 1).onSec fun x => { x with passes := 0 }

/-- TRNG_RETEST with its result: two passes in a row set TRNG_OK again. -/
def State.trngRetest (s : State) (pass : Bool) : State :=
  if s.trngOk then s
  else if !pass then (s.count Reg.TRNG_FAIL_CNT 1).onSec fun x => { x with passes := 0 }
  else if s.sec.passes = 0 then s.onSec fun x => { x with passes := 1 }
  else (s.setFld Reg.GR_STATUS 4 1 1).onSec fun x => { x with passes := 0 }

/-- A debug instruction reaches a die in no bay, or one of a bay that consents to SCAN_DEBUG (R414). -/
def State.scanReaches (s : State) (d : Nat) : Bool :=
  match s.bayOfDie d with
  | none => true
  | some b => decide (s.fld (Reg.BAY_CONSENT b) 3 1 = 1)

/-! ### Meanings -/

def execBaySeal (c : CmdRef) (s : State) : Outcome State Fault Refusal := .next (s.perform 0x41 c State.baySeal)
def execAttestReport (c : CmdRef) (s : State) : Outcome State Fault Refusal := .next (s.perform 0x38 c State.attestReport)
def execAttestSealNonce (c : CmdRef) (s : State) : Outcome State Fault Refusal := .next (s.perform 0x38 c State.sealNonce)
def execAttestAddPubkey (c : CmdRef) (s : State) : Outcome State Fault Refusal := .next (s.perform 0x38 c State.addPubkey)
def execAttestSetConsent (c : CmdRef) (s : State) : Outcome State Fault Refusal := .next (s.perform 0x38 c State.setConsent)
def execAttestRotateLink (c : CmdRef) (s : State) : Outcome State Fault Refusal := .next (s.perform 0x38 c State.rotateLink)
def execTrngHealthFail (s : State) : Outcome State Fault Refusal := .next s.trngFail
def execTrngRetest (pass : Bool) (s : State) : Outcome State Fault Refusal := .next (s.trngRetest pass)
/-- SCAN_DEBUG_INSTRUCTION: a session on the die; it never reaches Grithal, the vault or the fuses (R414). -/
def execScanDebugInstruction (die : DieId) (s : State) : Outcome State Fault Refusal :=
  .next (if s.scanReaches die.val then { s with pins := { s.pins with scan := putBits s.pins.scan die.val 1 1 } } else s)

end Sys2Proof.Machine
end

