-- ==== Sys2Proof/Machine/Ckpt.lean ====
section
/-! DEFINITION. Checkpoints (R451 to R455): the rows CKPT_TAKE, CKPT_RESTORE and CKPT_SCHED. -/

namespace Sys2Proof.Machine

open Host (Outcome)

def Cmd.ckptOp (c : Cmd) : Nat := c.p 0 0 2

/-! ### TAKE -/

/-- The objects of an object table: VA, slabs and T3 address of each 32-byte entry (R451). -/
def ckptObjs (n : Nat) (bs : List Nat) : List (Nat × Nat × Nat) :=
  (List.range n).map fun k =>
    let e := (bs.drop (32 * k)).take 32
    (ofBytesLE (e.take 8) % 2 ^ 57, ofBytesLE ((e.drop 8).take 3), ofBytesLE ((e.drop 16).take 8) % 2 ^ 57)

/-- Every slab of the range is T2-homed (R451). -/
def State.wholeT2 (s : State) (b va n : Nat) : Bool :=
  decide (va % 65536 = 0) && decide (0 < n) &&
    (List.range n).all fun i =>
      match s.objAt b (va / 65536 + i) with
      | none => false
      | some o => decide (o.home = 0)

/-- The T3 address lies in an object with HOME T3 and FILL 0 (R237). -/
def State.directT3 (s : State) (b va : Nat) : Bool :=
  match s.objAt b (va / 65536) with
  | none => false
  | some o => decide (o.home ≠ 0) && !o.fill

/-- A TAKE ends before its snapshot or after its manifest, and its schedule with it. -/
def State.takeEnds (s : State) (c : Cmd) (st d0 d1 : Nat) : State :=
  (s.ckptEnd c (decide (St.cls st = 0))).finish c st d0 d1

def State.run? (s : State) (c : Cmd) : Option CkptRun :=
  s.flt.runs.find? fun r => decide (r.q = c.q) && decide (r.seq = c.seq)

/-- The snapshot slabs go back. -/
def State.dropRun (s : State) (c : Cmd) : State :=
  match s.run? c with
  | none => s
  | some r =>
    let s1 := s.forAll r.locs fun s l => s.giveSlab l
    let b := c.bay.getD 0
    (s1.setUsed b 1 (s1.used b 1 - r.locs.length)).onFlt fun f => { f with
      runs := f.runs.filter fun x => !(decide (x.q = c.q) && decide (x.seq = c.seq)) }

/-- A slab of data goes to a free slab of the bay. -/
def State.snapSlab (s : State) (b : Nat) (bs : List PByte) : State × List Nat :=
  match s.anyFree b with
  | none => (s, [])
  | some l =>
    let s1 := ((s.takeSlab b l).zeroSlab l).moved (some (groupOf l)) 65536 true
    (s1.forAll (List.range 512) fun s k => (s.hbmPut (l * 65536 + k * 128) ((bs.drop (128 * k)).take 128)).1, [l])

/-- One object goes into the snapshot, and is hashed on the way (R295). -/
def State.snapObj (c : Cmd) (m : Medium) (q : State × List Nat × List (List Nat) × Acc) (o : Nat × Nat × Nat) :
    State × List Nat × List (List Nat) × Acc :=
  let b := c.bay.getD 0
  match q.2.2.2 with
  | .ok =>
    let r := q.1.vaReadM (.cmd c.q c.seq) m b o.1 (o.2.1 * 65536)
    match r.2.2 with
    | .ok =>
      let t := (List.range o.2.1).foldl (fun (t : State × List Nat) i =>
        let x := t.1.snapSlab b ((r.2.1.drop (65536 * i)).take 65536)
        (x.1, t.2 ++ x.2)) (r.1, q.2.1)
      let d := edgeOfGroup (groupOf (((r.1.slab b (o.1 / 65536)).home).getD 0))
      (t.1.count64 (Reg.HU_BYTES d) (o.2.1 * 65536), t.2, q.2.2.1 ++ [shardDigest (r.2.1.map fun y => (pbyte y).toNat)], .ok)
    | a => (r.1, q.2.1, q.2.2.1, a)
  | _ => q

/-- The snapshot is taken: PERMIT_EVENT rises to CKPT_STEP, and the writes follow (R451). -/
def State.snapshot (s : State) (c : Cmd) (m : Medium) (objs : List (Nat × Nat × Nat)) : State :=
  let b := c.bay.getD 0
  let r := objs.foldl (State.snapObj c m) (s, ([] : List Nat), ([] : List (List Nat)), Acc.ok)
  let run : CkptRun := ⟨c.q, c.seq, r.2.1, s.now, objs, r.2.2.1, true⟩
  let s1 := r.1.onFlt fun f => { f with runs := f.runs ++ [run] }
  match r.2.2.2 with
  | .ok => (s1.setCmd { c with ran := true }).evtMax b (c.p 8 0 10) (c.p 7 0 32)
  | .fail st va =>
    let need := sumOver (·.2.1) objs
    let s2 := s1.dropRun c
    ((s2.setUsed b 1 (s2.used b 1 - (need - r.2.1.length)))).takeEnds c st (s.vaDetail b st va).1 (s.vaDetail b st va).2
  | .wait => s

def State.ckptTake (c : Cmd) (m : Medium) (s : State) : State :=
  let b := c.bay.getD 0
  let n := c.p 4 0 9
  if c.ckptOp ≠ 0 then s
  else
    let r := s.vaReadM (.cmd c.q c.seq) m b (c.p64 2) (32 * n)
    match r.2.2 with
    | .wait => r.1
    | .fail st va => r.1.takeEnds c st (r.1.vaDetail b st va).1 (r.1.vaDetail b st va).2
    | .ok =>
      let objs := ckptObjs n (r.2.1.map fun y => (pbyte y).toNat)
      if (s.pubScalar b).isNone then r.1.takeEnds c St.SIG_INVALID 0 0
      else if objs.any (fun o => !(s.wholeT2 b o.1 o.2.1) || !(s.directT3 b o.2.2)) then r.1.takeEnds c St.ILLEGAL_FIELD 0 0
      else
        match r.1.admitUnits c b [(1, sumOver (·.2.1) objs)] with
        | .served c' s' => s'.snapshot c' m objs
        | .waits s' => s'
        | .refused s' => s'.ckptEnd c false

/-- Object k is written by this replica (R453). -/
def Cmd.writesObj (c : Cmd) (k : Nat) : Bool := decide (k % c.p 1 16 16 = c.p 1 0 16)

/-- The manifest but for its signature (Tables 15-11 and 15-12). -/
def State.ckptManifest (s : State) (c : Cmd) (r : CkptRun) (key : PubKey) : List Nat :=
  let b := c.bay.getD 0
  let hdr := [0x434B + 2 ^ 16, s.bayJob b + c.p 1 0 16 * 2 ^ 16, c.p 1 16 16 + r.objs.length * 2 ^ 16, c.p 7 0 32] ++
    serialWords ++ [r.kt % 2 ^ 32, r.kt / 2 ^ 32]
  let entry (k : Nat) (o : Nat × Nat × Nat) : List Nat :=
    let t3 := if c.writesObj k then o.2.2 else 0
    wordBytes ([o.1 % 2 ^ 32, o.1 / 2 ^ 32, o.2.1 + b2n (c.writesObj k) (2 ^ 24), 0, t3 % 2 ^ 32, t3 / 2 ^ 32]) ++
      r.digests.getD k [] ++ List.replicate 56 0
  wordBytes hdr ++ keyId key ++ List.replicate 48 0 ++
    (List.range r.objs.length).flatMap fun k => entry k (r.objs.getD k (0, 0, 0))

/-- The bytes of object k in the snapshot. -/
def State.snapBytes (s : State) (r : CkptRun) (k : Nat) : List PByte :=
  let first := sumOver (·.2.1) (r.objs.take k)
  ((r.locs.drop first).take (r.objs.getD k (0, 0, 0)).2.1).flatMap fun l => s.hbmGet (l * 65536) 65536

/-- The manifest's bytes are written behind its shards, and the TAKE ends (R451). -/
def State.putManifest (s : State) (c : Cmd) (bs : List PByte) : State :=
  let b := c.bay.getD 0
  let x := s.vaWrite (.cmd c.q c.seq) .bay b (c.p64 5) bs
  match x.2 with
  | .wait => x.1
  | .fail st va => (x.1.dropRun c).takeEnds c st (x.1.vaDetail b st va).1 (x.1.vaDetail b st va).2
  | .ok => ((x.1.dropRun c).setReg (Reg.CKPT_LAST_KTIME b) x.1.now).takeEnds c St.OK 0 0

/-- The manifest is signed with the publisher scalar d (R298), and written. -/
def State.writeManifest (s : State) (c : Cmd) (r : CkptRun) (d : Nat) : State :=
  let t := s.draw
  let body := s.ckptManifest c r (p384Public d)
  t.2.putManifest c (unpoisoned ((body ++ sigBytes (ecdsaSign d (sha384 body) t.1)).map (BitVec.ofNat 8)))

/-- The writes of a running TAKE: its shards, then its manifest (R451). Every write is asked for, so that one wait
serves all. -/
def State.ckptWrite (c : Cmd) (s : State) : State :=
  let b := c.bay.getD 0
  match s.run? c, s.pubScalar b with
  | some r, some d =>
    let w : State × Acc := ((List.range r.objs.length).filter c.writesObj).foldl (fun q k =>
      let x := q.1.vaWrite (.cmd c.q c.seq) .bay b (r.objs.getD k (0, 0, 0)).2.2 (q.1.snapBytes r k)
      (x.1, q.2.and x.2)) (s, Acc.ok)
    match w.2 with
    | .wait => w.1
    | .fail st va => (w.1.dropRun c).takeEnds c st (w.1.vaDetail b st va).1 (w.1.vaDetail b st va).2
    | .ok => w.1.writeManifest c r d
  | _, _ => (s.dropRun c).takeEnds c St.SIG_INVALID 0 0

/-! ### RESTORE -/

/-- An entry of a checkpoint manifest: VA, slabs, WRITTEN, T3 address, digest. -/
structure CkptEntry where
  va : Nat
  n : Nat
  written : Bool
  t3 : Nat
  digest : List Nat

def ckptEntry (bs : List Nat) : CkptEntry :=
  ⟨ofBytesLE (bs.take 8) % 2 ^ 57, ofBytesLE ((bs.drop 8).take 3), decide (ofBytesLE ((bs.drop 11).take 1) % 2 = 1),
    ofBytesLE ((bs.drop 16).take 8) % 2 ^ 57, (bs.drop 24).take 48⟩

/-- The manifest is of this kind, and its signature verifies under a key held for the bay (R298, R455). -/
def State.ckptSigned (s : State) (b n : Nat) (bs : List Nat) : Bool :=
  let body := bs.take (128 * (1 + n))
  let sig := bs.drop (128 * (1 + n))
  decide (ofBytesLE (bs.take 2) = 0x434B) && decide ((bs.drop 2).headD 0 = 1) &&
    match (s.heldKeys b).find? fun k => decide (keyId k = (bs.drop 32).take 48) with
    | none => false
    | some k => ecdsaVerify k (sha384 body) (ofBytesBE (sig.take 48)) (ofBytesBE ((sig.drop 48).take 48))

/-- Entry k's bytes, as read, go to its object, and must match its digest (R455). -/
def State.restoreInto (s : State) (c : Cmd) (k : Nat) (e : CkptEntry) (bs : List PByte) : State :=
  let b := c.bay.getD 0
  let w := s.vaWrite (.cmd c.q c.seq) .bay b e.va bs
  match w.2 with
  | .wait => w.1
  | .fail st va => w.1.finish c st (w.1.vaDetail b st va).1 (w.1.vaDetail b st va).2
  | .ok =>
    if shardDigest (bs.map fun y => (pbyte y).toNat) ≠ e.digest then w.1.finish c St.DIGEST_MISMATCH 0 k
    else w.1.setCmd { c with ran := true, done := k + 1 }

/-- Restores the first WRITTEN entry not yet restored: `done` entries of the manifest are behind (R455). -/
def State.restoreNext (s : State) (c : Cmd) (m : Medium) (n : Nat) (bs : List Nat) : State :=
  let b := c.bay.getD 0
  let es := (List.range n).map fun k => ckptEntry ((bs.drop (128 * (1 + k))).take 128)
  match ((List.range n).drop c.done).find? fun k => (es.getD k ⟨0, 0, false, 0, []⟩).written with
  | none => s.endsWith c St.OK
  | some k =>
    let e := es.getD k ⟨0, 0, false, 0, []⟩
    let r := s.vaReadM (.cmd c.q c.seq) m b e.t3 (e.n * 65536)
    match r.2.2 with
    | .wait => r.1
    | .fail st va => r.1.finish c st (r.1.vaDetail b st va).1 (r.1.vaDetail b st va).2
    | .ok => r.1.restoreInto c k e r.2.1

/-- The length of a manifest of n entries: header, entries and signature (Tables 15-11 and 15-12). -/
def manifestLen (n : Nat) : Nat := 128 * (1 + n) + 96

/-- The manifest of n entries is read whole, len bytes, checked, and restored from (R455). -/
def State.restoreFrom (s : State) (c : Cmd) (m : Medium) (n len : Nat) : State :=
  let b := c.bay.getD 0
  let r := s.vaReadM (.cmd c.q c.seq) m b (c.p64 5) len
  match r.2.2 with
  | .wait => r.1
  | .fail st va => r.1.finish c st (r.1.vaDetail b st va).1 (r.1.vaDetail b st va).2
  | .ok =>
    let bs := r.2.1.map fun y => (pbyte y).toNat
    if !(r.1.ckptSigned b n bs) then r.1.endsWith c St.SIG_INVALID else r.1.restoreNext c m n bs

/-- The manifest's header, len bytes, is read for its count of entries, and then the manifest (R455). -/
def State.restoreHead (s : State) (c : Cmd) (m : Medium) (len : Nat) : State :=
  let b := c.bay.getD 0
  let r := s.vaReadKeep (.cmd c.q c.seq) m b (c.p64 5) len
  match r.2.2 with
  | .wait => r.1
  | .fail st va => (r.1.t3Done (.cmd c.q c.seq)).finish c st (r.1.vaDetail b st va).1 (r.1.vaDetail b st va).2
  | .ok =>
    let n := ofBytesLE (((r.2.1.map fun y => (pbyte y).toNat).drop 10).take 2) % 512
    r.1.restoreFrom c m n (manifestLen n)

def State.ckptRestore (c : Cmd) (m : Medium) (s : State) : State :=
  if c.ckptOp ≠ 1 then s else s.restoreHead c m 128

/-! ### SCHED -/

/-- SCHED stores or deletes one of the bay's four schedules (R454). -/
def State.ckptSched (c : Cmd) (s : State) : State :=
  let b := c.bay.getD 0
  let k := c.p 0 2 2
  if c.ckptOp ≠ 2 then s
  else if c.p 0 4 1 = 1 then ((s.setCkpt b k none).setFld (Reg.CKPT_STATUS b) (8 + k) 1 0).endsWith c St.OK
  else
    let ws := (List.range 16).map fun i => BitVec.ofNat 32 (c.p i 0 32)
    let s1 := (s.setCkpt b k (some ⟨ws, c.q, c.tag, 0, s.now⟩)).setFld (Reg.CKPT_STATUS b) (8 + k) 1 1
    ((s1.setFld (Reg.CKPT_STATUS b) k 1 0).setFld (Reg.CKPT_STATUS b) (4 + k) 1 0).endsWith c St.OK

/-! ### Meanings -/

def execCkptTake (c : CmdRef) (m : Medium) (s : State) : Outcome State Fault Refusal :=
  .next ((s.running 0x30 c fun x t => if x.ckptOp = 0 then t.ckptWrite x else t).perform 0x30 c fun x t => t.ckptTake x m)
def execCkptRestore (c : CmdRef) (m : Medium) (s : State) : Outcome State Fault Refusal :=
  .next ((s.running 0x30 c fun x t => t.ckptRestore x m).perform 0x30 c fun x t => t.ckptRestore x m)
def execCkptSched (c : CmdRef) (s : State) : Outcome State Fault Refusal := .next (s.perform 0x30 c State.ckptSched)

end Sys2Proof.Machine
end

