-- ==== Sys2Proof/Machine/Coll.lean ====
section
/-! DEFINITION. Collectives: group entries, RIDGE and VALLEY, and the packets of the tree's edges (R376 to R393). -/

namespace Sys2Proof.Machine

open Host (Outcome)

/-! ### Group entries (Table 13-1) -/

/-- A group entry: GTAG, VALID, ROOT, FEAT, parent, children, SUBTREE, and whether its reserved fields are zero. -/
structure GroupEntry where
  gtag : Nat
  valid : Bool
  root : Bool
  nchild : Nat
  feat : Nat
  parent : Nat × Nat
  kids : List (Nat × Nat)
  subtree : Nat
  clean : Bool

def peerOf (w : Nat) : Nat × Nat := (bitsAt w 0 24, bitsAt w 24 4)

def groupEntry (bs : List Nat) : GroupEntry :=
  let w := wordsOf bs
  let g (i : Nat) : Nat := w.getD i 0
  let n := bitsAt (g 0) 18 4
  let root := decide (bitsAt (g 0) 17 1 = 1)
  let kidWords := (List.range 8).map fun k => g (2 + k)
  ⟨bitsAt (g 0) 0 16, decide (bitsAt (g 0) 16 1 = 1), root, n, bitsAt (g 0) 22 3, peerOf (g 1),
    (kidWords.take n).map peerOf, bitsAt (g 10) 0 24,
    decide (bitsAt (g 0) 25 7 = 0) && decide (bitsAt (g 1) 28 4 = 0) && (!root || decide (g 1 = 0)) &&
      ((List.range 8).all fun k => if k < n then decide (bitsAt (g (2 + k)) 28 4 = 0) else decide (g (2 + k) = 0)) &&
      decide (bitsAt (g 10) 24 8 = 0) && (List.range 5).all fun k => decide (g (11 + k) = 0)⟩

def GroupEntry.peers (e : GroupEntry) : List (Nat × Nat) := (if e.root then [] else [e.parent]) ++ e.kids

/-- R377. -/
def GroupEntry.bad (e : GroupEntry) (own : Nat) : Bool :=
  !e.valid || (e.peers.any fun p => decide (p.1 = own)) || decide (e.peers.eraseDups.length ≠ e.peers.length) ||
    decide (8 < e.nchild) || decide (e.subtree < e.nchild + 1) || !e.clean

/-! ### Collectives and their registers -/

def Coll.peers (c : Coll) : List (Nat × Nat) := c.parent.toList ++ c.kids
def Coll.root (c : Coll) : Bool := c.parent.isNone
def Coll.owner (c : Coll) : FabFor := .coll c.q c.seq
def Coll.is (c : Coll) (x : Coll) : Bool := decide (c.q = x.q) && decide (c.seq = x.seq)
/-- Gather mode (R383). -/
def Coll.gather (c : Coll) : Bool := !c.ridge && decide (c.dtype = 2) && decide (bitsAt c.feat 0 1 = 0)
def Coll.chunks (c : Coll) : Nat := (c.len + 4095) / 4096
def Coll.chunkLen (c : Coll) (i : Nat) : Nat := min 4096 (c.len - 4096 * i)
/-- DETAIL0 of class 0x0A (R391). -/
def Coll.detail0 (c : Coll) : Nat := c.group + c.id * 2 ^ 6 + b2n (!c.ridge) (2 ^ 22)

def State.setColl (s : State) (c : Coll) : State :=
  s.onFab fun f => { f with colls := f.colls.map fun x => if x.is c then c else x }

def State.refreshColl (s : State) (c : Coll) : Option Coll := s.fab.colls.find? fun x => x.is c

/-- RU_STATUS: the collectives homed on an edge die (Table 13-10). -/
def State.ruStatus (s : State) (d : Nat) : Nat :=
  let n := (s.fab.colls.filter fun c => decide (c.home = d)).length
  min 64 n + b2n (decide (n ≠ 0)) 128

/-- CG_RUNNING and CG_BUSY follow the collectives that run. -/
def State.countColls (s : State) (b : Nat) : State :=
  let mine := s.fab.colls.filter fun c => decide (c.bay = b)
  (s.setReg (Reg.CG_RUNNING b) (min 64 mine.length)).setReg (Reg.CG_BUSY b) (mine.foldl (fun m c => m ||| 2 ^ c.group) 0)

/-! ### Packets (Table 13-3) -/

def collAddr (c : Coll) (kind : Nat) (gather : Bool) (chunk : Nat) : Nat :=
  c.gtag + kind * 2 ^ 16 + b2n gather (2 ^ 18) + c.id * 2 ^ 19 + chunk * 2 ^ 35

def State.collSend (s : State) (c : Coll) (owner : FabFor) (p : Nat × Nat) (kind : Nat) (gather : Bool) (chunk : Nat)
    (data : List Byte) : State :=
  s.remote owner c.bay p.1 p.2 3 (collAddr c kind gather chunk) data data.length true

/-- The first word of a READY's payload (R380). -/
def Coll.word (c : Coll) : Nat :=
  b2n (!c.ridge) 1 + c.dtype * 2 + c.op * 8 + b2n c.ret 32 + c.feat * 64

def State.sendReadies (s : State) (c : Coll) : State :=
  s.forAll c.peers fun s p => s.collSend c c.owner p 0 false 0 (wordsBytes [c.word, c.len, c.subtree, 0])

/-! ### Ends -/

/-- The collective leaves the device: its arbiter slot returns, and its command ends (R379, R385). -/
def State.collEnd (s : State) (c : Coll) (st d0 d1 : Nat) : State :=
  let s1 := (s.onFab fun f => { f with
    colls := f.colls.filter fun x => !x.is c
    collLate := (f.collLate.filter fun x => !(decide (x.bay = c.bay) && decide (x.gtag = c.gtag) && decide (x.id = c.id))) ++
      [⟨c.bay, c.gtag, c.id, c.home, false⟩] }).orphan c.owner
  let s2 := (((s1.countColls c.bay).freeArbiter c.bay).count
    (if st = St.OK then Reg.COLL_DONE_CNT c.bay else Reg.COLL_FAIL_CNT c.bay) 1)
  match s2.findCmd c.q c.seq with
  | none => s2
  | some x => s2.finish x st d0 d1

/-- A member fails: ABORT with the originating device and status to its tree peers, but for the one that sent it (R389). -/
def State.collFail (s : State) (c : Coll) (st d0 d1 : Nat) (origin ostatus : Nat) (skip : Option (Nat × Nat)) : State :=
  (s.collEnd c st d0 d1).forAll (c.peers.filter fun p => decide (some p ≠ skip)) fun s p =>
    s.collSend c .nobody p 3 false 0 (wordsBytes [origin, ostatus])

/-- A failure of this member's own. -/
def State.collFails (s : State) (c : Coll) (st d0 d1 : Nat) : State := s.collFail c st d0 d1 s.ownDev st none

/-- Statuses of a NACK that mean a lost member (R389). -/
def lostStatuses : List Nat := [St.UNREACHABLE, St.LINK_DOWN, St.DEST_BAY_DOWN, St.TARGET_RESET, St.DOMAIN_CLOSED]

/-- The first packet to a peer that was refused. -/
def State.collRefused (s : State) (c : Coll) : Option (Nat × Nat × Nat × Nat) :=
  (s.reqsOf c.owner).findSome? fun r =>
    match r.st with
    | .ended st d0 d1 _ => if st = 0 then none else some (r.dev, st, d0, d1)
    | _ => none

/-! ### Elements (Table 13-5) -/

/-- The combination of two elements. -/
def collOp (dtype op a r : Nat) : Nat :=
  if dtype = 0 then
    if op = 0 then fp32.addOp .rne a r else if op = 1 then fp32.maxOp a r else fp32.minOp a r
  else if dtype = 1 then
    let x := (BitVec.ofNat 32 a).toInt
    let y := (BitVec.ofNat 32 r).toInt
    if op = 0 then (a + r) % 2 ^ 32 else if op = 1 then (if x < y then r else a) else (if x < y then a else r)
  else exaBits (exaAdd (exaOfBits a) (exaOfBits r))

def elemSize (dtype : Nat) : Nat := if dtype = 2 then 16 else 4

/-- One input added to a chunk, element by element. -/
def combineInto (dtype op : Nat) (acc x : List PByte) : List PByte :=
  let z := elemSize dtype
  (List.range (acc.length / z)).flatMap fun i =>
    let at_ (l : List PByte) : Nat := bytesVal (((l.drop (z * i)).take z).map pbyte)
    (leBytes z (collOp dtype op (at_ acc) (at_ x))).map some

/-- Own contribution and inputs in entry order; a poisoned input poisons the chunk (R382). -/
def combineAll (dtype op : Nat) (own : List PByte) (ins : List (List PByte)) : List PByte :=
  if anyPoison own || ins.any anyPoison then List.replicate own.length none
  else ins.foldl (combineInto dtype op) own

/-! ### Progress -/

/-- Packets whose edge is open leave; the others wait for READY (R380). -/
def State.collFlush (s : State) (c : Coll) : State :=
  let go := c.outbox.filter fun o => c.ready.contains o.1
  let s1 := s.setColl { c with outbox := c.outbox.filter fun o => !c.ready.contains o.1 }
  s1.forAll go fun s o =>
    (s.collSend c c.owner o.1 1 o.2.2.1 o.2.1 (o.2.2.2.map pbyte)).count64 (Reg.RU_BYTES_OUT c.home) o.2.2.2.length

/-- Inputs of a chunk from the children, in entry order; every one of a chunk in gather mode. -/
def Coll.inputsOf (c : Coll) (i : Nat) : List (List PByte) :=
  if c.gather then (c.inputs.filter fun x => decide (x.1 = i)).map (·.2.2)
  else c.kids.flatMap fun k => (c.inputs.filter fun x => decide (x.1 = i) && decide (x.2.1 = k)).map (·.2.2)

/-- Whether this member's part in chunk i can be formed now: its inputs are there and the edges it needs are open. -/
def Coll.canForm (c : Coll) (i : Nat) : Bool :=
  !c.combined.contains i &&
    (match c.parent with
     | none =>
       if c.ridge then c.kids.all fun k => c.ready.contains k
       else decide ((c.inputsOf i).length = if c.gather then c.subtree - 1 else c.kids.length)
     | some p =>
       !c.ridge && c.ready.contains p && (c.gather || decide ((c.inputsOf i).length = c.kids.length)))

/-- Chunk i is formed from the own contribution and its inputs, and goes where it has to (R381 to R384). -/
def State.collForm (s : State) (c : Coll) (i : Nat) (own : List PByte) : State :=
  let ins := if c.gather && c.parent.isSome then [] else c.inputsOf i
  let data := if c.ridge then own else combineAll c.dtype c.op own ins
  let c1 := { c with
    combined := c.combined ++ [i]
    inputs := if c.gather && c.parent.isSome then c.inputs else c.inputs.filter fun x => decide (x.1 ≠ i) }
  let s1 := if ins = [] then s else s.count64 (Reg.RU_BYTES_IN c.home) (own.length * (ins.length + 1))
  let down := c.kids.map fun k => (k, i, false, data)
  match c.parent with
  | some p => s1.setColl { c1 with outbox := c1.outbox ++ [(p, i, c.gather, data)] }
  | none =>
    if c.ridge then s1.setColl { c1 with outbox := c1.outbox ++ down }
    else s1.setColl { c1 with
      writes := c1.writes ++ [(i, data)]
      outbox := if c.ret then c1.outbox ++ down else c1.outbox
      own := if anyPoison data then c1.own.orElse fun _ => some (St.POISONED, 0, 0) else c1.own }

/-- The own contribution to chunk i is read (R381, R382). -/
def State.collRead (s : State) (c : Coll) (m : Medium) (i : Nat) : State :=
  let va := c.src + 4096 * i
  let r := s.vaReadM (.cmd c.q c.seq) m c.bay va (c.chunkLen i)
  match r.2.2 with
  | .ok => r.1.collForm c i r.2.1
  | .wait => r.1
  | .fail st a =>
    if st = St.POISONED ∧ !c.ridge then r.1.collForm c i r.2.1
    else r.1.collFails c st (r.1.vaDetail c.bay st a).1 (r.1.vaDetail c.bay st a).2

/-- Details of a refused local write: the area slab of STAGE_CLOSED (Table 10-14), else the address. -/
def State.landDetail (s : State) (b st va : Nat) : Nat × Nat :=
  if st = St.STAGE_CLOSED then
    match s.areaModel b (va / 65536) with
    | none => (0, 0)
    | some m =>
      let k := va / 65536 - s.areaSlab b m
      match (s.model b m).bind fun x => x.unitAt k with
      | none => (rtDetail m 0 false, k)
      | some u => (rtDetail m u.2.1 u.1, k)
  else s.vaDetail b st va

/-- A chunk is written at DST_VA, through the staging path where that is a rethatch area (R381). -/
def State.collWrite (s : State) (c : Coll) (i : Nat) (data : List PByte) : State :=
  let va := c.dst + 4096 * i
  let r : State × Acc :=
    match s.areaModel c.bay (va / 65536) with
    | some m =>
      let q := s.landStaging c.bay m va (data.map pbyte)
      (q.1, if q.2 = St.OK then .ok else .fail q.2 va)
    | none => s.vaWriteM (.cmd c.q c.seq) .bay .good c.bay va data
  match r.2 with
  | .wait => r.1
  | a =>
    let c1 := (r.1.refreshColl c).getD c
    let c2 := { c1 with writes := c1.writes.filter fun w => decide (w.1 ≠ i), written := c1.written ++ [i] }
    match a with
    | .fail st x => r.1.setColl { c2 with own := c2.own.orElse fun _ => some (st, r.1.landDetail c.bay st x) }
    | _ => (r.1.setColl c2).count64 (Reg.RU_BYTES_OUT c.home) data.length

/-- The own part is done (R385). -/
def State.collOwnDone (s : State) (c : Coll) : Bool :=
  let all (l : List Nat) : Bool := (List.range c.chunks).all fun i => l.contains i
  let forms := !c.ridge || c.root
  let writes := if c.ridge then !c.root else c.root || c.ret
  (!forms || all c.combined) && (!writes || all c.written) && decide (c.outbox = []) && decide (s.reqsOf c.owner = [])

/-- Completion: the own status, or SUBTREE_FAILED, and DONE to the parent (R385). -/
def State.collComplete (s : State) (c : Coll) : State :=
  let below := sumOver (fun d : (Nat × Nat) × Nat × Nat => d.2.1) c.dones
  let failed := below + (if c.own.isSome then 1 else 0)
  let first := ((c.own.map (·.1)).orElse fun _ => (c.dones.find? fun d => decide (d.2.1 ≠ 0)).map (·.2.2)).getD 0
  let s1 := match c.own with
    | some (st, d0, d1) => s.collEnd c st d0 d1
    | none => if below ≠ 0 then s.collEnd c St.SUBTREE_FAILED c.detail0 below else s.collEnd c St.OK 0 0
  match c.parent with
  | none => s1
  | some p => s1.collSend c .nobody p 2 false 0 (wordsBytes [failed % 2 ^ 24, first])

/-- A collective goes as far as it can; `m` is what reads of the own contribution meet. -/
def State.collGo (s : State) (c0 : Coll) (m : Medium) : State :=
  let step (s : State) (f : Coll → State → State) : State :=
    match s.refreshColl c0 with
    | none => s
    | some c => f c s
  let s1 := s.forAll (List.range c0.chunks) fun s i => step s fun c s => if c.canForm i then s.collRead c m i else s
  let s2 := s1.forAll (((s1.refreshColl c0).map (·.writes)).getD []) fun s w => step s fun c s => s.collWrite c w.1 w.2
  let s3 := step s2 fun c s => s.collFlush c
  let s4 := step s3 fun c s =>
    match s.collRefused c with
    | none => s
    | some (dev, st, d0, d1) =>
      if lostStatuses.contains st then s.collFails c St.MEMBER_LOST c.detail0 dev else s.collFails c st d0 d1
  let s5 := s4.dropReqs fun r => decide (r.owner = c0.owner) && r.done
  step s5 fun c s =>
    if s.collOwnDone c && decide (c.dones.length = c.kids.length) then s.collComplete c else s

/-- Collectives whose reads, writes or packets waited go on. -/
def State.collSettle (s : State) : State := s.forAll s.fab.colls fun s c => s.collGo c .good

/-! ### RIDGE and VALLEY start (R377 to R380, R383) -/

/-- First hop toward a peer. -/
def State.collPort (s : State) (p : Nat × Nat) : Option Nat :=
  match s.route (s.alias_ p.1) none false false with
  | .out q _ _ _ => some q
  | _ => none

/-- A feature of FEAT that a port of a tree edge has not negotiated: port and bit. -/
def State.featMissing (s : State) (feat : Nat) (peers : List (Nat × Nat)) : Option (Nat × Nat × Nat) :=
  peers.findSome? fun p =>
    match s.collPort p with
    | none => none
    | some q => ((maskList 3 feat).find? fun f => decide (s.portFld q (16 + f) 1 = 0)).map fun f => (p.1, q, f)

/-- The reserved VA of a member's role is used (R378), or source and destination overlap unequal. -/
def collFieldBad (ridge ret root : Bool) (src dst len : Nat) : Option Nat :=
  let useSrc := if ridge then root else true
  let useDst := if ridge then !root else root || ret
  if (!useSrc && decide (src ≠ 0)) || (!useDst && decide (dst ≠ 0)) then some St.RESERVED_NONZERO
  else if useSrc && useDst && decide (src ≠ dst) && decide (src < dst + len) && decide (dst < src + len) then
    some St.ILLEGAL_FIELD
  else none

/-- The collective of a command and its group entry. -/
def State.newColl (s : State) (c : Cmd) (e : GroupEntry) (home : Nat) : Coll :=
  let b := c.bay.getD 0
  let t := if c.p 7 0 24 = 0 then s.fld (Reg.CG_CFG b) 0 24 else c.p 7 0 24
  { q := c.q, seq := c.seq, bay := b, group := c.p 0 0 6, gtag := e.gtag, id := c.p 1 0 16, ridge := decide (c.op = 0x28)
    dtype := c.p 0 6 2, op := c.p 0 8 2, ret := decide (c.p 0 10 1 = 1), feat := e.feat, src := c.p64 2, dst := c.p64 4
    len := c.p 6 0 32, parent := if e.root then none else some e.parent, kids := e.kids, subtree := e.subtree, home := home
    limit := if t = 0xFFFFFF then none else some (t * 1000), heard := s.now, ready := [], inputs := [], combined := []
    outbox := [], writes := [], written := [], own := none, dones := [] }

/-- A READY agrees with the command (R380). -/
def Coll.agrees (c : Coll) (id word len : Nat) : Bool :=
  decide (c.id = id) && decide (c.word = word % 2 ^ 9) && decide (c.len = len)

/-- READYs that came before the start count now; one that differs is a mismatch. -/
def State.takeEarly (s : State) (c : Coll) : State :=
  let mine := s.fab.early.filter fun x => decide (x.bay = c.bay) && decide (x.gtag = c.gtag)
  let hits := c.peers.filterMap fun p => (mine.find? fun x => decide (x.peer = (s.alias_ p.1, p.2))).map fun x => (p, x)
  let s1 := s.onFab fun f => { f with early := f.early.filter fun x => !(decide (x.bay = c.bay) && decide (x.gtag = c.gtag)) }
  match hits.find? fun h => !c.agrees h.2.id h.2.word h.2.len with
  | some h => s1.collFails c St.COLL_MISMATCH c.detail0 h.1.1
  | none => s1.setColl { c with ready := hits.map (·.1) }

/-- The collective starts (R379, R380). -/
def State.collBegin (s : State) (c : Cmd) (e : GroupEntry) (m : Medium) : State :=
  let b := c.bay.getD 0
  let fail (s : State) (st d0 d1 : Nat) : State := (s.freeArbiter b).finish c st d0 d1
  let first := if e.root then e.kids.head? else some e.parent
  let home := 20 + ((first.bind s.collPort).getD 0) / 2
  let x := s.newColl c e home
  match collFieldBad x.ridge x.ret e.root x.src x.dst x.len with
  | some st => fail s st 0 0
  | none =>
    match s.dieRefuses home with
    | some st => fail s st (home + s.incarn home * 32) 0
    | none =>
      let s1 := (s.setCmd { c with ran := true }).onFab fun f => { f with
        colls := f.colls ++ [x]
        collLate := f.collLate.filter fun y => !(decide (y.bay = b) && decide (y.gtag = x.gtag) && decide (y.id = x.id)) }
      let s2 := s1.countColls b
      let s3 := if x.gather then s2.count (Reg.COLL_GATHER_CNT b) 1 else s2
      let s4 := if x.len < 32768 then s3.count (Reg.COLL_SMALL_CNT b) 1 else s3
      match s4.featMissing e.feat e.peers with
      | some (dev, q, f) => s4.collFails x St.FEATURE_UNAVAILABLE (fabDetail0 St.FEATURE_UNAVAILABLE dev 0 q) f
      | none => ((s4.sendReadies x).takeEarly x).collGo x m

/-- RIDGE or VALLEY: admission, then the group entry, read once (R376, R379). -/
def State.collStart (m : Medium) (c0 : Cmd) (s0 : State) : State :=
  let b := c0.bay.getD 0
  let g := c0.p 0 0 6
  match s0.admitUnits c0 b [(3, 1)] with
  | .waits s => s
  | .refused s => s
  | .served c s =>
    let d0 := g + c.p 1 0 16 * 2 ^ 6 + b2n (decide (c.op = 0x29)) (2 ^ 22)
    if bitsAt (s.reg (Reg.CG_BUSY b)) g 1 = 1 then (s.freeArbiter b).finish c St.GROUP_BUSY d0 0
    else
      let r := s.vaRead (.cmd c.q c.seq) b (s.reg (Reg.CG_TABLE_VA b) + 64 * g) 64
      match r.2.2 with
      | .wait => r.1
      | .fail st a => (r.1.freeArbiter b).finish c st (r.1.vaDetail b st a).1 (r.1.vaDetail b st a).2
      | .ok =>
        let e := groupEntry (r.2.1.map fun x => (pbyte x).toNat)
        if e.bad r.1.ownDev then (r.1.freeArbiter b).finish c St.BAD_GROUP d0 0 else r.1.collBegin c e m

/-! ### Arrivals (R358, R405, R380 to R389) -/

def hdrGtag (h : PktHdr) : Nat := bitsAt h.addr 0 16
def hdrId (h : PktHdr) : Nat := bitsAt h.addr 19 16

/-- The tree peer of a collective that sent a packet (peer addresses pass through aliases, R377). -/
def State.collPeer (s : State) (c : Coll) (h : PktHdr) : Option (Nat × Nat) :=
  c.peers.find? fun p => decide (s.alias_ p.1 = h.src) && decide (p.2 = h.sbay)

/-- A packet of a completed collective: discarded and counted, the first with a record (R388). -/
def State.collLateCount (s : State) (p : Nat) (l : CollLate) : State :=
  let s1 := s.count (Reg.COLL_LATE_CNT l.bay) 1
  if l.recorded then s1
  else
    (s1.onFab fun f => { f with collLate := f.collLate.map fun x => if x = l then { x with recorded := true } else x }).lateRecord
      (portDie p) St.COLL_TIMEOUT 5 p (some l.bay) none 0

def State.collLateOf (s : State) (h : PktHdr) : Option CollLate :=
  s.fab.collLate.find? fun l => decide (l.bay = h.dbay) && decide (l.gtag = hdrGtag h) && decide (l.id = hdrId h)

def State.collOf (s : State) (h : PktHdr) : Option Coll :=
  s.fab.colls.find? fun c => decide (c.bay = h.dbay) && decide (c.gtag = hdrGtag h)

/-- The checks of an arriving COLL packet, its answer, and `f` on its payload (R358, R380, R405). -/
def State.collArrive (s : State) (p : Nat) (bs : List Byte) (kind : Nat) (f : PktHdr → List Byte → State → State) : State :=
  let q := parseHdr (bs.map BitVec.toNat)
  let h := q.1
  let b := h.dbay
  let e := portDie p
  if !(q.2 && h.ok) || decide (h.dst ≠ s.ownDev) || decide (h.cls ≠ 2) || decide (h.type ≠ 6) ||
      decide (bitsAt h.addr 16 2 ≠ kind) || decide (s.dieState e ≠ dieOn) then s
  else if s.bayState b ≠ bayRunning then s.answer p h (.mgmt St.DEST_BAY_DOWN false)
  else if h.job ≠ s.bayJob b then s.answer p h (.mgmt St.JOB_MISMATCH false)
  else
    match s.openPkt b h bs with
    | none =>
      (s.count (Reg.SEC_OPEN_FAIL_CNT e) 1).raise (errNote e 1 St.AUTH_FAIL 5 p (some b) none 0 [h.src + h.sbay * 2 ^ 24] false)
    | some pl =>
      if !genLive (s.txGen b) h.key then s.answer p h (.answered St.KEY_STALE [])
      else
        match s.replay e b h with
        | .noEntry => s.answer p h (.answered St.SOURCE_LIMIT [])
        | .stale => s.answer p h (.mgmt St.REPLAY_STALE false)
        | .seen (some st) => s.answer p h (.answered st [])
        | _ =>
          let home := ((s.collOf h).map (·.home)).orElse fun _ => (s.collLateOf h).map (·.home)
          match home.bind s.dieRefuses with
          | some st => (s.recordSeq e b h (some st)).answer p h (.answered st [])
          | none => f h (pl.map (BitVec.ofNat 8)) ((s.recordSeq e b h (some St.OK)).answer p h (.answered St.OK []))

/-- COLL_READY. -/
def State.collReady (s : State) (p : Nat) (bs : List Byte) : State :=
  s.collArrive p bs 0 fun h pl s =>
    let w := bytesVal (pl.take 4)
    let n := bytesVal ((pl.drop 4).take 4)
    match s.collOf h with
    | some c =>
      match s.collPeer c h with
      | none => s
      | some x =>
        if c.agrees (hdrId h) w n then
          let c' := { c with heard := s.now, ready := if c.ready.contains x then c.ready else c.ready ++ [x] }
          (s.setColl c').collGo c' .good
        else s.collFails c St.COLL_MISMATCH c.detail0 x.1
    | none =>
      match s.collLateOf h with
      | some l => s.collLateCount p l
      | none =>
        let peer := (h.src, h.sbay)
        s.onFab fun f => { f with early := (f.early.filter fun x =>
          !(decide (x.bay = h.dbay) && decide (x.gtag = hdrGtag h) && decide (x.peer = peer))) ++
            [⟨h.dbay, hdrGtag h, hdrId h, peer, w, n⟩] }

/-- The running collective that a DATA, DONE or ABORT belongs to, and its sender; a late one is counted. -/
def State.collFor (s : State) (p : Nat) (h : PktHdr) (f : Coll → Nat × Nat → State) : State :=
  match s.collOf h with
  | some c =>
    if c.id ≠ hdrId h then (match s.collLateOf h with | some l => s.collLateCount p l | none => s)
    else
      match s.collPeer c h with
      | none => s
      | some x => f c x
  | none => match s.collLateOf h with | some l => s.collLateCount p l | none => s

/-- What a reduction buffer read meets (R390, Table 13-10): true when the collective ends of it. -/
def State.reductionMeet (s : State) (c : Coll) (buf : Medium) : State × Bool :=
  match buf with
  | .good => (s, false)
  | .corrected => ((s.count (Reg.RU_CORR_CNT c.home) 1).ercAdd c.home 1, false)
  | _ =>
    let s1 := (s.count (Reg.RU_UNCORR_CNT c.home) 1).raise
      (errRequest c.home St.SRAM_UNCORRECTABLE 6 0 (some c.bay) 0)
    (s1.collFails c St.SRAM_UNCORRECTABLE (c.home + s1.incarn c.home * 32) 0, true)

/-- COLL_DATA: `poisoned` when the chunk travels poisoned, `buf` what the reduction buffer meets, `m` what reads of the
own contribution meet. A chunk from the parent is forwarded to every child and written; one from a child is an input. -/
def State.collData (s : State) (p : Nat) (bs : List Byte) (poisoned : Bool) (buf m : Medium) : State :=
  s.collArrive p bs 1 fun h pl s =>
    s.collFor p h fun c x =>
      let i := bitsAt h.addr 35 22
      let data : List PByte := pl.map fun b => if poisoned then none else some b
      let r := s.reductionMeet c buf
      if r.2 ∨ c.chunks ≤ i ∨ c.chunkLen i ≠ pl.length then r.1
      else
        let c1 := { c with heard := r.1.now }
        let c2 :=
          if c.parent = some x then
            { c1 with outbox := c1.outbox ++ c1.kids.map fun k => (k, i, false, data)
                      writes := c1.writes ++ [(i, data)] }
          else
            match c.gather, c.parent with
            | true, some up => { c1 with outbox := c1.outbox ++ [(up, i, true, data)] }
            | _, _ => { c1 with inputs := c1.inputs ++ [(i, x, data)] }
        (r.1.setColl c2).collGo c2 m

/-- COLL_DONE: the failed members and first failing status of a child's subtree. -/
def State.collDone (s : State) (p : Nat) (bs : List Byte) : State :=
  s.collArrive p bs 2 fun h pl s =>
    s.collFor p h fun c x =>
      let c' := { c with
        heard := s.now
        dones := (c.dones.filter fun d => decide (d.1 ≠ x)) ++
          [(x, bytesVal (pl.take 3), bytesVal ((pl.drop 4).take 2))] }
      (s.setColl c').collGo c' .good

/-- COLL_ABORT. -/
def State.collAbort (s : State) (p : Nat) (bs : List Byte) : State :=
  s.collArrive p bs 3 fun h pl s =>
    match s.collOf h with
    | none => s
    | some c =>
      match s.collPeer c h with
      | none => s
      | some x =>
        if c.id ≠ hdrId h then s
        else s.collFail c St.PEER_ABORTED c.detail0 (bytesVal (pl.take 3)) (bytesVal (pl.take 3))
          (bytesVal ((pl.drop 4).take 2)) (some x)

/-- The peer a member is waiting for: one without READY, one that owes chunks, or a child without DONE. -/
def State.silentPeer (s : State) (c : Coll) : Option (Nat × Nat) :=
  let owes (p : Nat × Nat) : Bool :=
    !c.ready.contains p ||
      (if c.parent = some p then
        (c.ridge || c.ret) && decide (c.written.length + c.writes.length < c.chunks) ||
          (s.reqsOf c.owner).any fun r => decide (r.dev = p.1)
       else !(c.dones.any fun d => decide (d.1 = p)))
  c.peers.find? owes

/-- COLL_TIMEOUT (R388). -/
def State.collTimeout (s : State) (r : CmdRef) : State :=
  match s.fab.colls.find? fun c => decide (c.q = r.q.val) && decide (c.seq = r.seq.toNat) with
  | none => s
  | some c =>
    match c.limit, s.silentPeer c with
    | some t, some p =>
      if c.heard + t ≤ s.now then s.collFails c St.COLL_TIMEOUT c.detail0 p.1 else s
    | _, _ => s

/-- A reset of the home edge die ends its collectives (R390). -/
def State.collDieReset (s : State) (d : Nat) : State :=
  s.forAll (s.fab.colls.filter fun c => decide (c.home = d)) fun s c =>
    s.collEnd c St.TARGET_RESET (d + s.incarn d * 32) 0

/-! ### Meanings -/

/-- RIDGE and VALLEY: their start, and again what waited for memory; `m` what reads of the own contribution met. -/
def execRidge (c : CmdRef) (m : Medium) (s : State) : Outcome State Fault Refusal :=
  .next ((s.perform 0x28 c (State.collStart m)).running 0x28 c fun x t =>
    t.forAll (t.fab.colls.filter fun y => decide (y.q = x.q) && decide (y.seq = x.seq)) fun t y => t.collGo y m)
def execValley (c : CmdRef) (m : Medium) (s : State) : Outcome State Fault Refusal :=
  .next ((s.perform 0x29 c (State.collStart m)).running 0x29 c fun x t =>
    t.forAll (t.fab.colls.filter fun y => decide (y.q = x.q) && decide (y.seq = x.seq)) fun t y => t.collGo y m)
def execCollReady (port : PortId) (bytes : List Byte) (s : State) : Outcome State Fault Refusal :=
  .next (s.collReady port.val bytes)
def execCollData (port : PortId) (bytes : List Byte) (poisoned : Bool) (buf m : Medium) (s : State) :
    Outcome State Fault Refusal :=
  .next (s.collData port.val bytes poisoned buf m)
def execCollDone (port : PortId) (bytes : List Byte) (s : State) : Outcome State Fault Refusal :=
  .next (s.collDone port.val bytes)
def execCollAbort (port : PortId) (bytes : List Byte) (s : State) : Outcome State Fault Refusal :=
  .next (s.collAbort port.val bytes)
def execCollTimeout (c : CmdRef) (s : State) : Outcome State Fault Refusal := .next (s.collTimeout c)

end Sys2Proof.Machine
end

