-- ==== Sys2Proof/Machine/EngRows.lean ====
section
/-! DEFINITION. The rows of the slot operations (Tables 05-2, 05-4, 05-6, 05-7, 05-10, 05-11): each acts on the engine
whose sequencer has reached that operation. -/

namespace Sys2Proof.Machine

open Host (Outcome)

/-- Freeze cycles of a full drain queue (R45, R46): counted as drain freezes and as busy cycles. -/
def drainFreeze (n : Nat) (e : Engine) : Engine :=
  if n = 0 then e else { e with outs := e.outs ++ [.freezeDrain n, .busy n] }

/-- SLOAD of the array slot. -/
def execSload (r : EngRef) (s : State) : Outcome State Fault Refusal :=
  .next (s.slotOp r 0 1 (fun own e c => opSload own e c))

/-- SWAP of the array slot. -/
def execSwap (r : EngRef) (s : State) : Outcome State Fault Refusal :=
  .next (s.slotOp r 0 2 (fun _ e c => opSwap e c))

/-- STREAM of the array slot; `freeze` cycles of a full drain queue are counted (R44 to R46). -/
def execStream (r : EngRef) (freeze : Nat) (s : State) : Outcome State Fault Refusal :=
  .next (s.slotOp r 0 3 (fun own e c => drainFreeze freeze (opStream own e c)))

/-- SWAP_STREAM of the array slot; `freeze` cycles of a full drain queue are counted (R44 to R46). -/
def execSwapStream (r : EngRef) (freeze : Nat) (s : State) : Outcome State Fault Refusal :=
  .next (s.slotOp r 0 4 (fun own e c => drainFreeze freeze (opSwapStream own e c)))

/-- FADD (Table 05-4). -/
def execFadd (r : EngRef) (s : State) : Outcome State Fault Refusal :=
  .next (s.slotOp r 1 1 (fun _ e c => opFadd e c))

/-- FSUB (Table 05-4). -/
def execFsub (r : EngRef) (s : State) : Outcome State Fault Refusal :=
  .next (s.slotOp r 1 2 (fun _ e c => opFsub e c))

/-- FMUL (Table 05-4). -/
def execFmul (r : EngRef) (s : State) : Outcome State Fault Refusal :=
  .next (s.slotOp r 1 3 (fun _ e c => opFmul e c))

/-- FMA (Table 05-4). -/
def execFma (r : EngRef) (s : State) : Outcome State Fault Refusal :=
  .next (s.slotOp r 1 4 (fun _ e c => opFma e c))

/-- FMIN (Table 05-4). -/
def execFmin (r : EngRef) (s : State) : Outcome State Fault Refusal :=
  .next (s.slotOp r 1 5 (fun _ e c => opFmin e c))

/-- FMAX (Table 05-4). -/
def execFmax (r : EngRef) (s : State) : Outcome State Fault Refusal :=
  .next (s.slotOp r 1 6 (fun _ e c => opFmax e c))

/-- FCMP (Table 05-4). -/
def execFcmp (r : EngRef) (s : State) : Outcome State Fault Refusal :=
  .next (s.slotOp r 1 7 (fun _ e c => opFcmp e c))

/-- DADD (Table 05-4). -/
def execDadd (r : EngRef) (s : State) : Outcome State Fault Refusal :=
  .next (s.slotOp r 1 8 (fun _ e c => opDadd e c))

/-- DMUL (Table 05-4). -/
def execDmul (r : EngRef) (s : State) : Outcome State Fault Refusal :=
  .next (s.slotOp r 1 9 (fun _ e c => opDmul e c))

/-- DFMA (Table 05-4). -/
def execDfma (r : EngRef) (s : State) : Outcome State Fault Refusal :=
  .next (s.slotOp r 1 10 (fun _ e c => opDfma e c))

/-- EXP (Table 05-4). -/
def execExp (r : EngRef) (s : State) : Outcome State Fault Refusal :=
  .next (s.slotOp r 1 11 (fun _ e c => opExp e c))

/-- LOG (Table 05-4). -/
def execLog (r : EngRef) (s : State) : Outcome State Fault Refusal :=
  .next (s.slotOp r 1 12 (fun _ e c => opLog e c))

/-- RSQRT (Table 05-4). -/
def execRsqrt (r : EngRef) (s : State) : Outcome State Fault Refusal :=
  .next (s.slotOp r 1 13 (fun _ e c => opRsqrt e c))

/-- IADD (Table 05-4). -/
def execIadd (r : EngRef) (s : State) : Outcome State Fault Refusal :=
  .next (s.slotOp r 1 16 (fun _ e c => opIadd e c))

/-- ISUB (Table 05-4). -/
def execIsub (r : EngRef) (s : State) : Outcome State Fault Refusal :=
  .next (s.slotOp r 1 17 (fun _ e c => opIsub e c))

/-- IMUL (Table 05-4). -/
def execImul (r : EngRef) (s : State) : Outcome State Fault Refusal :=
  .next (s.slotOp r 1 18 (fun _ e c => opImul e c))

/-- AND (Table 05-4). -/
def execAndOp (r : EngRef) (s : State) : Outcome State Fault Refusal :=
  .next (s.slotOp r 1 19 (fun _ e c => opAnd e c))

/-- OR (Table 05-4). -/
def execOrOp (r : EngRef) (s : State) : Outcome State Fault Refusal :=
  .next (s.slotOp r 1 20 (fun _ e c => opOr e c))

/-- XOR (Table 05-4). -/
def execXorOp (r : EngRef) (s : State) : Outcome State Fault Refusal :=
  .next (s.slotOp r 1 21 (fun _ e c => opXor e c))

/-- SHL (Table 05-4). -/
def execShl (r : EngRef) (s : State) : Outcome State Fault Refusal :=
  .next (s.slotOp r 1 22 (fun _ e c => opShl e c))

/-- SHR (Table 05-4). -/
def execShr (r : EngRef) (s : State) : Outcome State Fault Refusal :=
  .next (s.slotOp r 1 23 (fun _ e c => opShr e c))

/-- SRA (Table 05-4). -/
def execSra (r : EngRef) (s : State) : Outcome State Fault Refusal :=
  .next (s.slotOp r 1 24 (fun _ e c => opSra e c))

/-- SEL (Table 05-4). -/
def execSel (r : EngRef) (s : State) : Outcome State Fault Refusal :=
  .next (s.slotOp r 1 25 (fun _ e c => opSel e c))

/-- IMIN (Table 05-4). -/
def execImin (r : EngRef) (s : State) : Outcome State Fault Refusal :=
  .next (s.slotOp r 1 26 (fun _ e c => opImin e c))

/-- IMAX (Table 05-4). -/
def execImax (r : EngRef) (s : State) : Outcome State Fault Refusal :=
  .next (s.slotOp r 1 27 (fun _ e c => opImax e c))

/-- EXADD (Table 05-4). -/
def execExadd (r : EngRef) (s : State) : Outcome State Fault Refusal :=
  .next (s.slotOp r 1 28 (fun _ e c => opExadd e c))

/-- CVT (Table 05-4). -/
def execCvt (r : EngRef) (s : State) : Outcome State Fault Refusal :=
  .next (s.slotOp r 1 32 (fun _ e c => opCvt e c))

/-- RSUM (Table 05-4). -/
def execRsum (r : EngRef) (s : State) : Outcome State Fault Refusal :=
  .next (s.slotOp r 1 34 (fun _ e c => opRsum e c))

/-- RMAX (Table 05-4). -/
def execRmax (r : EngRef) (s : State) : Outcome State Fault Refusal :=
  .next (s.slotOp r 1 35 (fun _ e c => opRmax e c))

/-- RMIN (Table 05-4). -/
def execRmin (r : EngRef) (s : State) : Outcome State Fault Refusal :=
  .next (s.slotOp r 1 36 (fun _ e c => opRmin e c))

/-- EXCVT (Table 05-4). -/
def execExcvt (r : EngRef) (s : State) : Outcome State Fault Refusal :=
  .next (s.slotOp r 1 40 (fun own e c => opExcvt own e c))

/-- RBITS (Table 05-4). -/
def execRbits (r : EngRef) (s : State) : Outcome State Fault Refusal :=
  .next (s.slotOp r 1 44 (fun _ e c => opRbits e c))

/-- VLD (Table 05-6). -/
def execVld (r : EngRef) (s : State) : Outcome State Fault Refusal :=
  .next (s.slotOp r 2 1 (fun own e c => opVld own e c))

/-- VST (Table 05-6). -/
def execVst (r : EngRef) (s : State) : Outcome State Fault Refusal :=
  .next (s.slotOp r 2 2 (fun own e c => opVst own e c))

/-- ALD (Table 05-6). -/
def execAld (r : EngRef) (s : State) : Outcome State Fault Refusal :=
  .next (s.slotOp r 2 3 (fun own e c => opAld own e c))

/-- AST (Table 05-6). -/
def execAst (r : EngRef) (s : State) : Outcome State Fault Refusal :=
  .next (s.slotOp r 2 4 (fun own e c => opAst own e c))

/-- LFTR (Table 05-6). -/
def execLftr (r : EngRef) (s : State) : Outcome State Fault Refusal :=
  .next (s.slotOp r 2 5 (fun own e c => opLftr own e c))

/-- LFTW (Table 05-6). -/
def execLftw (r : EngRef) (s : State) : Outcome State Fault Refusal :=
  .next (s.slotOp r 2 6 (fun own e c => opLftw own e c))

/-- XPUT (Table 05-6). -/
def execXput (r : EngRef) (s : State) : Outcome State Fault Refusal :=
  .next (s.slotOp r 2 7 (fun own e c => opXput own e c))

/-- XGET (Table 05-6). -/
def execXget (r : EngRef) (s : State) : Outcome State Fault Refusal :=
  .next (s.slotOp r 2 8 (fun own e c => opXget own e c))

/-- ASET (Table 05-7). -/
def execAset (r : EngRef) (s : State) : Outcome State Fault Refusal :=
  .next (s.slotOp r 3 1 (fun _ e c => opAset e c))

/-- ABASE (Table 05-7). -/
def execAbase (r : EngRef) (s : State) : Outcome State Fault Refusal :=
  .next (s.slotOp r 3 2 (fun _ e c => opAbase e c))

/-- ARST (Table 05-7). -/
def execArst (r : EngRef) (s : State) : Outcome State Fault Refusal :=
  .next (s.slotOp r 3 3 (fun _ e c => opArst e c))

/-- SLDI (Table 05-7). -/
def execSldi (r : EngRef) (s : State) : Outcome State Fault Refusal :=
  .next (s.slotOp r 3 4 (fun _ e c => opSldi e c))

/-- SADDI (Table 05-7). -/
def execSaddi (r : EngRef) (s : State) : Outcome State Fault Refusal :=
  .next (s.slotOp r 3 5 (fun _ e c => opSaddi e c))

/-- SADD (Table 05-7). -/
def execSadd (r : EngRef) (s : State) : Outcome State Fault Refusal :=
  .next (s.slotOp r 3 6 (fun _ e c => opSadd e c))

/-- SSHL (Table 05-7). -/
def execSshl (r : EngRef) (s : State) : Outcome State Fault Refusal :=
  .next (s.slotOp r 3 7 (fun _ e c => opSshl e c))

/-- RDRAIN (Table 05-10). -/
def execRdrain (r : EngRef) (s : State) : Outcome State Fault Refusal :=
  .next (s.slotOp r 4 1 (fun _ e c => opRdrain e c))

/-- RVEC (Table 05-10). -/
def execRvec (r : EngRef) (s : State) : Outcome State Fault Refusal :=
  .next (s.slotOp r 4 2 (fun _ e c => opRvec e c))

/-- RRAW (Table 05-10). -/
def execRraw (r : EngRef) (s : State) : Outcome State Fault Refusal :=
  .next (s.slotOp r 4 3 (fun _ e c => opRraw e c))

/-- END (Table 05-11). -/
def execEndProgram (r : EngRef) (s : State) : Outcome State Fault Refusal :=
  .next (s.slotOp r 5 1 (fun _ e c => opEnd e c))

/-- SKIP (Table 05-11). -/
def execSkip (r : EngRef) (s : State) : Outcome State Fault Refusal :=
  .next (s.slotOp r 5 2 (fun _ e c => opSkip e c))

/-- LOOP (Table 05-11). -/
def execLoop (r : EngRef) (s : State) : Outcome State Fault Refusal :=
  .next (s.slotOp r 5 3 (fun _ e c => opLoop e c))

/-- WAITT (R144). -/
def execWaitt (r : EngRef) (s : State) : Outcome State Fault Refusal :=
  .next (s.engineDo r.die.val r.eng.val (waitStep true 4))

/-- WAITE (R144). -/
def execWaite (r : EngRef) (s : State) : Outcome State Fault Refusal :=
  .next (s.engineDo r.die.val r.eng.val (waitStep false 5))

/-- WAIT_RELEASE, `n` schedule cycles after the wait issued (R144, R145). -/
def execWaitRelease (die : CDie) (eng : PhysEng) (n : Nat) (s : State) : Outcome State Fault Refusal :=
  .next (s.engineDo die.val eng.val (waitRelease n))

/-- SIGE (Table 05-11). -/
def execSige (r : EngRef) (s : State) : Outcome State Fault Refusal :=
  .next (s.slotOp r 5 6 (fun _ e c => opSige e c))

end Sys2Proof.Machine
end

