-- ==== Sys2Proof/Machine/Spdm.lean ====
section
/-! DEFINITION. The SPDM responder (R409, R410, R412, R486): the rows GET_VERSION to RESPOND_IF_READY. Error codes are
DSP0274's. -/

namespace Sys2Proof.Machine

open Host (Outcome)

/-- ERROR codes of DSP0274; ResponseNotReady is R412's. -/
def spdmInvalidRequest : Nat := 0x01
def spdmInvalidSession : Nat := 0x02
def spdmUnexpected : Nat := 0x04
def spdmUnspecified : Nat := 0x05
def spdmDecrypt : Nat := 0x06
def spdmSessionLimit : Nat := 0x0A
def spdmNotReady : Nat := 0x42

/-! ### Connections -/

def State.spdm (s : State) (ep : Nat) : Spdm :=
  (s.sec.spdm.find? fun x => decide (x.ep = ep)).getD ⟨ep, 0, none, false, 0, none, none⟩

def State.setSpdm (s : State) (x : Spdm) : State :=
  s.onSec fun y => { y with spdm := (y.spdm.filter fun z => decide (z.ep ≠ x.ep)) ++ [x] }

/-- Sessions end at an apex restart (R409). -/
def State.endSessions (s : State) : State :=
  s.onSec fun y => { y with spdm := y.spdm.map fun x => { x with session := none, live := false, secret := 0, peer := none } }

/-- The island answers on the endpoint: it runs, and a host endpoint's link is up (R482). -/
def State.epUp (s : State) (ep : Nat) : Bool := s.mgmt.up && (decide (ep < 2) || s.linkUp (ep - 2))

/-- Grithal answers for itself: its die runs and its measurements are complete (R412, R479). -/
def State.grithalReady (s : State) : Bool :=
  !s.mgmt.rom && (!s.mgmt.restarting || s.mgmt.measured) && !s.pins.hold && !s.pins.booting && !s.pins.stopped

def State.spdmError (s : State) (ep code data : Nat) (token : Option Nat) : State :=
  s.emit (.spdm ep (.error code data token))

/-- ResponseNotReady with RDTExponent 17 and a token; the request is kept for it (R412). -/
def State.spdmDefer (s : State) (ep : Nat) (r : SpdmReq) : State :=
  let n := s.sec.tokens
  let s1 := (s.onSec fun x => { x with tokens := (n + 1) % 256 }).setSpdm { s.spdm ep with deferred := some (n, r) }
  s1.spdmError ep spdmNotReady 17 (some n)

/-! ### Measurement blocks (Table 14-7) -/

/-- The block of an index; none where there is none. In RECOVERY only M0 is carried (R396). -/
def State.measBlock (s : State) (i : Nat) : Option (Nat × List Nat) :=
  if s.fld Reg.GR_STATUS 3 1 = 1 ∧ i ≠ 1 then none
  else if 1 ≤ i ∧ i ≤ 6 then some (i, s.meas (i - 1))
  else if i = 0x11 ∨ i = 0x12 ∨ i = 0x13 ∨ i = 0x15 then some (i, s.staged (i - 0x10))
  else if i = 0x20 then some (i, wordsToBytes (s.devRecord 0x1F))
  else if 0x40 ≤ i ∧ i < 0x50 then some (i, wordsToBytes (s.bayRecord (i - 0x40)))
  else none

/-- Index 0 asks for the number of blocks, 0xFF for all of them. -/
def State.measBlocks (s : State) (i : Nat) : Option (List (Nat × List Nat)) :=
  let all := (List.range 0x50).filterMap s.measBlock
  if i = 0 then some [(0, [all.length])]
  else if i = 0xFF then some all
  else (s.measBlock i).map fun b => [b]

/-! ### Answers -/

def State.certs (s : State) : List Nat := Config.certChain (s.meas 0 ++ s.meas 1 ++ s.meas 2)

/-- A signed response draws its nonce; without entropy it is an ERROR (R395). -/
def State.spdmSigned (s : State) (ep kind : Nat) (values : List Nat) (f : List Nat → List Nat → SpdmRsp) : State :=
  if !s.trngOk then s.spdmError ep spdmUnspecified 0 none
  else
    let t := s.draw
    let nonce := bytesBE 32 t.1
    let g := t.2.aliasSign (Config.spdmDigest kind (values ++ nonce))
    g.2.emit (.spdm ep (f nonce g.1))

/-- KEY_EXCHANGE: an ephemeral P-384 key, a session identifier whose upper half the responder draws. -/
def State.spdmKeyExchange (s : State) (ep x y id : Nat) : State :=
  if !onCurve x y then s.spdmError ep spdmInvalidRequest 0 none
  else if (s.spdm ep).session.isSome then s.spdmError ep spdmSessionLimit 0 none
  else if !s.trngOk then s.spdmError ep spdmUnspecified 0 none
  else
    let t := s.draw
    let d := t.1 % (p384N - 1) + 1
    let u := t.2.draw
    let sid := id + u.1 % 2 ^ 16 * 2 ^ 16
    let pub := pubBytes (p384Public d)
    let transcript := bytesBE 48 x ++ bytesBE 48 y ++ pub ++ bytesBE 4 sid
    let g := u.2.aliasSign (Config.spdmDigest 2 transcript)
    let secret := Config.spdmSecret ((p384Ecdh d (x, y)).getD 0) transcript
    (g.2.setSpdm { g.2.spdm ep with session := some sid, live := false, secret := secret, peer := none }).emit
      (.spdm ep (.keyExchange sid pub g.1))

/-- The answer to a request by a responder that is ready. -/
def State.spdmAnswer (s : State) (ep : Nat) (r : SpdmReq) : State :=
  let c := s.spdm ep
  let bad (code : Nat) : State := s.spdmError ep code 0 none
  match r with
  | .getVersion => (s.setSpdm { c with stage := 1, session := none, live := false, secret := 0, peer := none }).emit (.spdm ep (.version 3))
  | .getCapabilities => if c.stage ≠ 1 then bad spdmUnexpected else (s.setSpdm { c with stage := 2 }).emit (.spdm ep .capabilities)
  | .negotiateAlgorithms g h d a =>
    if c.stage ≠ 2 then bad spdmUnexpected else (s.setSpdm { c with stage := 3 }).emit (.spdm ep (.algorithms g h d a))
  | .getDigests => if c.stage ≠ 3 then bad spdmUnexpected else s.emit (.spdm ep (.digests 1 (sha384 s.certs)))
  | .getCertificate slot off len =>
    if c.stage ≠ 3 then bad spdmUnexpected
    else if slot ≠ 0 ∨ s.certs.length ≤ off.toNat then bad spdmInvalidRequest
    else
      let part := (s.certs.drop off.toNat).take len.toNat
      s.emit (.spdm ep (.certificate 0 part (s.certs.length - off.toNat - part.length)))
  | .challenge slot nonce =>
    if c.stage ≠ 3 then bad spdmUnexpected
    else if slot ≠ 0 then bad spdmInvalidRequest
    else s.spdmSigned ep 0 (bytesBE 32 nonce.toNat) fun n g => .challengeAuth 0 (sha384 s.certs) n g
  | .getMeasurements index sign nonce =>
    if c.stage ≠ 3 then bad spdmUnexpected
    else
      match s.measBlocks index.toNat with
      | none => bad spdmInvalidRequest
      | some bs =>
        if sign then s.spdmSigned ep 1 (bytesBE 32 nonce.toNat ++ bs.flatMap fun b => b.1 :: b.2) fun n g => .measurements bs n g
        else s.emit (.spdm ep (.measurements bs [] []))
  | .keyExchange x y id => if c.stage ≠ 3 then bad spdmUnexpected else s.spdmKeyExchange ep x.toNat y.toNat id.toNat
  | .finish id mac peer =>
    if c.session ≠ some id.toNat ∨ c.live then bad spdmInvalidSession
    else if !mac then bad spdmDecrypt
    else (s.setSpdm { c with live := true, peer := peer.map fun k => sha384 (4 :: bytesBE 96 k.toNat) }).emit (.spdm ep .finish)
  | .endSession id =>
    if c.session ≠ some id.toNat ∨ !c.live then bad spdmInvalidSession
    else (s.setSpdm { c with session := none, live := false, secret := 0, peer := none }).emit (.spdm ep .endSessionAck)

/-- A request arrives (R412, R479). -/
def State.spdmRequest (s : State) (ep : Nat) (r : SpdmReq) : State :=
  if !s.epUp ep then s
  else if !s.grithalReady then s.spdmDefer ep r
  else s.spdmAnswer ep r

/-- RESPOND_IF_READY with the token of the deferred request. -/
def State.spdmRespond (s : State) (ep token : Nat) : State :=
  let c := s.spdm ep
  if !s.epUp ep then s
  else
    match c.deferred with
    | none => s.spdmError ep spdmUnexpected 0 none
    | some (n, r) =>
      if n ≠ token then s.spdmError ep spdmInvalidRequest 0 none
      else if !s.grithalReady then s.spdmError ep spdmNotReady 17 (some n)
      else (s.setSpdm { c with deferred := none }).spdmAnswer ep r

/-! ### Meanings -/

def execGetVersion (ep : BitVec 2) (s : State) : Outcome State Fault Refusal := .next (s.spdmRequest ep.toNat .getVersion)
def execGetCapabilities (ep : BitVec 2) (s : State) : Outcome State Fault Refusal := .next (s.spdmRequest ep.toNat .getCapabilities)
def execNegotiateAlgorithms (ep : BitVec 2) (sign hash dhe aead : Bool) (s : State) : Outcome State Fault Refusal :=
  .next (s.spdmRequest ep.toNat (.negotiateAlgorithms sign hash dhe aead))
def execGetDigests (ep : BitVec 2) (s : State) : Outcome State Fault Refusal := .next (s.spdmRequest ep.toNat .getDigests)
def execGetCertificate (ep : BitVec 2) (slot : BitVec 4) (off len : W16) (s : State) : Outcome State Fault Refusal :=
  .next (s.spdmRequest ep.toNat (.getCertificate slot off len))
def execChallenge (ep : BitVec 2) (slot : BitVec 4) (nonce : BitVec 256) (s : State) : Outcome State Fault Refusal :=
  .next (s.spdmRequest ep.toNat (.challenge slot nonce))
def execGetMeasurements (ep : BitVec 2) (index : Byte) (sign : Bool) (nonce : BitVec 256) (s : State) :
    Outcome State Fault Refusal := .next (s.spdmRequest ep.toNat (.getMeasurements index sign nonce))
def execKeyExchange (ep : BitVec 2) (x y : BitVec 384) (id : W16) (s : State) : Outcome State Fault Refusal :=
  .next (s.spdmRequest ep.toNat (.keyExchange x y id))
def execFinish (ep : BitVec 2) (id : W32) (mac : Bool) (peer : Option (BitVec 768)) (s : State) :
    Outcome State Fault Refusal := .next (s.spdmRequest ep.toNat (.finish id mac peer))
def execEndSession (ep : BitVec 2) (id : W32) (s : State) : Outcome State Fault Refusal :=
  .next (s.spdmRequest ep.toNat (.endSession id))
def execRespondIfReady (ep : BitVec 2) (token : Byte) (s : State) : Outcome State Fault Refusal :=
  .next (s.spdmRespond ep.toNat token.toNat)

end Sys2Proof.Machine
end

