-- ==== Sys2Proof/Machine/Island.lean ====
section
/-! DEFINITION. The management island (R479 to R486): restarts, the bus ports, MCTP reassembly, alerts, sensors and
events. -/

namespace Sys2Proof.Machine

open Host (Outcome)

/-! ### Reset and restart (R479) -/

/-- The island's own state and registers are lost; OPERATOR_KEY_ID and the load buffer are kept. -/
def State.islandLost (s : State) : State :=
  let s1 := s.onMgmt fun m => { m with up := false, rom := true, running := [], events := [], reasm := [], pldm := [], cmds := []
                                       update := 0, updOff := 0, alert := 0, sensors := [] }
  s1.forAll [Reg.MI_STATUS, Reg.MI_EID, Reg.MI_DUP_CNT, Reg.MI_PEC_ERR_CNT, Reg.MI_REASM_DROP_CNT] (fun s a => s.setReg a 0)
    |>.setReg Reg.FW_TRIAL_S 600

/-- Grithal extends the zeroed M5 with the digest reported to it (R397); S5 that has taken effect reads zero. -/
def State.measureIsland (s : State) : State :=
  let d := if s.mgmt.rom then Config.islandRom else sha384 s.mgmt.running
  let s1 := s.setDigest (Reg.MEAS 5) (extendMeas zero48 d)
  if s1.staged 5 = s1.meas 5 then s1.setDigest (stagedRegs 5) zero48 else s1

/-- The boot ROM starts the component of the load buffer, or the ROM firmware when the buffer is empty or its component fails
the check. -/
def State.islandBoot (s : State) (ok : Bool) : State :=
  let rom := s.mgmt.loadBuf.isEmpty || !ok
  let s1 := s.onMgmt fun m => { m with up := true, rom := rom, running := if rom then [] else m.loadBuf, reasm := [] }
  if s1.pins.hold then s1 else s1.measureIsland

def State.mgmtResetLow (s : State) : State := { s.islandLost with pins := { s.pins with mgmtLow := true } }

/-- ISLAND_RESTART: at VDD_AON's power-up (`powerUp`) or the release of MGMT_RESET_N, when MGMT_ADDR is sampled. -/
def State.islandRestart (s : State) (powerUp ok : Bool) (straps : Nat) : State :=
  if (if powerUp then !s.pins.aonLost else !s.pins.mgmtLow) then s
  else
    let p := s.pins
    let s1 := { s with pins := { p with aonLost := p.aonLost && !powerUp, mgmtLow := p.mgmtLow && powerUp, straps := straps } }
    if s1.pins.aonLost ∨ s1.pins.mgmtLow then s1 else s1.islandBoot ok

/-- ISLAND_LOAD_RESTART: an island that runs its ROM firmware restarts into the component the apex die has filled in. -/
def State.islandLoad (s : State) (ok : Bool) : State :=
  if s.mgmt.up ∧ s.mgmt.rom ∧ s.mgmt.loadBuf ≠ [] then s.islandBoot ok else s

/-! ### The bus ports (R480) -/

/-- The static address (MI_ADDR). -/
def State.busAddr (s : State) : Nat := 0x60 + s.pins.straps

/-- The port is in I3C (1) or SMBus (0); a change leaves no alert behind. -/
def State.setI3c (s : State) (n v : Nat) : State :=
  if !s.mgmt.up then s
  else (s.setFld Reg.MI_STATUS n 1 v).onMgmt fun m => { m with alert := putBits m.alert n 1 0 }

/-- ALERT_N is asserted: an event is pending for a port in SMBus mode (R509, R510). -/
def State.alertN (s : State) : Bool :=
  s.mgmt.up && (List.range 2).any fun n => decide (bitsAt s.mgmt.alert n 1 = 1) && !s.inI3c n

/-- An Alert Response Address read on a port: answered by a port in SMBus mode whose alert is pending. -/
def State.araRead (s : State) (n : Nat) : State :=
  if s.mgmt.up ∧ !s.inI3c n ∧ bitsAt s.mgmt.alert n 1 = 1 then
    (s.onMgmt fun m => { m with alert := putBits m.alert n 1 0 }).emit (.araAnswer n s.busAddr)
  else s

/-! ### MCTP (R482, R483) -/

/-- The message types an endpoint supports. -/
def mctpTypes : List Nat := [0x00, 0x01, 0x05, 0x06, 0x7E]

def Reasm.same (r : Reasm) (ep src tag : Nat) : Bool := decide (r.ep = ep) && decide (r.src = src) && decide (r.tag = tag)

def State.dropReasm (s : State) (ep src tag : Nat) : State :=
  s.onMgmt fun m => { m with reasm := m.reasm.filter fun r => !(r.same ep src tag) }

/-- A PlatformEventMessage response acknowledges its event (R485): type 2, command 0x0A, Rq 0, the event's instance. -/
def State.eventAck (s : State) (ep : Nat) (bs : List Byte) : State :=
  let b (i : Nat) : Nat := (bs.getD i 0).toNat
  if b 0 = 1 ∧ b 1 < 128 ∧ b 2 % 64 = 2 ∧ b 3 = 0x0A then
    s.onMgmt fun m => { m with events := m.events.filter fun e => !(decide (e.ep = ep) && decide (e.id % 32 = b 1 % 32)) }
  else s

/-- A whole message: of a type that is supported, and from the first byte on. -/
def State.mctpMessage (s : State) (ep src : Nat) (bs : List Byte) : State :=
  let t := (bs.headD 0).toNat % 128
  if bs = [] ∨ !(mctpTypes.contains t) then s else (s.eventAck ep bs).emit (.received ep src t bs)

/-- MCTP_PACKET: PEC, duplicates, reassembly. `tag` holds the message tag and the tag-owner bit. -/
def State.mctpPacket (s : State) (ep : Nat) (pec : Bool) (src dst tag sq : Nat) (som eom : Bool) (bs : List Byte) : State :=
  if !s.epUp ep then s
  else if ep < 2 ∧ !s.inI3c ep ∧ !pec then s.count Reg.MI_PEC_ERR_CNT 1
  else if dst ≠ 0 ∧ dst ≠ s.eid ep then s
  else
    let old := s.mgmt.reasm.find? fun r => r.same ep src tag
    let rep := match old with
      | none => false
      | some r => if som then decide (r.seen = [sq]) else decide (r.seen.getLast? = some sq)
    if rep then s.count Reg.MI_DUP_CNT 1
    else
      let cur : Option Reasm :=
        if som then some ⟨ep, src, tag, [sq], bs⟩
        else
          match old with
          | none => none
          | some r =>
            if r.seen.getLast?.map (fun x => (x + 1) % 4) = some sq then some { r with seen := r.seen ++ [sq], bytes := r.bytes ++ bs }
            else none
      match cur with
      | none => s
      | some r =>
        let s1 := s.dropReasm ep src tag
        if 4096 < r.bytes.length then s1
        else if eom then s1.mctpMessage ep src r.bytes
        else s1.onMgmt fun m => { m with reasm := m.reasm ++ [r] }

/-- MCTP_REASM_TIMEOUT: 100 ms of the always-on domain have passed since a message's first packet. -/
def State.reasmTimeout (s : State) (ep src tag : Nat) : State :=
  if s.mgmt.reasm.any fun r => r.same ep src tag then (s.dropReasm ep src tag).count Reg.MI_REASM_DROP_CNT 1 else s

/-- Set Endpoint ID: an EID that can be assigned is taken, and the bus owner is the event receiver (R482, R485). -/
def State.setEid (s : State) (ep eid : Nat) : State :=
  if s.epUp ep ∧ 8 ≤ eid ∧ eid < 255 then s.setFld Reg.MI_EID (8 * ep) 8 eid else s

/-! ### PLDM (R483) -/

/-- A PLDM request of a type and instance: a repeat within 5 s is answered with the stored response. The ROM firmware answers
ERROR_NOT_READY. -/
def State.pldmRequest (s : State) (ep src type inst : Nat) (f : State → State × List Nat) : State :=
  let key := type * 32 + inst
  let same (k : Kept) : Bool := decide (k.ep = ep) && decide (k.src = src) && decide (k.key = key)
  if !s.epUp ep then s
  else if s.mgmt.rom then s.emit (.pldm ep src [4])
  else
    match s.mgmt.pldm.find? fun k => same k && decide (s.now < k.kt + 5000000000) with
    | some k => (s.count Reg.MI_DUP_CNT 1).emit k.resp
    | none =>
      let r := f s
      let o : Output := .pldm ep src r.2
      (r.1.onMgmt fun m => { m with pldm := (m.pldm.filter fun k => !same k) ++ [⟨ep, src, key, o, s.now⟩] }).emit o

/-! ### Sensors (R484) -/

def State.sensor (s : State) (i : Nat) : Nat := mget (fun _ => 0) s.mgmt.sensors i

/-- Thresholds of a numeric sensor (Table 16-4). -/
def State.sensorThr (s : State) (i : Nat) : List Nat :=
  if i = 1 then [2650]
  else if i = 2 then [1700]
  else if 0x10 ≤ i ∧ i < 0x29 then [100, 105, 115]
  else if 0x30 ≤ i ∧ i < 0x38 then [95, 105]
  else if 0x40 ≤ i ∧ i < 0x59 then [s.ercThr (i - 0x40) 0, s.ercThr (i - 0x40) 1]
  else []

/-- A new reading; each threshold it rises above is one event. -/
def State.sensorPut (s : State) (i v : Nat) : State :=
  let old := s.sensor i
  let s1 := s.onMgmt fun m => { m with sensors := mset (fun _ => 0) m.sensors i v }
  s1.forAll ((s.sensorThr i).filter fun t => decide (old ≤ t) && decide (t < v)) fun s _ => s.pldmEvent 0 i v

/-- Sensor 0x0081 has changed: an event of R485. -/
def State.fwSettle (s : State) : State :=
  if s.mgmt.fwShown = s.grState then s
  else (s.onMgmt fun m => { m with fwShown := s.grState }).pldmEvent 5 0x81 s.grState

/-- The hottest die and its temperature. -/
def hottest (ts : List Nat) : Nat × Nat :=
  (List.range ts.length).foldl (fun b i => if b.2 < ts.getD i 0 then (i, ts.getD i 0) else b) (0, ts.headD 0)

/-- HBM_TEMP of the stacks whose edge die is ON. -/
def State.stackTemps (s : State) (ts : List Nat) : State :=
  s.forAll (List.range 8) fun s m =>
    if s.dieState (20 + m / 2) = dieOn then s.setReg (Reg.HBM_TEMP (20 + m / 2) (m % 2)) (ts.getD m 0 % 256) else s

/-- SENSOR_REFRESH: power of the last 1 ms and 1 s, VIN_IVR current, junction and stack temperatures, as measured. -/
def State.sensorRefresh (s : State) (power power1s amps : Nat) (dies stk : List Nat) : State :=
  let h := hottest dies
  let s1 := if s.pins.hold then s
    else (((s.stackTemps stk).setReg Reg.PKG_POWER (power + power1s * 2 ^ 16)).setFld Reg.THERM_STATUS 0 8 h.2).setFld Reg.THERM_STATUS 8 5 h.1
  if !s.mgmt.up || s.mgmt.rom then s1
  else
    let s2 := (s1.sensorPut 1 power).sensorPut 2 amps
    let s3 := s2.forAll (List.range 25) fun s d => (s.sensorPut (0x10 + d) (dies.getD d 0)).sensorPut (0x40 + d) (s.reg (Reg.ERC d))
    (s3.forAll (List.range 8) fun s m => s.sensorPut (0x30 + m) (stk.getD m 0)).fwSettle

/-- Sensor 0x0080: 0 NORMAL, 1 DEGRADED, 2 FAILING, 3 DEVICE_FAULT. -/
def State.deviceState (s : State) : Nat :=
  if s.deviceFault then 3 else if s.reg Reg.HM_STATUS ≠ 0 then 2 else if s.reg Reg.HM_DEGRADED ≠ 0 then 1 else 0

/-- The reading of a sensor of Table 16-4. -/
def State.reading (s : State) (i : Nat) : Option Nat :=
  if i = 0x80 then some s.deviceState
  else if i = 0x81 then some s.grState
  else if 0x82 ≤ i ∧ i < 0x8A then some (s.portState (i - 0x82))
  else if s.sensorThr i ≠ [] then some (s.sensor i)
  else none

/-- GET_SENSOR_READING: completion 0 and the reading, or 0x80, INVALID_SENSOR_ID. -/
def State.sensorReading (s : State) (i : Nat) : State × List Nat :=
  match s.reading i with
  | some v => (s, [0, v])
  | none => (s, [0x80])

/-- PLDM_EVENT_RETRY: an event not acknowledged is sent again, at most three times (R485). -/
def State.eventRetry (s : State) (id : Nat) : State :=
  match s.mgmt.events.find? fun e => decide (e.id = id) with
  | none => s
  | some e =>
    if !s.epUp e.ep then s
    else if e.sent < 4 then
      (s.onMgmt fun m => { m with events := m.events.map fun x => if x.id = id then { x with sent := x.sent + 1 } else x }).emit
        (.pldmEvent e.ep e.id e.kind e.src e.value)
    else s.onMgmt fun m => { m with events := m.events.filter fun x => decide (x.id ≠ id) }

/-! ### Meanings -/

def execMgmtResetAssert (s : State) : Outcome State Fault Refusal := .next s.mgmtResetLow
def execIslandRestart (powerUp ok : Bool) (straps : BitVec 3) (s : State) : Outcome State Fault Refusal :=
  .next (s.islandRestart powerUp ok straps.toNat)
def execIslandLoadRestart (ok : Bool) (s : State) : Outcome State Fault Refusal := .next (s.islandLoad ok)
def execEntdaa (port : Fin 2) (s : State) : Outcome State Fault Refusal := .next (s.setI3c port.val 1)
/-- SETDASA switches the port whose static address it names. -/
def execSetdasa (port : Fin 2) (addr : BitVec 7) (s : State) : Outcome State Fault Refusal :=
  .next (if addr.toNat = s.busAddr then s.setI3c port.val 1 else s)
def execRstdaa (port : Fin 2) (s : State) : Outcome State Fault Refusal := .next (s.setI3c port.val 0)
def execMctpPacket (ep : BitVec 2) (pec : Bool) (src dst : Byte) (tag : BitVec 4) (seq : BitVec 2) (som eom : Bool)
    (bytes : List Byte) (s : State) : Outcome State Fault Refusal :=
  .next (s.mctpPacket ep.toNat pec src.toNat dst.toNat tag.toNat seq.toNat som eom bytes)
def execMctpReasmTimeout (ep : BitVec 2) (src : Byte) (tag : BitVec 4) (s : State) : Outcome State Fault Refusal :=
  .next (s.reasmTimeout ep.toNat src.toNat tag.toNat)
def execSetEndpointId (ep : BitVec 2) (eid : Byte) (s : State) : Outcome State Fault Refusal :=
  .next (s.setEid ep.toNat eid.toNat)
def execSmbusAraRead (port : Fin 2) (s : State) : Outcome State Fault Refusal := .next (s.araRead port.val)
def execSensorRefresh (power power1s amps : W16) (dies stk : List Byte) (s : State) : Outcome State Fault Refusal :=
  .next (s.sensorRefresh power.toNat power1s.toNat amps.toNat (dies.map BitVec.toNat) (stk.map BitVec.toNat))
def execGetSensorReading (ep : BitVec 2) (src : Byte) (inst : BitVec 5) (sensor : W16) (s : State) :
    Outcome State Fault Refusal :=
  .next (s.pldmRequest ep.toNat src.toNat 2 inst.toNat fun t => t.sensorReading sensor.toNat)
def execPldmEventRetry (id : Nat) (s : State) : Outcome State Fault Refusal := .next (s.eventRetry id)

end Sys2Proof.Machine
end

