-- ==== Sys2Proof/Machine/Kv.lean ====
section
/-! DEFINITION. The paged key-value cache (R260 to R288): pools, sequences, windows, digests, retrieval and swap. -/

namespace Sys2Proof.Machine

open Host (Outcome)

/-! ### Pools (R261 to R264) -/

/-- The geometry of a pool. -/
structure Pool where
  layers : Nat
  groups : Nat
  fmtK : Nat
  fmtV : Nat
  scale : Nat
  digest : Bool
  elems : Nat
  stride : Nat
  slabs : Nat

def passDepth (fmt : Nat) : Nat := if fmtWidth fmt = 16 then 32 else if fmtWidth fmt = 8 then 64 else 128

/-- Row bytes of a plane. -/
def kvRowBytes (fmt elems : Nat) : Nat := if fmtWidth fmt = 6 then elems else elems * fmtWidth fmt / 8

/-- Scale bytes of a K row. -/
def kvScaleBytes (scale elems : Nat) : Nat := if scale = 0 then 0 else elems / blockLen scale

def pow2From (fuel p n : Nat) : Nat :=
  match fuel with
  | 0 => p
  | f + 1 => if n ≤ p then p else pow2From f (2 * p) n

def Pool.pb (p : Pool) : Nat := 16 * p.stride
def Pool.blockBytes (p : Pool) : Nat := p.layers * p.groups * (2 * p.pb + 256)

/-- The pool as its registers describe it, whether or not it is valid. -/
def State.poolOf (s : State) (b n : Nat) : Pool :=
  let c := s.reg (Reg.KVP_CFG0 b n)
  let e := s.fld (Reg.KVP_CFG1 b n) 0 13
  let fk := bitsAt c 15 4
  let fv := bitsAt c 19 4
  let p : Pool := ⟨bitsAt c 1 8 + 1, bitsAt c 9 6 + 1, fk, fv, bitsAt c 23 2, decide (bitsAt c 25 1 = 1), e,
    pow2From 12 64 (max (kvRowBytes fk e) (kvRowBytes fv e)), 0⟩
  { p with slabs := (p.blockBytes + 65535) / 65536 }

/-- Scales lie in the padding of their rows, or else in the unused page digest entries of a pool without digests. -/
def Pool.scalesInRow (p : Pool) : Bool := decide (kvRowBytes p.fmtK p.elems + kvScaleBytes p.scale p.elems ≤ p.stride)

def Pool.scalesFit (p : Pool) : Bool :=
  p.scalesInRow || (!p.digest && decide (16 * kvScaleBytes p.scale p.elems ≤ 128))

/-- R261, R262, R264. -/
def State.poolValid (s : State) (b n : Nat) : Bool :=
  let p := s.poolOf b n
  decide (s.fld (Reg.KVP_CFG0 b n) 0 1 = 1) && decide (1 ≤ p.fmtK) && decide (p.fmtK ≤ 0xA) && decide (1 ≤ p.fmtV) &&
    decide (p.fmtV ≤ 0xA) && scaleOk p.fmtK p.scale && decide (p.elems ≠ 0) && decide (p.elems % passDepth p.fmtK = 0) &&
    decide (p.elems % passDepth p.fmtV = 0) && decide (kvRowBytes p.fmtK p.elems ≤ 4096) &&
    decide (kvRowBytes p.fmtV p.elems ≤ 4096) && p.scalesFit

/-- Byte of the page of layer l, group g, plane x in a block, of its digest entry and of the coarse one (R264). -/
def Pool.pageAt (p : Pool) (l g x : Nat) : Nat := ((l * p.groups + g) * 2 + x) * p.pb
def Pool.digestAt (p : Pool) (l g : Nat) : Nat := p.layers * p.groups * 2 * p.pb + (l * p.groups + g) * 128
def Pool.coarseAt (p : Pool) (l g : Nat) : Nat := p.digestAt l g + p.layers * p.groups * 128

/-! ### Sequences (R265) -/

def State.kvSeq (s : State) (b p q : Nat) : Option KvSeq :=
  s.kv.seqs.find? fun x => decide (x.bay = b) && decide (x.pool = p) && decide (x.seq = q)

def State.setKvSeq (s : State) (x : KvSeq) : State :=
  s.onKv fun k => { k with seqs := (k.seqs.filter fun y => !(decide (y.bay = x.bay) && decide (y.pool = x.pool) && decide (y.seq = x.seq))) ++ [x] }

def State.dropKvSeq (s : State) (x : KvSeq) : State :=
  s.onKv fun k => { k with seqs := k.seqs.filter fun y => !(decide (y.bay = x.bay) && decide (y.pool = x.pool) && decide (y.seq = x.seq)) }

/-- States of Table 09-2. -/
def seqActive : Nat := 1
def seqSwappingOut : Nat := 2
def seqSwapped : Nat := 3
def seqSwappingIn : Nat := 4

/-- Details of class 0x0B (R287). -/
def kvDetail (seq pool entry : Nat) : Nat := seq + pool * 2 ^ 14 + entry % 2 ^ 16 * 2 ^ 16

/-- Physical address of byte `off` of a block. -/
def blockAddr (slabs : List Nat) (off : Nat) : Nat := slabs.getD (off / 65536) 0 * 65536 + off % 65536

/-- Slots of a sequence leave the windows, with its uncommitted appends (R276). -/
def State.dropSlots (s : State) (b p q : Nat) : State :=
  s.onKv fun k => { k with wins := k.wins.map fun w =>
    if w.bay = b ∧ w.pool = p then
      { w with slots := w.slots.filter fun x => decide (x.seq ≠ q), appends := w.appends.filter fun x => decide (x.seq ≠ q) }
    else w }

/-- A partial reset of a die empties the slot maps of its windows (R276). -/
def State.kvDieReset (s : State) (d : Nat) : State :=
  s.onKv fun k => { k with wins := k.wins.map fun w => if w.die = d then { w with slots := [], appends := [] } else w }

def ceilDiv (a b : Nat) : Nat := (a + b - 1) / b

/-- A list of 8-byte entries in the bay range. -/
def State.kvList (s : State) (c : Cmd) (va n : Nat) : State × List (Nat × Nat) × Acc :=
  let r := s.vaRead (.cmd c.q c.seq) (c.bay.getD 0) va (8 * n)
  let ws := (bytesWords (r.2.1.map pbyte)).map BitVec.toNat
  (r.1, (List.range n).map fun i => (ws.getD (2 * i) 0, ws.getD (2 * i + 1) 0), r.2.2)

/-- A command whose list could not be read. -/
def State.kvListFails (s : State) (c : Cmd) (st va : Nat) : State :=
  s.finish c st (s.vaDetail (c.bay.getD 0) st va).1 (s.vaDetail (c.bay.getD 0) st va).2

/-- What the checks of a list found: a failure, or the sequences as they will be. -/
inductive KvPlan where
  | fail (st d0 d1 : Nat)
  | ok (seqs : List KvSeq)

def planFind (l : List KvSeq) (q : Nat) : Option KvSeq := l.find? fun x => decide (x.seq = q)
def planPut (l : List KvSeq) (x : KvSeq) : List KvSeq := (l.filter fun y => decide (y.seq ≠ x.seq)) ++ [x]

/-! ### PAGE_ALLOC (R266) -/

/-- One entry: CREATE, the adapter and the capacity; `nblk` runs ahead of the blocks to allocate. -/
def allocEntry (s : State) (b p i : Nat) (e : Nat × Nat) (l : List KvSeq) : KvPlan :=
  let q := bitsAt e.1 0 14
  let cap := bitsAt e.2 0 21
  let old := (planFind l q).orElse fun _ => s.kvSeq b p q
  let grow (x : KvSeq) : KvPlan :=
    if 1048576 < cap then .fail St.SEQ_TOO_LONG (kvDetail q p i) cap
    else .ok (planPut l { x with nblk := max x.nblk (ceilDiv cap 16) })
  if bitsAt e.1 14 1 = 1 then
    match old with
    | some _ => .fail St.SEQ_EXISTS (kvDetail q p i) 0
    | none => grow ⟨b, p, q, seqActive, 0, bitsAt e.1 16 12, [], 0, 0, 0, []⟩
  else
    match old with
    | none => .fail St.BAD_SEQ (kvDetail q p i) 0
    | some x =>
      if x.state ≠ seqActive then .fail St.SEQ_SWAPPED (kvDetail q p i) 0
      else grow (if bitsAt e.1 15 1 = 1 then { x with adapter := bitsAt e.1 16 12 } else x)

def planAll (f : Nat → Nat × Nat → List KvSeq → KvPlan) (es : List (Nat × Nat)) : KvPlan :=
  (List.range es.length).foldl (fun r i =>
    match r with
    | .ok l => f i (es.getD i (0, 0)) l
    | bad => bad) (.ok [])

/-- Blocks and table slabs that a plan asks for. -/
def planNeed (p : Pool) (l : List KvSeq) : Nat :=
  sumOver (fun x => (x.nblk - x.blocks.length) * p.slabs + (ceilDiv x.nblk 16384 - x.tables)) l

/-- `n` free slabs of the bay, marked zero (R239); none if there are not so many. -/
def State.takeZeroed (s : State) (b n : Nat) : Option (State × List Nat) :=
  match n with
  | 0 => some (s, [])
  | k + 1 =>
    match s.anyFree b with
    | none => none
    | some loc => (State.takeZeroed ((s.takeSlab b loc).zeroSlab loc) b k).map fun r => (r.1, loc :: r.2)

/-- The blocks of a sequence up to `nblk`. -/
def State.growSeq (s : State) (p : Pool) (x : KvSeq) (fuel : Nat) : Option (State × KvSeq) :=
  match fuel with
  | 0 => some (s, { x with tables := ceilDiv x.nblk 16384 })
  | f + 1 =>
    if x.nblk ≤ x.blocks.length then some (s, { x with tables := ceilDiv x.nblk 16384 })
    else
      match s.takeZeroed x.bay p.slabs with
      | none => none
      | some (s1, ls) => State.growSeq s1 p { x with blocks := x.blocks ++ [ls] } f

def State.growAll (s : State) (p : Pool) (l : List KvSeq) : Option State :=
  match l with
  | [] => some s
  | x :: r =>
    match s.growSeq p x (x.nblk + 1) with
    | none => none
    | some (s1, y) => (s1.setKvSeq y).growAll p r

def State.pageAlloc (c : Cmd) (s : State) : State :=
  let b := c.bay.getD 0
  let n := c.p 0 0 2
  if !s.poolValid b n then s.finish c St.BAD_POOL (kvDetail 0 n 0) 0
  else
    let p := s.poolOf b n
    let r := s.kvList c (c.p64 2) (c.p 1 0 11)
    match r.2.2 with
    | .wait => r.1
    | .fail st va => r.1.kvListFails c st va
    | .ok =>
      match planAll (allocEntry r.1 b n) r.2.1 with
      | .fail st d0 d1 => r.1.finish c st d0 d1
      | .ok l =>
        match r.1.admitUnits c b [(0, planNeed p l)] with
        | .waits s' => s'
        | .refused s' => s'
        | .served c' s' =>
          match s'.growAll p l with
          | some t => t.endsWith c' St.OK
          | none => (s'.setUsed b 0 (s'.used b 0 - planNeed p l)).finish c' St.CAPACITY (refusalDetail 0 (planNeed p l)) 0

/-! ### PAGE_FREE and ADVANCE (R267, R268) -/

def freeEntry (s : State) (b p i : Nat) (e : Nat × Nat) (l : List KvSeq) : KvPlan :=
  let q := bitsAt e.1 0 14
  let keep := bitsAt e.2 0 21
  match (planFind l q).orElse fun _ => s.kvSeq b p q with
  | none => .fail St.BAD_SEQ (kvDetail q p i) 0
  | some x =>
    if x.state = seqActive ∨ (x.state = seqSwapped ∧ keep = 0) then
      .ok (planPut l { x with nblk := min x.nblk (ceilDiv keep 16), len := min x.len keep, state := if keep = 0 then 0 else x.state })
    else .fail St.SEQ_SWAPPED (kvDetail q p i) 0

/-- Blocks beyond `nblk` go back with the table slabs that no longer map anything. -/
def State.shrinkSeq (s : State) (x : KvSeq) : State :=
  let gone := (x.blocks.drop x.nblk).flatten
  let tables := if x.state = 0 then 0 else ceilDiv x.nblk 16384
  let s1 := ((s.forAll gone fun s loc => s.giveSlab loc).dropSlots x.bay x.pool x.seq)
  let s2 := s1.setUsed x.bay 0 (s1.used x.bay 0 - gone.length - (x.tables - tables))
  if x.state = 0 then s2.dropKvSeq x
  else s2.setKvSeq { x with blocks := x.blocks.take x.nblk, tables := tables,
                            digested := mclear x.digested fun k => decide (x.nblk ≤ k / 2 ^ 14) }

def State.pageFree (c : Cmd) (s : State) : State :=
  let b := c.bay.getD 0
  let n := c.p 0 0 2
  if !s.poolValid b n then s.finish c St.BAD_POOL (kvDetail 0 n 0) 0
  else
    let r := s.kvList c (c.p64 2) (c.p 1 0 11)
    match r.2.2 with
    | .wait => r.1
    | .fail st va => r.1.kvListFails c st va
    | .ok =>
      match planAll (freeEntry r.1 b n) r.2.1 with
      | .fail st d0 d1 => r.1.finish c st d0 d1
      | .ok l => (r.1.forAll l fun s x => s.shrinkSeq x).endsWith c St.OK

/-- The sequence of an entry that must be ACTIVE (R269). -/
def activeEntry (s : State) (b p q i : Nat) (l : List KvSeq) (f : KvSeq → KvPlan) : KvPlan :=
  match (planFind l q).orElse fun _ => s.kvSeq b p q with
  | none => .fail St.BAD_SEQ (kvDetail q p i) 0
  | some x => if x.state = seqActive then f x else .fail St.SEQ_SWAPPED (kvDetail q p i) 0

def advanceEntry (s : State) (b p i : Nat) (e : Nat × Nat) (l : List KvSeq) : KvPlan :=
  let q := bitsAt e.1 0 14
  activeEntry s b p q i l fun x =>
    if x.nblk * 16 < x.len + e.2 then .fail St.NO_BLOCK (kvDetail q p i) (x.nblk * 16)
    else .ok (planPut l { x with len := x.len + e.2 })

def State.advance (c : Cmd) (s : State) : State :=
  if c.p 0 2 1 = 0 then s
  else
    let b := c.bay.getD 0
    let n := c.p 0 0 2
    if !s.poolValid b n then s.finish c St.BAD_POOL (kvDetail 0 n 0) 0
    else
      let r := s.kvList c (c.p64 6) (c.p 5 0 11)
      match r.2.2 with
      | .wait => r.1
      | .fail st va => r.1.kvListFails c st va
      | .ok =>
        match planAll (advanceEntry r.1 b n) r.2.1 with
        | .fail st d0 d1 => r.1.finish c st d0 d1
        | .ok l => (r.1.forAll l State.setKvSeq).endsWith c St.OK

/-! ### Rows (R264, R271, R272) -/

/-- Element i of a row of a format: bits of w * i, 6-bit chunks at a 128-byte stride. -/
def rowElem (fmt : Nat) (bs : List Byte) (i : Nat) : Nat :=
  let w := fmtWidth fmt
  let bit := if w = 6 then i / 128 * 1024 + w * (i % 128) else w * i
  bytesVal ((bs.drop (bit / 8)).take 3) / 2 ^ (bit % 8) % 2 ^ w

/-- Byte i of packed elements of width w, given by their number. -/
def packByte (w : Nat) (elem : Nat → Nat) (i : Nat) : Nat :=
  (sumOver (fun k =>
    let e := 8 * i / w + k
    let v := elem e * 2 ^ (w * e + 8 - 8 * i)
    v / 2 ^ 8 % 2 ^ 8 * (if w * e < 8 * i + 8 then 1 else 0)) (List.range (8 / w + 2))) % 2 ^ 8

/-- Byte `o` of a V slot made from a token-major page: the cell rows of R272. -/
def vSlotByte (fmt elems stride : Nat) (page : List Byte) (o : Nat) : Nat :=
  let w := fmtWidth fmt
  let m := passDepth fmt / 32
  let cr := if w = 6 then 128 else 64
  let row := o / cr
  let blk := row / (16 / m)
  let cell := row % (16 / m)
  if elems / 32 ≤ blk ∨ (w = 6 ∧ 96 ≤ o % cr) then 0
  else packByte w (fun e => if 32 * m ≤ e then 0 else
    rowElem fmt ((page.drop ((cell * m + e % m) * stride)).take stride) (blk * 32 + e / m)) (o % cr)

/-- A page with the rows from `keep` on zeroed. -/
def maskRows (stride keep : Nat) (bs : List PByte) : List PByte :=
  (bs.take (keep * stride)) ++ List.replicate (bs.length - keep * stride) (some 0)

/-! ### Digests (R277, R278) -/

/-- The decoded keys of channel block c of a page, given its rows. -/
def digestNums (p : Pool) (gk : Nat) (row : Nat → List Byte) (scales : Nat → List Byte) (ch : Nat) : List Num :=
  let per := p.elems / 32
  (List.range 16).flatMap fun t => (List.range per).map fun j =>
    let d := ch * per + j
    let sc := scaleNum p.scale (((scales t).getD (d / blockLen p.scale) 0).toNat)
    ((elemNum p.fmtK p.scale (rowElem p.fmtK (row t) d)).mul sc).mul (fp32.decode gk)

/-- The extreme of numbers without NaN. -/
def extremeOf (hi : Bool) (l : List Num) : Num :=
  l.foldl (fun m x => if hi then (if m.lt x then x else m) else if x.lt m then x else m) (.inf hi)

/-- HI and LO of a channel; a NaN key leaves them open (a free value). -/
def digestPair (free : Nat) (l : List Num) : Nat × Nat :=
  if l.any Num.isNan then (free % 2 ^ 16, free / 2 ^ 16 % 2 ^ 16)
  else (bf16.round .rup false (extremeOf true l), bf16.round .rdn false (extremeOf false l))

/-- The 128 bytes of a digest: HI then LO. -/
def digestBytes (ps : List (Nat × Nat)) : List Byte := (ps.map (·.1) ++ ps.map (·.2)).flatMap (leBytes 2)

def digestPairs (bs : List Byte) : List (Nat × Nat) :=
  (List.range 32).map fun i => (bytesVal ((bs.drop (2 * i)).take 2), bytesVal ((bs.drop (64 + 2 * i)).take 2))

/-- The fold of a page digest into a coarse one. -/
def foldDigest (a b : List (Nat × Nat)) : List (Nat × Nat) :=
  (List.range 32).map fun i =>
    let x := a.getD i (0, 0)
    let y := b.getD i (0, 0)
    (if (bf16.decode x.1).lt (bf16.decode y.1) then y.1 else x.1, if (bf16.decode y.2).lt (bf16.decode x.2) then y.2 else x.2)

def bf16To32 (x : Nat) : Nat := x * 2 ^ 16

/-- The score of R278: FP32, in the fixed order. -/
def kvScore (qp qn : Nat → Nat) (d : List (Nat × Nat)) : Nat :=
  (List.range 32).foldl (fun s c =>
    let x := d.getD c (0, 0)
    let s1 := fp32.addOp .rne s (fp32.mulOp .rne (qp c) (bf16To32 x.1))
    fp32.addOp .rne s1 (fp32.mulOp .rne (qn c) (bf16To32 x.2))) 0

/-- Score x ranks above score y: NaN ranks below every number (R278). -/
def scoreAbove (x y : Nat) : Bool :=
  ((fp32.decode y).isNan && !(fp32.decode x).isNan) || (fp32.decode y).lt (fp32.decode x)

/-- The best k of numbered scores, given in rising order of their numbers: lower numbers first among equals (R278). -/
def bestOf (k : Nat) (l : List (Nat × Nat)) : List Nat :=
  let before (x y : Nat × Nat) : Bool := scoreAbove x.2 y.2
  ((l.foldl (fun a x => (a.filter fun y => !before x y) ++ x :: (a.filter fun y => before x y)) []).take k).map (·.1)

/-! ### Home pages -/

/-- Bytes of a home block; none where a line is poisoned. -/
def State.homeGet (s : State) (x : KvSeq) (page off n : Nat) : List PByte :=
  let sl := x.blocks.getD page []
  (List.range n).map fun i =>
    let pa := blockAddr sl (off + i)
    if markGet s.mem.poison (pa / 128) then none else some (mget (fun _ => 0) s.mem.hbm pa)

/-- Bytes stored in a home block; whole lines lose their poison. -/
def State.homePut (s : State) (x : KvSeq) (page off : Nat) (bs : List PByte) : State :=
  let sl := x.blocks.getD page []
  s.forAll (unitsOf 128 off bs.length) fun s l =>
    let lo := max off (l * 128)
    let hi := min (off + bs.length) (l * 128 + 128)
    (s.hbmPut (blockAddr sl lo) ((bs.drop (lo - off)).take (hi - lo))).1

/-- Scale bytes of K row t of a page, in the row or in the digest entry (R264). -/
def State.rowScales (s : State) (p : Pool) (x : KvSeq) (page l g t : Nat) : List PByte :=
  let n := kvScaleBytes p.scale p.elems
  s.homeGet x page (if p.scalesInRow then p.pageAt l g 0 + t * p.stride + kvRowBytes p.fmtK p.elems else p.digestAt l g + t * n) n

/-- The digest of a full page, folded into its coarse group (R277). -/
def State.digestPage (s : State) (p : Pool) (x : KvSeq) (page l g gk : Nat) : State :=
  if !p.digest then s
  else
    let row (t : Nat) : List Byte := (s.homeGet x page (p.pageAt l g 0 + t * p.stride) (kvRowBytes p.fmtK p.elems)).map pbyte
    let sc (t : Nat) : List Byte := (s.rowScales p x page l g t).map pbyte
    let f := s.draw
    let ps := (List.range 32).map fun c => digestPair f.1 (digestNums p gk row sc c)
    let s0 := if (List.range 32).any fun c => (digestNums p gk row sc c).any Num.isNan then f.2 else s
    let s1 := s0.homePut x page (p.digestAt l g) (unpoisoned (digestBytes ps))
    let key (pg : Nat) : Nat := pg * 2 ^ 14 + l * 64 + g
    let mine := (List.range 64).any fun i => markGet x.digested (key (page / 64 * 64 + i))
    let old := digestPairs ((s1.homeGet x (page / 64 * 64) (p.coarseAt l g) 128).map pbyte)
    let s2 := s1.homePut x (page / 64 * 64) (p.coarseAt l g) (unpoisoned (digestBytes (if mine then foldDigest old ps else ps)))
    (s2.setKvSeq { x with digested := markPut x.digested (key page) true }).count (Reg.KV_DIGEST_CNT x.bay) 1

/-! ### PT_UPDATE in WINDOW mode (R269 to R280) -/

/-- The physical engine of a window. -/
def State.winEng (s : State) (d l : Nat) : Nat := s.physOf d l

def State.spadPut (s : State) (d p a : Nat) (bs : List PByte) : State := s.setEng d p ((s.eng d p).dmaWrite a bs)

/-- Step 1: the appends of the previous PT_UPDATE are copied home (R274). -/
def State.commitWin (s : State) (w : KvWin) : State :=
  let pe := s.winEng w.die w.eng
  let p := s.poolOf w.bay w.pool
  s.forAll w.appends fun s a =>
    match s.kvSeq w.bay w.pool a.seq with
    | none => s
    | some x =>
      if x.state ≠ seqActive ∨ x.blocks.length ≤ a.pos / 16 then s
      else
        let page := a.pos / 16
        let row := a.pos % 16
        let e := s.eng w.die pe
        let k := e.dmaRead (w.base + a.slot * p.pb + row * p.stride) p.stride
        let v := e.dmaRead (w.newRows + a.idx * p.stride) p.stride
        let s1 := (s.homePut x page (p.pageAt w.layer w.group 0 + row * p.stride) k).homePut x page
          (p.pageAt w.layer w.group 1 + row * p.stride) v
        if row = 15 then s1.digestPage p x page w.layer w.group (s1.reg (Reg.KVP_GK w.bay w.pool)) else s1

/-- Pages that RETRIEVE selects (R279). -/
def State.retrieve (s : State) (p : Pool) (x : KvSeq) (l g : Nat) (qd : List Byte) (topk coarse sink recent apn : Nat) :
    List Nat :=
  let f := x.len / 16
  let last := (x.len + apn - 1) / 16
  let qp (c : Nat) : Nat := bytesVal ((qd.drop (4 * c)).take 4)
  let qn (c : Nat) : Nat := bytesVal ((qd.drop (128 + 4 * c)).take 4)
  let fixed := ((List.range sink).filter fun i => decide (i ≤ last)) ++
    ((List.range recent).filterMap fun i => if recent ≤ f + i then some (f + i - recent) else none) ++
    ((List.range (last + 1)).filter fun i => decide (f ≤ i) && decide (0 < x.len + apn))
  let digested (pg : Nat) : Bool := markGet x.digested (pg * 2 ^ 14 + l * 64 + g)
  let groups := (List.range (ceilDiv f 64)).map fun j =>
    (j, kvScore qp qn (digestPairs ((s.homeGet x (64 * j) (p.coarseAt l g) 128).map pbyte)))
  let groupsOk := groups.filter fun j => (List.range 64).any fun i => digested (64 * j.1 + i)
  let kept := bestOf coarse groupsOk
  let cands := (List.range f).filter fun pg => kept.contains (pg / 64) && !fixed.contains pg && digested pg
  let best := bestOf topk (cands.map fun pg => (pg, kvScore qp qn (digestPairs ((s.homeGet x pg (p.digestAt l g) 128).map pbyte))))
  (List.range (last + 1)).filter fun pg => fixed.contains pg || best.contains pg

/-- Pages selected for an entry with `apn` appends. -/
def State.selectPages (s : State) (c : Cmd) (p : Pool) (x : KvSeq) (i apn : Nat) (qd : List Byte) : List Nat :=
  if c.p 0 11 1 = 1 then
    s.retrieve p x (c.p 4 0 8) (c.p 4 8 6) ((qd.drop (256 * i)).take 256) (c.p 10 0 11) (c.p 10 11 9) (c.p 10 20 6) (c.p 10 26 6) apn
  else if x.len + apn = 0 then [] else List.range ((x.len + apn - 1) / 16 + 1)

/-- Slots for selected pages: resident ones stay, missing ones take free slots, then the least recently selected
slots of unselected pages, lower numbers first (R274). -/
def mapPage (nslot stamp : Nat) (sel : List (Nat × Nat)) (slots : List KvSlot) (pg : Nat × Nat) : List KvSlot :=
  if slots.any fun x => decide (x.seq = pg.1) && decide (x.page = pg.2) then
    slots.map fun x => if x.seq = pg.1 ∧ x.page = pg.2 then { x with last := stamp } else x
  else
    match (List.range nslot).find? fun i => !(slots.any fun x => decide (x.slot = i)) with
    | some i => slots ++ [⟨i, pg.1, pg.2, true, stamp⟩]
    | none =>
      match (slots.filter fun x => !sel.contains (x.seq, x.page)).foldl (fun m x =>
          match m with
          | none => some x
          | some y => if x.last < y.last ∨ (x.last = y.last ∧ x.slot < y.slot) then some x else some y) (none : Option KvSlot) with
      | none => slots
      | some v => (slots.filter fun x => decide (x.slot ≠ v.slot)) ++ [⟨v.slot, pg.1, pg.2, true, stamp⟩]

/-- The edge die nearest to a compute die, the lower one among equals (R280). -/
def nearEdge (d : Nat) : Nat := [20, 21, 22, 23].foldl (fun e x => if hops d x < hops d e then x else e) 20

/-- One page lands in its K and V slots (R271, R272): rows at or above `keep` are zero. `m`: what the first home read
of the command met. -/
def State.gatherPage (s : State) (w : KvWin) (p : Pool) (x : KvSeq) (slot page keep : Nat) (m : Medium) : State × Option Nat :=
  let pe := s.winEng w.die w.eng
  let pa := blockAddr (x.blocks.getD page []) (p.pageAt w.layer w.group 0)
  let q := s.meetMedium m (groupOf (pa / 65536)) pa 0 w.bay false
  let k := maskRows p.stride keep (q.1.homeGet x page (p.pageAt w.layer w.group 0) p.pb)
  let v := maskRows p.stride keep (q.1.homeGet x page (p.pageAt w.layer w.group 1) p.pb)
  let vb := (List.range p.pb).map fun o => some (BitVec.ofNat 8 (vSlotByte p.fmtV p.elems p.stride (v.map pbyte) o))
  let vs := if anyPoison v then List.replicate p.pb none else vb
  let s1 := (q.1.spadPut w.die pe (w.base + slot * p.pb) k).spadPut w.die pe (w.base + (w.nslot + slot) * p.pb) vs
  let bad := match q.2 with | some st => some st | none => if anyPoison k || anyPoison v then some St.POISONED else none
  ((s1.count (Reg.KV_GATHER_CNT w.bay) 1).hbmCount (groupOf (pa / 65536)) false (2 * p.pb) |>.moved (some (8 * (nearEdge w.die - 20))) (2 * p.pb) true, bad)

/-- Address of the first area boundary of 64 bytes at or after `a`. -/
def next64 (a : Nat) : Nat := ceilDiv a 64 * 64

/-- Bytes of scale per row and pass of a pool (R149). -/
def Pool.s (p : Pool) : Nat := if p.scale = 0 then 0 else passDepth p.fmtK / blockLen p.scale

/-- Areas of a window (Table 09-4): the scale runs, the V new rows, and the end. -/
def winAreas (p : Pool) (base nslot nseq maxp napp : Nat) : Nat × Nat × Nat :=
  let sc := next64 (base + 2 * nslot * p.pb)
  let nr := next64 (sc + (if p.scale = 0 then 0 else p.elems / passDepth p.fmtK * nseq * maxp * 16 * p.s))
  (sc, nr, nr + napp * p.stride)

/-- Arrays of the index area (Table 09-5) and its end. -/
def idxAreas (a nseq maxp napp : Nat) : Nat × Nat × Nat × Nat × Nat :=
  let no := next64 (a + 4 * nseq * maxp)
  let len := next64 (no + 4 * nseq * maxp)
  let ad := next64 (len + 4 * nseq)
  let ap := next64 (ad + 4 * nseq)
  (no, len, ad, ap, ap + 4 * napp)

/-- Checks of the window's regions (R270). -/
def State.winCheck (s : State) (c : Cmd) (p : Pool) (napp : Nat) : Option (Nat × Nat × Nat) :=
  let base := c.p 2 0 20
  let idx := c.p 11 0 20
  let nseq := c.p 5 0 11
  let maxp := c.p 3 11 11
  let e1 := (winAreas p base (c.p 3 0 11) nseq maxp napp).2.2
  let e2 := (idxAreas idx nseq maxp napp).2.2.2.2
  let d := c.p 1 0 5
  let l := c.p 1 5 6
  let det := kvDetail 0 (c.p 0 0 2) 0
  if misaligned base 1024 || misaligned idx 64 || decide (2 ^ 20 < e1) || decide (2 ^ 20 < e2) ||
      rangesOverlap base (e1 - base) idx (e2 - idx) then some (St.WINDOW_RANGE, det, 0)
  else
    match s.dieRefuses d with
    | some st => some (st, s.dieDetail d, 0)
    | none =>
      let pe := s.physOf d l
      if pe = 0x3F then some (St.ENGINE_FAILED, s.dieDetail d, l)
      else if (banksOf base (e1 - base) ++ banksOf idx (e2 - idx)).all fun k => bankOwned (s.owners d pe) (c.p 1 11 4) k then none
      else some (St.UNOWNED_BANK, 0, 0)

/-- The window as this command binds it: the slot map is kept when nothing of the binding differs (R269). -/
def State.bindWin (s : State) (c : Cmd) (b : Nat) : KvWin :=
  let old := s.kv.wins.find? fun w => decide (w.bay = b) && decide (w.win = c.p 0 3 8)
  let w : KvWin := ⟨b, c.p 0 3 8, c.p 0 0 2, c.p 4 0 8, c.p 4 8 6, c.p 1 0 5, c.p 1 5 6, c.p 1 11 4, c.p 2 0 20, c.p 3 0 11,
    c.p 3 11 11, [], [], 0⟩
  match old with
  | none => w
  | some o => if c.p 0 12 1 = 0 ∧ { o with slots := [], appends := [], newRows := 0 } = w then { w with slots := o.slots } else w

def State.setWin (s : State) (w : KvWin) : State :=
  s.onKv fun k => { k with wins := (k.wins.filter fun x => !(decide (x.bay = w.bay) && decide (x.win = w.win))) ++ [w] }

def entryAppend (e : Nat × Nat) : Nat := bitsAt e.1 16 13

/-- One entry of a WINDOW list (R269): ACTIVE, and room for its appends. -/
def windowEntry (s : State) (b p i : Nat) (e : Nat × Nat) (l : List KvSeq) : KvPlan :=
  let q := bitsAt e.1 0 14
  activeEntry s b p q i l fun x =>
    if x.nblk * 16 < x.len + entryAppend e then .fail St.NO_BLOCK (kvDetail q p i) (x.nblk * 16) else .ok (planPut l x)

/-- INT32 values as bytes. -/
def i32Bytes (l : List Int) : List PByte := unpoisoned (l.flatMap fun v => leBytes 4 ((v % 2 ^ 32).toNat))

/-- The appends of the command in list order, with their slots (Table 09-5). -/
def appendsOf (w : KvWin) (es : List (KvSeq × Nat)) : List KvAppend :=
  let ps := es.flatMap fun e => (List.range e.2).map fun k => (e.1.seq, e.1.len + k)
  (List.range ps.length).map fun i =>
    let x := ps.getD i (0, 0)
    let slot := ((w.slots.find? fun y => decide (y.seq = x.1) && decide (y.page = x.2 / 16)).map (·.slot)).getD 0
    ⟨x.1, x.2, slot, i⟩

/-- The scale run of chunk q: 16 rows of s bytes for each PAGE_IDX entry (R271). -/
def State.scaleRun (s : State) (p : Pool) (l g q : Nat) (pages : List (Option (KvSeq × Nat))) : List PByte :=
  pages.flatMap fun e =>
    match e with
    | none => List.replicate (16 * p.s) (some 0)
    | some (x, page) => (List.range 16).flatMap fun t => ((s.rowScales p x page l g t).drop (q * p.s)).take p.s

/-- Steps 3 to 5: map, gather and index (R274). -/
def State.gatherWin (s : State) (c : Cmd) (p : Pool) (w0 : KvWin) (es : List (KvSeq × Nat)) (sels : List (List Nat))
    (idx : Nat) (m : Medium) : State :=
  let all := (List.range es.length).flatMap fun i =>
    ((sels.getD i []).map fun pg => (((es[i]?).map fun e => e.1.seq).getD 0, pg))
  let distinct := all.eraseDups
  let hits := (distinct.filter fun a => w0.slots.any fun x => decide (x.seq = a.1) && decide (x.page = a.2) && !x.stale).length
  let t := s.tickStamp
  let w1 := { w0 with slots := distinct.foldl (mapPage w0.nslot t.1 distinct) w0.slots }
  let napp := sumOver (·.2) es
  let ar := winAreas p w0.base w0.nslot es.length w0.maxp napp
  let ix := idxAreas idx es.length w0.maxp napp
  let apps := appendsOf w1 es
  let pe := s.winEng w0.die w0.eng
  let r := (List.range distinct.length).foldl (fun (q : State × KvWin × Option (Nat × Nat)) i =>
    let a := distinct.getD i (0, 0)
    match q.2.1.slots.find? fun x => decide (x.seq = a.1) && decide (x.page = a.2), es.find? fun e => decide (e.1.seq = a.1) with
    | some sl, some e =>
      let keep := min 16 (e.1.len - 16 * a.2)
      if sl.stale then
        let g := q.1.gatherPage w0 p e.1 sl.slot a.2 keep (if i = 0 then m else .good)
        let w' := { q.2.1 with slots := q.2.1.slots.map fun x => if x = sl then { sl with stale := g.2.isSome } else x }
        (g.1, w', match q.2.2 with | some b => some b | none => g.2.map fun st => (st, a.2))
      else if 16 * (a.2 + 1) ≤ e.1.len ∨ e.2 = 0 then q
      else
        let zeros := List.replicate ((16 - keep) * p.stride) (some (0 : Byte))
        (q.1.spadPut w0.die pe (w0.base + sl.slot * p.pb + keep * p.stride) zeros, q.2.1, q.2.2)
    | _, _ => q) (t.2.count (Reg.KV_HIT_CNT w0.bay) hits, w1, none)
  let entries (f : KvSeq → Nat → Option Int) : List Int := (List.range es.length).flatMap fun i =>
    let ps := sels.getD i []
    match es[i]? with
    | none => []
    | some e => (List.range w0.maxp).map fun j => ((ps[j]?).bind (f e.1)).getD (-1)
  let slotOf (x : KvSeq) (pg : Nat) : Option Int :=
    (r.2.1.slots.find? fun y => decide (y.seq = x.seq) && decide (y.page = pg)).map fun y => (y.slot : Int)
  let runs := if p.scale = 0 then [] else
    (List.range (p.elems / passDepth p.fmtK)).flatMap fun q => r.1.scaleRun p w0.layer w0.group q
      ((List.range es.length).flatMap fun i => (List.range w0.maxp).map fun j =>
        (es[i]?).bind fun e => ((sels.getD i [])[j]?).map fun pg => (e.1, pg))
  let s1 := if runs = [] then r.1 else r.1.spadPut w0.die pe ar.1 runs
  let s2 := (((s1.spadPut w0.die pe idx (i32Bytes (entries slotOf))).spadPut w0.die pe ix.1
    (i32Bytes (entries fun _ pg => some (pg : Int)))).spadPut w0.die pe ix.2.1 (i32Bytes (es.map fun e => (e.1.len : Int)))).spadPut
    w0.die pe ix.2.2.1 (i32Bytes (es.map fun e => if e.1.adapter = 0xFFF then -1 else (e.1.adapter : Int)))
  let s3 := s2.spadPut w0.die pe ix.2.2.2.1 (i32Bytes (apps.map fun a => ((a.slot * 16 + a.pos % 16 : Nat) : Int)))
  let s4 := s3.setWin { r.2.1 with appends := apps, newRows := ar.2.1 }
  match r.2.2 with
  | none => s4.endsWith c St.OK
  | some (st, pg) => s4.finish c st (s4.spadDetail w0.die w0.eng st (w0.base + pg)).1 (s4.spadDetail w0.die w0.eng st (w0.base + pg)).2

/-- The slots of a committed window that its next window may not reuse: those whose page it appended to. -/
def staleSlots (o : KvWin) : List KvSlot :=
  o.slots.map fun x =>
    if (o.appends.any fun a => decide (a.seq = x.seq) && decide (a.pos / 16 = x.page)) then { x with stale := true } else x

/-- The query digests of a WINDOW update that selects pages. -/
def State.windowQuery (s : State) (c : Cmd) : State × List PByte × Acc :=
  if c.p 0 11 1 = 1 then s.vaRead (.cmd c.q c.seq) (c.bay.getD 0) (c.p64 8) (256 * c.p 5 0 11) else (s, [], .ok)

/-- The window of a WINDOW update: its entries and pages, then its gathering, once nothing rejects it (R269, R270). -/
def State.ptGather (s : State) (c : Cmd) (m : Medium) (es : List (Nat × Nat)) (query : List Byte) : State :=
  let b := c.bay.getD 0
  let n := c.p 0 0 2
  let p := s.poolOf b n
  let napp := sumOver entryAppend es
  match s.winCheck c p napp with
  | some (st, d0, d1) => s.finish c st d0 d1
  | none =>
    let w0 := s.bindWin c b
    let s1 := match s.kv.wins.find? fun w => decide (w.bay = b) && decide (w.win = c.p 0 3 8) with
      | none => s
      | some o => (s.commitWin o).setWin { o with appends := [], slots := staleSlots o }
    let wk := s1.bindWin c b
    let xs := es.map fun e => ((s1.kvSeq b n (bitsAt e.1 0 14)).getD ⟨b, n, 0, 0, 0, 0, [], 0, 0, 0, []⟩, entryAppend e)
    let sels := (List.range xs.length).map fun i =>
      match xs[i]? with
      | none => []
      | some x => s1.selectPages c p x.1 i x.2 query
    let most := (sels.map List.length).foldl max 0
    let distinct := ((List.range xs.length).flatMap fun i => (sels.getD i []).map fun pg =>
      (((xs[i]?).map fun e => e.1.seq).getD 0, pg)).eraseDups.length
    if w0.maxp < most then s1.finish c St.WINDOW_FULL (kvDetail 0 n 0) most
    else if w0.nslot < distinct then s1.finish c St.WINDOW_FULL (kvDetail 0 n 0) distinct
    else s1.gatherWin c p wk xs sels (c.p 11 0 20) m

/-- The entries of a WINDOW update, once they are read. -/
def State.ptEntries (s : State) (c : Cmd) (m : Medium) (es : List (Nat × Nat)) (query : List Byte) : State :=
  let b := c.bay.getD 0
  let n := c.p 0 0 2
  match planAll (windowEntry s b n) es with
  | .fail st d0 d1 => s.finish c st d0 d1
  | .ok _ =>
    let napp := sumOver entryAppend es
    if 16384 < napp then s.finish c St.WINDOW_FULL (kvDetail 0 n 0) napp else s.ptGather c m es query

/-- The sequence list and the query digests of a WINDOW update. -/
def State.ptRead (s : State) (c : Cmd) (m : Medium) : State :=
  let r := s.kvList c (c.p64 6) (c.p 5 0 11)
  let rq := r.1.windowQuery c
  match r.2.2.and rq.2.2 with
  | .wait => rq.1
  | .fail st va => rq.1.kvListFails c st va
  | .ok => rq.1.ptEntries c m r.2.1 (rq.2.1.map pbyte)

/-- What a WINDOW update is rejected for before it reads its list. -/
def State.ptRejects (s : State) (c : Cmd) : Option Nat :=
  let b := c.bay.getD 0
  let n := c.p 0 0 2
  let p := s.poolOf b n
  if !s.poolValid b n then some St.BAD_POOL
  else if p.layers ≤ c.p 4 0 8 ∨ p.groups ≤ c.p 4 8 6 then some St.ILLEGAL_FIELD
  else if c.p 0 11 1 = 1 ∧ !p.digest then some St.DIGEST_OFF
  else none

/-- PT_UPDATE in WINDOW mode (R274), with its checks first (R269, R270). -/
def State.ptWindow (m : Medium) (c : Cmd) (s : State) : State :=
  if c.p 0 2 1 = 1 then s
  else
    match s.ptRejects c with
    | some st => s.finish c st (if St.ILLEGAL_FIELD = st then 0 else kvDetail 0 (c.p 0 0 2) 0) 0
    | none => s.ptRead c m

/-! ### Swap (R282, R283) -/

/-- The object that holds the swap area of `n` slabs. -/
def State.swapObj (s : State) (b va n : Nat) : Option Obj :=
  match s.objAt b (va / 65536) with
  | none => none
  | some o =>
    if o.home = 1 ∧ !o.fill ∧ o.layout = 4 ∧ o.migr = 0 ∧ va / 65536 + n ≤ o.base + o.n then some o else none

/-- The physical slabs of a sequence in order. -/
def KvSeq.slabs (x : KvSeq) : List Nat := x.blocks.flatten

/-- PAGE_SWAP_OUT begins: every slab is written to the swap area. `m`: what the first slab's read met. -/
def State.swapOut (m : Medium) (c : Cmd) (s : State) : State :=
  let b := c.bay.getD 0
  let n := c.p 0 0 2
  let q := c.p 1 0 14
  let fail (st : Nat) : State := s.finish c st (kvDetail q n 0) 0
  if !s.poolValid b n then fail St.BAD_POOL
  else
    match s.kvSeq b n q with
    | none => fail St.BAD_SEQ
    | some x =>
      let va := c.p64 2
      if x.state ≠ seqActive then fail St.SEQ_SWAPPED
      else if s.kv.wins.any fun w => decide (w.bay = b) && decide (w.pool = n) && w.appends.any fun a => decide (a.seq = q) then
        fail St.SEQ_BUSY
      else
        match s.swapObj b va x.slabs.length with
        | none => fail St.SWAP_AREA
        | some o =>
          let g := match x.slabs.head? with
            | none => (s, none)
            | some loc => s.meetMedium m (groupOf loc) (loc * 65536) va b false
          match g.2 with
          | some st => g.1.kvListFails c st va
          | none =>
            match (x.slabs.filter fun loc => (List.range 512).any fun i => markGet g.1.mem.poison (loc * 512 + i)).head? with
            | some _ => (g.1.sawBad b).kvListFails c St.POISONED va
            | none =>
              let s1 := ((g.1.setKvSeq { x with state := seqSwappingOut, swapVa := va }).dropSlots b n q).setCmd { c with ran := true }
              s1.forAll (List.range x.slabs.length) fun s i =>
                s.t3Send o.link (o.t3Addr (va + i * 65536)) (s.slab b (va / 65536 + i)).ver
                  (s.hbmGet (x.slabs.getD i 0 * 65536) 65536) o.plain

/-- The host link has acknowledged the last write, or failed it. -/
def State.swapOutEnds (s : State) (c : Cmd) (fail : Bool) : State :=
  let b := c.bay.getD 0
  match s.kvSeq b (c.p 0 0 2) (c.p 1 0 14) with
  | none => s.endsWith c St.OK
  | some x =>
    if fail then (s.setKvSeq { x with state := seqActive }).kvListFails c St.LOWER_TIER_FAIL x.swapVa
    else
      let s1 := s.forAll x.slabs fun s loc => s.giveSlab loc
      ((s1.setUsed b 0 (s1.used b 0 - x.slabs.length)).setKvSeq { x with state := seqSwapped, blocks := [] }).count
        (Reg.KV_SWAP_OUT_CNT b) x.nblk |>.endsWith c St.OK

/-- PAGE_SWAP_IN: admission, new slabs, and reads of the swap area. -/
def State.swapIn (c : Cmd) (s : State) : State :=
  let b := c.bay.getD 0
  let n := c.p 0 0 2
  let q := c.p 1 0 14
  if !s.poolValid b n then s.finish c St.BAD_POOL (kvDetail q n 0) 0
  else
    match s.kvSeq b n q with
    | none => s.finish c St.NOT_SWAPPED (kvDetail q n 0) 0
    | some x =>
      let p := s.poolOf b n
      let need := x.nblk * p.slabs
      if x.state ≠ seqSwapped then s.finish c St.NOT_SWAPPED (kvDetail q n 0) 0
      else
        match s.swapObj b x.swapVa need with
        | none => s.finish c St.SWAP_AREA (kvDetail q n 0) 0
        | some o =>
          match s.admitUnits c b [(0, need)] with
          | .waits s' => s'
          | .refused s' => s'
          | .served c' s' =>
            match s'.growSeq p x (x.nblk + 1) with
            | none => (s'.setUsed b 0 (s'.used b 0 - need)).finish c' St.CAPACITY (refusalDetail 0 need) 0
            | some (s1, y) =>
              let s2 := (s1.setKvSeq { y with state := seqSwappingIn }).setCmd { c' with ran := true }
              s2.forAll (List.range need) fun s i =>
                (s.setT3 (s.mem.t3 ++ [⟨b, x.swapVa / 65536 + i, o.link, x.swapVa + i * 65536, 65536, false, [.cmd c.q c.seq], none, [], [], [],
                  false⟩])).t3Fetch o.link (o.t3Addr (x.swapVa + i * 65536)) 65536

/-- Every slab of the swap area has arrived, or one has failed. -/
def State.swapInEnds (s : State) (c : Cmd) : State :=
  let b := c.bay.getD 0
  match s.kvSeq b (c.p 0 0 2) (c.p 1 0 14) with
  | none => s.endsWith c St.OK
  | some x =>
    let mine := s.mem.t3.filter fun a => decide (a.bay = b) && !a.fill && a.waits (.cmd c.q c.seq)
    let drop (t : State) : State := t.setT3 (t.mem.t3.filter fun a => !mine.contains a)
    let bad := mine.findSome? fun a =>
      match a.res with
      | some st => some (st, a.va)
      | none => if anyPoison a.data then some (St.POISONED, a.va + firstPoison a.data) else none
    match bad with
    | some (st, va) =>
      let s1 := (drop s).forAll x.slabs fun s loc => s.giveSlab loc
      ((s1.setUsed b 0 (s1.used b 0 - x.slabs.length)).setKvSeq { x with state := seqSwapped, blocks := [] }).kvListFails c st va
    | none =>
      if (mine.any fun a => decide (a.data = [])) then s
      else
        let s1 := (drop s).forAll mine fun s a =>
          let loc := x.slabs.getD (a.slab - x.swapVa / 65536) 0
          s.onMem fun w => { w with hbm := rangePut w.hbm (loc * 65536) (a.data.map pbyte) }
        ((s1.setKvSeq { x with state := seqActive }).count (Reg.KV_SWAP_IN_CNT b) x.nblk).endsWith c St.OK

/-! ### Meanings -/

def execPageAlloc (c : CmdRef) (s : State) : Outcome State Fault Refusal := .next (s.perform 0x18 c State.pageAlloc)
def execPageFree (c : CmdRef) (s : State) : Outcome State Fault Refusal := .next (s.perform 0x19 c State.pageFree)
/-- PAGE_SWAP_OUT: first the writes, then, once the host link has acknowledged them, the end. -/
def execPageSwapOut (c : CmdRef) (m : Medium) (fail : Bool) (s : State) : Outcome State Fault Refusal :=
  .next ((s.running 0x1A c fun x t => t.swapOutEnds x fail).perform 0x1A c (State.swapOut m))
def execPageSwapIn (c : CmdRef) (s : State) : Outcome State Fault Refusal :=
  .next ((s.running 0x1B c fun x t => t.swapInEnds x).perform 0x1B c State.swapIn)
def execPtUpdateWindow (c : CmdRef) (m : Medium) (s : State) : Outcome State Fault Refusal :=
  .next (s.perform 0x1C c (State.ptWindow m))
def execPtUpdateAdvance (c : CmdRef) (s : State) : Outcome State Fault Refusal := .next (s.perform 0x1C c State.advance)

end Sys2Proof.Machine
end

