-- ==== Sys2Proof/Machine/Mesh.lean ====
section
/-! DEFINITION. The package mesh: requests, responses, incarnation broadcasts and the age of packets (R25, R31 to
R34, R434). -/

namespace Sys2Proof.Machine

open Host (Outcome)

/-- The incarnation of die d in the copy that router r keeps (R31). -/
def State.routerCopy (s : State) (r d : Nat) : Nat := (mget (fun _ => (0 : Byte)) s.mesh.copies (r * 32 + d)).toNat

def State.setRouterCopy (s : State) (r d : Nat) (v : Byte) : State :=
  s.onMesh fun m => { m with copies := mset (fun _ => 0) m.copies (r * 32 + d) v }

/-- How the destination's router answers a request (R32): none delivers it. -/
def State.meshVerdict (s : State) (p : MeshPkt) : Option Nat :=
  if p.dstInc.toNat ≠ s.routerCopy p.dst.val p.dst.val then some St.TARGET_RESET else s.dieRefuses p.dst.val

/-- MESH_REQUEST: delivered, or ended with a status at its sender. -/
def State.meshRequest (s : State) (p : MeshPkt) : State :=
  match s.meshVerdict p with
  | some st => s.emit (.meshEnd p.src.val p.id st)
  | none => (s.onMesh fun m => { m with reqs := m.reqs ++ [p] }).emit (.meshDeliver p.dst.val p.id)

/-- Incarnation `inc` is older than the copy `now`, modulo 256 (R30, R33). -/
def olderInc (inc now : Nat) : Bool := decide (inc ≠ now) && decide ((now + 256 - inc) % 256 < 128)

/-- A response that the router of its destination drops: an old responder, an earlier incarnation of the requester
(R33), or a die from DRAINED onward (R434). -/
def State.meshDrops (s : State) (p : MeshPkt) : Bool :=
  olderInc p.srcInc.toNat (s.routerCopy p.dst.val p.src.val) ||
    decide (p.dstInc.toNat ≠ s.routerCopy p.dst.val p.dst.val) ||
    decide (s.dieState p.dst.val = dieDrained) || decide (s.dieState p.dst.val = dieOff)

/-- MESH_RESPONSE: `p` travels from the responder to the requester and echoes the requester's incarnation. -/
def State.meshResponse (s : State) (p : MeshPkt) : State :=
  if s.meshDrops p then
    (s.count (Reg.INCARN_DROP_CNT p.dst.val) 1).lateArrival (.drain p.dst.val) fun s =>
      s.lateRecord p.dst.val St.DOMAIN_CLOSED 0 0 (p.bay.map (·.val)) none 0
  else
    match s.mesh.reqs.find? fun r => decide (r.src = p.dst) && decide (r.dst = p.src) && decide (r.id = p.id) with
    | none => s
    | some r => (s.onMesh fun m => { m with reqs := m.reqs.erase r }).emit (.meshAnswer p.dst.val p.id)

/-- Requests that satisfy `f` end with a status at their senders. -/
def State.endMesh (s : State) (st : Nat) (f : MeshPkt → Bool) : State :=
  (s.onMesh fun m => { m with reqs := m.reqs.filter fun r => !f r }).emits
    ((s.mesh.reqs.filter f).map fun r => .meshEnd r.src.val r.id st)

/-- INCARN_BROADCAST_APPLY of the value that INCARN_TABLE now holds for the die (R31, R33). -/
def State.incarnApply (s : State) (r d : Nat) (inc : Byte) : State :=
  if inc.toNat ≠ s.incarn d ∨ inc.toNat = s.routerCopy r d then s
  else (s.endMesh St.TARGET_RESET fun p => decide (p.src.val = r) && decide (p.dst.val = d)).setRouterCopy r d inc

/-- MESH_PACKET_AGE_EXPIRY: a packet more than 4 µs old is discarded at a router (R25); its record is the late
arrival's (R431, Table 15-3). -/
def State.meshStale (s : State) (r : Nat) (p : MeshPkt) : State :=
  if p.age ≤ 4000 then s
  else (s.count (Reg.MESH_STALE_CNT r) 1).raise
    { errRequest r St.MESH_ERROR 0 0 (p.bay.map (·.val)) 0 with late := true }

def execMeshRequest (p : MeshPkt) (s : State) : Outcome State Fault Refusal := .next (s.meshRequest p)
def execMeshResponse (p : MeshPkt) (s : State) : Outcome State Fault Refusal := .next (s.meshResponse p)
def execIncarnBroadcastApply (router die : DieId) (inc : Byte) (s : State) : Outcome State Fault Refusal :=
  .next (s.incarnApply router.val die.val inc)
def execMeshPacketAgeExpiry (router : DieId) (p : MeshPkt) (s : State) : Outcome State Fault Refusal :=
  .next (s.meshStale router.val p)

end Sys2Proof.Machine
end

