-- ==== Sys2Proof/Machine/Recover.lean ====
section
/-! DEFINITION. What handling does: engine test, spare and replay (R436 to R439), die power operations and partial reset
(R432 to R434), die loss (R440), edge-die and device faults (R441), and the health monitor's rows (R442, R443). -/

namespace Sys2Proof.Machine

open Host (Outcome)

/-! ### Entering and leaving reset -/

def State.dieOp (s : State) (d : Nat) : DieOp := mget (fun _ => DieOp.none) s.flt.dieOps d
def State.setDieOp (s : State) (d : Nat) (o : DieOp) : State :=
  s.onFlt fun f => { f with dieOps := mset (fun _ => DieOp.none) f.dieOps d o }

/-- A die's registers outside its common block return to their reset values; RWS fields are kept (R8, R432). -/
def State.resetDieRegs (s : State) (d : Nat) : State :=
  let keep (a : Nat) : Bool := decide (a = Reg.ERR_OVF_CNT d) ||
    (decide (20 ≤ d) && (decide (dieBase d + 0x90000 ≤ a) ||
      (List.range 2).any fun i => decide (a = Reg.PORT_CFG d i) || decide (a = Reg.LANE_CORR_MAX d i) ||
        (List.range 64).any fun j => decide (a = Reg.SLOT d i j)) || decide (a = Reg.HBM_TAG_EN d))
  { s with regs := mclear s.regs fun a =>
      decide (dieBase d + 0x4000 ≤ a) && decide (a < dieBase d + 0x100000) && !keep a }

/-- What a die holds is gone: engines, loft and program cache, error domain, slot maps of its windows, transfers to and
from it, tests of its engines (R134, R276, R427, R432). -/
def State.dieContentsLost (s : State) (d : Nat) : State :=
  let t := s.draw
  let s1 := t.2.onLofts fun l => { l with
    bytes := mclear l.bytes fun k => decide (k / 2 ^ 25 = d)
    poison := mclear l.poison fun k => decide (k / 2 ^ 22 = d)
    lost := if d < 20 then mset (fun _ => 0) l.lost d (t.2.free + 1) else l.lost
    fresh := mclear l.fresh fun k => decide (k / 2 ^ 25 = d)
    pcache := l.pcache.filter fun c => decide (c.die ≠ d)
    clr := mset (fun _ => 0) l.clr d 0 }
  let s2 := { s1 with engines := mclear s1.engines fun k => decide (k / 64 = d) }
  let s3 := (s2.setDomain d .empty).kvDieReset d
  let s4 := s3.onFlt fun f => { f with tests := f.tests.filter fun x => decide (x.die ≠ d) }
  let s5 := s4.onMesh fun m => { m with reqs := m.reqs.filter fun r => decide (r.src.val ≠ d) }
  let s6 := { s5 with pins := { s5.pins with scan := putBits s5.pins.scan d 1 0 } }
  ((s6.resetDieRegs d).scrubDie d false).scrubDieDone d false

/-- Requests that an edge die carries end with TARGET_RESET, and collectives homed there end (R32, R390, R441). -/
def State.edgeRequestsEnd (s : State) (d : Nat) : State :=
  let det := s.dieDetail d
  let cut (r : FabReq) : FabReq :=
    if r.open_ && decide (portDie r.port = d) then { r with st := .ended St.TARGET_RESET det 0 [] } else r
  let behind (a : T3Acc) : Bool :=
    match (s.slab a.bay a.slab).copy with
    | some c => decide (edgeOfGroup (groupOf c.loc) = d)
    | none => false
  let stop (a : T3Acc) : T3Acc := if a.res.isNone && a.fill && behind a then { a with res := some St.TARGET_RESET } else a
  let s1 := s.onFab fun f => { f with reqs := f.reqs.map cut }
  let s2 := s1.onMem fun m => { m with t3 := m.t3.map stop }
  s2.collDieReset d

/-- A started command with work on compute die d. -/
def Cmd.worksOn (c : Cmd) (d : Nat) : Bool :=
  decide (c.phase = .started) &&
    ((decide (c.op = 1) && decide (launchDie c = d)) ||
      ((decide (c.op = 2) || decide (c.op = 3)) &&
        ((decide (c.op = 2) && decide (c.src.space ≠ 0) && decide (c.src.die = d)) ||
          (decide (c.dst.space ≠ 0) && decide (c.dst.die = d)) ||
          (decide (c.op = 2) && decide (c.src.space = 0) && decide (apertureBase ≤ c.src.addr) && decide ((aperture c.src.addr).1 = d)) ||
          (decide (c.dst.space = 0) && decide (apertureBase ≤ c.dst.addr) && decide ((aperture c.dst.addr).1 = d)))) ||
      (decide (c.op = 6) && decide (c.p 0 0 5 = d)) ||
      (decide (c.op = 0x1C) && decide (c.p 0 2 1 = 0) && decide (c.p 1 0 5 = d)))

/-- Programs of a compute die are abandoned, waiting launches leave, and commands with work on the die end with a status. -/
def State.dropWork (s : State) (d st : Nat) : State :=
  let s1 := s.forAll (List.range 52) fun s p =>
    let s' := s.killRun d p
    let e := s'.eng d p
    (s'.forAll e.iq fun s l => s.setUsed l.bay 2 (s.used l.bay 2 - 1)).setEng d p { e with iq := [], xfers := [], unacked := [], siges := [] }
  let s2 := s1.onFlt fun f => { f with tests := f.tests.filter fun x => decide (x.die ≠ d) }
  s2.forAll (s2.cq.cmds.filter fun c => c.worksOn d) fun s c => s.endsDie c d st

/-- A die enters reset: its incarnation rises and what it held is gone (R30 to R33). -/
def State.enterReset (s : State) (d : Nat) : State :=
  let s1 := (s.bumpIncarn d).setDieState d dieInReset
  let s2 := if 20 ≤ d then
      (s1.forAll (List.range 2) fun s i => s.setPortX ((d - 20) * 2 + i) .zero).edgeRequestsEnd d
    else s1.dropWork d St.TARGET_RESET
  s2.dieContentsLost d

/-- A die enters ON: both thresholds are armed (R443). -/
def State.enterOn (s : State) (d : Nat) : State := ((s.setDieState d dieOn).ercArm d 0).ercArm d 1

/-- A die leaves reset: firmware powers every mapped engine (R77); an edge die's stacks
train, all four groups of each usable, and its ports that expect a partner train. -/
def State.leaveReset (s : State) (d : Nat) : State :=
  let s1 := s.enterOn d
  if d < 20 then
    s1.forAll (List.range 48) fun s l =>
      let p := s.physOf d l
      if p = 0x3F then s else (s.setReg (Reg.ENG_PWR d p) 1).setPwr d p 3
  else
    (s1.forAll [0, 1] fun s m => s.setReg (Reg.HBM_STATUS d m) 0x3D).forAll (List.range 2) fun s i =>
      if s.fld (Reg.PORT_CFG d i) 0 1 = 1 ∧ !s.deviceFault then s.enterPort ((d - 20) * 2 + i) portDetect 0 else s

/-! ### Die power operations (R432 to R434) -/

/-- Whether Table 15-4 allows the operation from the die's state. -/
def State.opAllowed (s : State) (d op : Nat) : Bool :=
  let st := s.dieState d
  let cur := (s.dieOp d).op
  if cur = 2 ∨ cur = 4 ∨ cur = 5 then false
  else
    match op with
    | 1 => decide (st = dieOn)
    | 2 => decide (st = dieDrained)
    | 3 => decide (st = dieClosed) || decide (st = dieDrained)
    | 4 => decide (st = dieOff)
    | 5 => decide (st = dieOn)
    | _ => false

/-- An operator's write is accepted for a compute die in no bay, or for PARTIAL_RESET of an edge die while no bay is
BUILDING or RUNNING. -/
def State.operatorMay (s : State) (d op : Nat) : Bool :=
  if d < 20 then (s.bayOfDie d).isNone
  else decide (op = 5) && !((List.range 16).any fun b => decide (s.bayState b = bayBuilding) || decide (s.bayState b = bayRunning))

def State.doOp (s : State) (d op : Nat) (loss : Bool) : State :=
  match op with
  | 1 => (s.setDieState d dieClosed).setDieOp d ⟨1, loss, s.now⟩
  | 2 => s.setDieOp d ⟨2, loss, s.now⟩
  | 3 => (s.setDieOp d .none).enterOn d
  | 4 => (s.enterReset d).setDieOp d ⟨4, loss, s.now⟩
  | _ => (s.enterReset d).setDieOp d ⟨5, loss, s.now⟩

/-- A write of DIE_PCTRL: accepted, or discarded with its bit of DIE_PCTRL_REFUSED. -/
def State.pctrl (s : State) (by_ : Agent) (d op : Nat) : State :=
  if 24 ≤ d ∨ !s.apexUp then s
  else if s.opAllowed d op && (decide (d < 20) || decide (op = 5)) &&
      (match by_ with | .firmware => true | .link _ => s.operatorMay d op) then
    (s.setFld Reg.DIE_PCTRL_REFUSED d 1 0).doOp d op false
  else s.setFld Reg.DIE_PCTRL_REFUSED d 1 1

/-- Nothing of the die is outstanding (R434). -/
def State.dieIdle (s : State) (d : Nat) : Bool :=
  s.dieQuiet d && !(s.mesh.reqs.any fun r => decide (r.src.val = d) || decide (r.dst.val = d))

/-- The die is DRAINED; a die loss goes on to OFF (R440). -/
def State.drained (s : State) (d : Nat) : State :=
  let o := s.dieOp d
  let s1 := s.setDieState d dieDrained
  if o.loss then s1.setDieOp d ⟨2, true, s.now⟩ else s1.setDieOp d .none

def State.dieDrainedRow (s : State) (d : Nat) : State :=
  if s.dieState d = dieClosed ∧ s.dieIdle d then (s.drained d).clearLate (.drain d) else s

/-- The drain limit (R434): from here on responses to the die are late (R431, Table 15-3). -/
def State.drainLimit (s : State) (d : Nat) : State :=
  if s.dieState d = dieClosed ∧ (s.dieOp d).start + 10000 ≤ s.now then
    ((s.drained d).armLate (.drain d)).endMesh St.DOMAIN_CLOSED fun r => decide (r.dst.val = d)
  else s

/-! ### Die loss (R440) -/

/-- Work on the die ends DIE_LOST, and the die is closed. -/
def State.dieLoss (s : State) (d : Nat) : State :=
  let s3 := s.dropWork d St.DIE_LOST
  let st := s3.dieState d
  if st = dieDrained then s3.setDieOp d ⟨2, true, s.now⟩
  else if st = dieOn ∨ st = dieClosed then (s3.setDieState d dieClosed).setDieOp d ⟨1, true, s.now⟩
  else s3

/-- Engines of the die leave every role group. -/
def State.dropRoles (s : State) (b d : Nat) : State :=
  s.forAll (List.range 6) fun s i => s.setReg (Reg.ROLE_ENG_MAP b (6 * d + i)) 0xFFFFFFFF

/-- The lost die is OFF: it is quarantined and leaves its bay; the last die of a bay takes the bay with it. -/
def State.dieGone (s : State) (d : Nat) : State :=
  let s1 := s.setFld Reg.DEV_QUARANTINE d 1 1
  let s2 :=
    match s.bayOfDie d with
    | none => s1
    | some b =>
      let t := ((((s1.setFld (Reg.BAY_DIES b) d 1 0).dropRoles b d).setFld (Reg.BAY_FAULT_STATUS b) (1 + d) 1 1)).bayFaultNotice b
      if t.reg (Reg.BAY_DIES b) = 0 ∧ (t.bayState b = bayBuilding ∨ t.bayState b = bayRunning) then t.teardown b 3 else t
  if (s2.handlingOf d).any fun h => decide (h.level = 3) then s2.endHandling d else s2

/-- DIE_POWER_OP_DONE: OFF, or ON after a POWER_ON or PARTIAL_RESET; an edge die's handling ends with it. -/
def State.opDone (s : State) (d : Nat) : State :=
  let o := s.dieOp d
  match o.op with
  | 2 =>
    let s1 := ((s.setDieState d dieOff).setDieOp d .none).dieContentsLost d
    if o.loss then s1.dieGone d else s1
  | 4 => (s.setDieOp d .none).leaveReset d
  | 5 =>
    let s1 := (s.setDieOp d .none).leaveReset d
    if 20 ≤ d ∧ ((s1.handlingOf d).any fun h => decide (h.level = 3)) then s1.endHandling d else s1
  | _ => s

/-! ### Levels DIE, BAY and DEVICE -/

/-- A device-level fault reaches the bays as a bare count (R416). -/
def State.deviceNotice (s : State) : State :=
  s.forAll ((List.range 16).filter fun b => decide (s.bayState b ≠ bayFree)) fun s b =>
    (s.setFld (Reg.DEV_NOTICE b) 16 16 (min 0xFFFF (s.fld (Reg.DEV_NOTICE b) 16 16 + 1))).notice b (s.reg (Reg.DEV_NOTICE_CFG b))

/-- DEVICE level: the notice, the scrub, every port DISABLED; it holds until PKG_RESET_N (R441). -/
def State.deviceLevel (s : State) : State :=
  if s.flt.device then s
  else
    let s1 := s.deviceNotice.onFlt fun f => { f with device := true }
    ((s1.forAll (List.range 8) fun s p => s.enterPort p portDisabled 0).scrubStart 0).pldmEvent 3 24 5

/-- The first steps of a die's handling (Table 15-2). -/
def State.handle (s : State) (h : Handling) : State :=
  let s1 := s.setHandling { h with todo := false }
  if h.level = 5 then s1.deviceLevel
  else if h.die < 20 then
    if h.level = 3 then s1.dieLoss h.die
    else if h.level = 4 then
      match s1.bayOfDie h.die with
      | none => s1.endHandling h.die
      | some b =>
        if s1.bayState b = bayBuilding ∨ s1.bayState b = bayRunning then s1.teardown b 2
        else if s1.bayState b = bayTeardown then s1
        else s1.endHandling h.die
    else s1
  else
    let s2 := s1.deviceNotice
    if s2.dieState h.die = dieOn then s2.doOp h.die 5 true else s2

/-- Firmware takes up every handling that is due. -/
def State.settle (s : State) : State := s.forAll (s.flt.handling.filter fun h => h.todo) State.handle

/-- EDGE_RETURN_TIMEOUT: an edge die not ON 1 ms after its handling's reset escalates to DEVICE (R441). -/
def State.edgeReturn (s : State) (d : Nat) : State :=
  if s.dieState d ≠ dieOn ∧ (s.dieOp d).start + 1000000 ≤ s.now ∧ ((s.handlingOf d).any fun h => decide (h.level = 3)) then
    s.raise ⟨d, 5, St.DEVICE_FAULT, 0, 0, none, none, 0, [s.dieDetail d], false, 0⟩
  else s

/-! ### Engine test, spare and replay (R436 to R439) -/

/-- Replay is enabled for the role group of the launch's queue. -/
def State.replayOn (s : State) (l : Launch) : Bool :=
  let r := s.queueRole l.q
  decide (r < 8) && decide (s.fld (Reg.REPLAY_CFG l.bay) r 1 = 1)

/-- The logical engine of the launches is now physical engine p. -/
def State.moveParts (s : State) (d log p : Nat) : State :=
  s.onCq fun q => { q with cmds := q.cmds.map fun c =>
    if c.op = 1 ∧ launchDie c = d then
      { c with parts := c.parts.map fun x => if x.log = log ∧ !x.done then { x with phys := p } else x }
    else c }

def State.reenter (s : State) (d p : Nat) (l : Launch) : State :=
  s.enqueue d p { l with fetch := if (s.eng d p).isResident l.handle then .ready else .fetching }

/-- The engine is cleared with the lost code, and the launches enter its queue again, the failed one first (R436, R437). -/
def State.resume (s : State) (d p : Nat) (t : EngTest) (held : List Launch) : State :=
  let e := s.eng d p
  let s0 := s.setEng d p { Engine.zero with lost := true, evFlags := e.evFlags, progs := e.progs, resident := e.resident }
  let s1 := s0.onFlt fun f => { f with tests := f.tests.filter fun x => !(decide (x.die = d) && decide (x.phys = t.phys)) }
  match t.failed with
  | none => (s1.forAll held fun s l => s.reenter d p l).endHandling d
  | some l =>
    if s1.replayOn l then
      let s2 := (s1.count (Reg.REPLAY_CNT l.bay) 1).count Reg.REPLAY_TOTAL_CNT 1
      let s3 := s2.onFlt fun f => { f with tests := f.tests ++ [{ t with phys := p, failed := none, held := [], replaying := true }] }
      ((s3.setUsed l.bay 2 (s3.used l.bay 2 + 1)).reenter d p { l with replay := true }).forAll held fun s l => s.reenter d p l
    else ((s1.partEnd d p l t.status 0 0).forAll held fun s l => s.reenter d p l).endHandling d

/-- ENGINE_TEST_DONE: `pass` of the tested engine, `ok` of the spare's self-test. -/
def State.testDone (s : State) (d p : Nat) (pass ok : Bool) : State :=
  match s.flt.tests.find? fun t => decide (t.die = d) && decide (t.phys = p) && !t.replaying with
  | none => s
  | some t =>
    let e := s.eng d p
    let held := t.held ++ e.iq
    let s1 := s.setEng d p { e with testing := false, iq := [] }
    if pass then s1.resume d p t held
    else
      let s2 := s1.setFailed d p
      if t.log = 0x3F then
        (s2.onFlt fun f => { f with tests := f.tests.erase t }).endHandling d
      else
        match (s2.setSpare d t.log 0x3F).spares d with
        | [] =>
          let s3 := (s2.setSpare d t.log 0x3F).onFlt fun f => { f with tests := f.tests.erase t }
          let s4 := s3.forAll held fun s l => s.setUsed l.bay 2 (s.used l.bay 2 - 1)
          (s4.forAll (t.failed.toList ++ held) fun s l => s.partEnd d p l St.ENGINE_FAILED 0 0).endHandling d
        | q :: _ =>
          let s3 := ((s2.setSpare d t.log q).setReg (Reg.ENG_PWR d q) 1).setPwr d q 2
          ((s3.moveParts d t.log q).resume d q t held).selfTest d q ok

/-! ### Rows of the error domain -/

def State.fifoPop (s : State) (d : Nat) : State :=
  if s.dieState d ≠ dieOn then s
  else s.setDomain d { s.domain d with fifo := (s.domain d).fifo.drop 1 }

/-- ERC_TICK: the bias of one tick is lost (R442). -/
def State.ercTick (s : State) (d : Nat) : State :=
  if s.domainLive d then s.setReg (Reg.ERC d) (s.reg (Reg.ERC d) - s.fld (Reg.ERC_CFG d) 0 16) else s

/-- PRE_FAIL_N is driven (R444); it is released while PKG_RESET_N is low or VDD_AON is absent (R510). -/
def State.preFail (s : State) : Bool :=
  (decide (s.reg Reg.HM_STATUS ≠ 0) || s.flt.device) && !s.pins.resetLow && !s.pins.aonLost

/-! ### Meanings -/

def execErrFifoPop (die : DieId) (s : State) : Outcome State Fault Refusal := .next (s.fifoPop die.val)
def execEngineTestDone (die : CDie) (eng : PhysEng) (pass ok : Bool) (s : State) : Outcome State Fault Refusal :=
  .next (s.testDone die.val eng.val pass ok)
def execEdgeReturnTimeout (die : EDie) (s : State) : Outcome State Fault Refusal := .next (s.edgeReturn (20 + die.val))
def execCloseDie (by_ : Agent) (die : DieId) (s : State) : Outcome State Fault Refusal := .next (s.pctrl by_ die.val 1)
def execOffDie (by_ : Agent) (die : DieId) (s : State) : Outcome State Fault Refusal := .next (s.pctrl by_ die.val 2)
def execOpenDie (by_ : Agent) (die : DieId) (s : State) : Outcome State Fault Refusal := .next (s.pctrl by_ die.val 3)
def execPowerOn (by_ : Agent) (die : DieId) (s : State) : Outcome State Fault Refusal := .next (s.pctrl by_ die.val 4)
def execPartialReset (by_ : Agent) (die : DieId) (s : State) : Outcome State Fault Refusal := .next (s.pctrl by_ die.val 5)
def execDieDrained (die : CDie) (s : State) : Outcome State Fault Refusal := .next (s.dieDrainedRow die.val)
def execDrainLimitExpiry (die : CDie) (s : State) : Outcome State Fault Refusal := .next (s.drainLimit die.val)
def execDiePowerOpDone (die : DieId) (s : State) : Outcome State Fault Refusal := .next (s.opDone die.val)
def execErcTick (die : DieId) (s : State) : Outcome State Fault Refusal := .next (s.ercTick die.val)
/-- ERC_ARM and ERC_DISARM of DEGRADED (`failing` false) or FAILING. -/
def execErcArm (die : DieId) (failing : Bool) (s : State) : Outcome State Fault Refusal :=
  .next (if s.dieState die.val = dieOn then s.ercArm die.val (b2n failing 1) else s)
def execErcDisarm (die : DieId) (failing : Bool) (s : State) : Outcome State Fault Refusal :=
  .next (if s.dieState die.val = dieOn then s.ercDisarm die.val (b2n failing 1) else s)

end Sys2Proof.Machine
end

