-- ==== Sys2Proof/Machine/Firmware.lean ====
section
/-! DEFINITION. Firmware update and activation (R487 to R491). -/

namespace Sys2Proof.Machine

open Host (Outcome)

/-! ### Slots -/

def fwEmpty : Nat := 0
def fwTrial : Nat := 1
def fwCommitted : Nat := 2

/-- Slot 0 A or 1 B. -/
def State.slot (s : State) (n : Nat) : FwSlot := if n = 0 then s.mgmt.slotA else s.mgmt.slotB
def State.setSlot (s : State) (n : Nat) (x : FwSlot) : State :=
  s.onMgmt fun m => if n = 0 then { m with slotA := x } else { m with slotB := x }

/-- The running slot, GR_BOOT bit 0. -/
def State.runSlot (s : State) : Nat := s.fld Reg.GR_BOOT 0 1

/-- The image passes the checks of R396. -/
def State.accepts (s : State) (x : FwSlot) : Bool := x.signed && decide (s.mgmt.svnMin ≤ x.svn)

/-- A component's digest. -/
def FwSlot.part (x : FwSlot) (k : Nat) : List Nat := sha384 (Config.imagePart x.bytes k)

/-- FW_STATE (Table 16-8). -/
def State.fwState (s : State) : Nat :=
  s.runSlot + b2n (decide ((s.slot s.runSlot).st = fwTrial)) 2 + b2n s.anyStaged 4 + s.mgmt.slotA.st * 8 + s.mgmt.slotB.st * 32

/-- No image is staged: the S registers read zero. -/
def State.unstage (s : State) : State := s.forAll stagedIx fun s i => s.setDigest (stagedRegs i) zero48

/-! ### Update (R488) -/

def maxImage : Nat := 48 * 2 ^ 20

/-- The island can update the slot that is not running. -/
def State.updatable (s : State) (ep : Nat) : Bool :=
  s.epUp ep && !s.mgmt.rom && !s.mgmt.restarting && !s.pins.hold

/-- REQUEST_FIRMWARE_DATA: a block of at most 4,096 bytes is pulled and written into the slot that is not running. -/
def State.fwData (s : State) (ep : Nat) (bs : List Byte) (last : Bool) : State :=
  let n := 1 - s.runSlot
  let first := decide (s.mgmt.update ≠ 1)
  let x := if first then ⟨fwEmpty, 0, 0, 0, false, []⟩ else s.slot n
  let s0 := s.emit (.firmwareRequest x.bytes.length 4096)
  if !s.updatable ep then s
  else if 4096 < bs.length ∨ maxImage < x.bytes.length + bs.length then s0
  else
    let s1 := (if (s.slot n).st = fwTrial ∧ (s.slot n).tries ≠ 0 then s0.unstage else s0).setSlot n { x with bytes := x.bytes ++ bs }
    (s1.onMgmt fun m => { m with update := if last then 2 else 1, updOff := x.bytes.length + bs.length }).setFld Reg.MI_STATUS 2 1 1

/-- VERIFY_COMPLETE: success only when the image passes the checks of R396. -/
def State.fwVerify (s : State) (ep ua : Nat) : State :=
  let n := 1 - s.runSlot
  let x := s.slot n
  let y := { x with signed := Config.imageSigned x.bytes, svn := (Config.imageSvn x.bytes).toNat }
  if s.mgmt.update ≠ 2 ∨ !s.updatable ep then s
  else if s.accepts y then ((s.setSlot n y).onMgmt fun m => { m with update := 3 }).emit (.pldm ep ua [0x17, 0])
  else (((s.setSlot n y).onMgmt fun m => { m with update := 0 }).setFld Reg.MI_STATUS 2 1 0).emit (.pldm ep ua [0x17, 1])

/-- APPLY_COMPLETE: the slot is TRIAL with one try, and the staged measurements are loaded (R397). -/
def State.fwApply (s : State) (ep ua : Nat) : State :=
  let n := 1 - s.runSlot
  let x := s.slot n
  if s.mgmt.update ≠ 3 ∨ !s.updatable ep then s
  else
    let s1 := s.setSlot n { x with st := fwTrial, tries := 1, useq := (s.slot s.runSlot).useq + 1 }
    let s2 := s1.forAll stagedIx fun s i => s.setDigest (stagedRegs i) (extendMeas zero48 (x.part (if i = 5 then 4 else i)))
    ((s2.onMgmt fun m => { m with update := 0 }).setFld Reg.MI_STATUS 2 1 0).emit (.pldm ep ua [0x18, 0])

/-! ### Activation (R490) -/

/-- Registers of the Grithal controller that no chapter keeps through an apex restart (R8). -/
def State.grithalRegsReset (s : State) : State :=
  let s1 := (s.setReg Reg.TAMPER_CNT 0).setReg Reg.TRNG_FAIL_CNT 0
  if s.sec.scrub then s1 else (s1.setReg Reg.DSCRUB_STATUS 0).setReg Reg.DSCRUB_TIME 0

/-- The apex die restarts: a new incarnation, nonces lapse, sessions end, packet reads in flight are lost (R30, R399, R409). -/
def State.apexRestart (s : State) : State :=
  let s1 := (s.bumpIncarn 24).grithalRegsReset.endSessions
  let s2 := s1.onCq fun c => { c with queues := mmap queueDefault c.queues fun x => { x with fetch := none } }
  (s2.forAll (List.range 16) fun s b => if (s.bayKeys b).nonce.isSome then s.lapseNonce b else s).onMgmt fun m =>
    { m with restarting := true, measured := false }

/-- The apex die runs the image of slot n: M1 and M2, the seal key-agreement key, the load buffer, GR_BOOT (R397, R399, R479). -/
def State.runImage (s : State) (n : Nat) : State :=
  let x := s.slot n
  let s1 := (s.setDigest (Reg.MEAS 1) (extendMeas zero48 (x.part 1))).setDigest (Reg.MEAS 2) (extendMeas zero48 (x.part 2))
  let t := s1.draw
  let s2 := (t.2.onSec fun y => { y with ska := t.1 % (p384N - 1) + 1 }).setFld Reg.GR_BOOT 0 1 n
  (s2.setFld Reg.GR_BOOT 1 7 x.svn).onMgmt fun m =>
    { m with loadBuf := Config.imagePart x.bytes 4, measured := true, trialAt := s.now }

/-- The restarted apex die has measured the image it starts; S1 and S2 have taken effect. -/
def State.measureSettle (s : State) : State :=
  let n := 1 - s.runSlot
  if !s.mgmt.restarting || s.mgmt.measured || !(s.accepts (s.slot n)) then s
  else ((s.runImage n).setDigest (stagedRegs 1) zero48).setDigest (stagedRegs 2) zero48

/-- ACTIVATE_FIRMWARE with SelfContainedActivationRequest: the try is consumed and the apex die restarts; the answer gives an
estimated time of 1 s. Without a staged image: ACTIVATION_NOT_REQUIRED. -/
def State.activate (s : State) : State × List Nat :=
  let n := 1 - s.runSlot
  let x := s.slot n
  if !s.apexUp then (s, [4])
  else if x.st ≠ fwTrial ∨ x.tries = 0 then (s, [0x85])
  else (((s.setSlot n { x with tries := 0 }).apexRestart).onMgmt fun m => { m with actAt := s.now, fwFail := false }, [0, 1])

/-- Timers of the apex domain go on with the time they had left (R491). -/
def State.shiftTimers (s : State) (d : Nat) : State :=
  let bar (x : RtBar) : RtBar := { x with start := x.start + d, since := x.since.map fun e => (e.1, e.2 + d) }
  let s1 := s.onCq fun c => { c with
    cmds := c.cmds.map fun x => { x with startAt := x.startAt + d }
    phases := mmap phaseDefault c.phases fun x => if x.armed then { x with start := x.start + d } else x }
  let s2 := s1.onRt fun r => { r with models := mmap rtDefault r.models fun x => x.map fun m =>
    { m with arm := m.arm.map bar, abar := m.abar.map bar } }
  s2.onFlt fun f => { f with ckpts := mmap ckptDefault f.ckpts fun x => x.map fun c => { c with last := c.last + d } }

/-- A held completion is written. -/
def State.writeHeld (s : State) (k : Nat × Nat) : State :=
  match s.findCmd k.1 k.2 with
  | none => s
  | some c =>
    match c.phase with
    | .finished st d0 d1 => s.complete c st d0 d1 true
    | _ => s

/-- INTAKE_RESUME: held completions, records and messages go out in completion order. -/
def State.intakeResume (s : State) : State :=
  let t := s.measureSettle
  if !t.mgmt.restarting || !t.mgmt.measured then t
  else
    let held := t.mgmt.heldCmds
    let s1 := (t.onMgmt fun m => { m with restarting := false, heldCmds := [] }).shiftTimers (t.now - t.mgmt.actAt)
    (s1.forAll held State.writeHeld).flushVecs

/-- ACTIVATION_WATCHDOG: intake has not resumed within 300 ms; the apex die restarts from the COMMITTED slot. -/
def State.watchdog (s : State) : State :=
  if !s.mgmt.restarting ∨ s.now < s.mgmt.actAt + 300000000 ∨ s.mgmt.fwFail then s
  else
    let s1 := s.apexRestart.unstage.onMgmt fun m => { m with fwFail := true }
    match [s.runSlot, 1 - s.runSlot].find? fun n => decide ((s1.slot n).st = fwCommitted) && s1.accepts (s1.slot n) with
    | none => s1
    | some n => s1.runImage n

/-! ### Commitment (R489) -/

/-- FW_TRIAL_EXPIRY: FW_TRIAL_S seconds of KTIME without a DEVICE-level fault commit the running image. -/
def State.trialExpiry (s : State) : State :=
  let x := s.slot s.runSlot
  if x.st = fwTrial ∧ !s.deviceFault ∧ s.apexUp ∧ s.mgmt.trialAt + s.fld Reg.FW_TRIAL_S 0 16 * 1000000000 ≤ s.now then
    s.setSlot s.runSlot { x with st := fwCommitted }
  else s

/-! ### Meanings -/

def execRequestFirmwareData (ep : BitVec 2) (bytes : List Byte) (last : Bool) (s : State) : Outcome State Fault Refusal :=
  .next (s.fwData ep.toNat bytes last)
def execVerifyComplete (ep : BitVec 2) (ua : Byte) (s : State) : Outcome State Fault Refusal :=
  .next (s.fwVerify ep.toNat ua.toNat)
def execApplyComplete (ep : BitVec 2) (ua : Byte) (s : State) : Outcome State Fault Refusal :=
  .next (s.fwApply ep.toNat ua.toNat)
def execActivateFirmware (ep : BitVec 2) (src : Byte) (inst : BitVec 5) (s : State) : Outcome State Fault Refusal :=
  .next (s.pldmRequest ep.toNat src.toNat 5 inst.toNat State.activate)
def execIntakeResume (s : State) : Outcome State Fault Refusal := .next s.intakeResume
def execActivationWatchdog (s : State) : Outcome State Fault Refusal := .next s.watchdog
def execFwTrialExpiry (s : State) : Outcome State Fault Refusal := .next s.trialExpiry

end Sys2Proof.Machine
end

