-- ==== Sys2Proof/Machine/HostLink.lean ====
section
/-! DEFINITION. The host links: up, down and errors (R465, R473), BAR2 (R469), MSI-X (R472), and the snoops and evictions
of the coherent host-line cache (R475 to R478). -/

namespace Sys2Proof.Machine

open Host (Outcome)

/-! ### Down and up -/

/-- The T3 accesses outstanding on a link end LOWER_TIER_FAIL (R256, R473). -/
def State.failT3 (s : State) (n : Nat) : State :=
  let open_ (a : T3Acc) : Bool := decide (a.link = n) && a.res.isNone && (a.fill || decide (a.data = []))
  match s.mem.t3.filter open_ with
  | [] => s
  | as => (s.forAll as fun s a => s.t3Ends a St.LOWER_TIER_FAIL).retryDevWrites

/-- Write-backs on their way over the link fail (R246). -/
def State.failWriteBacks (s : State) (n : Nat) : State :=
  let gone := s.mem.slabs.filter fun e =>
    match e.2.copy with
    | none => false
    | some c => c.filling && c.dirty &&
        decide (((s.objAt (e.1 / 2 ^ 41) (e.1 % 2 ^ 41)).map (·.link)) = some n)
  s.forAll gone fun s e => s.writeBackDone (e.1 / 2 ^ 41) (e.1 % 2 ^ 41) St.LOWER_TIER_FAIL

/-- Ring fetches from the link's host memory fail (R176); while the apex die restarts they wait. -/
def State.failRings (s : State) (n : Nat) : State :=
  s.forAll (s.cq.queues.filter fun e => e.2.fetch.isSome) fun s e =>
    if s.fld (Reg.Q_CFG e.1) 18 1 = 0 ∧ s.fld (Reg.Q_CFG e.1) 20 1 = n then s.ringReadComplete e.1 [] St.LOWER_TIER_FAIL else s

/-- What is outstanding on links that are down fails. -/
def State.linkSettle (s : State) : State :=
  s.forAll [0, 1] fun s n => if s.linkUp n then s else (s.failT3 n).failRings n

/-- H0's cache is lost: every entry freed, every line invalid, and one record with the dirty lines lost (R478). -/
def State.ccLost (s : State) : State :=
  let dirty := (s.hosts.cc.filter fun e => decide (e.2.st = 3)).length + (s.hosts.evict.filter fun e => !e.fwd).length
  let drops := (s.hosts.waits.filter (·.write)).length
  let s1 := s.onHosts fun h => { h with cc := [], evict := [], waits := [], flush := [] }
  let s2 := (s1.setReg Reg.CC_STATUS 0).count (Reg.HL_DROP_CNT 0) drops
  if dirty = 0 then s2 else s2.raise (errNote 24 1 0 4 0 none none 0 [dirty] false)

/-- A link goes down, takes a hot reset or an FLR, or its PERST_Hn_N falls (R473). -/
def State.linkDown (s : State) (n : Nat) : State :=
  let s1 := (s.setReg (Reg.HL_STATUS n) 0).setLink n { s.link n with latch := none, msixEn := false, fnMask := false, bar2Size := 2 ^ 30 }
  let s2 := if n = 0 then s1.ccLost else s1
  ((s2.failT3 n).failWriteBacks n).failRings n

def State.perst (s : State) (n v : Nat) : State := { s with pins := { s.pins with perst := putBits s.pins.perst n 1 v } }

/-- HOST_LINK_UP: the link reaches L0 at a rate (1 to 6) and width, in FLIT mode or not; H0 may negotiate CXL. `bar2` is the
size that the host has chosen for BAR2, 2^(30 + bar2) bytes (R467). -/
def State.linkUpRow (s : State) (n rate width : Nat) (flit cxl : Bool) (bar2 : Nat) : State :=
  if s.linkUp n ∨ bitsAt s.pins.perst n 1 = 1 ∨ bitsAt s.pins.noClock (2 + n) 1 = 1 ∨ s.pins.hold ∨ s.pins.stopped then s
  else
    let cx := cxl && decide (n = 0)
    let s1 := s.setReg (Reg.HL_STATUS n) (1 + rate * 2 + width * 16 + b2n flit (2 ^ 9) + b2n cx (2 ^ 10))
    let s2 := if n = 0 then s1.setFld Reg.CC_STATUS 0 1 (b2n cx 1) else s1
    (s2.setLink n { s2.link n with bar2Size := 2 ^ (30 + bar2) }).flushVecs

/-- HOST_LINK_ERROR: an Unsupported Request or Completer Abort ends the T3 transfer; a poisoned TLP poisons the lines it
carries (R256). -/
def State.linkError (s : State) (n b va : Nat) (fill : Bool) (poisoned : Option Nat) : State :=
  match poisoned with
  | none => s.t3Response n b va fill [] false true 0
  | some k => s.t3Response n b va fill (List.replicate k none) false false 0

/-! ### BAR2 and the HDM window (R469) -/

/-- Every line of the range is T2-homed or has landed in a T2 copy. -/
def State.bar2Reaches (s : State) (b va n : Nat) : Bool :=
  decide (va + n ≤ apertureBase) && (linesOf va n).all fun p =>
    (s.objAt b (p.1 / 65536)).isSome &&
      (let x := s.slab b (p.1 / 65536)
       x.home.isSome ||
         match x.copy with
         | none => false
         | some c => !c.filling || c.dirty || s.lineLanded b (p.1 / 65536) (p.1 / 128 % 512))

def State.bar2Refuse (s : State) (n : Nat) (wr : Bool) : State :=
  let s1 := s.count (Reg.HL_BAR2_ERR_CNT n) 1
  if wr then s1 else s1.emit (.bar2 n .completerAbort)

/-- BAR2_ACCESS: a read of `len` bytes at an offset, or a write of `data`. -/
def State.bar2Access (s : State) (n off len : Nat) (data : Option (List Byte)) (m : Medium) : State :=
  let wr := data.isSome
  let size := (data.map List.length).getD len
  let b := s.fld (Reg.HL_BAR2_CFG n) 1 4
  let va := s.reg (Reg.HL_BAR2_BASE n) + off
  if !s.linkUp n ∨ s.pins.hold ∨ s.pins.booting ∨ s.pins.stopped ∨ (s.link n).bar2Size < off + size then s
  else if s.mgmt.restarting then (if wr then s else s.emit (.bar2 n .completerAbort))
  else if s.fld (Reg.HL_BAR2_CFG n) 0 1 = 0 ∨ s.baySealed b then (if wr then s else s.emit (.bar2 n .allOnes))
  else if s.bayState b ≠ bayRunning ∨ !(s.bar2Reaches b va size) then s.bar2Refuse n wr
  else
    match data with
    | none =>
      let r := s.vaReadM .dev m b va len
      match r.2.2 with
      | .ok => r.1.emit (.bar2 n (.data (r.2.1.map pbyte) false))
      | .fail st _ =>
        if st = St.POISONED ∨ st = St.TAG_MISMATCH then r.1.emit (.bar2 n (.data (r.2.1.map pbyte) true)) else r.1.bar2Refuse n false
      | .wait => r.1.bar2Refuse n false
    | some bs =>
      let r := (s.count64 (Reg.HL_RX_BYTES n) bs.length).vaWriteM .dev .bay m b va (unpoisoned bs)
      match r.2 with
      | .ok => r.1
      | .fail _ _ => r.1
      | .wait => r.1.onMem fun x => { x with devWrites := x.devWrites ++ [(b, va, false, unpoisoned bs)] }

/-! ### MSI-X (R472) -/

/-- MSIX_UNMASK: the host writes MSI-X Enable and Function Mask of the link's endpoint; pending vectors that are now open
go out. -/
def State.msixWrite (s : State) (n : Nat) (en mask : Bool) : State :=
  if s.linkUp n then (s.setLink n { s.link n with msixEn := en, fnMask := mask }).flushVecs else s

/-! ### Snoops and evictions (R476 to R478) -/

/-- The snoop is answered from the eviction buffer: the data are forwarded and the entry marked (R477). -/
def State.snoopEvict (s : State) (e : CEvict) : State :=
  (s.onHosts fun h => { h with evict := h.evict.map fun x => if x = e then { x with fwd := true } else x }).emit
    (.cc (.rspIFwdM e.line e.data))

/-- A snoop of line l: 0 SnpInv, 1 SnpData, 2 SnpCur. -/
def State.snoop (s : State) (l kind : Nat) : State :=
  if !s.ccActive then s
  else
    let s1 := s.count Reg.CC_SNOOP_CNT 1
    match s1.hosts.evict.find? fun e => decide (e.line = l) && !e.fwd with
    | some e => s1.snoopEvict e
    | none =>
      let c := s1.ccLine l
      if kind = 0 then
        (s1.setCcLine l .invalid).emit (.cc (if c.st = 3 then .rspIFwdM l c.data else if c.st = 0 then .rspIHitI l else .rspIHitSE l))
      else if kind = 1 then
        if c.st = 0 then s1.emit (.cc (.rspIHitI l))
        else (s1.setCcLine l { c with st := 1 }).emit (.cc (if c.st = 3 then .rspSFwdM l c.data else .rspSHitSE l))
      else s1.emit (.cc (if c.st = 3 then .rspVFwdV l c.data else .rspVHitV l))

/-- Lines of a window being flushed go to the eviction buffer as entries are free. -/
def State.flushGo (s : State) : State :=
  s.forAll s.hosts.flush fun s l =>
    let c := s.ccLine l
    if c.st = 0 ∨ (c.st = 3 ∧ 32 ≤ s.hosts.evict.length) then s else s.ccEvictLine l

/-- GO_WRITE_PULL: the write-pull of an eviction is answered, with bogus data when the entry is FORWARDED, and the entry is
freed; `drop`: GO_WritePull_Drop, which asks for no data. -/
def State.goWritePull (s : State) (l : Nat) (drop : Bool) : State :=
  match s.hosts.evict.find? fun e => decide (e.line = l) with
  | none => s
  | some e =>
    let s1 := (s.onHosts fun h => { h with evict := h.evict.erase e }).ccCountEvict
    let s2 :=
      if drop then s1
      else
        let t := s1.emit (.cc (.data l e.data e.fwd))
        if e.fwd then t.count Reg.CC_BOGUS_CNT 1 else t
    s2.flushGo.ccRetry

/-- GO_WAIT_EXPIRY: an entry has waited 1 ms; it writes one record and keeps waiting (R478). -/
def State.goWait (s : State) (l : Nat) : State :=
  match s.hosts.evict.find? fun e => decide (e.line = l) && !e.waited with
  | none => s
  | some e =>
    ((s.onHosts fun h => { h with evict := h.evict.map fun x => if x = e then { x with waited := true } else x }).count
      Reg.CC_GO_WAIT_CNT 1).raise (errNote 24 0 0 4 0 none none (l * 64) [] false)

/-- H2D_GO: the host's GO to a RdShared or RdOwn of line l; `data`: the line as the host returns it; `excl`: granted E. -/
def State.h2dGo (s : State) (l : Nat) (data : List Byte) (excl : Bool) : State :=
  match s.hosts.waits.find? fun w => decide (w.line = l) && w.issued with
  | none => s
  | some w =>
    let t := s.tickStamp
    let c := t.2.ccLine l
    let old := if c.st = 0 then (List.range 64).map fun i => data.getD i 0 else c.data
    let s1 := t.2.onHosts fun h => { h with waits := h.waits.erase w }
    let s2 := s1.setCcLine l (if w.write then ⟨3, patchBytes old w.off w.bytes, t.1⟩ else ⟨if excl then 2 else 1, old, t.1⟩)
    s2.ccRetry

def State.flushing (s : State) : Bool := decide (s.fld Reg.CC_STATUS 1 1 = 1)

/-- Lines of window w that the cache holds. -/
def State.windowLines (s : State) (w : Nat) : List Nat :=
  let base := s.reg (Reg.CC_WIN_BASE w)
  (s.hosts.cc.filter fun e => decide (base ≤ e.1 * 64) && decide (e.1 * 64 < base + s.fld (Reg.CC_WIN_CFG w) 12 20 * 4096)).map (·.1)

/-- A write of CC_WINw_CFG: clearing EN writes back and invalidates the window's lines; FLUSHING reads 1 until this is done,
and writes meanwhile are discarded (R475). -/
def State.ccWinWrite (s : State) (w v : Nat) : State :=
  if s.flushing then s
  else
    let clr := decide (s.fld (Reg.CC_WIN_CFG w) 0 1 = 1) && decide (bitsAt v 0 1 = 0)
    let ls := if clr then s.windowLines w else []
    let s1 := s.setReg (Reg.CC_WIN_CFG w) (bitsAt v 0 1 + bitsAt v 12 20 * 2 ^ 12)
    if clr then ((s1.setFld Reg.CC_STATUS 1 1 1).onHosts fun h => { h with flush := ls }).flushGo else s1

/-- CC_FLUSH_DONE: every line of the window has been written back. -/
def State.flushDone (s : State) : State :=
  if s.flushing && s.hosts.flush.all fun l => decide ((s.ccLine l).st = 0) && !(s.hosts.evict.any fun e => decide (e.line = l)) then
    (s.setFld Reg.CC_STATUS 1 1 0).onHosts fun h => { h with flush := [] }
  else s

/-! ### Meanings -/

def execPerstAssert (link : LinkId) (s : State) : Outcome State Fault Refusal := .next ((s.perst link.val 1).linkDown link.val)
def execPerstRelease (link : LinkId) (s : State) : Outcome State Fault Refusal := .next (s.perst link.val 0)
def execHostLinkDown (link : LinkId) (s : State) : Outcome State Fault Refusal := .next (s.linkDown link.val)
def execHostLinkUp (link : LinkId) (rate : BitVec 3) (width : BitVec 5) (flit cxl : Bool) (bar2 : BitVec 4) (s : State) :
    Outcome State Fault Refusal := .next (s.linkUpRow link.val rate.toNat width.toNat flit cxl bar2.toNat)
def execHostLinkError (link : LinkId) (bay : BayId) (va : BitVec 57) (fill : Bool) (poisoned : Option Nat) (s : State) :
    Outcome State Fault Refusal := .next (s.linkError link.val bay.val va.toNat fill poisoned)
def execBar2Access (link : LinkId) (off : BitVec 40) (len : Nat) (data : Option (List Byte)) (m : Medium) (s : State) :
    Outcome State Fault Refusal := .next (s.bar2Access link.val off.toNat len data m)
def execMsixUnmask (link : LinkId) (en mask : Bool) (s : State) : Outcome State Fault Refusal :=
  .next (s.msixWrite link.val en mask)
def execSnpInv (line : BitVec 58) (s : State) : Outcome State Fault Refusal := .next (s.snoop line.toNat 0)
def execSnpData (line : BitVec 58) (s : State) : Outcome State Fault Refusal := .next (s.snoop line.toNat 1)
def execSnpCur (line : BitVec 58) (s : State) : Outcome State Fault Refusal := .next (s.snoop line.toNat 2)
def execGoWritePull (line : BitVec 58) (drop : Bool) (s : State) : Outcome State Fault Refusal :=
  .next (s.goWritePull line.toNat drop)
def execGoWaitExpiry (line : BitVec 58) (s : State) : Outcome State Fault Refusal := .next (s.goWait line.toNat)
def execH2dGo (line : BitVec 58) (data : List Byte) (excl : Bool) (s : State) : Outcome State Fault Refusal :=
  .next (s.h2dGo line.toNat data excl)
def execCcWinCfgWrite (win : BitVec 3) (data : W32) (s : State) : Outcome State Fault Refusal :=
  .next (s.ccWinWrite win.toNat data.toNat)
def execCcFlushDone (s : State) : Outcome State Fault Refusal := .next s.flushDone

end Sys2Proof.Machine
end

