-- ==== Sys2Proof/Machine/Time.lean ====
section
/-! DEFINITION. Global time: exchanges with the parent, the PPS input and the loss of the parent (R368 to R371), and
the passing of one nanosecond. -/

namespace Sys2Proof.Machine

open Host (Outcome)

/-- TIME_STATUS.STATE (Table 12-16). -/
def timeUnlocked : Nat := 0
def timeAcquiring : Nat := 1
def timeLocked : Nat := 2
def timeHoldover : Nat := 3

def State.timeRole (s : State) : Nat := s.fld Reg.TIME_CFG 0 2
def State.timeState (s : State) : Nat := s.fld Reg.TIME_STATUS 0 2
def State.altInUse (s : State) : Bool := decide (s.fld Reg.TIME_STATUS 2 1 = 1)

/-- A bay is BUILDING or RUNNING. -/
def State.anyBayUp (s : State) : Bool :=
  (List.range 16).any fun b => decide (s.bayState b = bayBuilding) || decide (s.bayState b = bayRunning)

/-- A signed value in 32 bits. -/
def int32 (i : Int) : Nat := (BitVec.ofInt 32 i).toNat

/-- The rate correction, in ppb: ±200,000 toward the parent while the offset is outside ±4 ns; otherwise the control
law's own, free within ±200,000 (R369). `off` is the parent's time less the own, in 1/16 ns. (log entry 25: DESIGN CHOICE) -/
def State.setRate (s : State) (off : Int) : State :=
  if 64 < off then s.setReg Reg.TIME_RATE (int32 200000)
  else if off < -64 then s.setReg Reg.TIME_RATE (int32 (-200000))
  else s.draw.2.setReg Reg.TIME_RATE (int32 ((s.draw.1 % 400001 : Nat) - 200000))

/-- The one step that a first synchronisation may take (R369). -/
def State.timeStep (s : State) (off : Int) : State :=
  ({ s with ktime := s.ktime + BitVec.ofInt 64 ((off + 8) / 16) }).setFld Reg.TIME_STATUS 3 1 1

/-- Exchanges in a row within 4 ns. -/
def State.exchanges (s : State) (left : Int) : Nat := if -64 ≤ left ∧ left ≤ 64 then s.fab.exch + 1 else 0

/-- TIME_STATE after an exchange: LOCKED from the sixteenth within 4 ns on. -/
def State.timeLock (s : State) (n : Nat) : State :=
  if 16 ≤ n ∧ s.timeState ≠ timeLocked then
    ((s.onFab fun f => { f with locked := true }).setFld Reg.TIME_STATUS 0 2 timeLocked).setReg Reg.TIME_LOCK_KTIME s.now
  else if s.timeState = timeUnlocked then s.setFld Reg.TIME_STATUS 0 2 timeAcquiring
  else s

/-- The offset that is left sets the rate. -/
def State.timeLeft (s : State) (left : Int) : State :=
  ((s.onFab fun f => { f with exch := min 16 (s.exchanges left) }).setRate left).timeLock (s.exchanges left)

/-- An offset has been measured: it is reported, KTIME steps at a first lock before any bay, slews otherwise, and LOCKED
is entered after 16 exchanges within ±4 ns (R369). -/
def State.timeOffset (s : State) (off : Int) (mayStep : Bool) : State :=
  let step := !s.fab.locked && decide (s.timeState = timeUnlocked) && mayStep && !s.anyBayUp
  let s1 := s.setReg Reg.TIME_OFFSET (int32 off)
  if step then (s1.timeStep off).timeLeft 0 else s1.timeLeft off

/-- The port that a follower takes its time from. -/
def State.timePort (s : State) (p : Nat) : Bool :=
  let parent := decide (p = s.fld Reg.TIME_CFG 2 3)
  let alt := decide (s.fld Reg.TIME_CFG 8 1 = 1) && decide (p = s.fld Reg.TIME_CFG 5 3)
  if s.timeState = timeHoldover then parent || alt else if s.altInUse then alt else parent

/-- TIME_EXCHANGE on port p: offset and delay in 1/16 ns, and the parent's depth. -/
def State.timeExchange (s : State) (p : Nat) (off : Int) (delay depth : Nat) : State :=
  if s.timeRole ≠ 1 ∨ s.portState p ≠ portActive ∨ (s.portX p).auth = false ∨ s.timePort p = false then s
  else
    let s1 := ((s.setReg Reg.TIME_DELAY delay).setFld Reg.TIME_STATUS 8 8 (min 255 (depth + 1))).setFld Reg.TIME_STATUS 2 1
      (b2n (decide (p ≠ s.fld Reg.TIME_CFG 2 3)) 1)
    s1.timeOffset off true

/-- PPS_EDGE: the edge marks a whole second; KTIME slews to the nearest one. -/
def State.ppsEdge (s : State) : State :=
  if s.timeRole ≠ 2 then s
  else
    let r := s.now % 1000000000
    let off : Int := if r < 500000000 then -(r : Int) else 1000000000 - (r : Int)
    (s.setFld Reg.TIME_STATUS 8 8 0).timeOffset (max (-2147483648) (min 2147483647 (16 * off))) false

/-- TIME_PARENT_LOSS: the link in use has left ACTIVE (R371). -/
def State.parentLoss (s : State) : State :=
  let used := if s.altInUse then s.fld Reg.TIME_CFG 5 3 else s.fld Reg.TIME_CFG 2 3
  if s.timeRole ≠ 1 ∨ s.portState used = portActive ∨ s.timeState = timeHoldover then s
  else
    let s1 := s.onFab fun f => { f with exch := 0 }
    if !s.altInUse && decide (s.fld Reg.TIME_CFG 8 1 = 1) && decide (s.portState (s.fld Reg.TIME_CFG 5 3) = portActive) then
      s1.setFld Reg.TIME_STATUS 2 1 1
    else (s1.setFld Reg.TIME_STATUS 0 2 timeHoldover).count Reg.TIME_HOLDOVER_CNT 1

def State.slewTo (s : State) (acc step : Nat) : State :=
  { s with ktime := s.ktime + BitVec.ofNat 64 step, fab := { s.fab with slew := acc } }

def nsPerS : Nat := 1000000000

/-- The nanosecond's KTIME steps: one, and none or two where the slew has reached a whole one. -/
def slewSteps (rate : Int) (acc : Nat) : Nat := if acc < nsPerS then 1 else if 0 < rate then 2 else 0

/-- One apex cycle: KTIME advances by 1, or by 0 or 2 where the slew skips or doubles the increment (R29, R369). -/
def State.passNs (s : State) : State :=
  let rate := (BitVec.ofNat 32 (s.reg Reg.TIME_RATE)).toInt
  let acc := s.fab.slew + rate.natAbs
  s.slewTo (if acc < nsPerS then acc else acc - nsPerS) (slewSteps rate acc)

def execTimeExchange (port : PortId) (offset delay : BitVec 32) (depth : Byte) (s : State) : Outcome State Fault Refusal :=
  .next (s.timeExchange port.val offset.toInt delay.toNat depth.toNat)
def execPpsEdge (s : State) : Outcome State Fault Refusal := .next s.ppsEdge
def execTimeParentLoss (s : State) : Outcome State Fault Refusal := .next s.parentLoss

end Sys2Proof.Machine
end

