-- ==== Sys2Proof/Machine/Mgmt.lean ====
section
/-! DEFINITION. The management command set (R493, Table 16-7) and the configuration writes it shares with BAR0. -/

namespace Sys2Proof.Machine

open Host (Outcome)

/-- COMPLETION codes. -/
def mgOk : Nat := 0
def mgBusy : Nat := 1
def mgNotAllowed : Nat := 2
def mgBadField : Nat := 3
def mgUnsupported : Nat := 4
def mgNotAuthorised : Nat := 5

/-! ### Configuration writes -/

def edges : List Nat := [20, 21, 22, 23]

/-- A device fabric register: E0's copy and its mirrors (R374). -/
def State.fabReg (s : State) (a : Nat → Nat) (v : Nat) : State := s.forAll edges fun s d => s.setReg (a d) v

def State.portsDown (s : State) : Bool := (List.range 8).all fun p => decide (s.portState p = portDisabled)

/-- FAB_DEV_ADDR and FAB_DIMS, discarded while a port is out of DISABLED (R341). -/
def State.writeDevAddr (s : State) (v : Nat) : State := if s.portsDown then s.fabReg Reg.FAB_DEV_ADDR (v % 2 ^ 24) else s
def State.writeDims (s : State) (v : Nat) : State := if s.portsDown then s.fabReg Reg.FAB_DIMS (v % 2 ^ 26) else s

def State.writeAlias (s : State) (a v : Nat) : State := s.fabReg (fun d => Reg.FAB_ALIAS d a) (v % 2 ^ 49)

/-- DEV_BAY_POWER_BUDGET, writable only while no bay is BUILDING or RUNNING (R220). -/
def State.writeBudget (s : State) (v : Nat) : State :=
  if s.anyBayUp then s else s.setReg Reg.DEV_BAY_POWER_BUDGET (v % 2 ^ 16)

/-! ### The command envelope -/

/-- OPERATOR_KEY_ID, 48 bytes. -/
def State.operatorKey (s : State) : List Nat := s.digestRegs Reg.OPERATOR_KEY_ID

/-- The SPDM session that carries the command is mutually authenticated by the operator's key. -/
def State.authorised (s : State) (h : MgmtHdr) : Bool :=
  let c := s.spdm h.ep.toNat
  decide (2 ≤ h.ep.toNat) ||
    (h.session.isSome && decide (c.session = h.session.map BitVec.toNat) && c.live && decide (c.peer = some s.operatorKey))

/-- The newest 16 kept responses of an endpoint and source stay (R483). -/
def keepSixteen (l : List Kept) (ep src : Nat) : List Kept :=
  let mine := l.filter fun k => decide (k.ep = ep) && decide (k.src = src)
  (l.filter fun k => !(decide (k.ep = ep) && decide (k.src = src))) ++ mine.drop (mine.length - 16)

/-- A management command: a repeat of a kept REQ_ID gets the stored response; otherwise version, authority and the apex die
are checked in this order, and the command runs. -/
def State.mgmtCommand (s : State) (h : MgmtHdr) (cmd : Nat) (apex : Bool) (f : State → State × Nat × List Nat) : State :=
  let ep := h.ep.toNat
  let src := h.src.toNat
  if !s.epUp ep ∨ s.mgmt.rom then s
  else
    match s.mgmt.cmds.find? fun k => decide (k.ep = ep) && decide (k.src = src) && decide (k.key = h.reqId.toNat) with
    | some k => (s.count Reg.MI_DUP_CNT 1).emit k.resp
    | none =>
      let r : State × Nat × List Nat :=
        if h.version ≠ 1 then (s, mgUnsupported, [])
        else if 0x10 ≤ cmd ∧ !s.authorised h then (s, mgNotAuthorised, [])
        else if apex ∧ !s.apexUp then (s, mgBusy, [])
        else f s
      let o : Output := .mgmt ep src cmd r.2.1 r.2.2
      (r.1.onMgmt fun m => { m with cmds := keepSixteen (m.cmds ++ [⟨ep, src, h.reqId.toNat, o, s.now⟩]) ep src }).emit o

/-- A command that has no response data. -/
def ended (t : State) (code : Nat) : State × Nat × List Nat := (t, code, [])

/-! ### The commands -/

def State.getIdentity (s : State) : State × Nat × List Nat :=
  (s, mgOk, [s.reg Reg.ID_PART, s.reg Reg.ID_STEPPING] ++ serialWords ++
    [s.runSlot, s.fld Reg.GR_BOOT 1 7, s.mgmt.svnMin, s.mgmt.slotA.st, s.mgmt.slotB.st])

/-- The device level: the highest handled, 0 none. -/
def State.deviceLevelNow (s : State) : Nat := if s.deviceFault then 5 else (s.flt.handling.map (·.level)).foldl max 0

def State.getHealth (s : State) : State × Nat × List Nat :=
  (s, mgOk, [s.reg Reg.HM_STATUS, s.reg Reg.HM_DEGRADED] ++ ((List.range 25).map fun d => s.reg (Reg.ERC d)) ++ [s.deviceLevelNow])

/-- The words of the record at a position of the device log, while the log holds it (R427). -/
def State.logAt (s : State) (p : Nat) : Option (List Nat) :=
  let behind := sub32 (s.reg Reg.DEVLOG_POS) p
  if behind = 0 ∨ 4096 < behind then none
  else
    match mget (fun _ => ([] : List W32)) s.flt.devlog (p % 4096) with
    | [] => none
    | ws => some (ws.map BitVec.toNat)

def State.readDevlog (s : State) (pos : Nat) : State × Nat × List Nat :=
  (s, mgOk, ((List.range 8).filterMap fun i => s.logAt ((pos + i) % 2 ^ 32)).flatten)

def State.getPorts (s : State) : State × Nat × List Nat :=
  (s, mgOk, (List.range 8).flatMap fun p =>
    [s.reg (Reg.PORT_STATUS (portDie p) (portIx p)), s.reg (Reg.PORT_PEER (portDie p) (portIx p)), s.reg (Reg.PORT_LANES (portDie p) (portIx p))])

def State.setFabric (s : State) (addr dims time : Nat) : State × Nat × List Nat :=
  ended (((s.writeDevAddr addr).writeDims dims).setReg Reg.TIME_CFG (time % 2 ^ 10)) (if s.portsDown then mgOk else mgNotAllowed)

def State.setPort (s : State) (p v : Nat) : State × Nat × List Nat :=
  ended (s.portCfgWrite p v) (if s.portUp p then mgOk else mgNotAllowed)

/-- SET_PASS_SLOTS: the slots of the mask hold JOB; JOB 0 empties them. A slot that a local bay's job holds is refused (R356). -/
def State.setPassSlots (s : State) (p mask job : Nat) : State × Nat × List Nat :=
  let ix := maskList 64 mask
  let held (i : Nat) : Bool :=
    let v := s.reg (Reg.SLOT (portDie p) (portIx p) i)
    decide (bitsAt v 16 1 = 1) && (List.range 16).any fun b => decide (s.bayState b ≠ bayFree) && decide (s.bayJob b = bitsAt v 0 16)
  if ix.any held then ended s mgNotAllowed
  else ended (s.forAll ix fun s i => s.setReg (Reg.SLOT (portDie p) (portIx p) i) (if job = 0 then 0 else job + 2 ^ 16)) mgOk

def State.setAlias (s : State) (a logical physical : Nat) (valid : Bool) : State × Nat × List Nat :=
  ended (s.writeAlias a (logical + physical * 2 ^ 24 + b2n valid (2 ^ 48))) mgOk

def State.fwCommit (s : State) : State × Nat × List Nat :=
  let x := s.slot s.runSlot
  if x.st = fwTrial then ended (s.setSlot s.runSlot { x with st := fwCommitted }) mgOk else ended s mgNotAllowed

/-- SVN_ADVANCE (R489). -/
def State.svnAdvance (s : State) (n : Nat) : State × Nat × List Nat :=
  if 64 < n then ended s mgBadField
  else if n ≤ s.mgmt.svnMin then ended s mgOk
  else if (s.slot s.runSlot).st ≠ fwCommitted ∨
      ([0, 1].any fun i => decide ((s.slot i).st = fwCommitted) && decide ((s.slot i).svn < n)) then ended s mgNotAllowed
  else ended ((s.onMgmt fun m => { m with svnMin := n }).setFld Reg.GR_BOOT 8 7 n) mgOk

def State.diePower (s : State) (d op : Nat) : State × Nat × List Nat :=
  if 25 ≤ d ∨ op = 0 ∨ 5 < op then ended s mgBadField
  else
    let t := s.pctrl (.link 0) d op
    ended t (if d = 24 ∨ t.fld Reg.DIE_PCTRL_REFUSED d 1 = 1 then mgNotAllowed else mgOk)

def State.setBayBudget (s : State) (w : Nat) : State × Nat × List Nat :=
  ended (s.writeBudget w) (if s.anyBayUp then mgNotAllowed else mgOk)

/-! ### Meanings -/

def execGetIdentity (h : MgmtHdr) (s : State) : Outcome State Fault Refusal := .next (s.mgmtCommand h 0x01 false State.getIdentity)
def execGetHealth (h : MgmtHdr) (s : State) : Outcome State Fault Refusal := .next (s.mgmtCommand h 0x02 false State.getHealth)
def execReadDevlog (h : MgmtHdr) (pos : W32) (s : State) : Outcome State Fault Refusal :=
  .next (s.mgmtCommand h 0x03 true fun t => t.readDevlog pos.toNat)
def execGetPorts (h : MgmtHdr) (s : State) : Outcome State Fault Refusal := .next (s.mgmtCommand h 0x04 false State.getPorts)
def execSetFabric (h : MgmtHdr) (addr dims time : W32) (s : State) : Outcome State Fault Refusal :=
  .next (s.mgmtCommand h 0x10 true fun t => t.setFabric addr.toNat dims.toNat time.toNat)
def execSetPort (h : MgmtHdr) (port : PortId) (expect sticky : Bool) (s : State) : Outcome State Fault Refusal :=
  .next (s.mgmtCommand h 0x11 true fun t => t.setPort port.val (b2n expect 1 + b2n sticky 2))
def execSetPassSlots (h : MgmtHdr) (port : PortId) (mask : W64) (job : W16) (s : State) : Outcome State Fault Refusal :=
  .next (s.mgmtCommand h 0x12 true fun t => t.setPassSlots port.val mask.toNat job.toNat)
def execSetAlias (h : MgmtHdr) (entry : BitVec 4) (logical physical : BitVec 24) (valid : Bool) (s : State) :
    Outcome State Fault Refusal :=
  .next (s.mgmtCommand h 0x13 true fun t => t.setAlias entry.toNat logical.toNat physical.toNat valid)
def execFwCommit (h : MgmtHdr) (s : State) : Outcome State Fault Refusal := .next (s.mgmtCommand h 0x20 true State.fwCommit)
def execSvnAdvance (h : MgmtHdr) (n : Byte) (s : State) : Outcome State Fault Refusal :=
  .next (s.mgmtCommand h 0x21 true fun t => t.svnAdvance n.toNat)
def execDeviceScrub (h : MgmtHdr) (s : State) : Outcome State Fault Refusal :=
  .next (s.mgmtCommand h 0x30 true fun t => ended t.scrubCommand mgOk)
def execDiePower (h : MgmtHdr) (die op : Byte) (s : State) : Outcome State Fault Refusal :=
  .next (s.mgmtCommand h 0x31 true fun t => t.diePower die.toNat op.toNat)
def execSetBayBudget (h : MgmtHdr) (watts : W16) (s : State) : Outcome State Fault Refusal :=
  .next (s.mgmtCommand h 0x32 true fun t => t.setBayBudget watts.toNat)

end Sys2Proof.Machine
end

