-- ==== Sys2Proof/Machine/Power.lean ====
section
/-! DEFINITION. Resets, boot, supply rails, clocks, temperature and the test pin (R489, R496 to R517). -/

namespace Sys2Proof.Machine

open Host (Outcome)

def State.onPins (s : State) (f : Pins → Pins) : State := { s with pins := f s.pins }

/-! ### PKG_RESET_N (R505, R506) -/

/-- Registers that PKG_RESET_N leaves alone: those of the management island but for OPERATOR_KEY_ID, and the power-good monitors. -/
def keptByReset (a : Nat) : Bool :=
  decide (a = Reg.PWR_STATUS) || decide (a = Reg.FW_TRIAL_S) || (decide (Reg.MI_STATUS ≤ a) && decide (a < Reg.OPERATOR_KEY_ID 0))

/-- The device is in reset, and all that reset clears is at its reset value; the island, the flash slots, the fuses and the
pins go on. -/
def State.resetAll (s : State) : State :=
  let r := State.reset
  let m : Mgmt := { s.mgmt with restarting := false, measured := false, fwFail := false, keySet := 0, heldCmds := []
                                update := 0, updOff := 0, pldm := s.mgmt.pldm.map fun k => { k with kt := 0 } }
  let p : Pins := { s.pins with hold := true, booting := true, trip := false, stopped := false, pps := none, scan := 0
                                extest := if s.pins.extest = 1 then 2 else s.pins.extest }
  let t : State := { r with pending := s.pending, free := s.free, mgmt := m, pins := p, out := s.out }
  let u := (t.forAll (s.regs.filter fun e => keptByReset e.1) fun t e => t.setReg e.1 e.2.toNat).setFld Reg.MI_STATUS 2 1 0
  if s.pins.testEn then u.setFld Reg.TAMPER_STATUS 3 1 1 else u

/-- The device leaves reset and its boot begins, when nothing holds it: PKG_RESET_N, TEST_EN, VDD_AON, REFCLK_SYS. -/
def State.leaveHold (s : State) : State :=
  let p := s.pins
  if p.resetLow ∨ p.testEn ∨ p.aonLost ∨ bitsAt p.noClock 0 1 = 1 then s else s.onPins fun p => { p with hold := false, booting := true }

def State.pkgAssert (s : State) : State := (s.onPins fun p => { p with resetLow := true }).resetAll

/-- PKG_RESET_RELEASE: `clocks` present at the release, REFCLK_SYS, REFCLK_FAB, REFCLK_H0, REFCLK_H1 from bit 0. -/
def State.pkgRelease (s : State) (clocks : Nat) : State :=
  if !s.pins.resetLow then s else (s.onPins fun p => { p with resetLow := false, noClock := 15 - clocks % 16 }).leaveHold

/-! ### Boot (R396, R397, R489, R508) -/

/-- Slots in the order in which the boot ROM takes them (R489). -/
def State.bootOrder (s : State) : List Nat :=
  let st (n : Nat) : Nat := (s.slot n).st
  let byseq := if (s.slot 0).useq < (s.slot 1).useq then [1, 0] else [0, 1]
  ([0, 1].filter fun n => decide (st n = fwTrial) && decide ((s.slot n).tries ≠ 0)) ++ byseq.filter fun n => decide (st n = fwCommitted)

/-- A TRIAL slot, which is tried first, loses its try. -/
def State.useTries (s : State) : State :=
  s.forAll [0, 1] fun s n => if (s.slot n).st = fwTrial then s.setSlot n { s.slot n with tries := 0 } else s

/-- What the boot needs from the board configuration, and what it meets: ports with EXPECT, FAB_DEV_ADDR, FAB_DIMS, HBM_TAG_EN,
and dies whose clear fails. -/
structure BootIn where
  expect : Nat
  addr : Nat
  dims : Nat
  tags : Bool
  bad : Nat

/-- The measurements of an accepted image (Table 14-2). -/
def State.measureBoot (s : State) (x : FwSlot) (tags : Bool) : State :=
  let one (i : Nat) (d : List Nat) (s : State) : State := s.setDigest (Reg.MEAS i) (extendMeas zero48 d)
  let s1 := s.setDigest (Reg.MEAS 0) (extendMeas (extendMeas zero48 Config.bootRom) (x.part 0))
  ((one 4 (Config.configDigest s.mgmt.svnMin Config.revoked.toNat (b2n tags 1)) (one 3 (x.part 3) (one 2 (x.part 2) (one 1 (x.part 1) s1))))).measureIsland

/-- The device scrub of the boot: DSCRUB_STATUS, its time, and dies that fail it in quarantine (R419). -/
def State.bootScrub (s : State) (bad : Nat) : State :=
  let t := s.draw
  let s1 := (t.2.setReg Reg.DSCRUB_STATUS ((if bad = 0 then scrubDone else scrubFailed) + 3 * 4)).setReg Reg.DSCRUB_TIME (t.1 % 15001)
  let s2 := s1.setReg Reg.DEV_QUARANTINE (s1.reg Reg.DEV_QUARANTINE ||| bad)
  s2.forAll (List.range 20) fun s d => s.setFld (Reg.CLR_STATUS d) 0 2 (if bitsAt bad d 1 = 1 then 3 else 2)

/-- The image of slot n is accepted: the device comes up with it. -/
def State.bootImage (s : State) (n : Nat) (i : BootIn) : State :=
  let x := s.slot n
  let s1 := (s.measureBoot x i.tags).setReg Reg.GR_BOOT (n + x.svn * 2 + s.mgmt.svnMin * 2 ^ 8 + Config.revoked.toNat * 2 ^ 15)
  let t := s1.draw
  let s2 := (t.2.onSec fun y => { y with ska := t.1 % (p384N - 1) + 1 }).setFld Reg.GR_STATUS 4 1 1
  let s3 := s2.onMgmt fun m => { m with loadBuf := Config.imagePart x.bytes 4, trialAt := s.now }
  let s4 := s3.forAll edges fun s d => s.setFld (Reg.HBM_TAG_EN d) 0 1 (b2n i.tags 1)
  let s5 := ((s4.forAll (List.range 24) State.leaveReset).bootScrub i.bad).onPins fun p => { p with booting := false }
  let s6 := (s5.writeDevAddr i.addr).writeDims i.dims
  let s7 := s6.forAll (maskList 8 i.expect) fun s p => s.portCfgWrite p 1
  if s7.fld Reg.PWR_STATUS 8 8 = 0 then s7 else s7.raise (errNote 24 1 0 0 0 none none 0 [s7.fld Reg.PWR_STATUS 8 8] false)

/-- No image is accepted: RECOVERY, with M0 only (R396). -/
def State.recovery (s : State) : State :=
  ((s.setDigest (Reg.MEAS 0) (extendMeas zero48 Config.bootRom)).setFld Reg.GR_STATUS 3 1 1).onPins fun p => { p with booting := false }

def State.bootComplete (s : State) (i : BootIn) : State :=
  if s.pins.hold || !s.pins.booting then s
  else
    match s.bootOrder.find? fun n => s.accepts (s.slot n) with
    | some n => s.useTries.bootImage n i
    | none => s.useTries.recovery

/-! ### Supply rails (R496 to R500) -/

/-- Power-up stage of a rail in PWR_STATUS order; VDD_AON has none. -/
def railStage (r : Nat) : Nat := [4, 2, 3, 1, 3, 3, 1, 0].getD r 0

def State.deviceEvent (s : State) : State := s.raise ⟨24, 5, St.DEVICE_FAULT, 0, 0, none, none, 0, [s.dieDetail 24], false, 0⟩

/-- RAIL_POWER_FAIL: the rail falls below its power-good threshold (R498). -/
def State.railFail (s : State) (r : Nat) : State :=
  let s1 := s.setFld Reg.PWR_STATUS r 1 0
  if r = 7 then
    let s2 := (s1.onPins fun p => { p with aonLost := true }).resetAll.islandLost
    s2.onMgmt fun m => { m with loadBuf := [] }
  else if s.pins.hold then s1
  else if r = 0 then (s1.tamper 0).deviceEvent
  else (s1.setFld Reg.PWR_RAIL_FAULT r 1 1).deviceEvent

/-- RAIL_RISE: power-good, and SEQ when a rail of an earlier stage is not yet good; SEQ starts anew with a power-up (R499, R500). -/
def State.railRise (s : State) (r : Nat) : State :=
  let good (k : Nat) : Bool := decide (s.fld Reg.PWR_STATUS k 1 = 1)
  let first := (List.range 7).all fun k => !good k
  let early := (List.range 7).any fun k => decide (railStage k < railStage r) && !good k
  let s1 := if first ∧ r ≠ 7 then s.setFld Reg.PWR_STATUS 8 8 0 else s
  let s2 := s1.setFld Reg.PWR_STATUS r 1 1
  if early ∧ r ≠ 7 then s2.setFld Reg.PWR_STATUS (8 + r) 1 1 else s2

/-! ### Clocks (R503, R504) -/

/-- REFCLK_LOSS: 0 REFCLK_SYS, 1 REFCLK_FAB, 2 and 3 REFCLK_H0 and H1, 4 TIME_PPS. -/
def State.clockLoss (s : State) (k : Nat) : State :=
  if k = 4 then
    if s.timeRole = 2 ∧ s.timeState ≠ timeHoldover then (s.setFld Reg.TIME_STATUS 0 2 timeHoldover).count Reg.TIME_HOLDOVER_CNT 1 else s
  else
    let s1 := s.onPins fun p => { p with noClock := putBits p.noClock k 1 1 }
    if s.pins.hold then s1
    else if k = 0 then s1.tamper 1
    else if k = 1 then
      s1.forAll (List.range 8) fun s p =>
        let st := s.portState p
        if st = portActive then s.signalLoss p
        else if st = portDisabled ∨ st = portFailed ∨ st = portRetrain then s
        else s.enterPort p portFailed causeTrain
    else s1.linkDown (k - 2)

/-- TIME_PPS_OUTPUT: high for 100 µs from each KTIME multiple of 10^9 while PPS_OUT_EN is set; otherwise low. -/
def State.ppsOut (s : State) : State :=
  let on := decide (s.fld Reg.TIME_CFG 9 1 = 1) && !s.pins.hold && decide (s.now % 1000000000 < 100000)
  s.onPins fun p => { p with pps := if on then some (s.now / 1000000000 * 1000000000) else none }

/-! ### Temperature (R511 to R513) -/

/-- The thermal emergency as a bay sees it: at most once per second of KTIME (R416). -/
def State.thermNotice (s : State) (b : Nat) : State :=
  if s.bayState b = bayFree ∨ (s.fld (Reg.DEV_NOTICE b) 0 16 ≠ 0 ∧ s.now < s.reg (Reg.DEV_THERM_KTIME b) + 1000000000) then s
  else
    ((s.setFld (Reg.DEV_NOTICE b) 0 16 (min 0xFFFF (s.fld (Reg.DEV_NOTICE b) 0 16 + 1))).setReg (Reg.DEV_THERM_KTIME b) s.now).notice b
      (s.reg (Reg.DEV_NOTICE_CFG b))

/-- THERMAL_EMERGENCY: every compute die at 1,200 MHz until the clamp is released (R512). -/
def State.emergency (s : State) : State :=
  if s.pins.hold ∨ s.clamped then s
  else
    let s1 := (s.setFld Reg.THERM_STATUS 13 1 1).count Reg.THERM_EMERG_CNT 1
    let s2 := s1.forAll (List.range 20) fun s d => if s.dieState d = dieOff then s else s.setClock d 1200
    (s2.forAll (List.range 16) fun s b => if s.bayState b = bayFree then s else s.setFld (Reg.BAY_CLK b) 10 5 0).forAll
      (List.range 16) State.thermNotice

def State.clampRelease (s : State) : State := s.setFld Reg.THERM_STATUS 13 1 0

/-- THERMAL_TRIP: the latch, the scrub of a TEMP tamper, then the clocks stop and every transmitter is at high impedance (R513). -/
def State.tripped (s : State) : State :=
  if s.pins.hold ∨ s.pins.trip then s
  else
    let s1 := ((s.onPins fun p => { p with trip := true }).tamper 2).onPins fun p => { p with stopped := true }
    ((s1.forAll (List.range 8) fun s p => s.enterPort p portDisabled 0).linkDown 0).linkDown 1

/-- THERM_TRIP_N is asserted (R509, R510). -/
def State.thermTripN (s : State) : Bool := s.pins.trip && !s.pins.resetLow && !s.pins.aonLost

/-! ### TEST_EN (R517) -/

def State.testEnHigh (s : State) : State := (s.onPins fun p => { p with testEn := true }).resetAll
def State.testEnLow (s : State) : State := if s.pins.testEn then (s.onPins fun p => { p with testEn := false }).leaveHold else s

/-! ### Meanings -/

def execPkgResetAssert (s : State) : Outcome State Fault Refusal := .next s.pkgAssert
def execPkgResetRelease (clocks : BitVec 4) (s : State) : Outcome State Fault Refusal := .next (s.pkgRelease clocks.toNat)
def execBootComplete (expect : Byte) (addr : BitVec 24) (dims : BitVec 26) (tags : Bool) (bad : BitVec 20) (s : State) :
    Outcome State Fault Refusal := .next (s.bootComplete ⟨expect.toNat, addr.toNat, dims.toNat, tags, bad.toNat⟩)
def execRailPowerFail (rail : BitVec 3) (s : State) : Outcome State Fault Refusal := .next (s.railFail rail.toNat)
def execRailRise (rail : BitVec 3) (s : State) : Outcome State Fault Refusal := .next (s.railRise rail.toNat)
def execRefclkLoss (clock : Fin 5) (s : State) : Outcome State Fault Refusal := .next (s.clockLoss clock.val)
def execTimePpsOutput (s : State) : Outcome State Fault Refusal := .next s.ppsOut
def execThermalEmergency (s : State) : Outcome State Fault Refusal := .next s.emergency
def execThermalClampRelease (s : State) : Outcome State Fault Refusal := .next s.clampRelease
def execThermalTrip (s : State) : Outcome State Fault Refusal := .next s.tripped
def execTestEnAssert (s : State) : Outcome State Fault Refusal := .next s.testEnHigh
def execTestEnRelease (s : State) : Outcome State Fault Refusal := .next s.testEnLow

end Sys2Proof.Machine
end

