-- ==== Sys2Proof/Machine/HostAccess.lean ====
section
/-! DEFINITION. Accesses to the control space (R5 to R8, R35 to R39, R468, R491): what each register reads as, what a
write of it does, and 32-bit and 64-bit accesses of a host link. -/

namespace Sys2Proof.Machine

open Host (Outcome)

/-! ### Registers that show what the state holds elsewhere -/

/-- Word `i` of a list of words, 0 beyond it. -/
def wordAt (ws : List Nat) (i : Nat) : Nat := ws.getD i 0

/-- ERR_STATUS (Table 15-17). -/
def State.errStatus (s : State) (d : Nat) : Nat :=
  let x := s.domain d
  (match x.active with | none => 0 | some r => 1 + r.level * 2 + r.nest * 2 ^ 4) + x.fifo.length * 2 ^ 7

/-- DIE_STATE: the apex die is IN_RESET while it restarts (R30, R490). -/
def State.shownState (s : State) (d : Nat) : Nat :=
  if d = 24 ∧ s.mgmt.restarting then dieInReset else s.reg (Reg.DIE_STATE d)

/-- SPARE_MAP word i, SPARE_STATUS and SPARE_FAILED (Table 15-19). -/
def State.spareMap (s : State) (d i : Nat) : Nat := ofBytesLE ((List.range 4).map fun k => s.physOf d (4 * i + k))
def State.failedMask (s : State) (d : Nat) : Nat := maskOf ((List.range 52).filter fun p => s.engFailed d p)
def State.spareStatus (s : State) (d : Nat) : Nat := (s.spares d).length + maskCount 52 (s.failedMask d) * 2 ^ 3

/-- ENG_IDENT (Table 02-13) and MAP_STATE of ENG_STATUS (Table 02-14). -/
def State.engIdent (s : State) (d p : Nat) : Nat := p + (s.logOf d p).getD 0x3F * 2 ^ 6 + d * 2 ^ 12
def State.mapState (s : State) (d p : Nat) : Nat :=
  if s.engFailed d p then 2 else if (s.logOf d p).isSome then 1 else 0

/-- IQ_STATUS (Table 02-12). -/
def State.iqStatus (s : State) (d p : Nat) : Nat :=
  let e := s.eng d p
  e.iq.length + (match e.run with | none => 0 | some r => r.launch.ctx * 2 ^ 8 + 2 ^ 12)

/-- PF_STATE (Table 08-13): position, ACTIVE, slabs resident in the window. -/
def State.pfState (s : State) (b k : Nat) : Nat :=
  match s.sched b k with
  | none => 0
  | some x => s.schedPos b x % 2 ^ 11 + 2 ^ 11 +
      ((s.windowCopies b k).filter fun e => !e.2.filling).length * 2 ^ 12

/-- KVP_GEOM, KVP_SEQS and KVP_BLOCKS (Table 09-9). -/
def State.kvGeom (s : State) (b n : Nat) : Nat :=
  if s.poolValid b n then Nat.log2 (s.poolOf b n).stride + (s.poolOf b n).slabs * 2 ^ 4 else 0
def State.kvPoolSeqs (s : State) (b n : Nat) : List KvSeq := s.kv.seqs.filter fun x => decide (x.bay = b) && decide (x.pool = n)
def State.kvSeqs (s : State) (b n : Nat) : Nat :=
  (s.kvPoolSeqs b n).length + ((s.kvPoolSeqs b n).filter fun x => decide (x.state = seqSwapped)).length * 2 ^ 16
def State.kvBlocks (s : State) (b n : Nat) : Nat := sumOver (fun x : KvSeq => x.blocks.length) (s.kvPoolSeqs b n)

/-- MEM_TABLE_SLABS: table slabs of the objects and of the sequences. -/
def State.tableCount (s : State) (b : Nat) : Nat :=
  s.tableSlabs b s.mem.objs + sumOver (fun x : KvSeq => if x.bay = b then x.tables else 0) s.kv.seqs

/-- MIRROR_COMMIT: the committed generation of the hosted mirror (R449). -/
def State.mirCommitted (s : State) (b : Nat) : Nat :=
  match s.mirHost b with
  | none => 0
  | some x => s.fld (Reg.EVT b x.cevt) 0 48

/-- DEV_DIES_FREE (Table 07-12). -/
def State.diesFree (s : State) : Nat := maskOf ((List.range 20).filter fun d => s.dieFree d)

/-- GR_STATUS (Table 14-14). -/
def State.grStatus (s : State) : Nat :=
  s.grState + b2n s.anyStaged 1 * 4 + s.fld Reg.GR_STATUS 3 2 * 8 + (if s.reg Reg.TAMPER_STATUS = 0 then 0 else 2 ^ 5)

/-- Word i of a record in the device log at DEVLOG_RD_IDX, and of a journal entry at JNL_RD_IDX. -/
def State.logWord (s : State) (i : Nat) : Nat :=
  ((mget (fun _ => ([] : List W32)) s.flt.devlog (s.reg Reg.DEVLOG_RD_IDX % 4096)).getD i 0).toNat
def State.jnlWord (s : State) (i : Nat) : Nat := wordAt (s.jnl (s.reg Reg.JNL_RD_IDX)).words i

/-- The value that the register of row r at `a` in die d's block reads as, access codes aside: `i` and `j` are its indices. -/
def State.view (s : State) (d : Nat) (r : RegRow) (i j a : Nat) : Nat :=
  match r.kind, r.base with
  | .all, 0x0 => d + (if d < 20 then 0 else if d < 24 then 2 ^ 5 else 2 ^ 6)
  | .all, 0x4 => s.incarn d
  | .all, 0x8 => s.shownState d
  | .all, 0x10 => s.now
  | .all, 0x4000 => s.errStatus d
  | .all, 0x4100 => wordAt (((s.domain d).active.map ErrRec.words).getD []) i
  | .all, 0x4140 => wordAt (((s.domain d).fifo.head?.map ErrRec.words).getD []) i
  | .apex, 0x108 => Config.serial.toNat
  | .apex, 0x6040 => s.logWord i
  | .apex, 0x100000 => s.grStatus
  | .apex, 0x100004 => s.resetDies
  | .apex, 0x300020 => s.jnlWord i
  | .apex, 0x400754 => min 0xFFFF (s.mirBacklog i / 2 ^ 20)
  | .apex, 0x400760 => s.mirCommitted i
  | .apex, 0x400C00 => (s.mem.objs.filter fun o => decide (o.bay = i)).length
  | .apex, 0x400C04 => s.tableCount i
  | .apex, 0x400C40 => s.pfState i j
  | .apex, 0x400E0C => s.kvGeom i j
  | .apex, 0x400E10 => s.kvSeqs i j
  | .apex, 0x400E14 => s.kvBlocks i j
  | .apex, 0x410008 => s.diesFree
  | .apex, 0x61000C => putBits (s.reg a) 14 1 (b2n s.pins.trip 1)
  | .apex, 0x700008 => s.busAddr
  | .apex, 0x700050 => s.fwState
  | .edge, 0x40808 => (s.fab.wins.filter fun w => decide (w.edge = d)).length
  | .edge, 0x80000 => s.ruStatus d
  | .compute, 0x20000 => s.spareMap d i
  | .compute, 0x20040 => s.spareStatus d
  | .compute, 0x20044 => s.failedMask d
  | .compute, 0x80000 => s.engIdent d i
  | .compute, 0x80004 => putBits (s.reg a) 0 2 (s.mapState d i)
  | .compute, 0x80070 => s.iqStatus d i
  | _, _ => s.reg a

/-- The two indices of offset `off` in a row (RegRow). -/
def RegRow.index (r : RegRow) (off : Nat) : Nat × Nat :=
  let x := off - r.base
  let y := if r.s1 = 0 then x else x % r.s1
  (if r.s1 = 0 then 0 else x / r.s1, if r.s2 = 0 then 0 else y / r.s2)

/-- The engine registers that PROFILE consent governs (R413). -/
def profiled (r : RegRow) : Bool :=
  decide (r.kind = .compute) && [0x80018, 0x80020, 0x80024, 0x80028, 0x80324, 0x80328, 0x80330, 0x80338].contains r.base

/-- Reads of the profile registers of die d are withheld: its bay has not consented. -/
def State.withheld (s : State) (d : Nat) (r : RegRow) : Bool :=
  profiled r && match s.bayOfDie d with
    | none => false
    | some b => decide (s.fld (Reg.BAY_CONSENT b) 2 1 = 0)

/-- The read of a whole register: its value, and what reading does (R7). -/
def State.readWhole (s : State) (d : Nat) (r : RegRow) (a : Nat) : Nat × State :=
  let x := r.index (a - dieBase d)
  if r.acc = .wo || s.withheld d r then (0, s)
  else
    let v := s.view d r x.1 x.2 a
    if r.acc = .rc then
      let s1 := s.setReg a 0
      (v, if r.kind = .apex ∧ r.base = 0x400C24 then s1.wmUpdate x.1 5 v 0 else s1)
    else (v, s)

/-! ### Writes -/

/-- The bay that owns an RWL register; none when it is an admin queue's, or its die is in no bay (R172, R206). -/
def State.rwlBay (s : State) (d : Nat) (r : RegRow) (i : Nat) : Option Nat :=
  if r.kind = .compute then s.bayOfDie d
  else if r.base < 0x400000 then s.qBayOf i
  else some i

/-- RWL fields are locked from the seal until the bay is torn down (Table 00-5). -/
def State.locked (s : State) (b : Nat) : Bool := decide (s.bayState b = bayRunning) || decide (s.bayState b = bayTeardown)

/-- Q_CTRL (Table 06-10): one operation; a write that names more than one is discarded. -/
def State.qCtrlWrite (s : State) (q v : Nat) : State :=
  let res := bitsAt v 2 2
  let ops := bitsAt v 0 1 + bitsAt v 1 1 + bitsAt v 4 1 + (if res = 0 then 0 else 1)
  if ops ≠ 1 then s
  else if bitsAt v 0 1 = 1 then s.qEnable q
  else if bitsAt v 1 1 = 1 then s.qDisable q
  else if bitsAt v 4 1 = 1 then s.qPreempt q
  else if res = 1 then s.resumeContinue q
  else if res = 2 then s.resumeRetry q
  else s.resumeDiscard q

/-- ERC_CTRL (Table 15-17): ARM and DISARM of one threshold together do nothing to it. -/
def State.ercCtrlWrite (s : State) (d v : Nat) : State :=
  s.forAll [0, 1] fun s t =>
    let arm := bitsAt v t 1
    let dis := bitsAt v (2 + t) 1
    if arm = dis then s else if arm = 1 then s.ercArm d t else s.ercDisarm d t

/-- A control of two bits, ARM or ENABLE below DISARM or DISABLE; both set are discarded. -/
def twoWay (s : State) (v : Nat) (on off : State) : State :=
  match v % 4 with
  | 1 => on
  | 2 => off
  | _ => s

/-- A write of the masked value, discarded where `ok` does not hold. -/
def State.putIf (s : State) (a v : Nat) (ok : Bool) : State := if ok then s.setReg a v else s

/-- One device fabric register of E0's copy (R374); the other copies are RO. -/
def State.fabWrite (s : State) (d base i v : Nat) : State :=
  if d ≠ 20 then s
  else
    match base with
    | 0x90000 => s.writeDevAddr v
    | 0x90004 => s.writeDims v
    | 0x90008 => if v = 0 then s else s.fabReg Reg.FAB_REQ_TIMEOUT_US v
    | 0x9000C => s.fabReg Reg.FAB_RETRY v
    | 0x90010 => if v = 0 then s else s.fabReg Reg.FAB_LINK_HOLD_US v
    | _ => s.writeAlias i v

/-- Words of OPERATOR_KEY_ID are written once after PKG_RESET_N (R493). -/
def State.keyWrite (s : State) (i v : Nat) : State :=
  if bitsAt s.mgmt.keySet i 1 = 1 then s
  else (s.setReg (Reg.OPERATOR_KEY_ID i) v).onMgmt fun m => { m with keySet := putBits m.keySet i 1 1 }

/-- What a write does in a row that has a behaviour of its own; none for a row that goes by its access code. -/
def State.ownWrite (s : State) (by_ : Agent) (d : Nat) (r : RegRow) (i j a v : Nat) : Option State :=
  match r.kind, r.base with
  | .all, 0x4004 => some (if v = 0 then s.setReg a 0 else s)
  | .all, 0x4008 => some (if v % 2 = 1 then s.fifoPop d else s)
  | .all, 0x4014 => some (s.setReg a (if bitsAt v 16 16 = 0 then putBits v 16 16 (s.fld a 16 16) else v))
  | .all, 0x401C => some (s.ercCtrlWrite d v)
  | .apex, 0x6100 => some (s.pctrl by_ i (v % 8))
  | .apex, 0x100410 => some (if v % 2 = 1 then s.scrubCommand else s)
  | .apex, 0x200024 => some (s.cplHeadWrite i v)
  | .apex, 0x200030 => some (s.qCtrlWrite i v)
  | .apex, 0x200040 => some (s.brkCtrlWrite i v)
  | .apex, 0x280000 => some (s.doorbell i v)
  | .apex, 0x240010 => some (s.evtSig v)
  | .apex, 0x300004 => some (s.jnlAckWrite v)
  | .apex, 0x400328 => some (twoWay s v (s.rtEnable i j) (s.rtDisable i j))
  | .apex, 0x40050C => some (s.lwCfgWrite i j v)
  | .apex, 0x400500 => some (s.putIf a v (decide (s.fld (Reg.LW_CFG i j) 0 1 = 0)))
  | .apex, 0x400508 => some (s.putIf a v (decide (s.fld (Reg.LW_CFG i j) 0 1 = 0)))
  | .apex, 0x400708 => some (s.putIf a v (decide (v ≠ 0)))
  | .apex, 0x400C08 => some (s.putIf a v (decide (v ≠ 0)))
  | .apex, 0x400C0C => some (s.putIf a v (decide (10 ≤ v) && decide (v ≤ 10000)))
  | .apex, 0x400D00 => some (s.putIf a v (decide (v % 8 ≠ 7)))
  | .apex, 0x400D08 => some (twoWay s v (s.wmArm i j) (s.wmDisarm i j))
  | .apex, 0x410000 => some (s.writeBudget v)
  | .apex, 0x500008 => some (s.putIf a v (decide (v % (s.link i).bar2Size = 0)))
  | .apex, 0x501010 => some (s.putIf a v !s.flushing)
  | .apex, 0x501018 => some (s.ccWinWrite i v)
  | .apex, 0x58000C => some ((s.setReg a v).flushVecs)
  | .apex, 0x589000 => some ((s.setReg a v).flushVecs)
  | .apex, 0x700020 => some (s.keyWrite i v)
  | .apex, 0x700054 => some (s.putIf a v (decide (60 ≤ v)))
  | .edge, 0x60000 => some (s.portCfgWrite ((d - 20) * 2 + i) v)
  | .edge, 0x61000 => some (match by_ with | .firmware => s.setFld a 0 17 v | .link _ => s)
  | .compute, 0x10040 => some (match by_ with | .firmware => if v % 2 = 1 then s.clearStart d else s | .link _ => s)
  | .compute, 0x80008 => some (s.engPower d i v)
  | .compute, 0x80040 => some (s.sentCtrl d i v)
  | .compute, 0x80400 => some (s.spadOwnWrite d i j v)
  | _, _ => if r.kind = .edge ∧ 0x90000 ≤ r.base then some (s.fabWrite d r.base i v) else none

/-- Rows whose RW registers are writable only in a state of their owner: the ring set-up of a DISABLED queue (R172), the
configuration of a DISABLED model (R289), a size the loft has (Table 04-9). -/
def State.mayWrite (s : State) (r : RegRow) (i j v : Nat) : Bool :=
  if r.kind = .apex ∧ 0x200000 ≤ r.base ∧ r.base < 0x200018 then decide (s.qState i = qDisabled)
  else if r.kind = .apex ∧ 0x400300 ≤ r.base ∧ r.base < 0x400380 then
    decide (s.rtSt i j = rtDisabled) && !s.rt.enabling.contains (i * 4 + j)
  else if r.kind = .compute ∧ r.base = 0x10000 then decide (v ≤ 8)
  else true

/-- The write of a whole register under its row (R5, R7): reserved bits of the value are ignored. -/
def State.writeWhole (s : State) (by_ : Agent) (d : Nat) (r : RegRow) (a w : Nat) : State :=
  let x := r.index (a - dieBase d)
  let v := w &&& r.mask
  match s.ownWrite by_ d r x.1 x.2 a v with
  | some t => t
  | none =>
    match r.acc with
    | .rw => s.putIf a v (s.mayWrite r x.1 x.2 v)
    | .w1c => s.setReg a (s.reg a - (s.reg a &&& v))
    | .rwl =>
      let open_ := match s.rwlBay d r x.1 with | none => true | some b => !s.locked b
      s.putIf a v (open_ && s.mayWrite r x.1 x.2 v)
    | _ => s

/-! ### Accesses -/

/-- The device answers accesses at all (R508, Table 17-8). -/
def State.barUp (s : State) : Bool := !s.pins.hold && !s.pins.booting && !s.pins.stopped

/-- Whether the address's die serves it (R38, R491). (log entry 30: DEDUCED) -/
def State.serves (s : State) (a : Nat) : Bool :=
  match splitDie a with
  | none => true
  | some (d, off) =>
    decide (off < 0x4000) || (if d = 24 ∧ s.mgmt.restarting then decide (0x700000 ≤ off) && decide (off < 0x710000)
      else decide (s.dieState d = dieOn))

/-- Half h (0 low, 1 high) of a 64-bit register takes effect alone (R37). -/
def State.writeHalf (s : State) (by_ : Agent) (d : Nat) (r : RegRow) (a h v : Nat) : State :=
  let old := if r.acc = .wo ∨ r.acc = .w1c then 0 else s.reg a
  s.writeWhole by_ d r a (putBits old (32 * h) 32 v)

/-- A held low half takes effect alone (R37). -/
def State.applyHeld (s : State) (n : Nat) : State :=
  match (s.link n).held with
  | none => s
  | some (a, v) =>
    let s1 := s.setLink n { s.link n with held := none }
    if !s1.serves a then s1
    else
      match findReg a with
      | none => s1
      | some (d, r, ra) => s1.writeHalf (.link (if n = 0 then 0 else 1)) d r ra 0 v

def State.dropLatch (s : State) (n : Nat) : State := s.setLink n { s.link n with latch := none }

/-- A 32-bit write. A link's low half of a 64-bit register is held for the high half. -/
def State.write32 (s : State) (by_ : Agent) (a v : Nat) : State :=
  if !s.serves a then s
  else
    match findReg a with
    | none => s
    | some (d, r, ra) =>
      if r.bits = 32 then s.writeWhole by_ d r ra v
      else if a = ra then
        match by_ with
        | .link n => s.setLink n.val { s.link n.val with held := some (ra, v) }
        | .firmware => s.writeHalf by_ d r ra 0 v
      else s.writeHalf by_ d r ra 1 v

def State.write64 (s : State) (by_ : Agent) (a v : Nat) : State :=
  match findReg a with
  | some (d, r, ra) =>
    if r.bits = 64 ∧ ra = a then (if s.serves a then s.writeWhole by_ d r ra v else s)
    else (s.write32 by_ a (v % 2 ^ 32)).write32 by_ (a + 4) (v / 2 ^ 32)
  | none => (s.write32 by_ a (v % 2 ^ 32)).write32 by_ (a + 4) (v / 2 ^ 32)

/-- The low half held by a link joins a 32-bit write of its register's high half. -/
def State.joined (s : State) (n a size v : Nat) : Option State :=
  match (s.link n).held with
  | none => none
  | some (la, lo) =>
    if size = 4 ∧ a = la + 4 then some ((s.setLink n { s.link n with held := none }).write64 (.link (if n = 0 then 0 else 1)) la (lo + v * 2 ^ 32))
    else none

/-- A write of `size` bytes at `a`. -/
def State.barWrite (s : State) (by_ : Agent) (a size v : Nat) : State :=
  let go (s : State) : State :=
    if size = 4 ∧ a % 4 = 0 then s.write32 by_ a (v % 2 ^ 32)
    else if size = 8 ∧ a % 8 = 0 then s.write64 by_ a v
    else s
  if !s.barUp then s
  else
    match by_ with
    | .firmware => go s
    | .link n =>
      if !s.linkUp n.val then s
      else
        match (s.dropLatch n.val).joined n.val a size (v % 2 ^ 32) with
        | some t => t
        | none => go ((s.dropLatch n.val).applyHeld n.val)

def allOnes32 : Nat := 0xFFFFFFFF

/-- A 32-bit read. The low half of a 64-bit register latches its high half for the link. -/
def State.read32 (s : State) (n : Nat) (latch : Option (Nat × Nat)) (a : Nat) : Nat × State :=
  if !s.serves a then (allOnes32, s)
  else
    match findReg a with
    | none => (0, s)
    | some (d, r, ra) =>
      if r.bits = 64 ∧ a ≠ ra then
        match latch with
        | some (la, hi) => if la = ra then (hi, s) else ((s.readWhole d r ra).1 / 2 ^ 32, (s.readWhole d r ra).2)
        | none => ((s.readWhole d r ra).1 / 2 ^ 32, (s.readWhole d r ra).2)
      else
        let x := s.readWhole d r ra
        if r.bits = 64 then
          (x.1 % 2 ^ 32, x.2.setLink n { x.2.link n with latch := some (ra, x.1 / 2 ^ 32) })
        else x

/-- A high half read after the low half `lo`. -/
def addHigh (lo : Nat) (hi : Nat × State) : Nat × State := (lo + hi.1 * 2 ^ 32, hi.2)
def readHigh (lo : Nat × State) (n a : Nat) : Nat × State := addHigh lo.1 (lo.2.read32 n none a)

/-- A 64-bit read as two 32-bit reads, the low half first (R37). -/
def State.readTwo (s : State) (n a : Nat) : Nat × State := readHigh (s.read32 n none a) n (a + 4)

/-- A 64-bit read at `a`, where `at_` is what `a` falls in. -/
def State.read64At (s : State) (n a : Nat) (at_ : Option (Nat × RegRow × Nat)) : Nat × State :=
  match at_ with
  | some (d, r, ra) =>
    if r.bits = 64 ∧ ra = a then
      (if s.serves a then s.readWhole d r ra else (allOnes32 + allOnes32 * 2 ^ 32, s))
    else s.readTwo n a
  | none => s.readTwo n a

def State.read64 (s : State) (n a : Nat) : Nat × State := s.read64At n a (findReg a)

/-- A read of `size` bytes at `a` by link n, and its completion. -/
def State.barRead (s : State) (n a size : Nat) : State :=
  if !s.barUp || !s.linkUp n then s
  else
    let latch := (s.link n).latch
    let s1 := (s.dropLatch n).applyHeld n
    let r := if size = 4 ∧ a % 4 = 0 then s1.read32 n latch a
      else if size = 8 ∧ a % 8 = 0 then s1.read64 n a
      else (allOnes32, s1)
    r.2.emit (.readData n a size r.1)

/-! ### Meanings -/

def execRegisterWrite (by_ : Agent) (addr : BitVec 26) (size : Nat) (data : W64) (s : State) : Outcome State Fault Refusal :=
  .next (s.barWrite by_ addr.toNat size data.toNat)
def execRegisterReadClear (link : LinkId) (addr : BitVec 26) (size : Nat) (s : State) : Outcome State Fault Refusal :=
  .next (s.barRead link.val addr.toNat size)
def execBar0LowHalfTimeout (link : LinkId) (s : State) : Outcome State Fault Refusal := .next (s.applyHeld link.val)

end Sys2Proof.Machine
end

