-- ==== Sys2Proof/Machine/Mirror.lean ====
section
/-! DEFINITION. The overlap mirror (R445 to R450): the rows MIRROR_SOURCE to MIRROR_STOP_HOST. -/

namespace Sys2Proof.Machine

open Host (Outcome)

/-- Ranges of SOURCE and RESTORE from slot 1 (Table 15-9): byte address and slabs. -/
def mirRanges (c : Cmd) : List (Nat × Nat) :=
  (List.range (c.p 6 0 5)).map fun k => (c.p64 (16 + 4 * k), c.p (18 + 4 * k) 0 24)

def Cmd.mirOp (c : Cmd) : Nat := c.p 0 0 3

/-- MIRROR_STATUS (Table 15-20): 0 SOURCE, 1 HOST, 2 SRC_FAILED, 3 HOLDING. -/
def State.mirBit (s : State) (b i v : Nat) : State := s.setFld (Reg.MIRROR_STATUS b) i 1 v

/-- Where half h of slab i lies on the buddy (R446). -/
def MirSrc.at_ (x : MirSrc) (i : Nat) : Nat :=
  let h := if markGet x.half i then 0 else 1
  x.region + (h * x.mslabs + i) * 65536

/-- Lines of a mirrored slab from local data. -/
def State.mirData (s : State) (b n line : Nat) : List Byte :=
  match (s.slab b n).home with
  | none => List.replicate 128 0
  | some loc => if (s.slab b n).zero then List.replicate 128 0 else s.lineBytes (loc * 65536 + line * 128)

/-- One line goes to the buddy, in the half that is not committed, and is marked in the line map. -/
def State.mirSend (s : State) (b i line : Nat) (bs : List Byte) : State :=
  match s.mirSrc b with
  | none => s
  | some x =>
    let m := mget (fun _ => 0) x.lines i
    let s1 := s.setMirSrc b (some { x with lines := mset (fun _ => 0) x.lines i (putBits m line 1 1) })
    (s1.remoteWrite (.mirror b i x.gen) b x.dev x.dbay (x.at_ i + line * 128) bs).count64 (Reg.MIRROR_TX_BYTES b) bs.length

/-- A whole slab from local data. -/
def State.mirSendSlab (s : State) (b i : Nat) : State :=
  match s.mirSrc b with
  | none => s
  | some x =>
    let n := rangeSlab x.ranges i
    let m := mget (fun _ => 0) x.lines i
    s.forAll ((List.range 512).filter fun l => decide (bitsAt m l 1 = 0)) fun s l => s.mirSend b i l (s.mirData b n l)

def isMirror (b : Nat) (r : FabReq) : Bool := match r.owner with | .mirror b' _ _ => decide (b' = b) | _ => false

/-- Mirroring stops: the record and the notice (R450). -/
def State.mirStop (s : State) (b : Nat) (x : MirSrc) (under port : Nat) : State :=
  let d := portDie port
  let det := [s.dieDetail d, under]
  let s1 := (s.dropReqs (isMirror b)).setMirSrc b (some { x with todo := [], held := [], sync := none, step := 0, failed := some under })
  let s2 := ((s1.mirBit b 2 1).mirBit b 3 0).setFld (Reg.BAY_FAULT_STATUS b) 21 1 1
  (s2.raise (errNote d 1 St.MIRROR_FAIL 5 port (some b) none 0 det false)).bayFaultNotice b

def State.finishIf (s : State) (c : Option Cmd) (st d0 d1 : Nat) : State :=
  match c with
  | none => s
  | some c => s.finish c st d0 d1

/-- Mirroring stops, and a running SYNC ends MIRROR_FAIL (R450). -/
def State.mirFails (s : State) (b : Nat) (x : MirSrc) (under port : Nat) : State :=
  let s3 := s.mirStop b x under port
  s3.finishIf (x.sync.bind fun w => s3.findCmd w.1 w.2) St.MIRROR_FAIL (s.dieDetail (portDie port)) under

/-- Step 4 of SYNC: the committed halves flip, and forwarding goes on (R448). -/
def State.mirCommit (s : State) (b : Nat) (x : MirSrc) (q seq : Nat) : State :=
  let y : MirSrc := { x with
    half := x.lines.foldl (fun h e => markPut h e.1 (!markGet h e.1)) x.half
    lines := [], gen := x.gen + 1, todo := x.held, held := [], sync := none, step := 0 }
  let s1 := ((s.setMirSrc b (some y)).mirBit b 3 0).setReg (Reg.MIRROR_GEN b) y.gen
  match s1.findCmd q seq with
  | none => s1
  | some c => s1.finish c St.OK (x.gen % 2 ^ 32) 0

/-- Forwarding and a SYNC go as far as the answers allow. -/
def State.mirGo (s : State) (b : Nat) : State :=
  match s.mirSrc b with
  | none => s
  | some x0 =>
    if x0.failed.isSome then s
    else
      let s0 := (s.setMirSrc b (some { x0 with todo := [] })).forAll x0.todo fun s e => s.mirSend b e.1 e.2.1 e.2.2
      match s0.mirSrc b with
      | none => s0
      | some x =>
        let step : FabReq → Bool := fun r => match x.sync with | some (q, seq) => decide (r.owner = FabFor.step q seq) | none => false
        match s0.fab.reqs.find? fun r => (isMirror b r || step r) && r.done && (firstFailed [r]).isSome with
        | some r =>
          match firstFailed [r] with
          | some f => (s0.dropReqs fun y => step y).mirFails b x f.1 r.port
          | none => s0
        | none =>
          let s1 := s0.dropReqs fun r => isMirror b r && r.done
          match x.sync with
          | none => s1
          | some (q, seq) =>
            if x.step = 1 ∧ !(s1.fab.reqs.any (isMirror b)) then
              (s1.setMirSrc b (some { x with step := 2 })).remoteSignal (.step q seq) b x.dev x.dbay x.cevt 2 x.gen
            else if x.step = 2 ∧ s1.fab.reqs.any (fun r => step r && r.done) then (s1.dropReqs step).mirCommit b x q seq
            else s1

/-- Every mirror source goes on. -/
def State.mirSettle (s : State) : State := s.forAll s.flt.mirSrc fun s e => s.mirGo e.1

/-! ### The operations -/

/-- A range of SOURCE is T2-homed, outside rethatch areas and the aperture (R447). -/
def State.mirRangeOk (s : State) (b : Nat) (r : Nat × Nat) : Bool :=
  decide (r.1 % 65536 = 0) && decide (0 < r.2) && decide (r.1 + r.2 * 65536 ≤ apertureBase) &&
    (List.range r.2).all fun i =>
      match s.objAt b (r.1 / 65536 + i) with
      | none => false
      | some o => decide (o.home = 0) && !o.isArea

def State.mirrorSource (c : Cmd) (s : State) : State :=
  let b := c.bay.getD 0
  let rs := mirRanges c
  if c.mirOp ≠ 0 then s
  else if (s.mirSrc b).isSome then s.endsWith c St.BAD_STATE
  else if !(rs.all (s.mirRangeOk b)) || decide (sumOver (·.2) rs ≠ c.p 4 0 24) then s.endsWith c St.ILLEGAL_FIELD
  else
    let x : MirSrc := ⟨c.p 1 0 24, c.p 1 24 4, c.p64 2, c.p 4 0 24, c.p 5 0 10, rs.map fun r => (r.1 / 65536, r.2), 1, [], [], [],
      [], none, 0, none⟩
    let s1 := ((s.setMirSrc b (some x)).setReg (Reg.MIRROR_GEN b) 1).mirBit b 0 1
    ((s1.mirBit b 2 0).forAll (List.range x.mslabs) fun s i => s.mirSendSlab b i).endsWith c St.OK

/-- HOST: the two halves as one object, deducted from SHARE1 (R446). -/
def State.mirrorHost (c : Cmd) (s : State) : State :=
  let b := c.bay.getD 0
  let n := 2 * c.p 4 0 24
  let o : Obj := { bay := b, base := c.p64 2 / 65536, n := n, home := 0, fill := false, wb := false, ro := false, link := 0
                   plain := false, layout := 0, fmt := 0, t3 := 0, t3tag := 0, groups := 0, migr := 0, alt := none, owner := .mirror }
  let need := n + s.newTables o
  let avail := s.reclaimable b
  if c.mirOp ≠ 1 then s
  else if (s.mirHost b).isSome ∨ s.evt b (c.p 5 0 10) ≠ 0 then s.endsWith c St.BAD_STATE
  else if apertureBase < c.p64 2 + n * 65536 ∨
      (s.mem.objs.any fun x => decide (x.bay = b) && rangesOverlap x.base x.n o.base o.n) then s.endsWith c St.ILLEGAL_FIELD
  else if sumOver s.usable (s.groups b) / 4 < need then s.finish c St.QUOTA (refusalDetail 1 need) avail
  else if avail < need ∨ (s.cq.adms.any fun a => decide (a.bay = b) && a.has 1) then
    s.finish c St.CAPACITY (refusalDetail 1 need) avail
  else
    let s1 := s.evictClean (need + 1) need b
    match s1.placeAll o o.n 0 with
    | none => s.finish c St.CAPACITY (refusalDetail 5 need) avail
    | some t =>
      let t1 := (t.addObj o).setReg (Reg.SHARE b 1) (t.share b 1 - need)
      let x : MirHost := ⟨c.p 1 0 24, c.p 1 24 4, c.p64 2, c.p 4 0 24, c.p 5 0 10, [], none⟩
      ((t1.setMirHost b (some x)).mirBit b 1 1).endsWith c St.OK

/-- SYNC: the lines of touched slabs that this generation has not written are sent, then the commit (R448). -/
def State.mirrorSync (c : Cmd) (s : State) : State :=
  let b := c.bay.getD 0
  if c.mirOp ≠ 2 then s
  else
    match s.mirSrc b with
    | none => s.endsWith c St.BAD_STATE
    | some x0 =>
      match x0.failed with
      | some u => s.finish c St.MIRROR_FAIL (s.dieDetail 20) u
      | none =>
        if x0.sync.isSome then s.endsWith c St.BAD_STATE
        else
          let s1 := (s.setMirSrc b (some { x0 with todo := [] })).forAll x0.todo fun s e => s.mirSend b e.1 e.2.1 e.2.2
          let touched := ((s1.mirSrc b).map fun x => x.lines.map (·.1)).getD []
          let s2 := s1.forAll touched fun s i => s.mirSendSlab b i
          match s2.mirSrc b with
          | none => s2
          | some x => ((s2.setMirSrc b (some { x with sync := some (c.q, c.seq), step := 1 })).mirBit b 3 1).setCmd
              { c with ran := true }

/-- The half of slab i that is committed at C: the highest generation not above C (R449). -/
def MirHost.committed (x : MirHost) (c i : Nat) : Nat :=
  let g0 := mget (fun _ => 0) x.gens i
  let g1 := mget (fun _ => 0) x.gens (x.mslabs + i)
  if g1 ≤ c ∧ (c < g0 ∨ g0 < g1) then 1 else 0

/-- RESTORE: the committed copy of every slab goes to the target's ranges (R449). -/
def State.mirrorRestore (c : Cmd) (m : Medium) (s : State) : State :=
  let b := c.bay.getD 0
  let rs := mirRanges c
  if c.mirOp ≠ 3 then s
  else
    match s.mirHost b with
    | none => s.endsWith c St.BAD_STATE
    | some x =>
      if x.frozen.isSome then s.endsWith c St.BAD_STATE
      else if (rs.any fun r => decide (r.1 % 65536 ≠ 0)) || decide (sumOver (·.2) rs ≠ x.mslabs) then s.endsWith c St.ILLEGAL_FIELD
      else
        let at_ := s.evt b x.cevt
        let sends (q : State × Acc) (i : Nat) : State × Acc :=
          let va := x.region + (x.committed at_ i * x.mslabs + i) * 65536
          let r := q.1.vaReadM (.cmd c.q c.seq) (if i = 0 then m else .good) b va 65536
          match r.2.2 with
          | .ok => (r.1.remoteWrite (.step c.q c.seq) b (c.p 1 0 24) (c.p 1 24 4)
              (rangeSlab (rs.map fun y => (y.1 / 65536, y.2)) i * 65536) (r.2.1.map pbyte), q.2)
          | a => (r.1, q.2.and a)
        let r := (List.range x.mslabs).foldl sends (s, Acc.ok)
        match r.2 with
        | .fail st va => (r.1.dropReqs fun (y : FabReq) => decide (y.owner = FabFor.step c.q c.seq)).finish c st (r.1.vaDetail b st va).1 (r.1.vaDetail b st va).2
        | _ => (r.1.setMirHost b (some { x with frozen := some at_ })).setCmd { c with ran := true }

/-- A RESTORE ends when every write is acknowledged. -/
def State.mirrorRestoreWait (s : State) (c : Cmd) : State :=
  let b := c.bay.getD 0
  let rs := s.reqsOf (.step c.q c.seq)
  let thaw (s : State) : State :=
    match s.mirHost b with
    | none => s
    | some x => s.setMirHost b (some { x with frozen := none })
  if c.mirOp ≠ 3 then s
  else
    match firstFailed rs with
    | some f => ((thaw s).dropReqs fun (y : FabReq) => decide (y.owner = FabFor.step c.q c.seq)).finish c f.1 f.2.1 f.2.2
    | none =>
      if rs.all FabReq.done then ((thaw s).dropReqs fun (y : FabReq) => decide (y.owner = FabFor.step c.q c.seq)).endsWith c St.OK else s

/-- STOP_SOURCE: forwarding ends; a running SYNC cannot commit. -/
def State.mirrorStopSource (c : Cmd) (s : State) : State :=
  let b := c.bay.getD 0
  if c.mirOp ≠ 4 then s
  else
    match s.mirSrc b with
    | none => s.endsWith c St.BAD_STATE
    | some x =>
      let s0 :=
        match x.sync with
        | none => s
        | some (q, seq) =>
          match (s.dropReqs fun (r : FabReq) => decide (r.owner = FabFor.step q seq)).findCmd q seq with
          | none => s
          | some y => (s.dropReqs fun (r : FabReq) => decide (r.owner = FabFor.step q seq)).finish y St.MIRROR_FAIL (s.dieDetail 20) 0
      let s1 := (s0.dropReqs (isMirror b)).setMirSrc b none
      (((s1.mirBit b 0 0).mirBit b 2 0).mirBit b 3 0).endsWith c St.OK

/-- STOP_HOST: the region is unmapped, and its slabs return to SHARE1. -/
def State.mirrorStopHost (c : Cmd) (s : State) : State :=
  let b := c.bay.getD 0
  if c.mirOp ≠ 5 then s
  else
    match s.mirHost b, s.mem.objs.find? fun o => decide (o.bay = b) && decide (o.owner = .mirror) with
    | some x, some o =>
      if x.frozen.isSome then s.endsWith c St.BAD_STATE
      else
        let need := o.n + (s.tableSlabs b s.mem.objs - s.tableSlabs b (s.mem.objs.filter fun y => decide (y ≠ o)))
        let s1 := (s.setReg (Reg.SHARE b 1) (s.share b 1 + need)).setUsed b 1 (s.used b 1 + need)
        (((s1.unmapObj o).setMirHost b none).mirBit b 1 0).endsWith c St.OK
    | _, _ => s.endsWith c St.BAD_STATE

/-! ### Meanings -/

def execMirrorSource (c : CmdRef) (s : State) : Outcome State Fault Refusal := .next (s.perform 0x31 c State.mirrorSource)
def execMirrorHost (c : CmdRef) (s : State) : Outcome State Fault Refusal := .next (s.perform 0x31 c State.mirrorHost)
def execMirrorSync (c : CmdRef) (s : State) : Outcome State Fault Refusal :=
  .next ((s.perform 0x31 c State.mirrorSync).mirSettle)
def execMirrorRestore (c : CmdRef) (m : Medium) (s : State) : Outcome State Fault Refusal :=
  .next ((s.running 0x31 c fun x t => t.mirrorRestoreWait x).perform 0x31 c fun x t => t.mirrorRestore x m)
def execMirrorStopSource (c : CmdRef) (s : State) : Outcome State Fault Refusal := .next (s.perform 0x31 c State.mirrorStopSource)
def execMirrorStopHost (c : CmdRef) (s : State) : Outcome State Fault Refusal := .next (s.perform 0x31 c State.mirrorStopHost)

end Sys2Proof.Machine
end

