-- ==== Sys2Proof/Machine/Dispatch.lean ====
section
/-! DEFINITION. The meaning of each command: one arm per row of the opcode table. -/

namespace Sys2Proof.Machine

def exec (i : Instr) (s : State) : Host.Outcome State Fault Refusal :=
  match i with
  | .registerWrite by_ addr size data => Sys2Proof.Machine.execRegisterWrite by_ addr size data s
  | .registerReadClear link addr size => Sys2Proof.Machine.execRegisterReadClear link addr size s
  | .bar0LowHalfTimeout link => Sys2Proof.Machine.execBar0LowHalfTimeout link s
  | .meshRequest p => Sys2Proof.Machine.execMeshRequest p s
  | .meshResponse p => Sys2Proof.Machine.execMeshResponse p s
  | .incarnBroadcastApply router die inc => Sys2Proof.Machine.execIncarnBroadcastApply router die inc s
  | .meshPacketAgeExpiry router p => Sys2Proof.Machine.execMeshPacketAgeExpiry router p s
  | .engineClockChange die mhz => Sys2Proof.Machine.execEngineClockChange die mhz s
  | .programFirstIssue die eng => Sys2Proof.Machine.execProgramFirstIssue die eng s
  | .imageFetchComplete die eng handle base m => Sys2Proof.Machine.execImageFetchComplete die eng handle base m s
  | .tileOverrunExpiry die eng => Sys2Proof.Machine.execTileOverrunExpiry die eng s
  | .engineClockGate die eng => Sys2Proof.Machine.execEngineClockGate die eng s
  | .engPowerReq die eng data => Sys2Proof.Machine.execEngPowerReq die eng data s
  | .enginePowerUpDone die eng pass => Sys2Proof.Machine.execEnginePowerUpDone die eng pass s
  | .sentCtrlWrite die eng data => Sys2Proof.Machine.execSentCtrlWrite die eng data s
  | .dmaPromotion die eng bank => Sys2Proof.Machine.execDmaPromotion die eng bank s
  | .asyncTransferComplete die eng tag ecc m => Sys2Proof.Machine.execAsyncTransferComplete die eng tag ecc m s
  | .sload r => Sys2Proof.Machine.execSload r s
  | .swap r => Sys2Proof.Machine.execSwap r s
  | .stream r freeze => Sys2Proof.Machine.execStream r freeze s
  | .swapStream r freeze => Sys2Proof.Machine.execSwapStream r freeze s
  | .fadd r => Sys2Proof.Machine.execFadd r s
  | .fsub r => Sys2Proof.Machine.execFsub r s
  | .fmul r => Sys2Proof.Machine.execFmul r s
  | .fma r => Sys2Proof.Machine.execFma r s
  | .fmin r => Sys2Proof.Machine.execFmin r s
  | .fmax r => Sys2Proof.Machine.execFmax r s
  | .fcmp r => Sys2Proof.Machine.execFcmp r s
  | .dadd r => Sys2Proof.Machine.execDadd r s
  | .dmul r => Sys2Proof.Machine.execDmul r s
  | .dfma r => Sys2Proof.Machine.execDfma r s
  | .exp r => Sys2Proof.Machine.execExp r s
  | .log r => Sys2Proof.Machine.execLog r s
  | .rsqrt r => Sys2Proof.Machine.execRsqrt r s
  | .iadd r => Sys2Proof.Machine.execIadd r s
  | .isub r => Sys2Proof.Machine.execIsub r s
  | .imul r => Sys2Proof.Machine.execImul r s
  | .andOp r => Sys2Proof.Machine.execAndOp r s
  | .orOp r => Sys2Proof.Machine.execOrOp r s
  | .xorOp r => Sys2Proof.Machine.execXorOp r s
  | .shl r => Sys2Proof.Machine.execShl r s
  | .shr r => Sys2Proof.Machine.execShr r s
  | .sra r => Sys2Proof.Machine.execSra r s
  | .sel r => Sys2Proof.Machine.execSel r s
  | .imin r => Sys2Proof.Machine.execImin r s
  | .imax r => Sys2Proof.Machine.execImax r s
  | .exadd r => Sys2Proof.Machine.execExadd r s
  | .cvt r => Sys2Proof.Machine.execCvt r s
  | .rsum r => Sys2Proof.Machine.execRsum r s
  | .rmax r => Sys2Proof.Machine.execRmax r s
  | .rmin r => Sys2Proof.Machine.execRmin r s
  | .excvt r => Sys2Proof.Machine.execExcvt r s
  | .rbits r => Sys2Proof.Machine.execRbits r s
  | .vld r => Sys2Proof.Machine.execVld r s
  | .vst r => Sys2Proof.Machine.execVst r s
  | .ald r => Sys2Proof.Machine.execAld r s
  | .ast r => Sys2Proof.Machine.execAst r s
  | .lftr r => Sys2Proof.Machine.execLftr r s
  | .lftw r => Sys2Proof.Machine.execLftw r s
  | .xput r => Sys2Proof.Machine.execXput r s
  | .xget r => Sys2Proof.Machine.execXget r s
  | .aset r => Sys2Proof.Machine.execAset r s
  | .abase r => Sys2Proof.Machine.execAbase r s
  | .arst r => Sys2Proof.Machine.execArst r s
  | .sldi r => Sys2Proof.Machine.execSldi r s
  | .saddi r => Sys2Proof.Machine.execSaddi r s
  | .sadd r => Sys2Proof.Machine.execSadd r s
  | .sshl r => Sys2Proof.Machine.execSshl r s
  | .rdrain r => Sys2Proof.Machine.execRdrain r s
  | .rvec r => Sys2Proof.Machine.execRvec r s
  | .rraw r => Sys2Proof.Machine.execRraw r s
  | .endProgram r => Sys2Proof.Machine.execEndProgram r s
  | .skip r => Sys2Proof.Machine.execSkip r s
  | .loop r => Sys2Proof.Machine.execLoop r s
  | .waitt r => Sys2Proof.Machine.execWaitt r s
  | .waite r => Sys2Proof.Machine.execWaite r s
  | .waitRelease die eng n => Sys2Proof.Machine.execWaitRelease die eng n s
  | .sige r => Sys2Proof.Machine.execSige r s
  | .sigeEventApply die eng => Sys2Proof.Machine.execSigeEventApply die eng s
  | .spadOwnWrite die eng bank data => Sys2Proof.Machine.execSpadOwnWrite die eng bank data s
  | .spadHandover die eng bank => Sys2Proof.Machine.execSpadHandover die eng bank s
  | .clearStart by_ die => Sys2Proof.Machine.execClearStart by_ die s
  | .clearDone die mismatch failing => Sys2Proof.Machine.execClearDone die mismatch failing s
  | .patrolScrubRead die word m => Sys2Proof.Machine.execPatrolScrubRead die word m s
  | .loftRequest die bay la n bs m => Sys2Proof.Machine.execLoftRequest die bay la n bs m s
  | .doorbell q tail => Sys2Proof.Machine.execDoorbell q tail s
  | .commandFetch cp => Sys2Proof.Machine.execCommandFetch cp s
  | .ringReadComplete q words fail => Sys2Proof.Machine.execRingReadComplete q words fail s
  | .commandStart c => Sys2Proof.Machine.execCommandStart c s
  | .commandComplete c => Sys2Proof.Machine.execCommandComplete c s
  | .commandSignal c => Sys2Proof.Machine.execCommandSignal c s
  | .depTimeout c => Sys2Proof.Machine.execDepTimeout c s
  | .depScan => Sys2Proof.Machine.execDepScan s
  | .cplHeadWrite q head => Sys2Proof.Machine.execCplHeadWrite q head s
  | .qEnable q => Sys2Proof.Machine.execQEnable q s
  | .qDisable q => Sys2Proof.Machine.execQDisable q s
  | .resumeContinue q => Sys2Proof.Machine.execResumeContinue q s
  | .resumeRetry q => Sys2Proof.Machine.execResumeRetry q s
  | .resumeDiscard q => Sys2Proof.Machine.execResumeDiscard q s
  | .qPreempt q => Sys2Proof.Machine.execQPreempt q s
  | .queuePreempted q => Sys2Proof.Machine.execQueuePreempted q s
  | .brkCtrlWrite q data => Sys2Proof.Machine.execBrkCtrlWrite q data s
  | .evtSig data => Sys2Proof.Machine.execEvtSig data s
  | .jnlAckWrite pos => Sys2Proof.Machine.execJnlAckWrite pos s
  | .nop c => Sys2Proof.Machine.execNop c s
  | .tileLaunch c => Sys2Proof.Machine.execTileLaunch c s
  | .copy c => Sys2Proof.Machine.execCopy c s
  | .fill c => Sys2Proof.Machine.execFill c s
  | .copyChunkDone c ecc ms md => Sys2Proof.Machine.execCopyChunkDone c ecc ms md s
  | .fence c => Sys2Proof.Machine.execFence c s
  | .evtInit c => Sys2Proof.Machine.execEvtInit c s
  | .engFlag c => Sys2Proof.Machine.execEngFlag c s
  | .journalMark c => Sys2Proof.Machine.execJournalMark c s
  | .bayCreate c => Sys2Proof.Machine.execBayCreate c s
  | .baySeal c => Sys2Proof.Machine.execBaySeal c s
  | .bayRoles c => Sys2Proof.Machine.execBayRoles c s
  | .bayTeardown c => Sys2Proof.Machine.execBayTeardown c s
  | .teardownWaitExpiry bay => Sys2Proof.Machine.execTeardownWaitExpiry bay s
  | .bayScrub c => Sys2Proof.Machine.execBayScrub c s
  | .hbmEraseDone bay => Sys2Proof.Machine.execHbmEraseDone bay s
  | .phaseBegin c => Sys2Proof.Machine.execPhaseBegin c s
  | .phaseEnd c => Sys2Proof.Machine.execPhaseEnd c s
  | .phaseCancel c => Sys2Proof.Machine.execPhaseCancel c s
  | .phaseBudgetExpiry bay timer => Sys2Proof.Machine.execPhaseBudgetExpiry bay timer s
  | .admissionGrant c => Sys2Proof.Machine.execAdmissionGrant c s
  | .admitTimeout c => Sys2Proof.Machine.execAdmitTimeout c s
  | .powerControlTick bay watts => Sys2Proof.Machine.execPowerControlTick bay watts s
  | .memMap c => Sys2Proof.Machine.execMemMap c s
  | .memUnmap c => Sys2Proof.Machine.execMemUnmap c s
  | .migrate c => Sys2Proof.Machine.execMigrate c s
  | .migrateSlabDone c m fail => Sys2Proof.Machine.execMigrateSlabDone c m fail s
  | .prefetchSched c => Sys2Proof.Machine.execPrefetchSched c s
  | .prefetchFetch bay k => Sys2Proof.Machine.execPrefetchFetch bay k s
  | .hbmRequest bay va n bs m => Sys2Proof.Machine.execHbmRequest bay va n bs m s
  | .zeroSlabWrite bay slab => Sys2Proof.Machine.execZeroSlabWrite bay slab s
  | .t3Response link bay va fill bs bad error ns => Sys2Proof.Machine.execT3Response link bay va fill bs bad error ns s
  | .t3Timeout bay va fill => Sys2Proof.Machine.execT3Timeout bay va fill s
  | .writeBackDone bay slab fail => Sys2Proof.Machine.execWriteBackDone bay slab fail s
  | .ageEpochTick bay => Sys2Proof.Machine.execAgeEpochTick bay s
  | .wmArm bay w => Sys2Proof.Machine.execWmArm bay w s
  | .wmDisarm bay w => Sys2Proof.Machine.execWmDisarm bay w s
  | .pageAlloc c => Sys2Proof.Machine.execPageAlloc c s
  | .pageFree c => Sys2Proof.Machine.execPageFree c s
  | .pageSwapOut c m fail => Sys2Proof.Machine.execPageSwapOut c m fail s
  | .pageSwapIn c => Sys2Proof.Machine.execPageSwapIn c s
  | .ptUpdateWindow c m => Sys2Proof.Machine.execPtUpdateWindow c m s
  | .ptUpdateAdvance c => Sys2Proof.Machine.execPtUpdateAdvance c s
  | .rtEnable bay model => Sys2Proof.Machine.execRtEnable bay model s
  | .rtDisable bay model => Sys2Proof.Machine.execRtDisable bay model s
  | .rtStageMemory c m => Sys2Proof.Machine.execRtStageMemory c m s
  | .rtStageFabric c m => Sys2Proof.Machine.execRtStageFabric c m s
  | .stagingLanding bay va bytes => Sys2Proof.Machine.execStagingLanding bay va bytes s
  | .stageTimeout c => Sys2Proof.Machine.execStageTimeout c s
  | .rtVerifyCheckActive c differs => Sys2Proof.Machine.execRtVerifyCheckActive c differs s
  | .rtVerifyCheckStaged c differs => Sys2Proof.Machine.execRtVerifyCheckStaged c differs s
  | .rtVerifyPublish c m => Sys2Proof.Machine.execRtVerifyPublish c m s
  | .rtArmStrict c => Sys2Proof.Machine.execRtArmStrict c s
  | .rtArmRolling c => Sys2Proof.Machine.execRtArmRolling c s
  | .rtAbort c => Sys2Proof.Machine.execRtAbort c s
  | .rtAbortAdapter c => Sys2Proof.Machine.execRtAbortAdapter c s
  | .rtAdapter c m => Sys2Proof.Machine.execRtAdapter c m s
  | .barrierTimeout c => Sys2Proof.Machine.execBarrierTimeout c s
  | .recheckPass bay model active staged => Sys2Proof.Machine.execRecheckPass bay model active staged s
  | .ridge c m => Sys2Proof.Machine.execRidge c m s
  | .valley c m => Sys2Proof.Machine.execValley c m s
  | .collReady port bytes => Sys2Proof.Machine.execCollReady port bytes s
  | .collData port bytes poisoned buf m => Sys2Proof.Machine.execCollData port bytes poisoned buf m s
  | .collDone port bytes => Sys2Proof.Machine.execCollDone port bytes s
  | .collAbort port bytes => Sys2Proof.Machine.execCollAbort port bytes s
  | .collTimeout c => Sys2Proof.Machine.execCollTimeout c s
  | .portCfgWrite port data => Sys2Proof.Machine.execPortCfgWrite port data s
  | .trainingBurst port => Sys2Proof.Machine.execTrainingBurst port s
  | .partnerBurst port lanes => Sys2Proof.Machine.execPartnerBurst port lanes s
  | .trainDone port => Sys2Proof.Machine.execTrainDone port s
  | .trainTimeout port => Sys2Proof.Machine.execTrainTimeout port s
  | .alignDone port locked => Sys2Proof.Machine.execAlignDone port locked s
  | .negotiateDone port majorMin majorMax features2 features3 peer role => Sys2Proof.Machine.execNegotiateDone port majorMin majorMax features2 features3 peer role s
  | .linkSignalLoss port => Sys2Proof.Machine.execLinkSignalLoss port s
  | .retrainDone port good => Sys2Proof.Machine.execRetrainDone port good s
  | .flitReceive port hdr corrected bad ack => Sys2Proof.Machine.execFlitReceive port hdr corrected bad ack s
  | .flitReplay port fseq => Sys2Proof.Machine.execFlitReplay port fseq s
  | .laneRetire port lane count => Sys2Proof.Machine.execLaneRetire port lane count s
  | .packetReceive port bytes => Sys2Proof.Machine.execPacketReceive port bytes s
  | .linkHoldExpiry port => Sys2Proof.Machine.execLinkHoldExpiry port s
  | .remoteRequest port bytes busy m => Sys2Proof.Machine.execRemoteRequest port bytes busy m s
  | .remoteResponse port bytes => Sys2Proof.Machine.execRemoteResponse port bytes s
  | .retryBackoffExpiry bay gen seq => Sys2Proof.Machine.execRetryBackoffExpiry bay gen seq s
  | .fabReqTimeout bay gen seq => Sys2Proof.Machine.execFabReqTimeout bay gen seq s
  | .lwCfgWrite bay win data => Sys2Proof.Machine.execLwCfgWrite bay win data s
  | .timeExchange port offset delay depth => Sys2Proof.Machine.execTimeExchange port offset delay depth s
  | .ppsEdge => Sys2Proof.Machine.execPpsEdge s
  | .timeParentLoss => Sys2Proof.Machine.execTimeParentLoss s
  | .linkAuthDone port ok => Sys2Proof.Machine.execLinkAuthDone port ok s
  | .attestReport c => Sys2Proof.Machine.execAttestReport c s
  | .attestSealNonce c => Sys2Proof.Machine.execAttestSealNonce c s
  | .attestAddPubkey c => Sys2Proof.Machine.execAttestAddPubkey c s
  | .attestSetConsent c => Sys2Proof.Machine.execAttestSetConsent c s
  | .attestRotateLink c => Sys2Proof.Machine.execAttestRotateLink c s
  | .trngHealthFail => Sys2Proof.Machine.execTrngHealthFail s
  | .trngRetest pass => Sys2Proof.Machine.execTrngRetest pass s
  | .tamperDetect kind => Sys2Proof.Machine.execTamperDetect kind s
  | .dscrubStart => Sys2Proof.Machine.execDscrubStart s
  | .scanExtest => Sys2Proof.Machine.execScanExtest s
  | .scanDebugInstruction die => Sys2Proof.Machine.execScanDebugInstruction die s
  | .getVersion ep => Sys2Proof.Machine.execGetVersion ep s
  | .getCapabilities ep => Sys2Proof.Machine.execGetCapabilities ep s
  | .negotiateAlgorithms ep sign hash dhe aead => Sys2Proof.Machine.execNegotiateAlgorithms ep sign hash dhe aead s
  | .getDigests ep => Sys2Proof.Machine.execGetDigests ep s
  | .getCertificate ep slot off len => Sys2Proof.Machine.execGetCertificate ep slot off len s
  | .challenge ep slot nonce => Sys2Proof.Machine.execChallenge ep slot nonce s
  | .getMeasurements ep index sign nonce => Sys2Proof.Machine.execGetMeasurements ep index sign nonce s
  | .keyExchange ep x y id => Sys2Proof.Machine.execKeyExchange ep x y id s
  | .finish ep id mac peer => Sys2Proof.Machine.execFinish ep id mac peer s
  | .endSession ep id => Sys2Proof.Machine.execEndSession ep id s
  | .respondIfReady ep token => Sys2Proof.Machine.execRespondIfReady ep token s
  | .errFifoPop die => Sys2Proof.Machine.execErrFifoPop die s
  | .engineTestDone die eng pass ok => Sys2Proof.Machine.execEngineTestDone die eng pass ok s
  | .edgeReturnTimeout die => Sys2Proof.Machine.execEdgeReturnTimeout die s
  | .closeDie by_ die => Sys2Proof.Machine.execCloseDie by_ die s
  | .offDie by_ die => Sys2Proof.Machine.execOffDie by_ die s
  | .openDie by_ die => Sys2Proof.Machine.execOpenDie by_ die s
  | .powerOn by_ die => Sys2Proof.Machine.execPowerOn by_ die s
  | .partialReset by_ die => Sys2Proof.Machine.execPartialReset by_ die s
  | .dieDrained die => Sys2Proof.Machine.execDieDrained die s
  | .drainLimitExpiry die => Sys2Proof.Machine.execDrainLimitExpiry die s
  | .diePowerOpDone die => Sys2Proof.Machine.execDiePowerOpDone die s
  | .ercTick die => Sys2Proof.Machine.execErcTick die s
  | .ercArm die failing => Sys2Proof.Machine.execErcArm die failing s
  | .ercDisarm die failing => Sys2Proof.Machine.execErcDisarm die failing s
  | .mirrorSource c => Sys2Proof.Machine.execMirrorSource c s
  | .mirrorHost c => Sys2Proof.Machine.execMirrorHost c s
  | .mirrorSync c => Sys2Proof.Machine.execMirrorSync c s
  | .mirrorRestore c m => Sys2Proof.Machine.execMirrorRestore c m s
  | .mirrorStopSource c => Sys2Proof.Machine.execMirrorStopSource c s
  | .mirrorStopHost c => Sys2Proof.Machine.execMirrorStopHost c s
  | .ckptTake c m => Sys2Proof.Machine.execCkptTake c m s
  | .ckptRestore c m => Sys2Proof.Machine.execCkptRestore c m s
  | .ckptSched c => Sys2Proof.Machine.execCkptSched c s
  | .pkgResetAssert => Sys2Proof.Machine.execPkgResetAssert s
  | .pkgResetRelease clocks => Sys2Proof.Machine.execPkgResetRelease clocks s
  | .bootComplete expect addr dims tags bad => Sys2Proof.Machine.execBootComplete expect addr dims tags bad s
  | .perstAssert link => Sys2Proof.Machine.execPerstAssert link s
  | .perstRelease link => Sys2Proof.Machine.execPerstRelease link s
  | .hostLinkDown link => Sys2Proof.Machine.execHostLinkDown link s
  | .hostLinkError link bay va fill poisoned => Sys2Proof.Machine.execHostLinkError link bay va fill poisoned s
  | .bar2Access link off len data m => Sys2Proof.Machine.execBar2Access link off len data m s
  | .msixUnmask link en mask => Sys2Proof.Machine.execMsixUnmask link en mask s
  | .snpInv line => Sys2Proof.Machine.execSnpInv line s
  | .snpData line => Sys2Proof.Machine.execSnpData line s
  | .snpCur line => Sys2Proof.Machine.execSnpCur line s
  | .goWritePull line drop => Sys2Proof.Machine.execGoWritePull line drop s
  | .goWaitExpiry line => Sys2Proof.Machine.execGoWaitExpiry line s
  | .ccWinCfgWrite win data => Sys2Proof.Machine.execCcWinCfgWrite win data s
  | .ccFlushDone => Sys2Proof.Machine.execCcFlushDone s
  | .mgmtResetAssert => Sys2Proof.Machine.execMgmtResetAssert s
  | .islandRestart powerUp ok straps => Sys2Proof.Machine.execIslandRestart powerUp ok straps s
  | .islandLoadRestart ok => Sys2Proof.Machine.execIslandLoadRestart ok s
  | .entdaa port => Sys2Proof.Machine.execEntdaa port s
  | .setdasa port addr => Sys2Proof.Machine.execSetdasa port addr s
  | .rstdaa port => Sys2Proof.Machine.execRstdaa port s
  | .mctpPacket ep pec src dst tag seq som eom bytes => Sys2Proof.Machine.execMctpPacket ep pec src dst tag seq som eom bytes s
  | .mctpReasmTimeout ep src tag => Sys2Proof.Machine.execMctpReasmTimeout ep src tag s
  | .setEndpointId ep eid => Sys2Proof.Machine.execSetEndpointId ep eid s
  | .smbusAraRead port => Sys2Proof.Machine.execSmbusAraRead port s
  | .sensorRefresh power power1s amps dies stk => Sys2Proof.Machine.execSensorRefresh power power1s amps dies stk s
  | .getSensorReading ep src inst sensor => Sys2Proof.Machine.execGetSensorReading ep src inst sensor s
  | .pldmEventRetry id => Sys2Proof.Machine.execPldmEventRetry id s
  | .requestFirmwareData ep bytes last => Sys2Proof.Machine.execRequestFirmwareData ep bytes last s
  | .verifyComplete ep ua => Sys2Proof.Machine.execVerifyComplete ep ua s
  | .applyComplete ep ua => Sys2Proof.Machine.execApplyComplete ep ua s
  | .activateFirmware ep src inst => Sys2Proof.Machine.execActivateFirmware ep src inst s
  | .intakeResume => Sys2Proof.Machine.execIntakeResume s
  | .activationWatchdog => Sys2Proof.Machine.execActivationWatchdog s
  | .fwTrialExpiry => Sys2Proof.Machine.execFwTrialExpiry s
  | .getIdentity h => Sys2Proof.Machine.execGetIdentity h s
  | .getHealth h => Sys2Proof.Machine.execGetHealth h s
  | .readDevlog h pos => Sys2Proof.Machine.execReadDevlog h pos s
  | .getPorts h => Sys2Proof.Machine.execGetPorts h s
  | .setFabric h addr dims time => Sys2Proof.Machine.execSetFabric h addr dims time s
  | .setPort h port expect sticky => Sys2Proof.Machine.execSetPort h port expect sticky s
  | .setPassSlots h port mask job => Sys2Proof.Machine.execSetPassSlots h port mask job s
  | .setAlias h entry logical physical valid => Sys2Proof.Machine.execSetAlias h entry logical physical valid s
  | .fwCommit h => Sys2Proof.Machine.execFwCommit h s
  | .svnAdvance h n => Sys2Proof.Machine.execSvnAdvance h n s
  | .deviceScrub h => Sys2Proof.Machine.execDeviceScrub h s
  | .diePower h die op => Sys2Proof.Machine.execDiePower h die op s
  | .setBayBudget h watts => Sys2Proof.Machine.execSetBayBudget h watts s
  | .railPowerFail rail => Sys2Proof.Machine.execRailPowerFail rail s
  | .railRise rail => Sys2Proof.Machine.execRailRise rail s
  | .refclkLoss clock => Sys2Proof.Machine.execRefclkLoss clock s
  | .thermalEmergency => Sys2Proof.Machine.execThermalEmergency s
  | .thermalClampRelease => Sys2Proof.Machine.execThermalClampRelease s
  | .thermalTrip => Sys2Proof.Machine.execThermalTrip s
  | .testEnAssert => Sys2Proof.Machine.execTestEnAssert s
  | .hostLinkUp link rate width flit cxl bar2 => Sys2Proof.Machine.execHostLinkUp link rate width flit cxl bar2 s
  | .h2dGo line data excl => Sys2Proof.Machine.execH2dGo line data excl s
  | .timePpsOutput => Sys2Proof.Machine.execTimePpsOutput s
  | .testEnRelease => Sys2Proof.Machine.execTestEnRelease s

end Sys2Proof.Machine
end

