-- ==== Sys2Proof/Machine/Tick.lean ====
section
/-! DEFINITION. What happens at a step without a command: one apex cycle passes, and what waits for nothing but its turn goes
on. -/

namespace Sys2Proof.Machine

/-- Firmware handling, failures on links that are down, writes that waited, remote requests, generator models, collectives,
mirrors and the reported firmware state go on by what can be done now. -/
def State.settleAll (s : State) : State :=
  let s1 := s.settle.measureSettle.linkSettle.retryDevWrites
  (s1.settleFab.rtPoll.collSettle.mirSettle).fwSettle

/-- One nanosecond (R29): nothing passes while the device holds itself in reset or its clocks are stopped (R503, R513), and
nothing settles before the boot has completed. (log entry 2: DESIGN CHOICE) -/
def State.tick (s : State) : State :=
  if s.pins.hold || s.pins.stopped then s
  else if s.pins.booting then s.passNs
  else s.passNs.settleAll

end Sys2Proof.Machine
end

