-- ==== Sys2Proof/Safety.lean ====
section
/-! DEFINITION. What a safe run is, in the terms that statements use: every sparse map of the state keeps its one canonical
form (keys strictly rising, no entry at its default), so that equal memories are equal data. -/

namespace Sys2Proof

open Machine

structure Machine.StatSet.Canonical (x : StatSet) : Prop where
  rows : mwf zeroByte x.rows = true
  scales : mwf zeroByte x.scales = true

structure Machine.Engine.Canonical (e : Engine) : Prop where
  spad : mwf zeroByte e.spad = true
  poison : mwf notPoisoned e.poison = true
  acc : mwf zeroWord e.acc = true
  vreg : mwf zeroWord e.vreg = true
  set0 : e.set0.Canonical
  set1 : e.set1.Canonical
  tags : mwf noTag e.tags = true
  kept : mwf notPoisoned e.kept = true

structure Machine.Lofts.Canonical (l : Lofts) : Prop where
  bytes : mwf (fun _ => (0 : Byte)) l.bytes = true
  poison : mwf (fun _ => false) l.poison = true
  lost : mwf (fun _ => 0) l.lost = true
  fresh : mwf (fun _ => false) l.fresh = true
  clr : mwf (fun _ => 0) l.clr = true

structure Machine.Mem.Canonical (m : Mem) : Prop where
  hbm : mwf (fun _ => (0 : Byte)) m.hbm = true
  poison : mwf (fun _ => false) m.poison = true
  use : mwf useDefault m.use = true
  slabs : mwf slabDefault m.slabs = true
  epochs : mwf (fun _ => 0) m.epochs = true
  badSeen : mwf (fun _ => 0) m.badSeen = true
  lat : mwf (fun _ => 0) m.lat = true
  turns : mwf (fun _ => 0) m.turns = true

structure Machine.CmdState.Canonical (c : CmdState) : Prop where
  queues : mwf queueDefault c.queues = true
  journal : mwf jnlDefault c.journal = true
  phases : mwf phaseDefault c.phases = true
  bays : mwf bayXDefault c.bays = true

structure Machine.Faults.Canonical (f : Faults) : Prop where
  domains : mwf domDefault f.domains = true
  devlog : mwf (fun _ => ([] : List W32)) f.devlog = true
  dieOps : mwf (fun _ => DieOp.none) f.dieOps = true
  spare : mwf spareDefault f.spare = true
  failed : mwf failedDefault f.failed = true
  ckpts : mwf ckptDefault f.ckpts = true
  mirSrc : mwf mirSrcDefault f.mirSrc = true
  mirHost : mwf mirHostDefault f.mirHost = true

/-- Every sparse map of the state is in canonical form. -/
structure Machine.State.Canonical (s : State) : Prop where
  regs : mwf resetOf s.regs = true
  engines : mwf engDefault s.engines = true
  lofts : s.lofts.Canonical
  mem : s.mem.Canonical
  cq : s.cq.Canonical
  flt : s.flt.Canonical
  cache : mwf ccDefault s.hosts.cc = true
  copies : mwf (fun _ => (0 : Byte)) s.mesh.copies = true
  ports : mwf portDefault s.fab.ports = true
  keys : mwf keysDefault s.sec.keys = true
  models : mwf rtDefault s.rt.models = true
  sensors : mwf (fun _ => 0) s.mgmt.sensors = true
  engine : ∀ e ∈ s.engines, e.2.Canonical

/-- A step from s goes on. -/
def Machine.State.runs (s : State) : Prop := ∃ t, step s = .next t

/-- Every state reached in at most k steps from s goes on. -/
def Machine.State.safeFor (s : State) : Nat → Prop
  | 0 => True
  | k + 1 => ∃ t, step s = .next t ∧ t.safeFor k

end Sys2Proof
end

