-- ==== Sys2Proof/Claims.lean ====
section
/-! DEFINITION. The words that the statements of Certificates use: when an engine's operation issues, what an operation of
the array has in flight, which stores stand, and what a command does to the state. -/

namespace Sys2Proof.Claims

open Machine

/-! ### Commands -/

/-- Command `i` completes in state `s`: it answers a next state, of which `P` holds. -/
def completes (s : State) (i : Instr) (P : State → Prop) : Prop := ∃ t, exec i s = .next t ∧ P t

/-- Command `i` has no effect in state `s`. -/
def ignored (s : State) (i : Instr) : Prop := exec i s = .next s

/-- Between two states nothing differs but registers, and of those only `as`. -/
def onlyRegs (t s : State) (as : List Nat) : Prop := t = { s with regs := t.regs } ∧ ∀ a, a ∉ as → t.reg a = s.reg a

/-- Between two states nothing differs but registers of `as` and engine p of die d. -/
def onlyEngine (t s : State) (d p : Nat) (as : List Nat) : Prop :=
  t = { s with regs := t.regs, engines := t.engines } ∧ (∀ a, a ∉ as → t.reg a = s.reg a) ∧
    ∀ d' p', engKey d' p' ≠ engKey d p → t.eng d' p' = s.eng d' p'

/-! ### Engines -/

/-- The engine that a slot operation names. -/
def engOf (s : State) (r : EngRef) : Engine := s.eng r.die.val r.eng.val

/-- The engine's sequencer has reached operation `op` of slot `slot` at `c`; the program runs in CHECK mode, and the SRAM
reads of the operation meet no error. -/
def reached (s : State) (r : EngRef) (slot op : Nat) (c : Cur) : Prop :=
  (engOf s r).issuing slot op = some c ∧ r.ecc = .none ∧ ∃ x, (engOf s r).run = some x ∧ x.debug = false ∧ x.waited = 0

/-- Command `i` makes the operation issue: `P` holds of the engine with the operation issued, and the sequencer moves on. -/
def issues (s : State) (i : Instr) (r : EngRef) (P : Engine → Prop) : Prop :=
  ∃ e, exec i s = .next (s.engineDo r.die.val r.eng.val fun _ => advance e) ∧ P e

/-- The stores of two engines are the same: scratchpad, accumulator store, vector registers, stationary sets, event flags,
images, queue entries and transfers. -/
structure sameStores (a b : Engine) : Prop where
  spad : a.spad = b.spad
  poison : a.poison = b.poison
  acc : a.acc = b.acc
  vreg : a.vreg = b.vreg
  set0 : a.set0 = b.set0
  set1 : a.set1 = b.set1
  active : a.active = b.active
  evFlags : a.evFlags = b.evFlags
  xfers : a.xfers = b.xfers
  unacked : a.unacked = b.unacked
  resident : a.resident = b.resident
  iq : a.iq = b.iq
  siges : a.siges = b.siges

/-- A timed write of the program lands in cycle `cyc`. -/
def lands (e : Engine) (cyc : Nat) (w : Land) : Prop := Landing.mk cyc w ∈ e.flight

/-- A check of the program has failed. -/
def failed (e : Engine) (f : Failure) : Prop := ∃ x, e.run = some x ∧ f ∈ x.fails

/-- The program's failed checks. -/
def failures (e : Engine) : List Failure := (e.run.map fun x => x.fails).getD []

/-- The registers of a vector operation as its issue cycle finds them: `a`, `b` and `d` are the lanes of VA, VB and VD. -/
def lanesAt (e : Engine) (c : Cur) (v : Nat) : List W32 := (e.view c.cyc).vregLanes v

/-- An operation of the vector slot: opcode, latency, issue interval, and the registers it writes with their lanes. -/
structure VecRow where
  instr : EngRef → Instr
  op : Nat
  lat : Nat
  itv : Nat
  writes : Engine → Cur → List (Nat × List W32)

/-- The vector operation issues: each result is readable from issue + latency, the pipeline is taken for the issue interval,
a pipeline that is still taken is a schedule fault, and no store changes before the results land. -/
def vecIssues (s : State) (r : EngRef) (c : Cur) (q : VecRow) : Prop :=
  issues s (q.instr r) r fun e =>
    (∀ w ∈ q.writes (engOf s r) c, lands e (c.cyc + q.lat - 1) (.vreg w.1 w.2)) ∧
    (∃ x, e.run = some x ∧ x.vecFree = c.cyc + q.itv) ∧
    (∀ x, (engOf s r).run = some x → c.cyc < x.vecFree →
      failed e ⟨c.cyc, St.PIPE_BUSY, 1, c.pc, 4, 0, x.vecFree, c.cyc⟩) ∧
    sameStores e (engOf s r)

/-- A lane-wise FP32 operation on VA and VB. -/
def fp32Row (instr : EngRef → Instr) (op : Nat) (f : Rnd → Nat → Nat → Nat → Nat) : VecRow :=
  ⟨instr, op, 6, 1, fun e c =>
    [(opD c, List.zipWith (fun a b => BitVec.ofNat 32 (f (opRnd e c) (vmCmp (opVm e c)) a.toNat b.toNat))
      (lanesAt e c (opA c)) (lanesAt e c (opB c)))]⟩

/-- The FP64 values of a register pair in the issue cycle: low words in the even register. -/
def pairsAt (e : Engine) (c : Cur) (v : Nat) : List Nat :=
  List.zipWith (fun a b => a.toNat + b.toNat * 2 ^ 32) (lanesAt e c v) (lanesAt e c (v + 1))

/-- FP64 values written to a register pair. -/
def pairWrites (v : Nat) (xs : List Nat) : List (Nat × List W32) :=
  [(v, xs.map fun x => BitVec.ofNat 32 x), (v + 1, xs.map fun x => BitVec.ofNat 32 (x / 2 ^ 32))]

def fp64Row (instr : EngRef → Instr) (op : Nat) (f : Rnd → Nat → Nat → Nat) : VecRow :=
  ⟨instr, op, 8, 4, fun e c =>
    pairWrites (opD c) (List.zipWith (f (opRnd e c)) (pairsAt e c (opA c)) (pairsAt e c (opB c)))⟩

/-- An operation on each lane of VA alone. -/
def unaryRow (instr : EngRef → Instr) (op : Nat) (f : W32 → W32) : VecRow :=
  ⟨instr, op, 20, 4, fun e c => [(opD c, (lanesAt e c (opA c)).map f)]⟩

def intRow (instr : EngRef → Instr) (op : Nat) (f : W32 → W32 → W32) : VecRow :=
  ⟨instr, op, 3, 1, fun e c => [(opD c, List.zipWith f (lanesAt e c (opA c)) (lanesAt e c (opB c)))]⟩

/-- A cross-lane reduction: its result in every lane of VD. -/
def reduceRow (instr : EngRef → Instr) (op : Nat) (f : Engine → Cur → List W32 → W32) : VecRow :=
  ⟨instr, op, 10, 1, fun e c => [(opD c, List.replicate 64 (f e c (lanesAt e c (opA c))))]⟩

/-- The floating-point operations of the vector slot (Tables 02-8 and 05-4, R113, R114). -/
def floatRows : List VecRow :=
  [fp32Row .fadd 1 fun m _ => fp32.addOp m, fp32Row .fsub 2 fun m _ => fp32.subOp m, fp32Row .fmul 3 fun m _ => fp32.mulOp m,
   ⟨.fma, 4, 6, 1, fun e c => [(opD c, List.zipWith (fun z q => BitVec.ofNat 32 (fp32.fmaOp (opRnd e c) z.toNat q.1 q.2))
      (lanesAt e c (opD c)) (List.zipWith (fun a b => (a.toNat, b.toNat)) (lanesAt e c (opA c)) (lanesAt e c (opB c))))]⟩,
   fp32Row .fmin 5 fun _ _ => fp32.minOp, fp32Row .fmax 6 fun _ _ => fp32.maxOp, fp32Row .fcmp 7 fun _ k => fp32.cmpOp k,
   fp64Row .dadd 8 fp64.addOp, fp64Row .dmul 9 fp64.mulOp,
   ⟨.dfma, 10, 8, 4, fun e c => pairWrites (opD c) (List.zipWith (fun z q => fp64.fmaOp (opRnd e c) z q.1 q.2)
      (pairsAt e c (opD c)) (List.zip (pairsAt e c (opA c)) (pairsAt e c (opB c))))⟩,
   unaryRow .exp 11 Config.fpExp, unaryRow .log 12 Config.fpLog, unaryRow .rsqrt 13 Config.fpRsqrt]

/-- A shift of a lane by less than 32; for more, the part's own value. -/
def shifted (k : Nat) (f : W32 → Nat → W32) (a b : W32) : W32 := if b.toNat < 32 then f a b.toNat else Config.shiftWide k a b

/-- The integer operations of the vector slot (Tables 02-8 and 05-4). -/
def integerRows : List VecRow :=
  [intRow .iadd 16 fun a b => a + b, intRow .isub 17 fun a b => a - b, intRow .imul 18 fun a b => a * b,
   intRow .andOp 19 fun a b => a &&& b, intRow .orOp 20 fun a b => a ||| b, intRow .xorOp 21 fun a b => a ^^^ b,
   intRow .shl 22 (shifted 0 fun a n => a <<< n), intRow .shr 23 (shifted 1 fun a n => a >>> n),
   intRow .sra 24 (shifted 2 fun a n => a.sshiftRight n),
   ⟨.sel, 25, 3, 1, fun e c => [(opD c, List.zipWith (fun d q => if d ≠ 0 then q.1 else q.2) (lanesAt e c (opD c))
      (List.zip (lanesAt e c (opA c)) (lanesAt e c (opB c))))]⟩,
   intRow .imin 26 (fun a b => if b.slt a then b else a), intRow .imax 27 (fun a b => if a.slt b then b else a)]

/-- The cross-lane reductions (Tables 02-8 and 05-4): RSUM's sum is the part's own order of additions. -/
def reduceRows : List VecRow :=
  [reduceRow .rsum 34 (fun e c => Config.rsum (vmRmode (opVm e c))), reduceRow .rmax 35 (fun _ _ => foldLanes fp32.maxOp),
   reduceRow .rmin 36 (fun _ _ => foldLanes fp32.minOp)]

/-- A CVT that rounds stochastically draws 8 to 16 bits a lane in one cycle, 17 to 24 in two (Table 02-8). -/
def cvtWide (e : Engine) (c : Cur) : Bool := decide (vmRmode (opVm e c) = 4) && decide (17 ≤ vmSrBits (opVm e c))

/-- CVT (R97 to R99, R330): element l with draw l. -/
def cvtRow (e : Engine) (c : Cur) : VecRow :=
  let vm := opVm e c
  ⟨.cvt, 32, if cvtWide e c then 5 else 4, if cvtWide e c then 2 else 1, fun e c =>
    let draws := if vmRmode vm = 4 then rngDraws e (rcOf e.img c.word) 0 64 (vmSrBits vm) else List.replicate 64 0
    let xs := if vmSrc vm = 0xF then pairsAt e c (opA c) else (lanesAt e c (opA c)).map BitVec.toNat
    let ys := List.zipWith (fun r x => (fmtOf (vmDst vm)).encode (rndOf (vmRmode vm) (vmSrBits vm) r) (vmSat vm)
      ((fmtOf (vmSrc vm)).decode (x % 2 ^ fmtWidth (vmSrc vm)))) draws xs
    if vmDst vm = 0xF then pairWrites (opD c) ys else [(opD c, ys.map fun y => BitVec.ofNat 32 y)]⟩

/-- The sixteen EXA128 values of a register in the issue cycle, and EXADD's sums (R86, R106). -/
def exaddRow : VecRow :=
  ⟨.exadd, 28, 3, 1, fun e c =>
    [(opD c, exaWords (List.zipWith exaAdd (exaLanes (e.view c.cyc) (opA c)) (exaLanes (e.view c.cyc) (opB c))))]⟩

/-- RBITS: 64 raw units of 32 bits (R327). -/
def rbitsRow : VecRow :=
  ⟨.rbits, 44, 3, 2, fun e c => [(opD c, (rngDraws e (rcOf e.img c.word) 0 64 32).map fun y => BitVec.ofNat 32 y)]⟩

/-- Operation outcomes of class 0x03 and of data, in cycle `t` (Table 05-15). -/
def rejected (e : Engine) (t st slot pc : Nat) : Prop := failed e ⟨t, st, slot, pc, 15, 0, noCycle, t⟩

/-- Stream i is a direct stream of KIND `kind`. -/
def direct (e : Engine) (i kind : Nat) : Prop :=
  (e.stream i).indirect = false ∧ (e.stream i).kind = kind ∧ ∃ x, e.run = some x ∧ i < x.streams.length

/-- The address of the stream's next step but `n` (R157). -/
def stepAddr (e : Engine) (i n : Nat) : Nat := (e.stream i).addr ((e.stream i).pos + n) 0

/-- EXCVT (R110): row VA's sixteen-byte values of the accumulator store, read through its stream, times the FP32 scales of
lanes 0 and 1 of VB, rounded once into lanes 0 to 31. -/
def excvtRow : VecRow :=
  ⟨.excvt, 40, 12, 2, fun e c =>
    let vm := opVm e c
    let g (l : Nat) : Machine.Num := fp32.decode ((e.view c.cyc).vregWord (opB c) l).toNat
    let row := stepAddr e (opA c % 16) 0
    let cell (col : Nat) : Exa := exaOfBits (bytesNat ((List.range 4).flatMap fun k =>
      natBytes 4 (mget zeroWord (e.view c.cyc).acc ((4 * row + k) * 32 + col)).toNat))
    let ys := (List.range 32).map fun col =>
      exaEncode (vmDst vm) (rndOf (vmRmode vm) 0 0) (vmSat vm) (exaNum (cell col) (vmWbase vm) (g 0) (g 1))
    if vmDst vm = 0xF then pairWrites (opD c) ys else [(opD c, ys.map fun y => BitVec.ofNat 32 y)]⟩

/-- A load or store of the load/store slot: opcode, stream KIND, bytes or slots it takes, its alignment and the top of its
store, and the timed writes it leaves behind, by address. -/
structure MoveRow where
  instr : EngRef → Instr
  op : Nat
  kind : Nat
  size : Nat
  align : Nat
  top : Nat
  writes : Engine → Cur → Nat → List (Nat × Land)

/-- VLD, VST, ALD and AST (Table 05-6, R152): V is the register of bits [9:4]. -/
def moveRows : List MoveRow :=
  [⟨.vld, 1, 0, 256, 4, 2 ^ 20, fun e c a => [(c.cyc + 2, .vreg (lsV c) (lanesOf (readBytes (e.view c.cyc).spad a 256)))]⟩,
   ⟨.vst, 2, 0, 256, 4, 2 ^ 20, fun e c a => [(c.cyc + 1, .spad a ((lanesAt e c (lsV c)).flatMap fun w => natBytes 4 w.toNat))]⟩,
   ⟨.ald, 3, 1, 2, 1, 1024, fun e c a =>
      [(c.cyc + 1, .vreg (lsV c) ((e.view c.cyc).accLanes a ++ (e.view c.cyc).accLanes (a + 1)))]⟩,
   ⟨.ast, 4, 1, 2, 1, 1024, fun e c a => [(c.cyc + 1, .acc a ((lanesAt e c (lsV c)).take 32)),
      (c.cyc + 1, .acc (a + 1) ((lanesAt e c (lsV c)).drop 32))]⟩]

/-- An asynchronous transfer of the load/store slot: opcode, KINDs of destination and source. -/
structure XferRow where
  instr : EngRef → Instr
  op : Nat
  kd : Nat
  ks : Nat

/-- LFTR, LFTW, XPUT and XGET (Table 05-6, R153): KIND 0 scratchpad, 2 loft, 3 remote. -/
def xferRows : List XferRow := [⟨.lftr, 5, 0, 2⟩, ⟨.lftw, 6, 2, 0⟩, ⟨.xput, 7, 3, 0⟩, ⟨.xget, 8, 0, 3⟩]

/-- Operands of a transfer: destination and source streams, tag, length, and its scratchpad end. -/
def xferDst (e : Engine) (c : Cur) : AStream := e.stream (bitsAt (wLdst c.word) 4 4)
def xferSrc (e : Engine) (c : Cur) : AStream := e.stream (bitsAt (wLdst c.word) 8 4)
def xferTag (c : Cur) : Nat := bitsAt (wLdst c.word) 12 3
def xferLen (e : Engine) (c : Cur) : Nat := (e.sreg (bitsAt (wLdst c.word) 15 4)).toNat
def xferNear (e : Engine) (c : Cur) (q : XferRow) : Nat :=
  if q.kd = 0 then (xferDst e c).baseAddr else (xferSrc e c).baseAddr

/-- A scalar operation of the address-generation slot: opcode and the new value of register S. -/
structure ScalarRow where
  instr : EngRef → Instr
  op : Nat
  value : Engine → Cur → W32

/-- SLDI, SADDI, SADD and SSHL (Table 05-7): D in bits [7:4], an immediate or A above. -/
def scalarRows : List ScalarRow :=
  [⟨.sldi, 4, fun _ c => (BitVec.ofNat 12 (bitsAt (wAgen c.word) 8 12)).signExtend 32⟩,
   ⟨.saddi, 5, fun e c => e.sreg (bitsAt (wAgen c.word) 4 4) + (BitVec.ofNat 12 (bitsAt (wAgen c.word) 8 12)).signExtend 32⟩,
   ⟨.sadd, 6, fun e c => e.sreg (bitsAt (wAgen c.word) 4 4) + e.sreg (bitsAt (wAgen c.word) 8 4)⟩,
   ⟨.sshl, 7, fun e c => e.sreg (bitsAt (wAgen c.word) 4 4) <<< bitsAt (wAgen c.word) 8 5⟩]

/-- An operation of the random/misc slot: opcode and the cycles in which its consumer has the lane (Table 02-9, R65). -/
structure LaneRow where
  instr : EngRef → Instr
  op : Nat
  last : Engine → Cur → Nat
  first : Cur → Nat

def laneRows : List LaneRow :=
  [⟨.rdrain, 1, fun _ c => c.cyc + 70 + bitsAt (wArray c.word) 12 16, fun c => c.cyc + 70⟩,
   ⟨.rvec, 2, fun e c => if cvtWide e c then c.cyc + 1 else c.cyc, fun c => c.cyc⟩,
   ⟨.rraw, 3, fun _ c => c.cyc + 1, fun c => c.cyc⟩]

/-- No check has failed, and no bank has three timed accesses in one cycle (R119 to R121). -/
def unfailed (e : Engine) : Prop := ∃ x, e.run = some x ∧ x.fails = [] ∧ ∀ u ∈ x.uses, useCount x.uses u ≤ 2

/-- The pass descriptor and the operands of the array slot (R147, Table 05-2). -/
def arrayPd (e : Engine) (c : Cur) : W64 := e.img.pds.getD (bitsAt (wArray c.word) 4 4) 0
def arrayAs (c : Cur) : Nat := bitsAt (wArray c.word) 8 4
def streamLen (c : Cur) : Nat := bitsAt (wArray c.word) 12 16 + 1

/-- A STREAM's set and streams are those its descriptor asks for (R147 to R149, R331). -/
structure streamLegal (e : Engine) (c : Cur) (set : StatSet) : Prop where
  set : setMatches set (arrayPd e c) = true
  feed : (e.stream (arrayAs c)).kind = 0
  scale : pdScaleS (arrayPd e c) ≠ 0 → (e.stream (pdSscaleAs (arrayPd e c))).kind = 0
  acc : pdDrain (arrayPd e c) ≠ 3 → (e.stream (pdAccAs (arrayPd e c))).kind = 1
  out : 2 ≤ pdDrain (arrayPd e c) → (e.stream (pdOutAs (arrayPd e c))).kind ∈ (if pdMesh (arrayPd e c) then [2, 3] else [0])
  draw : pdRmode (arrayPd e c) = 4 → rngAligned e (rcOf e.img c.word) = true

/-- The rows of a STREAM are on their way: row k entered in cycle issue + k and completes stage O4 in issue + 71 + k. -/
def rowsFlow (e : Engine) (c : Cur) (pd : W64) (set : StatSet) : Prop :=
  ∀ k < streamLen c, ∃ p, lands e (c.cyc + 71 + k) (.pass p) ∧ p.enter = c.cyc + k ∧ p.pd = pd ∧ p.set = set ∧
    p.last = decide (k + 1 = streamLen c)

/-! ### Commands of queues -/

/-- The command that a row names: of opcode `op`, started, its work not begun, on an apex die that is up (R186). -/
structure due (s : State) (r : CmdRef) (op : Nat) (c : Cmd) : Prop where
  up : s.apexUp = true
  found : s.findCmd r.q.val r.seq.toNat = some c
  started : c.phase = .started
  fresh : c.ran = false
  op : c.op = op

/-- A command of opcode `op` whose work has begun and not ended. -/
structure begun (s : State) (r : CmdRef) (op : Nat) (c : Cmd) : Prop where
  found : s.findCmd r.q.val r.seq.toNat = some c
  started : c.phase = .started
  ran : c.ran = true
  op : c.op = op

/-- The work of command `c` has ended with a status and its details. -/
def ended (t : State) (c : Cmd) (st d0 d1 : Nat) : Prop :=
  t.findCmd c.q c.seq = some { c with ran := true, phase := .finished st d0 d1 }

/-- Nothing differs but that command `c` is now `x`. -/
def onlyCmd (t s : State) (c x : Cmd) : Prop :=
  t = { s with cq := { s.cq with cmds := t.cq.cmds } } ∧ t.findCmd c.q c.seq = some x ∧
    ∀ q n, ¬ (q = c.q ∧ n = c.seq) → t.findCmd q n = s.findCmd q n

/-- Nothing differs but that the work of command `c` has ended. -/
def onlyEnds (t s : State) (c : Cmd) (st d0 d1 : Nat) : Prop :=
  onlyCmd t s c { c with ran := true, phase := .finished st d0 d1 }

/-- Registers outside `as` are the same. -/
def regsBut (t s : State) (as : List Nat) : Prop := ∀ a, a ∉ as → t.reg a = s.reg a

/-- A configuration with which a queue may run (R173, R206, R211). -/
structure enables (s : State) (q : Nat) : Prop where
  slots : 6 ≤ s.fld (Reg.Q_CFG q) 0 5 ∧ s.fld (Reg.Q_CFG q) 0 5 ≤ 16
  records : 6 ≤ s.fld (Reg.Q_CFG q) 5 5 ∧ s.fld (Reg.Q_CFG q) 5 5 ≤ 16
  bases : s.reg (Reg.Q_RING_BASE q) % 4096 = 0 ∧ s.reg (Reg.Q_CPL_BASE q) % 4096 = 0
  admin : s.qAdmin q = true → s.fld (Reg.Q_CFG q) 18 2 = 0
  bound : s.qAdmin q = false → s.bayState (s.qBay q) = 2 ∧ s.queueRole q ≠ 15

/-- A command may start (R186, R197): its queue runs, it is the oldest unstarted command, and its waits and FENCE hold. -/
structure startable (s : State) (c : Cmd) : Prop where
  queue : s.qState c.q = 1 ∨ s.qState c.q = 5
  stays : (s.qx c.q).disabling = false
  phase : c.phase = .accepted
  oldest : (s.oldest c.q).map (·.seq) = some c.seq
  waits : ∀ w ∈ c.waits, w.2 ≤ s.evt (c.bay.getD 0) w.1
  fence : c.fence = true → ∀ x ∈ s.qCmds c.q, x.started = false
  bay : ∀ b, c.bay = some b → s.bayState b = 2

/-- Condition 1 to 4 of R176 for a packet that has been read. -/
structure accepts (s : State) (q : Nat) : Prop where
  up : s.apexUp = true
  running : s.qState q = 1 ∧ (s.qx q).disabling = false
  inflight : s.qInflight q < 64
  record : s.cplInUse q < s.qCpl q
  journal : s.jnlFree = true

/-- No dependency cycle lies in bay b's wait graph (R188). -/
def acyclic (s : State) (b : Nat) : Prop := ∀ q, cycleEdge (s.waitEdges b) q = none

/-- No checkpoint schedule of bay b follows an event (R454). -/
def unscheduled (s : State) (b : Nat) : Prop := ∀ k < 4, s.ckpt b k = none

/-- Each queue and sequence number names one command. -/
def distinct (s : State) : Prop := (s.cq.cmds.map fun c => (c.q, c.seq)).Nodup

/-- The command's work goes on. -/
def onlyBegins (t s : State) (c : Cmd) : Prop := onlyCmd t s c { c with ran := true }

/-- Refusal details of Table 07-8: the resource and the units requested. -/
def unitsOf8 (res n : Nat) : Nat := res % 16 + n % 2 ^ 24 * 2 ^ 8

/-- The target of a bay-control command (Table 07-2). -/
def bayOf (c : Cmd) : Nat := c.p 0 0 4

/-! ### Memory tiers -/

/-- A byte of HBM. -/
def hbmByte (s : State) (a : Nat) : Byte := mget (fun _ => 0) s.mem.hbm a

/-- Line `l` of HBM is poisoned. -/
def poisoned (s : State) (l : Nat) : Bool := mget (fun _ => false) s.mem.poison l

/-- The object that a command names by its base (Tables 08-3, R240, R249). -/
def objectAt (s : State) (c : Cmd) : Option Obj :=
  s.mem.objs.find? fun o => decide (o.bay = c.bay.getD 0) && decide (o.base * 65536 = c.p64 1)

/-- A T2 home that answers: slab `n` of an object of bay b lies at `loc`, behind an edge die that serves it. -/
structure inT2 (s : State) (b n loc : Nat) (o : Obj) : Prop where
  object : s.objAt b n = some o
  below : n < 2 ^ 41 - 2 ^ 14
  home : (s.slab b n).home = some loc
  serves : s.hbmRefuses (groupOf loc) = none

/-- A group outside the bay is named. -/
def foreignGroup (s : State) (b mask : Nat) : Prop := ∃ g ∈ maskList 32 mask, g ∉ s.groups b

/-- A new object would share a slab with one of its bay. -/
def collides (s : State) (o : Obj) : Prop :=
  ∃ x ∈ s.mem.objs, x.bay = o.bay ∧ x.base < o.base + o.n ∧ o.base < x.base + x.n

/-! ### The key-value cache -/

/-- The commands of chapter 09: constructor, opcode, MODE bit of PT_UPDATE, and the sequence that a rejected pool names. -/
def kvRows : List ((CmdRef → Instr) × Nat × Option Nat × Bool) :=
  [(.pageAlloc, 0x18, none, false), (.pageFree, 0x19, none, false), ((fun r => .pageSwapOut r .good false), 0x1A, none, true),
   (.pageSwapIn, 0x1B, none, true), ((fun r => .ptUpdateWindow r .good), 0x1C, some 0, false),
   (.ptUpdateAdvance, 0x1C, some 1, false)]

/-- A sequence list of one entry has been read: `u` is the state after the read. -/
def oneEntry (s u : State) (c : Cmd) (va n : Nat) (e : Nat × Nat) : Prop := s.kvList c va n = (u, [e], .ok)

/-! ### Rethatch -/

/-- A command of chapter 10: constructor, opcode, whether its OPTION field names the row, and its adapter bit. -/
structure RtRow where
  instr : CmdRef → Instr
  op : Nat
  picks : Cmd → Prop
  adapter : Bool

/-- The commands that need an enabled model (Table 10-5, R300, R301, R308, R314). -/
def rtRows : List RtRow :=
  [⟨fun r => .rtStageMemory r .good, 0x20, fun c => c.p 0 2 2 = 0, false⟩,
   ⟨fun r => .rtStageFabric r .good, 0x20, fun c => c.p 0 2 2 = 1, false⟩,
   ⟨fun r => .rtVerifyCheckActive r [], 0x21, fun c => c.p 0 2 2 = 0, false⟩,
   ⟨fun r => .rtVerifyCheckStaged r [], 0x21, fun c => c.p 0 2 2 = 1, false⟩,
   ⟨.rtArmStrict, 0x22, fun c => c.p 0 5 1 = 0, false⟩, ⟨.rtArmRolling, 0x22, fun c => c.p 0 5 1 = 1, false⟩,
   ⟨fun r => .rtAdapter r .good, 0x24, fun _ => True, true⟩]

/-- Rows of the opcode table that share an opcode: only the one that OPTION names has an effect. -/
def rtOptions : List RtRow :=
  rtRows ++ [⟨fun r => .rtVerifyPublish r .good, 0x21, fun c => c.p 0 2 2 = 2, false⟩,
    ⟨.rtAbort, 0x23, fun c => c.p 0 6 1 = 0, false⟩, ⟨.rtAbortAdapter, 0x23, fun c => c.p 0 6 1 = 1, true⟩]

/-- Command `c` ends and no register, model or byte of HBM changes. -/
def onlyAnswers (s : State) (i : Instr) (c : Cmd) (st d0 d1 : Nat) : Prop :=
  completes s i fun t => ended t c st d0 d1 ∧ t.regs = s.regs ∧ t.rt = s.rt ∧ t.mem.hbm = s.mem.hbm ∧ t.engines = s.engines

/-- The manifest of a staging has been read and verified (R297, R298, R301): `u` is the state after the reads, `vas` the bay
addresses of the shard headers. -/
structure manifestRead (s u : State) (c : Cmd) (md : Medium) (fabric : Bool) (check : RtManifest → RtFail) (man : RtManifest)
    (vas : List Nat) : Prop where
  read : ∃ v l, s.rtReadManifest c md = (v, .ok man l) ∧
    if fabric then u = v.t3Done (.cmd c.q c.seq) ∧ vas = []
    else ∃ w, v.rtReadShards c md man = (w, .ok man vas, none) ∧ u = w.t3Done (.cmd c.q c.seq)
  checked : check man = none
  kept : u.findCmd c.q c.seq = some c
  signed : u.sigValid (c.bay.getD 0) man = true

/-- ENABLE's checks pass (R292): `u` is the state after the layer table's read, `es` the layers' entries. -/
structure modelFits (s u : State) (b m : Nat) (es : List (Nat × Nat × Nat × Nat)) : Prop where
  off : s.rtSt b m = 0 ∧ (s.rt.enabling.contains (b * 4 + m)) = false
  events : s.fld (Reg.RT_CFG0 b m) 8 10 + 2 * (s.fld (Reg.RT_CFG0 b m) 0 8 + 1) ≤ 1023
  adapters : s.fld (Reg.RT_CFG1 b m) 0 13 = 0
  table : ∃ bs, (s.onRt fun r => { r with enabling := r.enabling ++ [b * 4 + m] }).vaRead .dev b (s.reg (Reg.RT_LAYER_TAB b m))
      (16 * (s.fld (Reg.RT_CFG0 b m) 0 8 + 1)) = (u, bs, .ok) ∧
    es = (List.range (s.fld (Reg.RT_CFG0 b m) 0 8 + 1)).map (layerEntry (bs.map fun x => (pbyte x).toNat))
  entries : ∀ e ∈ es, e.1 ≠ 0 ∧ e.2.1 ≤ 0xA ∧ e.2.2.1 ≤ 3 ∧ e.2.2.2 = 0
  aperture : (u.areaSlab b m + sumOver (fun e : Nat × Nat × Nat × Nat => e.1) es) * 65536 ≤ apertureBase
  apart : ∀ x ∈ u.mem.objs, x.bay = b →
    rangesOverlap x.base x.n (u.areaSlab b m) (sumOver (fun e : Nat × Nat × Nat × Nat => e.1) es) = false
  epochs : ∃ x ∈ u.mem.objs, x.bay = b ∧ x.base * 65536 = u.reg (Reg.RT_EPOCH_VA b m) ∧ x.home = 0 ∧ x.migr = 0 ∧
    x.owner = .user
  count : (u.mem.objs.filter fun x => decide (x.bay = b)).length < 65536
  nobody : ∀ a ∈ u.cq.adms, a.bay ≠ b

/-- Slabs that ENABLE asks for in class 1: both sets and the translation tables (R292). -/
def modelNeed (u : State) (b m : Nat) (es : List (Nat × Nat × Nat × Nat)) : Nat :=
  let n := sumOver (fun e : Nat × Nat × Nat × Nat => e.1) es
  2 * n + u.newTables (areaObj b m (u.areaSlab b m) n)

/-- Unit i of a model: a layer or an adapter slot. -/
def unitOf (s : State) (b m : Nat) (adapter : Bool) (i : Nat) : Option RtUnit := (s.model b m).bind fun x => x.unit adapter i

/-- No gate may move: DONE has not passed what the gates show, and no barrier waits. -/
def stillModel (s : State) (b m : Nat) : Prop :=
  ∃ x, s.model b m = some x ∧ x.arm = none ∧ x.abar = none ∧
    ∀ l < x.layers.length, s.rtDone b m l < s.rtGate b m l

/-! ### The fabric -/

/-- Nothing differs but registers of `as` and port p. -/
def onlyPort (t s : State) (p : Nat) (as : List Nat) : Prop :=
  t = { s with regs := t.regs, fab := { s.fab with ports := t.fab.ports } } ∧ regsBut t s as ∧ ∀ q, q ≠ p → t.portX q = s.portX q

/-- No request has ended whose owner has not heard of it. -/
def noneDone (s : State) : Prop := ∀ r ∈ s.fab.reqs, r.done = false

/-- No request waits for response space. -/
def noneWaiting (s : State) : Prop := ∀ r ∈ s.fab.reqs, r.st ≠ .waiting

/-- Bay b can send to a device: its address exists, its route leaves by a port on which the job owns a slot, and the
generation has sequence numbers left (R350, R355, R404). -/
structure reaches (s : State) (b dev : Nat) : Prop where
  exists_ : s.devInDims (s.alias_ dev) = true
  route : ∃ p v dl det, s.route (s.alias_ dev) none false false = .out p v dl det ∧ s.ownsSlot p (s.bayJob b) = true
  seqs : s.fld (Reg.BAY_TX_SEQ b) 0 48 < 2 ^ 47 - 64

/-- Port p brings a sealed packet for a running bay of this device and its job, which opens under a live key to `pl`
(R348, R358, R404, R405). -/
structure carries (s : State) (p : Nat) (bs : List Byte) (h : PktHdr) (pl : List Byte) : Prop where
  hdr : parseHdr (bs.map BitVec.toNat) = (h, true)
  ok : h.ok = true
  dst : h.dst = s.ownDev
  die : s.dieState (portDie p) = dieOn
  bay : s.bayState h.dbay = bayRunning
  job : h.job = s.bayJob h.dbay
  opened : ∃ ns, s.openPkt h.dbay h bs = some ns ∧ pl = ns.map (BitVec.ofNat 8)
  live : genLive (s.txGen h.dbay) h.key = true

/-- A packet's SEQ is new, or came before without an answer (R406). -/
def newSeq (s : State) (p : Nat) (h : PktHdr) : Prop :=
  s.replay (portDie p) h.dbay h = .fresh ∨ s.replay (portDie p) h.dbay h = .seen none

/-- A COLL packet of a kind arrives, is recorded and acknowledged: `u` is the state then (R380). -/
structure arrives (s u : State) (p : Nat) (bs : List Byte) (kind : Nat) (h : PktHdr) (pl : List Byte) : Prop where
  packet : carries s p bs h pl
  coll : h.cls = 2 ∧ h.type = 6 ∧ bitsAt h.addr 16 2 = kind
  fresh : newSeq s p h
  home : ∀ c, s.collOf h = some c → s.dieRefuses c.home = none
  late : s.collOf h = none → ∀ l, s.collLateOf h = some l → s.dieRefuses l.home = none
  after : u = (s.recordSeq (portDie p) h.dbay h (some St.OK)).answer p h (.answered St.OK [])

/-- A running collective that a packet belongs to, and the peer that sent it. -/
structure member (u : State) (h : PktHdr) (c : Coll) (x : Nat × Nat) : Prop where
  found : u.collOf h = some c
  id : c.id = hdrId h
  peer : u.collPeer c h = some x
  single : ∀ y ∈ u.fab.colls, y.q = c.q → y.seq = c.seq → y = c

/-- A collective that has nothing to form, write or send, and no packet unanswered. -/
structure idleColl (u : State) (c : Coll) : Prop where
  forms : ∀ k, k < c.chunks → c.canForm k = false
  writes : c.writes = []
  outbox : c.outbox = []
  reqs : u.reqsOf c.owner = []

/-- The running collectives with `c` replaced by `x`. -/
def collsWith (u : State) (c x : Coll) : List Coll := u.fab.colls.map fun y => if y.is c then x else y

/-- A collective leaves the device and its command ends (R385, R389). -/
def collOver (t u : State) (c : Coll) (x : Cmd) (st d0 d1 : Nat) : Prop :=
  ended t x st d0 d1 ∧ t.fab.colls = u.fab.colls.filter (fun y => !y.is c) ∧ t.mem.hbm = u.mem.hbm ∧ t.engines = u.engines ∧
    let a := if st = St.OK then Reg.COLL_DONE_CNT c.bay else Reg.COLL_FAIL_CNT c.bay
    t.reg a = min 0xFFFFFFFF (u.reg a + 1)

/-- The constructor and opcode of RIDGE and VALLEY. -/
def collRows : List ((CmdRef → Instr) × Nat) := [((fun r => .ridge r .good), 0x28), ((fun r => .valley r .good), 0x29)]

/-! ### Trust and recovery -/

/-- No test, handling, scrub or transfer makes a difference: registers, memory and engines of other dies stand. -/
def memoryStands (t s : State) : Prop := t.mem = s.mem ∧ t.engines = s.engines ∧ t.lofts = s.lofts

/-- The SPDM requests and the constructors that bring them (R412). -/
def spdmRows : List ((BitVec 2 → Instr) × SpdmReq) :=
  [(.getVersion, .getVersion), (.getCapabilities, .getCapabilities), (fun e => .negotiateAlgorithms e true true true true,
    .negotiateAlgorithms true true true true), (.getDigests, .getDigests), (fun e => .getCertificate e 0 0 64, .getCertificate 0 0 64),
   (fun e => .challenge e 0 0, .challenge 0 0), (fun e => .getMeasurements e 1 false 0, .getMeasurements 1 false 0),
   (fun e => .keyExchange e 0 0 0, .keyExchange 0 0 0), (fun e => .finish e 0 true none, .finish 0 true none),
   (fun e => .endSession e 0, .endSession 0)]

/-- A request of an endpoint is answered with `m`, and its connection is `c` from then on. -/
def answers (s : State) (i : Instr) (ep : Nat) (c : Spdm) (m : SpdmRsp) : Prop :=
  completes s i fun t => t = { s with sec := { s.sec with spdm := t.sec.spdm }, out := s.out ++ [.spdm ep m] } ∧ t.spdm ep = c ∧
    ∀ e, e ≠ ep → t.spdm e = s.spdm e

/-- A request of an endpoint is answered with an ERROR and changes nothing else. -/
def spdmRefuses (s : State) (i : Instr) (ep code : Nat) : Prop :=
  exec i s = .next (s.emit (.spdm ep (.error code 0 none)))

/-- The die power operations (Table 15-4). -/
def dieOps : List ((Agent → DieId → Instr) × Nat) :=
  [(.closeDie, 1), (.offDie, 2), (.openDie, 3), (.powerOn, 4), (.partialReset, 5)]

/-- A die power operation is accepted (R432, Table 15-4). -/
def mayPower (s : State) (by_ : Agent) (d op : Nat) : Prop :=
  s.opAllowed d op = true ∧ (d < 20 ∨ op = 5) ∧ (∀ l, by_ = .link l → s.operatorMay d op = true)

/-! ### Mirrors and checkpoints -/

/-- The operations of MIRROR_CFG (Table 15-9). -/
def mirRows : List ((CmdRef → Instr) × Nat) :=
  [(.mirrorSource, 0), (.mirrorHost, 1), (.mirrorSync, 2), (fun r => .mirrorRestore r .good, 3), (.mirrorStopSource, 4),
   (.mirrorStopHost, 5)]

/-- The registers that a mirror's traffic changes. -/
def mirRegs (b : Nat) : List Nat :=
  [Reg.MIRROR_STATUS b, Reg.MIRROR_GEN b, Reg.MIRROR_TX_BYTES b, Reg.BAY_TX_SEQ b, Reg.BAY_SEC b] ++
    (List.range 8).flatMap fun p => [Reg.PORT_TX_BYTES (portDie p) (portIx p), Reg.PORT_NOSLOT_CNT (portDie p) (portIx p)]

/-- The region of a mirror host as an object of its bay (R446). -/
def mirObj (b : Nat) (c : Cmd) : Obj :=
  { bay := b, base := c.p64 2 / 65536, n := 2 * c.p 4 0 24, home := 0, fill := false, wb := false, ro := false, link := 0, plain := false
    layout := 0, fmt := 0, t3 := 0, t3tag := 0, groups := 0, migr := 0, alt := none, owner := .mirror }

/-- A region that HOST may take: in the virtual range below the aperture, and over no object of the bay. -/
def mirFits (s : State) (b : Nat) (c : Cmd) : Prop :=
  c.p64 2 + 2 * c.p 4 0 24 * 65536 ≤ apertureBase ∧
    ∀ x ∈ s.mem.objs, x.bay = b → rangesOverlap x.base x.n (c.p64 2 / 65536) (2 * c.p 4 0 24) = false

/-- The manifest of a checkpoint has been read (R455): `v` is the state after the reads, of `n` entries, in `bs`. -/
structure ckptRead (s v : State) (c : Cmd) (m : Medium) (n : Nat) (bs : List Nat) : Prop where
  read : ∃ u hd xs, s.vaReadKeep (.cmd c.q c.seq) m (c.bay.getD 0) (c.p64 5) 128 = (u, hd, .ok) ∧
    n = ofBytesLE (((hd.map fun y => (pbyte y).toNat).drop 10).take 2) % 512 ∧
    u.vaReadM (.cmd c.q c.seq) m (c.bay.getD 0) (c.p64 5) (manifestLen n) = (v, xs, .ok) ∧ bs = xs.map fun y => (pbyte y).toNat
  kept : v.findCmd c.q c.seq = some c

/-- Entry k of a manifest. -/
def entryAt (bs : List Nat) (k : Nat) : CkptEntry := ckptEntry ((bs.drop (128 * (1 + k))).take 128)

/-- The object table of a TAKE has been read (R451): `u` is the state after the read, `objs` its objects. -/
structure ckptTable (s u : State) (c : Cmd) (m : Medium) (objs : List (Nat × Nat × Nat)) : Prop where
  read : ∃ xs, s.vaReadM (.cmd c.q c.seq) m (c.bay.getD 0) (c.p64 2) (32 * c.p 4 0 9) = (u, xs, .ok) ∧
    objs = ckptObjs (c.p 4 0 9) (xs.map fun y => (pbyte y).toNat)
  kept : u.findCmd c.q c.seq = some c
  quiet : unscheduled u (c.bay.getD 0)

/-- Every object of a TAKE's table may be checkpointed (R451). -/
def ckptLegal (s : State) (b : Nat) (objs : List (Nat × Nat × Nat)) : Prop :=
  ∀ o ∈ objs, s.wholeT2 b o.1 o.2.1 = true ∧ s.directT3 b o.2.2 = true

/-! ### Host links -/

/-- Nothing that is outstanding on link n fails with it: no T3 access, no write-back, no read of a packet. -/
structure quietLink (s : State) (n : Nat) : Prop where
  t3 : ∀ a ∈ s.mem.t3, a.link ≠ n
  copies : ∀ e ∈ s.mem.slabs, ∀ c, e.2.copy = some c → c.filling = false ∨ c.dirty = false
  rings : ∀ e ∈ s.cq.queues, e.2.fetch = none

/-- Dirty lines that H0's cache and its eviction buffer hold (R478). -/
def noneDirty (s : State) : Prop := (∀ e ∈ s.hosts.cc, e.2.st ≠ 3) ∧ ∀ e ∈ s.hosts.evict, e.fwd = true

/-- Nothing differs but registers of `as`, the host links' own state and what is sent. -/
def onlyHosts (t s : State) (as : List Nat) : Prop :=
  t = { s with regs := t.regs, hosts := t.hosts, out := t.out } ∧ regsBut t s as

/-- A link endpoint as it is after the link has gone down. -/
def linkLost (l : HostLink) : HostLink := { l with latch := none, msixEn := false, fnMask := false, bar2Size := 2 ^ 30 }

/-- A snoop of line l finds no entry of the eviction buffer. -/
def unbuffered (s : State) (l : Nat) : Prop := ∀ e ∈ s.hosts.evict, e.line = l → e.fwd = true

/-- A snoop is answered with `m`, and the line is `x` from then on (Table 16-2). -/
def snooped (s : State) (i : Instr) (l : Nat) (m : CcMsg) (x : CLine) : Prop :=
  completes s i fun t => onlyHosts t s [Reg.CC_SNOOP_CNT] ∧ t.out = s.out ++ [.cc m] ∧ t.ccLine l = x ∧
    t.reg Reg.CC_SNOOP_CNT = min 0xFFFFFFFF (s.reg Reg.CC_SNOOP_CNT + 1) ∧ (∀ k, k ≠ l → t.ccLine k = s.ccLine k) ∧
    t.hosts.evict = s.hosts.evict ∧ t.hosts.waits = s.hosts.waits

/-- BAR2 answers an access of `size` bytes at an offset: the window is enabled for a running bay that is not sealed, and
every line is in T2 (R469). -/
structure bar2Open (s : State) (n off size : Nat) : Prop where
  up : s.linkUp n = true
  awake : s.pins.hold = false ∧ s.pins.booting = false ∧ s.pins.stopped = false ∧ s.mgmt.restarting = false
  inside : off + size ≤ (s.link n).bar2Size
  enabled : s.fld (Reg.HL_BAR2_CFG n) 0 1 = 1
  bay : s.bayState (s.fld (Reg.HL_BAR2_CFG n) 1 4) = 2 ∧ s.baySealed (s.fld (Reg.HL_BAR2_CFG n) 1 4) = false

/-! ### Management -/

/-- The management commands: each with its code, and whether the apex die runs it (Table 16-7). -/
inductive mgmtRow (h : MgmtHdr) : Instr → Nat → Bool → Prop
  | getIdentity : mgmtRow h (.getIdentity h) 0x01 false
  | getHealth : mgmtRow h (.getHealth h) 0x02 false
  | readDevlog (pos : W32) : mgmtRow h (.readDevlog h pos) 0x03 true
  | getPorts : mgmtRow h (.getPorts h) 0x04 false
  | setFabric (addr dims time : W32) : mgmtRow h (.setFabric h addr dims time) 0x10 true
  | setPort (port : PortId) (expect sticky : Bool) : mgmtRow h (.setPort h port expect sticky) 0x11 true
  | setPassSlots (port : PortId) (mask : W64) (job : W16) : mgmtRow h (.setPassSlots h port mask job) 0x12 true
  | setAlias (entry : BitVec 4) (logical physical : BitVec 24) (valid : Bool) :
      mgmtRow h (.setAlias h entry logical physical valid) 0x13 true
  | fwCommit : mgmtRow h (.fwCommit h) 0x20 true
  | svnAdvance (n : Byte) : mgmtRow h (.svnAdvance h n) 0x21 true
  | deviceScrub : mgmtRow h (.deviceScrub h) 0x30 true
  | diePower (die op : Byte) : mgmtRow h (.diePower h die op) 0x31 true
  | setBayBudget (watts : W16) : mgmtRow h (.setBayBudget h watts) 0x32 true

/-- A command arrives at an endpoint that answers, under a REQ_ID of which no response is kept (R482, R483). -/
structure mgmtNew (s : State) (h : MgmtHdr) : Prop where
  up : s.epUp h.ep.toNat = true
  awake : s.mgmt.rom = false
  fresh : ∀ k ∈ s.mgmt.cmds, ¬ (k.ep = h.ep.toNat ∧ k.src = h.src.toNat ∧ k.key = h.reqId.toNat)

/-- The command passes the envelope's checks (R493). -/
structure mgmtRuns (s : State) (h : MgmtHdr) (cmd : Nat) (apex : Bool) : Prop extends mgmtNew s h where
  version : h.version = 1
  authority : cmd < 0x10 ∨ s.authorised h = true
  die : apex = true → s.apexUp = true

/-- The response goes out and is kept. -/
def mgmtSays (t s : State) (h : MgmtHdr) (cmd code : Nat) (ws : List Nat) : Prop :=
  let o : Output := .mgmt h.ep.toNat h.src.toNat cmd code ws
  o ∈ t.out ∧ ⟨h.ep.toNat, h.src.toNat, h.reqId.toNat, o, s.now⟩ ∈ t.mgmt.cmds

/-- The response goes out and is kept, and nothing else happens. -/
def mgmtOnly (s : State) (i : Instr) (h : MgmtHdr) (cmd code : Nat) (ws : List Nat) : Prop :=
  completes s i fun t => mgmtSays t s h cmd code ws ∧
    t = { s with mgmt := { s.mgmt with cmds := t.mgmt.cmds }, out := s.out ++ [.mgmt h.ep.toNat h.src.toNat cmd code ws] }

/-- The registers `as` and the kept responses are all that changes, and the response is `code` without data. -/
def mgmtSets (s : State) (i : Instr) (h : MgmtHdr) (cmd code : Nat) (as : List Nat) (P : State → Prop) : Prop :=
  completes s i fun t => mgmtSays t s h cmd code [] ∧ regsBut t s as ∧ P t ∧
    t = { s with regs := t.regs, mgmt := { s.mgmt with cmds := t.mgmt.cmds },
                 out := s.out ++ [.mgmt h.ep.toNat h.src.toNat cmd code []] }

/-- The four copies of a device fabric register. -/
def copies (a : Nat → Nat) : List Nat := edges.map a

/-- The island's registers (Table 16-8). -/
def islandRegs : List Nat := [Reg.MI_STATUS, Reg.MI_EID, Reg.MI_DUP_CNT, Reg.MI_PEC_ERR_CNT, Reg.MI_REASM_DROP_CNT]

/-- Nothing differs but the island's own state, registers of `as`, and what is sent. -/
def onlyIsland (t s : State) (as : List Nat) : Prop :=
  t = { s with regs := t.regs, mgmt := t.mgmt, out := t.out } ∧ regsBut t s as

/-- A packet of an endpoint passes the PEC and destination checks, and repeats no packet of its message (R482). -/
structure mctpTaken (s : State) (ep : Nat) (pec : Bool) (src dst tag sq : Nat) (som : Bool) : Prop where
  up : s.epUp ep = true
  pec : 2 ≤ ep ∨ s.inI3c ep = true ∨ pec = true
  dst : dst = 0 ∨ dst = s.eid ep
  fresh : ∀ r ∈ s.mgmt.reasm, r.same ep src tag = true → if som then r.seen ≠ [sq] else r.seen.getLast? ≠ some sq

/-- The message under reassembly of an endpoint, source and tag. -/
def reasmOf (s : State) (ep src tag : Nat) : Option Reasm := s.mgmt.reasm.find? fun r => r.same ep src tag

/-- No PLDM response of the request is kept for it (R483). -/
structure pldmNew (s : State) (ep src type inst : Nat) : Prop where
  up : s.epUp ep = true
  awake : s.mgmt.rom = false
  fresh : ∀ k ∈ s.mgmt.pldm, k.ep = ep → k.src = src → k.key = type * 32 + inst → k.kt + 5000000000 ≤ s.now

/-- The measurement digests that hold the staged image's (R397). -/
def stagedBy (t : State) (x : FwSlot) : Prop :=
  ∀ i ∈ stagedIx, t.staged i = extendMeas zero48 (x.part (if i = 5 then 4 else i))

/-! ### Registers and the mesh -/

/-- Link n is up and holds no half of a write (R37). -/
structure linkFree (s : State) (n : Nat) : Prop where
  up : s.linkUp n = true
  held : (s.link n).held = none

/-- Who writes may write now: the device's firmware, or a link that is up and holds no half of a write. -/
structure mayAccess (s : State) (by_ : Agent) : Prop where
  awake : s.barUp = true
  link : ∀ n : LinkId, by_ = .link n → linkFree s n.val

/-- A register of die d that a write of `v` reaches and that goes by its access code alone. -/
structure plainReg (s : State) (by_ : Agent) (a d : Nat) (r : RegRow) (v : Nat) : Prop where
  found : findReg a = some (d, r, a)
  serves : s.serves a = true
  plain : ∀ u : State, u.ownWrite by_ d r (r.index (a - dieBase d)).1 (r.index (a - dieBase d)).2 a v = none
  may : s.mayWrite r (r.index (a - dieBase d)).1 (r.index (a - dieBase d)).2 v = true

/-- An RWL register's owner is sealed. -/
def sealedOwner (s : State) (a d : Nat) (r : RegRow) : Prop :=
  ∃ b, s.rwlBay d r (r.index (a - dieBase d)).1 = some b ∧ s.locked b = true

/-- A write by its register's access code: what the register holds then (R5, R7, Table 00-5). -/
def codeWrite (s : State) (a d : Nat) (r : RegRow) (v old new : Nat) : Prop :=
  match r.acc with
  | .rw => new = v
  | .rwl => (sealedOwner s a d r → new = old) ∧ (¬ sealedOwner s a d r → new = v)
  | .w1c => new = old - (old &&& v)
  | _ => new = old

/-- Nothing differs but register a and what the host links hold of accesses in halves. -/
def onlyAccess (t s : State) (a : Nat) : Prop :=
  t = { s with regs := t.regs, hosts := { s.hosts with h0 := t.hosts.h0, h1 := t.hosts.h1 } } ∧ regsBut t s [a]

/-- Nothing differs but what the host links hold of accesses in halves. -/
def onlyHalves (t s : State) : Prop :=
  t = { s with hosts := { s.hosts with h0 := t.hosts.h0, h1 := t.hosts.h1 } }

/-- What a register shows to a read: nothing of a WO register, or of a profile register without consent (R7, R413). -/
def shown (s : State) (a d : Nat) (r : RegRow) : Nat :=
  if r.acc = .wo ∨ s.withheld d r = true then 0
  else s.view d r (r.index (a - dieBase d)).1 (r.index (a - dieBase d)).2 a

/-- A read of `size` bytes at a by link n is completed with `v`. -/
def readGives (s : State) (link : LinkId) (addr : BitVec 26) (size v : Nat) (P : State → Prop) : Prop :=
  completes s (.registerReadClear link addr size) fun t => t.out = s.out ++ [.readData link.val addr.toNat size v] ∧ P t

/-- How a die answers a request of the mesh (R32): its code, or none where it is delivered. -/
def meshAnswerOf (state : Nat) : Option Nat :=
  if state = 2 then none else if state = 1 then some St.TARGET_RESET else some St.DOMAIN_CLOSED

/-! ### Commands that are not due -/

/-- The rows that act on a started command of their opcode. -/
inductive commandRow (r : CmdRef) : Nat → Instr → Prop
  | nop : commandRow r 0x00 (.nop r)
  | tileLaunch : commandRow r 0x01 (.tileLaunch r)
  | copy : commandRow r 0x02 (.copy r)
  | fill : commandRow r 0x03 (.fill r)
  | fence : commandRow r 0x04 (.fence r)
  | evtInit : commandRow r 0x05 (.evtInit r)
  | engFlag : commandRow r 0x06 (.engFlag r)
  | journalMark : commandRow r 0x07 (.journalMark r)
  | memMap : commandRow r 0x10 (.memMap r)
  | memUnmap : commandRow r 0x11 (.memUnmap r)
  | migrate : commandRow r 0x12 (.migrate r)
  | migrateSlabDone (m : Medium) (fail : Bool) : commandRow r 0x12 (.migrateSlabDone r m fail)
  | prefetchSched : commandRow r 0x13 (.prefetchSched r)
  | pageAlloc : commandRow r 0x18 (.pageAlloc r)
  | pageFree : commandRow r 0x19 (.pageFree r)
  | pageSwapOut (m : Medium) (fail : Bool) : commandRow r 0x1A (.pageSwapOut r m fail)
  | pageSwapIn : commandRow r 0x1B (.pageSwapIn r)
  | ptUpdateWindow (m : Medium) : commandRow r 0x1C (.ptUpdateWindow r m)
  | ptUpdateAdvance : commandRow r 0x1C (.ptUpdateAdvance r)
  | rtStageMemory (m : Medium) : commandRow r 0x20 (.rtStageMemory r m)
  | rtStageFabric (m : Medium) : commandRow r 0x20 (.rtStageFabric r m)
  | rtVerifyCheckActive (x : List (BitVec 14)) : commandRow r 0x21 (.rtVerifyCheckActive r x)
  | rtVerifyCheckStaged (x : List (BitVec 14)) : commandRow r 0x21 (.rtVerifyCheckStaged r x)
  | rtVerifyPublish (m : Medium) : commandRow r 0x21 (.rtVerifyPublish r m)
  | rtArmStrict : commandRow r 0x22 (.rtArmStrict r)
  | rtArmRolling : commandRow r 0x22 (.rtArmRolling r)
  | rtAbort : commandRow r 0x23 (.rtAbort r)
  | rtAbortAdapter : commandRow r 0x23 (.rtAbortAdapter r)
  | rtAdapter (m : Medium) : commandRow r 0x24 (.rtAdapter r m)
  | ridge (m : Medium) : commandRow r 0x28 (.ridge r m)
  | valley (m : Medium) : commandRow r 0x29 (.valley r m)
  | ckptTake (m : Medium) : commandRow r 0x30 (.ckptTake r m)
  | ckptRestore (m : Medium) : commandRow r 0x30 (.ckptRestore r m)
  | ckptSched : commandRow r 0x30 (.ckptSched r)
  | mirrorSource : commandRow r 0x31 (.mirrorSource r)
  | mirrorHost : commandRow r 0x31 (.mirrorHost r)
  | mirrorRestore (m : Medium) : commandRow r 0x31 (.mirrorRestore r m)
  | mirrorStopSource : commandRow r 0x31 (.mirrorStopSource r)
  | mirrorStopHost : commandRow r 0x31 (.mirrorStopHost r)
  | attestReport : commandRow r 0x38 (.attestReport r)
  | attestSealNonce : commandRow r 0x38 (.attestSealNonce r)
  | attestAddPubkey : commandRow r 0x38 (.attestAddPubkey r)
  | attestSetConsent : commandRow r 0x38 (.attestSetConsent r)
  | attestRotateLink : commandRow r 0x38 (.attestRotateLink r)
  | bayCreate : commandRow r 0x40 (.bayCreate r)
  | baySeal : commandRow r 0x41 (.baySeal r)
  | bayRoles : commandRow r 0x42 (.bayRoles r)
  | bayTeardown : commandRow r 0x43 (.bayTeardown r)
  | bayScrub : commandRow r 0x44 (.bayScrub r)
  | phaseBegin : commandRow r 0x48 (.phaseBegin r)
  | phaseEnd : commandRow r 0x48 (.phaseEnd r)
  | phaseCancel : commandRow r 0x48 (.phaseCancel r)

end Sys2Proof.Claims
end

