-- ==== Sys2Proof/Certificates/Slice0/Obligations.lean ====
section
/-! DEFINITION. The statements about the model: one property for each, in the order of OBLIGATIONS.json. -/

open Sys2Proof Sys2Proof.Machine Sys2Proof.Claims

/-! ### The engines -/

/-- Floating-point vector operations (R62, R113, R114, R150): values, latency, issue interval, structural conflict.
Integer, logic, shift and select operations (R62, R150); a shift by 32 or more gives the part's own value.
CVT, EXADD, the reductions, RBITS and EXCVT (R62, R97, R106, R110, R150, R327); EXCVT's row is rejected from 256 on (R60). -/
def Obligations.VectorArithmetic : Prop :=
  (∀ (s : State) (r : EngRef) (c : Cur), ∀ q ∈ floatRows, reached s r 1 q.op c → vecIssues s r c q) ∧
  (∀ (s : State) (r : EngRef) (c : Cur), ∀ q ∈ integerRows, reached s r 1 q.op c → vecIssues s r c q) ∧
  (∀ (s : State) (r : EngRef) (c : Cur),
    (∀ q ∈ cvtRow (engOf s r) c :: exaddRow :: rbitsRow :: reduceRows, reached s r 1 q.op c → vecIssues s r c q) ∧
    (reached s r 1 40 c → direct (engOf s r) (opA c % 16) 1 →
      if stepAddr (engOf s r) (opA c % 16) 0 < 256 then vecIssues s r c excvtRow
      else issues s (.excvt r) r fun e => rejected e c.cyc St.OUT_OF_RANGE 1 c.pc ∧ sameStores e (engOf s r)))

/-- VLD, VST, ALD and AST on a direct stream (R117, R118, R152, R157): the step's address is checked, its bytes move with the
cycles of Table 05-6, and the stream moves on by one step.
LFTR, LFTW, XPUT and XGET (R153): a length of 0 starts nothing, a bad length, kind or address is rejected, a tag in use is
a schedule fault; otherwise the transfer holds its tag and every scratchpad line of its near end. -/
def Obligations.LoadsAndStores : Prop :=
  (∀ (s : State) (r : EngRef) (c : Cur), ∀ q ∈ moveRows,
    let e := engOf s r
    let i := bitsAt (wLdst c.word) 10 4
    let a := stepAddr e i 0
    reached s r 2 q.op c → direct e i q.kind →
      issues s (q.instr r) r fun e1 =>
        sameStores e1 e ∧ (e1.stream i).pos = (e.stream i).pos + 1 ∧
        (if a % q.align ≠ 0 then rejected e1 c.cyc St.ILLEGAL_FIELD 2 c.pc ∧ e1.flight = e.flight
         else if q.top < a + q.size then rejected e1 c.cyc St.OUT_OF_RANGE 2 c.pc ∧ e1.flight = e.flight
         else ∀ w ∈ q.writes e c a, lands e1 w.1 w.2)) ∧
  (∀ (s : State) (r : EngRef) (c : Cur), ∀ q ∈ xferRows,
    let e := engOf s r
    let n := xferLen e c
    let near := xferNear e c q
    reached s r 2 q.op c → e.doomed c.cyc = false →
      issues s (q.instr r) r fun e1 =>
        e1.spad = e.spad ∧ e1.vreg = e.vreg ∧ e1.acc = e.acc ∧ e1.flight = e.flight ∧
        (if n % 4 ≠ 0 ∨ 2 ^ 20 < n ∨ (xferDst e c).kind ≠ q.kd ∨ (xferSrc e c).kind ≠ q.ks then
           rejected e1 c.cyc St.ILLEGAL_FIELD 2 c.pc ∧ e1.xfers = e.xfers
         else if n = 0 then e1.xfers = e.xfers
         else if near % 4 ≠ 0 then rejected e1 c.cyc St.ILLEGAL_FIELD 2 c.pc ∧ e1.xfers = e.xfers
         else if 2 ^ 20 < near + n then rejected e1 c.cyc St.OUT_OF_RANGE 2 c.pc ∧ e1.xfers = e.xfers
         else if ∃ l ∈ touched 64 near n, bankOwned (s.owners r.die.val r.eng.val) e.ctx (l % 16) = false then
           rejected e1 c.cyc St.UNOWNED_BANK 2 c.pc ∧ e1.xfers = e.xfers
         else if ∃ y ∈ e.xfers, y.tag = xferTag c then
           failed e1 ⟨c.cyc, St.TAG_BUSY, 2, c.pc, 8, xferTag c, noCycle, c.cyc⟩ ∧ e1.xfers = e.xfers
         else
           (∃ y, e1.xfers = e.xfers ++ [y] ∧ y.tag = xferTag c ∧ y.op = q.op ∧ y.src = (xferSrc e c).baseAddr ∧
             y.dst = (xferDst e c).baseAddr ∧ y.len = n ∧ y.issue = c.cyc) ∧
           ∀ l ∈ touched 64 near n, (e1.tag l).pend = (e.tag l).pend + 1))

/-- SLDI, SADDI, SADD and SSHL (R154): the register keeps its value in the issue cycle and has the new one from the next.
ASET, ABASE and ARST (R154, R155, R157): a busy stream is a schedule fault; the stream changes from the next cycle. -/
def Obligations.AddressGeneration : Prop :=
  (∀ (s : State) (r : EngRef) (c : Cur), ∀ q ∈ scalarRows,
    let e := engOf s r
    let d := bitsAt (wAgen c.word) 4 4
    reached s r 3 q.op c → (∃ x, e.run = some x ∧ x.sregs.length = 16) →
      issues s (q.instr r) r fun e1 =>
        sameStores e1 e ∧ e1.flight = e.flight ∧ failures e1 = failures e ∧ (∀ i, e1.sreg i = e.sreg i) ∧
        e1.applyAgen.sreg d = q.value e c ∧ ∀ i, i ≠ d → e1.applyAgen.sreg i = e.sreg i) ∧
  (∀ (s : State) (r : EngRef) (c : Cur),
    let e := engOf s r
    let i := bitsAt (wAgen c.word) 4 4
    let busy (e1 : Engine) : Prop := c.cyc < (e.stream i).busy →
      failed e1 ⟨c.cyc, St.STREAM_BUSY, 3, c.pc, 7, i, (e.stream i).busy, c.cyc⟩
    let keeps (e1 : Engine) : Prop := sameStores e1 e ∧ e1.flight = e.flight ∧ (∀ j, e1.stream j = e.stream j) ∧
      ∀ j, j ≠ i → e1.applyAgen.stream j = e.stream j
    (∃ x, e.run = some x ∧ x.streams.length = 16) →
      (reached s r 3 1 c → issues s (.aset r) r fun e1 => keeps e1 ∧ busy e1 ∧
        e1.applyAgen.stream i = streamOf (e.img.descs.getD (bitsAt (wAgen c.word) 8 6) [])) ∧
      (reached s r 3 2 c → issues s (.abase r) r fun e1 => keeps e1 ∧ busy e1 ∧
        e1.applyAgen.stream i = { e.stream i with base := (e.stream i).base + e.sreg (bitsAt (wAgen c.word) 8 4) }) ∧
      (reached s r 3 3 c → issues s (.arst r) r fun e1 => keeps e1 ∧ busy e1 ∧ (e1.applyAgen.stream i).pos = 0 ∧
        (e1.applyAgen.stream i).base = (e.stream i).base))

/-- RDRAIN, RVEC and RRAW (R64, R65, R160): a consumer has the random lane for its cycles; an overlap with an earlier consumer's
cycles is a schedule fault, and without one no check fails. -/
def Obligations.RandomLane : Prop :=
  ∀ (s : State) (r : EngRef) (c : Cur), ∀ q ∈ laneRows,
    let e := engOf s r
    reached s r 4 q.op c → ∀ x, e.run = some x →
      issues s (q.instr r) r fun e1 =>
        sameStores e1 e ∧ (∃ y, e1.run = some y ∧ y.lanes = x.lanes ++ [(q.first c, q.last e c)]) ∧
        (if ∃ w ∈ x.lanes, w.1 ≤ q.last e c ∧ q.first c ≤ w.2 then ∃ f, failed e1 f ∧ f.status = St.LANE_BUSY
         else failures e1 = x.fails)

/-- END (R71): in a cycle before the greatest READY or HOLD it is the schedule fault END_EARLY; otherwise every timed write
lands and the program ends, with the status of its first failed transfer or OK.
SKIP and LOOP (R143, R146): SKIP changes nothing but the next word's cycle; LOOP repeats the next L words S times, and is
rejected for S = 0, for a fifth level, and for a body past the last word. -/
def Obligations.ProgramControl : Prop :=
  (∀ (s : State) (r : EngRef) (c : Cur),
    let e := engOf s r
    reached s r 5 1 c → unfailed e → ∀ x, e.run = some x →
      issues s (.endProgram r) r fun e1 => e1.run = none ∧ e1.flight = [] ∧
        (if c.cyc < (lastTag e).1 then
           ∃ f more last, EngOut.fault f more last ∈ e1.outs ∧ f.status = St.END_EARLY ∧ f.cyc = c.cyc ∧
             f.expected = (lastTag e).1
         else EngOut.ended (x.xfail.getD (0, St.OK, 0, 0)).2.1 (x.xfail.getD (0, St.OK, 0, 0)).2.2.1
           (x.xfail.getD (0, St.OK, 0, 0)).2.2.2 ∈ e1.outs)) ∧
  (∀ (s : State) (r : EngRef) (c : Cur),
    let e := engOf s r
    let n := (e.sreg (bitsAt (wCtrl c.word) 4 4)).toNat
    let l := bitsAt (wCtrl c.word) 8 8 + 1
    (reached s r 5 2 c → issues s (.skip r) r fun e1 => e1 = e ∧
      (∀ x w k, e.run = some x → x.loops = [] → x.fails = [] → x.uses = [] → x.img.words[c.pc + 1]? = some w →
        wordOk x.img (c.pc + 1) w = true → firstSlot w 0 = some k →
        ∃ y, (advance e1).run = some y ∧
          y.cur = some ⟨c.pc + 1, w, k, c.cyc + (wDelta w + 1 + bitsAt (wCtrl c.word) 4 12)⟩)) ∧
    (reached s r 5 3 c → ∀ x, e.run = some x → issues s (.loop r) r fun e1 => sameStores e1 e ∧ e1.flight = e.flight ∧
      (if n = 0 ∨ 4 ≤ x.loops.length ∨ x.img.words.length < c.pc + 1 + l then rejected e1 c.cyc St.ILLEGAL_FIELD 5 c.pc
       else ∃ y, e1.run = some y ∧ y.loops = ⟨c.pc + 1, c.pc + l, n⟩ :: x.loops)))

/-- WAITT, WAITE and WAIT_RELEASE (R144, R145), without QUIESCE: a condition that holds does not hold the sequencer, one that
does not hold it; WAITE takes its flag back; a release goes on from the release cycle.
SIGE (R161, R185): the program's event waits at the engine, behind what the program sent, with the launch's event base
added modulo 1,024. -/
def Obligations.ProgramWaits : Prop :=
  (∀ (s : State) (r : EngRef) (c : Cur) (d : CDie) (p : PhysEng) (n : Nat),
    let e := engOf s r
    let m := bitsAt (wCtrl c.word) 4 8
    let go (i : Instr) (f : Engine → Engine) : Prop := exec i s = .next (s.engineDo r.die.val r.eng.val f)
    (reached s r 5 4 c → bitsAt (wCtrl c.word) 12 1 = 0 →
      go (.waitt r) fun _ =>
        if ∃ x ∈ e.xfers, bitsAt m x.tag 1 = 1 then e.withRun fun x => { x with wait := some ⟨true, m, false⟩ }
        else advance (e.withRun fun x => { x with release := some c.cyc })) ∧
    (reached s r 5 5 c → bitsAt (wCtrl c.word) 12 1 = 0 →
      go (.waite r) fun _ =>
        if e.evFlags.getLsbD m then
          advance { (e.withRun fun x => { x with release := some c.cyc }) with evFlags := e.evFlags &&& ~~~(1#256 <<< m) }
        else e.withRun fun x => { x with wait := some ⟨false, m, false⟩ }) ∧
    (∀ x w k, (s.eng d.val p.val).run = some x → x.wait = some w → x.cur = some k → w.quiesce = false →
      exec (.waitRelease d p n) s = .next (s.engineDo d.val p.val fun e =>
        if waitHolds e w then
          advance { ((clearFlag e w).withRun fun x =>
              { x with wait := none, release := some (k.cyc + n), cur := some { k with cyc := k.cyc + n } }) with
            outs := e.outs ++ [.busy n] }
        else e))) ∧
  (∀ (s : State) (r : EngRef) (c : Cur),
    let e := engOf s r
    reached s r 5 6 c → e.doomed c.cyc = false →
      issues s (.sige r) r fun e1 => sameStores e1 e ∧ e1.flight = e.flight ∧
        e1.outs = e.outs ++ [.sige (bitsAt (wCtrl c.word) 4 8) c.cyc] ∧
        ∀ x, e.run = some x → ∀ t : State,
          ((t.engOut r.die.val r.eng.val x (.sige (bitsAt (wCtrl c.word) 4 8) c.cyc)).eng r.die.val r.eng.val).siges =
            (t.eng r.die.val r.eng.val).siges ++
              [⟨(bitsAt (x.launch.word 22) 0 10 + bitsAt (wCtrl c.word) 4 8) % 1024, x.launch.bay, x.prog, c.cyc⟩])

/-- SWAP (R53 to R55): the shadow set becomes the active one; a set that is not ready is a schedule fault; the retired set
takes a load from cycle issue + 32; rows of a running stream that enter from the issue cycle meet the new set.
SLOAD (R51, R52, R54, R55, R147) on a direct stream in range: the shadow set records the descriptor's formats and scaling,
is ready when its rows and scale lines are in, and row i is read in cycle issue + i and written four cycles later.
STREAM and SWAP_STREAM (R56, R57, R147): N rows in consecutive cycles through the set that is active, or becomes so; row k
completes stage O4 in cycle issue + 71 + k; a feeder still in use is a schedule fault. -/
def Obligations.ArrayOperations : Prop :=
  (∀ (s : State) (r : EngRef) (c : Cur),
    let e := engOf s r
    let k := 1 - e.active
    reached s r 0 2 c →
      issues s (.swap r) r fun e1 => e1.active = k ∧ e1.set0 = e.set0 ∧ e1.set1 = e.set1 ∧ e1.spad = e.spad ∧ e1.acc = e.acc ∧
        e1.vreg = e.vreg ∧ (∃ x, e1.run = some x ∧ x.setFree = c.cyc + 32) ∧
        (c.cyc < (e.tag (setKey k)).ready →
          failed e1 ⟨c.cyc, St.SET_NOT_READY, 0, c.pc, 3, k, (e.tag (setKey k)).ready, c.cyc⟩) ∧
        (∀ cyc p, lands e cyc (.pass p) → c.cyc ≤ p.enter → lands e1 cyc (.pass { p with set := settledSet e k })) ∧
        ∀ cyc p, lands e cyc (.pass p) → p.enter < c.cyc → lands e1 cyc (.pass p)) ∧
  (∀ (s : State) (r : EngRef) (c : Cur),
    let e := engOf s r
    let k := 1 - e.active
    let pd := arrayPd e c
    let i := arrayAs c
    let n := 4 * (pdK pd / 32) * fmtWidth (pdFmtW pd)
    let len := 32 + if pdScaleW pd = 0 then 0 else scaleLines (pdScaleW pd) (pdK pd)
    reached s r 0 1 c → direct e i 0 → ∀ x, e.run = some x →
      issues s (.sload r) r fun e1 => e1.active = e.active ∧ e1.acc = e.acc ∧ e1.vreg = e.vreg ∧ e1.spad = e.spad ∧
        e1.setOf k = ⟨true, pdFmtS pd, pdFmtW pd, pdScaleW pd, [], []⟩ ∧ (e1.tag (setKey k)).ready = c.cyc + len ∧
        (∃ y, e1.run = some y ∧ y.loadEnd = c.cyc + len) ∧
        (c.cyc < x.loadEnd → failed e1 ⟨c.cyc, St.FEEDER_BUSY, 0, c.pc, 15, 0, x.loadEnd, c.cyc⟩) ∧
        (c.cyc < x.setFree → failed e1 ⟨c.cyc, St.SET_NOT_FREE, 0, c.pc, 3, k, x.setFree, c.cyc⟩) ∧
        (e.flight = [] → ∀ j < 32, spadOk (stepAddr e i j) n (rowAlign n) = true →
          lands e1 (c.cyc + j + 4) (.setRow k j (readBytes e.spad (stepAddr e i j) n)))) ∧
  (∀ (s : State) (r : EngRef) (c : Cur) (freeze : Nat),
    let e := engOf s r
    let pd := arrayPd e c
    let fed (e1 : Engine) : Prop := (∃ y, e1.run = some y ∧ y.feedEnd = c.cyc + streamLen c ∧ y.feedPd = some pd) ∧
      ∀ x, e.run = some x → c.cyc < x.feedEnd → failed e1 ⟨c.cyc, St.FEEDER_BUSY, 0, c.pc, 15, 0, x.feedEnd, c.cyc⟩
    (reached s r 0 3 c → streamLegal e c (settledSet e e.active) →
      issues s (.stream r freeze) r fun e1 => fed e1 ∧ e1.active = e.active ∧ e1.acc = e.acc ∧ e1.spad = e.spad ∧
        rowsFlow e1 c pd (settledSet e e.active)) ∧
    (reached s r 0 4 c → streamLegal e c (settledSet e (1 - e.active)) →
      issues s (.swapStream r freeze) r fun e1 => fed e1 ∧ e1.active = 1 - e.active ∧ e1.acc = e.acc ∧ e1.spad = e.spad ∧
        rowsFlow e1 c pd (settledSet e (1 - e.active))))

/-- ENGINE_CLOCK_CHANGE and ENGINE_CLOCK_GATE (R27, R76): a clock of 1,200 to 2,100 MHz in steps of 50 becomes the die's, held
at 1,200 under the thermal clamp, and any other is ignored; an engine that is ON and idle is clock-gated, no other is.
ENG_POWER_REQ and ENGINE_POWER_UP_DONE (R76, R77, R334): a mapped engine is not powered off; an unmapped one loses its state
at once; an engine that is OFF starts CLEARING, and at its end is cleared and ON, its random lane tested.
SENT_CTRL_WRITE and DMA_PROMOTION (R74, R122): the debug-stall mode is accepted only where the bay's consent permits debug;
a promoted bank is noted by an engine that runs a program. -/
def Obligations.EngineControls : Prop :=
  (∀ (s : State) (die : CDie) (eng : PhysEng) (mhz : Nat), s.Canonical →
    let d := die.val
    let p := eng.val
    (if 1200 ≤ mhz ∧ mhz ≤ 2100 ∧ mhz % 50 = 0 then
       completes s (.engineClockChange die mhz) fun t => onlyRegs t s [Reg.CLK_STATUS d] ∧
         t.fld (Reg.CLK_STATUS d) 0 12 = if s.fld Reg.THERM_STATUS 13 1 = 1 then 1200 else mhz
     else ignored s (.engineClockChange die mhz)) ∧
    (if s.dieState d = dieOn ∧ s.pwr d p = 2 ∧ (s.eng d p).run = none ∧ (s.eng d p).iq = [] ∧
        s.fld (Reg.ENG_PWR d p) 1 1 = 0 then
       completes s (.engineClockGate die eng) fun t => onlyRegs t s [Reg.ENG_STATUS d p] ∧ t.pwr d p = 1
     else ignored s (.engineClockGate die eng))) ∧
  (∀ (s : State) (die : CDie) (eng : PhysEng) (data : W32), s.Canonical →
    let d := die.val
    let p := eng.val
    (s.dieState d ≠ dieOn ∨ (bitsAt data.toNat 0 1 = 0 ∧ (s.logOf d p).isSome = true) → ignored s (.engPowerReq die eng data)) ∧
    (s.dieState d = dieOn → bitsAt data.toNat 0 1 = 0 → s.logOf d p = none →
      completes s (.engPowerReq die eng data) fun t => t.pwr d p = 0 ∧ t.eng d p = Engine.zero ∧ t.mem = s.mem ∧
        t.lofts = s.lofts ∧ t.reg (Reg.ENG_PWR d p) = data.toNat % 4) ∧
    (s.dieState d = dieOn → bitsAt data.toNat 0 1 = 1 →
      completes s (.engPowerReq die eng data) fun t => onlyRegs t s [Reg.ENG_PWR d p, Reg.ENG_STATUS d p] ∧
        t.reg (Reg.ENG_PWR d p) = data.toNat % 4 ∧ t.pwr d p = if s.pwr d p = 0 then 3 else s.pwr d p) ∧
    (¬ (s.dieState d = dieOn ∧ s.pwr d p = 3) → ∀ ok, ignored s (.enginePowerUpDone die eng ok)) ∧
    (s.dieState d = dieOn → s.pwr d p = 3 →
      completes s (.enginePowerUpDone die eng true) fun t =>
        onlyEngine t s d p [Reg.ENG_STATUS d p, Reg.RNG_STATUS d p] ∧ t.pwr d p = 2 ∧ t.reg (Reg.RNG_STATUS d p) = 1 ∧
        t.eng d p = { Engine.zero with iq := (s.eng d p).iq, evFlags := (s.eng d p).evFlags, testing := (s.eng d p).testing })) ∧
  (∀ (s : State) (die : CDie) (eng : PhysEng) (data : W32) (bank : BitVec 4), s.Canonical →
    let d := die.val
    let p := eng.val
    let m := bitsAt data.toNat 0 2
    let consent := ∃ b, s.bayOfDie d = some b ∧ s.fld (Reg.BAY_CONSENT b) 0 1 = 1
    (if s.dieState d = dieOn then
       completes s (.sentCtrlWrite die eng data) fun t => onlyRegs t s [Reg.SENT_CTRL d p] ∧
         t.fld (Reg.SENT_CTRL d p) 2 1 = bitsAt data.toNat 2 1 ∧
         (m = 0 ∨ (m = 1 ∧ consent) → t.fld (Reg.SENT_CTRL d p) 0 2 = m) ∧
         (¬ (m = 0 ∨ (m = 1 ∧ consent)) → t.fld (Reg.SENT_CTRL d p) 0 2 = s.fld (Reg.SENT_CTRL d p) 0 2)
     else ignored s (.sentCtrlWrite die eng data)) ∧
    ((s.eng d p).run = none → ignored s (.dmaPromotion die eng bank)) ∧
    ((s.eng d p).run ≠ none → (s.eng d p).outs = [] →
      completes s (.dmaPromotion die eng bank) fun t => onlyEngine t s d p [] ∧
        t.eng d p = { s.eng d p with promoted := (s.eng d p).promoted ++ [bank.toNat] }))

/-- PROGRAM_FIRST_ISSUE (R66, R71, R78): without an engine that is up, idle and cleared, or a launch that may run, nothing
happens; otherwise the launch leaves the queue and its program starts in cycle 0 with READY and HOLD of every tag zero, PEND
kept, and the launch's first sixteen parameter words in the scalar registers.
IMAGE_FETCH_COMPLETE from the program cache (R163, R165): an image that the checks refuse ends its launch with ILLEGAL_FIELD;
one that fits becomes resident at its load base, and every waiting launch of its handle may run.
TILE_OVERRUN_EXPIRY (R167): 64,000 ns after the first issue the program is abandoned with OVERRUN, and with what had
failed by then if a check had; before that nothing happens to the engine. -/
def Obligations.ProgramStarts : Prop :=
  (∀ (s : State) (die : CDie) (eng : PhysEng), s.Canonical →
    let d := die.val
    let p := eng.val
    let e := s.eng d p
    let idle := s.engineUp d p = true ∧ e.run = none ∧ e.testing = false ∧ s.fld (Reg.CLR_STATUS d) 0 2 ≠ 1
    (¬ idle ∨ s.nextLaunch d p = none → ignored s (.programFirstIssue die eng)) ∧
    ∀ l x, idle → s.nextLaunch d p = some l → l.bay < 16 → l.fetch = .ready →
      e.resident.find? (fun y => decide (y.handle = l.handle)) = some x →
      ∃ u : State, exec (.programFirstIssue die eng) s = .next (u.engineDo d p fun e => goWord wordFuel e 0 0) ∧
        u.mem = s.mem ∧ u.cq = s.cq ∧ u.reg (Reg.ACC_FLAGS d p) = 0 ∧ u.reg (Reg.RUN_HANDLE d p) = l.handle.toNat ∧
        u.fld (Reg.ENG_STATUS d p) 4 1 = 1 ∧ u.pwr d p = 2 ∧
        l ∉ (u.eng d p).iq ∧ (u.eng d p).spad = e.spad ∧ (u.eng d p).acc = e.acc ∧ (u.eng d p).vreg = e.vreg ∧
        (∀ k, (u.eng d p).tag k = ⟨0, 0, (e.tag k).pend⟩) ∧
        ∃ y, (u.eng d p).run = some y ∧ y.launch = l ∧ y.img = x.img ∧ y.start = s.ktime ∧ y.sregs = l.params.take 16 ∧
          (y.debug = true ↔ s.fld (Reg.SENT_CTRL d p) 0 2 = 1 ∧ s.fld (Reg.BAY_CONSENT l.bay) 0 1 = 1)) ∧
  (∀ (s : State) (die : CDie) (eng : PhysEng) (h : W32) (base : BitVec 12) (m : Medium) (l : Launch) (x : Cached), s.Canonical →
    let d := die.val
    let p := eng.val
    let e := s.eng d p
    let n (img : Image) := (img.bytes - 64 + 15) / 16
    s.engineUp d p = true → e.iq.filter (fun y => decide (y.handle = h) && decide (y.fetch ≠ .ready)) = [l] →
      s.cached d h = some x →
      (parseImage x.bytes = none →
        exec (.imageFetchComplete die eng h base m) s = .next (s.failLaunch d p l St.ILLEGAL_FIELD (0, 0))) ∧
      (∀ img, parseImage x.bytes = some img → e.bufUsed + n img ≤ 4096 → base.toNat + n img ≤ 4096 →
        (∀ r ∈ e.resident, overlaps base.toNat (n img) r.base r.used = false) →
        completes s (.imageFetchComplete die eng h base m) fun t => onlyEngine t s d p [Reg.IB_STATUS d p] ∧
          (t.eng d p).resident = e.resident ++ [⟨h, base.toNat, n img, img, s.stamp⟩] ∧
          (t.eng d p).iq = e.iq.map (fun y => if y.handle = h then { y with fetch := .ready } else y) ∧
          (t.eng d p).spad = e.spad ∧ (t.eng d p).run = e.run)) ∧
  (∀ (s : State) (die : CDie) (eng : PhysEng) (x : Run) (c : Cur), (s.eng die.val eng.val).run = some x → x.cur = some c →
    let e := s.eng die.val eng.val
    (s.now < x.start.toNat + 64000 →
      exec (.tileOverrunExpiry die eng) s = .next (s.engineDo die.val eng.val fun e => e)) ∧
    (x.start.toNat + 64000 ≤ s.now → (∀ f ∈ x.fails, c.cyc < f.cyc) →
      ∃ f e1, exec (.tileOverrunExpiry die eng) s = .next (s.engineDo die.val eng.val fun _ => e1) ∧
        f.status = St.OVERRUN ∧ f.cyc = c.cyc ∧ EngOut.fault f false c.pc ∈ e1.outs ∧ e1.run = none ∧ e1.flight = [] ∧
        e1.iq = e.iq ∧ e1.resident = e.resident))

/-- ASYNC_TRANSFER_COMPLETE and SIGE_EVENT_APPLY (R130, R138, R153, R185): no transfer on the tag, no effect; an LFTR that the loft
serves moves its bytes and gives its tag back; the oldest SIGE goes to its event once what its program sent before is
acknowledged, and waits until then.
SPAD_OWN_WRITE and SPAD_HANDOVER (R125, R126): a write requests the handover and changes no owner; it takes effect once no
program of its contexts runs and no transfer uses the bank, and clears the bank where it is asked to. -/
def Obligations.EngineTransfers : Prop :=
  (∀ (s : State) (die : CDie) (eng : PhysEng) (tag : BitVec 3), s.Canonical →
    let d := die.val
    let p := eng.val
    let e := s.eng d p
    (e.xfers.find? (fun x => decide (x.tag = tag.toNat)) = none →
      ∀ ecc m, ignored s (.asyncTransferComplete die eng tag ecc m)) ∧
    (∀ x ecc, e.xfers.find? (fun x => decide (x.tag = tag.toNat)) = some x → x.op = 5 → s.dieState d = dieOn →
      s.loftRefuses d (some x.bay) x.src x.len = none → (∀ b ∈ s.loftGet d x.src x.len, b ≠ none) →
      completes s (.asyncTransferComplete die eng tag ecc .good) fun t => onlyEngine t s d p [] ∧
        (t.eng d p).spad = writeBytes e.spad x.dst ((s.loftGet d x.src x.len).map pbyte) ∧
        (t.eng d p).xfers = e.xfers.filter (fun y => decide (y ≠ x)) ∧ (t.eng d p).run = e.run) ∧
    (e.siges = [] → ignored s (.sigeEventApply die eng)) ∧
    (∀ g rest, e.siges = g :: rest →
      (if ∃ x ∈ e.xfers ++ e.unacked, x.prog = g.prog ∧ x.issue ≤ g.cyc ∧ (x.op = 6 ∨ x.op = 7) then
         ignored s (.sigeEventApply die eng)
       else exec (.sigeEventApply die eng) s = .next ((s.setEng d p { e with siges := rest }).evtAdd g.bay g.event 1)))) ∧
  (∀ (s : State) (die : CDie) (eng : PhysEng) (bank : BitVec 4) (data : W32), s.Canonical →
    let d := die.val
    let p := eng.val
    let k := bank.toNat
    let a := Reg.SPAD_OWN d p k
    let o := bitsAt data.toNat 0 5
    let e := s.eng d p
    let waits := s.fld a 13 1 = 0 ∨ e.runsFor (s.fld a 0 5) (s.fld a 8 5) = true ∨ e.bankBusy k = true
    (s.dieState d ≠ dieOn → ignored s (.spadOwnWrite die eng bank data) ∧ ignored s (.spadHandover die eng bank)) ∧
    (s.dieState d = dieOn →
      (completes s (.spadOwnWrite die eng bank data) fun t => onlyRegs t s [a, Reg.SPAD_OWN_PEND d p] ∧
        t.fld a 0 5 = s.fld a 0 5 ∧ t.fld a 5 1 = bitsAt data.toNat 5 1 ∧
        (if 0x11 ≤ o ∧ o ≤ 0x1E then t.fld a 13 1 = s.fld a 13 1
         else t.fld a 8 5 = o ∧ t.fld a 13 1 = if o = s.fld a 0 5 then 0 else 1)) ∧
      (if waits then ignored s (.spadHandover die eng bank)
       else completes s (.spadHandover die eng bank) fun t => onlyEngine t s d p [a, Reg.SPAD_OWN_PEND d p] ∧
         t.fld a 0 5 = s.fld a 8 5 ∧ t.fld a 13 1 = 0 ∧ (t.eng d p).acc = e.acc ∧ (t.eng d p).vreg = e.vreg ∧
         (∀ x, mget zeroByte (t.eng d p).spad x =
           if s.fld a 5 1 = 1 ∧ x / 64 % 16 = k then 0 else mget zeroByte e.spad x))))

/-- CLEAR_START and CLEAR_DONE (R132 to R134): a START from any agent but the firmware is discarded; it is accepted when the die is
ON and quiet, and refused otherwise; a first mismatch repeats the clear; a clear that ends well leaves the loft of the die
holding zero, without poison, and every other loft as it was.
PATROL_SCRUB_READ and LOFT_REQUEST (R130, R136 to R138): a patrol read of a good word does nothing; a request that the die's
state, its bay or its address shuts out is answered with the status and moves no byte; a read answers the bytes, a whole
word written reads as written. -/
def Obligations.ClearAndLoft : Prop :=
  (∀ (s : State) (die : CDie) (l : LinkId) (bad : List PhysEng), s.Canonical →
    let d := die.val
    let a := Reg.CLR_STATUS d
    ignored s (.clearStart (.link l) die) ∧
    (s.dieState d = dieOn → s.fld a 0 2 = 1 → ignored s (.clearStart .firmware die)) ∧
    (s.dieState d = dieOn → s.fld a 0 2 ≠ 1 → s.dieQuiet d = true →
      completes s (.clearStart .firmware die) fun t => t.reg a = 1 ∧ t.mem = s.mem ∧ t.engines = s.engines) ∧
    (s.dieState d ≠ dieOn ∨ (s.fld a 0 2 ≠ 1 ∧ s.dieQuiet d = false) →
      completes s (.clearStart .firmware die) fun t => onlyRegs t s [a] ∧ t.fld a 2 1 = 1 ∧ t.fld a 0 2 = s.fld a 0 2) ∧
    (s.dieState d ≠ dieOn ∨ s.fld a 0 2 ≠ 1 → ∀ m, ignored s (.clearDone die m bad)) ∧
    (s.dieState d = dieOn → s.fld a 0 2 = 1 → s.fld a 3 1 = 0 →
      completes s (.clearDone die true bad) fun t => onlyRegs t s [a] ∧ t.fld a 3 1 = 1 ∧ t.fld a 0 2 = 1) ∧
    (∀ x, x < 2 ^ 25 → (s.clearDie d).loftByte d x = some 0) ∧
    (∀ d' x, d' ≠ d → x < 2 ^ 25 → (s.clearDie d).loftByte d' x = s.loftByte d' x) ∧
    (s.dieState d = dieOn → s.fld a 0 2 = 1 → (∀ b < 16, s.bayState b ≠ bayScrubbing) → bitsAt s.sec.clearing d 1 = 0 →
      (∀ p, s.pwr d p = 0) →
      completes s (.clearDone die false bad) fun t => t.fld a 0 2 = 2 ∧ t.lofts = (s.clearDie d).lofts ∧ t.mem = s.mem)) ∧
  (∀ (s : State) (die : CDie) (bay : Option BayId) (la : BitVec 25) (n : Nat) (word : BitVec 22), s.Canonical →
    let d := die.val
    let b := bay.map (·.val)
    ignored s (.patrolScrubRead die word .good) ∧
    (s.dieState d = dieOn → s.fld (Reg.LOFT_PATROL d) 0 1 = 1 → s.fld (Reg.CLR_STATUS d) 0 2 ≠ 1 →
      completes s (.patrolScrubRead die word .uncorrectable) fun t => t.loftByte d (word.toNat * 8) = none) ∧
    (∀ st (bs : Option (List PByte)) m, s.loftRefuses d b la.toNat (match bs with | some l => l.length | none => n) = some st →
      exec (.loftRequest die bay la n bs m) s = .next (s.emit (.loftAnswer d st []))) ∧
    (s.loftRefuses d b la.toNat n = none →
      exec (.loftRequest die bay la n none .good) s = .next (s.emit (.loftAnswer d
        (if ∃ x ∈ s.loftGet d la.toNat n, x = none then St.POISONED else St.OK) (s.loftGet d la.toNat n)))) ∧
    (∀ (bs : List Byte) m, la.toNat % 8 = 0 → bs.length = 8 → s.loftRefuses d b la.toNat 8 = none →
      completes s (.loftRequest die bay la n (some (bs.map some)) m) fun t =>
        t.loftGet d la.toNat 8 = bs.map some ∧ t.mem = s.mem ∧ t.engines = s.engines ∧
        ∀ x, x < 2 ^ 25 → (x < la.toNat ∨ la.toNat + 8 ≤ x) → t.loftByte d x = s.loftByte d x))

/-! ### Formats and accumulation -/

/-- Rounding leaves a value of the format as it is (R84, R95, R97): every encoding, subnormals and both zeros included, under every
mode, rounds to itself; a NaN rounds to the canonical NaN (R83) and an infinity, unsaturated, to itself.
Conversion to E8M0 (R99) and stochastic rounding (R95): the exponent of the binade, clamped to 0 to 254, whatever the mode; and
of the 2^b draws exactly d round up, where d is the top b bits of the discarded fraction. -/
def Obligations.FormatRounding : Prop :=
  (∀ f ∈ [fp64, fp32, bf16, fp16, e4m3, e5m2, e3m2, e2m3, e2m1], ∀ (md : Rnd) (sat : Bool) (x : Nat),
    x < 2 ^ (1 + f.eb + f.mb) → (∀ b r, md = .sr b r → r < 2 ^ b) →
      match f.decode x with
      | .nan => f.round md sat (f.decode x) = f.nanEnc
      | .inf _ => f.round md false (f.decode x) = x
      | .fin _ _ _ => f.round md sat (f.decode x) = x) ∧
  ((∀ (md : Rnd) (sat neg : Bool) (m j : Nat) (e : Int), 2 ^ j ≤ m → m < 2 ^ (j + 1) →
    Fmt.e8m0.encode md sat (.fin neg m e) = (max 0 (min 254 ((j : Int) + e + 127))).toNat) ∧
  (∀ (md : Rnd) (sat neg : Bool) (e : Int), Fmt.e8m0.encode md sat (.fin neg 0 e) = 0 ∧
    Fmt.e8m0.encode md sat (.inf neg) = 255 ∧ Fmt.e8m0.encode md sat .nan = 255) ∧
  ∀ (b m sh : Nat) (neg : Bool) (e : Int),
    (∀ r < 2 ^ b, roundAt (.sr b r) neg m e (e + sh) = m / 2 ^ sh ∨ roundAt (.sr b r) neg m e (e + sh) = m / 2 ^ sh + 1) ∧
    ((List.range (2 ^ b)).filter fun r => decide (roundAt (.sr b r) neg m e (e + sh) = m / 2 ^ sh + 1)).length =
      m % 2 ^ sh * 2 ^ b / 2 ^ sh)

/-- INT32 and EXA128 sums (R102, R106, R107): the wrapped sum of a pass does not depend on the order; EXA128 sums of terms whose
magnitudes stay below 2^127 are exact in every order and in every division into two groups.
A pass row in stage O4 (R58, R60, R100, R102, R106): SET writes the pass result, ADD and ADD_OUT add it to the row, OUT leaves
the accumulator store alone; no other slot changes. -/
def Obligations.Accumulation : Prop :=
  ((∀ ps qs : List Machine.Num, ps.Perm qs → (int32Sum qs).1 = (int32Sum ps).1 ∧
    (int32Sum ps).1 = intOf 32 true ((ps.map Machine.Num.toInt).sum % 2 ^ 32).toNat) ∧
  (∀ xs ys : List Int, xs.Perm ys → (xs.map Int.natAbs).sum < 2 ^ 127 →
    ys.foldl (fun a x => exaAdd a (some x)) (some 0) = some xs.sum) ∧
  ∀ xs ys : List Int, (xs.map Int.natAbs).sum + (ys.map Int.natAbs).sum < 2 ^ 127 →
    exaAdd (xs.foldl (fun a x => exaAdd a (some x)) (some 0)) (ys.foldl (fun a x => exaAdd a (some x)) (some 0)) =
      some (xs.sum + ys.sum)) ∧
  (∀ (e : Engine) (cyc : Nat) (p : PassRow) (a col : Nat), e.Canonical → p.acc = some a → col < 32 →
    let d := pdDrain p.pd
    let t := landPass e cyc p
    let old := mget zeroWord e.acc (a * 32 + col)
    let new := mget zeroWord t.acc (a * 32 + col)
    let ps := columnProducts p col
    let sum := fp32Sum ps
    (d = 3 → t.acc = e.acc) ∧
    (d < 3 → pdAcc p.pd = 0 → new = BitVec.ofNat 32 (if d = 0 then sum
      else fp32.round .rne false ((fp32.decode old.toNat).add .rne (fp32.decode sum)))) ∧
    (d < 3 → pdAcc p.pd = 2 → new = BitVec.ofInt 32 ((if d = 0 then 0 else old.toInt) + (ps.map Machine.Num.toInt).sum)) ∧
    (d < 3 → pdAcc p.pd = 1 → ∀ k < 4, mget zeroWord t.acc ((4 * a + k) * 32 + col) =
      BitVec.ofNat 32 (exaBits (if d = 0 then (exaSum (pdBase p.pd) ps).1
        else exaAdd (exaOfBits (bytesNat ((List.range 4).flatMap fun i =>
          natBytes 4 (mget zeroWord e.acc ((4 * a + i) * 32 + col)).toNat))) (exaSum (pdBase p.pd) ps).1) >>> (32 * k))) ∧
    (∀ x, x / 32 ≠ a → pdAcc p.pd ≠ 1 → mget zeroWord t.acc x = mget zeroWord e.acc x) ∧
    (∀ x, x / 128 ≠ a → pdAcc p.pd = 1 → mget zeroWord t.acc x = mget zeroWord e.acc x) ∧
    t.vreg = e.vreg ∧ t.spad = e.spad ∧ t.set0 = e.set0 ∧ t.set1 = e.set1)

/-! ### Command queues -/

/-- Doorbells (R175): a tail that moves nowhere or backward is counted, one past the ring halts the queue with
DOORBELL_OVERRUN and keeps Q_TAIL, and any other becomes Q_TAIL; a doorbell of a DISABLED queue is counted as well (log 21).
Q_CPL_HEAD, JNL_ACK and Q_BRK_CTRL (R190, R197, R199): a head or acknowledgement that moves backward, or past what has been
written, changes nothing but a count; a breakpoint is enabled only where the bay's consent permits debug. -/
def Obligations.QueueHostWrites : Prop :=
  (∀ (s : State) (q : QId) (d : W32), s.Canonical →
    let n := q.val
    (s.apexUp = false → ignored s (.doorbell q d)) ∧
    (s.apexUp = true →
      if s.qState n = 0 ∨ sub32 d.toNat (s.reg (Reg.Q_TAIL n)) = 0 ∨ 2 ^ 31 ≤ sub32 d.toNat (s.reg (Reg.Q_TAIL n)) then
        completes s (.doorbell q d) fun t => onlyRegs t s [Reg.Q_DB_ERR_CNT n] ∧
          t.reg (Reg.Q_DB_ERR_CNT n) = min 0xFFFFFFFF (s.reg (Reg.Q_DB_ERR_CNT n) + 1)
      else if s.qSlots n < sub32 d.toNat (s.reg (Reg.Q_HEAD n)) then
        completes s (.doorbell q d) fun t => t.reg (Reg.Q_TAIL n) = s.reg (Reg.Q_TAIL n) ∧ t.cq = s.cq ∧ t.mem = s.mem ∧
          (s.qState n ∈ [1, 3, 4, 5] → t.qState n = 2 ∧ t.fld (Reg.Q_STATUS n) 16 16 = 0x030C)
      else
        completes s (.doorbell q d) fun t => t.reg (Reg.Q_TAIL n) = d.toNat ∧ regsBut t s [Reg.Q_TAIL n] ∧
          t.cq.cmds = s.cq.cmds ∧ t.mem = s.mem ∧ t.out = s.out)) ∧
  (∀ (s : State) (q : QId) (d : W32), s.Canonical → s.apexUp = true →
    let n := q.val
    let h := s.reg (Reg.Q_CPL_HEAD n)
    let a := s.reg Reg.JNL_ACK
    (if 2 ^ 31 ≤ sub32 d.toNat h ∨ sub32 (s.reg (Reg.Q_CPL_TAIL n)) h < sub32 d.toNat h then
       completes s (.cplHeadWrite q d) fun t => onlyRegs t s [Reg.Q_DB_ERR_CNT n] ∧
         t.reg (Reg.Q_DB_ERR_CNT n) = min 0xFFFFFFFF (s.reg (Reg.Q_DB_ERR_CNT n) + 1)
     else completes s (.cplHeadWrite q d) fun t => onlyRegs t s [Reg.Q_CPL_HEAD n] ∧ t.reg (Reg.Q_CPL_HEAD n) = d.toNat) ∧
    (if 2 ^ 31 ≤ sub32 d.toNat a ∨ sub32 (s.reg Reg.JNL_POS) a < sub32 d.toNat a then ignored s (.jnlAckWrite d)
     else completes s (.jnlAckWrite d) fun t => onlyRegs t s [Reg.JNL_ACK] ∧ t.reg Reg.JNL_ACK = d.toNat) ∧
    (if bitsAt d.toNat 0 1 = 1 ∧ (s.qAdmin n = true ∨ s.fld (Reg.BAY_CONSENT (s.qBay n)) 1 1 = 0) then
       ignored s (.brkCtrlWrite q d)
     else completes s (.brkCtrlWrite q d) fun t => onlyRegs t s [Reg.Q_BRK_CTRL n] ∧
       t.reg (Reg.Q_BRK_CTRL n) = d.toNat % 4))

/-- ENABLE, DISABLE, PREEMPT and PREEMPTED (R173, R193, R195, Table 06-10): which states they act in, the counters that restart,
and the state they lead to.
RESUME (R193, R196): CONTINUE acts in HALTED, BREAK and PREEMPTED, RETRY in HALTED, DISCARD in HALTED and BREAK; a pending
pre-emption leads to PREEMPTING; the stopped command may start; RETRY reads the packet at Q_HALT_SLOT again; DISCARD takes
Q_HEAD to Q_TAIL. -/
def Obligations.QueueStates : Prop :=
  (∀ (s : State) (q : QId), s.Canonical → s.apexUp = true →
    let n := q.val
    let counters := [Reg.Q_HEAD n, Reg.Q_TAIL n, Reg.Q_CPL_TAIL n, Reg.Q_CPL_HEAD n, Reg.Q_SEQ n]
    (s.qState n ≠ 0 → ignored s (.qEnable q)) ∧
    (s.qState n = 0 → enables s n → completes s (.qEnable q) fun t => t.qState n = 1 ∧ (∀ a ∈ counters, t.reg a = 0) ∧
      t.fld (Reg.Q_STATUS n) 4 1 = 0 ∧ regsBut t s (Reg.Q_STATUS n :: counters) ∧ t.mem = s.mem ∧ t.cq.cmds = s.cq.cmds) ∧
    (s.qState n = 0 → ¬ enables s n → completes s (.qEnable q) fun t => onlyRegs t s [Reg.Q_STATUS n] ∧
      t.qState n = 0 ∧ t.fld (Reg.Q_STATUS n) 4 1 = 1) ∧
    (s.qState n = 0 → ignored s (.qDisable q)) ∧
    (s.qState n ≠ 0 → (∀ c ∈ s.qCmds n, c.unstarted = false) → completes s (.qDisable q) fun t =>
      regsBut t s [Reg.Q_STATUS n] ∧ t.mem = s.mem ∧ t.cq.cmds = s.cq.cmds ∧
        (if s.qInflight n = 0 then t.qState n = 0 else t.qState n = s.qState n ∧ (t.qx n).disabling = true)) ∧
    (s.qState n = 1 → (∀ c ∈ s.qCmds n, c.op ≠ 1) → completes s (.qPreempt q) fun t => t.qState n = 3 ∧
      t.fld (Reg.Q_STATUS n) 3 1 = 1 ∧ regsBut t s [Reg.Q_STATUS n] ∧ t.mem = s.mem ∧ t.cq.cmds = s.cq.cmds) ∧
    (s.qState n = 2 ∨ s.qState n = 5 → completes s (.qPreempt q) fun t => onlyRegs t s [Reg.Q_STATUS n] ∧
      t.qState n = s.qState n ∧ t.fld (Reg.Q_STATUS n) 3 1 = 1) ∧
    (s.qState n = 0 ∨ s.qState n = 3 ∨ s.qState n = 4 → ignored s (.qPreempt q)) ∧
    (if s.qState n = 3 ∧ ∀ c ∈ s.qCmds n, s.busyFor c = false then
       completes s (.queuePreempted q) fun t => t.qState n = 4 ∧ t.fld (Reg.Q_STATUS n) 3 1 = 0 ∧
         t.reg (Reg.Q_PREEMPT_NS n) = min 0xFFFFFFFF (s.now - (s.qx n).preAt) ∧ t.cq = s.cq ∧ t.mem = s.mem
     else ignored s (.queuePreempted q))) ∧
  (∀ (s : State) (q : QId), s.Canonical → s.apexUp = true →
    let n := q.val
    let goes (t : State) : Prop := t.qState n = if s.fld (Reg.Q_STATUS n) 3 1 = 1 then 3 else 1
    (s.qState n ∈ [0, 1, 3] → ignored s (.resumeContinue q)) ∧
    (s.qState n ∈ [2, 4, 5] → completes s (.resumeContinue q) fun t => goes t ∧ t.mem = s.mem ∧
      (∀ c ∈ t.qCmds n, c.phase ≠ .stopped ∧ c.paused = false) ∧
      (∀ r k, r ≠ n → t.findCmd r k = s.findCmd r k)) ∧
    (s.qState n ≠ 2 → ignored s (.resumeRetry q)) ∧
    (s.qState n = 2 → completes s (.resumeRetry q) fun t => goes t ∧ (t.qx n).fetch = some (s.reg (Reg.Q_HALT_SLOT n)) ∧
      (t.qx n).retry = true ∧ t.cq.cmds = s.cq.cmds ∧ t.mem = s.mem ∧ t.reg (Reg.Q_HEAD n) = s.reg (Reg.Q_HEAD n)) ∧
    (s.qState n ∈ [0, 1, 3, 4] → ignored s (.resumeDiscard q)) ∧
    (s.qState n ∈ [2, 5] → (∀ c ∈ s.qCmds n, c.unstarted = false) → completes s (.resumeDiscard q) fun t => goes t ∧
      t.reg (Reg.Q_HEAD n) = s.reg (Reg.Q_TAIL n) ∧ (t.qx n).dbs = [] ∧ (t.qx n).fetch = none ∧ t.cq.cmds = s.cq.cmds ∧
      regsBut t s [Reg.Q_STATUS n, Reg.Q_HEAD n] ∧ t.mem = s.mem) ∧
    (∀ c, s.qState n = 5 → s.qCmds n = [c] → c.phase = .stopped → c.op ≠ 0x30 → s.fld (Reg.Q_CFG n) 19 1 = 0 →
      c.bay = none ∨ c.signals St.CANCELLED = false → (s.qx n).disabling = false → completes s (.resumeDiscard q) fun t =>
        goes t ∧ t.findCmd n c.seq = none ∧ (t.jnl c.jpos).state = 3 ∧ (t.jnl c.jpos).status = St.CANCELLED))

/-- COMMAND_FETCH (R176, R199): with nothing to fetch it does nothing; of the queues that can be fetched the first by priority,
then by its oldest doorbell, has its packet read, unless the journal cannot take an entry: that is counted.
RING_READ_COMPLETE (R174, R176, R179, R197, R198): a read nobody waits for does nothing; a packet that the tail covers is
accepted under the next sequence number and journal position; its first failing check completes it, a breakpoint stops it. -/
def Obligations.PacketIntake : Prop :=
  (∀ (s : State) (cp : Fin 8), s.Canonical → s.apexUp = true →
    let mine (q : Nat) : Prop := q < 512 ∧ q % 8 = cp.val ∧ s.fetchable q = true
    ((∀ q, ¬ mine q) → ignored s (.commandFetch cp)) ∧
    ∀ q, mine q → (∀ p, mine p → p ≠ q → s.qPrio p < s.qPrio q ∨ (s.qPrio p = s.qPrio q ∧ s.oldestDb q < s.oldestDb p)) →
      if s.jnlFree = true then
        completes s (.commandFetch cp) fun t => (t.qx q).fetch = some (s.reg (Reg.Q_HEAD q)) ∧ t.cq.cmds = s.cq.cmds ∧
          t.mem = s.mem ∧ t.reg (Reg.Q_HEAD q) = s.reg (Reg.Q_HEAD q)
      else completes s (.commandFetch cp) fun t => onlyRegs t s [Reg.JNL_HOLD_CNT] ∧
        t.reg Reg.JNL_HOLD_CNT = min 0xFFFFFFFF (s.reg Reg.JNL_HOLD_CNT + 1)) ∧
  (∀ (s s1 : State) (q : QId) (ws0 ws : List W32) (fail : W16) (pos : Nat), s.Canonical →
    let n := q.val
    let k := wordField ws 0 8 3
    let seq := s1.reg (Reg.Q_SEQ n)
    let w := (List.range (16 * (1 + k))).map fun i => ws.getD i 0
    ((s.qx n).fetch = none → ignored s (.ringReadComplete q ws0 fail)) ∧
    ((s.qx n).fetch = some pos → accepts s n → s.packet n pos ws0 fail.toNat = (s1, .words ws) →
      (s.qx n).retry = true ∨ 1 + k ≤ sub32 (s.reg (Reg.Q_TAIL n)) pos →
      ∃ (c : Cmd) (t1 : State),
        c.q = n ∧ c.seq = seq ∧ c.words = w ∧ c.pos = pos ∧ c.jpos = s1.reg Reg.JNL_POS ∧ c.phase = .accepted ∧
        c.bay = s1.qBayOf n ∧ t1.cq.cmds = s1.cq.cmds ++ [c] ∧ t1.reg (Reg.Q_SEQ n) = (seq + 1) % 2 ^ 32 ∧
        t1.reg Reg.JNL_POS = (s1.reg Reg.JNL_POS + 1) % 2 ^ 32 ∧ t1.jnl c.jpos =
          ⟨c.jpos, n, c.bay.getD 0, s1.qAdmin n, c.op, 1, seq, c.tag, 0, pos % s1.qSlots n, s1.now⟩ ∧
        (s1.reg (Reg.Q_HEAD n) = pos → t1.reg (Reg.Q_HEAD n) = (pos + 1 + k) % 2 ^ 32) ∧ t1.mem = s1.mem ∧
        exec (.ringReadComplete q ws0 fail) s = .next (match t1.acceptCheck n w with
          | some st => t1.complete c st 0 0 false
          | none => if t1.breakHit c then t1.enterBreak c else t1)))

/-- A row that acts on a started command of its opcode has no effect on any other: none of that name, one that has not started or has
ended, or one of another opcode (R179, R186).
COMMAND_START (R186, R198): the oldest unstarted command starts when its waits and FENCE hold and its journal entry says so;
any other stays where it is.
COMMAND_COMPLETE (R189 to R192, R198): a command whose work has ended, and without a remote signal, gets its final status into
the journal and, with a ring in host memory, one record at Q_CPL_TAIL; a status of a halting class halts a running queue. -/
def Obligations.CommandRuns : Prop :=
  (∀ (s : State) (r : CmdRef) (op : Nat) (i : Instr), commandRow r op i →
    (s.findCmd r.q.val r.seq.toNat = none → ignored s i) ∧
    (∀ c, s.findCmd r.q.val r.seq.toNat = some c → c.phase ≠ .started ∨ c.op ≠ op → ignored s i)) ∧
  (∀ (s : State) (r : CmdRef) (c : Cmd), s.Canonical → s.findCmd r.q.val r.seq.toNat = some c →
    (s.apexUp = true → startable s c → completes s (.commandStart r) fun t =>
      t.findCmd c.q c.seq = some { c with phase := .started, startAt := s.now } ∧ (t.jnl c.jpos).state = 2 ∧
      (t.jnl c.jpos).status = 0 ∧ t.mem = s.mem ∧ ∀ q k, ¬ (q = c.q ∧ k = c.seq) → t.findCmd q k = s.findCmd q k) ∧
    (s.apexUp = false ∨ ¬ startable s c → ignored s (.commandStart r))) ∧
  (∀ (s : State) (r : CmdRef) (c : Cmd) (st d0 d1 : Nat), s.Canonical → s.findCmd r.q.val r.seq.toNat = some c →
    let q := c.q
    let tail := s.reg (Reg.Q_CPL_TAIL q)
    let quiet := c.errOnly = true ∧ St.cls st = 0
    let n := s.qCpl q
    ((∀ x y z, c.phase ≠ .finished x y z) → ignored s (.commandComplete r)) ∧
    (c.phase = .finished st d0 d1 → s.apexUp = true → c.sigRemote = false →
      exec (.commandComplete r) s = .next (s.complete c st d0 d1 true)) ∧
    (c.phase = .finished st d0 d1 → s.apexUp = true → c.sigRemote = false → s.fld (Reg.Q_CFG q) 19 1 = 0 →
      (s.qx q).disabling = false → q < 512 → completes s (.commandComplete r) fun t =>
        (t.jnl c.jpos).state = 3 ∧ (t.jnl c.jpos).status = st ∧ t.mem = s.mem ∧
        t.qInflight q = s.qInflight q - 1 ∧ (quiet → t.reg (Reg.Q_CPL_TAIL q) = tail) ∧
        (¬ quiet → t.reg (Reg.Q_CPL_TAIL q) = (tail + 1) % 2 ^ 32) ∧
        (¬ quiet → s.linkUp (s.fld (Reg.Q_CFG q) 20 1) = true → s.ccActive = false →
          .hostWrite (s.fld (Reg.Q_CFG q) 20 1) (s.reg (Reg.Q_CPL_BASE q) + 32 * (tail % n))
            (wordsBytes [st + (if tail / n % 2 = 0 then 2 ^ 16 else 0) + 2 ^ 17 + (if c.errRec then 2 ^ 18 else 0), c.tag, c.seq,
              q + c.op * 2 ^ 16, s.now % 2 ^ 32, s.now / 2 ^ 32, d0, d1]) ∈ t.out) ∧
        (s.qState q = 1 → t.qState q = if halts st then 2 else 1) ∧
        (s.qState q = 1 → halts st = true → t.fld (Reg.Q_STATUS q) 16 16 = st % 2 ^ 16 ∧
          t.reg (Reg.Q_HALT_SEQ q) = c.seq % 2 ^ 64 ∧ t.reg (Reg.Q_HALT_SLOT q) = c.pos % 2 ^ 64) ∧
        t.findCmd q c.seq = if c.signals st ∧ c.bay ≠ none then some { c with phase := .signalling st } else none))

/-- DEP_TIMEOUT and DEP_SCAN (R187, R188): a wait that holds, or that never expires, does not expire; an expired one completes with
DEP_TIMEOUT; a scan completes a blocked command that lies on a cycle with DEP_CYCLE and does nothing without a cycle.
EVT_SIG (R182, R184): ADD and MAX on an event of a bay in BUILDING or RUNNING, saturating at 2^48 - 1 and lowering nothing; any
other write is counted and changes no event.
COMMAND_SIGNAL and LW_CFG_WRITE (R184, R360): a local signal adds to or raises its event and the command is gone; a remote one is
sent once; any other command is left alone; a landing window that overlaps another or leaves the scratchpad is not enabled. -/
def Obligations.DependenciesAndSignals : Prop :=
  (∀ (s : State) (r : CmdRef) (c : Cmd), s.Canonical → s.apexUp = true →
    let limit := if c.timeout = 0 then s.fld Reg.CMD_WAIT_DEFAULT 0 24 else c.timeout
    let waits := c.unstarted = true ∧ (s.oldest c.q).map (·.seq) = some c.seq ∧
      (∃ w ∈ c.waits, s.evt (c.bay.getD 0) w.1 < w.2) ∧ limit ≠ 0xFFFFFF
    (s.findCmd r.q.val r.seq.toNat = some c → waits → exec (.depTimeout r) s = .next (s.complete c St.DEP_TIMEOUT 0 0 true)) ∧
    (s.findCmd r.q.val r.seq.toNat = some c → ¬ waits → ignored s (.depTimeout r)) ∧
    (s.fld Reg.CMD_DEP_SCAN 0 16 = 0 ∨ (∀ b < 16, acyclic s b) → ignored s .depScan) ∧
    (s.fld Reg.CMD_DEP_SCAN 0 16 ≠ 0 → ∀ b < 16, ∀ q e, s.waitEdges b = [(q, e, q)] → s.oldest q = some c →
      (∀ b' < 16, b' ≠ b → acyclic s b') →
      let t := (s.raise (errNote 24 1 St.DEP_CYCLE 7 0 (some b) (some (q, c.seq, c.tag)) 0 [] false)).complete
        { c with errRec := true } St.DEP_CYCLE e q true
      (∀ b' < 16, b < b' → acyclic t b') → exec .depScan s = .next t)) ∧
  (∀ (s : State) (v : W64), s.Canonical → s.apexUp = true →
    let b := bitsAt v.toNat 10 4
    let e := bitsAt v.toNat 0 10
    let op := bitsAt v.toNat 14 2
    let x := bitsAt v.toNat 16 48
    (if (s.bayState b = 1 ∨ s.bayState b = 2) ∧ (op = 1 ∨ op = 2) then
       unscheduled s b → completes s (.evtSig v) fun t => onlyRegs t s [Reg.EVT b e] ∧ t.evtExt b e = s.evtExt b e ∧
         t.evt b e = min (2 ^ 48 - 1) (if op = 2 then max (s.evt b e) x else s.evt b e + x) ∧ s.evt b e ≤ t.evt b e
     else completes s (.evtSig v) fun t => onlyRegs t s [Reg.EVT_SIG_ERR_CNT] ∧
       t.reg Reg.EVT_SIG_ERR_CNT = min 0xFFFFFFFF (s.reg Reg.EVT_SIG_ERR_CNT + 1))) ∧
  (∀ (s : State) (r : CmdRef) (c : Cmd) (bay : BayId) (win : BitVec 5) (data : W32), s.Canonical →
    let b := bay.val
    let e := c.sigEvent
    let a := Reg.LW_CFG b win.toNat
    (s.findCmd r.q.val r.seq.toNat = none ∨ s.apexUp = false → ignored s (.commandSignal r)) ∧
    (s.findCmd r.q.val r.seq.toNat = some c →
      (c.phase = .accepted ∨ c.phase = .started → ignored s (.commandSignal r)) ∧
      (∀ st, s.apexUp = true → c.phase = .signalling st → c.bay = some b → unscheduled s b →
        completes s (.commandSignal r) fun t => t.findCmd c.q c.seq = none ∧ t.mem = s.mem ∧ t.engines = s.engines ∧
          t.evt b e = min evtTop (if c.sigOp = 2 then max (s.evt b e) c.sigValue else s.evt b e + c.sigValue) ∧
          (∀ k, k ≠ e → t.evt b k = s.evt b k) ∧ ∀ q n, ¬ (q = c.q ∧ n = c.seq) → t.findCmd q n = s.findCmd q n) ∧
      (∀ st d0 d1, s.apexUp = true → c.phase = .finished st d0 d1 →
        (c.sigRemote = false ∨ c.signals st = false ∨ c.sigSent = true → ignored s (.commandSignal r)) ∧
        (c.sigRemote = true → c.signals st = true → c.sigSent = false → c.bay = some b → reaches s b c.sigDev → noneDone s →
          completes s (.commandSignal r) fun t => t.findCmd c.q c.seq = some { c with sigSent := true } ∧ t.mem = s.mem ∧
            ∃ x ∈ t.fab.reqs, x.owner = .signal c.q c.seq ∧ x.kind = 2 ∧ x.dev = c.sigDev ∧ x.dbay = c.sigBay ∧ x.st = .sent ∧
              x.data = signalBytes c.sigEvent c.sigOp c.sigValue))) ∧
    (bitsAt data.toNat 0 1 = 1 → s.lwBad b win.toNat data.toNat = true → ignored s (.lwCfgWrite bay win data)) ∧
    (bitsAt data.toNat 0 1 = 0 ∨ s.lwBad b win.toNat data.toNat = false → completes s (.lwCfgWrite bay win data) fun t =>
      onlyRegs t s [a] ∧ t.reg a = data.toNat % 2 ^ 27))

/-- COPY and FILL begin (R181): a length of 0 ends at once with OK; a scratchpad end that is refused, unmapped, out of range or
not owned by its context ends the command; otherwise the chunks begin and nothing has moved.
COPY_CHUNK_DONE (R181, R195): a paused command moves nothing; a FILL into a scratchpad writes its pattern from byte 0 over one
chunk and no other byte, ends with OK after the last one, and stops at the boundary while its queue is being pre-empted. -/
def Obligations.CopyAndFill : Prop :=
  (∀ (s : State) (r : CmdRef) (c : Cmd),
    let refused (x : Side) : Prop := x.space = 2 ∧ (s.dieRefuses x.die ≠ none ∨ s.physOf x.die x.log = 0x3F ∨
      2 ^ 20 < x.addr + c.copyLen ∨
      ∃ k ∈ banksOf x.addr c.copyLen, bankOwned (s.owners x.die (s.physOf x.die x.log)) x.ctx k = false)
    (due s r 0x02 c → c.copyLen = 0 → completes s (.copy r) fun t => onlyEnds t s c St.OK 0 0) ∧
    (due s r 0x03 c → c.copyLen = 0 → completes s (.fill r) fun t => onlyEnds t s c St.OK 0 0) ∧
    (due s r 0x02 c → c.copyLen ≠ 0 → ¬ refused c.src → ¬ refused c.dst → completes s (.copy r) fun t => onlyBegins t s c) ∧
    (due s r 0x03 c → c.copyLen ≠ 0 → ¬ refused c.dst → completes s (.fill r) fun t => onlyBegins t s c) ∧
    (due s r 0x02 c → c.copyLen ≠ 0 → refused c.src ∨ refused c.dst → completes s (.copy r) fun t =>
      ∃ st d0 d1, st ≠ 0 ∧ onlyEnds t s c st d0 d1) ∧
    (due s r 0x03 c → c.copyLen ≠ 0 → refused c.dst → completes s (.fill r) fun t =>
      ∃ st d0 d1, st ≠ 0 ∧ onlyEnds t s c st d0 d1)) ∧
  (∀ (s : State) (r : CmdRef) (c : Cmd) (ecc : Ecc) (ms md : Medium), s.Canonical →
    let x := c.dst
    let p := s.physOf x.die x.log
    let n := min 65536 (c.copyLen - c.done)
    (begun s r 0x02 c ∨ begun s r 0x03 c → c.paused = true → ignored s (.copyChunkDone r ecc ms md)) ∧
    (begun s r 0x03 c → c.paused = false → x.space = 2 → s.dieRefuses x.die = none → p ≠ 0x3F → s.mgmt.restarting = false →
      completes s (.copyChunkDone r ecc ms md) fun t =>
        (∀ a, mget zeroByte (t.eng x.die p).spad a = if x.addr + c.done ≤ a ∧ a < x.addr + c.done + n then
          BitVec.ofNat 8 (c.p 7 0 32 / 2 ^ (8 * ((a - x.addr) % 4))) else mget zeroByte (s.eng x.die p).spad a) ∧
        (t.eng x.die p).acc = (s.eng x.die p).acc ∧ (t.eng x.die p).vreg = (s.eng x.die p).vreg ∧
        (∀ d' p', engKey d' p' ≠ engKey x.die p → t.eng d' p' = s.eng d' p') ∧ t.mem.hbm = s.mem.hbm ∧
        t.lofts = s.lofts ∧
        (if c.copyLen ≤ c.done + n then ended t c St.OK 0 0
         else t.findCmd c.q c.seq = some { c with done := c.done + n, paused := decide (s.qState c.q = 3) })))

/-- NOP, JOURNAL_MARK and FENCE (R186, Table 06-3): they end with OK and change nothing else; a FENCE waits for every earlier
command of its queue.
EVT_INIT (R183) and ENG_FLAG (R185): an event that an accepted command waits on stops EVT_INIT; otherwise the COUNT events take
VALUE and EXT and no other register changes; ENG_FLAG sets or clears one flag of each mapped engine of the mask. -/
def Obligations.PlainCommands : Prop :=
  (∀ (s : State) (r : CmdRef) (c : Cmd),
    (due s r 0x00 c → completes s (.nop r) fun t => onlyEnds t s c St.OK 0 0) ∧
    (due s r 0x07 c → completes s (.journalMark r) fun t => onlyEnds t s c St.OK 0 0) ∧
    (due s r 0x04 c → (∃ x ∈ (s.qCmds c.q).takeWhile (fun x : Cmd => decide (x.seq ≠ c.seq)), x.live = true) →
      ignored s (.fence r)) ∧
    (due s r 0x04 c → (∀ x ∈ (s.qCmds c.q).takeWhile (fun x : Cmd => decide (x.seq ≠ c.seq)), x.live = false) →
      completes s (.fence r) fun t => onlyEnds t s c St.OK 0 0)) ∧
  (∀ (s : State) (r : CmdRef) (c : Cmd), s.Canonical →
    let b := c.bay.getD 0
    let first := c.p 0 0 10
    let n := c.p 0 10 11
    let v := c.p 1 0 32 + c.p 2 0 16 * 2 ^ 32
    let d := c.p 0 0 5
    let f := c.p 0 5 8
    let mask := c.p 1 0 32 + c.p 2 0 16 * 2 ^ 32
    (due s r 0x05 c →
      if ∃ x ∈ s.cq.cmds, x.unstarted = true ∧ x.bay = c.bay ∧ ∃ w ∈ x.waits, first ≤ w.1 ∧ w.1 < first + n then
        completes s (.evtInit r) fun t => onlyEnds t s c St.EVENT_BUSY 0 0
      else completes s (.evtInit r) fun t => ended t c St.OK 0 0 ∧ t.mem = s.mem ∧ t.engines = s.engines ∧
        (∀ i < n, t.reg (Reg.EVT b (first + i)) = v + c.p 0 21 1 * 2 ^ 48) ∧
        regsBut t s ((List.range n).map fun i => Reg.EVT b (first + i))) ∧
    (due s r 0x06 c → ∀ st, s.dieRefuses d = some st → completes s (.engFlag r) fun t =>
      onlyEnds t s c st (s.dieDetail d) 0) ∧
    (due s r 0x06 c → s.dieRefuses d = none → completes s (.engFlag r) fun t => ended t c St.OK 0 0 ∧ t.regs = s.regs ∧
      t.mem = s.mem ∧ (∀ p < 52, t.eng d p = { s.eng d p with evFlags := (t.eng d p).evFlags }) ∧
      ∀ p < 52, ∀ k < 256,
        let named := k = f ∧ ∃ l < 48, bitsAt mask l 1 = 1 ∧ s.physOf d l = p
        (named → (t.eng d p).evFlags.getLsbD k = decide (c.p 0 13 1 = 0)) ∧
        (¬ named → (t.eng d p).evFlags.getLsbD k = (s.eng d p).evFlags.getLsbD k)))

/-- TILE_LAUNCH (R66, R78, R180): a die that refuses or an engine that is mapped out ends it; an admitted launch enters the issue
queue of every engine of the mask, with its ordinal in S15 where the command asks for it, and no store changes.
Admission of a launch's queue slots, and ADMISSION_GRANT and ADMIT_TIMEOUT (R216 to R218): a request beyond the share is
refused with QUOTA, one for a class of share 0 with POLICY; a grant comes only when nothing is ahead and the units are there;
an expired request ends with CAPACITY and leaves its list; a grant after expiry is only counted. -/
def Obligations.LaunchesAndAdmission : Prop :=
  (∀ (s : State) (r : CmdRef) (c : Cmd), s.Canonical → due s r 0x01 c →
    let d := launchDie c
    (∀ st, s.dieRefuses d = some st → completes s (.tileLaunch r) fun t => onlyEnds t s c st (s.dieDetail d) 0) ∧
    (s.dieRefuses d = none → ∀ l, s.launchHole c = some l → completes s (.tileLaunch r) fun t =>
      onlyEnds t s c St.ENGINE_FAILED (s.dieDetail d) l) ∧
    (s.dieRefuses d = none → s.launchHole c = none → c.adm = .granted →
      (∀ l ∈ launchEngines c, ∀ m ∈ launchEngines c, s.physOf d l = s.physOf d m → l = m) →
      completes s (.tileLaunch r) fun t => t.mem = s.mem ∧ t.lofts = s.lofts ∧
        (∃ x, t.findCmd c.q c.seq = some x ∧ x.ran = true ∧ x.phase = .started ∧ x.parts.map (·.log) = launchEngines c) ∧
        ∀ l ∈ launchEngines c, ∃ y : Launch, (t.eng d (s.physOf d l)) = { s.eng d (s.physOf d l) with
            iq := (s.eng d (s.physOf d l)).iq ++ [y] } ∧
          y.q = c.q ∧ y.seq = c.seq ∧ y.bay = c.bay.getD 0 ∧ y.handle = c.words.getD 32 0 ∧
          (∀ i < 15, y.params.getD i 0 = c.words.getD (16 + i) 0) ∧
          y.params.getD 15 0 = (if c.p 19 9 1 = 1 then BitVec.ofNat 32 (maskCount l (launchMask c)) else c.words.getD 31 0))) ∧
  (∀ (s : State) (r : CmdRef) (c : Cmd) (a : AdmReq), s.Canonical → s.findCmd r.q.val r.seq.toNat = some c →
    let b := c.bay.getD 0
    let n := (launchEngines c).length
    (due s r 0x01 c → s.dieRefuses (launchDie c) = none → s.launchHole c = none → c.adm = .none → n ≠ 0 → s.share b 2 < n →
      completes s (.tileLaunch r) fun t => t.engines = s.engines ∧ t.mem = s.mem ∧
        ended t c (if s.share b 2 = 0 then St.POLICY else St.QUOTA) (unitsOf8 2 n)
          (if s.share b 2 = 0 then 0 else s.available b 2 c) ∧
        t.reg (Reg.ADMIT_REFUSE_CNT b 2) = min 0xFFFFFFFF (s.reg (Reg.ADMIT_REFUSE_CNT b 2) + 1)) ∧
    (s.findAdm r.q.val r.seq.toNat = some a → ¬ (∀ k ∈ a.needs, s.ahead a k.1 = 0 ∧ k.2 ≤ s.available a.bay k.1 c) →
      ignored s (.admissionGrant r)) ∧
    (s.findAdm r.q.val r.seq.toNat = some a → (∀ k ∈ a.needs, s.ahead a k.1 = 0 ∧ k.2 ≤ s.available a.bay k.1 c) →
      completes s (.admissionGrant r) fun t => t.findAdm a.q a.seq = none ∧
        ∃ x, t.findCmd c.q c.seq = some x ∧ x.adm = .granted ∧ x.phase = c.phase ∧ x.words = c.words) ∧
    (s.findAdm r.q.val r.seq.toNat = none → c.adm = .expired → b < 16 → completes s (.admissionGrant r) fun t =>
      t.reg (Reg.BAY_ADMIT_LATE_CNT b) = min 0xFFFFFFFF (s.reg (Reg.BAY_ADMIT_LATE_CNT b) + 1) ∧ t.engines = s.engines ∧
        t.mem = s.mem) ∧
    (s.findAdm r.q.val r.seq.toNat = none → ignored s (.admitTimeout r)) ∧
    (s.findAdm r.q.val r.seq.toNat = some a →
      if s.reg (Reg.ADMIT_TIMEOUT a.bay) = 0xFFFFFF then ignored s (.admitTimeout r)
      else completes s (.admitTimeout r) fun t => t.findAdm a.q a.seq = none ∧ t.engines = s.engines ∧ t.mem = s.mem ∧
        ∃ x d0 d1, t.findCmd c.q c.seq = some x ∧ x.phase = .finished St.CAPACITY d0 d1))

/-! ### Bays -/

/-- BAY_CREATE (R204, R205, R210): in any state but FREE it ends with POLICY; a request that fails assigns nothing; otherwise the bay
is BUILDING and holds the dies, groups, shares, cap and time-out of the command.
BAY_ROLES (R211, R213, R214): an engine or queue that another group, bay or die holds is refused; DELETE empties the group;
otherwise the group has exactly the engines and queues named, at once, and the command ends when the moved engines have
drained. -/
def Obligations.BayMaking : Prop :=
  (∀ (s : State) (r : CmdRef) (c : Cmd), s.Canonical → due s r 0x40 c →
    let b := bayOf c
    let gs := s.pickGroups c
    let ds := s.pickDies c gs
    (c.p 0 5 1 = 0 → ds = maskList 20 (c.p 1 0 20)) ∧ (c.p 0 6 1 = 0 → gs = maskList 32 (c.p 2 0 32)) ∧
    (s.bayState b ≠ 0 → completes s (.bayCreate r) fun t => onlyEnds t s c St.POLICY 7 0) ∧
    (s.bayState b = 0 → s.fld Reg.GR_STATUS 3 1 = 0 → ∀ st res n avail, s.createFails c gs ds = some (st, res, n, avail) →
      completes s (.bayCreate r) fun t => onlyEnds t s c st (unitsOf8 res n) avail) ∧
    (s.createFails c gs ds = none → (∀ d ∈ ds, s.bayOfDie d = none) ∧ (∀ g ∈ gs, s.bayOfGroup g = none) ∧
      (∀ d ∈ ds, s.fld Reg.DEV_QUARANTINE d 1 = 0) ∧ c.p 4 0 16 ≤ s.fld Reg.DEV_BAY_POWER_BUDGET 0 16) ∧
    (s.bayState b = 0 → s.fld Reg.GR_STATUS 3 1 = 0 → s.createFails c gs ds = none →
      completes s (.bayCreate r) fun t => ended t c St.OK 0 0 ∧ t.bayState b = 1 ∧ t.fld (Reg.BAY_STATE b) 3 1 = c.p 0 4 1 ∧
        t.reg (Reg.BAY_DIES b) = maskOf ds ∧ t.reg (Reg.BAY_GROUPS b) = maskOf gs ∧
        t.fld (Reg.BAY_POWER b) 0 16 = c.p 4 0 16 ∧ t.share b 0 = c.p 5 0 24 ∧ t.share b 2 = ds.length * 3072 ∧
        t.share b 3 = c.p 6 0 7 ∧ t.reg (Reg.ADMIT_TIMEOUT b) = c.p 7 0 24 ∧ t.engines = s.engines ∧ t.mem.hbm = s.mem.hbm ∧
        ∀ b' < 16, b' ≠ b → t.bayState b' = s.bayState b' ∧ t.reg (Reg.BAY_DIES b') = s.reg (Reg.BAY_DIES b'))) ∧
  (∀ (s : State) (r : CmdRef) (c : Cmd), s.Canonical →
    let b := bayOf c
    let g := c.p 0 4 3
    let alive := s.bayState b = 1 ∨ s.bayState b = 2
    (due s r 0x42 c → ¬ alive → completes s (.bayRoles r) fun t => onlyEnds t s c St.POLICY 7 0) ∧
    (due s r 0x42 c → alive → c.p 0 8 1 = 1 → completes s (.bayRoles r) fun t => ended t c St.OK 0 0 ∧
      t.reg (Reg.ROLE_KIND b g) = 0 ∧ t.mem = s.mem ∧ t.engines = s.engines ∧
      ∀ d < 20, ∀ l < 48, bitsAt (s.reg (Reg.BAY_DIES b)) d 1 = 1 →
        t.engRole b d l = if s.engRole b d l = g then 15 else s.engRole b d l) ∧
    (due s r 0x42 c → alive → c.p 0 8 1 = 0 → s.rolesBad c b g = true → completes s (.bayRoles r) fun t =>
      onlyEnds t s c St.ILLEGAL_FIELD 0 0) ∧
    (due s r 0x42 c → alive → c.p 0 8 1 = 0 → s.rolesBad c b g = false → completes s (.bayRoles r) fun t =>
      t.reg (Reg.ROLE_KIND b g) = 1 + c.p 0 7 1 * 2 ∧ (∀ e ∈ roleEngines c, t.engRole b e.1 e.2 = g) ∧
      (∀ q ∈ roleQueues c, t.queueRole q = g) ∧ t.mem = s.mem ∧ t.engines = s.engines ∧
      (∀ d < 20, ∀ l < 48, bitsAt (s.reg (Reg.BAY_DIES b)) d 1 = 1 → (d, l) ∉ roleEngines c →
        t.engRole b d l = if s.engRole b d l = g then 15 else s.engRole b d l) ∧
      (if t.rolesPending c b g = true then t.findCmd c.q c.seq = some { c with ran := true } else ended t c St.OK 0 0)) ∧
    (begun s r 0x42 c → s.mgmt.restarting = false →
      if s.rolesPending c b g = true then ignored s (.bayRoles r)
      else completes s (.bayRoles r) fun t => onlyEnds t s c St.OK 0 0))

/-- BAY_TEARDOWN and its wait (R204, R208): from BUILDING or RUNNING the bay is in TEARDOWN with CAUSE 1 and every running program
of its dies is gone; on a bay that is past it, it ends with OK; the wait ends when nothing is outstanding or 10 us have
passed, and then the bay is TORN, its queues are DISABLED, and a waiting BAY_TEARDOWN ends with OK.
BAY_SCRUB and HBM_ERASE_DONE (R204, R209, R418): only a TORN bay is scrubbed; each of its dies that is up and quiet starts its
clear; once the erase ends, every byte of the bay's channel groups reads 0 and every other byte is unchanged; with no clear
left the bay is FREE, its registers and events are at reset, and the command ends with OK. -/
def Obligations.BayEnding : Prop :=
  (∀ (s : State) (r : CmdRef) (c : Cmd) (bay : BayId), s.Canonical → s.mgmt.restarting = false →
    let b := bayOf c
    (due s r 0x43 c → s.bayState b = 0 → completes s (.bayTeardown r) fun t => onlyEnds t s c St.POLICY 7 0) ∧
    (due s r 0x43 c → s.bayState b = 3 → completes s (.bayTeardown r) fun t => onlyBegins t s c) ∧
    (due s r 0x43 c → s.bayState b = 4 ∨ s.bayState b = 5 → completes s (.bayTeardown r) fun t => onlyEnds t s c St.OK 0 0) ∧
    (due s r 0x43 c → s.bayState b = 1 ∨ s.bayState b = 2 → s.cq.cmds = [c] → c.bay = none → s.qAdmin c.q = true →
      completes s (.bayTeardown r) fun t => t.bayState b = 3 ∧ t.fld (Reg.BAY_STATE b) 4 2 = 1 ∧ (t.bayX b).tdAt = s.now ∧
        t.findCmd c.q c.seq = some { c with ran := true } ∧ t.mem = s.mem ∧
        ∀ d < 20, ∀ p < 52, if bitsAt (s.reg (Reg.BAY_DIES b)) d 1 = 1 then
          (t.eng d p).run = none ∧ ((s.eng d p).run = none → t.eng d p = s.eng d p) else t.eng d p = s.eng d p) ∧
    (let x := bay.val
     (s.bayState x ≠ 3 ∨ (s.outstanding x = true ∧ s.now < (s.bayX x).tdAt + 10000) → ignored s (.teardownWaitExpiry bay)) ∧
     (s.bayState x = 3 → s.outstanding x = false ∨ (s.bayX x).tdAt + 10000 ≤ s.now → distinct s →
       completes s (.teardownWaitExpiry bay) fun t => t.bayState x = 4 ∧ (∀ q ∈ s.bayQueues x, t.qState q = 0) ∧
         ∀ y ∈ s.cq.cmds, y.phase = .started → y.ran = true → y.bay = none → y.op = 0x43 → bayOf y = x → ended t y St.OK 0 0))) ∧
  (∀ (s : State) (r : CmdRef) (c : Cmd) (bay : BayId), s.Canonical → distinct s → s.mgmt.restarting = false →
    let b := bayOf c
    let x := bay.val
    let own (a : Nat) : Prop := bitsAt (s.reg (Reg.BAY_GROUPS x)) (groupOf (a / 65536)) 1 = 1 ∧ groupOf (a / 65536) < 32
    (due s r 0x44 c → s.bayState b ≠ 4 → completes s (.bayScrub r) fun t => onlyEnds t s c St.POLICY 7 0) ∧
    (due s r 0x44 c → s.bayState b = 4 → completes s (.bayScrub r) fun t => t.bayState b = 5 ∧ (t.bayX b).erasing = true ∧
      t.findCmd c.q c.seq = some { c with ran := true } ∧ t.mem = s.mem ∧ t.engines = s.engines ∧
      ∀ d < 20, bitsAt (s.reg (Reg.BAY_DIES b)) d 1 = 1 → s.dieState d = 2 → s.fld (Reg.CLR_STATUS d) 0 2 ≠ 1 →
        s.dieQuiet d = true → t.reg (Reg.CLR_STATUS d) = 1) ∧
    (s.bayState x ≠ 5 ∨ (s.bayX x).erasing = false → ignored s (.hbmEraseDone bay)) ∧
    (s.bayState x = 5 → (s.bayX x).erasing = true → completes s (.hbmEraseDone bay) fun t =>
      (∀ a, own a → mget (fun _ => (0 : Byte)) t.mem.hbm a = 0) ∧
      (∀ a, ¬ own a → mget (fun _ => (0 : Byte)) t.mem.hbm a = mget (fun _ => (0 : Byte)) s.mem.hbm a) ∧
      (∀ o ∈ t.mem.objs, o.bay ≠ x) ∧ t.engines = s.engines ∧
      (if (s.bayX x).clearing = 0 then t.bayState x = 0 ∧ (∀ e < 1024, t.evt x e = 0 ∧ t.evtExt x e = true) ∧
         t.reg (Reg.BAY_DIES x) = 0 ∧ t.reg (Reg.BAY_GROUPS x) = 0 ∧
         ((s.bayX x).failed = 0 → ∀ y ∈ s.cq.cmds, y.phase = .started → y.ran = true → y.bay = none → y.op = 0x44 →
           bayOf y = x → ended t y St.OK 0 0)
       else t.bayState x = 5 ∧ (t.bayX x).erasing = false)))

/-- Phase timers (R224, R225): BEGIN arms with the start's KTIME and clears OVERRUN, END disarms, a late END counts and keeps the
first late KTIME, CANCEL disarms without a record, and an expired budget sets OVERRUN.
POWER_CONTROL_TICK (R222): above the cap every die of the bay steps down by 50 MHz, to CLK_MIN at the lowest, and the period
is counted; below 95 % of it they step up, to CLK_MAX at the highest; no register of another bay's dies changes. -/
def Obligations.PhasesAndPower : Prop :=
  (∀ (s : State) (r : CmdRef) (c : Cmd) (bay : BayId) (tm : BitVec 6), s.Canonical →
    let b := c.bay.getD 0
    let k := c.p 0 0 6
    let x := s.phase b k
    let y := s.phase bay.val tm.toNat
    let act := c.p 0 6 2
    (due s r 0x48 c → b < 16 → (act = 0 → completes s (.phaseBegin r) fun t =>
        t.phase b k = ⟨true, c.q, c.p 1 0 32, c.startAt, c.p 2 0 32, decide (c.p 0 8 1 = 1), c.p 0 9 10, false⟩ ∧
        t.fld (Reg.PH_STATE b k) 0 2 = 1 ∧ t.fld (Reg.PH_STATE b k) 2 16 = s.fld (Reg.PH_STATE b k) 2 16 ∧
        t.reg (Reg.PH_LATE_KTIME b k) = 0 ∧ ended t c (if x.armed then St.PHASE_RESTARTED else St.OK) 0 0 ∧
        t.engines = s.engines) ∧
      (act = 1 → x.armed = true → completes s (.phaseEnd r) fun t => (t.phase b k).armed = false ∧
        t.fld (Reg.PH_STATE b k) 0 2 = 0 ∧ ended t c St.OK 0 0 ∧ t.engines = s.engines) ∧
      (act = 1 → x.armed = false → s.fld (Reg.PH_STATE b k) 1 1 = 1 → completes s (.phaseEnd r) fun t =>
        t.fld (Reg.PH_STATE b k) 2 16 = min 0xFFFF (s.fld (Reg.PH_STATE b k) 2 16 + 1) ∧ (t.phase b k).late = true ∧
        t.reg (Reg.PH_LATE_KTIME b k) = (if x.late then s.reg (Reg.PH_LATE_KTIME b k) else c.startAt % 2 ^ 64) ∧
        ended t c St.PHASE_LATE 0 0 ∧ t.mem = s.mem) ∧
      (act = 1 → x.armed = false → s.fld (Reg.PH_STATE b k) 1 1 = 0 → completes s (.phaseEnd r) fun t =>
        onlyEnds t s c St.PHASE_NOT_RUNNING 0 0) ∧
      (act = 2 → completes s (.phaseCancel r) fun t => (t.phase b k).armed = false ∧
        t.fld (Reg.PH_STATE b k) 0 1 = 0 ∧ regsBut t s [Reg.PH_STATE b k] ∧ t.mem = s.mem ∧ ended t c St.OK 0 0) ∧
      (act ≠ 0 → ignored s (.phaseBegin r)) ∧ (act ≠ 1 → ignored s (.phaseEnd r)) ∧ (act ≠ 2 → ignored s (.phaseCancel r))) ∧
    (if y.armed = true ∧ y.budget ≠ 0 ∧ y.start + y.budget ≤ s.now then
       completes s (.phaseBudgetExpiry bay tm) fun t => (t.phase bay.val tm.toNat).armed = false ∧
         t.fld (Reg.PH_STATE bay.val tm.toNat) 0 2 = 2 ∧ t.engines = s.engines ∧
         (y.ovrSig = true → unscheduled s bay.val → ¬ (4 ≤ s.fld (Reg.PH_RING_CFG bay.val) 0 4 ∧
             s.fld (Reg.PH_RING_CFG bay.val) 0 4 ≤ 12) →
           t.evt bay.val y.ovrEvent = min (2 ^ 48 - 1) (s.evt bay.val y.ovrEvent + 1))
     else ignored s (.phaseBudgetExpiry bay tm))) ∧
  (∀ (s : State) (bay : BayId) (w : Nat), s.Canonical → s.fld Reg.THERM_STATUS 13 1 = 0 →
    let b := bay.val
    let cap := s.fld (Reg.BAY_POWER b) 0 16
    let cur := s.fld (Reg.BAY_CLK b) 10 5
    let dies := maskList 20 (s.reg (Reg.BAY_DIES b))
    let runs (t : State) (k n : Nat) : Prop := t.fld (Reg.BAY_CLK b) 10 5 = k ∧
      (k ≤ 18 → ∀ d ∈ dies, t.fld (Reg.CLK_STATUS d) 0 12 = 1200 + 50 * k) ∧
      t.reg (Reg.BAY_THROTTLE_CNT b) =
        if n = 0 then s.reg (Reg.BAY_THROTTLE_CNT b) else min 0xFFFFFFFF (s.reg (Reg.BAY_THROTTLE_CNT b) + n)
    (s.bayState b = 0 → ignored s (.powerControlTick bay w)) ∧
    (s.bayState b ≠ 0 → completes s (.powerControlTick bay w) fun t =>
      t = { s with regs := t.regs } ∧ t.fld (Reg.BAY_POWER b) 16 16 = min 0xFFFF w ∧
      regsBut t s ([Reg.BAY_POWER b, Reg.BAY_CLK b, Reg.BAY_THROTTLE_CNT b] ++ dies.map fun d => Reg.CLK_STATUS d) ∧
      (if cap < w ∧ s.fld (Reg.BAY_CLK b) 0 5 < cur then runs t (cur - 1) 1
       else if w * 100 < cap * 95 ∧ cur < s.fld (Reg.BAY_CLK b) 5 5 then runs t (cur + 1) 0
       else t.reg (Reg.BAY_CLK b) = s.reg (Reg.BAY_CLK b) ∧ ∀ d < 20, t.reg (Reg.CLK_STATUS d) = s.reg (Reg.CLK_STATUS d))))

/-! ### Memory tiers and the key-value cache -/

/-- MEM_MAP (R237 to R239): an overlap, a group of another bay and a PLAIN object of a SEALED bay are refused with nothing mapped;
a T3 object is only recorded; slab i of a T2 object takes a free slab of the (i mod k)-th group and is marked ZERO.
MEM_UNMAP (R240, R291): a base that is no object's, and an object that a generator model or a mirror holds, are refused; an
object without copies and without accesses in flight is gone with its translations, and its slabs are free. -/
def Obligations.MappedMemory : Prop :=
  (∀ (s : State) (r : CmdRef) (c : Cmd), s.Canonical → due s r 0x10 c → c.bay.getD 0 < 16 →
    let o := mapObj c
    let mine := (s.mem.objs.filter fun x => decide (x.bay = o.bay)).length
    let ok := ¬ collides s o ∧ mine < 65536 ∧ ¬ foreignGroup s o.bay o.groups ∧ (o.plain = true → s.bayOpen o.bay = true)
    (collides s o ∨ 65536 ≤ mine → completes s (.memMap r) fun t => onlyEnds t s c St.ILLEGAL_FIELD 0 0) ∧
    (¬ collides s o → mine < 65536 → foreignGroup s o.bay o.groups → completes s (.memMap r) fun t =>
      onlyEnds t s c St.PRIVILEGE 0 0) ∧
    (¬ collides s o → mine < 65536 → ¬ foreignGroup s o.bay o.groups → o.plain = true → s.bayOpen o.bay = false →
      completes s (.memMap r) fun t => onlyEnds t s c St.POLICY (unitsOf8 1 o.n) 0) ∧
    (ok → o.home = 1 → c.adm = .granted → completes s (.memMap r) fun t => ended t c St.OK 0 0 ∧
      t = { s with mem := { s.mem with objs := t.mem.objs }, cq := t.cq } ∧ o ∈ t.mem.objs ∧ ∀ x ∈ s.mem.objs, x ∈ t.mem.objs) ∧
    (ok → o.home = 0 → c.adm = .granted → o.base + o.n ≤ 2 ^ 41 → ∀ u, s.placeAll o o.n 0 = some u →
      completes s (.memMap r) fun t => ended t c St.OK 0 0 ∧ t.regs = s.regs ∧ t.mem.hbm = s.mem.hbm ∧ o ∈ t.mem.objs ∧
        ∀ i < o.n, ∃ loc, (t.slab o.bay (o.base + i)).home = some loc ∧ (t.slab o.bay (o.base + i)).zero = true ∧
          (s.groupList o.bay o.groups)[i % (s.groupList o.bay o.groups).length]? = some (groupOf loc) ∧
          mget useDefault s.mem.use loc = 0 ∧ mget useDefault t.mem.use loc = o.bay + 1)) ∧
  (∀ (s : State) (r : CmdRef) (c : Cmd) (o : Obj), s.Canonical → c.bay.getD 0 < 16 →
    (due s r 0x11 c → objectAt s c = none → completes s (.memUnmap r) fun t => onlyEnds t s c St.ILLEGAL_FIELD 0 0) ∧
    (due s r 0x11 c → objectAt s c = some o → o.owner ≠ .user → completes s (.memUnmap r) fun t =>
      onlyEnds t s c (if o.isArea then St.READ_ONLY else St.ILLEGAL_FIELD) 0 0) ∧
    (due s r 0x11 c → objectAt s c = some o → o.owner = .user → o.migr ≠ 1 → s.objCopies o = [] → s.objBusy o = false →
      o.base + o.n ≤ 2 ^ 41 → completes s (.memUnmap r) fun t => ended t c St.OK 0 0 ∧ objectAt t c = none ∧
        t.mem.hbm = s.mem.hbm ∧ t.engines = s.engines ∧
        ∀ i < o.n, t.slab o.bay (o.base + i) = Slab.none ∧
          ∀ loc, (s.slab o.bay (o.base + i)).home = some loc → mget useDefault t.mem.use loc = 0) ∧
    (begun s r 0x11 c → s.mgmt.restarting = false → objectAt s c = none → completes s (.memUnmap r) fun t =>
      onlyEnds t s c St.OK 0 0))

/-- MIGRATE and MIGRATE_SLAB_DONE (R249, Table 08-7): a base that is no object's is refused; an admitted MIGRATE of a T2 object makes
it MIGRATING and its first slab COPYING; a verified copy flips the slab with its bytes at the new place; one that meets an
uncorrectable error leaves the slab where it was and ends the command.
PREFETCH_SCHED and PREFETCH_FETCH (R248): a queue of priority below 6 is refused; DELETE removes the schedule; an admitted one is
recorded with its reservation; steps of the window that name unmapped slabs are counted and skipped; a slab of the window
without a copy is fetched into a free slab. -/
def Obligations.MigrationAndPrefetch : Prop :=
  (∀ (s : State) (r : CmdRef) (c : Cmd) (o : Obj) (h : NewHome) (n loc : Nat) (m : Medium) (fail : Bool), s.Canonical →
    c.bay.getD 0 < 16 → s.mgmt.restarting = false →
    let b := c.bay.getD 0
    (due s r 0x12 c → objectAt s c = none → completes s (.migrate r) fun t => onlyEnds t s c St.ILLEGAL_FIELD 0 0) ∧
    (due s r 0x12 c → objectAt s c = some o → o.owner = .user → o.migr = 0 → migrateHome c = h → h.home = 0 → c.adm = .granted →
      ¬ foreignGroup s b h.groups → (s.unflipped o).head? = some n → (s.slab b n).home = some loc → (s.slab b n).copy = none →
      s.qState c.q ≠ 3 → completes s (.migrate r) fun t =>
        t.findCmd c.q c.seq = some { c with ran := true } ∧ t.mem.hbm = s.mem.hbm ∧
        { o with migr := 1, alt := some h } ∈ t.mem.objs ∧ (t.slab b n).moving = true ∧ (t.slab b n).home = some loc) ∧
    (begun s r 0x12 c → s.migrating c = none → ignored s (.migrateSlabDone r m fail)) ∧
    (begun s r 0x12 c → s.migrating c = some o → o.alt = some h → (s.unflipped o).head? = some n →
      (s.slab b n).moving = false → ignored s (.migrateSlabDone r m fail)) ∧
    (begun s r 0x12 c → s.migrating c = some o → o.alt = some h → h.home = 0 → (s.unflipped o).head? = some n →
      (s.slab b n).moving = true → (s.slab b n).home = some loc → (s.slab b n).zero = false → (s.slab b n).copy = none →
      s.hbmRefuses (groupOf loc) = none → (∀ i < 512, poisoned s (loc * 512 + i) = false) →
      mget useDefault s.mem.use loc ≠ 0 → ∀ dst, s.placeSlab b h.groups (n - o.base) = some dst →
      completes s (.migrateSlabDone r .good fail) fun t => (t.slab b n).home = some dst ∧ (t.slab b n).moving = false ∧
        (∀ i < 65536, hbmByte t (dst * 65536 + i) = hbmByte s (loc * 65536 + i)) ∧
        (∀ a, a / 65536 ≠ dst → hbmByte t a = hbmByte s a) ∧ mget useDefault t.mem.use dst = b + 1 ∧
        mget useDefault t.mem.use loc = 0 ∧
        (s.unflipped o = [n] → ended t c St.OK 0 0 ∧ t.migrating c = none)) ∧
    (begun s r 0x12 c → s.migrating c = some o → o.alt = some h → (s.unflipped o).head? = some n → (s.slab b n).moving = true →
      (s.slab b n).home = some loc → (s.slab b n).zero = false → s.hbmRefuses (groupOf loc) = none →
      completes s (.migrateSlabDone r .uncorrectable fail) fun t => (t.slab b n).home = some loc ∧ (t.slab b n).moving = false ∧
        t.migrating c = none ∧ t.mem.hbm = s.mem.hbm ∧
        ∃ x d0 d1, t.findCmd c.q c.seq = some x ∧ x.phase = .finished St.ECC_UNCORRECTABLE d0 d1)) ∧
  (∀ (s u : State) (r : CmdRef) (c : Cmd) (bay : BayId) (k : BitVec 4) (bs : List PByte), s.Canonical →
    let b := c.bay.getD 0
    let n := c.p 1 0 11
    let loop := decide (c.p 0 5 1 = 1)
    let steps := parseSteps n bs
    let need := u.reserveOf b loop (c.p 0 16 7) steps
    (due s r 0x13 c → s.qPrio c.q < 6 → completes s (.prefetchSched r) fun t => onlyEnds t s c St.POLICY 1 0) ∧
    (due s r 0x13 c → 6 ≤ s.qPrio c.q → c.p 0 4 1 = 1 → completes s (.prefetchSched r) fun t => ended t c St.OK 0 0 ∧
      t.sched b (c.p 0 0 4) = none ∧ t.mem.hbm = s.mem.hbm) ∧
    (due s r 0x13 c → 6 ≤ s.qPrio c.q → c.p 0 4 1 = 0 → c.adm = .granted →
      s.vaRead (.cmd c.q c.seq) b (c.p64 2) (16 * n) = (u, bs, .ok) → (∀ p ∈ steps, p.1 % 65536 = 0 ∧ p.2 ≠ 0) →
      completes s (.prefetchSched r) fun t => ended t c St.OK 0 0 ∧ t.mem.hbm = u.mem.hbm ∧ t.sched b (c.p 0 0 4) =
        some ⟨loop, c.p 0 6 10, c.p 0 16 7, c.p 4 0 32 + c.p 5 0 16 * 2 ^ 32, steps, need, []⟩) ∧
    (s.sched bay.val k.toNat = none → ignored s (.prefetchFetch bay k)) ∧
    (∀ x, s.sched bay.val k.toNat = some x → (∀ j ∈ s.windowSlabs bay.val x, s.objAt bay.val j = none) →
      (∀ i ∈ s.schedWindow bay.val x, stepSlabs (x.steps.getD i (0, 0)) ≠ []) →
      completes s (.prefetchFetch bay k) fun t => regsBut t s [Reg.PF_SKIP_CNT bay.val] ∧ t.mem.slabs = s.mem.slabs ∧
        t.mem.t3 = s.mem.t3 ∧ t.reg (Reg.PF_SKIP_CNT bay.val) =
          min 0xFFFFFFFF (s.reg (Reg.PF_SKIP_CNT bay.val) + (s.schedWindow bay.val x).length)) ∧
    (∀ x j o loc, s.sched bay.val k.toNat = some x → s.windowSlabs bay.val x = [j] → s.objAt bay.val j = some o → o.home = 1 →
      o.fill = true → o.bay = bay.val → (s.slab bay.val j).copy = none → s.windowCopies bay.val k.toNat = [] → 0 < x.reserve →
      s.anyFree bay.val = some loc → completes s (.prefetchFetch bay k) fun t =>
        (∃ y, (t.slab bay.val j).copy = some y ∧ y.loc = loc ∧ y.filling = true ∧ y.dirty = false ∧
          y.window = some k.toNat) ∧
        mget useDefault t.mem.use loc = bay.val + 1 ∧ ∃ a ∈ t.mem.t3, a.bay = bay.val ∧ a.slab = j ∧ a.fill = true ∧ a.res = none))

/-- HBM_REQUEST and ZERO_SLAB_WRITE (R232, R239, R253, R254): an address with no mapping gives OUT_OF_RANGE; a ZERO slab reads as
zeros with no HBM access; a good line gives its bytes, a poisoned one POISONED, one whose tag fails TAG_MISMATCH and is
poisoned by it; a whole-line write stores its bytes and repairs the line; a partial write of a poisoned line stores nothing.
AGE_EPOCH_TICK, WM_ARM and WM_DISARM (R245, R257): the epoch advances modulo 2^16 and a copy older than 32,768 ticks is refiled at
that age; ARM clears LATCH, COUNT and FIRST_KTIME and takes the source's value, which counts as a crossing where it is beyond
the threshold; DISARM clears the latch. -/
def Obligations.HbmAccesses : Prop :=
  (∀ (s : State) (bay : BayId) (va : BitVec 57) (n : Nat) (m : Medium) (o : Obj) (loc : Nat), s.Canonical →
    let b := bay.val
    let a := va.toNat
    let k := min n (128 - a % 128)
    let pa := loc * 65536 + a % 65536
    let g := groupOf loc
    (s.objAt b (a / 65536) = none → a < apertureBase → exec (.hbmRequest bay va n none m) s =
      .next (s.emit (.memAnswer b a St.OUT_OF_RANGE (List.replicate k none)))) ∧
    (s.objAt b (a / 65536) = some o → a < apertureBase → (s.slab b (a / 65536)).home = some loc →
      (s.slab b (a / 65536)).zero = true → exec (.hbmRequest bay va n none m) s =
        .next (s.emit (.memAnswer b a St.OK (List.replicate k (some 0))))) ∧
    (inT2 s b (a / 65536) loc o → (s.slab b (a / 65536)).zero = false →
      (poisoned s (pa / 128) = false → completes s (.hbmRequest bay va n none .good) fun t =>
        t.out = s.out ++ [.memAnswer b a St.OK ((List.range k).map fun i => some (hbmByte s (pa + i)))] ∧ t.mem = s.mem ∧
        regsBut t s [Reg.HBM_RD_BYTES (edgeOfGroup g) (g / 4 % 2)]) ∧
      (poisoned s (pa / 128) = true → completes s (.hbmRequest bay va n none m) fun t =>
        Output.memAnswer b a St.POISONED (List.replicate k none) ∈ t.out ∧ t.mem.hbm = s.mem.hbm) ∧
      (poisoned s (pa / 128) = false → s.tagsOn g = true → completes s (.hbmRequest bay va n none .tampered) fun t =>
        Output.memAnswer b a St.TAG_MISMATCH (List.replicate k none) ∈ t.out ∧ t.mem.hbm = s.mem.hbm ∧
        poisoned t (pa / 128) = true) ∧
      (∀ bs : List Byte, o.readOnly .bay = false → (s.slab b (a / 65536)).moving = false → bs.length = 128 → a % 128 = 0 →
        completes s (.hbmRequest bay va n (some (bs.map some)) m) fun t =>
          Output.memAnswer b a St.OK [] ∈ t.out ∧ poisoned t (pa / 128) = false ∧
          (∀ i < 128, hbmByte t (pa + i) = bs.getD i 0) ∧
          ∀ x, (x < pa ∨ pa + 128 ≤ x) → hbmByte t x = hbmByte s x) ∧
      (∀ bs : List PByte, o.readOnly .bay = false → (s.slab b (a / 65536)).moving = false → bs.length < 128 - a % 128 →
        poisoned s (pa / 128) = true → completes s (.hbmRequest bay va n (some bs) m) fun t =>
          Output.memAnswer b a St.POISONED [] ∈ t.out ∧ t.mem.hbm = s.mem.hbm ∧ poisoned t (pa / 128) = true) ∧
      (∀ bs : List PByte, o.readOnly .bay = true → exec (.hbmRequest bay va n (some bs) m) s =
        .next (s.emit (.memAnswer b a St.READ_ONLY [])))) ∧
    (∀ slab : BitVec 41, (s.slab b slab.toNat).home = some loc → (s.slab b slab.toNat).zero = true →
      completes s (.zeroSlabWrite bay slab) fun t => (t.slab b slab.toNat).zero = false ∧
        ∀ x, hbmByte t x = if x / 65536 = loc then 0 else hbmByte s x) ∧
    (∀ slab : BitVec 41, (s.slab b slab.toNat).zero = false → ignored s (.zeroSlabWrite bay slab))) ∧
  (∀ (s : State) (bay : BayId) (w : BitVec 3), s.Canonical →
    let b := bay.val
    let k := w.toNat
    let v := s.wmSource b (s.fld (Reg.WM_CFG b k) 0 3)
    let beyond := if s.fld (Reg.WM_CFG b k) 3 1 = 1 then v < s.reg (Reg.WM_THRESH b k) else s.reg (Reg.WM_THRESH b k) < v
    (s.bayState b = 0 → ignored s (.ageEpochTick bay)) ∧
    (s.bayState b ≠ 0 → completes s (.ageEpochTick bay) fun t => t.epoch b = (s.epoch b + 1) % 65536 ∧ t.mem.hbm = s.mem.hbm ∧
      (∀ n c, n < 2 ^ 41 → (s.slab b n).copy = some c → ∃ c', (t.slab b n).copy = some c' ∧ c'.loc = c.loc ∧ c'.dirty = c.dirty ∧
        (if 32768 < (t.epoch b + 65536 - c.epoch) % 65536 then (t.epoch b + 65536 - c'.epoch) % 65536 = 32768 else c' = c))) ∧
    (unscheduled s b → v < 2 ^ 64 → completes s (.wmArm bay w) fun t => t.reg (Reg.WM_EXTREME b k) = v ∧ t.mem = s.mem ∧
      (¬ beyond → t.reg (Reg.WM_STATUS b k) = 1 ∧ t.reg (Reg.WM_FIRST_KTIME b k) = 0) ∧
      (beyond → t.fld (Reg.WM_STATUS b k) 0 2 = 3 ∧ t.fld (Reg.WM_STATUS b k) 16 16 = 1 ∧
        t.reg (Reg.WM_FIRST_KTIME b k) = s.now ∧
        (s.fld (Reg.WM_CFG b k) 4 1 = 1 → t.evt b (s.fld (Reg.WM_CFG b k) 5 10) =
          min (2 ^ 48 - 1) (s.evt b (s.fld (Reg.WM_CFG b k) 5 10) + 1)))) ∧
    (completes s (.wmDisarm bay w) fun t => onlyRegs t s [Reg.WM_STATUS b k, Reg.WM_FIRST_KTIME b k] ∧
      t.reg (Reg.WM_STATUS b k) = 0 ∧ t.reg (Reg.WM_FIRST_KTIME b k) = 0))

/-- T3_RESPONSE, T3_TIMEOUT and WRITE_BACK_DONE (R246, R247, R253, R255, R256): data that nobody waits for are counted and stored
nowhere; a line of a fill lands in the copy, poisoned where it is; an error and an expiry give every waiter their status and
free a fill's slab; a write-back that fails leaves the copy dirty.
HOST_LINK_ERROR (R256): an Unsupported Request or a Completer Abort ends the T3 access it answers LOWER_TIER_FAIL; a poisoned TLP
lands as poisoned lines of the copy; one that nobody waits for is counted and stored nowhere. -/
def Obligations.LowerTierAnswers : Prop :=
  (∀ (s : State) (l : LinkId) (bay : BayId) (va : BitVec 57) (fill bad err : Bool) (bs : List PByte) (ns : Nat), s.Canonical →
    let b := bay.val
    let a := va.toNat
    let n := a / 65536
    let acc := s.mem.t3.find? fun x => x.same b n a fill
    (acc = none → s.bayState b ∈ [1, 2, 3] → completes s (.t3Response l bay va fill bs bad err ns) fun t =>
      t.reg (Reg.T3_LATE_CNT b l.val) = min 0xFFFFFFFF (s.reg (Reg.T3_LATE_CNT b l.val) + 1) ∧ t.mem.hbm = s.mem.hbm ∧
      t.mem.t3 = s.mem.t3 ∧ t.engines = s.engines) ∧
    (acc = none → s.bayState b ∈ [0, 4, 5] → completes s (.t3Response l bay va fill bs bad err ns) fun t =>
      t.reg (Reg.BAY_LATE_DROP_CNT b) = min 0xFFFFFFFF (s.reg (Reg.BAY_LATE_DROP_CNT b) + 1) ∧ t.mem = s.mem ∧
      t.engines = s.engines) ∧
    (∀ x c, acc = some x → s.mem.devWrites = [] → fill = true → (s.slab b n).copy = some c → bs.length = 128 → a % 128 = 0 →
      (∀ y ∈ bs, y ≠ none) → x.landed.length < 511 → completes s (.t3Response l bay va true bs false false ns) fun t =>
        (∀ i < 128, hbmByte t (c.loc * 65536 + a % 65536 + i) = pbyte (bs.getD i none)) ∧
        (∀ y, (y < c.loc * 65536 + a % 65536 ∨ c.loc * 65536 + a % 65536 + 128 ≤ y) → hbmByte t y = hbmByte s y) ∧
        ∃ z ∈ t.mem.t3, z.bay = b ∧ z.slab = n ∧ a / 128 % 512 ∈ z.landed) ∧
    (∀ x w, acc = some x → s.mem.devWrites = [] → w ∈ x.waiters → (∀ i j, w ≠ .sched i j) →
      (completes s (.t3Response l bay va fill bs bad true ns) fun t => { x with res := some St.LOWER_TIER_FAIL } ∈ t.mem.t3 ∧
        (fill = true → (t.slab b n).copy = none) ∧ t.mem.hbm = s.mem.hbm) ∧
      (completes s (.t3Timeout bay va fill) fun t => { x with res := some St.LOWER_TIER_TIMEOUT } ∈ t.mem.t3 ∧
        (fill = true → (t.slab b n).copy = none) ∧ t.mem.hbm = s.mem.hbm ∧ ⟨b, x.slab, false⟩ ∈ t.mem.late)) ∧
    (acc = none → ignored s (.t3Timeout bay va fill)) ∧
    (∀ (slab : BitVec 41) (st : W16), let n := slab.toNat
      ((∀ c, (s.slab b n).copy = some c → c.dirty = false ∨ c.filling = false) → ignored s (.writeBackDone bay slab st)) ∧
      (∀ c, (s.slab b n).copy = some c → c.dirty = true → c.filling = true →
        completes s (.writeBackDone bay slab st) fun t => t.mem.hbm = s.mem.hbm ∧ (t.slab b n).copy =
          some (if st = 0 then { c with dirty := c.again, again := false, filling := false, wbFail := false }
            else { c with again := false, filling := false, wbFail := true }) ∧
          (st = 0 → t.reg (Reg.WB_CNT b) = min 0xFFFFFFFF (s.reg (Reg.WB_CNT b) + 1)) ∧
          (st ≠ 0 → t.reg (Reg.WB_FAIL_CNT b) = min 0xFFFFFFFF (s.reg (Reg.WB_FAIL_CNT b) + 1))))) ∧
  (∀ (s : State) (l : LinkId) (bay : BayId) (va : BitVec 57) (fill : Bool) (poison : Option Nat), s.Canonical →
    let b := bay.val
    let n := va.toNat / 65536
    let acc := s.mem.t3.find? fun x => x.same b n va.toNat fill
    (acc = none → s.bayState b ∈ [1, 2, 3] → completes s (.hostLinkError l bay va fill poison) fun t =>
      t.reg (Reg.T3_LATE_CNT b l.val) = min 0xFFFFFFFF (s.reg (Reg.T3_LATE_CNT b l.val) + 1) ∧ t.mem.hbm = s.mem.hbm ∧
      t.mem.t3 = s.mem.t3 ∧ t.engines = s.engines) ∧
    (∀ x w, acc = some x → s.mem.devWrites = [] → w ∈ x.waiters → (∀ i j, w ≠ .sched i j) →
      completes s (.hostLinkError l bay va fill none) fun t => { x with res := some St.LOWER_TIER_FAIL } ∈ t.mem.t3 ∧
        (fill = true → (t.slab b n).copy = none) ∧ t.mem.hbm = s.mem.hbm) ∧
    (∀ x c, acc = some x → s.mem.devWrites = [] → fill = true → (s.slab b n).copy = some c → va.toNat % 128 = 0 →
      x.landed.length < 511 → completes s (.hostLinkError l bay va true (some 128)) fun t => t.mem.hbm = s.mem.hbm ∧
        poisoned t ((c.loc * 65536 + va.toNat % 65536) / 128) = true))

/-- PAGE_ALLOC, PAGE_FREE and ADVANCE (R261, R266 to R268, R287), on lists of one entry: a bad pool, a wrong sequence state and a
length beyond the capacity change nothing; CREATE gives an ACTIVE sequence of LENGTH 0 with its blocks; KEEP 0 frees every
slab; ADVANCE adds to LENGTH.
Digests and scores (R277, R278): folding a page digest into a coarse one takes the greater HI and the lesser LO of each
channel, in either order of pages; the scorer adds the 64 products in its fixed order; the best k are taken by score, lower
numbers first among equals. -/
def Obligations.KvBlocks : Prop :=
  (∀ (s u : State) (r : CmdRef) (c : Cmd) (e : Nat × Nat) (x : KvSeq), s.Canonical → c.bay.getD 0 < 16 →
    let b := c.bay.getD 0
    let n := c.p 0 0 2
    let p := s.poolOf b n
    let q := bitsAt e.1 0 14
    let ok := s.poolValid b n = true ∧ u.poolOf b n = p
    (∀ w ∈ kvRows, due s r w.2.1 c → (∀ m, w.2.2.1 = some m → c.p 0 2 1 = m) → s.poolValid b n = false →
      completes s (w.1 r) fun t => onlyEnds t s c St.BAD_POOL ((if w.2.2.2 then c.p 1 0 14 else 0) + n * 2 ^ 14) 0) ∧
    (due s r 0x18 c → ok → oneEntry s u c (c.p64 2) (c.p 1 0 11) e →
      (bitsAt e.1 14 1 = 1 → u.kvSeq b n q = some x →
        exec (.pageAlloc r) s = .next (u.finish c St.SEQ_EXISTS (kvDetail q n 0) 0)) ∧
      (bitsAt e.1 14 1 = 0 → u.kvSeq b n q = none →
        exec (.pageAlloc r) s = .next (u.finish c St.BAD_SEQ (kvDetail q n 0) 0)) ∧
      (bitsAt e.1 14 1 = 1 → u.kvSeq b n q = none → 1048576 < bitsAt e.2 0 21 →
        exec (.pageAlloc r) s = .next (u.finish c St.SEQ_TOO_LONG (kvDetail q n 0) (bitsAt e.2 0 21))) ∧
      (bitsAt e.1 14 1 = 1 → u.kvSeq b n q = none → bitsAt e.2 0 21 ≤ 1048576 → c.adm = .granted →
        ∀ v y, u.growSeq p ⟨b, n, q, 1, 0, bitsAt e.1 16 12, [], ceilDiv (bitsAt e.2 0 21) 16, 0, 0, []⟩
            (ceilDiv (bitsAt e.2 0 21) 16 + 1) = some (v, y) →
          completes s (.pageAlloc r) fun t => ended t c St.OK 0 0 ∧ t.kvSeq b n q = some y ∧ y.state = 1 ∧ y.len = 0 ∧
            y.adapter = bitsAt e.1 16 12 ∧ y.blocks.length = ceilDiv (bitsAt e.2 0 21) 16 ∧
            (∀ l ∈ y.blocks, l.length = p.slabs) ∧ ∀ l ∈ y.blocks, ∀ loc ∈ l,
              mget useDefault u.mem.use loc = 0 ∧ mget useDefault t.mem.use loc = b + 1 ∧
              ∀ a, a / 65536 = loc → hbmByte t a = 0)) ∧
    (due s r 0x19 c → ok → oneEntry s u c (c.p64 2) (c.p 1 0 11) e → u.kvSeq b n q = some x → x.state = 1 →
      x.nblk = x.blocks.length →
      (bitsAt e.2 0 21 = 0 → completes s (.pageFree r) fun t => ended t c St.OK 0 0 ∧ t.kvSeq b n q = none ∧
        (∀ l ∈ x.blocks, ∀ loc ∈ l, mget useDefault t.mem.use loc = 0) ∧ t.mem.hbm = u.mem.hbm) ∧
      (bitsAt e.2 0 21 ≠ 0 → completes s (.pageFree r) fun t => ended t c St.OK 0 0 ∧ ∃ y, t.kvSeq b n q = some y ∧
        y.blocks = x.blocks.take (ceilDiv (bitsAt e.2 0 21) 16) ∧ y.len = min x.len (bitsAt e.2 0 21) ∧
        y.adapter = x.adapter)) ∧
    (due s r 0x1C c → c.p 0 2 1 = 1 → ok → oneEntry s u c (c.p64 6) (c.p 5 0 11) e → u.kvSeq b n q = some x → x.state = 1 →
      (x.nblk * 16 < x.len + e.2 → exec (.ptUpdateAdvance r) s = .next (u.finish c St.NO_BLOCK (kvDetail q n 0) (x.nblk * 16))) ∧
      (x.len + e.2 ≤ x.nblk * 16 → completes s (.ptUpdateAdvance r) fun t => ended t c St.OK 0 0 ∧
        t.kvSeq b n q = some { x with len := x.len + e.2 } ∧ t.mem = u.mem)) ∧
    (due s r 0x1C c → c.p 0 2 1 = 0 → ignored s (.ptUpdateAdvance r)) ∧
    (due s r 0x1C c → c.p 0 2 1 = 1 → ignored s (.ptUpdateWindow r .good))) ∧
  ((∀ (a d : List (Nat × Nat)) (i : Nat), i < 32 →
    (bf16.decode (a.getD i (0, 0)).1).isNan = false → (bf16.decode (d.getD i (0, 0)).1).isNan = false →
    let h := ((foldDigest a d).getD i (0, 0)).1
    (h = (a.getD i (0, 0)).1 ∨ h = (d.getD i (0, 0)).1) ∧ (bf16.decode h).lt (bf16.decode (a.getD i (0, 0)).1) = false ∧
      (bf16.decode h).lt (bf16.decode (d.getD i (0, 0)).1) = false) ∧
  (∀ (qp qn : Nat → Nat) (d : List (Nat × Nat)), ∃ acc : Nat → Nat, acc 0 = 0 ∧ kvScore qp qn d = acc 64 ∧
    ∀ c < 32, acc (2 * c + 1) = fp32.addOp .rne (acc (2 * c)) (fp32.mulOp .rne (qp c) ((d.getD c (0, 0)).1 * 2 ^ 16)) ∧
      acc (2 * c + 2) = fp32.addOp .rne (acc (2 * c + 1)) (fp32.mulOp .rne (qn c) ((d.getD c (0, 0)).2 * 2 ^ 16))) ∧
  (∀ (k : Nat) (l : List (Nat × Nat)), (l.map (·.1)).Pairwise (· < ·) → (bestOf k l).length = min k l.length ∧
    ∀ x ∈ l, ∀ y ∈ l, x.1 ∈ bestOf k l → y.1 ∉ bestOf k l →
      ((fp32.decode y.2).isNan = true ∨ ((fp32.decode x.2).isNan = false ∧ (fp32.decode x.2).lt (fp32.decode y.2) = false)) ∧
      (x.2 = y.2 → x.1 < y.1)))

/-- PAGE_SWAP_OUT and PAGE_SWAP_IN (R282, R283): the sequence must be ACTIVE, without uncommitted appends, and the area a T3 object;
its slabs go back only after the host link has acknowledged the writes; a failure leaves it ACTIVE, or SWAPPED without the
slabs it had taken; a swap in lands every byte in the new slabs.
PT_UPDATE in WINDOW mode (R269 to R271, R274): a layer or group outside the pool, RETRIEVE without digests, a bad region and an
unowned bank change nothing; a first binding with one short sequence puts its page's K rows into slot 0 with zeros from
LENGTH on, names slot 0 in PAGE_IDX, and no other engine changes. -/
def Obligations.KvMoves : Prop :=
  (∀ (s : State) (r : CmdRef) (c : Cmd) (x : KvSeq) (o : Obj), s.Canonical → c.bay.getD 0 < 16 → s.mgmt.restarting = false →
    let b := c.bay.getD 0
    let n := c.p 0 0 2
    let q := c.p 1 0 14
    let det := kvDetail q n 0
    let busy := ∃ w ∈ s.kv.wins, w.bay = b ∧ w.pool = n ∧ ∃ a ∈ w.appends, a.seq = q
    let mine := s.mem.t3.filter fun a => decide (a.bay = b) && !a.fill && a.waits (.cmd c.q c.seq)
    s.poolValid b n = true → s.kvSeq b n q = some x →
    (due s r 0x1A c →
      (x.state ≠ 1 → completes s (.pageSwapOut r .good false) fun t => onlyEnds t s c St.SEQ_SWAPPED det 0) ∧
      (x.state = 1 → busy → completes s (.pageSwapOut r .good false) fun t => onlyEnds t s c St.SEQ_BUSY det 0) ∧
      (x.state = 1 → ¬ busy → s.swapObj b (c.p64 2) x.slabs.length = none →
        completes s (.pageSwapOut r .good false) fun t => onlyEnds t s c St.SWAP_AREA det 0) ∧
      (x.state = 1 → ¬ busy → s.swapObj b (c.p64 2) x.slabs.length = some o →
        (∀ loc ∈ x.slabs, ∀ i < 512, poisoned s (loc * 512 + i) = false) →
        completes s (.pageSwapOut r .good false) fun t => t.kvSeq b n q = some { x with state := 2, swapVa := c.p64 2 } ∧
          t.findCmd c.q c.seq = some { c with ran := true } ∧ t.mem = s.mem ∧
          (s.linkUp o.link = true → ∀ i < x.slabs.length, ∃ ver, Output.t3Write o.link (o.t3Addr (c.p64 2 + i * 65536)) ver
            (s.hbmGet (x.slabs.getD i 0 * 65536) 65536) o.plain ∈ t.out))) ∧
    (begun s r 0x1A c →
      (completes s (.pageSwapOut r .good true) fun t => t.kvSeq b n q = some { x with state := 1 } ∧ t.mem = s.mem ∧
        ∃ y d0 d1, t.findCmd c.q c.seq = some y ∧ y.phase = .finished St.LOWER_TIER_FAIL d0 d1) ∧
      (completes s (.pageSwapOut r .good false) fun t => t.kvSeq b n q = some { x with state := 3, blocks := [] } ∧
        ended t c St.OK 0 0 ∧ ∀ loc ∈ x.slabs, mget useDefault t.mem.use loc = 0)) ∧
    (due s r 0x1B c →
      (x.state ≠ 3 → completes s (.pageSwapIn r) fun t => onlyEnds t s c St.NOT_SWAPPED det 0) ∧
      (x.state = 3 → s.swapObj b x.swapVa (x.nblk * (s.poolOf b n).slabs) = none →
        completes s (.pageSwapIn r) fun t => onlyEnds t s c St.SWAP_AREA det 0) ∧
      (x.state = 3 → s.swapObj b x.swapVa (x.nblk * (s.poolOf b n).slabs) = some o → c.adm = .granted →
        ∀ v y, s.growSeq (s.poolOf b n) x (x.nblk + 1) = some (v, y) → completes s (.pageSwapIn r) fun t =>
          t.kvSeq b n q = some { y with state := 4 } ∧ t.findCmd c.q c.seq = some { c with ran := true } ∧
          ∀ i < x.nblk * (s.poolOf b n).slabs, ∃ a ∈ t.mem.t3, a.bay = b ∧ a.va = x.swapVa + i * 65536 ∧ a.len = 65536)) ∧
    (begun s r 0x1B c →
      ((∀ a ∈ mine, a.res = none ∧ anyPoison a.data = false) → (∃ a ∈ mine, a.data = []) → ignored s (.pageSwapIn r)) ∧
      (∀ a, mine = [a] → a.res = none → anyPoison a.data = false → a.data.length = 65536 → completes s (.pageSwapIn r) fun t =>
        t.kvSeq b n q = some { x with state := 1 } ∧ ended t c St.OK 0 0 ∧
        ∀ i < 65536, hbmByte t (x.slabs.getD (a.slab - x.swapVa / 65536) 0 * 65536 + i) = pbyte (a.data.getD i none)) ∧
      (∀ a st, mine = [a] → a.res = some st → completes s (.pageSwapIn r) fun t =>
        t.kvSeq b n q = some { x with state := 3, blocks := [] } ∧ (∀ loc ∈ x.slabs, mget useDefault t.mem.use loc = 0) ∧
        ∃ y d0 d1, t.findCmd c.q c.seq = some y ∧ y.phase = .finished st d0 d1))) ∧
  (∀ (s u : State) (r : CmdRef) (c : Cmd) (e : Nat × Nat) (x : KvSeq) (m : Medium), s.Canonical → c.bay.getD 0 < 16 →
    due s r 0x1C c → c.p 0 2 1 = 0 → s.poolValid (c.bay.getD 0) (c.p 0 0 2) = true →
    let b := c.bay.getD 0
    let n := c.p 0 0 2
    let p := s.poolOf b n
    let d := c.p 1 0 5
    let pe := s.physOf d (c.p 1 5 6)
    let base := c.p 2 0 20
    let idx := c.p 11 0 20
    (p.layers ≤ c.p 4 0 8 ∨ p.groups ≤ c.p 4 8 6 → completes s (.ptUpdateWindow r m) fun t =>
      onlyEnds t s c St.ILLEGAL_FIELD 0 0) ∧
    (c.p 4 0 8 < p.layers → c.p 4 8 6 < p.groups → c.p 0 11 1 = 1 → p.digest = false →
      completes s (.ptUpdateWindow r m) fun t => onlyEnds t s c St.DIGEST_OFF (n * 2 ^ 14) 0) ∧
    (c.p 4 0 8 < p.layers → c.p 4 8 6 < p.groups → c.p 0 11 1 = 0 → oneEntry s u c (c.p64 6) (c.p 5 0 11) e →
      u.poolOf b n = p → u.kvSeq b n (bitsAt e.1 0 14) = some x → x.state = 1 → x.len + entryAppend e ≤ x.nblk * 16 →
      entryAppend e ≤ 16384 → ∀ st d0 d1, u.winCheck c p (entryAppend e) = some (st, d0, d1) →
        exec (.ptUpdateWindow r m) s = .next (u.finish c st d0 d1)) ∧
    (c.p 4 0 8 < p.layers → c.p 4 8 6 < p.groups → c.p 0 11 1 = 0 → oneEntry s u c (c.p64 6) (c.p 5 0 11) e →
      u.poolOf b n = p → u.physOf d (c.p 1 5 6) = pe → u.eng d pe = s.eng d pe → u.Canonical →
      u.kvSeq b n (bitsAt e.1 0 14) = some x → x.seq = bitsAt e.1 0 14 → x.state = 1 → entryAppend e = 0 → 0 < x.len → x.len ≤ 16 →
      1 ≤ x.nblk → u.winCheck c p 0 = none → (∀ w ∈ u.kv.wins, ¬ (w.bay = b ∧ w.win = c.p 0 3 8)) →
      1 ≤ c.p 3 0 11 → 1 ≤ c.p 3 11 11 → c.p 5 0 11 = 1 → p.scale = 0 →
      completes s (.ptUpdateWindow r .good) fun t =>
        (∀ i < p.pb, mget zeroByte (t.eng d pe).spad (base + i) = if i < x.len * p.stride then
          pbyte ((u.homeGet x 0 (p.pageAt (c.p 4 0 8) (c.p 4 8 6) 0) p.pb).getD i none) else 0) ∧
        (∀ i < 4, mget zeroByte (t.eng d pe).spad (idx + i) = 0) ∧
        (∀ d' p', engKey d' p' ≠ engKey d pe → t.eng d' p' = u.eng d' p') ∧ t.mem.hbm = u.mem.hbm ∧
        (∃ w ∈ t.kv.wins, w.bay = b ∧ w.win = c.p 0 3 8 ∧ w.pool = n ∧ w.die = d ∧ w.base = base ∧ w.appends = []) ∧
        t.reg (Reg.KV_GATHER_CNT b) = min 0xFFFFFFFF (u.reg (Reg.KV_GATHER_CNT b) + 1)))

/-! ### Rethatch -/

/-- The commands of Table 10-5 (R300, R301, R308, R314): the row that OPTION does not name has no effect; without a model they are
BAD_MODEL, and each is refused in a state that it does not allow; nothing but the command changes.
RTm_CTRL.ENABLE and DISABLE (R292, R293): ENABLE of a model that is not DISABLED and DISABLE of one that is not IDLE are
discarded; a configuration out of range leaves STATE DISABLED with the code's low byte in ERR; one that passes every check
and whose slabs can be had becomes IDLE with every epoch 0 and every set unstaged; DISABLE frees the area. -/
def Obligations.GeneratorModels : Prop :=
  (∀ (s : State) (r : CmdRef) (c : Cmd) (x : RtModel), s.Canonical →
    let b := c.bay.getD 0
    let k := c.p 0 0 2
    (∀ w ∈ rtOptions, due s r w.op c → ¬ w.picks c → ignored s (w.instr r)) ∧
    (∀ w ∈ rtRows, due s r w.op c → w.picks c → s.model b k = none →
      onlyAnswers s (w.instr r) c St.BAD_MODEL (rtDetail k 0 w.adapter) 0) ∧
    (∀ m, due s r 0x20 c → s.model b k = some x → s.rtSt b k ≠ rtIdle → s.rtSt b k ≠ rtStaged →
      (c.p 0 2 2 = 0 → onlyAnswers s (.rtStageMemory r m) c St.BAD_STATE (rtDetail k 0 false) 0) ∧
      (c.p 0 2 2 = 1 → onlyAnswers s (.rtStageFabric r m) c St.BAD_STATE (rtDetail k 0 false) 0)) ∧
    (∀ l, due s r 0x21 c → c.p 0 2 2 = 1 → s.model b k = some x → s.rtSt b k ≠ rtStaged →
      onlyAnswers s (.rtVerifyCheckStaged r l) c St.BAD_STATE (rtDetail k 0 false) 0) ∧
    (due s r 0x22 c → s.model b k = some x → s.rtSt b k ≠ rtStaged →
      (c.p 0 5 1 = 0 → onlyAnswers s (.rtArmStrict r) c St.NOT_STAGED (rtDetail k 0 false) 0) ∧
      (c.p 0 5 1 = 1 → onlyAnswers s (.rtArmRolling r) c St.NOT_STAGED (rtDetail k 0 false) 0)) ∧
    (∀ m, due s r 0x24 c → s.model b k = some x →
      (x.adapt.isSome = true ∨ x.abar.isSome = true →
        onlyAnswers s (.rtAdapter r m) c St.BAD_STATE (rtDetail k 0 true) 0) ∧
      (x.adapt = none → x.abar = none → x.adapts = [] →
        onlyAnswers s (.rtAdapter r m) c St.BAD_ADAPTER (rtDetail k 0 true) 0))) ∧
  (∀ (s u : State) (bay : BayId) (model : BitVec 2) (es : List (Nat × Nat × Nat × Nat)) (x : RtModel), s.Canonical →
    let b := bay.val
    let m := model.toNat
    let a := Reg.RT_STATE b m
    (s.rtSt b m ≠ 0 → ignored s (.rtEnable bay model)) ∧
    (s.rtSt b m ≠ 1 ∨ s.model b m = none → ignored s (.rtDisable bay model)) ∧
    (s.rtSt b m = 0 → s.rt.enabling = [] →
      1023 < s.fld (Reg.RT_CFG0 b m) 8 10 + 2 * (s.fld (Reg.RT_CFG0 b m) 0 8 + 1) ∨ 4096 < s.fld (Reg.RT_CFG1 b m) 0 13 →
      completes s (.rtEnable bay model) fun t => onlyRegs t s [a] ∧ t.rtSt b m = 0 ∧ t.fld a 13 8 = 0x01) ∧
    (modelFits s u b m es → modelNeed u b m es ≤ u.share b 1 → modelNeed u b m es ≤ u.reclaimable b + u.lentBy b 1 →
      ∀ v us, (u.takeUnits b 1 (modelNeed u b m es)).placeUnits b (u.areaSlab b m) 0 es = some (v, us) →
      completes s (.rtEnable bay model) fun t => t.rtSt b m = 1 ∧ t.reg (Reg.RT_EPOCH_LO b m) = 0 ∧
        t.reg (Reg.RT_EPOCH_HI b m) = 0 ∧ t.reg (Reg.RT_STAGED_EPOCH b m) = 0 ∧ ∃ y, t.model b m = some y ∧
          y.layers.length = es.length ∧ y.adapts = [] ∧ y.stage = none ∧ y.arm = none ∧
          ∀ z ∈ y.layers, z.epoch = 0 ∧ z.staged = false ∧ z.locs.length = z.slabs) ∧
    (s.rtSt b m = 1 → s.model b m = some x → x.adapt = none → x.abar = none →
      completes s (.rtDisable bay model) fun t => t.rtSt b m = 0 ∧ t.reg a = 0 ∧ t.model b m = none ∧ t.engines = s.engines ∧
        (∀ e, t.evt b e = s.evt b e) ∧ ∀ z ∈ x.layers ++ x.adapts, ∀ l ∈ z.locs, mget useDefault t.mem.use l = 0))

/-- RT_STAGE and RT_ADAPTER (R301, R302, R303, R314): a verified manifest of a newer epoch opens the staging sets, and the model is
STAGING; the epoch already STAGED is OK at once; from memory, each leaf is written to the staging set alone, and the last
leaf of a payload that cannot be read marks its unit as failed.
Landings and their time-out (R303): a landing outside a rethatch area is no staging's; one in a unit for which no staging runs
is refused and counted in RTm_STRAY_CNT, and moves no byte; STAGE_TIMEOUT ends the command once its time has passed, with
the lowest missing layer, and the model is IDLE again. -/
def Obligations.StagingCommands : Prop :=
  (∀ (s u : State) (r : CmdRef) (c : Cmd) (md : Medium) (x : RtModel) (man : RtManifest) (vas : List Nat) (fabric : Bool),
    s.Canonical → c.bay.getD 0 < 16 →
    let b := c.bay.getD 0
    let k := c.p 0 0 2
    let i : Instr := if fabric then .rtStageFabric r md else .rtStageMemory r md
    let check := manifestCheck (s.reg (Reg.RT_MODEL_ID b k)) 0 x.layers
    (due s r 0x20 c → c.p 0 2 2 = (if fabric then 1 else 0) → s.model b k = some x → s.rtSt b k = 1 ∨ s.rtSt b k = 3 →
      manifestRead s u c md fabric check man vas →
      (man.epoch ≤ u.reg (Reg.RT_EPOCH_HI b k) → c.p 0 4 1 = 0 →
        completes s i fun t => ended t c St.EPOCH_NOT_NEWER (rtDetail k 0 false) (u.reg (Reg.RT_EPOCH_HI b k)) ∧ t.regs = u.regs) ∧
      (u.reg (Reg.RT_EPOCH_HI b k) < man.epoch → u.rtSt b k = 3 → u.reg (Reg.RT_STAGED_EPOCH b k) = man.epoch →
        completes s i fun t => ended t c St.OK 0 0 ∧ t.regs = u.regs ∧ t.mem = u.mem) ∧
      (u.reg (Reg.RT_EPOCH_HI b k) < man.epoch → u.reg (Reg.RT_STAGED_EPOCH b k) ≠ man.epoch → u.model b k = some x →
        c.p 7 28 1 = 0 →
        completes s i fun t => t.findCmd c.q c.seq = some { c with ran := true } ∧ t.rtSt b k = 2 ∧ t.engines = u.engines ∧
          ∃ y, t.model b k = some y ∧ y.stage = some ⟨c.q, c.seq, man.epoch, man.entries, fabric, [], 0, vas⟩ ∧
            y.arm = x.arm ∧ y.layers.length = x.layers.length ∧
            ∀ z ∈ y.layers, z.staged = false ∧ (z.stgEpoch = man.epoch ∨ z.stgEpoch = 0))) ∧
    (begun s r 0x20 c → s.apexUp = true → s.model b k = some x → x.stage = none → ignored s (.rtStageMemory r md)) ∧
    (∀ (adapter : Bool) (g : RtStage) (e : RtEntry) (z : RtUnit) (bs : List PByte) (v : State),
      let j : Instr := if adapter then .rtAdapter r md else .rtStageMemory r md
      let va := g.shards.getD ((g.entries.findIdx? fun y => decide (y.idx = e.idx)).getD 0) 0 + 128 + g.off * 65536
      begun s r (if adapter then 0x24 else 0x20) c → s.qState c.q ≠ 3 → c.paused = false → s.model b k = some x →
      x.stageOf adapter = some g → g.fabric = false → g.q = c.q → g.seq = c.seq → (x.todo adapter g).head? = some e →
      x.unit adapter e.idx = some z → s.setRefuses z.locs = none → g.off * 65536 + 65536 < e.len → g.off < z.locs.length →
      s.vaReadM (.cmd c.q c.seq) md b va 65536 = (v, bs, .ok) → bs.length = 65536 → v.model b k = some x →
      completes s j fun t => (∃ y, t.model b k = some y ∧ y.stageOf adapter = some { g with off := g.off + 1 }) ∧
        t.cq = v.cq ∧ t.engines = v.engines ∧
        ∀ a, z.locs[g.off]? ≠ some (a / 65536) → hbmByte t a = hbmByte v a) ∧
    (due s r 0x24 c → s.model b k = some x → x.adapt = none → x.abar = none → x.adapts ≠ [] → c.p 0 2 2 = 0 →
      manifestRead s u c md false
        (adapterCheck (s.reg (Reg.RT_MODEL_ID b k)) (s.fld (Reg.RT_CFG1 b k) 13 16) x) man vas →
      (∀ e ∈ man.entries, ∃ z, x.unit true e.idx = some z ∧ z.epoch < man.epoch ∧ z.stgEpoch ≠ man.epoch) →
      u.model b k = some x →
      completes s (.rtAdapter r md) fun t => t.findCmd c.q c.seq = some { c with ran := true } ∧ t.rtSt b k = u.rtSt b k ∧
        ∃ y, t.model b k = some y ∧ y.layers = x.layers ∧
          y.adapt = some ⟨c.q, c.seq, man.epoch, man.entries, false, [], 0, vas⟩)) ∧
  (∀ (s : State) (bay : BayId) (va : W64) (bs : List Byte) (m : Nat) (x : RtModel) (w : Bool × Nat × RtUnit) (r : CmdRef) (c : Cmd)
    (g : RtStage), s.Canonical →
    let b := bay.val
    let a := Reg.RT_STRAY_CNT b m
    (s.areaModel b (va.toNat / 65536) = none → ignored s (.stagingLanding bay va bs)) ∧
    (s.areaModel b (va.toNat / 65536) = some m → m < 4 → s.model b m = some x →
      x.unitAt (va.toNat / 65536 - s.areaSlab b m) = some w →
      (∀ g, x.stageOf w.1 = some g → g.fabric = false ∨ ∀ e ∈ g.entries, e.idx ≠ w.2.1) →
      completes s (.stagingLanding bay va bs) fun t => t.mem = s.mem ∧ t.rt = s.rt ∧
        t.reg a = min 0xFFFFFFFF (s.reg a + 1)) ∧
    (s.findCmd r.q.val r.seq.toNat = none → ignored s (.stageTimeout r)) ∧
    (s.apexUp = true → s.findCmd r.q.val r.seq.toNat = some c → c.op = 0x20 → c.bay = some b → c.p 0 0 2 = m →
      s.model b m = some x → x.stage = some g → g.fabric = true → g.q = c.q → g.seq = c.seq →
      (s.now < c.startAt + c.p 5 0 24 * 1000000 → ignored s (.stageTimeout r)) ∧
      (c.startAt + c.p 5 0 24 * 1000000 ≤ s.now → x.missing false g ≠ [] → g.fails = [] →
        completes s (.stageTimeout r) fun t =>
          ended t c St.STAGE_TIMEOUT (rtDetail m (lowestIdx ((x.missing false g).map (·.idx))) false) (x.missing false g).length ∧
          t.rtSt b m = 1 ∧ ∃ y, t.model b m = some y ∧ y.stage = none ∧
            y.layers.map (·.epoch) = x.layers.map (·.epoch))))

/-- RT_VERIFY and the re-checks (R300, R316): with no recorded set a check is OK and changes nothing; a layer that no longer returns
what was stored is CORRUPT, counted in RTm_RECHECK_FAIL_CNT, and the command is DIGEST_MISMATCH; with RTm_RECHECK 0 no pass
runs; PUBLISH is SIG_INVALID for a bay without a job key, and otherwise ends OK once its digests are read and its manifest
is written. -/
def Obligations.Verifications : Prop :=
  ∀ (s u : State) (r : CmdRef) (c : Cmd) (md : Medium) (x : RtModel) (man : RtManifest) (vas : List Nat) (bay : BayId)
    (model : BitVec 2) (l l' : List (BitVec 14)), s.Canonical → c.bay.getD 0 < 16 →
    let b := c.bay.getD 0
    let k := c.p 0 0 2
    (due s r 0x21 c → c.p 0 2 2 = 0 → s.model b k = some x → s.recorded b k false x = [] →
      onlyAnswers s (.rtVerifyCheckActive r l) c St.OK 0 0) ∧
    (due s r 0x21 c → c.p 0 2 2 = 1 → s.model b k = some x → s.rtSt b k = 3 → s.recorded b k true x = [] →
      onlyAnswers s (.rtVerifyCheckStaged r l) c St.OK 0 0) ∧
    (∀ v e z, due s r 0x21 c → c.p 0 2 2 = 0 → s.model b k = some x → s.recheck b k false x l = (v, [(false, e)], none) →
      v.model b k = some x → x.unit false e = some z →
      completes s (.rtVerifyCheckActive r l) fun t => ended t c St.DIGEST_MISMATCH (rtDetail k e false) 0 ∧
        t.reg (Reg.RT_RECHECK_FAIL_CNT b k) = min 0xFFFFFFFF (s.reg (Reg.RT_RECHECK_FAIL_CNT b k) + 1) ∧
        ∃ y, unitOf t b k false e = some y ∧ y.corrupt = true ∧ y.epoch = z.epoch ∧ y.locs = z.locs) ∧
    (∀ v e z, due s r 0x21 c → c.p 0 2 2 = 1 → s.model b k = some x → s.rtSt b k = 3 →
      s.recheck b k true x l = (v, [(false, e)], none) → v.model b k = some x → v.rtSt b k = 3 → x.unit false e = some z →
      completes s (.rtVerifyCheckStaged r l) fun t => ended t c St.DIGEST_MISMATCH (rtDetail k e false) 0 ∧ t.rtSt b k = 1 ∧
        ∃ y, unitOf t b k false e = some y ∧ y.staged = false ∧ y.epoch = z.epoch) ∧
    (s.reg (Reg.RT_RECHECK bay.val model.toNat) = 0 ∨ s.model bay.val model.toNat = none →
      ignored s (.recheckPass bay model l l')) ∧
    (s.reg (Reg.RT_RECHECK bay.val model.toNat) ≠ 0 → s.model bay.val model.toNat = some x →
      s.recorded bay.val model.toNat false x = [] → s.rtSt bay.val model.toNat = 1 →
      completes s (.recheckPass bay model l l') fun t => onlyRegs t s [Reg.RT_LAST_RECHECK bay.val model.toNat]) ∧
    (due s r 0x21 c → c.p 0 2 2 = 2 → (∃ v l, s.rtReadManifest c md = (v, .ok man l) ∧ publishCheck man = none ∧
        ∃ w, v.rtReadShards c md man = (w, .ok man vas, none) ∧ u = w.t3Done (.cmd c.q c.seq)) → u.findCmd c.q c.seq = some c →
      (u.pubScalar b = none → completes s (.rtVerifyPublish r md) fun t => ended t c St.SIG_INVALID (rtDetail k 0 false) 0 ∧
        t.mem.hbm = u.mem.hbm) ∧
      (∀ d v ds, u.pubScalar b = some d → u.payloadDigests c md man vas = (v, .ok, ds) →
        v.findCmd c.q c.seq = some c →
        (State.writeReady (.cmd c.q c.seq) .bay b v (c.p64 1) (128 * (1 + man.n) + 96)).2 = .ok →
        (v.draw.2.vaWriteM (.cmd c.q c.seq) .bay md b (c.p64 1)
          ((publishBytes man d v.now v.draw.1 ds).map fun x => some (BitVec.ofNat 8 x))).2 = .ok →
        completes s (.rtVerifyPublish r md) fun t => ended t c St.OK 0 0 ∧
          t.mem = (v.draw.2.vaWriteM (.cmd c.q c.seq) .bay md b (c.p64 1)
            ((publishBytes man d v.now v.draw.1 ds).map fun x => some (BitVec.ofNat 8 x))).1.mem))

/-- RT_ARM, RT_ABORT and BARRIER_TIMEOUT (R308, R309, R311, R317): a barrier that DONE has not reached makes the model ARMED and moves
no byte; an abort of a STAGED or ARMED model leaves it IDLE with nothing staged, and is too late when it is ROLLING; a
time-out before any flip releases the gates, leaves the model STAGED and ends the command.
A flip (R310): every slab of the unit reads from what was its staging set, whose bytes stay where they are; the set that was
active becomes the staging set; ACTIVE_EPOCH and FIRST_STEP follow, and RTm_FLIP_CNT counts.
Gates (R306, R307): with no barrier, each gate rises to DONE + 1 and never falls. -/
def Obligations.BarriersAndGates : Prop :=
  (∀ (s : State) (r : CmdRef) (c : Cmd) (x : RtModel) (a : RtBar), s.Canonical → c.bay.getD 0 < 16 → s.rtSettle = s →
    let b := c.bay.getD 0
    let k := c.p 0 0 2
    let ls := List.range x.layers.length
    let gates := ls.map fun l => s.rtGate b k l
    let low := minOf (ls.map fun l => s.rtDone b k l) % 2 ^ 32
    (due s r 0x22 c → s.rtSt b k = 3 → stillModel s b k → s.model b k = some x → x.layers ≠ [] →
      (c.p 0 5 1 = 0 → completes s (.rtArmStrict r) fun t => t.findCmd c.q c.seq = some { c with ran := true } ∧ t.rtSt b k = 4 ∧
        t.mem.slabs = s.mem.slabs ∧ ∃ y z, t.model b k = some y ∧ y.layers = x.layers ∧ y.arm = some z ∧ z.rolling = false ∧
          z.steps = (gates.map fun _ => maxOf gates) ∧ z.start = s.now) ∧
      (c.p 0 5 1 = 1 → completes s (.rtArmRolling r) fun t => t.findCmd c.q c.seq = some { c with ran := true } ∧
        t.rtSt b k = 4 ∧ t.mem.slabs = s.mem.slabs ∧ ∃ y z, t.model b k = some y ∧ y.layers = x.layers ∧ y.arm = some z ∧
          z.rolling = true ∧ z.steps = gates ∧ z.left = ls)) ∧
    (due s r 0x23 c → c.p 0 6 1 = 0 → (s.model b k = none → onlyAnswers s (.rtAbort r) c St.OK 0 0) ∧
      (s.model b k = some x → s.rtSt b k = 5 → onlyAnswers s (.rtAbort r) c St.ABORT_TOO_LATE (rtDetail k 0 false) 0) ∧
      (s.model b k = some x → s.rtSt b k = 3 → x.stage = none → x.arm = none →
        completes s (.rtAbort r) fun t => ended t c St.OK 0 0 ∧ t.rtSt b k = 1 ∧ t.engines = s.engines ∧
          t.reg (Reg.RT_STAGED_EPOCH b k) = 0 ∧ ∃ y, t.model b k = some y ∧ y.layers.length = x.layers.length ∧
            (∀ z ∈ y.layers, z.stgEpoch = 0) ∧ y.layers.map (·.epoch) = x.layers.map (·.epoch))) ∧
    (due s r 0x23 c → c.p 0 6 1 = 1 → s.model b k = some x → x.adapt = none → x.abar = none →
      (∀ y ∈ s.cq.cmds, y.op ≠ 0x24) → onlyAnswers s (.rtAbortAdapter r) c St.OK 0 0) ∧
    (∀ g x', due s r 0x23 c → c.p 0 6 1 = 1 → s.model b k = some x → x.adapt = some g →
      s.findCmd g.q g.seq = some x' → ¬ (g.q = c.q ∧ g.seq = c.seq) →
      completes s (.rtAbortAdapter r) fun t => ended t c St.OK 0 0 ∧ ended t x' St.ABORTED (rtDetail k 0 true) 0 ∧
        t.model b k = some { x with adapt := none } ∧ t.regs = s.regs) ∧
    (s.apexUp = true → s.findCmd r.q.val r.seq.toNat = some c → s.model b k = some x → x.arm = some a → x.abar = none →
      a.live = true → a.q = c.q → a.seq = c.seq →
      (c.p 6 0 24 = 0 ∨ s.now < a.start + c.p 6 0 24 * 1000 → ignored s (.barrierTimeout r)) ∧
      (c.p 6 0 24 ≠ 0 → a.start + c.p 6 0 24 * 1000 ≤ s.now → s.rtSt b k = 4 →
        completes s (.barrierTimeout r) fun t => ended t c St.BARRIER_TIMEOUT (rtDetail k 0 false) low ∧ t.rtSt b k = 3 ∧
          ∃ y, t.model b k = some y ∧ y.arm = none ∧ y.layers = x.layers) ∧
      (c.p 6 0 24 ≠ 0 → a.start + c.p 6 0 24 * 1000 ≤ s.now → s.rtSt b k = 5 →
        completes s (.barrierTimeout r) fun t => ended t c St.BARRIER_TIMEOUT (rtDetail k 0 false) low ∧ t.regs = s.regs ∧
          t.model b k = some { x with arm := some { a with live := false } }))) ∧
  (∀ (s : State) (b m i first : Nat) (adapter : Bool) (u : RtUnit), s.Canonical → b < 16 → m < 4 →
    unitOf s b m adapter i = some u → u.locs.length = u.slabs →
    i < 256 → s.reg (Reg.RT_EPOCH_VA b m) % 65536 = 0 → s.reg (Reg.RT_EPOCH_VA b m) / 65536 < s.areaSlab b m →
    let t := s.flipUnit b m adapter i first
    let n (k : Nat) := s.areaSlab b m + u.first + k
    (∀ k < u.slabs, (t.slab b (n k)).home = u.locs[k]? ∧ (t.slab b (n k)).zero = false) ∧
    (∃ v, unitOf t b m adapter i = some v ∧ v.locs = (List.range u.slabs).map (s.activeLoc b m u) ∧ v.epoch = u.stgEpoch ∧
      v.prev = u.epoch ∧ v.firstStep = first ∧ v.act = u.stg ∧ v.staged = false ∧ v.corrupt = false) ∧
    (∀ j, j ≠ i → unitOf t b m adapter j = unitOf s b m adapter j) ∧
    (∀ j, unitOf t b m (!adapter) j = unitOf s b m (!adapter) j) ∧
    t.reg (Reg.RT_FLIP_CNT b m) = min 0xFFFFFFFF (s.reg (Reg.RT_FLIP_CNT b m) + 1) ∧ t.engines = s.engines) ∧
  (∀ (s : State) (b m : Nat) (x : RtModel), s.Canonical → b < 16 → m < 4 → s.model b m = some x → x.arm = none → x.abar = none →
    unscheduled s b → s.fld (Reg.RT_CFG0 b m) 8 10 + 2 * x.layers.length ≤ 1023 →
    ∀ l, l < x.layers.length → s.rtDone b m l < evtTop →
      (s.raiseGates b m).rtGate b m l = max (s.rtGate b m l) (s.rtDone b m l + 1) ∧
      (s.raiseGates b m).rtDone b m l = s.rtDone b m l)

/-! ### The fabric, collectives and time -/

/-- Port training (R343, R344, R408): PORT_CFG.EXPECT disables a port or starts DETECT; bursts go out in DETECT; a partner on at least
eight lanes starts TRAIN, TRAIN ends in ALIGN or FAILED, ALIGN in NEGOTIATE with the lanes that locked or FAILED, NEGOTIATE
in ACTIVE under the highest common major with the common features, or FAILED for the version or the cabling; a link
authentication that fails ends in FAILED. In any other state each of them does nothing. -/
def Obligations.PortTraining : Prop :=
  ∀ (s : State) (port : PortId) (data : W32) (lanes : BitVec 5) (locked : W16) (lo hi : Byte) (f2 f3 : W16) (peer : BitVec 24)
    (role : PortId), s.Canonical →
    let p := port.val
    let d := portDie p
    let k := portIx p
    let sr := Reg.PORT_STATUS d k
    let ln := Reg.PORT_LANES d k
    let cf := Reg.PORT_CFG d k
    let fails (i : Instr) (cause : Nat) : Prop := completes s i fun t => onlyPort t s p [sr, ln] ∧ t.portState p = portFailed ∧
      t.portFld p 9 3 = cause ∧ t.reg ln = 0
    (s.dieState d ≠ dieOn → ignored s (.portCfgWrite port data)) ∧
    (s.dieState d = dieOn → bitsAt data.toNat 0 1 = 0 → completes s (.portCfgWrite port data) fun t =>
      onlyPort t s p [sr, ln, cf] ∧ t.portState p = portDisabled ∧ t.reg cf = data.toNat % 4 ∧ t.reg ln = 0) ∧
    (s.dieState d = dieOn → bitsAt data.toNat 0 1 = 1 → completes s (.portCfgWrite port data) fun t =>
      onlyPort t s p [sr, ln, cf] ∧ t.reg cf = data.toNat % 4 ∧
        t.portState p = if s.portState p = portDisabled ∧ s.deviceFault = false then portDetect else s.portState p) ∧
    (s.portState p = portDetect → exec (.trainingBurst port) s = .next (s.emit (.burst p))) ∧
    (s.portState p ≠ portDetect → ignored s (.trainingBurst port) ∧ ignored s (.partnerBurst port lanes)) ∧
    (lanes.toNat < 8 → ignored s (.partnerBurst port lanes)) ∧
    (s.portState p = portDetect → 8 ≤ lanes.toNat → s.fabClock = true → completes s (.partnerBurst port lanes) fun t =>
      onlyRegs t s [sr] ∧ t.portState p = portTrain) ∧
    (s.portState p ≠ portTrain → ignored s (.trainDone port) ∧ ignored s (.trainTimeout port)) ∧
    (s.portState p = portTrain → fails (.trainTimeout port) 4) ∧
    (s.portState p = portTrain → s.fabClock = true → completes s (.trainDone port) fun t =>
      onlyRegs t s [sr] ∧ t.portState p = portAlign) ∧
    (s.portState p ≠ portAlign ∨ s.fabClock = false → ignored s (.alignDone port locked)) ∧
    (s.portState p = portAlign → s.fabClock = true → maskCount 16 (goodLanes locked.toNat) < 8 → fails (.alignDone port locked) 3) ∧
    (s.portState p = portAlign → s.fabClock = true → 8 ≤ maskCount 16 (goodLanes locked.toNat) →
      completes s (.alignDone port locked) fun t => onlyRegs t s [sr, ln] ∧ t.portState p = portNegotiate ∧
        t.reg ln = goodLanes locked.toNat ∧ t.portFld p 4 5 = maskCount 16 (goodLanes locked.toNat)) ∧
    (let i : Instr := .negotiateDone port lo hi f2 f3 peer role
     let m := if lo.toNat ≤ 3 ∧ 3 ≤ hi.toNat then 3 else if lo.toNat ≤ 2 ∧ 2 ≤ hi.toNat then 2 else 0
     let cabled := s.neighbour p = some peer.toNat ∧ role.val = p ^^^ 1
     (s.portState p ≠ portNegotiate ∨ s.fabClock = false → ignored s i) ∧
     (s.portState p = portNegotiate → s.fabClock = true → m = 0 → fails i 1) ∧
     (s.portState p = portNegotiate → s.fabClock = true → m ≠ 0 → ¬ cabled → fails i 2) ∧
     (s.portState p = portNegotiate → s.fabClock = true → m ≠ 0 → cabled → completes s i fun t =>
       t.portState p = portActive ∧ t.portFld p 12 4 = m ∧ t.mem = s.mem ∧ t.engines = s.engines ∧
       t.portFld p 16 16 = (if m = 3 then f3.toNat &&& 0x3F else f2.toNat &&& 0x2E) ∧
       t.reg (Reg.PORT_PEER d k) = peer.toNat + role.val * 2 ^ 24 ∧ t.reg (Reg.PORT_UP_KTIME d k) = s.now ∧
       (s.portCfg p 1 1 = 0 → t.routeFail p = false) ∧ (t.portX p).held = [] ∧ (t.portX p).lost = false)) ∧
    (s.portState p ≠ portActive → ∀ ok, ignored s (.linkAuthDone port ok)) ∧
    (s.portState p = portActive → (completes s (.linkAuthDone port true) fun t => onlyPort t s p [] ∧ (t.portX p).auth = true) ∧
      completes s (.linkAuthDone port false) fun t => onlyPort t s p [sr, ln, Reg.SEC_LINK_AUTH_FAIL_CNT d] ∧
        t.portState p = portFailed ∧ t.portFld p 9 3 = 5 ∧ (t.portX p).lost = true ∧
        t.reg (Reg.SEC_LINK_AUTH_FAIL_CNT d) = min 0xFFFFFFFF (s.reg (Reg.SEC_LINK_AUTH_FAIL_CNT d) + 1))

/-- An ACTIVE port (R343, R347, R364 to R366): a lost signal starts RETRAIN, which ends in ACTIVE or, below eight lanes, in DETECT; an
uncorrectable flit is counted and asked for again, a good one in sequence is taken; the sixteenth replay of one flit
retrains; a lane with too many corrected symbols leaves the link with its group of four.
PACKET_RECEIVE and LINK_HOLD_EXPIRY (R348, R349, R352, R355, R356, R366): a header that fails its checks is counted; a packet for
this device is left to the row of its type; one for another leaves by its route in its job's slot, and is counted where
the job has none; a link lost for FAB_LINK_HOLD_US fails its routes, and a request that has no other ends with LINK_DOWN. -/
def Obligations.LinkTraffic : Prop :=
  (∀ (s : State) (port : PortId) (good : W16) (hdr : W32) (n : Nat) (ack : Option (BitVec 12)) (fseq : BitVec 12) (lane : BitVec 4)
    (count : W32), s.Canonical →
    let p := port.val
    let d := portDie p
    let k := portIx p
    let x := s.portX p
    let ln := Reg.PORT_LANES d k
    let again := if x.replaySeq = fseq.toNat ∧ x.replays ≠ 0 then x.replays + 1 else 1
    let up (t : State) (a : Nat) (n : Nat) : Prop := t.reg a = min 0xFFFFFFFF (s.reg a + n)
    (s.portState p ≠ portActive → ignored s (.linkSignalLoss port) ∧ (∀ bad, ignored s (.flitReceive port hdr n bad ack)) ∧
      ignored s (.flitReplay port fseq) ∧ ignored s (.laneRetire port lane count)) ∧
    (s.portState p = portActive → completes s (.linkSignalLoss port) fun t => t.portState p = portRetrain ∧ t.mem = s.mem ∧
      t.engines = s.engines ∧ up t (Reg.PORT_RETRAIN_CNT d k) 1 ∧ (t.portX p).lost = true ∧ (t.portX p).retry = x.retry ∧
      t.reg ln = s.reg ln) ∧
    (let m := goodLanes (s.reg ln &&& good.toNat)
     (s.portState p ≠ portRetrain ∨ s.fabClock = false → ignored s (.retrainDone port good)) ∧
     (s.portState p = portRetrain → s.fabClock = true → maskCount 16 m < 8 → completes s (.retrainDone port good) fun t =>
       onlyPort t s p [Reg.PORT_STATUS d k, ln] ∧ t.portState p = portDetect ∧ t.reg ln = 0) ∧
     (s.portState p = portRetrain → s.fabClock = true → 8 ≤ maskCount 16 m → completes s (.retrainDone port good) fun t =>
       t.portState p = portActive ∧ t.reg ln = m ∧ t.reg (Reg.PORT_UP_KTIME d k) = s.now ∧ (t.portX p).lost = false ∧
       t.mem = s.mem)) ∧
    (s.portState p = portActive →
      (completes s (.flitReceive port hdr n true ack) fun t => up t (Reg.PORT_FEC_UNCORR_CNT d k) 1 ∧
        up t (Reg.PORT_REPLAY_CNT d k) 1 ∧ up t (Reg.PORT_FEC_CORR_CNT d k) n ∧ t.portX p = x ∧ t.mem = s.mem ∧
        .replayRequest p x.rx ∈ t.out) ∧
      (bitsAt hdr.toNat 0 2 = 3 ∨ 12 ≤ bitsAt hdr.toNat 14 4 → completes s (.flitReceive port hdr n false ack) fun t =>
        onlyRegs t s [Reg.PORT_FEC_CORR_CNT d k, Reg.PORT_HDR_ERR_CNT d k] ∧ up t (Reg.PORT_HDR_ERR_CNT d k) 1) ∧
      (bitsAt hdr.toNat 0 2 ≠ 3 → bitsAt hdr.toNat 14 4 < 12 → completes s (.flitReceive port hdr n false none) fun t =>
        onlyPort t s p [Reg.PORT_FEC_CORR_CNT d k] ∧ up t (Reg.PORT_FEC_CORR_CNT d k) n ∧ t.portX p =
          if bitsAt hdr.toNat 0 2 = 1 ∧ bitsAt hdr.toNat 2 12 = x.rx then { x with rx := (x.rx + 1) % 4096 } else x)) ∧
    (s.portState p = portActive → ¬ (x.replaySeq = fseq.toNat ∧ x.replays = 15) → x.replays < 16 →
      completes s (.flitReplay port fseq) fun t => .replay p fseq.toNat ∈ t.out ∧ t.regs = s.regs ∧ t.mem = s.mem ∧
        t.portX p = { x with replaySeq := fseq.toNat, replays := again }) ∧
    (s.portState p = portActive → x.replaySeq = fseq.toNat → x.replays = 15 → completes s (.flitReplay port fseq) fun t =>
      t.portState p = portRetrain ∧ up t (Reg.PORT_RETRAIN_CNT d k) 1) ∧
    (s.portState p = portActive → bitsAt (s.reg ln) lane.toNat 1 = 0 ∨ count.toNat ≤ s.reg (Reg.LANE_CORR_MAX d k) →
      ignored s (.laneRetire port lane count)) ∧
    (s.portState p = portActive → bitsAt (s.reg ln) lane.toNat 1 = 1 → s.reg (Reg.LANE_CORR_MAX d k) < count.toNat →
      let m := goodLanes (putBits (s.reg ln) lane.toNat 1 0)
      completes s (.laneRetire port lane count) fun t => t.mem = s.mem ∧ (t.portX p).lost = true ∧
        if maskCount 16 m < 8 then t.portState p = portDetect ∧ t.reg ln = 0
        else t.portState p = portRetrain ∧ t.reg ln = m ∧ up t (Reg.PORT_RETRAIN_CNT d k) 1)) ∧
  (∀ (s : State) (port : PortId) (bs : List Byte) (h : PktHdr) (ok : Bool) (q v : Nat) (dl det : Bool) (r : FabReq), s.Canonical →
    let p := port.val
    let d := portDie p
    let k := portIx p
    let x := s.portX p
    let rx := Reg.PORT_RX_BYTES d k
    (s.portState p ≠ portActive → ignored s (.packetReceive port bs)) ∧
    (s.portState p = portActive → parseHdr (bs.map BitVec.toNat) = (h, ok) →
      ((ok && h.ok) = false → completes s (.packetReceive port bs) fun t => onlyRegs t s [Reg.PORT_HDR_ERR_CNT d k] ∧
        t.reg (Reg.PORT_HDR_ERR_CNT d k) = min 0xFFFFFFFF (s.reg (Reg.PORT_HDR_ERR_CNT d k) + 1)) ∧
      ((ok && h.ok) = true → h.cls = 3 → x.auth = false → ignored s (.packetReceive port bs)) ∧
      ((ok && h.ok) = true → (h.cls = 3 → x.auth = true) → h.dst = s.ownDev → completes s (.packetReceive port bs) fun t =>
        onlyRegs t s [rx] ∧ t.reg rx = (s.reg rx + h.len) % 2 ^ 64) ∧
      ((ok && h.ok) = true → h.cls ≠ 3 → h.dst ≠ s.ownDev →
        s.route h.dst (some (s.portAxis p)) h.dl h.det = .out q v dl det → q < 8 →
        (s.ownsSlot q h.job = true → s.portState q = portActive → completes s (.packetReceive port bs) fun t => t.mem = s.mem ∧
          .fabric q (rehead { h with vsub := v, dl := dl, det := det } bs) ∈ t.out ∧
          t.reg (Reg.PORT_PASS_BYTES (portDie q) (portIx q)) =
            (s.reg (Reg.PORT_PASS_BYTES (portDie q) (portIx q)) + h.len) % 2 ^ 64) ∧
        (s.ownsSlot q h.job = false → completes s (.packetReceive port bs) fun t => t.mem = s.mem ∧
          t.reg (Reg.PORT_NOSLOT_CNT (portDie q) (portIx q)) =
            min 0xFFFFFFFF (s.reg (Reg.PORT_NOSLOT_CNT (portDie q) (portIx q)) + 1)))) ∧
    (noneDone s → x.lost = false ∨ s.portState p = portActive → ignored s (.linkHoldExpiry port)) ∧
    (noneDone s → x.lost = true → s.portState p ≠ portActive → x.retry = [] → x.held = [] →
      completes s (.linkHoldExpiry port) fun t => t.routeFail p = true ∧ t.mem = s.mem ∧ t.engines = s.engines ∧
        t.portX p = { x with lost := false }) ∧
    (∀ n cq cs, noneDone s → x.lost = true → s.portState p ≠ portActive → x.retry = [(n, bs)] → x.held = [] →
      parseHdr (bs.map BitVec.toNat) = (h, ok) → h.src = s.ownDev → h.cls = 0 →
      (s.setPortFld p 3 1 1).route h.dst none h.dl h.det = .unreachable q →
      s.fab.reqs = [r] → r.is h.sbay h.key h.seq = true → r.st = .sent → r.owner = .step cq cs →
      completes s (.linkHoldExpiry port) fun t => t.routeFail p = true ∧ t.mem = s.mem ∧
        t.fab.reqs = [{ r with port := q, st := .ended St.LINK_DOWN (r.dev + q * 2 ^ 24) 0 [] }]))

/-- REMOTE_REQUEST (R358, R359, R404 to R407): a packet that is not a request for this device does nothing; one for a bay that does
not run, or for another job, is answered so; one that does not open is counted and applied nowhere; a repeated one is
answered as before and applied once; a busy destination asks for a retry; a new WRITE, READ_REQ or SIGNAL is applied and
answered with its status.
Answers and timeouts (R357, R359, R361, R362): an acknowledgement ends its request, a read's response brings its data, a NACK that
allows a retry starts the backoff until FAB_RETRY is spent, a late response is counted; the backoff's end sends the request
again under its SEQ; an attempt that goes unanswered ends with FAB_TIMEOUT. -/
def Obligations.RemoteAccesses : Prop :=
  (∀ (s v : State) (port : PortId) (bs : List Byte) (busy : Bool) (m : Medium) (h : PktHdr) (pl : List Byte) (st : Nat)
    (data : List PByte), s.Canonical →
    let p := port.val
    let e := portDie p
    let b := h.dbay
    let i : Instr := .remoteRequest port bs busy m
    let mine := parseHdr (bs.map BitVec.toNat) = (h, true) ∧ h.ok = true ∧ h.dst = s.ownDev ∧ h.cls = 0 ∧
      (h.type = 0 ∨ h.type = 1 ∨ h.type = 5) ∧ s.dieState e = dieOn
    let event := bitsAt (bytesVal pl) 0 10
    let op := bitsAt (bytesVal pl) 10 2
    let value := bitsAt (bytesVal pl) 16 48
    (∀ g ok, parseHdr (bs.map BitVec.toNat) = (g, ok) → ok = false ∨ g.dst ≠ s.ownDev ∨ g.cls ≠ 0 ∨ s.dieState e ≠ dieOn →
      ignored s i) ∧
    (mine → s.bayState b ≠ bayRunning → exec i s = .next (s.answer p h (.mgmt St.DEST_BAY_DOWN false))) ∧
    (mine → s.bayState b = bayRunning → h.job ≠ s.bayJob b → exec i s = .next (s.answer p h (.mgmt St.JOB_MISMATCH false))) ∧
    (mine → s.bayState b = bayRunning → h.job = s.bayJob b → s.openPkt b h bs = none → completes s i fun t =>
      t.mem = s.mem ∧ t.fab = s.fab ∧ t.engines = s.engines) ∧
    (mine → carries s p bs h pl →
      (s.replay e b h = .stale → exec i s = .next (s.answer p h (.mgmt St.REPLAY_STALE false))) ∧
      (s.replay e b h = .seen (some st) → h.type ≠ 1 → exec i s = .next (s.answer p h (.answered st []))) ∧
      (newSeq s p h → busy = true →
        exec i s = .next ((s.recordSeq e b h none).answer p h (.mgmt St.REMOTE_BUSY true))) ∧
      (newSeq s p h → busy = false → h.type = 5 → op = 1 ∨ op = 2 → unscheduled s b → completes s i fun t => t.mem = s.mem ∧
        t.evt b event = min evtTop (if op = 2 then max (s.evt b event) value else s.evt b event + value) ∧
        ∀ k, k ≠ event → t.evt b k = s.evt b k) ∧
      (newSeq s p h → busy = false → h.type = 0 → s.landing b h.addr pl.length = none →
        s.vaWriteM .dev .device m b h.addr (unpoisoned pl) = (v, .ok) →
        exec i s = .next (((v.mirHosted b h.addr pl.length).recordSeq e b h (some St.OK)).answer p h (.answered St.OK []))) ∧
      (newSeq s p h → busy = false → h.type = 1 → s.vaReadM .dev m b h.addr (32 * h.units) = (v, data, .ok) →
        exec i s = .next ((v.recordSeq e b h (some St.OK)).answer p h (.answered St.OK (data.map pbyte)))))) ∧
  (∀ (s : State) (port : PortId) (bs : List Byte) (h : PktHdr) (pl : List Byte) (r : FabReq) (bay : BayId) (gen : Byte)
    (seq : BitVec 48) (cq cs : Nat), s.Canonical → noneDone s → noneWaiting s → r.owner = .step cq cs →
    let p := port.val
    let st := h.addr % 2 ^ 16
    let i : Instr := .remoteResponse port bs
    let lost : FabSt :=
      .ended St.FAB_TIMEOUT (fabDetail0 St.FAB_TIMEOUT r.dev r.dbay r.port) (s.fld (Reg.FAB_REQ_TIMEOUT_US 20) 0 24) []
    let nack := h.type = 4 ∧ bitsAt h.addr 16 1 = 1
    let answered := parseHdr (bs.map BitVec.toNat) = (h, true) ∧ h.ok = true ∧ h.dst = s.ownDev ∧ h.cls = 1 ∧
      (h.type = 2 ∨ h.type = 3 ∨ h.type = 4) ∧ s.dieState (portDie p) = dieOn ∧
      ∃ ns, s.openPkt h.dbay h bs = some ns ∧ pl = ns.map (BitVec.ofNat 8)
    let timed := r.is bay.val gen.toNat seq.toNat = true ∧ s.fab.reqs = [r]
    (answered → s.fab.reqs = [r] → r.is h.dbay h.key h.seq = true →
      (r.st = .sent →
        (h.type = 3 → st = 0 → completes s i fun t => t.regs = s.regs ∧ t.mem = s.mem ∧
          t.fab.reqs = [{ r with st := .ended St.OK 0 0 [] }]) ∧
        (h.type = 2 → st = 0 → completes s i fun t => t.regs = s.regs ∧ t.mem = s.mem ∧
          t.fab.reqs = [{ r with st := .ended St.OK 0 0 pl }]) ∧
        (nack → r.tries < s.fld (Reg.FAB_RETRY 20) 0 4 → completes s i fun t => t.regs = s.regs ∧
          t.fab.reqs = [{ r with st := .backoff }]) ∧
        (nack → s.fld (Reg.FAB_RETRY 20) 0 4 ≤ r.tries → completes s i fun t => t.regs = s.regs ∧
          t.fab.reqs = [{ r with st := .ended St.RETRY_EXHAUSTED (fabDetail0 St.RETRY_EXHAUSTED r.dev r.dbay r.port) st [] }])) ∧
      (r.st = .backoff → ignored s i)) ∧
    (answered → s.fab.reqs = [] → s.fab.late = [] → ignored s i) ∧
    (answered → s.fab.reqs = [] → s.fab.late = [⟨h.dbay, h.key, h.seq, true⟩] → completes s i fun t =>
      onlyRegs t s [Reg.PORT_LATE_CNT (portDie p) (portIx p)] ∧ t.reg (Reg.PORT_LATE_CNT (portDie p) (portIx p)) =
        min 0xFFFFFFFF (s.reg (Reg.PORT_LATE_CNT (portDie p) (portIx p)) + 1)) ∧
    (timed → r.st = .sent →
      ignored s (.retryBackoffExpiry bay gen seq) ∧
      (r.kind ≠ 3 → completes s (.fabReqTimeout bay gen seq) fun t => t.regs = s.regs ∧ t.mem = s.mem ∧
        t.fab.late = s.fab.late ++ [⟨bay.val, gen.toNat, seq.toNat, false⟩] ∧
        t.fab.reqs = [{ r with st := lost }])) ∧
    (timed → r.st = .backoff →
      ignored s (.fabReqTimeout bay gen seq) ∧
      (reaches s bay.val r.dev → r.kind ≠ 1 → completes s (.retryBackoffExpiry bay gen seq) fun t => t.mem = s.mem ∧
        ∃ r', t.fab.reqs = [r'] ∧ r'.st = .sent ∧ r'.tries = r.tries + 1 ∧ r'.seq = r.seq ∧ r'.data = r.data ∧
          r'.owner = r.owner)))

/-- RIDGE, VALLEY and COLL_TIMEOUT (R377, R379, R380, R388): with an arbiter slot, a group that runs is GROUP_BUSY and an entry that
fails R377 is BAD_GROUP; otherwise the member runs, moves no byte, and READY goes to every peer; a peer that is silent past
the timeout ends the member, and one that has been heard does not.
Arrivals of COLL packets (R380 to R382, R385, R389, R390): a READY that comes before its member waits for it; one that agrees
opens its edge, one that differs ends the member with COLL_MISMATCH; a chunk is written where it belongs; a buffer error
ends the member; the last DONE completes the root, with SUBTREE_FAILED where members failed; an ABORT ends the member. -/
def Obligations.Collectives : Prop :=
  (∀ (s u : State) (r : CmdRef) (c : Cmd) (x : Coll) (bs : List PByte), s.Canonical → c.bay.getD 0 < 16 →
    let b := c.bay.getD 0
    let g := c.p 0 0 6
    let e := groupEntry (bs.map fun y => (pbyte y).toNat)
    let first := if e.root then e.kids.head? else some e.parent
    let home := 20 + ((first.bind u.collPort).getD 0) / 2
    (∀ w ∈ collRows, due s r w.2 c → c.adm = .granted →
      let d0 := g + c.p 1 0 16 * 2 ^ 6 + (if w.2 = 0x29 then 2 ^ 22 else 0)
      (bitsAt (s.reg (Reg.CG_BUSY b)) g 1 = 1 → completes s (w.1 r) fun t => ended t c St.GROUP_BUSY d0 0 ∧
        t.fab = s.fab ∧ t.mem.hbm = s.mem.hbm) ∧
      (bitsAt (s.reg (Reg.CG_BUSY b)) g 1 = 0 →
        s.vaRead (.cmd c.q c.seq) b (s.reg (Reg.CG_TABLE_VA b) + 64 * g) 64 = (u, bs, .ok) → u.findCmd c.q c.seq = some c →
        (e.bad u.ownDev = true → completes s (w.1 r) fun t => ended t c St.BAD_GROUP d0 0 ∧ t.fab = u.fab) ∧
        (e.bad u.ownDev = false → (e.root = true → e.kids ≠ []) →
          collFieldBad (decide (w.2 = 0x28)) (decide (c.p 0 10 1 = 1)) e.root (c.p64 2) (c.p64 4) (c.p 6 0 32) = none →
          u.dieRefuses home = none → u.featMissing e.feat e.peers = none → (∀ p ∈ e.peers, reaches u b p.1) →
          (∀ y ∈ u.fab.early, y.bay ≠ b) → (∀ y ∈ u.fab.colls, ¬ (y.q = c.q ∧ y.seq = c.seq)) →
          u.reqsOf (.coll c.q c.seq) = [] → u.fab.reqs = [] →
          completes s (w.1 r) fun t => t.findCmd c.q c.seq = some { c with ran := true } ∧ t.mem = u.mem ∧
            t.engines = u.engines ∧ t.fab.colls = u.fab.colls ++ [u.newColl c e home] ∧ bitsAt (t.reg (Reg.CG_BUSY b)) g 1 = 1 ∧
            t.fab.reqs.map (fun y => (y.dev, y.dbay, y.kind, y.owner)) =
              e.peers.map (fun p => (p.1, p.2, 3, .coll c.q c.seq)) ∧ ∀ y ∈ t.fab.reqs, y.st = .sent))) ∧
    (s.fab.colls = [] → ignored s (.collTimeout r)) ∧
    (s.fab.colls = [x] → x.q = r.q.val → x.seq = r.seq.toNat →
      (x.limit = none ∨ s.silentPeer x = none → ignored s (.collTimeout r)) ∧
      (∀ n, x.limit = some n → s.now < x.heard + n → ignored s (.collTimeout r)) ∧
      (∀ n p, x.limit = some n → x.heard + n ≤ s.now → s.silentPeer x = some p → x.bay < 16 →
        s.findCmd x.q x.seq = some c → completes s (.collTimeout r) fun t =>
          collOver t s x c St.COLL_TIMEOUT x.detail0 p.1))) ∧
  (∀ (s u : State) (port : PortId) (bs : List Byte) (h : PktHdr) (pl : List Byte) (c : Coll) (x : Nat × Nat) (cmd : Cmd),
    s.Canonical → u.findCmd c.q c.seq = some cmd → c.bay < 16 → 20 ≤ c.home → c.home < 24 →
    let p := port.val
    let w := bytesVal (pl.take 4)
    let n := bytesVal ((pl.drop 4).take 4)
    (arrives s u p bs 0 h pl →
      (u.collOf h = none → u.collLateOf h = none → u.fab.early = [] → completes s (.collReady port bs) fun t =>
        t = { u with fab := { u.fab with early := [⟨h.dbay, hdrGtag h, hdrId h, (h.src, h.sbay), w, n⟩] } }) ∧
      (member u h c x → c.agrees (hdrId h) w n = false → completes s (.collReady port bs) fun t =>
        collOver t u c cmd St.COLL_MISMATCH c.detail0 x.1) ∧
      (let y := { c with heard := u.now, ready := c.ready ++ [x] }
       member u h c x → c.agrees (hdrId h) w n = true → x ∉ c.ready → idleColl u y →
        u.collOwnDone y = false ∨ c.dones.length ≠ c.kids.length →
        completes s (.collReady port bs) fun t => t.regs = u.regs ∧ t.mem = u.mem ∧
          t.fab = { u.fab with colls := collsWith u c y })) ∧
    (∀ k v, arrives s u p bs 1 h pl → member u h c x → c.ridge = true → c.parent = some x → c.kids = [] → idleColl u c →
      c.written = [] → c.dones = [] → c.own = none → k = bitsAt h.addr 35 22 → k < c.chunks → 2 ≤ c.chunks → c.chunkLen k = pl.length →
      u.areaModel c.bay ((c.dst + 4096 * k) / 65536) = none →
      let y := { c with heard := u.now, writes := [(k, unpoisoned pl)] }
      (u.setColl y).vaWriteM (.cmd c.q c.seq) .bay .good c.bay (c.dst + 4096 * k) (unpoisoned pl) = (v, .ok) →
      v.fab = (u.setColl y).fab →
      completes s (.collData port bs false .good .good) fun t => t.mem = v.mem ∧ t.engines = v.engines ∧
        t.fab.colls = collsWith u c { y with writes := [], written := [k] } ∧ t.fab.reqs = u.fab.reqs ∧
        t.reg (Reg.RU_BYTES_OUT c.home) = (v.reg (Reg.RU_BYTES_OUT c.home) + pl.length) % 2 ^ 64) ∧
    (arrives s u p bs 1 h pl → member u h c x → u.dieState c.home = dieOn →
      ∃ d0, completes s (.collData port bs false .uncorrectable .good) fun t =>
        ended t cmd St.SRAM_UNCORRECTABLE d0 0 ∧ t.mem.hbm = u.mem.hbm ∧
          t.reg (Reg.RU_UNCORR_CNT c.home) = min 0xFFFFFFFF (u.reg (Reg.RU_UNCORR_CNT c.home) + 1)) ∧
    (arrives s u p bs 2 h pl → member u h c x → idleColl u c → c.parent = none → c.own = none → c.dones = [] →
      let below := bytesVal (pl.take 3)
      (2 ≤ c.kids.length → completes s (.collDone port bs) fun t => t.regs = u.regs ∧ t.mem = u.mem ∧
        t.fab.colls = collsWith u c { c with heard := u.now, dones := [(x, below, bytesVal ((pl.drop 4).take 2))] }) ∧
      (c.kids = [x] → u.collOwnDone c = true → completes s (.collDone port bs) fun t =>
        if below = 0 then collOver t u c cmd St.OK 0 0 else collOver t u c cmd St.SUBTREE_FAILED c.detail0 below)) ∧
    (arrives s u p bs 3 h pl → member u h c x → completes s (.collAbort port bs) fun t =>
      collOver t u c cmd St.PEER_ABORTED c.detail0 (bytesVal (pl.take 3))) ∧
    (∀ q ok, parseHdr (bs.map BitVec.toNat) = (q, ok) → ok = false ∨ q.dst ≠ s.ownDev ∨ q.cls ≠ 2 →
      ignored s (.collReady port bs) ∧ ignored s (.collDone port bs) ∧ ignored s (.collAbort port bs) ∧
      ∀ a m m', ignored s (.collData port bs a m m')))

/-- Global time (R368 to R371, R504): an exchange is heeded only on the link in use of a follower, ACTIVE and authenticated; an offset
beyond 4 ns slews by 200 ppm toward the parent and steps nothing; the sixteenth in a row within 4 ns locks; a first lock
before any bay may step; a parent that is lost gives way to the fallback, or to holdover; the PPS output is high for
100 us of each second. -/
def Obligations.GlobalTime : Prop :=
  ∀ (s : State) (port : PortId) (offset delay : BitVec 32) (depth : Byte), s.Canonical →
    let p := port.val
    let i : Instr := .timeExchange port offset delay depth
    let off := offset.toInt
    let heeds := s.timeRole = 1 ∧ s.portState p = portActive ∧ (s.portX p).auth = true ∧ s.timePort p = true
    let steps := s.fab.locked = false ∧ s.timeState = timeUnlocked ∧ s.anyBayUp = false
    let used := if s.altInUse then s.fld Reg.TIME_CFG 5 3 else s.fld Reg.TIME_CFG 2 3
    let spare := s.altInUse = false ∧ s.fld Reg.TIME_CFG 8 1 = 1 ∧ s.portState (s.fld Reg.TIME_CFG 5 3) = portActive
    (¬ heeds → ignored s i) ∧
    (heeds → ¬ steps → off < -64 ∨ 64 < off → completes s i fun t => t = { s with regs := t.regs, fab := t.fab } ∧
      t.fab.exch = 0 ∧ t.reg Reg.TIME_OFFSET = int32 off ∧ t.reg Reg.TIME_DELAY = delay.toNat ∧
      t.reg Reg.TIME_RATE = int32 (if 64 < off then 200000 else -200000) ∧
      t.fld Reg.TIME_STATUS 8 8 = min 255 (depth.toNat + 1) ∧
      t.timeState = if s.timeState = timeUnlocked then timeAcquiring else s.timeState) ∧
    (heeds → ¬ steps → -64 ≤ off → off ≤ 64 → 15 ≤ s.fab.exch → s.timeState ≠ timeLocked → completes s i fun t =>
      t.timeState = timeLocked ∧ t.reg Reg.TIME_LOCK_KTIME = s.now ∧ t.ktime = s.ktime ∧ t.fab.exch = 16 ∧ memoryStands t s) ∧
    (heeds → steps → completes s i fun t => t.ktime = s.ktime + BitVec.ofInt 64 ((off + 8) / 16) ∧
      t.fld Reg.TIME_STATUS 3 1 = 1 ∧ memoryStands t s) ∧
    (s.timeRole ≠ 2 → ignored s .ppsEdge) ∧
    (s.timeRole = 2 → completes s .ppsEdge fun t => t.ktime = s.ktime ∧ t.fld Reg.TIME_STATUS 8 8 = 0 ∧ memoryStands t s ∧
      (s.now % 1000000000 < 100000000 → t.reg Reg.TIME_OFFSET = int32 (-(16 * (s.now % 1000000000 : Nat) : Int)))) ∧
    (s.timeRole ≠ 1 ∨ s.portState used = portActive ∨ s.timeState = timeHoldover → ignored s .timeParentLoss) ∧
    (s.timeRole = 1 → s.portState used ≠ portActive → s.timeState ≠ timeHoldover → completes s .timeParentLoss fun t =>
      t.fab = { s.fab with exch := 0 } ∧ t.ktime = s.ktime ∧ memoryStands t s ∧
      (spare → t.altInUse = true ∧ t.timeState = s.timeState) ∧
      (¬ spare → t.timeState = timeHoldover ∧ t.reg Reg.TIME_HOLDOVER_CNT = min 0xFFFFFFFF (s.reg Reg.TIME_HOLDOVER_CNT + 1))) ∧
    (let high := s.fld Reg.TIME_CFG 9 1 = 1 ∧ s.pins.hold = false ∧ s.now % 1000000000 < 100000
     completes s .timePpsOutput fun t => t = { s with pins := { s.pins with pps := t.pins.pps } } ∧
       t.pins.pps = if high then some (s.now - s.now % 1000000000) else none)

/-! ### Trust, recovery and power -/

/-- BAY_SEAL (R399 to R402): only for a bay in BUILDING; the seal nonce lapses with every attempt; a package for another nonce, one that
does not open, or a job that another bay has, seals nothing; one that opens makes the bay RUNNING and SEALED under its
keys, its job and its consent word.
ATTEST (R399, R403, R404, R410): the row that OP does not name has no effect; REPORT and SEAL_NONCE of an admin queue write their
records through the queue's host link; a tenant's operation needs a MAC and a rising OP_SEQ, else MAC_FAIL and nothing
changes; ROTATE_LINK starts the next generation at SEQ 0. -/
def Obligations.SealsAndAttestation : Prop :=
  (∀ (s : State) (r : CmdRef) (c : Cmd) (jmk : List Nat), s.Canonical → due s r 0x41 c →
    let b := c.p 0 0 4
    let job := c.p 1 0 16
    let nonce := c.pbytes 3 8
    let taken := job = 0 ∨ ∃ x ∈ s.otherBays b, s.bayJob x = job
    let fails (st d0 : Nat) : Prop := completes s (.baySeal r) fun t => ended t c st d0 0 ∧ memoryStands t s ∧
      onlyRegs { t with cq := s.cq, sec := s.sec } s [Reg.BAY_SEC b] ∧ t.bayKeys b = { s.bayKeys b with nonce := none } ∧
      t.bayState b = s.bayState b
    (s.bayState b ≠ bayBuilding → completes s (.baySeal r) fun t => onlyEnds t s c St.POLICY 7 0) ∧
    (s.bayState b = bayBuilding → (s.bayKeys b).nonce ≠ some nonce → fails St.SEAL_NONCE 0) ∧
    (s.bayState b = bayBuilding → (s.bayKeys b).nonce = some nonce → s.unwrap c = none → fails St.SEAL_FAIL 0) ∧
    (s.bayState b = bayBuilding → (s.bayKeys b).nonce = some nonce → s.unwrap c = some jmk → taken →
      fails St.POLICY (refusalDetail 7 0)) ∧
    (s.bayState b = bayBuilding → (s.bayKeys b).nonce = some nonce → s.unwrap c = some jmk → ¬ taken →
      completes s (.baySeal r) fun t => ended t c St.OK 0 0 ∧ memoryStands t s ∧ t.bayState b = bayRunning ∧
        t.reg (Reg.BAY_SEC b) = 1 + job * 2 ^ 16 ∧ t.reg (Reg.BAY_CONSENT b) = c.p 2 0 32 ∧
        t.reg (Reg.BAY_OP_SEQ b) = 0 ∧ t.reg (Reg.BAY_TX_SEQ b) = 0 ∧ t.reg (Reg.BAY_SEAL_KTIME b) = s.now ∧
        (t.bayKeys b).jmk = some jmk ∧ (t.bayKeys b).nonce = none ∧ (t.bayKeys b).pubs = [] ∧
        ∀ x, x ≠ b → t.bayKeys x = s.bayKeys x)) ∧
  (∀ (s : State) (r : CmdRef) (c : Cmd), s.Canonical → due s r 0x38 c →
    let b := c.p 0 4 4
    let k := s.bayKeys b
    let new := c.pkey 16
    let link := s.fld (Reg.Q_CFG c.q) 20 1
    let opens := s.linkUp link = true ∧ s.ccActive = false
    let held := ∃ x ∈ k.pubs, keyId x = keyId new
    (c.p 0 0 4 ≠ 0 → ignored s (.attestReport r)) ∧ (c.p 0 0 4 ≠ 1 → ignored s (.attestSealNonce r)) ∧
    (c.p 0 0 4 ≠ 2 → ignored s (.attestAddPubkey r)) ∧ (c.p 0 0 4 ≠ 3 → ignored s (.attestSetConsent r)) ∧
    (c.p 0 0 4 ≠ 4 → ignored s (.attestRotateLink r)) ∧
    (c.p 0 0 4 = 0 → c.bay = none → opens → completes s (.attestReport r) fun t => ended t c St.OK 0 0 ∧ memoryStands t s ∧
      ∃ sig, .hostWrite link (c.p64 1) (wordsBytes (s.reportWords (if c.p 0 8 1 = 1 then none else some b)
        ((List.range 8).map fun i => c.p (3 + i) 0 32) ++ wordsOf sig)) ∈ t.out) ∧
    (c.p 0 0 4 = 1 → s.bayState b ≠ bayBuilding → completes s (.attestSealNonce r) fun t => onlyEnds t s c St.POLICY 7 0) ∧
    (c.p 0 0 4 = 1 → s.bayState b = bayBuilding → s.trngOk = false →
      completes s (.attestSealNonce r) fun t => onlyEnds t s c St.ENTROPY_FAIL 0 0) ∧
    (c.p 0 0 4 = 1 → s.bayState b = bayBuilding → s.trngOk = true → c.bay = none → opens →
      completes s (.attestSealNonce r) fun t => ended t c St.OK 0 0 ∧ memoryStands t s ∧ t.fld (Reg.BAY_SEC b) 2 1 = 1 ∧
        (∃ n, (t.bayKeys b).nonce = some n ∧ n.length = 32) ∧ (t.bayKeys b).jmk = k.jmk ∧ t.bayState b = bayBuilding) ∧
    (c.p 0 0 4 = 2 ∨ c.p 0 0 4 = 3 → s.tenantOk c = false →
      completes s (if c.p 0 0 4 = 2 then .attestAddPubkey r else .attestSetConsent r) fun t =>
        onlyEnds t s c St.MAC_FAIL 0 (s.reg (Reg.BAY_OP_SEQ b) % 2 ^ 32)) ∧
    (c.p 0 0 4 = 2 → s.tenantOk c = true → completes s (.attestAddPubkey r) fun t => t.reg (Reg.BAY_OP_SEQ b) = c.p64 40 ∧
      memoryStands t s ∧ (held → ended t c St.OK 0 0 ∧ t.sec = s.sec) ∧
      (¬ held → 8 ≤ k.pubs.length → ended t c St.KEY_TABLE_FULL 0 0 ∧ t.sec = s.sec) ∧
      (¬ held → k.pubs.length < 8 → ended t c St.OK 0 0 ∧ t.bayKeys b = { k with pubs := k.pubs ++ [new] } ∧
        t.fld (Reg.BAY_SEC b) 12 4 = k.pubs.length + 1)) ∧
    (c.p 0 0 4 = 3 → s.tenantOk c = true → completes s (.attestSetConsent r) fun t => ended t c St.OK 0 0 ∧ memoryStands t s ∧
      t.reg (Reg.BAY_OP_SEQ b) = c.p64 40 ∧ t.reg (Reg.BAY_CONSENT b) = c.p 16 0 32 ∧ t.sec = s.sec ∧
      t.reg (Reg.BAY_CONSENT_EVER b) = s.reg (Reg.BAY_CONSENT_EVER b) ||| c.p 16 0 32) ∧
    (c.p 0 0 4 = 4 → completes s (.attestRotateLink r) fun t => ended t c St.OK 0 0 ∧ memoryStands t s ∧
      t.txGen b = (s.txGen b + 1) % 256 ∧ t.reg (Reg.BAY_TX_SEQ b) = 0 ∧ t.bayJob b = s.bayJob b ∧ t.sec = s.sec))

/-- Entropy, tamper, the device scrub and the scan port (R395, R414, R419, R420): a failed health test clears TRNG_OK until two passes
in a row; a tamper is counted and scrubs the device; a scrub clears every die that is ON and zeroises the keys of every
bay, and starts once; EXTEST waits for the scrub of sealed bays; a debug instruction needs the consent of the die's bay. -/
def Obligations.Tampering : Prop :=
  ∀ (s : State) (pass : Bool) (kind : Fin 3) (die : DieId), s.Canonical →
    let a := Reg.GR_STATUS
    let scrubs (t : State) (cause : Nat) : Prop := t.reg Reg.DSCRUB_STATUS = 1 + cause * 4 ∧ t.sec.scrub = true ∧
      ∀ b, b < 16 → s.bayState b ≠ bayFree → t.bayKeys b = BayKeys.none ∧ t.bayState b = bayTeardown
    let on := s.sec.scrub = false ∧ ∃ d, d < 20 ∧ s.dieState d = dieOn
    let sealed_ := ∃ b, b < 16 ∧ s.fld (Reg.BAY_SEC b) 0 2 = 1
    let reaches_ := ∀ b, s.bayOfDie die.val = some b → s.fld (Reg.BAY_CONSENT b) 3 1 = 1
    (completes s .trngHealthFail fun t => t = { s with regs := t.regs, sec := { s.sec with passes := 0 } } ∧
      regsBut t s [a, Reg.TRNG_FAIL_CNT] ∧ t.trngOk = false ∧
      t.reg Reg.TRNG_FAIL_CNT = min 0xFFFFFFFF (s.reg Reg.TRNG_FAIL_CNT + 1)) ∧
    (s.trngOk = true → ignored s (.trngRetest pass)) ∧
    (s.trngOk = false → completes s (.trngRetest false) fun t => t.trngOk = false ∧
      t = { s with regs := t.regs, sec := { s.sec with passes := 0 } }) ∧
    (s.trngOk = false → s.sec.passes = 0 → completes s (.trngRetest true) fun t =>
      t = { s with sec := { s.sec with passes := 1 } }) ∧
    (s.trngOk = false → s.sec.passes ≠ 0 → completes s (.trngRetest true) fun t => t.trngOk = true ∧
      t = { s with regs := t.regs, sec := { s.sec with passes := 0 } }) ∧
    (s.pins.hold = true → ignored s (.tamperDetect kind)) ∧
    (s.pins.hold = false → completes s (.tamperDetect kind) fun t => t.fld Reg.TAMPER_STATUS kind.val 1 = 1 ∧
      t.reg Reg.TAMPER_CNT = min 0xFFFFFFFF (s.reg Reg.TAMPER_CNT + 1) ∧ (on → scrubs t 1)) ∧
    (s.apexUp = false ∨ s.sec.scrub = true → ignored s .dscrubStart) ∧
    (s.apexUp = true → on → completes s .dscrubStart fun t => scrubs t 0) ∧
    (¬ sealed_ → completes s .scanExtest fun t => t = { s with pins := { s.pins with extest := 2 } }) ∧
    (sealed_ → on → completes s .scanExtest fun t => t.pins.extest = 1 ∧ scrubs t 2) ∧
    (reaches_ → completes s (.scanDebugInstruction die) fun t =>
      t = { s with pins := { s.pins with scan := putBits s.pins.scan die.val 1 1 } }) ∧
    (¬ reaches_ → ignored s (.scanDebugInstruction die))

/-- The SPDM responder (R409, R410, R412): an endpoint that is not up gets no answer; while Grithal is away, the request is kept and
answered with ResponseNotReady and a token, with which it is answered later; the negotiation goes stage by stage, and a
request out of its stage is an error. -/
def Obligations.SpdmRequests : Prop :=
  ∀ (s : State) (e : BitVec 2) (sign hash dhe aead mac : Bool) (slot : BitVec 4) (off len : W16) (nonce : BitVec 256) (index : Byte)
    (x y : BitVec 384) (sid : W16) (id : W32) (token : Byte) (req : SpdmReq) (n : Nat), s.Canonical →
    let ep := e.toNat
    let c := s.spdm ep
    let away := s.epUp ep = true ∧ s.grithalReady = false
    let ready := s.epUp ep = true ∧ s.grithalReady = true
    let sent (i : Instr) (P : SpdmRsp → Prop) : Prop :=
      completes s i fun t => memoryStands t s ∧ t.regs = s.regs ∧ ∃ m, P m ∧ t.out = s.out ++ [.spdm ep m]
    let closed : Spdm := { c with session := none, live := false, secret := 0, peer := none }
    (s.epUp ep = false → (∀ w ∈ spdmRows, ignored s (w.1 e)) ∧ ignored s (.respondIfReady e token)) ∧
    (away → ∀ w ∈ spdmRows, completes s (w.1 e) fun t =>
      t.out = s.out ++ [.spdm ep (.error spdmNotReady 17 (some s.sec.tokens))] ∧ t.regs = s.regs ∧ memoryStands t s ∧
      (t.spdm ep).deferred = some (s.sec.tokens, w.2) ∧ t.sec.tokens = (s.sec.tokens + 1) % 256) ∧
    (ready → answers s (.getVersion e) ep { closed with stage := 1 } (.version 3)) ∧
    (ready → c.stage = 1 → answers s (.getCapabilities e) ep { c with stage := 2 } .capabilities) ∧
    (ready → c.stage ≠ 1 → spdmRefuses s (.getCapabilities e) ep spdmUnexpected) ∧
    (ready → c.stage = 2 → answers s (.negotiateAlgorithms e sign hash dhe aead) ep { c with stage := 3 }
      (.algorithms sign hash dhe aead)) ∧
    (ready → c.stage ≠ 2 → spdmRefuses s (.negotiateAlgorithms e sign hash dhe aead) ep spdmUnexpected) ∧
    (ready → c.stage ≠ 3 → spdmRefuses s (.getDigests e) ep spdmUnexpected ∧
      spdmRefuses s (.getCertificate e slot off len) ep spdmUnexpected ∧ spdmRefuses s (.challenge e slot nonce) ep spdmUnexpected ∧
      spdmRefuses s (.getMeasurements e index sign nonce) ep spdmUnexpected ∧
      spdmRefuses s (.keyExchange e x y sid) ep spdmUnexpected) ∧
    (ready → c.stage = 3 →
      sent (.getDigests e) (fun m => m = .digests 1 (sha384 s.certs)) ∧
      (slot = 0 → off.toNat < s.certs.length → sent (.getCertificate e slot off len) fun m =>
        ∃ k, m = .certificate 0 ((s.certs.drop off.toNat).take len.toNat) k) ∧
      (slot = 0 → s.trngOk = true → sent (.challenge e slot nonce) fun m => ∃ q sig, m = .challengeAuth 0 (sha384 s.certs) q sig) ∧
      (s.trngOk = false → slot = 0 → spdmRefuses s (.challenge e slot nonce) ep spdmUnspecified) ∧
      (∀ bs, s.measBlocks index.toNat = some bs → sent (.getMeasurements e index false nonce) fun m => m = .measurements bs [] []) ∧
      (s.measBlocks index.toNat = none → spdmRefuses s (.getMeasurements e index sign nonce) ep spdmInvalidRequest) ∧
      (onCurve x.toNat y.toNat = false → spdmRefuses s (.keyExchange e x y sid) ep spdmInvalidRequest) ∧
      (onCurve x.toNat y.toNat = true → c.session = none → s.trngOk = true → completes s (.keyExchange e x y sid) fun t =>
        memoryStands t s ∧ t.regs = s.regs ∧ (t.spdm ep).live = false ∧ ∃ z pub sig, (t.spdm ep).session = some z ∧
          z % 2 ^ 16 = sid.toNat ∧ t.out = s.out ++ [.spdm ep (.keyExchange z pub sig)])) ∧
    (ready → c.session = some id.toNat → c.live = false →
      answers s (.finish e id true none) ep { c with live := true, peer := none } .finish ∧
      spdmRefuses s (.finish e id false none) ep spdmDecrypt ∧ spdmRefuses s (.endSession e id) ep spdmInvalidSession) ∧
    (ready → c.session = some id.toNat → c.live = true → answers s (.endSession e id) ep closed .endSessionAck) ∧
    (s.epUp ep = true → c.deferred = none → spdmRefuses s (.respondIfReady e token) ep spdmUnexpected) ∧
    (s.epUp ep = true → c.deferred = some (n, req) → n ≠ token.toNat →
      spdmRefuses s (.respondIfReady e token) ep spdmInvalidRequest) ∧
    (ready → c.deferred = some (token.toNat, req) → exec (.respondIfReady e token) s =
      .next ((s.setSpdm { c with deferred := none }).spdmAnswer ep req))

/-- Die power operations (R432 to R434, Table 15-4): one that Table 15-4 or the requester's rights do not allow sets its bit of
DIE_PCTRL_REFUSED and does nothing else; CLOSE closes the die, OPEN opens it with both thresholds armed, POWER_ON and
PARTIAL_RESET put it in reset under a new incarnation with its engines cleared; a closed die that is idle is DRAINED, at
the latest by the drain limit. -/
def Obligations.DiePower : Prop :=
  ∀ (s : State) (by_ : Agent) (die : DieId) (cd : CDie), s.Canonical →
    let d := die.val
    let a := Reg.DIE_PCTRL_REFUSED
    (∀ w ∈ dieOps, d = 24 ∨ s.apexUp = false → ignored s (w.1 by_ die)) ∧
    (∀ w ∈ dieOps, d < 24 → s.apexUp = true → ¬ mayPower s by_ d w.2 → completes s (w.1 by_ die) fun t =>
      onlyRegs t s [a] ∧ t.fld a d 1 = 1) ∧
    (d < 24 → s.apexUp = true →
      (mayPower s by_ d 1 → completes s (.closeDie by_ die) fun t => t.dieState d = dieClosed ∧ t.dieOp d = ⟨1, false, s.now⟩ ∧
        memoryStands t s ∧ t.cq = s.cq ∧ t.fld a d 1 = 0) ∧
      (mayPower s by_ d 2 → completes s (.offDie by_ die) fun t => t.dieState d = dieDrained ∧ t.dieOp d = ⟨2, false, s.now⟩ ∧
        memoryStands t s ∧ t.cq = s.cq ∧ t.fld a d 1 = 0) ∧
      (mayPower s by_ d 3 → completes s (.openDie by_ die) fun t => t.dieState d = dieOn ∧ t.dieOp d = .none ∧ memoryStands t s ∧
        t.fld (Reg.ERC_WM_STATUS d 0) 0 1 = 1 ∧ t.fld (Reg.ERC_WM_STATUS d 1) 0 1 = 1) ∧
      (mayPower s by_ d 4 → completes s (.powerOn by_ die) fun t => t.dieState d = dieInReset ∧ t.dieOp d = ⟨4, false, s.now⟩ ∧
        t.incarn d = (s.incarn d + 1) % 256 ∧ ∀ p, p < 64 → t.eng d p = Engine.zero) ∧
      (mayPower s by_ d 5 → completes s (.partialReset by_ die) fun t => t.dieState d = dieInReset ∧
        t.dieOp d = ⟨5, false, s.now⟩ ∧ t.incarn d = (s.incarn d + 1) % 256 ∧
        ∀ p, p < 64 → t.eng d p = Engine.zero)) ∧
    (s.dieState cd.val ≠ dieClosed → ignored s (.dieDrained cd) ∧ ignored s (.drainLimitExpiry cd)) ∧
    (s.dieState cd.val = dieClosed → s.dieIdle cd.val = false → ignored s (.dieDrained cd)) ∧
    (s.dieState cd.val = dieClosed → s.dieIdle cd.val = true → (s.dieOp cd.val).loss = false →
      completes s (.dieDrained cd) fun t => t.dieState cd.val = dieDrained ∧ t.dieOp cd.val = .none ∧ memoryStands t s) ∧
    (s.dieState cd.val = dieClosed → s.now < (s.dieOp cd.val).start + 10000 → ignored s (.drainLimitExpiry cd)) ∧
    (s.dieState cd.val = dieClosed → (s.dieOp cd.val).start + 10000 ≤ s.now → (s.dieOp cd.val).loss = false →
      completes s (.drainLimitExpiry cd) fun t => t.dieState cd.val = dieDrained ∧ memoryStands t s ∧
        ∀ q ∈ t.mesh.reqs, q.dst.val ≠ cd.val) ∧
    ((s.dieOp d).op = 0 ∨ (s.dieOp d).op = 1 → ignored s (.diePowerOpDone die)) ∧
    ((s.dieOp d).op = 2 → (s.dieOp d).loss = false → completes s (.diePowerOpDone die) fun t => t.dieState d = dieOff ∧
      ∀ p, p < 64 → t.eng d p = Engine.zero) ∧
    ((s.dieOp d).op = 4 → d < 20 → completes s (.diePowerOpDone die) fun t => t.dieState d = dieOn ∧ t.dieOp d = .none ∧
      memoryStands t s ∧ ∀ l, l < 48 → s.physOf d l < 52 → t.pwr d (s.physOf d l) = 3) ∧
    ((s.dieOp d).op = 5 → 20 ≤ d → d < 24 → s.handlingOf d = none → completes s (.diePowerOpDone die) fun t =>
      t.dieState d = dieOn ∧ t.dieOp d = .none ∧ memoryStands t s ∧ t.reg (Reg.HBM_STATUS d 0) = 0x3D)

/-- Error FIFO, error-rate counter and the handling of faults (R424, R427, R436 to R443): a pop takes the oldest record of a die that
is ON; a tick takes the bias; ARM sets the latch anew, DISARM clears it; a tested engine that passes is cleared with the
lost code; one that fails is marked FAILED and its place is taken by a spare; an edge die that does not return in 1 ms
takes the device to DEVICE level. -/
def Obligations.FaultHandling : Prop :=
  ∀ (s : State) (die : DieId) (cd : CDie) (eng : PhysEng) (ed : EDie) (failing : Bool) (x : EngTest) (ok : Bool), s.Canonical →
    let d := die.val
    let n := if failing then 1 else 0
    let p := eng.val
    let e := s.eng cd.val p
    let g := 20 + ed.val
    (s.dieState d ≠ dieOn → ignored s (.errFifoPop die) ∧ ignored s (.ercArm die failing) ∧ ignored s (.ercDisarm die failing)) ∧
    (s.dieState d = dieOn → completes s (.errFifoPop die) fun t => t = { s with flt := t.flt } ∧
      (t.domain d).fifo = (s.domain d).fifo.drop 1 ∧ ∀ k, k ≠ d → t.domain k = s.domain k) ∧
    (s.domainLive d = false → ignored s (.ercTick die)) ∧
    (s.domainLive d = true → completes s (.ercTick die) fun t => onlyRegs t s [Reg.ERC d] ∧
      t.reg (Reg.ERC d) = s.reg (Reg.ERC d) - s.fld (Reg.ERC_CFG d) 0 16) ∧
    (s.dieState d = dieOn → s.reg (Reg.ERC d) ≤ s.ercThr d n → completes s (.ercArm die failing) fun t =>
      t = { s with regs := t.regs } ∧ t.reg (Reg.ERC_WM_STATUS d n) = 1 ∧ t.reg (Reg.ERC_WM_FIRST_KTIME d n) = 0 ∧
        t.reg (Reg.ERC_WM_EXTREME d n) = s.reg (Reg.ERC d)) ∧
    (s.dieState d = dieOn → completes s (.ercDisarm die failing) fun t => t = { s with regs := t.regs } ∧
      t.reg (Reg.ERC_WM_STATUS d n) = 0 ∧ t.fld (if failing then Reg.HM_STATUS else Reg.HM_DEGRADED) d 1 = 0) ∧
    ((∀ t ∈ s.flt.tests, t.die ≠ cd.val) → ∀ pass, ignored s (.engineTestDone cd eng pass ok)) ∧
    (s.flt.tests = [x] → x.die = cd.val → x.phys = p → x.replaying = false → x.failed = none → x.held = [] → e.iq = [] →
      (completes s (.engineTestDone cd eng true ok) fun t => t.flt.tests = [] ∧ t.mem = s.mem ∧
        t.eng cd.val p =
          { Engine.zero with lost := true, evFlags := e.evFlags, progs := e.progs, resident := e.resident } ∧
        ∀ d' p', engKey d' p' ≠ engKey cd.val p → t.eng d' p' = s.eng d' p') ∧
      (x.log = 0x3F → completes s (.engineTestDone cd eng false ok) fun t => t.flt.tests = [] ∧ t.engFailed cd.val p = true ∧
        t.mem = s.mem) ∧
      (∀ q rest, x.log < 48 → ((s.setFailed cd.val p).setSpare cd.val x.log 0x3F).spares cd.val = q :: rest → ok = true →
        completes s (.engineTestDone cd eng false ok) fun t => t.engFailed cd.val p = true ∧ t.physOf cd.val x.log = q ∧
          t.pwr cd.val q = 2 ∧ t.flt.tests = [] ∧ t.mem = s.mem)) ∧
    (s.dieState g = dieOn ∨ s.now < (s.dieOp g).start + 1000000 ∨ s.handlingOf g = none → ignored s (.edgeReturnTimeout ed)) ∧
    (∀ h, s.dieState g ≠ dieOn → (s.dieOp g).start + 1000000 ≤ s.now → s.handlingOf g = some h → h.level = 3 →
      completes s (.edgeReturnTimeout ed) fun t => memoryStands t s ∧ ∃ k, t.handlingOf g = some k ∧ k.level = 5 ∧ k.todo = true)

/-- Resets and boot (R396, R397, R489, R505, R506, R508, R517): PKG_RESET_N and TEST_EN put everything but the island, its flash, its
fuses and the waiting commands at its reset value; the device leaves reset when nothing holds it; a boot brings up every
compute and edge die with the accepted image, or ends in RECOVERY without one.
Rails, reference clocks and temperature (R496 to R503, R511 to R513): PWR_STATUS follows the rails, with SEQ for one that rises
early; VDD_AON takes everything with it; a lost REFCLK_FAB retrains the ACTIVE ports; a thermal emergency holds every
die at 1,200 MHz until it is released; a trip disables the ports and stops the clocks. -/
def Obligations.PowerAndReset : Prop :=
  (∀ (s : State) (clocks : BitVec 4) (expect : Byte) (addr : BitVec 24) (dims : BitVec 26) (tags : Bool) (bad : BitVec 20) (n : Nat),
    s.Canonical →
    let cleared (t : State) : Prop := t.mem = State.reset.mem ∧ t.engines = State.reset.engines ∧ t.lofts = State.reset.lofts ∧
      t.cq = State.reset.cq ∧ t.ktime = State.reset.ktime ∧ t.fab = State.reset.fab ∧ t.rt = State.reset.rt ∧ t.kv = State.reset.kv ∧
      t.pending = s.pending ∧ t.pins.hold = true ∧
      ∀ a, keptByReset a = false → a ≠ Reg.TAMPER_STATUS → t.reg a = State.reset.reg a
    let go (p : Pins) : Pins := if p.resetLow ∨ p.testEn ∨ p.aonLost ∨ bitsAt p.noClock 0 1 = 1 then p
      else { p with hold := false, booting := true }
    let boot : Instr := .bootComplete expect addr dims tags bad
    (completes s .pkgResetAssert fun t => cleared t ∧ t.pins.resetLow = true) ∧
    (s.pins.resetLow = false → ignored s (.pkgResetRelease clocks)) ∧
    (s.pins.resetLow = true → completes s (.pkgResetRelease clocks) fun t =>
      t = { s with pins := go { s.pins with resetLow := false, noClock := 15 - clocks.toNat } }) ∧
    (completes s .testEnAssert fun t => cleared t ∧ t.pins.testEn = true ∧ t.fld Reg.TAMPER_STATUS 3 1 = 1) ∧
    (s.pins.testEn = false → ignored s .testEnRelease) ∧
    (s.pins.testEn = true → completes s .testEnRelease fun t => t = { s with pins := go { s.pins with testEn := false } }) ∧
    (s.pins.hold = true ∨ s.pins.booting = false → ignored s boot) ∧
    (s.pins.hold = false → s.pins.booting = true → (∀ k ∈ s.bootOrder, s.accepts (s.slot k) = false) → completes s boot fun t =>
      t.pins = { s.pins with booting := false } ∧ t.fld Reg.GR_STATUS 3 1 = 1 ∧ (∀ d, d < 24 → t.dieState d = s.dieState d) ∧
        memoryStands t s) ∧
    (s.pins.hold = false → s.pins.booting = true → s.bootOrder.find? (fun k => s.accepts (s.slot k)) = some n → completes s boot
      fun t => t.pins.booting = false ∧ t.trngOk = true ∧ (∀ d, d < 24 → t.dieState d = dieOn) ∧ memoryStands t s ∧
        t.fld Reg.GR_BOOT 0 1 = n % 2)) ∧
  (∀ (s : State) (rail : BitVec 3) (clock : Fin 5), s.Canonical →
    let r := rail.toNat
    let a := Reg.PWR_STATUS
    let good (k : Nat) : Prop := s.fld a k 1 = 1
    let early := ∃ k, k < 7 ∧ railStage k < railStage r ∧ ¬ good k
    (r = 7 → completes s (.railPowerFail rail) fun t => t.pins.aonLost = true ∧ t.pins.hold = true ∧
      t.mem = State.reset.mem ∧ t.engines = State.reset.engines ∧ t.pending = s.pending) ∧
    (r ≠ 7 → s.pins.hold = true → completes s (.railPowerFail rail) fun t => onlyRegs t s [a] ∧ t.fld a r 1 = 0) ∧
    (r ≠ 7 → r ≠ 0 → s.pins.hold = false → completes s (.railPowerFail rail) fun t => t.fld a r 1 = 0 ∧
      t.fld Reg.PWR_RAIL_FAULT r 1 = 1 ∧ memoryStands t s) ∧
    (r = 0 → s.pins.hold = false → completes s (.railPowerFail rail) fun t => t.fld a 0 1 = 0 ∧
      t.fld Reg.TAMPER_STATUS 0 1 = 1) ∧
    (completes s (.railRise rail) fun t => onlyRegs t s [a] ∧ t.fld a r 1 = 1 ∧
      (r ≠ 7 → early → t.fld a (8 + r) 1 = 1) ∧ ((∃ k, k < 7 ∧ good k) → ¬ early → t.fld a 8 8 = s.fld a 8 8)) ∧
    (clock.val = 4 → s.timeRole ≠ 2 ∨ s.timeState = timeHoldover → ignored s (.refclkLoss clock)) ∧
    (clock.val = 4 → s.timeRole = 2 → s.timeState ≠ timeHoldover → completes s (.refclkLoss clock) fun t =>
      onlyRegs t s [Reg.TIME_STATUS, Reg.TIME_HOLDOVER_CNT] ∧ t.timeState = timeHoldover) ∧
    (clock.val ≠ 4 → s.pins.hold = true → completes s (.refclkLoss clock) fun t =>
      t = { s with pins := { s.pins with noClock := putBits s.pins.noClock clock.val 1 1 } }) ∧
    (clock.val = 0 → s.pins.hold = false → completes s (.refclkLoss clock) fun t => t.fld Reg.TAMPER_STATUS 1 1 = 1 ∧
      bitsAt t.pins.noClock 0 1 = 1) ∧
    (clock.val = 1 → s.pins.hold = false → completes s (.refclkLoss clock) fun t => bitsAt t.pins.noClock 1 1 = 1 ∧ t.mem = s.mem ∧
      ∀ p, p < 8 → t.portState p = if s.portState p = portActive ∨ s.portState p = portRetrain then portRetrain
        else if s.portState p = portDisabled then portDisabled else portFailed) ∧
    (s.pins.hold = true ∨ s.clamped = true → ignored s .thermalEmergency) ∧
    (s.pins.hold = false → s.clamped = false → completes s .thermalEmergency fun t => t.clamped = true ∧ t.mem = s.mem ∧
      t.reg Reg.THERM_EMERG_CNT = min 0xFFFFFFFF (s.reg Reg.THERM_EMERG_CNT + 1) ∧
      ∀ d, d < 20 → s.dieState d ≠ dieOff → t.fld (Reg.CLK_STATUS d) 0 12 = 1200) ∧
    (completes s .thermalClampRelease fun t => onlyRegs t s [Reg.THERM_STATUS] ∧ t.clamped = false) ∧
    (s.pins.hold = true ∨ s.pins.trip = true → ignored s .thermalTrip) ∧
    (s.pins.hold = false → s.pins.trip = false → completes s .thermalTrip fun t => t.pins.trip = true ∧ t.pins.stopped = true ∧
      t.fld Reg.TAMPER_STATUS 2 1 = 1 ∧ ∀ p, p < 8 → t.portState p = portDisabled))

/-- MIRROR_CFG SOURCE, HOST and the STOPs (R445 to R447, Table 15-9): the rows that OP does not name have no effect; SOURCE of ranges that
are T2-homed and make up MSLABS starts generation 1; HOST takes its region from SHARE1 as one object; each STOP ends what
its START began, and gives BAD_STATE where there is nothing, or a RESTORE, to end.
MIRROR_CFG SYNC and RESTORE (R448, R449): SYNC with nothing left to send signals the generation to the buddy's commit event; once that
is acknowledged the halves it wrote are the committed ones, the generation advances and the command ends OK with it;
a mirror that has failed gives MIRROR_FAIL. RESTORE freezes the commit count, sends every slab's committed copy, and
ends when every write is acknowledged, or with the first failure. -/
def Obligations.MirrorCommands : Prop :=
  (∀ (s : State) (r : CmdRef) (c : Cmd), s.Canonical → due s r 0x31 c → c.bay.getD 0 < 16 →
    let b := c.bay.getD 0
    let rs := mirRanges c
    let op := c.p 0 0 3
    let legal := (∀ x ∈ rs, s.mirRangeOk b x = true) ∧ sumOver (fun x : Nat × Nat => x.2) rs = c.p 4 0 24
    let o := mirObj b c
    let need := 2 * c.p 4 0 24 + s.newTables o
    let ends (i : Instr) (st d0 d1 : Nat) : Prop := completes s i fun t => onlyEnds t s c st d0 d1
    let cap := sumOver s.usable (s.groups b) / 4
    (s.flt.mirSrc = [] → ∀ w ∈ mirRows, op ≠ w.2 → ignored s (w.1 r)) ∧
    (op = 0 → (s.mirSrc b).isSome = true → ends (.mirrorSource r) St.BAD_STATE 0 0) ∧
    (op = 0 → s.mirSrc b = none → ¬ legal → ends (.mirrorSource r) St.ILLEGAL_FIELD 0 0) ∧
    (op = 0 → s.mirSrc b = none → legal → completes s (.mirrorSource r) fun t => ended t c St.OK 0 0 ∧ memoryStands t s ∧
      regsBut t s (mirRegs b) ∧ t.fld (Reg.MIRROR_STATUS b) 0 1 = 1 ∧ t.fld (Reg.MIRROR_STATUS b) 2 1 = 0 ∧
      t.reg (Reg.MIRROR_GEN b) = 1 ∧ ∃ x, t.mirSrc b = some x ∧ x.gen = 1 ∧ x.mslabs = c.p 4 0 24 ∧ x.dev = c.p 1 0 24 ∧
        x.dbay = c.p 1 24 4 ∧ x.cevt = c.p 5 0 10 ∧ x.region = c.p64 2 ∧ x.sync = none ∧ x.failed = none ∧ x.half = [] ∧
        x.ranges = rs.map fun y => (y.1 / 65536, y.2)) ∧
    (op = 1 → (s.mirHost b).isSome = true ∨ s.evt b (c.p 5 0 10) ≠ 0 → ends (.mirrorHost r) St.BAD_STATE 0 0) ∧
    (op = 1 → s.mirHost b = none → s.evt b (c.p 5 0 10) = 0 →
      (¬ mirFits s b c → ends (.mirrorHost r) St.ILLEGAL_FIELD 0 0) ∧
      (mirFits s b c → cap < need → ends (.mirrorHost r) St.QUOTA (refusalDetail 1 need) (s.reclaimable b)) ∧
      (mirFits s b c → need ≤ cap → s.reclaimable b < need →
        ends (.mirrorHost r) St.CAPACITY (refusalDetail 1 need) (s.reclaimable b)) ∧
      (∀ v, mirFits s b c → need ≤ cap → need ≤ s.reclaimable b → (∀ a ∈ s.cq.adms, a.bay ≠ b) → need ≤ s.freeUnits b 1 →
        s.placeAll o o.n 0 = some v → completes s (.mirrorHost r) fun t => ended t c St.OK 0 0 ∧ o ∈ t.mem.objs ∧
          t.mem.slabs = v.mem.slabs ∧ t.mem.hbm = v.mem.hbm ∧ t.reg (Reg.SHARE b 1) = v.share b 1 - need ∧
          t.fld (Reg.MIRROR_STATUS b) 1 1 = 1 ∧
          t.mirHost b = some ⟨c.p 1 0 24, c.p 1 24 4, c.p64 2, c.p 4 0 24, c.p 5 0 10, [], none⟩)) ∧
    (op = 4 → s.mirSrc b = none → ends (.mirrorStopSource r) St.BAD_STATE 0 0) ∧
    (∀ x, op = 4 → s.mirSrc b = some x → x.sync = none → completes s (.mirrorStopSource r) fun t => ended t c St.OK 0 0 ∧
      memoryStands t s ∧ regsBut t s [Reg.MIRROR_STATUS b] ∧ t.mirSrc b = none ∧ t.fld (Reg.MIRROR_STATUS b) 0 1 = 0 ∧
      t.fld (Reg.MIRROR_STATUS b) 2 2 = 0 ∧ (∀ y ∈ t.fab.reqs, isMirror b y = false)) ∧
    (∀ x q n y, op = 4 → s.mirSrc b = some x → x.sync = some (q, n) → s.findCmd q n = some y → ¬ (q = c.q ∧ n = c.seq) →
      completes s (.mirrorStopSource r) fun t => ended t c St.OK 0 0 ∧ ended t y St.MIRROR_FAIL (s.dieDetail 20) 0 ∧
        t.mirSrc b = none ∧ memoryStands t s) ∧
    (op = 5 → s.mirHost b = none → ends (.mirrorStopHost r) St.BAD_STATE 0 0) ∧
    (∀ x, op = 5 → s.mirHost b = some x → x.frozen.isSome = true → ends (.mirrorStopHost r) St.BAD_STATE 0 0) ∧
    (∀ x z, op = 5 → s.mirHost b = some x → x.frozen = none →
      s.mem.objs.find? (fun w => decide (w.bay = b) && decide (w.owner = .mirror)) = some z →
      completes s (.mirrorStopHost r) fun t => ended t c St.OK 0 0 ∧ t.mirHost b = none ∧ t.fld (Reg.MIRROR_STATUS b) 1 1 = 0 ∧
        z ∉ t.mem.objs ∧ ∃ k, z.n ≤ k ∧ t.reg (Reg.SHARE b 1) = (s.share b 1 + k) % 2 ^ 64)) ∧
  (∀ (s : State) (r : CmdRef) (c : Cmd) (m : Medium), s.Canonical → c.bay.getD 0 < 16 →
    let b := c.bay.getD 0
    let rs := mirRanges c
    let op := c.p 0 0 3
    let owner : FabFor := .step c.q c.seq
    (due s r 0x31 c → op = 2 → s.flt.mirSrc = [] → completes s (.mirrorSync r) fun t => onlyEnds t s c St.BAD_STATE 0 0) ∧
    (∀ x, due s r 0x31 c → op = 2 → s.flt.mirSrc = [(b, some x)] →
      (∀ u, x.failed = some u → completes s (.mirrorSync r) fun t => onlyEnds t s c St.MIRROR_FAIL (s.dieDetail 20) u) ∧
      (x.failed = none → x.sync = none → x.lines = [] → x.todo = [] → s.fab.reqs = [] → completes s (.mirrorSync r) fun t =>
        t.mirSrc b = some { x with sync := some (c.q, c.seq), step := 2 } ∧ t.fld (Reg.MIRROR_STATUS b) 3 1 = 1 ∧
        t.findCmd c.q c.seq = some { c with ran := true } ∧ memoryStands t s ∧ regsBut t s (mirRegs b) ∧
        ∃ q, t.fab.reqs = [q] ∧ q.owner = owner ∧ q.kind = 2 ∧ q.dev = x.dev ∧ q.dbay = x.dbay ∧
          q.data = signalBytes x.cevt 2 x.gen)) ∧
    (∀ x q, begun s r 0x31 c → op = 2 → s.flt.mirSrc = [(b, some x)] → x.failed = none → x.todo = [] → x.step = 2 →
      x.sync = some (c.q, c.seq) → s.fab.reqs = [q] → q.owner = owner → (∃ d0 d1 bs, q.st = .ended St.OK d0 d1 bs) →
      completes s (.mirrorSync r) fun t => ended t c St.OK (x.gen % 2 ^ 32) 0 ∧ memoryStands t s ∧
        t.fld (Reg.MIRROR_STATUS b) 3 1 = 0 ∧ t.reg (Reg.MIRROR_GEN b) = (x.gen + 1) % 2 ^ 64 ∧
        ∃ y, t.mirSrc b = some y ∧ y.gen = x.gen + 1 ∧ y.lines = [] ∧ y.sync = none ∧
          y.half = x.lines.foldl (fun h e => markPut h e.1 (!markGet h e.1)) x.half) ∧
    (due s r 0x31 c → op = 3 → s.mirHost b = none → completes s (.mirrorRestore r m) fun t => onlyEnds t s c St.BAD_STATE 0 0) ∧
    (∀ x, due s r 0x31 c → op = 3 → s.mirHost b = some x →
      (x.frozen.isSome = true → completes s (.mirrorRestore r m) fun t => onlyEnds t s c St.BAD_STATE 0 0) ∧
      (x.frozen = none → (∃ y ∈ rs, y.1 % 65536 ≠ 0) ∨ sumOver (fun y : Nat × Nat => y.2) rs ≠ x.mslabs →
        completes s (.mirrorRestore r m) fun t => onlyEnds t s c St.ILLEGAL_FIELD 0 0) ∧
      (∀ u bs, x.frozen = none → x.mslabs = 1 → (∀ y ∈ rs, y.1 % 65536 = 0) → sumOver (fun y : Nat × Nat => y.2) rs = 1 →
        s.vaReadM (.cmd c.q c.seq) m b (x.region + x.committed (s.evt b x.cevt) 0 * 65536) 65536 = (u, bs, .ok) → bs.length = 65536 →
        u.findCmd c.q c.seq = some c → completes s (.mirrorRestore r m) fun t => t.findCmd c.q c.seq = some { c with ran := true } ∧
          t.mirHost b = some { x with frozen := some (s.evt b x.cevt) } ∧ t.mem = u.mem ∧
          ∃ q ∈ t.fab.reqs, q.owner = owner ∧ q.kind = 0 ∧ q.dev = c.p 1 0 24 ∧ q.dbay = c.p 1 24 4)) ∧
    (∀ x, begun s r 0x31 c → op = 3 → s.mirHost b = some x →
      ((∀ q ∈ s.reqsOf owner, ∃ d0 d1 bs, q.st = .ended St.OK d0 d1 bs) → completes s (.mirrorRestore r m) fun t =>
        ended t c St.OK 0 0 ∧ t.mirHost b = some { x with frozen := none } ∧ t.regs = s.regs ∧ memoryStands t s) ∧
      (∀ f, firstFailed (s.reqsOf owner) = some f → completes s (.mirrorRestore r m) fun t =>
        ended t c f.1 f.2.1 f.2.2 ∧ t.mirHost b = some { x with frozen := none } ∧ t.regs = s.regs ∧ memoryStands t s) ∧
      (firstFailed (s.reqsOf owner) = none → (∃ q ∈ s.reqsOf owner, q.done = false) → ignored s (.mirrorRestore r m))))

/-- CKPT (R451 to R455): the row that OP does not name has no effect; SCHED stores or deletes a schedule with its CKPT_STATUS bits; a TAKE
without a publishing key, or of an object that may not be checkpointed, ends with its status; a TAKE that is admitted
snapshots its objects, raises PERMIT_EVENT to the step and goes on; it ends OK when the manifest is behind its shards;
a RESTORE checks the signature, restores the next WRITTEN entry and its digest, and ends OK when none is left. -/
def Obligations.Checkpoints : Prop :=
  ∀ (s u v : State) (r : CmdRef) (c : Cmd) (m : Medium) (n : Nat) (bs : List Nat) (objs : List (Nat × Nat × Nat)), s.Canonical →
    c.bay.getD 0 < 16 →
    let b := c.bay.getD 0
    let op := c.p 0 0 2
    let k := c.p 0 2 2
    let w : Waiter := .cmd c.q c.seq
    let ws : List W32 := (List.range 16).map fun i => BitVec.ofNat 32 (c.p i 0 32)
    let a := Reg.CKPT_STATUS b
    (due s r 0x30 c → (op ≠ 0 → ignored s (.ckptTake r m)) ∧ (op ≠ 1 → ignored s (.ckptRestore r m)) ∧
      (op ≠ 2 → ignored s (.ckptSched r))) ∧
    (due s r 0x30 c → op = 2 → completes s (.ckptSched r) fun t => ended t c St.OK 0 0 ∧ memoryStands t s ∧ regsBut t s [a] ∧
      (c.p 0 4 1 = 1 → t.ckpt b k = none ∧ t.fld a (8 + k) 1 = 0) ∧
      (c.p 0 4 1 = 0 → t.ckpt b k = some ⟨ws, c.q, c.tag, 0, s.now⟩ ∧ t.fld a (8 + k) 1 = 1 ∧ t.fld a k 1 = 0 ∧ t.fld a (4 + k) 1 = 0) ∧
      ∀ i, i < 4 → i ≠ k → t.ckpt b i = s.ckpt b i ∧ t.fld a (8 + i) 1 = s.fld a (8 + i) 1) ∧
    (due s r 0x30 c → op = 0 → ckptTable s u c m objs →
      (s.pubScalar b = none → completes s (.ckptTake r m) fun t => ended t c St.SIG_INVALID 0 0 ∧ t.mem = u.mem ∧ t.regs = u.regs) ∧
      (s.pubScalar b ≠ none → ¬ ckptLegal s b objs → completes s (.ckptTake r m) fun t => ended t c St.ILLEGAL_FIELD 0 0 ∧
        t.mem = u.mem ∧ t.regs = u.regs) ∧
      (∀ locs ds, s.pubScalar b ≠ none → ckptLegal s b objs → c.adm = .granted → unscheduled v b →
        v.findCmd c.q c.seq = some c →
        objs.foldl (State.snapObj c m) (u, ([] : List Nat), ([] : List (List Nat)), Acc.ok) = (v, locs, ds, .ok) →
        completes s (.ckptTake r m) fun t => t.findCmd c.q c.seq = some { c with ran := true } ∧ t.mem = v.mem ∧
          ⟨c.q, c.seq, locs, u.now, objs, ds, true⟩ ∈ t.flt.runs ∧ t.evt b (c.p 8 0 10) = max (v.evt b (c.p 8 0 10)) (c.p 7 0 32) ∧
          regsBut t v [Reg.EVT b (c.p 8 0 10)])) ∧
    (begun s r 0x30 c → op = 0 → unscheduled s b → s.run? c = none → completes s (.ckptTake r m) fun t =>
      ended t c St.SIG_INVALID 0 0 ∧ t.mem = s.mem ∧ t.regs = s.regs) ∧
    (∀ x d, begun s r 0x30 c → op = 0 → s.run? c = some x → s.pubScalar b = some d →
      (List.range x.objs.length).filter c.writesObj = [] →
      let body := s.ckptManifest c x (p384Public d)
      let man := body ++ sigBytes (ecdsaSign d (sha384 body) s.draw.1)
      s.draw.2.vaWrite w .bay b (c.p64 5) (unpoisoned (man.map (BitVec.ofNat 8))) = (u, .ok) → unscheduled u b →
      u.findCmd c.q c.seq = some c → completes s (.ckptTake r m) fun t => ended t c St.OK 0 0 ∧ t.mem.hbm = u.mem.hbm ∧
        t.reg (Reg.CKPT_LAST_KTIME b) = u.now ∧ t.run? c = none) ∧
    (due s r 0x30 c ∨ begun s r 0x30 c → op = 1 → ckptRead s v c m n bs →
      let left (i : Nat) : Prop := c.done ≤ i ∧ i < n ∧ (entryAt bs i).written = true
      (v.ckptSigned b n bs = false → completes s (.ckptRestore r m) fun t => ended t c St.SIG_INVALID 0 0 ∧ t.mem = v.mem ∧
        t.regs = v.regs) ∧
      (v.ckptSigned b n bs = true → (∀ i, ¬ left i) → completes s (.ckptRestore r m) fun t => ended t c St.OK 0 0 ∧
        t.mem = v.mem ∧ t.regs = v.regs) ∧
      (∀ i x y xs, v.ckptSigned b n bs = true → left i → (∀ j, left j → i ≤ j) →
        v.vaReadM w m b (entryAt bs i).t3 ((entryAt bs i).n * 65536) = (x, xs, .ok) →
        x.vaWrite w .bay b (entryAt bs i).va xs = (y, .ok) → y.findCmd c.q c.seq = some c →
        let good := shardDigest (xs.map fun z => (pbyte z).toNat) = (entryAt bs i).digest
        completes s (.ckptRestore r m) fun t => t.mem = y.mem ∧ t.regs = y.regs ∧
          (good → t.findCmd c.q c.seq = some { c with ran := true, done := i + 1 }) ∧
          (¬ good → ended t c St.DIGEST_MISMATCH 0 i)))

/-! ### Host links and management -/

/-- Links up, down and PERST (R465, R467, R472, R473, R478): a link that is up, or held by PERST, a missing clock or the device's reset,
does not come up; one that comes up reports its rate, width, mode and BAR2 size; one that goes down, or whose PERST falls,
loses its latch, its MSI-X bits and its BAR2 size, and H0 its coherent cache.
BAR2_ACCESS and MSIX_UNMASK (R469, R472, R491): an access beyond the window or of a link that is down is none; a read gives all ones
from a window that is off or sealed and a Completer Abort while the device restarts or where a line is not in T2, which is
counted; else the bytes; a write of a T2 line changes exactly its bytes; a write that is refused changes nothing. MSI-X messages that
were pending go out once each when they are unmasked. -/
def Obligations.HostLinkAccesses : Prop :=
  (∀ (s : State) (link : LinkId) (rate : BitVec 3) (width : BitVec 5) (flit cxl : Bool) (bar2 : BitVec 4), s.Canonical →
    let n := link.val
    let a := Reg.HL_STATUS n
    let up : Instr := .hostLinkUp link rate width flit cxl bar2
    let blocked := s.linkUp n = true ∨ bitsAt s.pins.perst n 1 = 1 ∨ bitsAt s.pins.noClock (2 + n) 1 = 1 ∨ s.pins.hold = true ∨
      s.pins.stopped = true
    let goes (t : State) (x : State) : Prop := t.reg a = 0 ∧ t.link n = linkLost (s.link n) ∧ t.link (1 - n) = s.link (1 - n) ∧
      (n = 0 → t.hosts.cc = [] ∧ t.hosts.evict = [] ∧ t.hosts.waits = [] ∧ t.hosts.flush = []) ∧
      (n = 1 ∨ noneDirty s → onlyHosts t x ([a] ++ (if n = 0 then [Reg.CC_STATUS, Reg.HL_DROP_CNT 0] else [])))
    let low (v : Nat) : State := { s with pins := { s.pins with perst := putBits s.pins.perst n 1 v } }
    (blocked → ignored s up) ∧
    (¬ blocked → completes s up fun t => t.linkUp n = true ∧ memoryStands t s ∧ t.cq = s.cq ∧
      t.reg a = 1 + rate.toNat * 2 + width.toNat * 16 + b2n flit (2 ^ 9) + b2n (cxl && decide (n = 0)) (2 ^ 10) ∧
      (t.link n).bar2Size = 2 ^ (30 + bar2.toNat) ∧ (n = 0 → t.ccActive = cxl)) ∧
    (quietLink s n → completes s (.hostLinkDown link) fun t => goes t s) ∧
    (quietLink s n → completes s (.perstAssert link) fun t => goes t (low 1) ∧ t.pins = (low 1).pins) ∧
    exec (.perstRelease link) s = .next (low 0)) ∧
  (∀ (s : State) (link : LinkId) (off : BitVec 40) (len : Nat) (m : Medium) (ws : List Byte) (o : Obj) (loc : Nat) (en mask : Bool),
    s.Canonical →
    let n := link.val
    let b := s.fld (Reg.HL_BAR2_CFG n) 1 4
    let va := s.reg (Reg.HL_BAR2_BASE n) + off.toNat
    let rd : Instr := .bar2Access link off len none m
    let wr : Instr := .bar2Access link off len (some ws) m
    let asleep := s.linkUp n = false ∨ s.pins.hold = true ∨ s.pins.booting = true ∨ s.pins.stopped = true
    let awake := ¬ asleep ∧ off.toNat + len ≤ (s.link n).bar2Size ∧ off.toNat + ws.length ≤ (s.link n).bar2Size
    let hidden := s.fld (Reg.HL_BAR2_CFG n) 0 1 = 0 ∨ s.baySealed b = true
    let e := Reg.HL_BAR2_ERR_CNT n
    let pa := loc * 65536 + va % 65536
    (asleep → ignored s rd ∧ ignored s wr) ∧
    ((s.link n).bar2Size < off.toNat + len → ignored s rd) ∧ ((s.link n).bar2Size < off.toNat + ws.length → ignored s wr) ∧
    (awake → s.mgmt.restarting = true → exec rd s = .next (s.emit (.bar2 n .completerAbort)) ∧ ignored s wr) ∧
    (awake → s.mgmt.restarting = false → hidden → exec rd s = .next (s.emit (.bar2 n .allOnes)) ∧ ignored s wr) ∧
    (awake → s.mgmt.restarting = false → ¬ hidden → s.bayState b ≠ bayRunning →
      exec rd s = .next ((s.count e 1).emit (.bar2 n .completerAbort)) ∧ exec wr s = .next (s.count e 1)) ∧
    (bar2Open s n off.toNat len → 0 < len → s.objAt b (va / 65536) = none →
      exec rd s = .next ((s.count e 1).emit (.bar2 n .completerAbort))) ∧
    (bar2Open s n off.toNat len → 0 < len → va % 128 + len ≤ 128 → va + len ≤ apertureBase → inT2 s b (va / 65536) loc o →
      (s.slab b (va / 65536)).zero = false → poisoned s (pa / 128) = false →
      completes s (.bar2Access link off len none .good) fun t => t.mem.hbm = s.mem.hbm ∧ t.engines = s.engines ∧
        t.out = s.out ++ [.bar2 n (.data ((List.range len).map fun i => hbmByte s (pa + i)) false)]) ∧
    (bar2Open s n off.toNat len → 0 < len → va % 128 + len ≤ 128 → va + len ≤ apertureBase → inT2 s b (va / 65536) loc o →
      (s.slab b (va / 65536)).zero = false → poisoned s (pa / 128) = true → completes s rd fun t => t.mem.hbm = s.mem.hbm ∧
        Output.bar2 n (.data (List.replicate len 0) true) ∈ t.out) ∧
    (bar2Open s n off.toNat ws.length → ws.length = 128 → va % 128 = 0 → va + 128 ≤ apertureBase → inT2 s b (va / 65536) loc o →
      o.readOnly .bay = false → (s.slab b (va / 65536)).moving = false → s.mirFull b (va / 65536) = false → completes s wr fun t =>
        t.reg (Reg.HL_RX_BYTES n) = (s.reg (Reg.HL_RX_BYTES n) + 128) % 2 ^ 64 ∧ poisoned t (pa / 128) = false ∧
        (∀ i < 128, hbmByte t (pa + i) = ws.getD i 0) ∧
        ((s.slab b (va / 65536)).zero = false → ∀ x, (x < pa ∨ pa + 128 ≤ x) → hbmByte t x = hbmByte s x)) ∧
    (bar2Open s n off.toNat ws.length → ws.length = 128 → va % 128 = 0 → va + 128 ≤ apertureBase → inT2 s b (va / 65536) loc o →
      o.readOnly .bay = true → completes s wr fun t => t.mem.hbm = s.mem.hbm ∧ t.engines = s.engines) ∧
    (s.linkUp n = false → ignored s (.msixUnmask link en mask)) ∧
    (s.linkUp n = true → completes s (.msixUnmask link en mask) fun t => memoryStands t s ∧ t.cq = s.cq ∧ (t.link n).msixEn = en ∧
      (t.link n).fnMask = mask ∧ ∀ v, v < 2048 → s.vecLink v = n →
        let pend := s.fld (Reg.MSIX_PBA (v / 64)) (v % 64) 1
        let opens := en = true ∧ mask = false ∧ s.fld (Reg.MSIX_VCTRL v) 0 1 = 0 ∧ s.mgmt.restarting = false
        (pend = 1 → opens → t.fld (Reg.MSIX_PBA (v / 64)) (v % 64) 1 = 0 ∧
          Output.msix n v (s.reg (Reg.MSIX_ADDR v)) (s.reg (Reg.MSIX_DATA v)) ∈ t.out) ∧
        (¬ opens → t.fld (Reg.MSIX_PBA (v / 64)) (v % 64) 1 = pend)))

/-- The coherent host-line cache (R475 to R478, Table 16-2): snoops are answered by the state of the line, from the eviction buffer first;
a write-pull frees its entry, with bogus data where a snoop took them; an entry that has waited 1 ms is counted once and
stays; a GO completes the access that asked for the line; a window that is switched off is flushed, and writes of its
configuration meanwhile are discarded. -/
def Obligations.CoherentCache : Prop :=
  ∀ (s : State) (line : BitVec 58) (drop excl : Bool) (data : List Byte) (win : BitVec 3) (v : W32), s.Canonical →
    let l := line.toNat
    let c := s.ccLine l
    let w := win.toNat
    let cfg := Reg.CC_WIN_CFG w
    let first := s.hosts.evict.find? fun e => decide (e.line = l)
    let settled := s.hosts.flush = [] ∧ ∀ x ∈ s.hosts.waits, x.issued = true
    let clears := s.fld cfg 0 1 = 1 ∧ v.toNat % 2 = 0
    let out := ∀ k ∈ s.hosts.flush, (s.ccLine k).st = 0 ∧ ∀ e ∈ s.hosts.evict, e.line ≠ k
    (s.ccActive = false → ignored s (.snpInv line) ∧ ignored s (.snpData line) ∧ ignored s (.snpCur line)) ∧
    (s.ccActive = true → unbuffered s l →
      (c.st = 0 → snooped s (.snpInv line) l (.rspIHitI l) .invalid ∧ snooped s (.snpData line) l (.rspIHitI l) c ∧
        snooped s (.snpCur line) l (.rspVHitV l) c) ∧
      (c.st = 1 ∨ c.st = 2 → snooped s (.snpInv line) l (.rspIHitSE l) .invalid ∧
        snooped s (.snpData line) l (.rspSHitSE l) { c with st := 1 } ∧ snooped s (.snpCur line) l (.rspVHitV l) c) ∧
      (c.st = 3 → snooped s (.snpInv line) l (.rspIFwdM l c.data) .invalid ∧
        snooped s (.snpData line) l (.rspSFwdM l c.data) { c with st := 1 } ∧ snooped s (.snpCur line) l (.rspVFwdV l c.data) c)) ∧
    (∀ e, s.ccActive = true → s.hosts.evict.find? (fun x => decide (x.line = l) && !x.fwd) = some e →
      ∀ i ∈ [Instr.snpInv line, .snpData line, .snpCur line], completes s i fun t => onlyHosts t s [Reg.CC_SNOOP_CNT] ∧
        t.out = s.out ++ [.cc (.rspIFwdM l e.data)] ∧ t.hosts.cc = s.hosts.cc ∧ { e with fwd := true } ∈ t.hosts.evict) ∧
    (first = none → ignored s (.goWritePull line drop)) ∧
    (∀ e, first = some e → settled → completes s (.goWritePull line drop) fun t => onlyHosts t s [Reg.CC_STATUS, Reg.CC_BOGUS_CNT] ∧
      t.hosts = { s.hosts with evict := s.hosts.evict.erase e } ∧ t.fld Reg.CC_STATUS 2 6 = (s.hosts.evict.length - 1) % 64 ∧
      t.out = s.out ++ (if drop then [] else [.cc (.data l e.data e.fwd)]) ∧
      t.reg Reg.CC_BOGUS_CNT = if drop = false ∧ e.fwd = true then min 0xFFFFFFFF (s.reg Reg.CC_BOGUS_CNT + 1)
        else s.reg Reg.CC_BOGUS_CNT) ∧
    ((∀ e ∈ s.hosts.evict, e.line = l → e.waited = true) → ignored s (.goWaitExpiry line)) ∧
    (∀ e, s.hosts.evict.find? (fun x => decide (x.line = l) && !x.waited) = some e → completes s (.goWaitExpiry line) fun t =>
      t.reg Reg.CC_GO_WAIT_CNT = min 0xFFFFFFFF (s.reg Reg.CC_GO_WAIT_CNT + 1) ∧ { e with waited := true } ∈ t.hosts.evict ∧
      memoryStands t s) ∧
    ((∀ x ∈ s.hosts.waits, x.line = l → x.issued = false) → ignored s (.h2dGo line data excl)) ∧
    (∀ x, s.hosts.waits = [x] → x.line = l → x.issued = true → completes s (.h2dGo line data excl) fun t =>
      let old := if c.st = 0 then (List.range 64).map fun i => data.getD i 0 else c.data
      t.hosts.waits = [] ∧ t.regs = s.regs ∧ memoryStands t s ∧ t.out = s.out ∧ (∀ k, k ≠ l → t.ccLine k = s.ccLine k) ∧
      t.ccLine l = if x.write then ⟨3, patchBytes old x.off x.bytes, s.stamp⟩ else ⟨if excl then 2 else 1, old, s.stamp⟩) ∧
    (s.flushing = true → ignored s (.ccWinCfgWrite win v)) ∧
    (s.flushing = false → ¬ clears → completes s (.ccWinCfgWrite win v) fun t => onlyRegs t s [cfg] ∧
      t.reg cfg = v.toNat % 2 + v.toNat / 2 ^ 12 * 2 ^ 12) ∧
    (s.flushing = false → clears → s.hosts.evict.length + s.hosts.cc.length ≤ 32 → completes s (.ccWinCfgWrite win v) fun t =>
      t.flushing = true ∧ t.reg cfg = v.toNat / 2 ^ 12 * 2 ^ 12 ∧ memoryStands t s ∧
      ∀ k x, s.ccLine k = x → x.st ≠ 0 →
        let covered := s.reg (Reg.CC_WIN_BASE w) ≤ k * 64 ∧ k * 64 < s.reg (Reg.CC_WIN_BASE w) + s.fld cfg 12 20 * 4096
        (covered → (t.ccLine k).st = 0 ∧ k ∈ t.hosts.flush ∧ (x.st = 3 → Output.cc (.dirtyEvict k) ∈ t.out ∧
            ⟨k, x.data, false, false⟩ ∈ t.hosts.evict) ∧ (x.st ≠ 3 → Output.cc (.cleanEvictNoData k) ∈ t.out)) ∧
        (¬ covered → t.ccLine k = x)) ∧
    (s.flushing = false ∨ ¬ out → ignored s .ccFlushDone) ∧
    (s.flushing = true → out → completes s .ccFlushDone fun t => onlyHosts t s [Reg.CC_STATUS] ∧ t.flushing = false ∧
      t.hosts = { s.hosts with flush := [] })

/-- The island's resets and restarts (R397, R479, R480): MGMT_RESET_N loses all that the island holds but its load buffer, slots and key;
a restart samples the straps and runs the load buffer's component, or its ROM firmware, and measures it; an island on ROM
firmware restarts into a component that has been filled in. The ports change mode only while it runs.
Sensors and events (R483 to R485, Table 16-4): a refresh reports power and temperatures in their registers, and on a running island in
the sensors; a reading that rises above its threshold is an event for each registered receiver; a reading is answered with
its value or INVALID_SENSOR_ID, and a repeat within 5 s with the stored response; an event is sent at most four times. -/
def Obligations.IslandAndSensors : Prop :=
  (∀ (s : State) (power ok : Bool) (straps : BitVec 3) (port : Fin 2) (addr : BitVec 7), s.Canonical →
    let m := s.mgmt
    let n := port.val
    let held := if power then s.pins.aonLost else s.pins.mgmtLow
    let other := if power then s.pins.mgmtLow else s.pins.aonLost
    let i : Instr := .islandRestart power ok straps
    let runs := ok = true ∧ m.loadBuf ≠ []
    let booted (t : State) : Prop := t.mgmt = { m with up := true, rom := t.mgmt.rom, running := t.mgmt.running, reasm := [] } ∧
      (runs → t.mgmt.rom = false ∧ t.mgmt.running = m.loadBuf) ∧ (¬ runs → t.mgmt.rom = true ∧ t.mgmt.running = []) ∧
      memoryStands t s ∧ (s.pins.hold = false → t.meas 5 = extendMeas zero48 (if runs then sha384 m.loadBuf else Config.islandRom)) ∧
      (s.pins.hold = true → t.regs = s.regs)
    let sets (j : Instr) (v : Nat) : Prop := completes s j fun t => onlyIsland t s [Reg.MI_STATUS] ∧ t.fld Reg.MI_STATUS n 1 = v ∧
      t.fld Reg.MI_STATUS (1 - n) 1 = s.fld Reg.MI_STATUS (1 - n) 1 ∧ t.mgmt = { m with alert := putBits m.alert n 1 0 }
    (completes s .mgmtResetAssert fun t => t = { s with regs := t.regs, mgmt := t.mgmt, pins := { s.pins with mgmtLow := true } } ∧
      regsBut t s (Reg.FW_TRIAL_S :: islandRegs) ∧ (∀ a ∈ islandRegs, t.reg a = 0) ∧ t.reg Reg.FW_TRIAL_S = 600 ∧
      t.mgmt = { m with up := false, rom := true, running := [], events := [], reasm := [], pldm := [], cmds := [], update := 0,
                        updOff := 0, alert := 0, sensors := [] }) ∧
    (held = false → ignored s i) ∧
    (held = true → other = true → completes s i fun t => t = { s with pins := t.pins } ∧ t.pins.straps = straps.toNat ∧
      (if power then t.pins.aonLost else t.pins.mgmtLow) = false) ∧
    (held = true → other = false → completes s i fun t => booted t ∧ t.pins.straps = straps.toNat ∧ t.pins.aonLost = false ∧
      t.pins.mgmtLow = false ∧ t.busAddr = 0x60 + straps.toNat) ∧
    (m.up = false ∨ m.rom = false ∨ m.loadBuf = [] → ignored s (.islandLoadRestart ok)) ∧
    (m.up = true → m.rom = true → m.loadBuf ≠ [] → completes s (.islandLoadRestart ok) booted) ∧
    (m.up = false → ignored s (.entdaa port) ∧ ignored s (.setdasa port addr) ∧ ignored s (.rstdaa port)) ∧
    (m.up = true → sets (.entdaa port) 1 ∧ sets (.rstdaa port) 0) ∧
    (m.up = true → addr.toNat = s.busAddr → sets (.setdasa port addr) 1) ∧
    (addr.toNat ≠ s.busAddr → ignored s (.setdasa port addr))) ∧
  (∀ (s : State) (power power1s amps : W16) (dies stk : List Byte) (ep : BitVec 2) (src : Byte) (inst : BitVec 5) (id : W16) (n : Nat),
    s.Canonical →
    let i : Instr := .sensorRefresh power power1s amps dies stk
    let g : Instr := .getSensorReading ep src inst id
    let e := ep.toNat
    let hot := hottest (dies.map BitVec.toNat)
    let shows (t : State) : Prop := t.reg Reg.PKG_POWER = power.toNat + power1s.toNat * 2 ^ 16 ∧
      t.fld Reg.THERM_STATUS 0 8 = hot.2 ∧ t.fld Reg.THERM_STATUS 8 5 = hot.1 ∧
      ∀ k, k < 8 → s.dieState (20 + k / 2) = dieOn → t.reg (Reg.HBM_TEMP (20 + k / 2) (k % 2)) = (stk.getD k 0).toNat
    let said (t : State) (ws : List Nat) : Prop := t.out = s.out ++ [.pldm e src.toNat ws] ∧ t.regs = s.regs ∧ memoryStands t s ∧
      ⟨e, src.toNat, 2 * 32 + inst.toNat, .pldm e src.toNat ws, s.now⟩ ∈ t.mgmt.pldm
    (s.pins.hold = true → s.mgmt.up = false ∨ s.mgmt.rom = true → ignored s i) ∧
    (s.pins.hold = false → dies.length ≤ 25 → completes s i fun t => shows t ∧ memoryStands t s ∧
      (s.mgmt.up = false ∨ s.mgmt.rom = true → t = { s with regs := t.regs } ∧
        regsBut t s ([Reg.PKG_POWER, Reg.THERM_STATUS] ++ (List.range 8).map fun k => Reg.HBM_TEMP (20 + k / 2) (k % 2))) ∧
      (s.mgmt.up = true → s.mgmt.rom = false → t.sensor 1 = power.toNat ∧ t.sensor 2 = amps.toNat ∧
        (∀ d, d < 25 → t.sensor (0x10 + d) = (dies.getD d 0).toNat ∧ t.sensor (0x40 + d) = s.reg (Reg.ERC d)) ∧
        (∀ k, k < 8 → t.sensor (0x30 + k) = (stk.getD k 0).toNat) ∧
        ∀ k, k < 4 → s.eid k ≠ 0 → s.sensor 1 ≤ 2650 → 2650 < power.toNat → ∃ x, Output.pldmEvent k x 0 1 power.toNat ∈ t.out)) ∧
    (s.epUp e = false → ignored s g) ∧
    (s.epUp e = true → s.mgmt.rom = true → exec g s = .next (s.emit (.pldm e src.toNat [4]))) ∧
    (∀ k, s.epUp e = true → s.mgmt.rom = false → s.mgmt.pldm.find? (fun k => decide (k.ep = e) && decide (k.src = src.toNat) &&
        decide (k.key = 2 * 32 + inst.toNat) && decide (s.now < k.kt + 5000000000)) = some k →
      exec g s = .next ((s.count Reg.MI_DUP_CNT 1).emit k.resp)) ∧
    (pldmNew s e src.toNat 2 inst.toNat →
      (∀ v, s.reading id.toNat = some v → completes s g fun t => said t [0, v]) ∧
      (s.reading id.toNat = none → completes s g fun t => said t [0x80])) ∧
    ((∀ x ∈ s.mgmt.events, x.id ≠ n) → ignored s (.pldmEventRetry n)) ∧
    (∀ x, s.mgmt.events.find? (fun y => decide (y.id = n)) = some x →
      (s.epUp x.ep = false → ignored s (.pldmEventRetry n)) ∧
      (s.epUp x.ep = true → x.sent < 4 → completes s (.pldmEventRetry n) fun t =>
        t.out = s.out ++ [.pldmEvent x.ep n x.kind x.src x.value] ∧ { x with sent := x.sent + 1 } ∈ t.mgmt.events ∧ t.regs = s.regs ∧
        memoryStands t s) ∧
      (s.epUp x.ep = true → 4 ≤ x.sent → completes s (.pldmEventRetry n) fun t => t.out = s.out ∧ t.regs = s.regs ∧
        (∀ y ∈ t.mgmt.events, y.id ≠ n) ∧ memoryStands t s)))

/-- MCTP (R480, R482, R510): a packet with a wrong PEC on an SMBus port is counted and dropped, a packet for another endpoint dropped, and
a repeated packet counted; a first packet starts a message anew, a middle one in sequence adds its bytes, one out of
sequence is dropped; the last packet of a message of a supported type hands it over; a message that has waited 100 ms is
dropped and counted. EIDs 8 to 254 are taken. An alert is answered by the port that asserts it. -/
def Obligations.MctpPackets : Prop :=
  ∀ (s : State) (ep : BitVec 2) (pec : Bool) (src dst : Byte) (tag : BitVec 4) (sq : BitVec 2) (som eom : Bool) (bs : List Byte)
    (eid : Byte) (port : Fin 2), s.Canonical →
    let e := ep.toNat
    let m := s.mgmt
    let i : Instr := .mctpPacket ep pec src dst tag sq som eom bs
    let taken := mctpTaken s e pec src.toNat dst.toNat tag.toNat sq.toNat som
    let old := reasmOf s e src.toNat tag.toNat
    let others (t : State) : Prop := ∀ r, r.same e src.toNat tag.toNat = false → (r ∈ t.mgmt.reasm ↔ r ∈ m.reasm)
    let wrong := e < 2 ∧ s.inI3c e = false ∧ pec = false
    let type := (bs.headD 0).toNat % 128
    let alerts := m.up = true ∧ s.inI3c port.val = false ∧ bitsAt m.alert port.val 1 = 1
    (s.epUp e = false → ignored s i ∧ ignored s (.setEndpointId ep eid)) ∧
    (s.epUp e = true → wrong → completes s i fun t => onlyRegs t s [Reg.MI_PEC_ERR_CNT] ∧
      t.reg Reg.MI_PEC_ERR_CNT = min 0xFFFFFFFF (s.reg Reg.MI_PEC_ERR_CNT + 1)) ∧
    (s.epUp e = true → ¬ wrong → dst.toNat ≠ 0 → dst.toNat ≠ s.eid e → ignored s i) ∧
    (∀ r, s.epUp e = true → ¬ wrong → (dst.toNat = 0 ∨ dst.toNat = s.eid e) → old = some r →
      (if som then r.seen = [sq.toNat] else r.seen.getLast? = some sq.toNat) → completes s i fun t => onlyRegs t s [Reg.MI_DUP_CNT] ∧
        t.reg Reg.MI_DUP_CNT = min 0xFFFFFFFF (s.reg Reg.MI_DUP_CNT + 1)) ∧
    (taken → som = true → eom = false → bs.length ≤ 4096 → completes s i fun t => onlyIsland t s [] ∧ t.out = s.out ∧ others t ∧
      reasmOf t e src.toNat tag.toNat = some ⟨e, src.toNat, tag.toNat, [sq.toNat], bs⟩) ∧
    (taken → som = true → eom = true → bs ≠ [] → bs.length ≤ 4096 → type ∈ mctpTypes → completes s i fun t => onlyIsland t s [] ∧
      others t ∧ reasmOf t e src.toNat tag.toNat = none ∧ t.out = s.out ++ [.received e src.toNat type bs]) ∧
    (taken → som = false → old = none → ignored s i) ∧
    (∀ r k, taken → som = false → old = some r → r.seen.getLast? = some k →
      ((k + 1) % 4 ≠ sq.toNat → ignored s i) ∧
      ((k + 1) % 4 = sq.toNat → 4096 < r.bytes.length + bs.length → completes s i fun t => onlyIsland t s [] ∧ t.out = s.out ∧
        others t ∧ reasmOf t e src.toNat tag.toNat = none) ∧
      ((k + 1) % 4 = sq.toNat → r.bytes.length + bs.length ≤ 4096 → eom = false → completes s i fun t => onlyIsland t s [] ∧
        t.out = s.out ∧ others t ∧
        reasmOf t e src.toNat tag.toNat = some { r with seen := r.seen ++ [sq.toNat], bytes := r.bytes ++ bs }) ∧
      ((k + 1) % 4 = sq.toNat → r.bytes.length + bs.length ≤ 4096 → eom = true → r.bytes ≠ [] →
        (r.bytes.headD 0).toNat % 128 ∈ mctpTypes → completes s i fun t => onlyIsland t s [] ∧ others t ∧
        reasmOf t e src.toNat tag.toNat = none ∧
        t.out = s.out ++ [.received e src.toNat ((r.bytes.headD 0).toNat % 128) (r.bytes ++ bs)])) ∧
    (old = none → ignored s (.mctpReasmTimeout ep src tag)) ∧
    (old ≠ none → completes s (.mctpReasmTimeout ep src tag) fun t => onlyIsland t s [Reg.MI_REASM_DROP_CNT] ∧ others t ∧
      reasmOf t e src.toNat tag.toNat = none ∧ t.out = s.out ∧
      t.reg Reg.MI_REASM_DROP_CNT = min 0xFFFFFFFF (s.reg Reg.MI_REASM_DROP_CNT + 1)) ∧
    (eid.toNat < 8 ∨ eid.toNat = 255 → ignored s (.setEndpointId ep eid)) ∧
    (s.epUp e = true → 8 ≤ eid.toNat → eid.toNat < 255 → completes s (.setEndpointId ep eid) fun t => onlyRegs t s [Reg.MI_EID] ∧
      t.eid e = eid.toNat ∧ ∀ k, k < 4 → k ≠ e → t.eid k = s.eid k) ∧
    (¬ alerts → ignored s (.smbusAraRead port)) ∧
    (alerts → completes s (.smbusAraRead port) fun t => t.out = s.out ++ [.araAnswer port.val s.busAddr] ∧ t.regs = s.regs ∧
      memoryStands t s ∧ t.mgmt = { m with alert := putBits m.alert port.val 1 0 })

/-- Firmware update (R396, R397, R487, R488): blocks of at most 4,096 bytes gather in the slot that does not run, which they empty first;
an image verifies only if it is signed and its SVN is not below the minimum; applying it makes its slot TRIAL with one try
and loads the staged measurements. Nothing of this happens where the island cannot update.
Activation (R489 to R491): without a TRIAL image with a try left, ACTIVATION_NOT_REQUIRED; else the try is used up, the apex die restarts
under a new incarnation, its nonces lapse and its sessions end; intake resumes when the image has been measured, and the
held completions go out; an activation that takes 300 ms goes back to a COMMITTED slot; a trial without a DEVICE fault is
committed. -/
def Obligations.FirmwareActivation : Prop :=
  (∀ (s : State) (ep : BitVec 2) (bs : List Byte) (last : Bool) (ua : Byte), s.Canonical →
    let e := ep.toNat
    let n := 1 - s.runSlot
    let x := s.slot n
    let fresh : FwSlot := ⟨fwEmpty, 0, 0, 0, false, []⟩
    let base := if s.mgmt.update = 1 then x else fresh
    let i : Instr := .requestFirmwareData ep bs last
    let fits := bs.length ≤ 4096 ∧ base.bytes.length + bs.length ≤ maxImage
    let y := { x with signed := Config.imageSigned x.bytes, svn := (Config.imageSvn x.bytes).toNat }
    let ends (t : State) : Prop := memoryStands t s ∧ t.cq = s.cq ∧ t.slot s.runSlot = s.slot s.runSlot ∧ t.mgmt.svnMin = s.mgmt.svnMin
    (s.updatable e = false → ignored s i ∧ ignored s (.verifyComplete ep ua) ∧ ignored s (.applyComplete ep ua)) ∧
    (s.updatable e = true → ¬ fits → exec i s = .next (s.emit (.firmwareRequest base.bytes.length 4096))) ∧
    (s.updatable e = true → fits → completes s i fun t => ends t ∧ t.slot n = { base with bytes := base.bytes ++ bs } ∧
      t.mgmt.update = (if last then 2 else 1) ∧ t.mgmt.updOff = base.bytes.length + bs.length ∧ t.fld Reg.MI_STATUS 2 1 = 1 ∧
      t.out = s.out ++ [.firmwareRequest base.bytes.length 4096]) ∧
    (s.mgmt.update ≠ 2 → ignored s (.verifyComplete ep ua)) ∧
    (s.updatable e = true → s.mgmt.update = 2 → completes s (.verifyComplete ep ua) fun t => ends t ∧ t.slot n = y ∧
      (if y.signed ∧ s.mgmt.svnMin ≤ y.svn then t.mgmt.update = 3 ∧ t.regs = s.regs ∧ t.out = s.out ++ [.pldm e ua.toNat [0x17, 0]]
        else t.mgmt.update = 0 ∧ t.fld Reg.MI_STATUS 2 1 = 0 ∧ t.out = s.out ++ [.pldm e ua.toNat [0x17, 1]])) ∧
    (s.mgmt.update ≠ 3 → ignored s (.applyComplete ep ua)) ∧
    (s.updatable e = true → s.mgmt.update = 3 → completes s (.applyComplete ep ua) fun t => ends t ∧
      t.slot n = { x with st := fwTrial, tries := 1, useq := (s.slot s.runSlot).useq + 1 } ∧ t.mgmt.update = 0 ∧
      t.fld Reg.MI_STATUS 2 1 = 0 ∧ stagedBy t x ∧ t.out = s.out ++ [.pldm e ua.toNat [0x18, 0]])) ∧
  (∀ (s : State) (ep : BitVec 2) (src : Byte) (inst : BitVec 5), s.Canonical →
    let e := ep.toNat
    let n := 1 - s.runSlot
    let x := s.slot n
    let run := s.slot s.runSlot
    let i : Instr := .activateFirmware ep src inst
    let new := pldmNew s e src.toNat 5 inst.toNat
    let tells (t : State) (ws : List Nat) : Prop := Output.pldm e src.toNat ws ∈ t.out
    let late := s.mgmt.actAt + 300000000 ≤ s.now
    let trialOver := run.st = fwTrial ∧ s.deviceFault = false ∧ s.apexUp = true ∧
      s.mgmt.trialAt + s.fld Reg.FW_TRIAL_S 0 16 * 1000000000 ≤ s.now
    (new → s.apexUp = false → completes s i fun t => tells t [4] ∧ t.regs = s.regs ∧ memoryStands t s) ∧
    (new → s.apexUp = true → x.st ≠ fwTrial ∨ x.tries = 0 → completes s i fun t => tells t [0x85] ∧ t.regs = s.regs ∧ memoryStands t s) ∧
    (new → s.apexUp = true → x.st = fwTrial → x.tries ≠ 0 → completes s i fun t => tells t [0, 1] ∧ memoryStands t s ∧
      t.slot n = { x with tries := 0 } ∧ t.mgmt.restarting = true ∧ t.mgmt.measured = false ∧ t.mgmt.actAt = s.now ∧
      t.incarn 24 = (s.incarn 24 + 1) % 256 ∧ (∀ b, b < 16 → (t.bayKeys b).nonce = none) ∧
      (∀ k ∈ t.sec.spdm, k.session = none ∧ k.live = false) ∧ t.cq.cmds = s.cq.cmds ∧ t.apexUp = false) ∧
    (s.mgmt.restarting = false → ignored s .intakeResume ∧ ignored s .activationWatchdog) ∧
    (s.mgmt.restarting = true → s.mgmt.measured = false → s.accepts x = false → ignored s .intakeResume) ∧
    (s.mgmt.restarting = true → s.mgmt.measured = true → s.mgmt.heldCmds = [] → completes s .intakeResume fun t =>
      t.mgmt.restarting = false ∧ memoryStands t s ∧ ∀ c ∈ s.cq.cmds, { c with startAt := c.startAt + (s.now - s.mgmt.actAt) } ∈ t.cq.cmds) ∧
    (s.mgmt.restarting = true → s.mgmt.measured = false → s.accepts x = true → s.mgmt.heldCmds = [] →
      completes s .intakeResume fun t => t.mgmt.restarting = false ∧ t.runSlot = n % 2 ∧ memoryStands t s ∧
        t.meas 1 = extendMeas zero48 (x.part 1) ∧ t.meas 2 = extendMeas zero48 (x.part 2) ∧
        t.mgmt.loadBuf = Config.imagePart x.bytes 4) ∧
    (s.mgmt.restarting = true → ¬ late ∨ s.mgmt.fwFail = true → ignored s .activationWatchdog) ∧
    (s.mgmt.restarting = true → late → s.mgmt.fwFail = false → completes s .activationWatchdog fun t => memoryStands t s ∧
      t.mgmt.fwFail = true ∧ t.mgmt.restarting = true ∧ t.anyStaged = false ∧ t.incarn 24 = (s.incarn 24 + 1) % 256 ∧
      (run.st = fwCommitted → s.accepts run = true → t.runSlot = s.runSlot ∧ t.mgmt.measured = true)) ∧
    (¬ trialOver → ignored s .fwTrialExpiry) ∧
    (trialOver → completes s .fwTrialExpiry fun t => t = { s with mgmt := t.mgmt } ∧ t.slot s.runSlot = { run with st := fwCommitted } ∧
      t.slot n = x))

/-- The management command set's envelope (R483, R493): an endpoint that is not up, and the ROM firmware, do not answer; a repeat of a kept
REQ_ID is counted and gets the stored response; a wrong VERSION, a missing authority and an apex die that does not run
are answered in this order and nothing else happens.
What the management commands answer and set (R220, R341, R356, R374, R432, R489, R493, Table 16-7). -/
def Obligations.ManagementCommandSet : Prop :=
  (∀ (s : State) (h : MgmtHdr) (i : Instr) (cmd : Nat) (apex : Bool), s.Canonical → mgmtRow h i cmd apex →
    (s.epUp h.ep.toNat = false ∨ s.mgmt.rom = true → ignored s i) ∧
    (∀ k, s.epUp h.ep.toNat = true → s.mgmt.rom = false → s.mgmt.cmds.find? (fun k => decide (k.ep = h.ep.toNat) &&
        decide (k.src = h.src.toNat) && decide (k.key = h.reqId.toNat)) = some k →
      exec i s = .next ((s.count Reg.MI_DUP_CNT 1).emit k.resp)) ∧
    (mgmtNew s h → h.version ≠ 1 → mgmtOnly s i h cmd 4 []) ∧
    (mgmtNew s h → h.version = 1 → 0x10 ≤ cmd → s.authorised h = false → mgmtOnly s i h cmd 5 []) ∧
    (mgmtNew s h → h.version = 1 → cmd < 0x10 ∨ s.authorised h = true → apex = true → s.apexUp = false → mgmtOnly s i h cmd 1 [])) ∧
  (∀ (s : State) (h : MgmtHdr) (pos addr dims time : W32) (port : PortId) (expect sticky valid : Bool) (mask : W64) (job watts : W16)
    (entry : BitVec 4) (logical physical : BitVec 24) (n die op : Byte), s.Canonical →
    let run := s.slot s.runSlot
    let p := port.val
    let slot (i : Nat) : Nat := Reg.SLOT (portDie p) (portIx p) i
    let held := ∃ i, i < 64 ∧ bitsAt mask.toNat i 1 = 1 ∧ s.fld (slot i) 16 1 = 1 ∧
      ∃ b, b < 16 ∧ s.bayState b ≠ bayFree ∧ s.bayJob b = s.fld (slot i) 0 16
    let advances := run.st = fwCommitted ∧ ∀ k, k < 2 → (s.slot k).st = fwCommitted → n.toNat ≤ (s.slot k).svn
    let d := die.toNat
    let o := op.toNat
    (mgmtRuns s h 0x01 false → mgmtOnly s (.getIdentity h) h 0x01 0 ([s.reg Reg.ID_PART, s.reg Reg.ID_STEPPING] ++ serialWords ++
      [s.runSlot, s.fld Reg.GR_BOOT 1 7, s.mgmt.svnMin, s.mgmt.slotA.st, s.mgmt.slotB.st])) ∧
    (mgmtRuns s h 0x02 false → mgmtOnly s (.getHealth h) h 0x02 0 ([s.reg Reg.HM_STATUS, s.reg Reg.HM_DEGRADED] ++
      ((List.range 25).map fun k => s.reg (Reg.ERC k)) ++ [s.deviceLevelNow])) ∧
    (mgmtRuns s h 0x03 true → mgmtOnly s (.readDevlog h pos) h 0x03 0
      ((List.range 8).flatMap fun i => (s.logAt ((pos.toNat + i) % 2 ^ 32)).getD [])) ∧
    (mgmtRuns s h 0x04 false → mgmtOnly s (.getPorts h) h 0x04 0 ((List.range 8).flatMap fun k =>
      [s.reg (Reg.PORT_STATUS (portDie k) (portIx k)), s.reg (Reg.PORT_PEER (portDie k) (portIx k)),
       s.reg (Reg.PORT_LANES (portDie k) (portIx k))])) ∧
    (mgmtRuns s h 0x10 true → s.portsDown = true → mgmtSets s (.setFabric h addr dims time) h 0x10 0
      (Reg.TIME_CFG :: copies Reg.FAB_DEV_ADDR ++ copies Reg.FAB_DIMS) fun t => t.reg Reg.TIME_CFG = time.toNat % 2 ^ 10 ∧
        ∀ e ∈ edges, t.reg (Reg.FAB_DEV_ADDR e) = addr.toNat % 2 ^ 24 ∧ t.reg (Reg.FAB_DIMS e) = dims.toNat % 2 ^ 26) ∧
    (mgmtRuns s h 0x10 true → s.portsDown = false → mgmtSets s (.setFabric h addr dims time) h 0x10 2 [Reg.TIME_CFG] fun t =>
      t.reg Reg.TIME_CFG = time.toNat % 2 ^ 10) ∧
    (mgmtRuns s h 0x11 true → s.portUp p = false → mgmtOnly s (.setPort h port expect sticky) h 0x11 2 []) ∧
    (mgmtRuns s h 0x11 true → s.portUp p = true → completes s (.setPort h port expect sticky) fun t =>
      mgmtSays t s h 0x11 0 [] ∧ t.reg (Reg.PORT_CFG (portDie p) (portIx p)) = b2n expect 1 + b2n sticky 2 ∧ memoryStands t s) ∧
    (mgmtRuns s h 0x12 true → held → mgmtOnly s (.setPassSlots h port mask job) h 0x12 2 []) ∧
    (mgmtRuns s h 0x12 true → ¬ held → mgmtSets s (.setPassSlots h port mask job) h 0x12 0 ((List.range 64).map slot) fun t =>
      ∀ i, i < 64 → t.reg (slot i) = if bitsAt mask.toNat i 1 = 0 then s.reg (slot i)
        else if job.toNat = 0 then 0 else job.toNat + 2 ^ 16) ∧
    (mgmtRuns s h 0x13 true → mgmtSets s (.setAlias h entry logical physical valid) h 0x13 0
      (copies fun e => Reg.FAB_ALIAS e entry.toNat) fun t => ∀ e ∈ edges, t.reg (Reg.FAB_ALIAS e entry.toNat) =
        logical.toNat + physical.toNat * 2 ^ 24 + b2n valid (2 ^ 48)) ∧
    (mgmtRuns s h 0x20 true → run.st ≠ fwTrial → mgmtOnly s (.fwCommit h) h 0x20 2 []) ∧
    (mgmtRuns s h 0x20 true → run.st = fwTrial → completes s (.fwCommit h) fun t => mgmtSays t s h 0x20 0 [] ∧ t.regs = s.regs ∧
      t.slot s.runSlot = { run with st := fwCommitted } ∧ t.slot (1 - s.runSlot) = s.slot (1 - s.runSlot) ∧ memoryStands t s) ∧
    (mgmtRuns s h 0x21 true →
      (64 < n.toNat → mgmtOnly s (.svnAdvance h n) h 0x21 3 []) ∧
      (n.toNat ≤ 64 → n.toNat ≤ s.mgmt.svnMin → mgmtOnly s (.svnAdvance h n) h 0x21 0 []) ∧
      (n.toNat ≤ 64 → s.mgmt.svnMin < n.toNat → ¬ advances → mgmtOnly s (.svnAdvance h n) h 0x21 2 []) ∧
      (n.toNat ≤ 64 → s.mgmt.svnMin < n.toNat → advances → completes s (.svnAdvance h n) fun t => mgmtSays t s h 0x21 0 [] ∧
        t.mgmt.svnMin = n.toNat ∧ t.fld Reg.GR_BOOT 8 7 = n.toNat ∧ regsBut t s [Reg.GR_BOOT] ∧ memoryStands t s)) ∧
    (mgmtRuns s h 0x30 true → s.sec.scrub = false → (∃ k, k < 20 ∧ s.dieState k = dieOn) → completes s (.deviceScrub h) fun t =>
      mgmtSays t s h 0x30 0 [] ∧ t.sec.scrub = true ∧ t.reg Reg.DSCRUB_STATUS = 1) ∧
    (mgmtRuns s h 0x30 true → s.sec.scrub = true → mgmtOnly s (.deviceScrub h) h 0x30 0 []) ∧
    (mgmtRuns s h 0x31 true → 25 ≤ d ∨ o = 0 ∨ 5 < o → mgmtOnly s (.diePower h die op) h 0x31 3 []) ∧
    (mgmtRuns s h 0x31 true → d = 24 → 0 < o → o ≤ 5 → mgmtOnly s (.diePower h die op) h 0x31 2 []) ∧
    (mgmtRuns s h 0x31 true → d < 24 → 0 < o → o ≤ 5 → ¬ mayPower s (.link 0) d o →
      mgmtSets s (.diePower h die op) h 0x31 2 [Reg.DIE_PCTRL_REFUSED] fun t => t.fld Reg.DIE_PCTRL_REFUSED d 1 = 1) ∧
    (mgmtRuns s h 0x31 true → d < 24 → 0 < o → o ≤ 5 → mayPower s (.link 0) d o → completes s (.diePower h die op) fun t =>
      mgmtSays t s h 0x31 0 [] ∧ t.fld Reg.DIE_PCTRL_REFUSED d 1 = 0 ∧
      (o ≠ 3 → t.dieOp d = ⟨o, false, s.now⟩) ∧ (o = 3 → t.dieState d = dieOn)) ∧
    (mgmtRuns s h 0x32 true → s.anyBayUp = true → mgmtOnly s (.setBayBudget h watts) h 0x32 2 []) ∧
    (mgmtRuns s h 0x32 true → s.anyBayUp = false → mgmtSets s (.setBayBudget h watts) h 0x32 0 [Reg.DEV_BAY_POWER_BUDGET] fun t =>
      t.reg Reg.DEV_BAY_POWER_BUDGET = watts.toNat))

/-! ### Registers, the mesh, and the block as a whole -/

/-- R6: an offset that is absent from every register table reads as zero, and a write of it is discarded. -/
def Obligations.UnassignedOffsets : Prop :=
  ∀ (s : State) (link : LinkId) (by_ : Agent) (addr : BitVec 26) (data : W64), s.Canonical → s.barUp = true → linkFree s link.val →
    let a := addr.toNat
    (a % 4 = 0 → findReg a = none → s.serves a = true →
      readGives s link addr 4 0 (fun t => onlyHalves { t with out := s.out } s) ∧
      (mayAccess s by_ → completes s (.registerWrite by_ addr 4 data) fun t => onlyHalves t s)) ∧
    (a % 8 = 0 → findReg a = none → findReg (a + 4) = none → s.serves a = true → s.serves (a + 4) = true →
      readGives s link addr 8 0 (fun t => onlyHalves { t with out := s.out } s) ∧
      (mayAccess s by_ → completes s (.registerWrite by_ addr 8 data) fun t => onlyHalves t s))

/-- Accesses of the control space (R5, R7, R37, R38, Table 00-5): while the device does not answer, or the link is down, an access has no
effect; any that is not naturally aligned and of 32 or 64 bits, or that a die does not serve, is discarded or reads as ones;
a write of a whole register does what its access code says; a read gives what the register shows, and clears an RC one.
Accesses of a 64-bit register in halves (R37): the low half's read latches the high half for its link, and the next read of the high
half gives the latched value; the low half's write is held until the high half is written, and both take effect together,
or alone when 1 us has passed; a high half without a held low half takes effect alone. -/
def Obligations.RegisterAccesses : Prop :=
  (∀ (s : State) (link : LinkId) (by_ : Agent) (addr : BitVec 26) (size : Nat) (data : W64) (d : Nat) (r : RegRow), s.Canonical →
    let a := addr.toNat
    let rd : Instr := .registerReadClear link addr size
    let wr : Instr := .registerWrite by_ addr size data
    let natural := (size = 4 ∧ a % 4 = 0) ∨ (size = 8 ∧ a % 8 = 0)
    let answers := s.barUp = true ∧ linkFree s link.val
    let ones := if size = 8 then 2 ^ 64 - 1 else 0xFFFFFFFF
    let whole := (size = 4 ∧ a % 4 = 0 ∧ r.bits = 32) ∨ (size = 8 ∧ a % 8 = 0 ∧ r.bits = 64)
    let v := data.toNat % 2 ^ (8 * size) &&& r.mask
    let still (t : State) : Prop := onlyHalves { t with out := s.out } s
    (s.barUp = false → ignored s rd ∧ ignored s wr) ∧
    (s.linkUp link.val = false → ignored s rd ∧ ignored s (.registerWrite (.link link) addr size data)) ∧
    (answers → ¬ natural → readGives s link addr size 0xFFFFFFFF still) ∧
    (mayAccess s by_ → ¬ natural → completes s wr fun t => onlyHalves t s) ∧
    (answers → whole → findReg a = some (d, r, a) → s.serves a = false → readGives s link addr size ones still) ∧
    (mayAccess s by_ → whole → findReg a = some (d, r, a) → s.serves a = false → completes s wr fun t => onlyHalves t s) ∧
    (answers → whole → findReg a = some (d, r, a) → s.serves a = true → r.acc ≠ .rc →
      readGives s link addr size (shown s a d r) still) ∧
    (answers → whole → findReg a = some (d, r, a) → s.serves a = true → r.acc = .rc → s.withheld d r = false → r.base ≠ 0x400C24 →
      readGives s link addr size (shown s a d r) fun t => onlyAccess { t with out := s.out } s a ∧ t.reg a = 0) ∧
    (mayAccess s by_ → whole → plainReg s by_ a d r v → completes s wr fun t => onlyAccess t s a ∧
      codeWrite s a d r v (s.reg a) (t.reg a))) ∧
  (∀ (s : State) (link : LinkId) (addr : BitVec 26) (data : W64) (d : Nat) (r : RegRow) (a lo hi : Nat), s.Canonical → s.barUp = true →
    s.linkUp link.val = true → r.bits = 64 → s.serves a = true → s.serves (a + 4) = true → a % 8 = 0 → lo < 2 ^ 32 →
    let l := s.link link.val
    let x := addr.toNat
    let w := data.toNat % 2 ^ 32
    let mine (t : State) : HostLink := t.link link.val
    let reads := l.held = none ∧ findReg a = some (d, r, a) ∧ findReg (a + 4) = some (d, r, a) ∧ r.acc ≠ .rc
    let plain (v : Nat) : Prop := plainReg s (.link link) a d r v ∧ findReg (a + 4) = some (d, r, a) ∧ r.acc = .rw
    (reads → x = a → readGives s link addr 4 (shown s a d r % 2 ^ 32) fun t => onlyHalves { t with out := s.out } s ∧
      (mine t).latch = some (a, shown s a d r / 2 ^ 32)) ∧
    (reads → x = a + 4 → l.latch = some (a, hi) → readGives s link addr 4 hi fun t => onlyHalves { t with out := s.out } s ∧
      (mine t).latch = none) ∧
    (reads → x = a + 4 → l.latch = none → readGives s link addr 4 (shown s a d r / 2 ^ 32) fun t =>
      onlyHalves { t with out := s.out } s ∧ (mine t).latch = none) ∧
    (plain 0 → x = a → l.held = none → completes s (.registerWrite (.link link) addr 4 data) fun t => onlyHalves t s ∧
      (mine t).held = some (a, w)) ∧
    (plain ((lo + w * 2 ^ 32) &&& r.mask) → x = a + 4 → l.held = some (a, lo) →
      completes s (.registerWrite (.link link) addr 4 data) fun t => onlyAccess t s a ∧ (mine t).held = none ∧
        t.reg a = (lo + w * 2 ^ 32) &&& r.mask) ∧
    (plain (putBits (s.reg a) 32 32 w &&& r.mask) → x = a + 4 → l.held = none →
      completes s (.registerWrite (.link link) addr 4 data) fun t => onlyAccess t s a ∧ t.reg a = putBits (s.reg a) 32 32 w &&& r.mask) ∧
    (l.held = none → ignored s (.bar0LowHalfTimeout link)) ∧
    (plain (putBits (s.reg a) 0 32 lo &&& r.mask) → l.held = some (a, lo) → completes s (.bar0LowHalfTimeout link) fun t =>
      onlyAccess t s a ∧ (mine t).held = none ∧ t.reg a = putBits (s.reg a) 0 32 lo &&& r.mask))

/-- R32: a router answers a request to its own die by the die's state, and with TARGET_RESET whatever the state where the request carries
another incarnation than its current one. -/
def Obligations.MeshRequests : Prop :=
  ∀ (s : State) (p : MeshPkt), s.Canonical →
    let d := p.dst.val
    let state := if d = 24 ∧ s.mgmt.restarting = true then 1 else s.dieState d
    let ends (st : Nat) : Prop := exec (.meshRequest p) s = .next (s.emit (.meshEnd p.src.val p.id st))
    (p.dstInc.toNat ≠ s.routerCopy d d → ends St.TARGET_RESET) ∧
    (p.dstInc.toNat = s.routerCopy d d → state = dieOn → completes s (.meshRequest p) fun t =>
      t = { s with mesh := { s.mesh with reqs := s.mesh.reqs ++ [p] }, out := s.out ++ [.meshDeliver d p.id] }) ∧
    (p.dstInc.toNat = s.routerCopy d d → state = dieInReset → ends St.TARGET_RESET) ∧
    (p.dstInc.toNat = s.routerCopy d d → state ≠ dieOn → state ≠ dieInReset → ends St.DOMAIN_CLOSED)

/-- Responses, broadcasts and old packets of the mesh (R25, R31, R33, R34, R434): a response of an older incarnation, to an earlier one of
the requester, or to a die that is drained, is dropped and counted, and its request stays; any other ends its request; a
broadcast ends the requests that the router's die has outstanding to the die, and is kept; a packet more than 4 us old is
counted as stale. -/
def Obligations.MeshTraffic : Prop :=
  ∀ (s : State) (p q : MeshPkt) (router die : DieId) (inc : Byte), s.Canonical →
    let d := p.dst.val
    let a := Reg.INCARN_DROP_CNT d
    let r := router.val
    let mine (x : MeshPkt) : Bool := decide (x.src.val = r) && decide (x.dst.val = die.val)
    let old := (p.srcInc.toNat ≠ s.routerCopy d p.src.val ∧ (s.routerCopy d p.src.val + 256 - p.srcInc.toNat) % 256 < 128) ∨
      p.dstInc.toNat ≠ s.routerCopy d d ∨ s.dieState d = dieDrained ∨ s.dieState d = dieOff
    let hit := s.mesh.reqs.find? fun x => decide (x.src = p.dst) && decide (x.dst = p.src) && decide (x.id = p.id)
    (old → LateKey.drain d ∉ s.flt.lateDue → completes s (.meshResponse p) fun t => onlyRegs t s [a] ∧
      t.reg a = min 0xFFFFFFFF (s.reg a + 1)) ∧
    (old → LateKey.drain d ∈ s.flt.lateDue → completes s (.meshResponse p) fun t => t.reg a = min 0xFFFFFFFF (s.reg a + 1) ∧
      t.mesh = s.mesh ∧ memoryStands t s ∧ LateKey.drain d ∉ t.flt.lateDue) ∧
    (¬ old → hit = none → ignored s (.meshResponse p)) ∧
    (¬ old → hit = some q → completes s (.meshResponse p) fun t =>
      t = { s with mesh := { s.mesh with reqs := s.mesh.reqs.erase q }, out := s.out ++ [.meshAnswer d p.id] }) ∧
    (inc.toNat ≠ s.incarn die.val ∨ inc.toNat = s.routerCopy r die.val → ignored s (.incarnBroadcastApply router die inc)) ∧
    (inc.toNat = s.incarn die.val → inc.toNat ≠ s.routerCopy r die.val → completes s (.incarnBroadcastApply router die inc) fun t =>
      t = { s with mesh := t.mesh, out := t.out } ∧ t.routerCopy r die.val = inc.toNat ∧ (∀ x ∈ t.mesh.reqs, mine x = false) ∧
      (∀ x, mine x = false → x ∈ s.mesh.reqs → x ∈ t.mesh.reqs) ∧
      t.out = s.out ++ (s.mesh.reqs.filter mine).map fun x => .meshEnd x.src.val x.id St.TARGET_RESET) ∧
    (p.age ≤ 4000 → ignored s (.meshPacketAgeExpiry router p)) ∧
    (4000 < p.age → completes s (.meshPacketAgeExpiry router p) fun t => t.mesh = s.mesh ∧ memoryStands t s ∧
      t.reg (Reg.MESH_STALE_CNT r) = min 0xFFFFFFFF (s.reg (Reg.MESH_STALE_CNT r) + 1))

/-- A step takes the command at the front of the queue and does what the command does, with the rest of the queue (log 1). -/
def Obligations.StepRunsFront : Prop :=
  ∀ (s : State) (i : Instr) (rest : List Instr), step { s with pending := i :: rest } = exec i { s with pending := rest }

/-- Every step goes on, and keeps every sparse map of the state in canonical form: strictly rising keys, and no entry that an absent key
already stands for. It takes exactly the command at the front of the queue, forgets nothing of what was sent, and draws
free values only anew. -/
def Obligations.StepsKeepCanonical : Prop :=
  ∀ s : State, s.Canonical → ∃ t, step s = .next t ∧ t.Canonical ∧ t.pending = s.pending.tail ∧ s.out <+: t.out ∧ s.free ≤ t.free

/-- The state at reset (R7, R8, R30, R172, R432, R508): its maps are canonical, its queue is empty, the apex die is ON and every other die in
reset under incarnation 0, every queue DISABLED, every bay FREE, every port DISABLED, and nothing is held in memory. -/
def Obligations.ResetState : Prop :=
  State.reset.Canonical ∧ State.reset.pending = [] ∧ State.reset.dieState 24 = dieOn ∧
    (∀ d, d < 24 → State.reset.dieState d = dieInReset) ∧ (∀ d, d < 25 → State.reset.incarn d = 0) ∧
    (∀ q, q < 512 → State.reset.qState q = qDisabled) ∧ (∀ b, b < 16 → State.reset.bayState b = bayFree) ∧
    (∀ p, p < 8 → State.reset.portState p = portDisabled) ∧ (∀ a, hbmByte State.reset a = 0) ∧
    ∀ d p, State.reset.eng d p = Engine.zero
end

