-- ==== Sys2Proof/Laws/Map.lean ====
section
/-! SUPPORT. Laws of the sparse maps: a read after a write, and that every operation on maps keeps the canonical form. -/

namespace Sys2Proof.Machine

variable {α : Type} [DecidableEq α] {d : Nat → α}

/-! ### Reads -/

omit [DecidableEq α] in
@[simp] theorem mget_nil (k : Nat) : mget d [] k = d k := rfl

omit [DecidableEq α] in
theorem mget_minsert (m : SMap α) (k k' : Nat) (v : α) :
    mget d (minsert m k v) k' = if k' = k then v else mget d m k' := by
  induction m with
  | nil => simp [minsert, mget, eq_comm]
  | cons e r ih =>
    obtain ⟨a, b⟩ := e
    unfold minsert
    by_cases h1 : k < a
    · simp only [h1, ↓reduceIte, mget, eq_comm]
    · by_cases h2 : k = a
      · subst h2
        simp only [Nat.lt_irrefl, ↓reduceIte, mget]
        by_cases h3 : k = k' <;> simp [h3, eq_comm]
      · simp only [h1, h2, ↓reduceIte, mget, ih]
        by_cases h3 : a = k'
        · subst h3
          simp [Ne.symm h2]
        · simp [h3]

/-- Keys of a canonical map are above its bound. -/
theorem mwfFrom_above {m : SMap α} {l : Nat} (h : mwfFrom d (some l) m = true) {k : Nat} (hk : k ≤ l) :
    mget d m k = d k := by
  induction m generalizing l with
  | nil => rfl
  | cons e r ih =>
    obtain ⟨a, b⟩ := e
    simp only [mwfFrom, Bool.and_eq_true, decide_eq_true_eq] at h
    have ha : a ≠ k := by omega
    simp only [mget, ha, ↓reduceIte]
    exact ih h.2 (by omega)

theorem mwfFrom_of_lt {m : SMap α} {l l' : Nat} (h : mwfFrom d (some l) m = true) (hl : l' ≤ l) :
    mwfFrom d (some l') m = true := by
  cases m with
  | nil => rfl
  | cons e r =>
    obtain ⟨a, b⟩ := e
    simp only [mwfFrom, Bool.and_eq_true, decide_eq_true_eq] at h ⊢
    exact ⟨⟨by omega, h.1.2⟩, h.2⟩

theorem mwf_of_from {m : SMap α} {l : Nat} (h : mwfFrom d (some l) m = true) : mwf d m = true := by
  cases m with
  | nil => rfl
  | cons e r =>
    obtain ⟨a, b⟩ := e
    simp only [mwf, mwfFrom, Bool.and_eq_true, decide_eq_true_eq, true_and] at h ⊢
    exact ⟨h.1.2, h.2⟩

theorem mwfFrom_cons {m : SMap α} {lo : Option Nat} {k : Nat} {v : α} :
    mwfFrom d lo ((k, v) :: m) = true ↔ (∀ l ∈ lo, l < k) ∧ v ≠ d k ∧ mwfFrom d (some k) m = true := by
  cases lo <;> simp [mwfFrom, and_assoc]

/-! ### The canonical form is kept -/

@[simp] theorem mwf_nil : mwf d ([] : SMap α) = true := rfl

theorem mwfFrom_merase {m : SMap α} {lo : Option Nat} (h : mwfFrom d lo m = true) (k : Nat) :
    mwfFrom d lo (merase m k) = true := by
  induction m generalizing lo with
  | nil => rfl
  | cons e r ih =>
    obtain ⟨a, b⟩ := e
    have h' := mwfFrom_cons.mp h
    unfold merase
    split
    · next hk =>
      cases lo with
      | none => exact mwf_of_from h'.2.2
      | some l => exact mwfFrom_of_lt h'.2.2 (Nat.le_of_lt (h'.1 l rfl))
    · exact mwfFrom_cons.mpr ⟨h'.1, h'.2.1, ih h'.2.2⟩

theorem mwfFrom_minsert {m : SMap α} {lo : Option Nat} (h : mwfFrom d lo m = true) {k : Nat} {v : α} (hv : v ≠ d k)
    (hk : ∀ l ∈ lo, l < k) : mwfFrom d lo (minsert m k v) = true := by
  induction m generalizing lo with
  | nil => exact mwfFrom_cons.mpr ⟨hk, hv, rfl⟩
  | cons e r ih =>
    obtain ⟨a, b⟩ := e
    have h' := mwfFrom_cons.mp h
    unfold minsert
    split
    · next h1 => exact mwfFrom_cons.mpr ⟨hk, hv, mwfFrom_cons.mpr ⟨by simpa using h1, h'.2.1, h'.2.2⟩⟩
    · split
      · next h2 => subst h2; exact mwfFrom_cons.mpr ⟨hk, hv, h'.2.2⟩
      · next h1 h2 => exact mwfFrom_cons.mpr ⟨h'.1, h'.2.1, ih h'.2.2 (by simp; omega)⟩

/-- A write keeps the canonical form. -/
@[simp] theorem mwf_mset {m : SMap α} (h : mwf d m = true) (k : Nat) (v : α) : mwf d (mset d m k v) = true := by
  unfold mset
  split
  · exact mwfFrom_merase h k
  · next hv => exact mwfFrom_minsert h hv (by simp)

@[simp] theorem mwf_mmod {m : SMap α} (h : mwf d m = true) (k : Nat) (f : α → α) : mwf d (mmod d m k f) = true :=
  mwf_mset h k _

theorem mwfFrom_filter {m : SMap α} {lo : Option Nat} (h : mwfFrom d lo m = true) (p : Nat × α → Bool) :
    mwfFrom d lo (m.filter p) = true := by
  induction m generalizing lo with
  | nil => rfl
  | cons e r ih =>
    obtain ⟨a, b⟩ := e
    have h' := mwfFrom_cons.mp h
    simp only [List.filter_cons]
    split
    · exact mwfFrom_cons.mpr ⟨h'.1, h'.2.1, ih h'.2.2⟩
    · cases lo with
      | none => exact mwf_of_from (ih h'.2.2)
      | some l => exact mwfFrom_of_lt (ih h'.2.2) (Nat.le_of_lt (h'.1 l rfl))

@[simp] theorem mwf_filter {m : SMap α} (h : mwf d m = true) (p : Nat × α → Bool) : mwf d (m.filter p) = true :=
  mwfFrom_filter h p

@[simp] theorem mwf_mclear {m : SMap α} (h : mwf d m = true) (p : Nat → Bool) : mwf d (mclear m p) = true :=
  mwfFrom_filter h _

theorem mwfFrom_mmap {m : SMap α} {lo : Option Nat} (h : mwfFrom d lo m = true) (f : α → α) :
    mwfFrom d lo (mmap d m f) = true := by
  unfold mmap
  induction m generalizing lo with
  | nil => rfl
  | cons e r ih =>
    obtain ⟨a, b⟩ := e
    have h' := mwfFrom_cons.mp h
    simp only [List.map_cons, List.filter_cons]
    split
    · next hv => exact mwfFrom_cons.mpr ⟨h'.1, of_decide_eq_true hv, ih h'.2.2⟩
    · cases lo with
      | none => exact mwf_of_from (ih h'.2.2)
      | some l => exact mwfFrom_of_lt (ih h'.2.2) (Nat.le_of_lt (h'.1 l rfl))

@[simp] theorem mwf_mmap {m : SMap α} (h : mwf d m = true) (f : α → α) : mwf d (mmap d m f) = true := mwfFrom_mmap h f

theorem mwf_foldl {β : Type} {f : SMap α → β → SMap α} (hf : ∀ m b, mwf d m = true → mwf d (f m b) = true) (l : List β) :
    ∀ {m : SMap α}, mwf d m = true → mwf d (l.foldl f m) = true := by
  induction l with
  | nil => exact fun h => h
  | cons b l ih => exact fun h => ih (hf _ b h)

/-! ### A read after a write -/

theorem mget_merase {m : SMap α} (h : mwf d m = true) (k k' : Nat) :
    mget d (merase m k) k' = if k' = k then d k else mget d m k' := by
  unfold mwf at h
  generalize none = lo at h
  induction m generalizing lo with
  | nil => by_cases hk : k' = k <;> simp [merase, hk]
  | cons e r ih =>
    obtain ⟨a, b⟩ := e
    have h' := mwfFrom_cons.mp h
    unfold merase
    split
    · next hk =>
      subst hk
      by_cases hk' : k' = a
      · subst hk'
        simpa using mwfFrom_above h'.2.2 (Nat.le_refl _)
      · simp [hk', mget, Ne.symm hk']
    · next hk =>
      by_cases hk' : a = k'
      · subst hk'
        simp [mget, hk]
      · simp only [mget, hk', ↓reduceIte, ih _ h'.2.2]

/-- What a map reads after a write: the value there, and elsewhere what it read before. -/
theorem mget_mset {m : SMap α} (h : mwf d m = true) (k k' : Nat) (v : α) :
    mget d (mset d m k v) k' = if k' = k then v else mget d m k' := by
  unfold mset
  split
  · next hv => subst hv; exact mget_merase h k k'
  · exact mget_minsert m k k' v

theorem mget_mset_same {m : SMap α} (h : mwf d m = true) (k : Nat) (v : α) : mget d (mset d m k v) k = v := by
  simp [mget_mset h]

theorem mget_mset_other {m : SMap α} (h : mwf d m = true) {k k' : Nat} (hk : k' ≠ k) (v : α) :
    mget d (mset d m k v) k' = mget d m k' := by
  simp [mget_mset h, hk]

/-- Canonical maps that read alike are equal. -/
theorem mwf_ext {m m' : SMap α} (h : mwf d m = true) (h' : mwf d m' = true) (he : ∀ k, mget d m k = mget d m' k) :
    m = m' := by
  unfold mwf at h h'
  generalize none = lo at h h'
  induction m generalizing m' lo with
  | nil =>
    cases m' with
    | nil => rfl
    | cons e r =>
      obtain ⟨a, b⟩ := e
      have h2 := mwfFrom_cons.mp h'
      exact absurd (by simpa [mget] using he a) (Ne.symm h2.2.1)
  | cons e r ih =>
    obtain ⟨a, b⟩ := e
    have h1 := mwfFrom_cons.mp h
    cases m' with
    | nil => exact absurd (by simpa [mget] using he a) h1.2.1
    | cons e' r' =>
      obtain ⟨a', b'⟩ := e'
      have h2 := mwfFrom_cons.mp h'
      have haa : a = a' := by
        rcases Nat.lt_trichotomy a a' with hlt | heq | hgt
        · have := he a
          simp only [mget, ↓reduceIte, Nat.ne_of_gt hlt] at this
          rw [mwfFrom_above h2.2.2 (Nat.le_of_lt hlt)] at this
          exact absurd this h1.2.1
        · exact heq
        · have := he a'
          simp only [mget, ↓reduceIte, Nat.ne_of_gt hgt] at this
          rw [mwfFrom_above h1.2.2 (Nat.le_of_lt hgt)] at this
          exact absurd this.symm h2.2.1
      subst haa
      have hb : b = b' := by simpa [mget] using he a
      subst hb
      congr 1
      refine ih (fun k => ?_) _ h1.2.2 h2.2.2
      by_cases hk : a = k
      · subst hk
        rw [mwfFrom_above h1.2.2 (Nat.le_refl _), mwfFrom_above h2.2.2 (Nat.le_refl _)]
      · simpa [mget, hk] using he k

/-! ### Byte ranges -/

@[simp] theorem mwf_rangePut (bs : List Byte) : ∀ {m : SMap Byte}, mwf (fun _ => (0 : Byte)) m = true →
    ∀ a : Nat, mwf (fun _ => (0 : Byte)) (rangePut m a bs) = true := by
  induction bs with
  | nil => exact fun h a => h
  | cons b r ih => exact fun h a => ih (mwf_mset h a b) (a + 1)

@[simp] theorem mwf_markPut {m : SMap Bool} (h : mwf (fun _ => false) m = true) (k : Nat) (b : Bool) :
    mwf (fun _ => false) (markPut m k b) = true := mwf_mset h k b

theorem rangePut_other (bs : List Byte) : ∀ {m : SMap Byte}, mwf (fun _ => (0 : Byte)) m = true → ∀ (a k : Nat),
    k < a ∨ a + bs.length ≤ k → mget (fun _ => (0 : Byte)) (rangePut m a bs) k = mget (fun _ => 0) m k := by
  induction bs with
  | nil => intro m h a k hk; rfl
  | cons b r ih =>
    intro m h a k hk
    simp only [List.length_cons] at hk
    rw [rangePut, ih (mwf_mset h a b) (a + 1) k (by omega), mget_mset_other h (by omega)]

theorem rangePut_same (bs : List Byte) : ∀ {m : SMap Byte}, mwf (fun _ => (0 : Byte)) m = true → ∀ (a i : Nat)
    (hi : i < bs.length), mget (fun _ => (0 : Byte)) (rangePut m a bs) (a + i) = bs[i] := by
  induction bs with
  | nil => intro m h a i hi; simp at hi
  | cons b r ih =>
    intro m h a i hi
    rw [rangePut]
    cases i with
    | zero => rw [rangePut_other r (mwf_mset h a b) _ _ (by omega), Nat.add_zero, mget_mset_same h]; rfl
    | succ j =>
      have := ih (mwf_mset h a b) (a + 1) j (by simpa using hi)
      rw [show a + (j + 1) = a + 1 + j by omega, this]
      rfl

end Sys2Proof.Machine
end

