-- ==== Sys2Proof/Laws/Keeps.lean ====
section
/-! SUPPORT. What every operation of the model keeps: the queue, the outputs so far, the free values drawn so far, and the
canonical form of every sparse map. One predicate carries the four, so that each operation needs one lemma. -/

namespace Sys2Proof.Machine

/-- s has the queue q, at least n draws, the outputs o and perhaps more behind them, and canonical maps. -/
structure Keeps (q : List Instr) (n : Nat) (o : List Output) (s : State) : Prop where
  pending : s.pending = q
  draws : n ≤ s.free
  out : o <+: s.out
  canon : s.Canonical

variable {q : List Instr} {n : Nat} {o : List Output} {s : State}

theorem Keeps.rfl (h : s.Canonical) : Keeps s.pending s.free s.out s := ⟨.refl _, Nat.le_refl _, List.prefix_refl _, h⟩

/-! ### Engines -/

theorem Engine.zero_canonical : Engine.zero.Canonical := ⟨rfl, rfl, rfl, rfl, ⟨rfl, rfl⟩, ⟨rfl, rfl⟩, rfl, rfl⟩

theorem mget_all {α : Type} {P : α → Prop} {d : Nat → α} {m : SMap α} {k : Nat} (h : ∀ e ∈ m, P e.2) (hd : P (d k)) :
    P (mget d m k) := by
  induction m with
  | nil => exact hd
  | cons e r ih =>
    obtain ⟨a, b⟩ := e
    unfold mget
    split
    · exact h (a, b) (by simp)
    · exact ih fun e he => h e (by simp [he])

theorem merase_all {α : Type} {P : α → Prop} {m : SMap α} {k : Nat} (h : ∀ e ∈ m, P e.2) : ∀ e ∈ merase m k, P e.2 := by
  induction m with
  | nil => exact h
  | cons e r ih =>
    obtain ⟨a, b⟩ := e
    unfold merase
    split
    · exact fun e he => h e (by simp [he])
    · intro e he
      rcases List.mem_cons.mp he with h1 | h1
      · exact h e (by simp [h1])
      · exact ih (fun e he => h e (by simp [he])) e h1

theorem minsert_all {α : Type} {P : α → Prop} {m : SMap α} {k : Nat} {v : α} (h : ∀ e ∈ m, P e.2) (hv : P v) :
    ∀ e ∈ minsert m k v, P e.2 := by
  induction m with
  | nil => intro e he; simp only [minsert, List.mem_singleton] at he; subst he; exact hv
  | cons e r ih =>
    obtain ⟨a, b⟩ := e
    have hr : ∀ e ∈ r, P e.2 := fun e he => h e (by simp [he])
    unfold minsert
    split
    · intro e he
      rcases List.mem_cons.mp he with h1 | h1
      · exact h1 ▸ hv
      · exact h e h1
    · split
      · intro e he
        rcases List.mem_cons.mp he with h1 | h1
        · exact h1 ▸ hv
        · exact hr e h1
      · intro e he
        rcases List.mem_cons.mp he with h1 | h1
        · exact h e (by simp [h1])
        · exact ih hr e h1

theorem mset_all {α : Type} [DecidableEq α] {P : α → Prop} {d : Nat → α} {m : SMap α} {k : Nat} {v : α}
    (h : ∀ e ∈ m, P e.2) (hv : P v) : ∀ e ∈ mset d m k v, P e.2 := by
  unfold mset
  split
  · exact merase_all h
  · exact minsert_all h hv

theorem mclear_all {α : Type} {P : α → Prop} {m : SMap α} {p : Nat → Bool} (h : ∀ e ∈ m, P e.2) :
    ∀ e ∈ mclear m p, P e.2 := fun e he => h e ((List.mem_filter.mp he).1)

theorem Keeps.eng (h : Keeps q n o s) (d p : Nat) : (s.eng d p).Canonical := mget_all h.canon.engine Engine.zero_canonical

theorem State.setEng_keeps (h : Keeps q n o s) (d p : Nat) {e : Engine} (he : e.Canonical) : Keeps q n o (s.setEng d p e) :=
  ⟨h.pending, h.draws, h.out,
    { h.canon with engines := mwf_mset h.canon.engines _ _, engine := mset_all h.canon.engine he }⟩

/-! ### Registers, draws, outputs, time -/

theorem State.setReg_keeps (h : Keeps q n o s) (a v : Nat) : Keeps q n o (s.setReg a v) :=
  ⟨h.pending, h.draws, h.out, { h.canon with regs := mwf_mset h.canon.regs _ _ }⟩

theorem State.setFld_keeps (h : Keeps q n o s) (a lo w v : Nat) : Keeps q n o (s.setFld a lo w v) := setReg_keeps h _ _
theorem State.count_keeps (h : Keeps q n o s) (a k : Nat) : Keeps q n o (s.count a k) := setReg_keeps h _ _
theorem State.count32_keeps (h : Keeps q n o s) (a k : Nat) : Keeps q n o (s.count32 a k) := setReg_keeps h _ _
theorem State.count64_keeps (h : Keeps q n o s) (a k : Nat) : Keeps q n o (s.count64 a k) := setReg_keeps h _ _

theorem State.draw_keeps (h : Keeps q n o s) : Keeps q n o s.draw.2 :=
  ⟨h.pending, Nat.le_succ_of_le h.draws, h.out, { h.canon with }⟩

theorem State.emit_keeps (h : Keeps q n o s) (x : Output) : Keeps q n o (s.emit x) :=
  ⟨h.pending, h.draws, h.out.trans (List.prefix_append _ _), { h.canon with }⟩

theorem State.emits_keeps (h : Keeps q n o s) (xs : List Output) : Keeps q n o (s.emits xs) :=
  ⟨h.pending, h.draws, h.out.trans (List.prefix_append _ _), { h.canon with }⟩

theorem State.tickStamp_keeps (h : Keeps q n o s) : Keeps q n o s.tickStamp.2 :=
  ⟨h.pending, h.draws, h.out, { h.canon with }⟩

/-! ### Grouped parts -/

theorem State.onCq_keeps (h : Keeps q n o s) {f : CmdState → CmdState} (hf : s.cq.Canonical → (f s.cq).Canonical) :
    Keeps q n o (s.onCq f) := ⟨h.pending, h.draws, h.out, { h.canon with cq := hf h.canon.cq }⟩

theorem State.onMem_keeps (h : Keeps q n o s) {f : Mem → Mem} (hf : s.mem.Canonical → (f s.mem).Canonical) :
    Keeps q n o (s.onMem f) := ⟨h.pending, h.draws, h.out, { h.canon with mem := hf h.canon.mem }⟩

theorem State.onFlt_keeps (h : Keeps q n o s) {f : Faults → Faults} (hf : s.flt.Canonical → (f s.flt).Canonical) :
    Keeps q n o (s.onFlt f) := ⟨h.pending, h.draws, h.out, { h.canon with flt := hf h.canon.flt }⟩

theorem State.onLofts_keeps (h : Keeps q n o s) {f : Lofts → Lofts} (hf : s.lofts.Canonical → (f s.lofts).Canonical) :
    Keeps q n o (s.onLofts f) := ⟨h.pending, h.draws, h.out, { h.canon with lofts := hf h.canon.lofts }⟩

theorem State.onKv_keeps (h : Keeps q n o s) (f : KvState → KvState) : Keeps q n o (s.onKv f) :=
  ⟨h.pending, h.draws, h.out, { h.canon with }⟩

theorem State.onPins_keeps (h : Keeps q n o s) (f : Pins → Pins) : Keeps q n o (s.onPins f) :=
  ⟨h.pending, h.draws, h.out, { h.canon with }⟩

theorem State.onHosts_keeps (h : Keeps q n o s) {f : Hosts → Hosts}
    (hf : mwf ccDefault s.hosts.cc = true → mwf ccDefault (f s.hosts).cc = true) : Keeps q n o (s.onHosts f) :=
  ⟨h.pending, h.draws, h.out, { h.canon with cache := hf h.canon.cache }⟩

theorem State.onMesh_keeps (h : Keeps q n o s) {f : MeshState → MeshState}
    (hf : mwf (fun _ => (0 : Byte)) s.mesh.copies = true → mwf (fun _ => (0 : Byte)) (f s.mesh).copies = true) :
    Keeps q n o (s.onMesh f) := ⟨h.pending, h.draws, h.out, { h.canon with copies := hf h.canon.copies }⟩

theorem State.onFab_keeps (h : Keeps q n o s) {f : FabState → FabState}
    (hf : mwf portDefault s.fab.ports = true → mwf portDefault (f s.fab).ports = true) : Keeps q n o (s.onFab f) :=
  ⟨h.pending, h.draws, h.out, { h.canon with ports := hf h.canon.ports }⟩

theorem State.onSec_keeps (h : Keeps q n o s) {f : SecState → SecState}
    (hf : mwf keysDefault s.sec.keys = true → mwf keysDefault (f s.sec).keys = true) : Keeps q n o (s.onSec f) :=
  ⟨h.pending, h.draws, h.out, { h.canon with keys := hf h.canon.keys }⟩

theorem State.onRt_keeps (h : Keeps q n o s) {f : RtState → RtState}
    (hf : mwf rtDefault s.rt.models = true → mwf rtDefault (f s.rt).models = true) : Keeps q n o (s.onRt f) :=
  ⟨h.pending, h.draws, h.out, { h.canon with models := hf h.canon.models }⟩

theorem State.onMgmt_keeps (h : Keeps q n o s) {f : Mgmt → Mgmt}
    (hf : mwf (fun _ => 0) s.mgmt.sensors = true → mwf (fun _ => 0) (f s.mgmt).sensors = true) : Keeps q n o (s.onMgmt f) :=
  ⟨h.pending, h.draws, h.out, { h.canon with sensors := hf h.canon.sensors }⟩

/-! ### One part replaced -/

theorem Keeps.withRegs (h : Keeps q n o s) {v : SMap W64} (hv : mwf resetOf v = true) : Keeps q n o { s with regs := v } :=
  ⟨h.pending, h.draws, h.out, { h.canon with regs := hv }⟩

theorem Keeps.withRt (h : Keeps q n o s) {v : RtState} (hv : mwf rtDefault v.models = true) : Keeps q n o { s with rt := v } :=
  ⟨h.pending, h.draws, h.out, { h.canon with models := hv }⟩

theorem Keeps.withMgmt (h : Keeps q n o s) {v : Mgmt} (hv : mwf (fun _ => 0) v.sensors = true) : Keeps q n o { s with mgmt := v } :=
  ⟨h.pending, h.draws, h.out, { h.canon with sensors := hv }⟩

theorem Keeps.withSec (h : Keeps q n o s) {v : SecState} (hv : mwf keysDefault v.keys = true) : Keeps q n o { s with sec := v } :=
  ⟨h.pending, h.draws, h.out, { h.canon with keys := hv }⟩

theorem Keeps.withFab (h : Keeps q n o s) {v : FabState} (hv : mwf portDefault v.ports = true) : Keeps q n o { s with fab := v } :=
  ⟨h.pending, h.draws, h.out, { h.canon with ports := hv }⟩

theorem Keeps.withHosts (h : Keeps q n o s) {v : Hosts} (hv : mwf ccDefault v.cc = true) : Keeps q n o { s with hosts := v } :=
  ⟨h.pending, h.draws, h.out, { h.canon with cache := hv }⟩

theorem Keeps.withMesh (h : Keeps q n o s) {v : MeshState} (hv : mwf (fun _ => (0 : Byte)) v.copies = true) : Keeps q n o { s with mesh := v } :=
  ⟨h.pending, h.draws, h.out, { h.canon with copies := hv }⟩

theorem Keeps.withLofts (h : Keeps q n o s) {v : Lofts} (hv : v.Canonical) : Keeps q n o { s with lofts := v } :=
  ⟨h.pending, h.draws, h.out, { h.canon with lofts := hv }⟩

theorem Keeps.withMem (h : Keeps q n o s) {v : Mem} (hv : v.Canonical) : Keeps q n o { s with mem := v } :=
  ⟨h.pending, h.draws, h.out, { h.canon with mem := hv }⟩

theorem Keeps.withCq (h : Keeps q n o s) {v : CmdState} (hv : v.Canonical) : Keeps q n o { s with cq := v } :=
  ⟨h.pending, h.draws, h.out, { h.canon with cq := hv }⟩

theorem Keeps.withFlt (h : Keeps q n o s) {v : Faults} (hv : v.Canonical) : Keeps q n o { s with flt := v } :=
  ⟨h.pending, h.draws, h.out, { h.canon with flt := hv }⟩

theorem Keeps.withKtime (h : Keeps q n o s) {v : W64} : Keeps q n o { s with ktime := v } :=
  ⟨h.pending, h.draws, h.out, { h.canon with }⟩

theorem Keeps.withKv (h : Keeps q n o s) {v : KvState} : Keeps q n o { s with kv := v } :=
  ⟨h.pending, h.draws, h.out, { h.canon with }⟩

theorem Keeps.withPins (h : Keeps q n o s) {v : Pins} : Keeps q n o { s with pins := v } :=
  ⟨h.pending, h.draws, h.out, { h.canon with }⟩

theorem Keeps.withStamp (h : Keeps q n o s) {v : Nat} : Keeps q n o { s with stamp := v } :=
  ⟨h.pending, h.draws, h.out, { h.canon with }⟩

theorem Keeps.clearEngines (h : Keeps q n o s) (p : Nat → Bool) : Keeps q n o { s with engines := mclear s.engines p } :=
  ⟨h.pending, h.draws, h.out, { h.canon with engines := mwf_mclear h.canon.engines _, engine := mclear_all h.canon.engine }⟩

/-! ### Folds -/

theorem foldl_keeps {α β : Type} {P : β → Prop} {f : β → α → β} (hf : ∀ t a, P t → P (f t a)) (l : List α) :
    ∀ {t : β}, P t → P (l.foldl f t) := by
  induction l with
  | nil => exact fun h => h
  | cons a l ih => exact fun h => ih (hf _ a h)

theorem foldl_engine {α : Type} {f : Engine → α → Engine} {l : List α} {e : Engine} (he : e.Canonical)
    (hf : ∀ e a, e.Canonical → (f e a).Canonical) : (l.foldl f e).Canonical := foldl_keeps hf l he

theorem foldl_state {α : Type} {f : State → α → State} {l : List α} (h : Keeps q n o s)
    (hf : ∀ t a, Keeps q n o t → Keeps q n o (f t a)) : Keeps q n o (l.foldl f s) := foldl_keeps hf l h

theorem foldl_fst_engine {α β : Type} {f : Engine × β → α → Engine × β} {l : List α} {x : Engine × β} (he : x.1.Canonical)
    (hf : ∀ y a, y.1.Canonical → (f y a).1.Canonical) : (l.foldl f x).1.Canonical :=
  foldl_keeps (P := fun y : Engine × β => y.1.Canonical) hf l he

theorem foldl_fst_state {α β : Type} {f : State × β → α → State × β} {l : List α} {x : State × β} (h : Keeps q n o x.1)
    (hf : ∀ y a, Keeps q n o y.1 → Keeps q n o (f y a).1) : Keeps q n o (l.foldl f x).1 :=
  foldl_keeps (P := fun y : State × β => Keeps q n o y.1) hf l h

theorem State.forAll_keeps {α : Type} (h : Keeps q n o s) {f : State → α → State} (l : List α)
    (hf : ∀ t a, Keeps q n o t → Keeps q n o (f t a)) : Keeps q n o (s.forAll l f) := foldl_keeps hf l h

end Sys2Proof.Machine
end

