-- ==== Sys2Proof/Laws/KeepsEngState.lean ====
section
/-! SUPPORT. What each operation of Machine/EngState.lean keeps (Laws/Keeps.lean). -/

namespace Sys2Proof.Machine

theorem StatSet.empty_keeps  :
    StatSet.Canonical StatSet.empty := ⟨rfl, rfl⟩

theorem Engine.zero_keeps  :
    Engine.Canonical Engine.zero := Engine.zero_canonical

end Sys2Proof.Machine
end

