-- ==== Sys2Proof/Laws/KeepsOps.lean ====
section
/-! SUPPORT. What each operation of Machine/Ops.lean keeps (Laws/Keeps.lean). -/

namespace Sys2Proof.Machine

theorem State.setDieState_keeps {q : List Instr} {n : Nat} {o : List Output} {s : State} (d v : Nat) (h : Keeps q n o s) :
    Keeps q n o (State.setDieState s d v) := by
  unfold State.setDieState
  try dsimp only
  repeat' first
    | with_reducible assumption
    | with_reducible apply State.setFld_keeps
    | split
    | dsimp only
    | intro _
    | exact id

theorem State.bumpIncarn_keeps {q : List Instr} {n : Nat} {o : List Output} {s : State} (d : Nat) (h : Keeps q n o s) :
    Keeps q n o (State.bumpIncarn s d) := by
  unfold State.bumpIncarn
  try dsimp only
  repeat' first
    | with_reducible assumption
    | with_reducible apply State.setFld_keeps
    | split
    | dsimp only
    | intro _
    | exact id

theorem State.setSpare_keeps {q : List Instr} {n : Nat} {o : List Output} {s : State} (d l p : Nat) (h : Keeps q n o s) :
    Keeps q n o (State.setSpare s d l p) := ⟨h.pending, h.draws, h.out,
    { h.canon with flt := { h.canon.flt with spare := mwf_mset h.canon.flt.spare _ _ } }⟩

theorem State.setFailed_keeps {q : List Instr} {n : Nat} {o : List Output} {s : State} (d p : Nat) (h : Keeps q n o s) :
    Keeps q n o (State.setFailed s d p) := ⟨h.pending, h.draws, h.out,
    { h.canon with flt := { h.canon.flt with failed := mwf_mset h.canon.flt.failed _ _ } }⟩

theorem State.setLink_keeps {q : List Instr} {n' : Nat} {o : List Output} {s : State} (n : Nat) (l : HostLink) (h : Keeps q n' o s) :
    Keeps q n' o (State.setLink s n l) := State.onHosts_keeps h (by intro hc; split <;> exact hc)

end Sys2Proof.Machine
end

