-- ==== Sys2Proof/Laws/KeepsHostOps.lean ====
section
/-! SUPPORT. What each operation of Machine/HostOps.lean keeps (Laws/Keeps.lean). -/

namespace Sys2Proof.Machine

theorem State.emitVec_keeps {q : List Instr} {n : Nat} {o : List Output} {s : State} (v : Nat) (h : Keeps q n o s) :
    Keeps q n o (State.emitVec s v) := by
  unfold State.emitVec
  try dsimp only
  repeat' first
    | with_reducible assumption
    | with_reducible apply State.count64_keeps
    | with_reducible apply State.emit_keeps
    | split
    | dsimp only
    | intro _
    | exact id

theorem State.sendVec_keeps {q : List Instr} {n : Nat} {o : List Output} {s : State} (v : Nat) (h : Keeps q n o s) :
    Keeps q n o (State.sendVec s v) := by
  unfold State.sendVec
  try dsimp only
  repeat' first
    | with_reducible assumption
    | with_reducible apply State.emitVec_keeps
    | with_reducible apply State.setFld_keeps
    | split
    | dsimp only
    | intro _
    | exact id

theorem State.flushVecs_keeps {q : List Instr} {n : Nat} {o : List Output} {s : State} (h : Keeps q n o s) :
    Keeps q n o (State.flushVecs s) := by
  unfold State.flushVecs
  try dsimp only
  repeat' first
    | with_reducible assumption
    | with_reducible apply State.emitVec_keeps
    | with_reducible apply State.forAll_keeps
    | with_reducible apply State.setFld_keeps
    | split
    | dsimp only
    | intro _
    | exact id

theorem State.setCcLine_keeps {q : List Instr} {n : Nat} {o : List Output} {s : State} (l : Nat) (c : CLine) (h : Keeps q n o s) :
    Keeps q n o (State.setCcLine s l c) := by
  unfold State.setCcLine
  try dsimp only
  repeat' first
    | with_reducible assumption
    | with_reducible apply State.onHosts_keeps
    | with_reducible apply mwf_mset
    | split
    | dsimp only
    | intro _
    | exact id

theorem State.ccCountEvict_keeps {q : List Instr} {n : Nat} {o : List Output} {s : State} (h : Keeps q n o s) :
    Keeps q n o (State.ccCountEvict s) := by
  unfold State.ccCountEvict
  try dsimp only
  repeat' first
    | with_reducible assumption
    | with_reducible apply State.setFld_keeps
    | split
    | dsimp only
    | intro _
    | exact id

theorem State.ccEvictLine_keeps {q : List Instr} {n : Nat} {o : List Output} {s : State} (l : Nat) (h : Keeps q n o s) :
    Keeps q n o (State.ccEvictLine s l) := by
  unfold State.ccEvictLine
  try dsimp only
  repeat' first
    | with_reducible assumption
    | with_reducible apply State.ccCountEvict_keeps
    | with_reducible apply State.count_keeps
    | with_reducible apply State.emit_keeps
    | with_reducible apply State.onHosts_keeps
    | with_reducible apply State.setCcLine_keeps
    | split
    | dsimp only
    | intro _
    | exact id

theorem State.ccRoom_keeps {q : List Instr} {n : Nat} {o : List Output} {s : State} (l : Nat) (h : Keeps q n o s) :
    ∀ t, State.ccRoom s l = some t → Keeps q n o t := by
  intro t ht
  unfold State.ccRoom at ht
  try dsimp only at ht
  repeat' first
    | contradiction
    | (obtain rfl := Option.some.inj ht; clear ht)
    | with_reducible assumption
    | with_reducible apply State.ccEvictLine_keeps
    | split at ht
    | split
    | dsimp only
    | intro _

theorem State.ccWrite_keeps {q : List Instr} {n : Nat} {o : List Output} {s : State} (l off : Nat) (bs : List Byte) (h : Keeps q n o s) :
    Keeps q n o (State.ccWrite s l off bs) := by
  unfold State.ccWrite
  try dsimp only
  repeat' first
    | with_reducible assumption
    | (refine State.ccRoom_keeps _ ?_ _ ‹_ = some _›)
    | with_reducible apply State.emit_keeps
    | with_reducible apply State.onHosts_keeps
    | with_reducible apply State.setCcLine_keeps
    | with_reducible apply State.tickStamp_keeps
    | split
    | dsimp only
    | intro _
    | exact id

theorem State.ccRead_keeps {q : List Instr} {n : Nat} {o : List Output} {s : State} (l : Nat) (h : Keeps q n o s) :
    Keeps q n o (State.ccRead s l) := by
  unfold State.ccRead
  try dsimp only
  repeat' first
    | with_reducible assumption
    | (refine State.ccRoom_keeps _ ?_ _ ‹_ = some _›)
    | with_reducible apply State.emit_keeps
    | with_reducible apply State.onHosts_keeps
    | with_reducible apply State.setCcLine_keeps
    | with_reducible apply State.tickStamp_keeps
    | split
    | dsimp only
    | intro _
    | exact id

theorem State.ccRetry_keeps {q : List Instr} {n : Nat} {o : List Output} {s : State} (h : Keeps q n o s) :
    Keeps q n o (State.ccRetry s) := by
  unfold State.ccRetry
  try dsimp only
  repeat' first
    | with_reducible assumption
    | with_reducible apply State.ccRead_keeps
    | with_reducible apply State.ccWrite_keeps
    | with_reducible apply State.forAll_keeps
    | with_reducible apply State.onHosts_keeps
    | split
    | dsimp only
    | intro _
    | exact id

theorem State.hostWrite_keeps {q : List Instr} {n' : Nat} {o : List Output} {s : State} (n a : Nat) (bs : List Byte) (h : Keeps q n' o s) :
    Keeps q n' o (State.hostWrite s n a bs) := by
  unfold State.hostWrite
  try dsimp only
  repeat' first
    | with_reducible assumption
    | with_reducible apply State.ccWrite_keeps
    | with_reducible apply State.count64_keeps
    | with_reducible apply State.count_keeps
    | with_reducible apply State.emit_keeps
    | with_reducible apply State.forAll_keeps
    | split
    | dsimp only
    | intro _
    | exact id

theorem State.t3Send_keeps {q : List Instr} {n' : Nat} {o : List Output} {s : State} (n a ver : Nat) (bs : List PByte) (plain : Bool) (h : Keeps q n' o s) :
    Keeps q n' o (State.t3Send s n a ver bs plain) := by
  unfold State.t3Send
  try dsimp only
  repeat' first
    | with_reducible assumption
    | with_reducible apply State.count64_keeps
    | with_reducible apply State.count_keeps
    | with_reducible apply State.emit_keeps
    | split
    | dsimp only
    | intro _
    | exact id

theorem State.t3Fetch_keeps {q : List Instr} {n' : Nat} {o : List Output} {s : State} (n a len : Nat) (h : Keeps q n' o s) :
    Keeps q n' o (State.t3Fetch s n a len) := by
  unfold State.t3Fetch
  try dsimp only
  repeat' first
    | with_reducible assumption
    | with_reducible apply State.emit_keeps
    | split
    | dsimp only
    | intro _
    | exact id

end Sys2Proof.Machine
end

