-- ==== Sys2Proof/Laws/KeepsEvtOps.lean ====
section
/-! SUPPORT. What each operation of Machine/EvtOps.lean keeps (Laws/Keeps.lean). -/

namespace Sys2Proof.Machine

theorem State.jnlWrite_keeps {q : List Instr} {n : Nat} {o : List Output} {s : State} (e : JEntry) (h : Keeps q n o s) :
    Keeps q n o (State.jnlWrite s e) := by
  unfold State.jnlWrite
  try dsimp only
  repeat' first
    | with_reducible assumption
    | with_reducible apply State.hostWrite_keeps
    | with_reducible refine State.onCq_keeps ?_ (fun ⟨m0, m1, m2, m3⟩ => ⟨?_, ?_, ?_, ?_⟩)
    | with_reducible apply mwf_mset
    | split
    | dsimp only
    | intro _
    | exact id

theorem State.jnlState_keeps {q : List Instr} {n : Nat} {o : List Output} {s : State} (pos st status : Nat) (h : Keeps q n o s) :
    Keeps q n o (State.jnlState s pos st status) := by
  unfold State.jnlState
  try dsimp only
  repeat' first
    | with_reducible assumption
    | with_reducible apply State.jnlWrite_keeps
    | split
    | dsimp only
    | intro _
    | exact id

theorem State.setQState_keeps {q' : List Instr} {n : Nat} {o : List Output} {s : State} (q v : Nat) (h : Keeps q' n o s) :
    Keeps q' n o (State.setQState s q v) := by
  unfold State.setQState
  try dsimp only
  repeat' first
    | with_reducible assumption
    | with_reducible apply State.setFld_keeps
    | split
    | dsimp only
    | intro _
    | exact id

theorem State.setInflight_keeps {q' : List Instr} {n' : Nat} {o : List Output} {s : State} (q n : Nat) (h : Keeps q' n' o s) :
    Keeps q' n' o (State.setInflight s q n) := by
  unfold State.setInflight
  try dsimp only
  repeat' first
    | with_reducible assumption
    | with_reducible apply State.setFld_keeps
    | split
    | dsimp only
    | intro _
    | exact id

theorem State.setQx_keeps {q' : List Instr} {n : Nat} {o : List Output} {s : State} (q : Nat) (x : QueueX) (h : Keeps q' n o s) :
    Keeps q' n o (State.setQx s q x) := by
  unfold State.setQx
  try dsimp only
  repeat' first
    | with_reducible assumption
    | with_reducible refine State.onCq_keeps ?_ (fun ⟨m0, m1, m2, m3⟩ => ⟨?_, ?_, ?_, ?_⟩)
    | with_reducible apply mwf_mset
    | split
    | dsimp only
    | intro _
    | exact id

theorem State.acceptCmd_keeps {q' : List Instr} {n : Nat} {o : List Output} {s : State} (q : Nat) (ws : List W32) (pos : Nat) (h : Keeps q' n o s) :
    Keeps q' n o (State.acceptCmd s q ws pos).2 := by
  unfold State.acceptCmd
  try dsimp only
  repeat' first
    | with_reducible assumption
    | with_reducible apply State.jnlWrite_keeps
    | with_reducible refine State.onCq_keeps ?_ (fun ⟨m0, m1, m2, m3⟩ => ⟨?_, ?_, ?_, ?_⟩)
    | with_reducible apply State.setInflight_keeps
    | with_reducible apply State.setReg_keeps
    | split
    | dsimp only
    | intro _
    | exact id

theorem State.setEvt_keeps {q : List Instr} {n : Nat} {o : List Output} {s : State} (b e v : Nat) (h : Keeps q n o s) :
    Keeps q n o (State.setEvt s b e v) := by
  unfold State.setEvt
  try dsimp only
  repeat' first
    | with_reducible assumption
    | with_reducible apply State.setFld_keeps
    | split
    | dsimp only
    | intro _
    | exact id

theorem State.setCkpt_keeps {q : List Instr} {n : Nat} {o : List Output} {s : State} (b k : Nat) (c : Option Ckpt) (h : Keeps q n o s) :
    Keeps q n o (State.setCkpt s b k c) := by
  unfold State.setCkpt
  try dsimp only
  repeat' first
    | with_reducible assumption
    | with_reducible refine State.onFlt_keeps ?_ (fun ⟨m0, m1, m2, m3, m4, m5, m6, m7⟩ => ⟨?_, ?_, ?_, ?_, ?_, ?_, ?_, ?_⟩)
    | with_reducible apply mwf_mset
    | split
    | dsimp only
    | intro _
    | exact id

theorem State.signal_keeps {q : List Instr} {n : Nat} {o : List Output} (fuel : Nat) {s : State} (b e : Nat) (isMax : Bool) (v : Nat) (h : Keeps q n o s) :
    Keeps q n o (State.signal fuel s b e isMax v) := by
  induction fuel generalizing s b e isMax v with
  | zero =>
    unfold State.signal
    repeat' first
      | with_reducible assumption
      | contradiction
      | with_reducible apply State.acceptCmd_keeps
      | with_reducible apply State.count_keeps
      | with_reducible apply State.forAll_keeps
      | with_reducible apply State.packet_keeps
      | with_reducible apply State.setCkpt_keeps
      | with_reducible apply State.setEvt_keeps
      | with_reducible apply State.setFld_keeps
      | split
      | dsimp only
      | intro _
      | exact id
  | succ k ih =>
    unfold State.signal
    try dsimp only
    repeat' first
      | with_reducible assumption
      | apply ih
      | contradiction
      | with_reducible apply State.acceptCmd_keeps
      | with_reducible apply State.count_keeps
      | with_reducible apply State.forAll_keeps
      | with_reducible apply State.packet_keeps
      | with_reducible apply State.setCkpt_keeps
      | with_reducible apply State.setEvt_keeps
      | with_reducible apply State.setFld_keeps
      | split
      | dsimp only
      | intro _
      | exact id

theorem State.evtAdd_keeps {q : List Instr} {n : Nat} {o : List Output} {s : State} (b e v : Nat) (h : Keeps q n o s) :
    Keeps q n o (State.evtAdd s b e v) := by
  unfold State.evtAdd
  try dsimp only
  repeat' first
    | with_reducible assumption
    | with_reducible apply State.signal_keeps
    | split
    | dsimp only
    | intro _
    | exact id

theorem State.evtMax_keeps {q : List Instr} {n : Nat} {o : List Output} {s : State} (b e v : Nat) (h : Keeps q n o s) :
    Keeps q n o (State.evtMax s b e v) := by
  unfold State.evtMax
  try dsimp only
  repeat' first
    | with_reducible assumption
    | with_reducible apply State.signal_keeps
    | split
    | dsimp only
    | intro _
    | exact id

theorem State.ckptEnd_keeps {q : List Instr} {n : Nat} {o : List Output} {s : State} (c : Cmd) (ok : Bool) (h : Keeps q n o s) :
    Keeps q n o (State.ckptEnd s c ok) := by
  unfold State.ckptEnd
  try dsimp only
  repeat' first
    | with_reducible assumption
    | with_reducible apply State.evtMax_keeps
    | with_reducible apply State.forAll_keeps
    | with_reducible apply State.setCkpt_keeps
    | with_reducible apply State.setFld_keeps
    | split
    | dsimp only
    | intro _
    | exact id

theorem State.notice_keeps {q : List Instr} {n : Nat} {o : List Output} {s : State} (b cfg : Nat) (h : Keeps q n o s) :
    Keeps q n o (State.notice s b cfg) := by
  unfold State.notice
  try dsimp only
  repeat' first
    | with_reducible assumption
    | with_reducible apply State.evtAdd_keeps
    | with_reducible apply State.sendVec_keeps
    | split
    | dsimp only
    | intro _
    | exact id

end Sys2Proof.Machine
end

