-- ==== Sys2Proof/Laws/KeepsErrOps.lean ====
section
/-! SUPPORT. What each operation of Machine/ErrOps.lean keeps (Laws/Keeps.lean). -/

namespace Sys2Proof.Machine

theorem State.setDomain_keeps {q : List Instr} {n : Nat} {o : List Output} {s : State} (d : Nat) (x : Domain) (h : Keeps q n o s) :
    Keeps q n o (State.setDomain s d x) := by
  unfold State.setDomain
  try dsimp only
  repeat' first
    | with_reducible assumption
    | with_reducible refine State.onFlt_keeps ?_ (fun ⟨m0, m1, m2, m3, m4, m5, m6, m7⟩ => ⟨?_, ?_, ?_, ?_, ?_, ?_, ?_, ?_⟩)
    | with_reducible apply mwf_mset
    | split
    | dsimp only
    | intro _
    | exact id

theorem State.logRec_keeps {q : List Instr} {n : Nat} {o : List Output} {s : State} (r : ErrRec) (h : Keeps q n o s) :
    Keeps q n o (State.logRec s r) := by
  unfold State.logRec
  try dsimp only
  repeat' first
    | with_reducible assumption
    | with_reducible refine State.onFlt_keeps ?_ (fun ⟨m0, m1, m2, m3, m4, m5, m6, m7⟩ => ⟨?_, ?_, ?_, ?_, ?_, ?_, ?_, ?_⟩)
    | with_reducible apply State.setReg_keeps
    | with_reducible apply mwf_mset
    | split
    | dsimp only
    | intro _
    | exact id

theorem State.sendEvent_keeps {q : List Instr} {n' : Nat} {o : List Output} {s : State} (kind src value n : Nat) (h : Keeps q n' o s) :
    Keeps q n' o (State.sendEvent s kind src value n) := by
  unfold State.sendEvent
  try dsimp only
  repeat' first
    | with_reducible assumption
    | with_reducible apply State.emit_keeps
    | with_reducible apply State.onMgmt_keeps
    | with_reducible apply State.pldmEvent_keeps
    | split
    | dsimp only
    | intro _
    | exact id

theorem State.alertPort_keeps {q : List Instr} {n' : Nat} {o : List Output} {s : State} (n : Nat) (h : Keeps q n' o s) :
    Keeps q n' o (State.alertPort s n) := by
  unfold State.alertPort
  try dsimp only
  repeat' first
    | with_reducible assumption
    | with_reducible apply State.emit_keeps
    | with_reducible apply State.onMgmt_keeps
    | split
    | dsimp only
    | intro _
    | exact id

theorem State.pldmEvent_keeps {q : List Instr} {n : Nat} {o : List Output} {s : State} (kind src value : Nat) (h : Keeps q n o s) :
    Keeps q n o (State.pldmEvent s kind src value) := by
  unfold State.pldmEvent
  try dsimp only
  repeat' first
    | with_reducible assumption
    | with_reducible apply State.alertPort_keeps
    | with_reducible apply State.forAll_keeps
    | with_reducible apply State.logRec_keeps
    | with_reducible apply State.sendEvent_keeps
    | split
    | dsimp only
    | intro _
    | exact id

theorem State.hmVector_keeps {q : List Instr} {n : Nat} {o : List Output} {s : State} (h : Keeps q n o s) :
    Keeps q n o (State.hmVector s) := by
  unfold State.hmVector
  try dsimp only
  repeat' first
    | with_reducible assumption
    | with_reducible apply State.sendVec_keeps
    | split
    | dsimp only
    | intro _
    | exact id

theorem State.bayFaultNotice_keeps {q : List Instr} {n : Nat} {o : List Output} {s : State} (b : Nat) (h : Keeps q n o s) :
    Keeps q n o (State.bayFaultNotice s b) := by
  unfold State.bayFaultNotice
  try dsimp only
  repeat' first
    | with_reducible assumption
    | with_reducible apply State.notice_keeps
    | split
    | dsimp only
    | intro _
    | exact id

theorem State.prefailBay_keeps {q : List Instr} {n : Nat} {o : List Output} {s : State} (b : Nat) (h : Keeps q n o s) :
    Keeps q n o (State.prefailBay s b) := by
  unfold State.prefailBay
  try dsimp only
  repeat' first
    | with_reducible assumption
    | with_reducible apply State.bayFaultNotice_keeps
    | with_reducible apply State.forAll_keeps
    | with_reducible apply State.setFld_keeps
    | split
    | dsimp only
    | intro _
    | exact id

theorem State.ercNotice_keeps {q : List Instr} {n : Nat} {o : List Output} {s : State} (d t : Nat) (h : Keeps q n o s) :
    Keeps q n o (State.ercNotice s d t) := by
  unfold State.ercNotice
  try dsimp only
  repeat' first
    | with_reducible assumption
    | with_reducible apply State.forAll_keeps
    | with_reducible apply State.hmVector_keeps
    | with_reducible apply State.pldmEvent_keeps
    | with_reducible apply State.prefailBay_keeps
    | with_reducible apply State.setFld_keeps
    | split
    | dsimp only
    | intro _
    | exact id

theorem State.ercCross_keeps {q : List Instr} {n : Nat} {o : List Output} {s : State} (d t : Nat) (h : Keeps q n o s) :
    Keeps q n o (State.ercCross s d t) := by
  unfold State.ercCross
  try dsimp only
  repeat' first
    | with_reducible assumption
    | with_reducible apply State.ercNotice_keeps
    | with_reducible apply State.setFld_keeps
    | with_reducible apply State.setReg_keeps
    | split
    | dsimp only
    | intro _
    | exact id

theorem State.ercCheck_keeps {q : List Instr} {n : Nat} {o : List Output} {s : State} (d old t : Nat) (h : Keeps q n o s) :
    Keeps q n o (State.ercCheck s d old t) := by
  unfold State.ercCheck
  try dsimp only
  repeat' first
    | with_reducible assumption
    | with_reducible apply State.ercCross_keeps
    | with_reducible apply State.setReg_keeps
    | split
    | dsimp only
    | intro _
    | exact id

theorem State.ercAdd_keeps {q : List Instr} {n : Nat} {o : List Output} {s : State} (d w : Nat) (h : Keeps q n o s) :
    Keeps q n o (State.ercAdd s d w) := by
  unfold State.ercAdd
  try dsimp only
  repeat' first
    | with_reducible assumption
    | with_reducible apply State.ercCheck_keeps
    | with_reducible apply State.setReg_keeps
    | split
    | dsimp only
    | intro _
    | exact id

theorem State.ercArm_keeps {q : List Instr} {n : Nat} {o : List Output} {s : State} (d t : Nat) (h : Keeps q n o s) :
    Keeps q n o (State.ercArm s d t) := by
  unfold State.ercArm
  try dsimp only
  repeat' first
    | with_reducible assumption
    | with_reducible apply State.ercCross_keeps
    | with_reducible apply State.setFld_keeps
    | with_reducible apply State.setReg_keeps
    | split
    | dsimp only
    | intro _
    | exact id

theorem State.ercDisarm_keeps {q : List Instr} {n : Nat} {o : List Output} {s : State} (d t : Nat) (h : Keeps q n o s) :
    Keeps q n o (State.ercDisarm s d t) := by
  unfold State.ercDisarm
  try dsimp only
  repeat' first
    | with_reducible assumption
    | with_reducible apply State.setFld_keeps
    | with_reducible apply State.setReg_keeps
    | split
    | dsimp only
    | intro _
    | exact id

theorem State.pushFifo_keeps {q : List Instr} {n : Nat} {o : List Output} {s : State} (d : Nat) (r : ErrRec) (h : Keeps q n o s) :
    Keeps q n o (State.pushFifo s d r) := by
  unfold State.pushFifo
  try dsimp only
  repeat' first
    | with_reducible assumption
    | with_reducible apply State.count_keeps
    | with_reducible apply State.hmVector_keeps
    | with_reducible apply State.setDomain_keeps
    | split
    | dsimp only
    | intro _
    | exact id

theorem State.setHandling_keeps {q : List Instr} {n : Nat} {o : List Output} {s : State} (h : Handling) (hk : Keeps q n o s) :
    Keeps q n o (State.setHandling s h) := by
  unfold State.setHandling
  try dsimp only
  repeat' first
    | with_reducible assumption
    | with_reducible refine State.onFlt_keeps ?_ (fun ⟨m0, m1, m2, m3, m4, m5, m6, m7⟩ => ⟨?_, ?_, ?_, ?_, ?_, ?_, ?_, ?_⟩)
    | split
    | dsimp only
    | intro _
    | exact id

theorem State.raise_keeps {q : List Instr} {n : Nat} {o : List Output} {s : State} (e : ErrIn) (h : Keeps q n o s) :
    Keeps q n o (State.raise s e) := by
  unfold State.raise
  try dsimp only
  repeat' first
    | with_reducible assumption
    | with_reducible apply State.ercAdd_keeps
    | with_reducible apply State.logRec_keeps
    | with_reducible apply State.pushFifo_keeps
    | with_reducible apply State.setDomain_keeps
    | with_reducible apply State.setHandling_keeps
    | split
    | dsimp only
    | intro _
    | exact id

theorem State.lateRecord_keeps {q : List Instr} {n : Nat} {o : List Output} {s : State} (die status unit idx : Nat) (bay : Option Nat) (cmd : Option (Nat × Nat × Nat)) (addr : Nat) (h : Keeps q n o s) :
    Keeps q n o (State.lateRecord s die status unit idx bay cmd addr) := by
  unfold State.lateRecord
  try dsimp only
  repeat' first
    | with_reducible assumption
    | with_reducible apply State.raise_keeps
    | split
    | dsimp only
    | intro _
    | exact id

theorem State.armLate_keeps {q : List Instr} {n : Nat} {o : List Output} {s : State} (k : LateKey) (h : Keeps q n o s) :
    Keeps q n o (State.armLate s k) := by
  unfold State.armLate
  try dsimp only
  repeat' first
    | with_reducible assumption
    | with_reducible refine State.onFlt_keeps ?_ (fun ⟨m0, m1, m2, m3, m4, m5, m6, m7⟩ => ⟨?_, ?_, ?_, ?_, ?_, ?_, ?_, ?_⟩)
    | split
    | dsimp only
    | intro _
    | exact id

theorem State.clearLate_keeps {q : List Instr} {n : Nat} {o : List Output} {s : State} (k : LateKey) (h : Keeps q n o s) :
    Keeps q n o (State.clearLate s k) := by
  unfold State.clearLate
  try dsimp only
  repeat' first
    | with_reducible assumption
    | with_reducible refine State.onFlt_keeps ?_ (fun ⟨m0, m1, m2, m3, m4, m5, m6, m7⟩ => ⟨?_, ?_, ?_, ?_, ?_, ?_, ?_, ?_⟩)
    | split
    | dsimp only
    | intro _
    | exact id

theorem State.lateArrival_keeps {q : List Instr} {n : Nat} {o : List Output} {s : State} (k : LateKey) (rec_ : State → State) (h : Keeps q n o s) (hrec_ : ∀ a_, Keeps q n o a_ → Keeps q n o (rec_ a_)) :
    Keeps q n o (State.lateArrival s k rec_) := by
  unfold State.lateArrival
  try dsimp only
  repeat' first
    | with_reducible assumption
    | apply hrec_
    | with_reducible apply State.clearLate_keeps
    | split
    | dsimp only
    | intro _
    | exact id

theorem State.endHandling_keeps {q : List Instr} {n : Nat} {o : List Output} {s : State} (d : Nat) (h : Keeps q n o s) :
    Keeps q n o (State.endHandling s d) := by
  unfold State.endHandling
  try dsimp only
  repeat' first
    | with_reducible assumption
    | with_reducible refine State.onFlt_keeps ?_ (fun ⟨m0, m1, m2, m3, m4, m5, m6, m7⟩ => ⟨?_, ?_, ?_, ?_, ?_, ?_, ?_, ?_⟩)
    | with_reducible apply State.pushFifo_keeps
    | with_reducible apply State.setDomain_keeps
    | split
    | dsimp only
    | intro _
    | exact id

end Sys2Proof.Machine
end

