-- ==== Sys2Proof/Laws/KeepsMemOps.lean ====
section
/-! SUPPORT. What each operation of Machine/MemOps.lean keeps (Laws/Keeps.lean). -/

namespace Sys2Proof.Machine

theorem State.wmCross_keeps {q : List Instr} {n : Nat} {o : List Output} {s : State} (b w : Nat) (h : Keeps q n o s) :
    Keeps q n o (State.wmCross s b w) := by
  unfold State.wmCross
  try dsimp only
  repeat' first
    | with_reducible assumption
    | with_reducible apply State.evtAdd_keeps
    | with_reducible apply State.sendVec_keeps
    | with_reducible apply State.setFld_keeps
    | with_reducible apply State.setReg_keeps
    | split
    | dsimp only
    | intro _
    | exact id

theorem State.wmUpdate_keeps {q : List Instr} {n : Nat} {o : List Output} {s : State} (b src old new : Nat) (h : Keeps q n o s) :
    Keeps q n o (State.wmUpdate s b src old new) := by
  unfold State.wmUpdate
  try dsimp only
  repeat' first
    | with_reducible assumption
    | with_reducible apply State.forAll_keeps
    | with_reducible apply State.setReg_keeps
    | with_reducible apply State.wmCross_keeps
    | split
    | dsimp only
    | intro _
    | exact id

theorem State.countWm_keeps {q : List Instr} {n' : Nat} {o : List Output} {s : State} (a b src n : Nat) (h : Keeps q n' o s) :
    Keeps q n' o (State.countWm s a b src n) := by
  unfold State.countWm
  try dsimp only
  repeat' first
    | with_reducible assumption
    | with_reducible apply State.count_keeps
    | with_reducible apply State.wmUpdate_keeps
    | split
    | dsimp only
    | intro _
    | exact id

theorem State.takeSlab_keeps {q : List Instr} {n : Nat} {o : List Output} {s : State} (b loc : Nat) (h : Keeps q n o s) :
    Keeps q n o (State.takeSlab s b loc) := by
  unfold State.takeSlab
  try dsimp only
  repeat' first
    | with_reducible assumption
    | with_reducible refine State.onMem_keeps ?_ (fun ⟨m0, m1, m2, m3, m4, m5, m6, m7⟩ => ⟨?_, ?_, ?_, ?_, ?_, ?_, ?_, ?_⟩)
    | with_reducible apply mwf_mset
    | split
    | dsimp only
    | intro _
    | exact id

theorem State.giveSlab_keeps {q : List Instr} {n : Nat} {o : List Output} {s : State} (loc : Nat) (h : Keeps q n o s) :
    Keeps q n o (State.giveSlab s loc) := by
  unfold State.giveSlab
  try dsimp only
  repeat' first
    | with_reducible assumption
    | with_reducible refine State.onMem_keeps ?_ (fun ⟨m0, m1, m2, m3, m4, m5, m6, m7⟩ => ⟨?_, ?_, ?_, ?_, ?_, ?_, ?_, ?_⟩)
    | with_reducible apply mwf_mset
    | split
    | dsimp only
    | intro _
    | exact id

theorem State.setSlab_keeps {q : List Instr} {n' : Nat} {o : List Output} {s : State} (b n : Nat) (x : Slab) (h : Keeps q n' o s) :
    Keeps q n' o (State.setSlab s b n x) := by
  unfold State.setSlab
  try dsimp only
  repeat' first
    | with_reducible assumption
    | with_reducible refine State.onMem_keeps ?_ (fun ⟨m0, m1, m2, m3, m4, m5, m6, m7⟩ => ⟨?_, ?_, ?_, ?_, ?_, ?_, ?_, ?_⟩)
    | with_reducible apply mwf_mset
    | split
    | dsimp only
    | intro _
    | exact id

theorem State.setCopy_keeps {q : List Instr} {n' : Nat} {o : List Output} {s : State} (b n : Nat) (c : Option T2Copy) (h : Keeps q n' o s) :
    Keeps q n' o (State.setCopy s b n c) := by
  unfold State.setCopy
  try dsimp only
  repeat' first
    | with_reducible assumption
    | with_reducible apply State.setSlab_keeps
    | with_reducible apply State.wmUpdate_keeps
    | split
    | dsimp only
    | intro _
    | exact id

theorem State.setUsed_keeps {q : List Instr} {n : Nat} {o : List Output} {s : State} (b k v : Nat) (h : Keeps q n o s) :
    Keeps q n o (State.setUsed s b k v) := by
  unfold State.setUsed
  try dsimp only
  repeat' first
    | with_reducible assumption
    | with_reducible apply State.setFld_keeps
    | with_reducible apply State.wmUpdate_keeps
    | split
    | dsimp only
    | intro _
    | exact id

theorem State.setObj_keeps {q : List Instr} {n : Nat} {o' : List Output} {s : State} (o : Obj) (h : Keeps q n o' s) :
    Keeps q n o' (State.setObj s o) := by
  unfold State.setObj
  try dsimp only
  repeat' first
    | with_reducible assumption
    | with_reducible refine State.onMem_keeps ?_ (fun ⟨m0, m1, m2, m3, m4, m5, m6, m7⟩ => ⟨?_, ?_, ?_, ?_, ?_, ?_, ?_, ?_⟩)
    | split
    | dsimp only
    | intro _
    | exact id

theorem State.loftSet1_keeps {q : List Instr} {n : Nat} {o : List Output} {s : State} (d la : Nat) (v : Byte) (h : Keeps q n o s) :
    Keeps q n o (State.loftSet1 s d la v) := by
  unfold State.loftSet1
  try dsimp only
  repeat' first
    | with_reducible assumption
    | with_reducible refine State.onLofts_keeps ?_ (fun ⟨m0, m1, m2, m3, m4⟩ => ⟨?_, ?_, ?_, ?_, ?_⟩)
    | with_reducible apply mwf_mset
    | with_reducible apply mwf_markPut
    | split
    | dsimp only
    | intro _
    | exact id

theorem State.loftMark_keeps {q : List Instr} {n : Nat} {o : List Output} {s : State} (d w : Nat) (b : Bool) (h : Keeps q n o s) :
    Keeps q n o (State.loftMark s d w b) := by
  unfold State.loftMark
  try dsimp only
  repeat' first
    | with_reducible assumption
    | with_reducible refine State.onLofts_keeps ?_ (fun ⟨m0, m1, m2, m3, m4⟩ => ⟨?_, ?_, ?_, ?_, ?_⟩)
    | with_reducible apply State.setFld_keeps
    | with_reducible apply mwf_markPut
    | split
    | dsimp only
    | intro _
    | exact id

theorem State.loftWord_keeps {q : List Instr} {n : Nat} {o : List Output} {s : State} (d w : Nat) (part : Nat × List PByte) (h : Keeps q n o s) :
    Keeps q n o (State.loftWord s d w part).1 := by
  unfold State.loftWord
  try dsimp only
  repeat' first
    | with_reducible assumption
    | with_reducible apply State.loftMark_keeps
    | with_reducible apply State.loftSet1_keeps
    | with_reducible apply foldl_state
    | with_reducible apply foldl_fst_state
    | split
    | dsimp only
    | intro _
    | exact id

theorem State.loftPut_keeps {q : List Instr} {n : Nat} {o : List Output} {s : State} (d la : Nat) (bs : List PByte) (h : Keeps q n o s) :
    Keeps q n o (State.loftPut s d la bs).1 := by
  unfold State.loftPut
  try dsimp only
  repeat' first
    | with_reducible assumption
    | with_reducible apply State.loftWord_keeps
    | with_reducible apply foldl_state
    | with_reducible apply foldl_fst_state
    | split
    | dsimp only
    | intro _
    | exact id

theorem State.hbmCount_keeps {q : List Instr} {n' : Nat} {o : List Output} {s : State} (g : Nat) (wr : Bool) (n : Nat) (h : Keeps q n' o s) :
    Keeps q n' o (State.hbmCount s g wr n) := by
  unfold State.hbmCount
  try dsimp only
  repeat' first
    | with_reducible assumption
    | with_reducible apply State.count64_keeps
    | split
    | dsimp only
    | intro _
    | exact id

theorem State.poisonLine_keeps {q : List Instr} {n : Nat} {o : List Output} {s : State} (g pa va b : Nat) (t3 : Bool) (h : Keeps q n o s) :
    Keeps q n o (State.poisonLine s g pa va b t3) := by
  unfold State.poisonLine
  try dsimp only
  repeat' first
    | with_reducible assumption
    | with_reducible apply State.count_keeps
    | with_reducible refine State.onMem_keeps ?_ (fun ⟨m0, m1, m2, m3, m4, m5, m6, m7⟩ => ⟨?_, ?_, ?_, ?_, ?_, ?_, ?_, ?_⟩)
    | with_reducible apply State.setReg_keeps
    | with_reducible apply mwf_markPut
    | split
    | dsimp only
    | intro _
    | exact id

theorem State.hbmPut_keeps {q : List Instr} {n : Nat} {o : List Output} {s : State} (pa : Nat) (bs : List PByte) (h : Keeps q n o s) :
    Keeps q n o (State.hbmPut s pa bs).1 := by
  unfold State.hbmPut
  try dsimp only
  repeat' first
    | with_reducible assumption
    | with_reducible apply State.hbmCount_keeps
    | with_reducible refine State.onMem_keeps ?_ (fun ⟨m0, m1, m2, m3, m4, m5, m6, m7⟩ => ⟨?_, ?_, ?_, ?_, ?_, ?_, ?_, ?_⟩)
    | with_reducible apply mwf_markPut
    | with_reducible apply mwf_rangePut
    | split
    | dsimp only
    | intro _
    | exact id

theorem State.turn_keeps {q : List Instr} {n' : Nat} {o : List Output} {s : State} (k n : Nat) (h : Keeps q n' o s) :
    Keeps q n' o (State.turn s k n).2 := by
  unfold State.turn
  try dsimp only
  repeat' first
    | with_reducible assumption
    | with_reducible refine State.onMem_keeps ?_ (fun ⟨m0, m1, m2, m3, m4, m5, m6, m7⟩ => ⟨?_, ?_, ?_, ?_, ?_, ?_, ?_, ?_⟩)
    | with_reducible apply mwf_mset
    | split
    | dsimp only
    | intro _
    | exact id

theorem State.moved_keeps {q : List Instr} {n' : Nat} {o : List Output} {s : State} (g : Option Nat) (n : Nat) (ok : Bool) (h : Keeps q n' o s) :
    Keeps q n' o (State.moved s g n ok) := by
  unfold State.moved
  try dsimp only
  repeat' first
    | with_reducible assumption
    | with_reducible apply State.count64_keeps
    | with_reducible apply State.count_keeps
    | with_reducible apply State.turn_keeps
    | split
    | dsimp only
    | intro _
    | exact id

theorem State.zeroSlab_keeps {q : List Instr} {n : Nat} {o : List Output} {s : State} (loc : Nat) (h : Keeps q n o s) :
    Keeps q n o (State.zeroSlab s loc) := by
  unfold State.zeroSlab
  try dsimp only
  repeat' first
    | with_reducible assumption
    | with_reducible refine State.onMem_keeps ?_ (fun ⟨m0, m1, m2, m3, m4, m5, m6, m7⟩ => ⟨?_, ?_, ?_, ?_, ?_, ?_, ?_, ?_⟩)
    | with_reducible apply mwf_mclear
    | split
    | dsimp only
    | intro _
    | exact id

theorem State.zeroWrite_keeps {q : List Instr} {n : Nat} {o : List Output} {s : State} (loc : Nat) (h : Keeps q n o s) :
    Keeps q n o (State.zeroWrite s loc) := by
  unfold State.zeroWrite
  try dsimp only
  repeat' first
    | with_reducible assumption
    | with_reducible apply State.hbmCount_keeps
    | with_reducible apply State.moved_keeps
    | with_reducible apply State.zeroSlab_keeps
    | split
    | dsimp only
    | intro _
    | exact id

theorem State.copySlab_keeps {q : List Instr} {n : Nat} {o : List Output} {s : State} (src dst : Nat) (h : Keeps q n o s) :
    Keeps q n o (State.copySlab s src dst) := by
  unfold State.copySlab
  try dsimp only
  repeat' first
    | with_reducible assumption
    | with_reducible apply State.hbmCount_keeps
    | with_reducible refine State.onMem_keeps ?_ (fun ⟨m0, m1, m2, m3, m4, m5, m6, m7⟩ => ⟨?_, ?_, ?_, ?_, ?_, ?_, ?_, ?_⟩)
    | with_reducible apply State.zeroSlab_keeps
    | with_reducible apply foldl_state
    | with_reducible apply foldl_fst_state
    | with_reducible apply mwf_mset
    | with_reducible apply mwf_markPut
    | with_reducible apply mwf_foldl
    | split
    | dsimp only
    | intro _
    | exact id

theorem State.unlend_keeps {q : List Instr} {n : Nat} {o : List Output} {s : State} (loc : Nat) (h : Keeps q n o s) :
    Keeps q n o (State.unlend s loc) := by
  unfold State.unlend
  try dsimp only
  repeat' first
    | with_reducible assumption
    | with_reducible refine State.onMem_keeps ?_ (fun ⟨m0, m1, m2, m3, m4, m5, m6, m7⟩ => ⟨?_, ?_, ?_, ?_, ?_, ?_, ?_, ?_⟩)
    | split
    | dsimp only
    | intro _
    | exact id

theorem State.dropCopy_keeps {q : List Instr} {n' : Nat} {o : List Output} {s : State} (b n : Nat) (h : Keeps q n' o s) :
    Keeps q n' o (State.dropCopy s b n) := by
  unfold State.dropCopy
  try dsimp only
  repeat' first
    | with_reducible assumption
    | with_reducible apply State.giveSlab_keeps
    | with_reducible apply State.setCopy_keeps
    | with_reducible apply State.setUsed_keeps
    | with_reducible apply State.unlend_keeps
    | split
    | dsimp only
    | intro _
    | exact id

theorem State.writeBack_keeps {q : List Instr} {n' : Nat} {o' : List Output} {s : State} (o : Obj) (n : Nat) (h : Keeps q n' o' s) :
    Keeps q n' o' (State.writeBack s o n) := by
  unfold State.writeBack
  try dsimp only
  repeat' first
    | with_reducible assumption
    | with_reducible apply State.count_keeps
    | with_reducible apply State.hbmCount_keeps
    | with_reducible apply State.setCopy_keeps
    | with_reducible apply State.setSlab_keeps
    | with_reducible apply State.t3Send_keeps
    | split
    | dsimp only
    | intro _
    | exact id

theorem State.slabForFill_keeps {q : List Instr} {n : Nat} {o : List Output} {s : State} (b : Nat) (h : Keeps q n o s) :
    ∀ t, (∃ loc lender, State.slabForFill s b = .got loc lender t) ∨ State.slabForFill s b = .later t → Keeps q n o t := by
  intro t ht
  unfold State.slabForFill at ht
  dsimp only at ht
  (repeat' split at ht) <;> rcases ht with ⟨_, _, ht⟩ | ht <;> cases ht <;> repeat' first
    | with_reducible assumption
    | with_reducible apply State.count_keeps
    | with_reducible apply State.dropCopy_keeps
    | with_reducible refine State.onMem_keeps ?_ (fun ⟨m0, m1, m2, m3, m4, m5, m6, m7⟩ => ⟨?_, ?_, ?_, ?_, ?_, ?_, ?_, ?_⟩)
    | with_reducible apply State.setUsed_keeps
    | with_reducible apply State.takeSlab_keeps
    | with_reducible apply State.writeBack_keeps
    | split
    | dsimp only
    | intro _
    | exact id

theorem State.setT3_keeps {q : List Instr} {n : Nat} {o : List Output} {s : State} (l : List T3Acc) (h : Keeps q n o s) :
    Keeps q n o (State.setT3 s l) := by
  unfold State.setT3
  try dsimp only
  repeat' first
    | with_reducible assumption
    | with_reducible refine State.onMem_keeps ?_ (fun ⟨m0, m1, m2, m3, m4, m5, m6, m7⟩ => ⟨?_, ?_, ?_, ?_, ?_, ?_, ?_, ?_⟩)
    | split
    | dsimp only
    | intro _
    | exact id

theorem State.t3Done_keeps {q : List Instr} {n : Nat} {o : List Output} {s : State} (w : Waiter) (h : Keeps q n o s) :
    Keeps q n o (State.t3Done s w) := by
  unfold State.t3Done
  try dsimp only
  repeat' first
    | with_reducible assumption
    | with_reducible apply State.setT3_keeps
    | split
    | dsimp only
    | intro _
    | exact id

theorem State.t3Direct_keeps {q : List Instr} {n' : Nat} {o' : List Output} {s : State} (w : Waiter) (o : Obj) (va n : Nat) (h : Keeps q n' o' s) :
    Keeps q n' o' (State.t3Direct s w o va n) := by
  unfold State.t3Direct
  try dsimp only
  repeat' first
    | with_reducible assumption
    | with_reducible apply State.setT3_keeps
    | with_reducible apply State.t3Fetch_keeps
    | split
    | dsimp only
    | intro _
    | exact id

theorem State.joinFill_keeps {q : List Instr} {n' : Nat} {o : List Output} {s : State} (w : Waiter) (b n : Nat) (h : Keeps q n' o s) :
    Keeps q n' o (State.joinFill s w b n) := by
  unfold State.joinFill
  try dsimp only
  repeat' first
    | with_reducible assumption
    | with_reducible apply State.setT3_keeps
    | split
    | dsimp only
    | intro _
    | exact id

theorem State.startFill_keeps {q : List Instr} {n' : Nat} {o' : List Output} {s : State} (ws : List Waiter) (o : Obj) (n loc : Nat) (lender window : Option Nat) (demand : Bool) (h : Keeps q n' o' s) :
    Keeps q n' o' (State.startFill s ws o n loc lender window demand) := by
  unfold State.startFill
  try dsimp only
  repeat' first
    | with_reducible assumption
    | with_reducible apply State.setCopy_keeps
    | with_reducible apply State.setT3_keeps
    | with_reducible apply State.t3Fetch_keeps
    | with_reducible apply State.tickStamp_keeps
    | with_reducible apply State.zeroSlab_keeps
    | split
    | dsimp only
    | intro _
    | exact id

theorem State.schedLate_keeps {q : List Instr} {n' : Nat} {o : List Output} {s : State} (b k n : Nat) (h : Keeps q n' o s) :
    Keeps q n' o (State.schedLate s b k n) := by
  unfold State.schedLate
  try dsimp only
  repeat' first
    | with_reducible assumption
    | with_reducible apply State.countWm_keeps
    | with_reducible refine State.onMem_keeps ?_ (fun ⟨m0, m1, m2, m3, m4, m5, m6, m7⟩ => ⟨?_, ?_, ?_, ?_, ?_, ?_, ?_, ?_⟩)
    | split
    | dsimp only
    | intro _
    | exact id

theorem State.t3Touch_keeps {q : List Instr} {n' : Nat} {o' : List Output} {s : State} (w : Waiter) (o : Obj) (va n : Nat) (direct : Bool) (h : Keeps q n' o' s) :
    Keeps q n' o' (State.t3Touch s w o va n direct).1 := by
  unfold State.t3Touch
  try dsimp only
  repeat' first
    | with_reducible assumption
    | with_reducible apply Engine.fail_keeps
    | with_reducible apply State.count_keeps
    | with_reducible apply State.joinFill_keeps
    | with_reducible apply State.schedLate_keeps
    | with_reducible apply State.setSlab_keeps
    | (refine State.slabForFill_keeps _ ?_ _ (.inl ⟨_, _, ‹_ = CopySlab.got _ _ _›⟩))
    | (refine State.slabForFill_keeps _ ?_ _ (.inr ‹_ = CopySlab.later _›))
    | with_reducible apply State.startFill_keeps
    | with_reducible apply State.t3Direct_keeps
    | split
    | dsimp only
    | intro _
    | exact id

end Sys2Proof.Machine
end

