-- ==== Sys2Proof/Laws/KeepsMemAccess.lean ====
section
/-! SUPPORT. What each operation of Machine/MemAccess.lean keeps (Laws/Keeps.lean). -/

namespace Sys2Proof.Machine

theorem State.sawBad_keeps {q : List Instr} {n : Nat} {o : List Output} {s : State} (b : Nat) (h : Keeps q n o s) :
    Keeps q n o (State.sawBad s b) := by
  unfold State.sawBad
  try dsimp only
  repeat' first
    | with_reducible assumption
    | with_reducible refine State.onMem_keeps ?_ (fun ⟨m0, m1, m2, m3, m4, m5, m6, m7⟩ => ⟨?_, ?_, ?_, ?_, ?_, ?_, ?_, ?_⟩)
    | with_reducible apply State.wmUpdate_keeps
    | with_reducible apply mwf_mset
    | split
    | dsimp only
    | intro _
    | exact id

theorem State.meetMedium_keeps {q : List Instr} {n : Nat} {o : List Output} {s : State} (m : Medium) (g pa va b : Nat) (t3 : Bool) (h : Keeps q n o s) :
    Keeps q n o (State.meetMedium s m g pa va b t3).1 := by
  unfold State.meetMedium
  try dsimp only
  repeat' first
    | with_reducible assumption
    | with_reducible apply State.count_keeps
    | with_reducible apply State.ercAdd_keeps
    | with_reducible apply State.poisonLine_keeps
    | with_reducible apply State.raise_keeps
    | with_reducible apply State.sawBad_keeps
    | split
    | dsimp only
    | intro _
    | exact id

theorem State.t2Read_keeps {q : List Instr} {n' : Nat} {o : List Output} {s : State} (m : Medium) (b va pa n : Nat) (h : Keeps q n' o s) :
    Keeps q n' o (State.t2Read s m b va pa n).1 := by
  unfold State.t2Read
  try dsimp only
  repeat' first
    | with_reducible assumption
    | with_reducible apply Engine.fail_keeps
    | with_reducible apply State.hbmCount_keeps
    | with_reducible apply State.meetMedium_keeps
    | with_reducible apply State.sawBad_keeps
    | split
    | dsimp only
    | intro _
    | exact id

theorem State.setMirSrc_keeps {q : List Instr} {n : Nat} {o : List Output} {s : State} (b : Nat) (x : Option MirSrc) (h : Keeps q n o s) :
    Keeps q n o (State.setMirSrc s b x) := by
  unfold State.setMirSrc
  try dsimp only
  repeat' first
    | with_reducible assumption
    | with_reducible refine State.onFlt_keeps ?_ (fun ⟨m0, m1, m2, m3, m4, m5, m6, m7⟩ => ⟨?_, ?_, ?_, ?_, ?_, ?_, ?_, ?_⟩)
    | with_reducible apply mwf_mset
    | split
    | dsimp only
    | intro _
    | exact id

theorem State.setMirHost_keeps {q : List Instr} {n : Nat} {o : List Output} {s : State} (b : Nat) (x : Option MirHost) (h : Keeps q n o s) :
    Keeps q n o (State.setMirHost s b x) := by
  unfold State.setMirHost
  try dsimp only
  repeat' first
    | with_reducible assumption
    | with_reducible refine State.onFlt_keeps ?_ (fun ⟨m0, m1, m2, m3, m4, m5, m6, m7⟩ => ⟨?_, ?_, ?_, ?_, ?_, ?_, ?_, ?_⟩)
    | with_reducible apply mwf_mset
    | split
    | dsimp only
    | intro _
    | exact id

theorem State.mirLanded_keeps {q : List Instr} {n : Nat} {o : List Output} {s : State} (b va pa : Nat) (h : Keeps q n o s) :
    Keeps q n o (State.mirLanded s b va pa) := by
  unfold State.mirLanded
  try dsimp only
  repeat' first
    | with_reducible assumption
    | with_reducible apply State.setMirSrc_keeps
    | split
    | dsimp only
    | intro _
    | exact id

theorem State.mirHosted_keeps {q : List Instr} {n' : Nat} {o : List Output} {s : State} (b va n : Nat) (h : Keeps q n' o s) :
    Keeps q n' o (State.mirHosted s b va n) := by
  unfold State.mirHosted
  try dsimp only
  repeat' first
    | with_reducible assumption
    | with_reducible apply State.setMirHost_keeps
    | with_reducible apply foldl_state
    | with_reducible apply foldl_fst_state
    | with_reducible apply mwf_mset
    | with_reducible apply mwf_foldl
    | split
    | dsimp only
    | intro _
    | exact id

theorem State.t2Write_keeps {q : List Instr} {n : Nat} {o : List Output} {s : State} (m : Medium) (b va pa : Nat) (bs : List PByte) (h : Keeps q n o s) :
    Keeps q n o (State.t2Write s m b va pa bs).1 := by
  unfold State.t2Write
  try dsimp only
  repeat' first
    | with_reducible assumption
    | with_reducible apply Engine.fail_keeps
    | with_reducible apply State.hbmPut_keeps
    | with_reducible apply State.meetMedium_keeps
    | with_reducible apply State.mirLanded_keeps
    | with_reducible apply State.sawBad_keeps
    | split
    | dsimp only
    | intro _
    | exact id

theorem badRead_keeps {q : List Instr} {n' : Nat} {o : List Output} {s : State} (n st va : Nat) (h : Keeps q n' o s) :
    Keeps q n' o (badRead s n st va).1 := by
  unfold badRead
  try dsimp only
  repeat' first
    | with_reducible assumption
    | with_reducible apply Engine.fail_keeps
    | split
    | dsimp only
    | intro _
    | exact id

theorem State.readLoft_keeps {q : List Instr} {n' : Nat} {o : List Output} {s : State} (b va n : Nat) (h : Keeps q n' o s) :
    Keeps q n' o (State.readLoft s b va n).1 := by
  unfold State.readLoft
  try dsimp only
  repeat' first
    | with_reducible assumption
    | with_reducible apply Engine.fail_keeps
    | with_reducible apply badRead_keeps
    | split
    | dsimp only
    | intro _
    | exact id

theorem State.readT3_keeps {q : List Instr} {n' : Nat} {o : List Output} (w : Waiter) (m : Medium) (b : Nat) {s : State} (va n : Nat) (h : Keeps q n' o s) :
    Keeps q n' o (State.readT3 w m b s va n).1 := by
  unfold State.readT3
  try dsimp only
  repeat' first
    | with_reducible assumption
    | with_reducible apply Engine.fail_keeps
    | with_reducible apply State.sawBad_keeps
    | with_reducible apply State.t2Read_keeps
    | split
    | dsimp only
    | intro _
    | exact id

theorem readTouched_keeps {q : List Instr} {n' : Nat} {o : List Output} (w : Waiter) (m : Medium) (b va n : Nat) (r : State × Acc) (hr : Keeps q n' o r.1) :
    Keeps q n' o (readTouched w m b va n r).1 := by
  unfold readTouched
  try dsimp only
  repeat' first
    | with_reducible assumption
    | with_reducible apply State.readT3_keeps
    | split
    | dsimp only
    | intro _
    | exact id

theorem State.readPiece_keeps {q : List Instr} {n' : Nat} {o : List Output} (w : Waiter) (m : Medium) (b : Nat) {s : State} (va n : Nat) (h : Keeps q n' o s) :
    Keeps q n' o (State.readPiece w m b s va n).1 := by
  unfold State.readPiece
  repeat' first
    | with_reducible assumption
    | with_reducible apply Engine.zero_keeps
    | with_reducible apply State.readLoft_keeps
    | with_reducible apply State.t2Read_keeps
    | with_reducible apply State.t3Touch_keeps
    | with_reducible apply badRead_keeps
    | with_reducible apply readTouched_keeps
    | split
    | dsimp only
    | intro _
    | exact id

theorem State.vaReadKeep_keeps {q : List Instr} {n' : Nat} {o : List Output} (w : Waiter) (m : Medium) {s : State} (b va n : Nat) (h : Keeps q n' o s) :
    Keeps q n' o (State.vaReadKeep w m s b va n).1 := by
  unfold State.vaReadKeep
  try dsimp only
  repeat' first
    | with_reducible assumption
    | with_reducible apply State.readPiece_keeps
    | with_reducible apply foldl_state
    | with_reducible apply foldl_fst_state
    | split
    | dsimp only
    | intro _
    | exact id

theorem State.vaReadM_keeps {q : List Instr} {n' : Nat} {o : List Output} (w : Waiter) (m : Medium) {s : State} (b va n : Nat) (h : Keeps q n' o s) :
    Keeps q n' o (State.vaReadM w m s b va n).1 := by
  unfold State.vaReadM
  try dsimp only
  repeat' first
    | with_reducible assumption
    | with_reducible apply State.t3Done_keeps
    | with_reducible apply State.vaReadKeep_keeps
    | split
    | dsimp only
    | intro _
    | exact id

theorem State.vaRead_keeps {q : List Instr} {n' : Nat} {o : List Output} (w : Waiter) {s : State} (b va n : Nat) (h : Keeps q n' o s) :
    Keeps q n' o (State.vaRead w s b va n).1 := by
  unfold State.vaRead
  try dsimp only
  repeat' first
    | with_reducible assumption
    | with_reducible apply State.vaReadM_keeps
    | split
    | dsimp only
    | intro _
    | exact id

theorem loftWritten_keeps {q : List Instr} {n : Nat} {o : List Output} (va : Nat) (r : State × Option Nat) (hr : Keeps q n o r.1) :
    Keeps q n o (loftWritten va r).1 := by
  unfold loftWritten
  try dsimp only
  repeat' first
    | with_reducible assumption
    | with_reducible apply Engine.fail_keeps
    | split
    | dsimp only
    | intro _
    | exact id

theorem State.writeLoft_keeps {q : List Instr} {n : Nat} {o : List Output} {s : State} (b va : Nat) (bs : List PByte) (h : Keeps q n o s) :
    Keeps q n o (State.writeLoft s b va bs).1 := by
  unfold State.writeLoft
  try dsimp only
  repeat' first
    | with_reducible assumption
    | with_reducible apply Engine.fail_keeps
    | with_reducible apply State.loftPut_keeps
    | with_reducible apply loftWritten_keeps
    | split
    | dsimp only
    | intro _
    | exact id

theorem State.zeroFirst_keeps {q : List Instr} {n' : Nat} {o : List Output} {s : State} (b n loc : Nat) (h : Keeps q n' o s) :
    Keeps q n' o (State.zeroFirst s b n loc) := by
  unfold State.zeroFirst
  try dsimp only
  repeat' first
    | with_reducible assumption
    | with_reducible apply Engine.zero_keeps
    | with_reducible apply State.setSlab_keeps
    | with_reducible apply State.zeroWrite_keeps
    | split
    | dsimp only
    | intro _
    | exact id

theorem State.copyWritten_keeps {q' : List Instr} {n : Nat} {o' : List Output} (o : Obj) (b va : Nat) (c : T2Copy) (bs : List PByte) (q : State × Acc) (hq : Keeps q' n o' q.1) :
    Keeps q' n o' (State.copyWritten o b va c bs q).1 := by
  unfold State.copyWritten
  try dsimp only
  repeat' first
    | with_reducible assumption
    | with_reducible apply State.setCopy_keeps
    | with_reducible apply State.t3Send_keeps
    | split
    | dsimp only
    | intro _
    | exact id

theorem writeTouched_keeps {q : List Instr} {n : Nat} {o' : List Output} (m : Medium) (o : Obj) (b va : Nat) (bs : List PByte) (r : State × Acc) (hr : Keeps q n o' r.1) :
    Keeps q n o' (writeTouched m o b va bs r).1 := by
  unfold writeTouched
  try dsimp only
  repeat' first
    | with_reducible assumption
    | with_reducible apply State.copyWritten_keeps
    | with_reducible apply State.t2Write_keeps
    | with_reducible apply State.t3Send_keeps
    | split
    | dsimp only
    | intro _
    | exact id

theorem State.writePiece_keeps {q : List Instr} {n : Nat} {o : List Output} (w : Waiter) (by_ : WriteBy) (m : Medium) (b : Nat) {s : State} (va : Nat) (bs : List PByte) (h : Keeps q n o s) :
    Keeps q n o (State.writePiece w by_ m b s va bs).1 := by
  unfold State.writePiece
  repeat' first
    | with_reducible assumption
    | with_reducible apply Engine.fail_keeps
    | with_reducible apply State.t2Write_keeps
    | with_reducible apply State.t3Touch_keeps
    | with_reducible apply State.writeLoft_keeps
    | with_reducible apply State.zeroFirst_keeps
    | with_reducible apply writeTouched_keeps
    | split
    | dsimp only
    | intro _
    | exact id

theorem State.writeReady_keeps {q : List Instr} {n' : Nat} {o : List Output} (w : Waiter) (by_ : WriteBy) (b : Nat) {s : State} (va n : Nat) (h : Keeps q n' o s) :
    Keeps q n' o (State.writeReady w by_ b s va n).1 := by
  unfold State.writeReady
  try dsimp only
  repeat' first
    | with_reducible assumption
    | with_reducible apply State.t3Touch_keeps
    | with_reducible apply foldl_state
    | with_reducible apply foldl_fst_state
    | with_reducible apply mwf_foldl
    | split
    | dsimp only
    | intro _
    | exact id

theorem State.vaWriteM_keeps {q : List Instr} {n : Nat} {o : List Output} (w : Waiter) (by_ : WriteBy) (m : Medium) {s : State} (b va : Nat) (bs : List PByte) (h : Keeps q n o s) :
    Keeps q n o (State.vaWriteM w by_ m s b va bs).1 := by
  unfold State.vaWriteM
  try dsimp only
  repeat' first
    | with_reducible assumption
    | with_reducible apply State.t3Done_keeps
    | with_reducible apply State.writePiece_keeps
    | with_reducible apply State.writeReady_keeps
    | with_reducible apply foldl_state
    | with_reducible apply foldl_fst_state
    | split
    | dsimp only
    | intro _
    | exact id

theorem State.vaWrite_keeps {q : List Instr} {n : Nat} {o : List Output} (w : Waiter) (by_ : WriteBy) {s : State} (b va : Nat) (bs : List PByte) (h : Keeps q n o s) :
    Keeps q n o (State.vaWrite w by_ s b va bs).1 := by
  unfold State.vaWrite
  try dsimp only
  repeat' first
    | with_reducible assumption
    | with_reducible apply State.vaWriteM_keeps
    | split
    | dsimp only
    | intro _
    | exact id

theorem State.devWriteBy_keeps {q : List Instr} {n : Nat} {o : List Output} {s : State} (area : Bool) (b va : Nat) (bs : List PByte) (h : Keeps q n o s) :
    Keeps q n o (State.devWriteBy s area b va bs) := by
  unfold State.devWriteBy
  try dsimp only
  repeat' first
    | with_reducible assumption
    | with_reducible apply Engine.fail_keeps
    | with_reducible refine State.onMem_keeps ?_ (fun ⟨m0, m1, m2, m3, m4, m5, m6, m7⟩ => ⟨?_, ?_, ?_, ?_, ?_, ?_, ?_, ?_⟩)
    | with_reducible apply State.raise_keeps
    | with_reducible apply State.vaWrite_keeps
    | split
    | dsimp only
    | intro _
    | exact id

theorem State.devWrite_keeps {q : List Instr} {n : Nat} {o : List Output} {s : State} (b va : Nat) (bs : List Byte) (h : Keeps q n o s) :
    Keeps q n o (State.devWrite s b va bs) := by
  unfold State.devWrite
  try dsimp only
  repeat' first
    | with_reducible assumption
    | with_reducible apply State.devWriteBy_keeps
    | split
    | dsimp only
    | intro _
    | exact id

theorem State.retryDevWrites_keeps {q : List Instr} {n : Nat} {o : List Output} {s : State} (h : Keeps q n o s) :
    Keeps q n o (State.retryDevWrites s) := by
  unfold State.retryDevWrites
  try dsimp only
  repeat' first
    | with_reducible assumption
    | with_reducible apply State.devWriteBy_keeps
    | with_reducible apply State.forAll_keeps
    | with_reducible refine State.onMem_keeps ?_ (fun ⟨m0, m1, m2, m3, m4, m5, m6, m7⟩ => ⟨?_, ?_, ?_, ?_, ?_, ?_, ?_, ?_⟩)
    | split
    | dsimp only
    | intro _
    | exact id

end Sys2Proof.Machine
end

