-- ==== Sys2Proof/Laws/KeepsQueueOps.lean ====
section
/-! SUPPORT. What each operation of Machine/QueueOps.lean keeps (Laws/Keeps.lean). -/

namespace Sys2Proof.Machine

theorem State.setCmd_keeps {q : List Instr} {n : Nat} {o : List Output} {s : State} (c : Cmd) (h : Keeps q n o s) :
    Keeps q n o (State.setCmd s c) := by
  unfold State.setCmd
  try dsimp only
  repeat' first
    | with_reducible assumption
    | with_reducible refine State.onCq_keeps ?_ (fun ⟨m0, m1, m2, m3⟩ => ⟨?_, ?_, ?_, ?_⟩)
    | split
    | dsimp only
    | intro _
    | exact id

theorem State.dropCmd_keeps {q : List Instr} {n : Nat} {o : List Output} {s : State} (c : Cmd) (h : Keeps q n o s) :
    Keeps q n o (State.dropCmd s c) := by
  unfold State.dropCmd
  try dsimp only
  repeat' first
    | with_reducible assumption
    | with_reducible refine State.onCq_keeps ?_ (fun ⟨m0, m1, m2, m3⟩ => ⟨?_, ?_, ?_, ?_⟩)
    | split
    | dsimp only
    | intro _
    | exact id

theorem State.ringWrite_keeps {q' : List Instr} {n : Nat} {o : List Output} {s : State} (q a : Nat) (bs : List Byte) (h : Keeps q' n o s) :
    Keeps q' n o (State.ringWrite s q a bs) := by
  unfold State.ringWrite
  try dsimp only
  repeat' first
    | with_reducible assumption
    | with_reducible apply State.devWrite_keeps
    | with_reducible apply State.hostWrite_keeps
    | split
    | dsimp only
    | intro _
    | exact id

theorem State.putRecord_keeps {q : List Instr} {n : Nat} {o : List Output} {s : State} (c : Cmd) (st d0 d1 : Nat) (final : Bool) (h : Keeps q n o s) :
    Keeps q n o (State.putRecord s c st d0 d1 final) := by
  unfold State.putRecord
  try dsimp only
  repeat' first
    | with_reducible assumption
    | with_reducible apply State.ringWrite_keeps
    | with_reducible apply State.setReg_keeps
    | split
    | dsimp only
    | intro _
    | exact id

theorem State.qVector_keeps {q' : List Instr} {n : Nat} {o : List Output} {s : State} (q : Nat) (h : Keeps q' n o s) :
    Keeps q' n o (State.qVector s q) := by
  unfold State.qVector
  try dsimp only
  repeat' first
    | with_reducible assumption
    | with_reducible apply State.sendVec_keeps
    | split
    | dsimp only
    | intro _
    | exact id

theorem State.infoRecord_keeps {q : List Instr} {n : Nat} {o : List Output} {s : State} (c : Cmd) (st d0 d1 : Nat) (h : Keeps q n o s) :
    Keeps q n o (State.infoRecord s c st d0 d1) := by
  unfold State.infoRecord
  try dsimp only
  repeat' first
    | with_reducible assumption
    | with_reducible apply State.count_keeps
    | with_reducible apply State.putRecord_keeps
    | with_reducible apply State.qVector_keeps
    | split
    | dsimp only
    | intro _
    | exact id

theorem State.haltQueue_keeps {q' : List Instr} {n : Nat} {o : List Output} {s : State} (q st seq slot : Nat) (h : Keeps q' n o s) :
    Keeps q' n o (State.haltQueue s q st seq slot) := by
  unfold State.haltQueue
  try dsimp only
  repeat' first
    | with_reducible assumption
    | with_reducible apply State.qVector_keeps
    | with_reducible apply State.setFld_keeps
    | with_reducible apply State.setQState_keeps
    | with_reducible apply State.setReg_keeps
    | split
    | dsimp only
    | intro _
    | exact id

theorem State.settleDisable_keeps {q' : List Instr} {n : Nat} {o : List Output} {s : State} (q : Nat) (h : Keeps q' n o s) :
    Keeps q' n o (State.settleDisable s q) := by
  unfold State.settleDisable
  try dsimp only
  repeat' first
    | with_reducible assumption
    | with_reducible apply Engine.zero_keeps
    | with_reducible apply State.setQState_keeps
    | with_reducible apply State.setQx_keeps
    | split
    | dsimp only
    | intro _
    | exact id

theorem State.complete_keeps {q : List Instr} {n : Nat} {o : List Output} {s : State} (c : Cmd) (st d0 d1 : Nat) (sig : Bool) (h : Keeps q n o s) :
    Keeps q n o (State.complete s c st d0 d1 sig) := by
  unfold State.complete
  try dsimp only
  repeat' first
    | with_reducible assumption
    | with_reducible apply State.dropCmd_keeps
    | with_reducible apply State.haltQueue_keeps
    | with_reducible apply State.jnlState_keeps
    | with_reducible apply State.putRecord_keeps
    | with_reducible apply State.qVector_keeps
    | with_reducible apply State.setCmd_keeps
    | with_reducible apply State.setInflight_keeps
    | with_reducible apply State.settleDisable_keeps
    | split
    | dsimp only
    | intro _
    | exact id

theorem State.finish_keeps {q : List Instr} {n : Nat} {o : List Output} {s : State} (c : Cmd) (st d0 d1 : Nat) (h : Keeps q n o s) :
    Keeps q n o (State.finish s c st d0 d1) := by
  unfold State.finish
  have h1 := State.setCmd_keeps { c with ran := true, phase := CmdPhase.finished st d0 d1 } h
  dsimp only
  split
  · exact ⟨h1.pending, h1.draws, h1.out, { h1.canon with }⟩
  · exact h1

theorem State.releaseSlot_keeps {q : List Instr} {n : Nat} {o : List Output} {s : State} (c : Cmd) (h : Keeps q n o s) :
    Keeps q n o (State.releaseSlot s c) := by
  unfold State.releaseSlot
  try dsimp only
  repeat' first
    | with_reducible assumption
    | with_reducible apply State.setUsed_keeps
    | split
    | dsimp only
    | intro _
    | exact id

theorem State.perform_keeps {q : List Instr} {n : Nat} {o : List Output} {s : State} (op : Nat) (r : CmdRef) (f : Cmd → State → State) (h : Keeps q n o s) (hf : ∀ a_ b_, Keeps q n o b_ → Keeps q n o (f a_ b_)) :
    Keeps q n o (State.perform s op r f) := by
  unfold State.perform
  try dsimp only
  repeat' first
    | with_reducible assumption
    | apply hf
    | split
    | dsimp only
    | intro _
    | exact id

theorem State.running_keeps {q : List Instr} {n : Nat} {o : List Output} {s : State} (op : Nat) (r : CmdRef) (f : Cmd → State → State) (h : Keeps q n o s) (hf : ∀ a_ b_, Keeps q n o b_ → Keeps q n o (f a_ b_)) :
    Keeps q n o (State.running s op r f) := by
  unfold State.running
  try dsimp only
  repeat' first
    | with_reducible assumption
    | apply hf
    | split
    | dsimp only
    | intro _
    | exact id

theorem State.startCmd_keeps {q : List Instr} {n : Nat} {o : List Output} {s : State} (c : Cmd) (h : Keeps q n o s) :
    Keeps q n o (State.startCmd s c) := by
  unfold State.startCmd
  try dsimp only
  repeat' first
    | with_reducible assumption
    | with_reducible apply State.jnlState_keeps
    | with_reducible apply State.setCmd_keeps
    | split
    | dsimp only
    | intro _
    | exact id

end Sys2Proof.Machine
end

