-- ==== Sys2Proof/Laws/KeepsAdmOps.lean ====
section
/-! SUPPORT. What each operation of Machine/AdmOps.lean keeps (Laws/Keeps.lean). -/

namespace Sys2Proof.Machine

theorem State.countWaiting_keeps {q : List Instr} {n : Nat} {o : List Output} {s : State} (b : Nat) (h : Keeps q n o s) :
    Keeps q n o (State.countWaiting s b) := by
  unfold State.countWaiting
  try dsimp only
  repeat' first
    | with_reducible assumption
    | with_reducible apply State.forAll_keeps
    | with_reducible apply State.setFld_keeps
    | split
    | dsimp only
    | intro _
    | exact id

theorem State.revoke_keeps {q : List Instr} {n : Nat} {o : List Output} {s : State} (l : Lend) (h : Keeps q n o s) :
    Keeps q n o (State.revoke s l) := by
  unfold State.revoke
  try dsimp only
  repeat' first
    | with_reducible assumption
    | with_reducible apply State.count_keeps
    | with_reducible apply State.dropCopy_keeps
    | with_reducible refine State.onMem_keeps ?_ (fun ⟨m0, m1, m2, m3, m4, m5, m6, m7⟩ => ⟨?_, ?_, ?_, ?_, ?_, ?_, ?_, ?_⟩)
    | with_reducible apply State.setUsed_keeps
    | with_reducible apply State.unlend_keeps
    | split
    | dsimp only
    | intro _
    | exact id

theorem State.revokeN_keeps {q : List Instr} {n' : Nat} {o : List Output} {s : State} (b k n : Nat) (h : Keeps q n' o s) :
    Keeps q n' o (State.revokeN s b k n) := by
  unfold State.revokeN
  try dsimp only
  repeat' first
    | with_reducible assumption
    | with_reducible apply State.forAll_keeps
    | with_reducible apply State.revoke_keeps
    | split
    | dsimp only
    | intro _
    | exact id

theorem State.evictClean_keeps {q : List Instr} {n' : Nat} {o : List Output} (fuel n : Nat) {s : State} (b : Nat) (h : Keeps q n' o s) :
    Keeps q n' o (State.evictClean fuel n s b) := by
  induction fuel generalizing n s with
  | zero =>
    unfold State.evictClean
    repeat' first
      | with_reducible assumption
      | contradiction
      | with_reducible apply State.count_keeps
      | with_reducible apply State.dropCopy_keeps
      | with_reducible apply foldl_state
      | with_reducible apply foldl_fst_state
      | with_reducible apply mwf_foldl
      | split
      | dsimp only
      | intro _
      | exact id
  | succ k ih =>
    unfold State.evictClean
    try dsimp only
    repeat' first
      | with_reducible assumption
      | apply ih
      | contradiction
      | with_reducible apply State.count_keeps
      | with_reducible apply State.dropCopy_keeps
      | with_reducible apply foldl_state
      | with_reducible apply foldl_fst_state
      | with_reducible apply mwf_foldl
      | split
      | dsimp only
      | intro _
      | exact id

theorem State.takeUnits_keeps {q : List Instr} {n' : Nat} {o : List Output} {s : State} (b k n : Nat) (h : Keeps q n' o s) :
    Keeps q n' o (State.takeUnits s b k n) := by
  unfold State.takeUnits
  try dsimp only
  repeat' first
    | with_reducible assumption
    | with_reducible apply State.evictClean_keeps
    | with_reducible refine State.onMem_keeps ?_ (fun ⟨m0, m1, m2, m3, m4, m5, m6, m7⟩ => ⟨?_, ?_, ?_, ?_, ?_, ?_, ?_, ?_⟩)
    | with_reducible apply State.revokeN_keeps
    | with_reducible apply State.setUsed_keeps
    | split
    | dsimp only
    | intro _
    | exact id

theorem State.serve_keeps {q : List Instr} {n : Nat} {o : List Output} {s : State} (r : AdmReq) (h : Keeps q n o s) :
    Keeps q n o (State.serve s r) := by
  unfold State.serve
  try dsimp only
  repeat' first
    | with_reducible assumption
    | with_reducible apply State.forAll_keeps
    | with_reducible apply State.takeUnits_keeps
    | split
    | dsimp only
    | intro _
    | exact id

theorem State.reclaim_keeps {q : List Instr} {n' : Nat} {o : List Output} {s : State} (b n : Nat) (h : Keeps q n' o s) :
    Keeps q n' o (State.reclaim s b n) := by
  unfold State.reclaim
  try dsimp only
  repeat' first
    | with_reducible assumption
    | with_reducible apply State.forAll_keeps
    | with_reducible apply State.writeBack_keeps
    | split
    | dsimp only
    | intro _
    | exact id

theorem State.admit_keeps {q : List Instr} {n : Nat} {o : List Output} {s : State} (c : Cmd) (b : Nat) (needs0 : List (Nat × Nat)) (h : Keeps q n o s) :
    ∀ t, (∃ c', State.admitUnits s c b needs0 = .served c' t) ∨ State.admitUnits s c b needs0 = .waits t ∨ State.admitUnits s c b needs0 = .refused t → Keeps q n o t := by
  intro t ht
  unfold State.admitUnits at ht
  dsimp only at ht
  (repeat' split at ht) <;> rcases ht with ⟨_, ht⟩ | ht | ht <;> cases ht <;> repeat' first
    | with_reducible assumption
    | with_reducible apply State.accept_keeps
    | with_reducible apply State.countWaiting_keeps
    | with_reducible apply State.count_keeps
    | with_reducible apply State.finish_keeps
    | with_reducible apply State.infoRecord_keeps
    | with_reducible refine State.onCq_keeps ?_ (fun ⟨m0, m1, m2, m3⟩ => ⟨?_, ?_, ?_, ?_⟩)
    | with_reducible apply State.reclaim_keeps
    | with_reducible apply State.serve_keeps
    | with_reducible apply State.setCmd_keeps
    | split
    | dsimp only
    | intro _
    | exact id

theorem State.dropAdm_keeps {q' : List Instr} {n : Nat} {o : List Output} {s : State} (q seq : Nat) (h : Keeps q' n o s) :
    Keeps q' n o (State.dropAdm s q seq) := by
  unfold State.dropAdm
  try dsimp only
  repeat' first
    | with_reducible assumption
    | with_reducible refine State.onCq_keeps ?_ (fun ⟨m0, m1, m2, m3⟩ => ⟨?_, ?_, ?_, ?_⟩)
    | split
    | dsimp only
    | intro _
    | exact id

theorem State.freeArbiter_keeps {q : List Instr} {n : Nat} {o : List Output} {s : State} (b : Nat) (h : Keeps q n o s) :
    Keeps q n o (State.freeArbiter s b) := by
  unfold State.freeArbiter
  try dsimp only
  repeat' first
    | with_reducible assumption
    | with_reducible refine State.onMem_keeps ?_ (fun ⟨m0, m1, m2, m3, m4, m5, m6, m7⟩ => ⟨?_, ?_, ?_, ?_, ?_, ?_, ?_, ?_⟩)
    | with_reducible apply State.setUsed_keeps
    | split
    | dsimp only
    | intro _
    | exact id

end Sys2Proof.Machine
end

