-- ==== Sys2Proof/Laws/KeepsEngCore.lean ====
section
/-! SUPPORT. What each operation of Machine/EngCore.lean keeps (Laws/Keeps.lean). -/

namespace Sys2Proof.Machine

theorem mwf_writeBytes (bs : List Byte) : ∀ {m : SMap Byte}, mwf zeroByte m = true →
    ∀ a : Nat, mwf zeroByte (writeBytes m a bs) = true := by
  induction bs with
  | nil => exact fun h a => h
  | cons b r ih => exact fun h a => ih (mwf_mset h a b) (a + 1)

theorem mwf_storeWords (ws : List W32) : ∀ {m : SMap W32}, mwf zeroWord m = true →
    ∀ k : Nat, mwf zeroWord (storeWords m k ws) = true := by
  induction ws with
  | nil => exact fun h k => h
  | cons w r ih => exact fun h k => ih (mwf_mset h k w) (k + 1)

theorem Engine.keep_keeps  (e : Engine) (ks : List Nat) (he : e.Canonical) :
    Engine.Canonical (Engine.keep e ks) := by
  unfold Engine.keep
  split
  · exact { he with kept := mwf_foldl (fun m k hm => mwf_mset hm k true) ks he.kept }
  · exact he

theorem Engine.store_keeps  (e : Engine) (a : Nat) (bs : List Byte) (he : e.Canonical) :
    Engine.Canonical (Engine.store e a bs) := by
  have h1 := Engine.keep_keeps e (wholeWords 4 a bs.length) he
  exact { h1 with
    spad := mwf_writeBytes bs he.spad a
    poison := mwf_foldl (fun m w hm => mwf_mset hm w false) _ he.poison }

theorem Engine.setOf_keeps  (e : Engine) (k : Nat) (he : e.Canonical) :
    StatSet.Canonical (Engine.setOf e k) := by
  unfold Engine.setOf
  split
  · exact he.set0
  · exact he.set1

theorem Engine.putSet_keeps  (e : Engine) (k : Nat) (s : StatSet) (he : e.Canonical) (hs : s.Canonical) :
    Engine.Canonical (Engine.putSet e k s) := by
  unfold Engine.putSet
  try dsimp only
  repeat' first
    | with_reducible assumption
    | with_reducible exact Keeps.eng ‹_› _ _
    | split
    | dsimp only
    | (with_reducible refine Engine.Canonical.spad ?_; first | with_reducible assumption | with_reducible exact Keeps.eng ‹_› _ _)
    | (with_reducible refine Engine.Canonical.poison ?_; first | with_reducible assumption | with_reducible exact Keeps.eng ‹_› _ _)
    | (with_reducible refine Engine.Canonical.acc ?_; first | with_reducible assumption | with_reducible exact Keeps.eng ‹_› _ _)
    | (with_reducible refine Engine.Canonical.vreg ?_; first | with_reducible assumption | with_reducible exact Keeps.eng ‹_› _ _)
    | (with_reducible refine Engine.Canonical.set0 ?_; first | with_reducible assumption | with_reducible exact Keeps.eng ‹_› _ _)
    | (with_reducible refine Engine.Canonical.set1 ?_; first | with_reducible assumption | with_reducible exact Keeps.eng ‹_› _ _)
    | (with_reducible refine Engine.Canonical.tags ?_; first | with_reducible assumption | with_reducible exact Keeps.eng ‹_› _ _)
    | (with_reducible refine Engine.Canonical.kept ?_; first | with_reducible assumption | with_reducible exact Keeps.eng ‹_› _ _)
    | exact Engine.zero_canonical
    | with_reducible refine Engine.Canonical.mk ?_ ?_ ?_ ?_ ?_ ?_ ?_ ?_
    | with_reducible refine StatSet.Canonical.mk ?_ ?_
    | exact mwf_nil
    | intro _
    | exact id

theorem Engine.addLanding_keeps  (e : Engine) (cyc : Nat) (w : Land) (he : e.Canonical) :
    Engine.Canonical (Engine.addLanding e cyc w) := by
  unfold Engine.addLanding
  try dsimp only
  repeat' first
    | with_reducible assumption
    | with_reducible exact Keeps.eng ‹_› _ _
    | split
    | dsimp only
    | (with_reducible refine Engine.Canonical.spad ?_; first | with_reducible assumption | with_reducible exact Keeps.eng ‹_› _ _)
    | (with_reducible refine Engine.Canonical.poison ?_; first | with_reducible assumption | with_reducible exact Keeps.eng ‹_› _ _)
    | (with_reducible refine Engine.Canonical.acc ?_; first | with_reducible assumption | with_reducible exact Keeps.eng ‹_› _ _)
    | (with_reducible refine Engine.Canonical.vreg ?_; first | with_reducible assumption | with_reducible exact Keeps.eng ‹_› _ _)
    | (with_reducible refine Engine.Canonical.set0 ?_; first | with_reducible assumption | with_reducible exact Keeps.eng ‹_› _ _)
    | (with_reducible refine Engine.Canonical.set1 ?_; first | with_reducible assumption | with_reducible exact Keeps.eng ‹_› _ _)
    | (with_reducible refine Engine.Canonical.tags ?_; first | with_reducible assumption | with_reducible exact Keeps.eng ‹_› _ _)
    | (with_reducible refine Engine.Canonical.kept ?_; first | with_reducible assumption | with_reducible exact Keeps.eng ‹_› _ _)
    | exact Engine.zero_canonical
    | with_reducible refine Engine.Canonical.mk ?_ ?_ ?_ ?_ ?_ ?_ ?_ ?_
    | intro _
    | exact id

theorem landPass_keeps  (e : Engine) (cyc : Nat) (p : PassRow) (he : e.Canonical) :
    Engine.Canonical (landPass e cyc p) := by
  unfold landPass
  try dsimp only
  repeat' first
    | with_reducible assumption
    | with_reducible apply Engine.addLanding_keeps
    | with_reducible apply Engine.keep_keeps
    | with_reducible apply foldl_engine
    | with_reducible apply foldl_fst_engine
    | with_reducible apply mwf_storeWords
    | with_reducible apply mwf_foldl
    | with_reducible exact Keeps.eng ‹_› _ _
    | split
    | dsimp only
    | (with_reducible refine Engine.Canonical.spad ?_; first | with_reducible assumption | with_reducible exact Keeps.eng ‹_› _ _ | with_reducible apply foldl_engine | with_reducible apply Engine.keep_keeps | with_reducible apply Engine.addLanding_keeps)
    | (with_reducible refine Engine.Canonical.poison ?_; first | with_reducible assumption | with_reducible exact Keeps.eng ‹_› _ _ | with_reducible apply foldl_engine | with_reducible apply Engine.keep_keeps | with_reducible apply Engine.addLanding_keeps)
    | (with_reducible refine Engine.Canonical.acc ?_; first | with_reducible assumption | with_reducible exact Keeps.eng ‹_› _ _ | with_reducible apply foldl_engine | with_reducible apply Engine.keep_keeps | with_reducible apply Engine.addLanding_keeps)
    | (with_reducible refine Engine.Canonical.vreg ?_; first | with_reducible assumption | with_reducible exact Keeps.eng ‹_› _ _ | with_reducible apply foldl_engine | with_reducible apply Engine.keep_keeps | with_reducible apply Engine.addLanding_keeps)
    | (with_reducible refine Engine.Canonical.set0 ?_; first | with_reducible assumption | with_reducible exact Keeps.eng ‹_› _ _ | with_reducible apply foldl_engine | with_reducible apply Engine.keep_keeps | with_reducible apply Engine.addLanding_keeps)
    | (with_reducible refine Engine.Canonical.set1 ?_; first | with_reducible assumption | with_reducible exact Keeps.eng ‹_› _ _ | with_reducible apply foldl_engine | with_reducible apply Engine.keep_keeps | with_reducible apply Engine.addLanding_keeps)
    | (with_reducible refine Engine.Canonical.tags ?_; first | with_reducible assumption | with_reducible exact Keeps.eng ‹_› _ _ | with_reducible apply foldl_engine | with_reducible apply Engine.keep_keeps | with_reducible apply Engine.addLanding_keeps)
    | (with_reducible refine Engine.Canonical.kept ?_; first | with_reducible assumption | with_reducible exact Keeps.eng ‹_› _ _ | with_reducible apply foldl_engine | with_reducible apply Engine.keep_keeps | with_reducible apply Engine.addLanding_keeps)
    | exact Engine.zero_canonical
    | with_reducible refine Engine.Canonical.mk ?_ ?_ ?_ ?_ ?_ ?_ ?_ ?_
    | intro _
    | exact id

theorem applyLand_keeps  (e : Engine) (l : Landing) (he : e.Canonical) :
    Engine.Canonical (applyLand e l) := by
  unfold applyLand
  try dsimp only
  repeat' first
    | with_reducible assumption
    | with_reducible apply Engine.keep_keeps
    | with_reducible apply Engine.putSet_keeps
    | with_reducible apply Engine.setOf_keeps
    | with_reducible apply Engine.store_keeps
    | with_reducible apply landPass_keeps
    | with_reducible apply mwf_writeBytes
    | with_reducible apply mwf_storeWords
    | with_reducible exact Keeps.eng ‹_› _ _
    | split
    | dsimp only
    | (with_reducible refine Engine.Canonical.spad ?_; first | with_reducible assumption | with_reducible exact Keeps.eng ‹_› _ _ | with_reducible apply Engine.keep_keeps | with_reducible apply Engine.store_keeps | with_reducible apply landPass_keeps | with_reducible apply Engine.putSet_keeps)
    | (with_reducible refine Engine.Canonical.poison ?_; first | with_reducible assumption | with_reducible exact Keeps.eng ‹_› _ _ | with_reducible apply Engine.keep_keeps | with_reducible apply Engine.store_keeps | with_reducible apply landPass_keeps | with_reducible apply Engine.putSet_keeps)
    | (with_reducible refine Engine.Canonical.acc ?_; first | with_reducible assumption | with_reducible exact Keeps.eng ‹_› _ _ | with_reducible apply Engine.keep_keeps | with_reducible apply Engine.store_keeps | with_reducible apply landPass_keeps | with_reducible apply Engine.putSet_keeps)
    | (with_reducible refine Engine.Canonical.vreg ?_; first | with_reducible assumption | with_reducible exact Keeps.eng ‹_› _ _ | with_reducible apply Engine.keep_keeps | with_reducible apply Engine.store_keeps | with_reducible apply landPass_keeps | with_reducible apply Engine.putSet_keeps)
    | (with_reducible refine Engine.Canonical.set0 ?_; first | with_reducible assumption | with_reducible exact Keeps.eng ‹_› _ _ | with_reducible apply Engine.keep_keeps | with_reducible apply Engine.store_keeps | with_reducible apply landPass_keeps | with_reducible apply Engine.putSet_keeps)
    | (with_reducible refine Engine.Canonical.set1 ?_; first | with_reducible assumption | with_reducible exact Keeps.eng ‹_› _ _ | with_reducible apply Engine.keep_keeps | with_reducible apply Engine.store_keeps | with_reducible apply landPass_keeps | with_reducible apply Engine.putSet_keeps)
    | (with_reducible refine Engine.Canonical.tags ?_; first | with_reducible assumption | with_reducible exact Keeps.eng ‹_› _ _ | with_reducible apply Engine.keep_keeps | with_reducible apply Engine.store_keeps | with_reducible apply landPass_keeps | with_reducible apply Engine.putSet_keeps)
    | (with_reducible refine Engine.Canonical.kept ?_; first | with_reducible assumption | with_reducible exact Keeps.eng ‹_› _ _ | with_reducible apply Engine.keep_keeps | with_reducible apply Engine.store_keeps | with_reducible apply landPass_keeps | with_reducible apply Engine.putSet_keeps)
    | (with_reducible refine StatSet.Canonical.rows ?_; first | with_reducible assumption | exact Engine.setOf_keeps _ _ ‹_›)
    | (with_reducible refine StatSet.Canonical.scales ?_; first | with_reducible assumption | exact Engine.setOf_keeps _ _ ‹_›)
    | exact Engine.zero_canonical
    | with_reducible refine Engine.Canonical.mk ?_ ?_ ?_ ?_ ?_ ?_ ?_ ?_
    | with_reducible refine StatSet.Canonical.mk ?_ ?_
    | exact mwf_nil
    | intro _
    | exact id

theorem commitFuel_keeps  (fuel t : Nat) (e : Engine) (he : e.Canonical) :
    Engine.Canonical (commitFuel fuel t e) := by
  induction fuel generalizing e with
  | zero =>
    unfold commitFuel
    repeat' first
      | with_reducible assumption
      | contradiction
      | with_reducible apply applyLand_keeps
      | with_reducible exact Keeps.eng ‹_› _ _
      | split
      | dsimp only
      | (with_reducible refine Engine.Canonical.spad ?_; first | with_reducible assumption | with_reducible exact Keeps.eng ‹_› _ _ | with_reducible apply applyLand_keeps)
      | (with_reducible refine Engine.Canonical.poison ?_; first | with_reducible assumption | with_reducible exact Keeps.eng ‹_› _ _ | with_reducible apply applyLand_keeps)
      | (with_reducible refine Engine.Canonical.acc ?_; first | with_reducible assumption | with_reducible exact Keeps.eng ‹_› _ _ | with_reducible apply applyLand_keeps)
      | (with_reducible refine Engine.Canonical.vreg ?_; first | with_reducible assumption | with_reducible exact Keeps.eng ‹_› _ _ | with_reducible apply applyLand_keeps)
      | (with_reducible refine Engine.Canonical.set0 ?_; first | with_reducible assumption | with_reducible exact Keeps.eng ‹_› _ _ | with_reducible apply applyLand_keeps)
      | (with_reducible refine Engine.Canonical.set1 ?_; first | with_reducible assumption | with_reducible exact Keeps.eng ‹_› _ _ | with_reducible apply applyLand_keeps)
      | (with_reducible refine Engine.Canonical.tags ?_; first | with_reducible assumption | with_reducible exact Keeps.eng ‹_› _ _ | with_reducible apply applyLand_keeps)
      | (with_reducible refine Engine.Canonical.kept ?_; first | with_reducible assumption | with_reducible exact Keeps.eng ‹_› _ _ | with_reducible apply applyLand_keeps)
      | exact Engine.zero_canonical
      | with_reducible refine Engine.Canonical.mk ?_ ?_ ?_ ?_ ?_ ?_ ?_ ?_
      | intro _
      | exact id
  | succ k ih =>
    unfold commitFuel
    try dsimp only
    repeat' first
      | with_reducible assumption
      | apply ih
      | contradiction
      | with_reducible apply applyLand_keeps
      | with_reducible exact Keeps.eng ‹_› _ _
      | split
      | dsimp only
      | (with_reducible refine Engine.Canonical.spad ?_; first | with_reducible assumption | with_reducible exact Keeps.eng ‹_› _ _ | with_reducible apply applyLand_keeps)
      | (with_reducible refine Engine.Canonical.poison ?_; first | with_reducible assumption | with_reducible exact Keeps.eng ‹_› _ _ | with_reducible apply applyLand_keeps)
      | (with_reducible refine Engine.Canonical.acc ?_; first | with_reducible assumption | with_reducible exact Keeps.eng ‹_› _ _ | with_reducible apply applyLand_keeps)
      | (with_reducible refine Engine.Canonical.vreg ?_; first | with_reducible assumption | with_reducible exact Keeps.eng ‹_› _ _ | with_reducible apply applyLand_keeps)
      | (with_reducible refine Engine.Canonical.set0 ?_; first | with_reducible assumption | with_reducible exact Keeps.eng ‹_› _ _ | with_reducible apply applyLand_keeps)
      | (with_reducible refine Engine.Canonical.set1 ?_; first | with_reducible assumption | with_reducible exact Keeps.eng ‹_› _ _ | with_reducible apply applyLand_keeps)
      | (with_reducible refine Engine.Canonical.tags ?_; first | with_reducible assumption | with_reducible exact Keeps.eng ‹_› _ _ | with_reducible apply applyLand_keeps)
      | (with_reducible refine Engine.Canonical.kept ?_; first | with_reducible assumption | with_reducible exact Keeps.eng ‹_› _ _ | with_reducible apply applyLand_keeps)
      | exact Engine.zero_canonical
      | with_reducible refine Engine.Canonical.mk ?_ ?_ ?_ ?_ ?_ ?_ ?_ ?_
      | intro _
      | exact id

theorem Engine.commitTo_keeps  (e : Engine) (t : Nat) (he : e.Canonical) :
    Engine.Canonical (Engine.commitTo e t) := by
  unfold Engine.commitTo
  try dsimp only
  repeat' first
    | with_reducible assumption
    | with_reducible apply commitFuel_keeps
    | with_reducible exact Keeps.eng ‹_› _ _
    | split
    | dsimp only
    | intro _
    | exact id

theorem Engine.view_keeps  (e : Engine) (t : Nat) (he : e.Canonical) :
    Engine.Canonical (Engine.view e t) := by
  unfold Engine.view
  try dsimp only
  repeat' first
    | with_reducible assumption
    | with_reducible apply Engine.commitTo_keeps
    | with_reducible exact Keeps.eng ‹_› _ _
    | split
    | dsimp only
    | intro _
    | exact id

theorem Engine.setTag_keeps  (e : Engine) (k : Nat) (t : Tag) (he : e.Canonical) :
    Engine.Canonical (Engine.setTag e k t) := by
  unfold Engine.setTag
  try dsimp only
  repeat' first
    | with_reducible assumption
    | with_reducible apply mwf_mset
    | with_reducible exact Keeps.eng ‹_› _ _
    | split
    | dsimp only
    | (with_reducible refine Engine.Canonical.spad ?_; first | with_reducible assumption | with_reducible exact Keeps.eng ‹_› _ _)
    | (with_reducible refine Engine.Canonical.poison ?_; first | with_reducible assumption | with_reducible exact Keeps.eng ‹_› _ _)
    | (with_reducible refine Engine.Canonical.acc ?_; first | with_reducible assumption | with_reducible exact Keeps.eng ‹_› _ _)
    | (with_reducible refine Engine.Canonical.vreg ?_; first | with_reducible assumption | with_reducible exact Keeps.eng ‹_› _ _)
    | (with_reducible refine Engine.Canonical.set0 ?_; first | with_reducible assumption | with_reducible exact Keeps.eng ‹_› _ _)
    | (with_reducible refine Engine.Canonical.set1 ?_; first | with_reducible assumption | with_reducible exact Keeps.eng ‹_› _ _)
    | (with_reducible refine Engine.Canonical.tags ?_; first | with_reducible assumption | with_reducible exact Keeps.eng ‹_› _ _)
    | (with_reducible refine Engine.Canonical.kept ?_; first | with_reducible assumption | with_reducible exact Keeps.eng ‹_› _ _)
    | exact Engine.zero_canonical
    | with_reducible refine Engine.Canonical.mk ?_ ?_ ?_ ?_ ?_ ?_ ?_ ?_
    | intro _
    | exact id

theorem Engine.withRun_keeps  (e : Engine) (f : Run → Run) (he : e.Canonical) :
    Engine.Canonical (Engine.withRun e f) := by
  unfold Engine.withRun
  try dsimp only
  repeat' first
    | with_reducible assumption
    | with_reducible exact Keeps.eng ‹_› _ _
    | split
    | dsimp only
    | (with_reducible refine Engine.Canonical.spad ?_; first | with_reducible assumption | with_reducible exact Keeps.eng ‹_› _ _)
    | (with_reducible refine Engine.Canonical.poison ?_; first | with_reducible assumption | with_reducible exact Keeps.eng ‹_› _ _)
    | (with_reducible refine Engine.Canonical.acc ?_; first | with_reducible assumption | with_reducible exact Keeps.eng ‹_› _ _)
    | (with_reducible refine Engine.Canonical.vreg ?_; first | with_reducible assumption | with_reducible exact Keeps.eng ‹_› _ _)
    | (with_reducible refine Engine.Canonical.set0 ?_; first | with_reducible assumption | with_reducible exact Keeps.eng ‹_› _ _)
    | (with_reducible refine Engine.Canonical.set1 ?_; first | with_reducible assumption | with_reducible exact Keeps.eng ‹_› _ _)
    | (with_reducible refine Engine.Canonical.tags ?_; first | with_reducible assumption | with_reducible exact Keeps.eng ‹_› _ _)
    | (with_reducible refine Engine.Canonical.kept ?_; first | with_reducible assumption | with_reducible exact Keeps.eng ‹_› _ _)
    | exact Engine.zero_canonical
    | with_reducible refine Engine.Canonical.mk ?_ ?_ ?_ ?_ ?_ ?_ ?_ ?_
    | intro _
    | exact id

theorem Engine.fail_keeps  (e : Engine) (f : Failure) (he : e.Canonical) :
    Engine.Canonical (Engine.fail e f) := by
  unfold Engine.fail
  try dsimp only
  repeat' first
    | with_reducible assumption
    | with_reducible apply Engine.withRun_keeps
    | with_reducible exact Keeps.eng ‹_› _ _
    | split
    | dsimp only
    | (with_reducible refine Engine.Canonical.spad ?_; first | with_reducible assumption | with_reducible exact Keeps.eng ‹_› _ _ | with_reducible apply Engine.withRun_keeps)
    | (with_reducible refine Engine.Canonical.poison ?_; first | with_reducible assumption | with_reducible exact Keeps.eng ‹_› _ _ | with_reducible apply Engine.withRun_keeps)
    | (with_reducible refine Engine.Canonical.acc ?_; first | with_reducible assumption | with_reducible exact Keeps.eng ‹_› _ _ | with_reducible apply Engine.withRun_keeps)
    | (with_reducible refine Engine.Canonical.vreg ?_; first | with_reducible assumption | with_reducible exact Keeps.eng ‹_› _ _ | with_reducible apply Engine.withRun_keeps)
    | (with_reducible refine Engine.Canonical.set0 ?_; first | with_reducible assumption | with_reducible exact Keeps.eng ‹_› _ _ | with_reducible apply Engine.withRun_keeps)
    | (with_reducible refine Engine.Canonical.set1 ?_; first | with_reducible assumption | with_reducible exact Keeps.eng ‹_› _ _ | with_reducible apply Engine.withRun_keeps)
    | (with_reducible refine Engine.Canonical.tags ?_; first | with_reducible assumption | with_reducible exact Keeps.eng ‹_› _ _ | with_reducible apply Engine.withRun_keeps)
    | (with_reducible refine Engine.Canonical.kept ?_; first | with_reducible assumption | with_reducible exact Keeps.eng ‹_› _ _ | with_reducible apply Engine.withRun_keeps)
    | exact Engine.zero_canonical
    | with_reducible refine Engine.Canonical.mk ?_ ?_ ?_ ?_ ?_ ?_ ?_ ?_
    | intro _
    | exact id

theorem Engine.reject_keeps  (e : Engine) (cyc status slot pc : Nat) (he : e.Canonical) :
    Engine.Canonical (Engine.reject e cyc status slot pc) := by
  unfold Engine.reject
  try dsimp only
  repeat' first
    | with_reducible assumption
    | with_reducible apply Engine.fail_keeps
    | with_reducible exact Keeps.eng ‹_› _ _
    | split
    | dsimp only
    | (with_reducible refine Engine.Canonical.spad ?_; first | with_reducible assumption | with_reducible exact Keeps.eng ‹_› _ _ | with_reducible apply Engine.fail_keeps)
    | (with_reducible refine Engine.Canonical.poison ?_; first | with_reducible assumption | with_reducible exact Keeps.eng ‹_› _ _ | with_reducible apply Engine.fail_keeps)
    | (with_reducible refine Engine.Canonical.acc ?_; first | with_reducible assumption | with_reducible exact Keeps.eng ‹_› _ _ | with_reducible apply Engine.fail_keeps)
    | (with_reducible refine Engine.Canonical.vreg ?_; first | with_reducible assumption | with_reducible exact Keeps.eng ‹_› _ _ | with_reducible apply Engine.fail_keeps)
    | (with_reducible refine Engine.Canonical.set0 ?_; first | with_reducible assumption | with_reducible exact Keeps.eng ‹_› _ _ | with_reducible apply Engine.fail_keeps)
    | (with_reducible refine Engine.Canonical.set1 ?_; first | with_reducible assumption | with_reducible exact Keeps.eng ‹_› _ _ | with_reducible apply Engine.fail_keeps)
    | (with_reducible refine Engine.Canonical.tags ?_; first | with_reducible assumption | with_reducible exact Keeps.eng ‹_› _ _ | with_reducible apply Engine.fail_keeps)
    | (with_reducible refine Engine.Canonical.kept ?_; first | with_reducible assumption | with_reducible exact Keeps.eng ‹_› _ _ | with_reducible apply Engine.fail_keeps)
    | exact Engine.zero_canonical
    | with_reducible refine Engine.Canonical.mk ?_ ?_ ?_ ?_ ?_ ?_ ?_ ?_
    | intro _
    | exact id

theorem lostRead_keeps  (e : Engine) (key t pc slot : Nat) (he : e.Canonical) :
    Engine.Canonical (lostRead e key t pc slot) := by
  unfold lostRead
  try dsimp only
  repeat' first
    | with_reducible assumption
    | with_reducible apply Engine.reject_keeps
    | with_reducible apply Engine.view_keeps
    | with_reducible exact Keeps.eng ‹_› _ _
    | split
    | dsimp only
    | (with_reducible refine Engine.Canonical.spad ?_; first | with_reducible assumption | with_reducible exact Keeps.eng ‹_› _ _ | with_reducible apply Engine.reject_keeps | with_reducible apply Engine.view_keeps)
    | (with_reducible refine Engine.Canonical.poison ?_; first | with_reducible assumption | with_reducible exact Keeps.eng ‹_› _ _ | with_reducible apply Engine.reject_keeps | with_reducible apply Engine.view_keeps)
    | (with_reducible refine Engine.Canonical.acc ?_; first | with_reducible assumption | with_reducible exact Keeps.eng ‹_› _ _ | with_reducible apply Engine.reject_keeps | with_reducible apply Engine.view_keeps)
    | (with_reducible refine Engine.Canonical.vreg ?_; first | with_reducible assumption | with_reducible exact Keeps.eng ‹_› _ _ | with_reducible apply Engine.reject_keeps | with_reducible apply Engine.view_keeps)
    | (with_reducible refine Engine.Canonical.set0 ?_; first | with_reducible assumption | with_reducible exact Keeps.eng ‹_› _ _ | with_reducible apply Engine.reject_keeps | with_reducible apply Engine.view_keeps)
    | (with_reducible refine Engine.Canonical.set1 ?_; first | with_reducible assumption | with_reducible exact Keeps.eng ‹_› _ _ | with_reducible apply Engine.reject_keeps | with_reducible apply Engine.view_keeps)
    | (with_reducible refine Engine.Canonical.tags ?_; first | with_reducible assumption | with_reducible exact Keeps.eng ‹_› _ _ | with_reducible apply Engine.reject_keeps | with_reducible apply Engine.view_keeps)
    | (with_reducible refine Engine.Canonical.kept ?_; first | with_reducible assumption | with_reducible exact Keeps.eng ‹_› _ _ | with_reducible apply Engine.reject_keeps | with_reducible apply Engine.view_keeps)
    | exact Engine.zero_canonical
    | with_reducible refine Engine.Canonical.mk ?_ ?_ ?_ ?_ ?_ ?_ ?_ ?_
    | intro _
    | exact id

theorem onRead_keeps  (e : Engine) (key t pc slot : Nat) (he : e.Canonical) :
    Engine.Canonical (onRead e key t pc slot) := by
  unfold onRead
  try dsimp only
  repeat' first
    | with_reducible assumption
    | with_reducible apply Engine.fail_keeps
    | with_reducible apply Engine.setTag_keeps
    | with_reducible apply lostRead_keeps
    | with_reducible exact Keeps.eng ‹_› _ _
    | split
    | dsimp only
    | (with_reducible refine Engine.Canonical.spad ?_; first | with_reducible assumption | with_reducible exact Keeps.eng ‹_› _ _ | with_reducible apply lostRead_keeps | with_reducible apply Engine.fail_keeps | with_reducible apply Engine.setTag_keeps)
    | (with_reducible refine Engine.Canonical.poison ?_; first | with_reducible assumption | with_reducible exact Keeps.eng ‹_› _ _ | with_reducible apply lostRead_keeps | with_reducible apply Engine.fail_keeps | with_reducible apply Engine.setTag_keeps)
    | (with_reducible refine Engine.Canonical.acc ?_; first | with_reducible assumption | with_reducible exact Keeps.eng ‹_› _ _ | with_reducible apply lostRead_keeps | with_reducible apply Engine.fail_keeps | with_reducible apply Engine.setTag_keeps)
    | (with_reducible refine Engine.Canonical.vreg ?_; first | with_reducible assumption | with_reducible exact Keeps.eng ‹_› _ _ | with_reducible apply lostRead_keeps | with_reducible apply Engine.fail_keeps | with_reducible apply Engine.setTag_keeps)
    | (with_reducible refine Engine.Canonical.set0 ?_; first | with_reducible assumption | with_reducible exact Keeps.eng ‹_› _ _ | with_reducible apply lostRead_keeps | with_reducible apply Engine.fail_keeps | with_reducible apply Engine.setTag_keeps)
    | (with_reducible refine Engine.Canonical.set1 ?_; first | with_reducible assumption | with_reducible exact Keeps.eng ‹_› _ _ | with_reducible apply lostRead_keeps | with_reducible apply Engine.fail_keeps | with_reducible apply Engine.setTag_keeps)
    | (with_reducible refine Engine.Canonical.tags ?_; first | with_reducible assumption | with_reducible exact Keeps.eng ‹_› _ _ | with_reducible apply lostRead_keeps | with_reducible apply Engine.fail_keeps | with_reducible apply Engine.setTag_keeps)
    | (with_reducible refine Engine.Canonical.kept ?_; first | with_reducible assumption | with_reducible exact Keeps.eng ‹_› _ _ | with_reducible apply lostRead_keeps | with_reducible apply Engine.fail_keeps | with_reducible apply Engine.setTag_keeps)
    | exact Engine.zero_canonical
    | with_reducible refine Engine.Canonical.mk ?_ ?_ ?_ ?_ ?_ ?_ ?_ ?_
    | intro _
    | exact id

theorem onWrite_keeps  (e : Engine) (key tIssue tLand pc slot : Nat) (he : e.Canonical) :
    Engine.Canonical (onWrite e key tIssue tLand pc slot) := by
  unfold onWrite
  try dsimp only
  repeat' first
    | with_reducible assumption
    | with_reducible apply Engine.fail_keeps
    | with_reducible apply Engine.setTag_keeps
    | with_reducible exact Keeps.eng ‹_› _ _
    | split
    | dsimp only
    | (with_reducible refine Engine.Canonical.spad ?_; first | with_reducible assumption | with_reducible exact Keeps.eng ‹_› _ _ | with_reducible apply Engine.fail_keeps | with_reducible apply Engine.setTag_keeps)
    | (with_reducible refine Engine.Canonical.poison ?_; first | with_reducible assumption | with_reducible exact Keeps.eng ‹_› _ _ | with_reducible apply Engine.fail_keeps | with_reducible apply Engine.setTag_keeps)
    | (with_reducible refine Engine.Canonical.acc ?_; first | with_reducible assumption | with_reducible exact Keeps.eng ‹_› _ _ | with_reducible apply Engine.fail_keeps | with_reducible apply Engine.setTag_keeps)
    | (with_reducible refine Engine.Canonical.vreg ?_; first | with_reducible assumption | with_reducible exact Keeps.eng ‹_› _ _ | with_reducible apply Engine.fail_keeps | with_reducible apply Engine.setTag_keeps)
    | (with_reducible refine Engine.Canonical.set0 ?_; first | with_reducible assumption | with_reducible exact Keeps.eng ‹_› _ _ | with_reducible apply Engine.fail_keeps | with_reducible apply Engine.setTag_keeps)
    | (with_reducible refine Engine.Canonical.set1 ?_; first | with_reducible assumption | with_reducible exact Keeps.eng ‹_› _ _ | with_reducible apply Engine.fail_keeps | with_reducible apply Engine.setTag_keeps)
    | (with_reducible refine Engine.Canonical.tags ?_; first | with_reducible assumption | with_reducible exact Keeps.eng ‹_› _ _ | with_reducible apply Engine.fail_keeps | with_reducible apply Engine.setTag_keeps)
    | (with_reducible refine Engine.Canonical.kept ?_; first | with_reducible assumption | with_reducible exact Keeps.eng ‹_› _ _ | with_reducible apply Engine.fail_keeps | with_reducible apply Engine.setTag_keeps)
    | exact Engine.zero_canonical
    | with_reducible refine Engine.Canonical.mk ?_ ?_ ?_ ?_ ?_ ?_ ?_ ?_
    | intro _
    | exact id

theorem onAsync_keeps  (e : Engine) (key tIssue pc slot : Nat) (he : e.Canonical) :
    Engine.Canonical (onAsync e key tIssue pc slot) := by
  unfold onAsync
  try dsimp only
  repeat' first
    | with_reducible assumption
    | with_reducible apply Engine.fail_keeps
    | with_reducible apply Engine.setTag_keeps
    | with_reducible exact Keeps.eng ‹_› _ _
    | split
    | dsimp only
    | (with_reducible refine Engine.Canonical.spad ?_; first | with_reducible assumption | with_reducible exact Keeps.eng ‹_› _ _ | with_reducible apply Engine.fail_keeps | with_reducible apply Engine.setTag_keeps)
    | (with_reducible refine Engine.Canonical.poison ?_; first | with_reducible assumption | with_reducible exact Keeps.eng ‹_› _ _ | with_reducible apply Engine.fail_keeps | with_reducible apply Engine.setTag_keeps)
    | (with_reducible refine Engine.Canonical.acc ?_; first | with_reducible assumption | with_reducible exact Keeps.eng ‹_› _ _ | with_reducible apply Engine.fail_keeps | with_reducible apply Engine.setTag_keeps)
    | (with_reducible refine Engine.Canonical.vreg ?_; first | with_reducible assumption | with_reducible exact Keeps.eng ‹_› _ _ | with_reducible apply Engine.fail_keeps | with_reducible apply Engine.setTag_keeps)
    | (with_reducible refine Engine.Canonical.set0 ?_; first | with_reducible assumption | with_reducible exact Keeps.eng ‹_› _ _ | with_reducible apply Engine.fail_keeps | with_reducible apply Engine.setTag_keeps)
    | (with_reducible refine Engine.Canonical.set1 ?_; first | with_reducible assumption | with_reducible exact Keeps.eng ‹_› _ _ | with_reducible apply Engine.fail_keeps | with_reducible apply Engine.setTag_keeps)
    | (with_reducible refine Engine.Canonical.tags ?_; first | with_reducible assumption | with_reducible exact Keeps.eng ‹_› _ _ | with_reducible apply Engine.fail_keeps | with_reducible apply Engine.setTag_keeps)
    | (with_reducible refine Engine.Canonical.kept ?_; first | with_reducible assumption | with_reducible exact Keeps.eng ‹_› _ _ | with_reducible apply Engine.fail_keeps | with_reducible apply Engine.setTag_keeps)
    | exact Engine.zero_canonical
    | with_reducible refine Engine.Canonical.mk ?_ ?_ ?_ ?_ ?_ ?_ ?_ ?_
    | intro _
    | exact id

theorem Engine.release_keeps  (e : Engine) (key : Nat) (he : e.Canonical) :
    Engine.Canonical (Engine.release e key) := by
  unfold Engine.release
  try dsimp only
  repeat' first
    | with_reducible assumption
    | with_reducible apply Engine.setTag_keeps
    | with_reducible exact Keeps.eng ‹_› _ _
    | split
    | dsimp only
    | (with_reducible refine Engine.Canonical.spad ?_; first | with_reducible assumption | with_reducible exact Keeps.eng ‹_› _ _ | with_reducible apply Engine.setTag_keeps)
    | (with_reducible refine Engine.Canonical.poison ?_; first | with_reducible assumption | with_reducible exact Keeps.eng ‹_› _ _ | with_reducible apply Engine.setTag_keeps)
    | (with_reducible refine Engine.Canonical.acc ?_; first | with_reducible assumption | with_reducible exact Keeps.eng ‹_› _ _ | with_reducible apply Engine.setTag_keeps)
    | (with_reducible refine Engine.Canonical.vreg ?_; first | with_reducible assumption | with_reducible exact Keeps.eng ‹_› _ _ | with_reducible apply Engine.setTag_keeps)
    | (with_reducible refine Engine.Canonical.set0 ?_; first | with_reducible assumption | with_reducible exact Keeps.eng ‹_› _ _ | with_reducible apply Engine.setTag_keeps)
    | (with_reducible refine Engine.Canonical.set1 ?_; first | with_reducible assumption | with_reducible exact Keeps.eng ‹_› _ _ | with_reducible apply Engine.setTag_keeps)
    | (with_reducible refine Engine.Canonical.tags ?_; first | with_reducible assumption | with_reducible exact Keeps.eng ‹_› _ _ | with_reducible apply Engine.setTag_keeps)
    | (with_reducible refine Engine.Canonical.kept ?_; first | with_reducible assumption | with_reducible exact Keeps.eng ‹_› _ _ | with_reducible apply Engine.setTag_keeps)
    | exact Engine.zero_canonical
    | with_reducible refine Engine.Canonical.mk ?_ ?_ ?_ ?_ ?_ ?_ ?_ ?_
    | intro _
    | exact id

theorem foldKeys_keeps  (f : Engine → Nat → Engine) (e : Engine) (ks : List Nat) (hf : ∀ a_ b_, a_.Canonical → (f a_ b_).Canonical) (he : e.Canonical) :
    Engine.Canonical (foldKeys f e ks) := foldl_keeps hf ks he

theorem useBanks_keeps  (own : Owners) (e : Engine) (t slot pc a n : Nat) (he : e.Canonical) :
    Engine.Canonical (useBanks own e t slot pc a n) := by
  unfold useBanks
  try dsimp only
  repeat' first
    | with_reducible assumption
    | with_reducible apply Engine.reject_keeps
    | with_reducible apply Engine.withRun_keeps
    | with_reducible exact Keeps.eng ‹_› _ _
    | split
    | dsimp only
    | (with_reducible refine Engine.Canonical.spad ?_; first | with_reducible assumption | with_reducible exact Keeps.eng ‹_› _ _ | with_reducible apply Engine.reject_keeps | with_reducible apply Engine.withRun_keeps)
    | (with_reducible refine Engine.Canonical.poison ?_; first | with_reducible assumption | with_reducible exact Keeps.eng ‹_› _ _ | with_reducible apply Engine.reject_keeps | with_reducible apply Engine.withRun_keeps)
    | (with_reducible refine Engine.Canonical.acc ?_; first | with_reducible assumption | with_reducible exact Keeps.eng ‹_› _ _ | with_reducible apply Engine.reject_keeps | with_reducible apply Engine.withRun_keeps)
    | (with_reducible refine Engine.Canonical.vreg ?_; first | with_reducible assumption | with_reducible exact Keeps.eng ‹_› _ _ | with_reducible apply Engine.reject_keeps | with_reducible apply Engine.withRun_keeps)
    | (with_reducible refine Engine.Canonical.set0 ?_; first | with_reducible assumption | with_reducible exact Keeps.eng ‹_› _ _ | with_reducible apply Engine.reject_keeps | with_reducible apply Engine.withRun_keeps)
    | (with_reducible refine Engine.Canonical.set1 ?_; first | with_reducible assumption | with_reducible exact Keeps.eng ‹_› _ _ | with_reducible apply Engine.reject_keeps | with_reducible apply Engine.withRun_keeps)
    | (with_reducible refine Engine.Canonical.tags ?_; first | with_reducible assumption | with_reducible exact Keeps.eng ‹_› _ _ | with_reducible apply Engine.reject_keeps | with_reducible apply Engine.withRun_keeps)
    | (with_reducible refine Engine.Canonical.kept ?_; first | with_reducible assumption | with_reducible exact Keeps.eng ‹_› _ _ | with_reducible apply Engine.reject_keeps | with_reducible apply Engine.withRun_keeps)
    | exact Engine.zero_canonical
    | with_reducible refine Engine.Canonical.mk ?_ ?_ ?_ ?_ ?_ ?_ ?_ ?_
    | intro _
    | exact id

theorem timedRead_keeps  (own : Owners) (e : Engine) (t slot pc a n : Nat) (he : e.Canonical) :
    Engine.Canonical (timedRead own e t slot pc a n) := by
  unfold timedRead
  try dsimp only
  repeat' first
    | with_reducible assumption
    | with_reducible apply Engine.reject_keeps
    | with_reducible apply Engine.view_keeps
    | with_reducible apply foldKeys_keeps
    | with_reducible apply onRead_keeps
    | with_reducible apply useBanks_keeps
    | with_reducible exact Keeps.eng ‹_› _ _
    | split
    | dsimp only
    | intro _
    | exact id

theorem timedWrite_keeps  (own : Owners) (e : Engine) (tIssue tLand slot pc a n : Nat) (he : e.Canonical) :
    Engine.Canonical (timedWrite own e tIssue tLand slot pc a n) := by
  unfold timedWrite
  try dsimp only
  repeat' first
    | with_reducible assumption
    | with_reducible apply foldKeys_keeps
    | with_reducible apply onWrite_keeps
    | with_reducible apply useBanks_keeps
    | with_reducible exact Keeps.eng ‹_› _ _
    | split
    | dsimp only
    | intro _
    | exact id

theorem Engine.putStream_keeps  (e : Engine) (i : Nat) (st : AStream) (he : e.Canonical) :
    Engine.Canonical (Engine.putStream e i st) := by
  unfold Engine.putStream
  try dsimp only
  repeat' first
    | with_reducible assumption
    | with_reducible apply Engine.withRun_keeps
    | with_reducible exact Keeps.eng ‹_› _ _
    | split
    | dsimp only
    | (with_reducible refine Engine.Canonical.spad ?_; first | with_reducible assumption | with_reducible exact Keeps.eng ‹_› _ _ | with_reducible apply Engine.withRun_keeps)
    | (with_reducible refine Engine.Canonical.poison ?_; first | with_reducible assumption | with_reducible exact Keeps.eng ‹_› _ _ | with_reducible apply Engine.withRun_keeps)
    | (with_reducible refine Engine.Canonical.acc ?_; first | with_reducible assumption | with_reducible exact Keeps.eng ‹_› _ _ | with_reducible apply Engine.withRun_keeps)
    | (with_reducible refine Engine.Canonical.vreg ?_; first | with_reducible assumption | with_reducible exact Keeps.eng ‹_› _ _ | with_reducible apply Engine.withRun_keeps)
    | (with_reducible refine Engine.Canonical.set0 ?_; first | with_reducible assumption | with_reducible exact Keeps.eng ‹_› _ _ | with_reducible apply Engine.withRun_keeps)
    | (with_reducible refine Engine.Canonical.set1 ?_; first | with_reducible assumption | with_reducible exact Keeps.eng ‹_› _ _ | with_reducible apply Engine.withRun_keeps)
    | (with_reducible refine Engine.Canonical.tags ?_; first | with_reducible assumption | with_reducible exact Keeps.eng ‹_› _ _ | with_reducible apply Engine.withRun_keeps)
    | (with_reducible refine Engine.Canonical.kept ?_; first | with_reducible assumption | with_reducible exact Keeps.eng ‹_› _ _ | with_reducible apply Engine.withRun_keeps)
    | exact Engine.zero_canonical
    | with_reducible refine Engine.Canonical.mk ?_ ?_ ?_ ?_ ?_ ?_ ?_ ?_
    | intro _
    | exact id

theorem streamStep_keeps  (own : Owners) (e : Engine) (i tIssue pc t : Nat) (he : e.Canonical) :
    Engine.Canonical (streamStep own e i tIssue pc t).1 := by
  unfold streamStep
  try dsimp only
  repeat' first
    | with_reducible assumption
    | with_reducible apply Engine.putStream_keeps
    | with_reducible apply Engine.reject_keeps
    | with_reducible apply Engine.release_keeps
    | with_reducible apply Engine.setTag_keeps
    | with_reducible apply Engine.view_keeps
    | with_reducible apply foldKeys_keeps
    | with_reducible apply timedRead_keeps
    | with_reducible exact Keeps.eng ‹_› _ _
    | split
    | dsimp only
    | (with_reducible refine Engine.Canonical.spad ?_; first | with_reducible assumption | with_reducible exact Keeps.eng ‹_› _ _ | with_reducible apply Engine.reject_keeps | with_reducible apply Engine.view_keeps | with_reducible apply timedRead_keeps | with_reducible apply Engine.setTag_keeps | with_reducible apply Engine.release_keeps | with_reducible apply Engine.putStream_keeps | with_reducible apply foldKeys_keeps)
    | (with_reducible refine Engine.Canonical.poison ?_; first | with_reducible assumption | with_reducible exact Keeps.eng ‹_› _ _ | with_reducible apply Engine.reject_keeps | with_reducible apply Engine.view_keeps | with_reducible apply timedRead_keeps | with_reducible apply Engine.setTag_keeps | with_reducible apply Engine.release_keeps | with_reducible apply Engine.putStream_keeps | with_reducible apply foldKeys_keeps)
    | (with_reducible refine Engine.Canonical.acc ?_; first | with_reducible assumption | with_reducible exact Keeps.eng ‹_› _ _ | with_reducible apply Engine.reject_keeps | with_reducible apply Engine.view_keeps | with_reducible apply timedRead_keeps | with_reducible apply Engine.setTag_keeps | with_reducible apply Engine.release_keeps | with_reducible apply Engine.putStream_keeps | with_reducible apply foldKeys_keeps)
    | (with_reducible refine Engine.Canonical.vreg ?_; first | with_reducible assumption | with_reducible exact Keeps.eng ‹_› _ _ | with_reducible apply Engine.reject_keeps | with_reducible apply Engine.view_keeps | with_reducible apply timedRead_keeps | with_reducible apply Engine.setTag_keeps | with_reducible apply Engine.release_keeps | with_reducible apply Engine.putStream_keeps | with_reducible apply foldKeys_keeps)
    | (with_reducible refine Engine.Canonical.set0 ?_; first | with_reducible assumption | with_reducible exact Keeps.eng ‹_› _ _ | with_reducible apply Engine.reject_keeps | with_reducible apply Engine.view_keeps | with_reducible apply timedRead_keeps | with_reducible apply Engine.setTag_keeps | with_reducible apply Engine.release_keeps | with_reducible apply Engine.putStream_keeps | with_reducible apply foldKeys_keeps)
    | (with_reducible refine Engine.Canonical.set1 ?_; first | with_reducible assumption | with_reducible exact Keeps.eng ‹_› _ _ | with_reducible apply Engine.reject_keeps | with_reducible apply Engine.view_keeps | with_reducible apply timedRead_keeps | with_reducible apply Engine.setTag_keeps | with_reducible apply Engine.release_keeps | with_reducible apply Engine.putStream_keeps | with_reducible apply foldKeys_keeps)
    | (with_reducible refine Engine.Canonical.tags ?_; first | with_reducible assumption | with_reducible exact Keeps.eng ‹_› _ _ | with_reducible apply Engine.reject_keeps | with_reducible apply Engine.view_keeps | with_reducible apply timedRead_keeps | with_reducible apply Engine.setTag_keeps | with_reducible apply Engine.release_keeps | with_reducible apply Engine.putStream_keeps | with_reducible apply foldKeys_keeps)
    | (with_reducible refine Engine.Canonical.kept ?_; first | with_reducible assumption | with_reducible exact Keeps.eng ‹_› _ _ | with_reducible apply Engine.reject_keeps | with_reducible apply Engine.view_keeps | with_reducible apply timedRead_keeps | with_reducible apply Engine.setTag_keeps | with_reducible apply Engine.release_keeps | with_reducible apply Engine.putStream_keeps | with_reducible apply foldKeys_keeps)
    | exact Engine.zero_canonical
    | with_reducible refine Engine.Canonical.mk ?_ ?_ ?_ ?_ ?_ ?_ ?_ ?_
    | intro _
    | exact id

theorem claimStream_keeps  (e : Engine) (i a b slot pc : Nat) (multi : Bool) (he : e.Canonical) :
    Engine.Canonical (claimStream e i a b slot pc multi) := by
  unfold claimStream
  try dsimp only
  repeat' first
    | with_reducible assumption
    | with_reducible apply Engine.fail_keeps
    | with_reducible apply Engine.putStream_keeps
    | with_reducible exact Keeps.eng ‹_› _ _
    | split
    | dsimp only
    | (with_reducible refine Engine.Canonical.spad ?_; first | with_reducible assumption | with_reducible exact Keeps.eng ‹_› _ _ | with_reducible apply Engine.fail_keeps | with_reducible apply Engine.putStream_keeps)
    | (with_reducible refine Engine.Canonical.poison ?_; first | with_reducible assumption | with_reducible exact Keeps.eng ‹_› _ _ | with_reducible apply Engine.fail_keeps | with_reducible apply Engine.putStream_keeps)
    | (with_reducible refine Engine.Canonical.acc ?_; first | with_reducible assumption | with_reducible exact Keeps.eng ‹_› _ _ | with_reducible apply Engine.fail_keeps | with_reducible apply Engine.putStream_keeps)
    | (with_reducible refine Engine.Canonical.vreg ?_; first | with_reducible assumption | with_reducible exact Keeps.eng ‹_› _ _ | with_reducible apply Engine.fail_keeps | with_reducible apply Engine.putStream_keeps)
    | (with_reducible refine Engine.Canonical.set0 ?_; first | with_reducible assumption | with_reducible exact Keeps.eng ‹_› _ _ | with_reducible apply Engine.fail_keeps | with_reducible apply Engine.putStream_keeps)
    | (with_reducible refine Engine.Canonical.set1 ?_; first | with_reducible assumption | with_reducible exact Keeps.eng ‹_› _ _ | with_reducible apply Engine.fail_keeps | with_reducible apply Engine.putStream_keeps)
    | (with_reducible refine Engine.Canonical.tags ?_; first | with_reducible assumption | with_reducible exact Keeps.eng ‹_› _ _ | with_reducible apply Engine.fail_keeps | with_reducible apply Engine.putStream_keeps)
    | (with_reducible refine Engine.Canonical.kept ?_; first | with_reducible assumption | with_reducible exact Keeps.eng ‹_› _ _ | with_reducible apply Engine.fail_keeps | with_reducible apply Engine.putStream_keeps)
    | exact Engine.zero_canonical
    | with_reducible refine Engine.Canonical.mk ?_ ?_ ?_ ?_ ?_ ?_ ?_ ?_
    | intro _
    | exact id

theorem checkSpad_keeps  (e : Engine) (t slot pc a n align : Nat) (he : e.Canonical) :
    Engine.Canonical (checkSpad e t slot pc a n align) := by
  unfold checkSpad
  try dsimp only
  repeat' first
    | with_reducible assumption
    | with_reducible apply Engine.reject_keeps
    | with_reducible exact Keeps.eng ‹_› _ _
    | split
    | dsimp only
    | intro _
    | exact id

theorem needKind_keeps  (e : Engine) (i slot pc t : Nat) (kinds : List Nat) (he : e.Canonical) :
    Engine.Canonical (needKind e i slot pc t kinds) := by
  unfold needKind
  try dsimp only
  repeat' first
    | with_reducible assumption
    | with_reducible apply Engine.reject_keeps
    | with_reducible exact Keeps.eng ‹_› _ _
    | split
    | dsimp only
    | intro _
    | exact id

theorem abandon_keeps  (e : Engine) (f : Failure) (more : Bool) (he : e.Canonical) :
    Engine.Canonical (abandon e f more) := by
  unfold abandon
  try dsimp only
  repeat' first
    | with_reducible assumption
    | with_reducible apply Engine.commitTo_keeps
    | with_reducible apply Engine.release_keeps
    | with_reducible apply foldKeys_keeps
    | with_reducible apply foldl_engine
    | with_reducible apply foldl_fst_engine
    | with_reducible apply mwf_foldl
    | with_reducible exact Keeps.eng ‹_› _ _
    | split
    | dsimp only
    | (with_reducible refine Engine.Canonical.spad ?_; first | with_reducible assumption | with_reducible exact Keeps.eng ‹_› _ _ | with_reducible apply foldl_engine | with_reducible apply Engine.commitTo_keeps | with_reducible apply Engine.release_keeps | with_reducible apply foldKeys_keeps)
    | (with_reducible refine Engine.Canonical.poison ?_; first | with_reducible assumption | with_reducible exact Keeps.eng ‹_› _ _ | with_reducible apply foldl_engine | with_reducible apply Engine.commitTo_keeps | with_reducible apply Engine.release_keeps | with_reducible apply foldKeys_keeps)
    | (with_reducible refine Engine.Canonical.acc ?_; first | with_reducible assumption | with_reducible exact Keeps.eng ‹_› _ _ | with_reducible apply foldl_engine | with_reducible apply Engine.commitTo_keeps | with_reducible apply Engine.release_keeps | with_reducible apply foldKeys_keeps)
    | (with_reducible refine Engine.Canonical.vreg ?_; first | with_reducible assumption | with_reducible exact Keeps.eng ‹_› _ _ | with_reducible apply foldl_engine | with_reducible apply Engine.commitTo_keeps | with_reducible apply Engine.release_keeps | with_reducible apply foldKeys_keeps)
    | (with_reducible refine Engine.Canonical.set0 ?_; first | with_reducible assumption | with_reducible exact Keeps.eng ‹_› _ _ | with_reducible apply foldl_engine | with_reducible apply Engine.commitTo_keeps | with_reducible apply Engine.release_keeps | with_reducible apply foldKeys_keeps)
    | (with_reducible refine Engine.Canonical.set1 ?_; first | with_reducible assumption | with_reducible exact Keeps.eng ‹_› _ _ | with_reducible apply foldl_engine | with_reducible apply Engine.commitTo_keeps | with_reducible apply Engine.release_keeps | with_reducible apply foldKeys_keeps)
    | (with_reducible refine Engine.Canonical.tags ?_; first | with_reducible assumption | with_reducible exact Keeps.eng ‹_› _ _ | with_reducible apply foldl_engine | with_reducible apply Engine.commitTo_keeps | with_reducible apply Engine.release_keeps | with_reducible apply foldKeys_keeps)
    | (with_reducible refine Engine.Canonical.kept ?_; first | with_reducible assumption | with_reducible exact Keeps.eng ‹_› _ _ | with_reducible apply foldl_engine | with_reducible apply Engine.commitTo_keeps | with_reducible apply Engine.release_keeps | with_reducible apply foldKeys_keeps)
    | exact Engine.zero_canonical
    | with_reducible refine Engine.Canonical.mk ?_ ?_ ?_ ?_ ?_ ?_ ?_ ?_
    | intro _
    | exact id

theorem settleBanks_keeps  (e : Engine) (t pc slot : Nat) (he : e.Canonical) :
    Engine.Canonical (settleBanks e t pc slot) := by
  unfold settleBanks
  try dsimp only
  repeat' first
    | with_reducible assumption
    | with_reducible apply foldl_engine
    | with_reducible apply foldl_fst_engine
    | with_reducible apply mwf_foldl
    | with_reducible exact Keeps.eng ‹_› _ _
    | split
    | dsimp only
    | (with_reducible refine Engine.Canonical.spad ?_; first | with_reducible assumption | with_reducible exact Keeps.eng ‹_› _ _ | with_reducible apply foldl_engine)
    | (with_reducible refine Engine.Canonical.poison ?_; first | with_reducible assumption | with_reducible exact Keeps.eng ‹_› _ _ | with_reducible apply foldl_engine)
    | (with_reducible refine Engine.Canonical.acc ?_; first | with_reducible assumption | with_reducible exact Keeps.eng ‹_› _ _ | with_reducible apply foldl_engine)
    | (with_reducible refine Engine.Canonical.vreg ?_; first | with_reducible assumption | with_reducible exact Keeps.eng ‹_› _ _ | with_reducible apply foldl_engine)
    | (with_reducible refine Engine.Canonical.set0 ?_; first | with_reducible assumption | with_reducible exact Keeps.eng ‹_› _ _ | with_reducible apply foldl_engine)
    | (with_reducible refine Engine.Canonical.set1 ?_; first | with_reducible assumption | with_reducible exact Keeps.eng ‹_› _ _ | with_reducible apply foldl_engine)
    | (with_reducible refine Engine.Canonical.tags ?_; first | with_reducible assumption | with_reducible exact Keeps.eng ‹_› _ _ | with_reducible apply foldl_engine)
    | (with_reducible refine Engine.Canonical.kept ?_; first | with_reducible assumption | with_reducible exact Keeps.eng ‹_› _ _ | with_reducible apply foldl_engine)
    | exact Engine.zero_canonical
    | with_reducible refine Engine.Canonical.mk ?_ ?_ ?_ ?_ ?_ ?_ ?_ ?_
    | intro _
    | exact id

theorem settleFails_keeps  (e : Engine) (t : Nat) (he : e.Canonical) :
    Engine.Canonical (settleFails e t) := by
  unfold settleFails
  try dsimp only
  repeat' first
    | with_reducible assumption
    | with_reducible apply abandon_keeps
    | with_reducible exact Keeps.eng ‹_› _ _
    | split
    | dsimp only
    | (with_reducible refine Engine.Canonical.spad ?_; first | with_reducible assumption | with_reducible exact Keeps.eng ‹_› _ _ | with_reducible apply abandon_keeps)
    | (with_reducible refine Engine.Canonical.poison ?_; first | with_reducible assumption | with_reducible exact Keeps.eng ‹_› _ _ | with_reducible apply abandon_keeps)
    | (with_reducible refine Engine.Canonical.acc ?_; first | with_reducible assumption | with_reducible exact Keeps.eng ‹_› _ _ | with_reducible apply abandon_keeps)
    | (with_reducible refine Engine.Canonical.vreg ?_; first | with_reducible assumption | with_reducible exact Keeps.eng ‹_› _ _ | with_reducible apply abandon_keeps)
    | (with_reducible refine Engine.Canonical.set0 ?_; first | with_reducible assumption | with_reducible exact Keeps.eng ‹_› _ _ | with_reducible apply abandon_keeps)
    | (with_reducible refine Engine.Canonical.set1 ?_; first | with_reducible assumption | with_reducible exact Keeps.eng ‹_› _ _ | with_reducible apply abandon_keeps)
    | (with_reducible refine Engine.Canonical.tags ?_; first | with_reducible assumption | with_reducible exact Keeps.eng ‹_› _ _ | with_reducible apply abandon_keeps)
    | (with_reducible refine Engine.Canonical.kept ?_; first | with_reducible assumption | with_reducible exact Keeps.eng ‹_› _ _ | with_reducible apply abandon_keeps)
    | exact Engine.zero_canonical
    | with_reducible refine Engine.Canonical.mk ?_ ?_ ?_ ?_ ?_ ?_ ?_ ?_
    | intro _
    | exact id

theorem Engine.applyAgen_keeps  (e : Engine) (he : e.Canonical) :
    Engine.Canonical (Engine.applyAgen e) := by
  unfold Engine.applyAgen
  try dsimp only
  repeat' first
    | with_reducible assumption
    | with_reducible apply Engine.withRun_keeps
    | with_reducible exact Keeps.eng ‹_› _ _
    | split
    | dsimp only
    | (with_reducible refine Engine.Canonical.spad ?_; first | with_reducible assumption | with_reducible exact Keeps.eng ‹_› _ _ | with_reducible apply Engine.withRun_keeps)
    | (with_reducible refine Engine.Canonical.poison ?_; first | with_reducible assumption | with_reducible exact Keeps.eng ‹_› _ _ | with_reducible apply Engine.withRun_keeps)
    | (with_reducible refine Engine.Canonical.acc ?_; first | with_reducible assumption | with_reducible exact Keeps.eng ‹_› _ _ | with_reducible apply Engine.withRun_keeps)
    | (with_reducible refine Engine.Canonical.vreg ?_; first | with_reducible assumption | with_reducible exact Keeps.eng ‹_› _ _ | with_reducible apply Engine.withRun_keeps)
    | (with_reducible refine Engine.Canonical.set0 ?_; first | with_reducible assumption | with_reducible exact Keeps.eng ‹_› _ _ | with_reducible apply Engine.withRun_keeps)
    | (with_reducible refine Engine.Canonical.set1 ?_; first | with_reducible assumption | with_reducible exact Keeps.eng ‹_› _ _ | with_reducible apply Engine.withRun_keeps)
    | (with_reducible refine Engine.Canonical.tags ?_; first | with_reducible assumption | with_reducible exact Keeps.eng ‹_› _ _ | with_reducible apply Engine.withRun_keeps)
    | (with_reducible refine Engine.Canonical.kept ?_; first | with_reducible assumption | with_reducible exact Keeps.eng ‹_› _ _ | with_reducible apply Engine.withRun_keeps)
    | exact Engine.zero_canonical
    | with_reducible refine Engine.Canonical.mk ?_ ?_ ?_ ?_ ?_ ?_ ?_ ?_
    | intro _
    | exact id

theorem abandonNow_keeps  (e : Engine) (cyc status slot pc : Nat) (he : e.Canonical) :
    Engine.Canonical (abandonNow e cyc status slot pc) := by
  unfold abandonNow
  try dsimp only
  repeat' first
    | with_reducible assumption
    | with_reducible apply Engine.reject_keeps
    | with_reducible apply settleFails_keeps
    | with_reducible exact Keeps.eng ‹_› _ _
    | split
    | dsimp only
    | intro _
    | exact id

theorem goWord_keeps  (fuel : Nat) (e : Engine) (pc cyc : Nat) (he : e.Canonical) :
    Engine.Canonical (goWord fuel e pc cyc) := by
  induction fuel generalizing e pc cyc with
  | zero =>
    unfold goWord
    repeat' first
      | with_reducible assumption
      | contradiction
      | with_reducible apply Engine.applyAgen_keeps
      | with_reducible apply Engine.commitTo_keeps
      | with_reducible apply Engine.withRun_keeps
      | with_reducible apply abandonNow_keeps
      | with_reducible apply settleBanks_keeps
      | with_reducible apply settleFails_keeps
      | with_reducible exact Keeps.eng ‹_› _ _
      | split
      | dsimp only
      | (with_reducible refine Engine.Canonical.spad ?_; first | with_reducible assumption | with_reducible exact Keeps.eng ‹_› _ _ | with_reducible apply Engine.commitTo_keeps | with_reducible apply Engine.applyAgen_keeps | with_reducible apply settleBanks_keeps | with_reducible apply Engine.withRun_keeps | with_reducible apply abandonNow_keeps | with_reducible apply settleFails_keeps)
      | (with_reducible refine Engine.Canonical.poison ?_; first | with_reducible assumption | with_reducible exact Keeps.eng ‹_› _ _ | with_reducible apply Engine.commitTo_keeps | with_reducible apply Engine.applyAgen_keeps | with_reducible apply settleBanks_keeps | with_reducible apply Engine.withRun_keeps | with_reducible apply abandonNow_keeps | with_reducible apply settleFails_keeps)
      | (with_reducible refine Engine.Canonical.acc ?_; first | with_reducible assumption | with_reducible exact Keeps.eng ‹_› _ _ | with_reducible apply Engine.commitTo_keeps | with_reducible apply Engine.applyAgen_keeps | with_reducible apply settleBanks_keeps | with_reducible apply Engine.withRun_keeps | with_reducible apply abandonNow_keeps | with_reducible apply settleFails_keeps)
      | (with_reducible refine Engine.Canonical.vreg ?_; first | with_reducible assumption | with_reducible exact Keeps.eng ‹_› _ _ | with_reducible apply Engine.commitTo_keeps | with_reducible apply Engine.applyAgen_keeps | with_reducible apply settleBanks_keeps | with_reducible apply Engine.withRun_keeps | with_reducible apply abandonNow_keeps | with_reducible apply settleFails_keeps)
      | (with_reducible refine Engine.Canonical.set0 ?_; first | with_reducible assumption | with_reducible exact Keeps.eng ‹_› _ _ | with_reducible apply Engine.commitTo_keeps | with_reducible apply Engine.applyAgen_keeps | with_reducible apply settleBanks_keeps | with_reducible apply Engine.withRun_keeps | with_reducible apply abandonNow_keeps | with_reducible apply settleFails_keeps)
      | (with_reducible refine Engine.Canonical.set1 ?_; first | with_reducible assumption | with_reducible exact Keeps.eng ‹_› _ _ | with_reducible apply Engine.commitTo_keeps | with_reducible apply Engine.applyAgen_keeps | with_reducible apply settleBanks_keeps | with_reducible apply Engine.withRun_keeps | with_reducible apply abandonNow_keeps | with_reducible apply settleFails_keeps)
      | (with_reducible refine Engine.Canonical.tags ?_; first | with_reducible assumption | with_reducible exact Keeps.eng ‹_› _ _ | with_reducible apply Engine.commitTo_keeps | with_reducible apply Engine.applyAgen_keeps | with_reducible apply settleBanks_keeps | with_reducible apply Engine.withRun_keeps | with_reducible apply abandonNow_keeps | with_reducible apply settleFails_keeps)
      | (with_reducible refine Engine.Canonical.kept ?_; first | with_reducible assumption | with_reducible exact Keeps.eng ‹_› _ _ | with_reducible apply Engine.commitTo_keeps | with_reducible apply Engine.applyAgen_keeps | with_reducible apply settleBanks_keeps | with_reducible apply Engine.withRun_keeps | with_reducible apply abandonNow_keeps | with_reducible apply settleFails_keeps)
      | exact Engine.zero_canonical
      | with_reducible refine Engine.Canonical.mk ?_ ?_ ?_ ?_ ?_ ?_ ?_ ?_
      | intro _
      | exact id
  | succ k ih =>
    unfold goWord
    try dsimp only
    repeat' first
      | with_reducible assumption
      | apply ih
      | contradiction
      | with_reducible apply Engine.applyAgen_keeps
      | with_reducible apply Engine.commitTo_keeps
      | with_reducible apply Engine.withRun_keeps
      | with_reducible apply abandonNow_keeps
      | with_reducible apply settleBanks_keeps
      | with_reducible apply settleFails_keeps
      | with_reducible exact Keeps.eng ‹_› _ _
      | split
      | dsimp only
      | (with_reducible refine Engine.Canonical.spad ?_; first | with_reducible assumption | with_reducible exact Keeps.eng ‹_› _ _ | with_reducible apply Engine.commitTo_keeps | with_reducible apply Engine.applyAgen_keeps | with_reducible apply settleBanks_keeps | with_reducible apply Engine.withRun_keeps | with_reducible apply abandonNow_keeps | with_reducible apply settleFails_keeps)
      | (with_reducible refine Engine.Canonical.poison ?_; first | with_reducible assumption | with_reducible exact Keeps.eng ‹_› _ _ | with_reducible apply Engine.commitTo_keeps | with_reducible apply Engine.applyAgen_keeps | with_reducible apply settleBanks_keeps | with_reducible apply Engine.withRun_keeps | with_reducible apply abandonNow_keeps | with_reducible apply settleFails_keeps)
      | (with_reducible refine Engine.Canonical.acc ?_; first | with_reducible assumption | with_reducible exact Keeps.eng ‹_› _ _ | with_reducible apply Engine.commitTo_keeps | with_reducible apply Engine.applyAgen_keeps | with_reducible apply settleBanks_keeps | with_reducible apply Engine.withRun_keeps | with_reducible apply abandonNow_keeps | with_reducible apply settleFails_keeps)
      | (with_reducible refine Engine.Canonical.vreg ?_; first | with_reducible assumption | with_reducible exact Keeps.eng ‹_› _ _ | with_reducible apply Engine.commitTo_keeps | with_reducible apply Engine.applyAgen_keeps | with_reducible apply settleBanks_keeps | with_reducible apply Engine.withRun_keeps | with_reducible apply abandonNow_keeps | with_reducible apply settleFails_keeps)
      | (with_reducible refine Engine.Canonical.set0 ?_; first | with_reducible assumption | with_reducible exact Keeps.eng ‹_› _ _ | with_reducible apply Engine.commitTo_keeps | with_reducible apply Engine.applyAgen_keeps | with_reducible apply settleBanks_keeps | with_reducible apply Engine.withRun_keeps | with_reducible apply abandonNow_keeps | with_reducible apply settleFails_keeps)
      | (with_reducible refine Engine.Canonical.set1 ?_; first | with_reducible assumption | with_reducible exact Keeps.eng ‹_› _ _ | with_reducible apply Engine.commitTo_keeps | with_reducible apply Engine.applyAgen_keeps | with_reducible apply settleBanks_keeps | with_reducible apply Engine.withRun_keeps | with_reducible apply abandonNow_keeps | with_reducible apply settleFails_keeps)
      | (with_reducible refine Engine.Canonical.tags ?_; first | with_reducible assumption | with_reducible exact Keeps.eng ‹_› _ _ | with_reducible apply Engine.commitTo_keeps | with_reducible apply Engine.applyAgen_keeps | with_reducible apply settleBanks_keeps | with_reducible apply Engine.withRun_keeps | with_reducible apply abandonNow_keeps | with_reducible apply settleFails_keeps)
      | (with_reducible refine Engine.Canonical.kept ?_; first | with_reducible assumption | with_reducible exact Keeps.eng ‹_› _ _ | with_reducible apply Engine.commitTo_keeps | with_reducible apply Engine.applyAgen_keeps | with_reducible apply settleBanks_keeps | with_reducible apply Engine.withRun_keeps | with_reducible apply abandonNow_keeps | with_reducible apply settleFails_keeps)
      | exact Engine.zero_canonical
      | with_reducible refine Engine.Canonical.mk ?_ ?_ ?_ ?_ ?_ ?_ ?_ ?_
      | intro _
      | exact id

theorem advance_keeps  (e : Engine) (he : e.Canonical) :
    Engine.Canonical (advance e) := by
  unfold advance
  try dsimp only
  repeat' first
    | with_reducible assumption
    | with_reducible apply Engine.withRun_keeps
    | with_reducible apply goWord_keeps
    | with_reducible exact Keeps.eng ‹_› _ _
    | split
    | dsimp only
    | (with_reducible refine Engine.Canonical.spad ?_; first | with_reducible assumption | with_reducible exact Keeps.eng ‹_› _ _ | with_reducible apply goWord_keeps | with_reducible apply Engine.withRun_keeps)
    | (with_reducible refine Engine.Canonical.poison ?_; first | with_reducible assumption | with_reducible exact Keeps.eng ‹_› _ _ | with_reducible apply goWord_keeps | with_reducible apply Engine.withRun_keeps)
    | (with_reducible refine Engine.Canonical.acc ?_; first | with_reducible assumption | with_reducible exact Keeps.eng ‹_› _ _ | with_reducible apply goWord_keeps | with_reducible apply Engine.withRun_keeps)
    | (with_reducible refine Engine.Canonical.vreg ?_; first | with_reducible assumption | with_reducible exact Keeps.eng ‹_› _ _ | with_reducible apply goWord_keeps | with_reducible apply Engine.withRun_keeps)
    | (with_reducible refine Engine.Canonical.set0 ?_; first | with_reducible assumption | with_reducible exact Keeps.eng ‹_› _ _ | with_reducible apply goWord_keeps | with_reducible apply Engine.withRun_keeps)
    | (with_reducible refine Engine.Canonical.set1 ?_; first | with_reducible assumption | with_reducible exact Keeps.eng ‹_› _ _ | with_reducible apply goWord_keeps | with_reducible apply Engine.withRun_keeps)
    | (with_reducible refine Engine.Canonical.tags ?_; first | with_reducible assumption | with_reducible exact Keeps.eng ‹_› _ _ | with_reducible apply goWord_keeps | with_reducible apply Engine.withRun_keeps)
    | (with_reducible refine Engine.Canonical.kept ?_; first | with_reducible assumption | with_reducible exact Keeps.eng ‹_› _ _ | with_reducible apply goWord_keeps | with_reducible apply Engine.withRun_keeps)
    | exact Engine.zero_canonical
    | with_reducible refine Engine.Canonical.mk ?_ ?_ ?_ ?_ ?_ ?_ ?_ ?_
    | intro _
    | exact id

theorem issueOp_keeps  (fuel : Nat) (op : Engine → Cur → Engine) (e : Engine) (c : Cur) (hop : ∀ a_ b_, a_.Canonical → (op a_ b_).Canonical) (he : e.Canonical) :
    Engine.Canonical (issueOp fuel op e c) := by
  induction fuel generalizing e c with
  | zero =>
    unfold issueOp
    repeat' first
      | with_reducible assumption
      | contradiction
      | apply hop
      | with_reducible apply Engine.withRun_keeps
      | with_reducible apply foldl_engine
      | with_reducible apply foldl_fst_engine
      | with_reducible apply mwf_foldl
      | with_reducible exact Keeps.eng ‹_› _ _
      | split
      | dsimp only
      | (with_reducible refine Engine.Canonical.spad ?_; first | with_reducible assumption | with_reducible exact Keeps.eng ‹_› _ _ | with_reducible apply foldl_engine | with_reducible apply Engine.withRun_keeps | with_reducible apply hop)
      | (with_reducible refine Engine.Canonical.poison ?_; first | with_reducible assumption | with_reducible exact Keeps.eng ‹_› _ _ | with_reducible apply foldl_engine | with_reducible apply Engine.withRun_keeps | with_reducible apply hop)
      | (with_reducible refine Engine.Canonical.acc ?_; first | with_reducible assumption | with_reducible exact Keeps.eng ‹_› _ _ | with_reducible apply foldl_engine | with_reducible apply Engine.withRun_keeps | with_reducible apply hop)
      | (with_reducible refine Engine.Canonical.vreg ?_; first | with_reducible assumption | with_reducible exact Keeps.eng ‹_› _ _ | with_reducible apply foldl_engine | with_reducible apply Engine.withRun_keeps | with_reducible apply hop)
      | (with_reducible refine Engine.Canonical.set0 ?_; first | with_reducible assumption | with_reducible exact Keeps.eng ‹_› _ _ | with_reducible apply foldl_engine | with_reducible apply Engine.withRun_keeps | with_reducible apply hop)
      | (with_reducible refine Engine.Canonical.set1 ?_; first | with_reducible assumption | with_reducible exact Keeps.eng ‹_› _ _ | with_reducible apply foldl_engine | with_reducible apply Engine.withRun_keeps | with_reducible apply hop)
      | (with_reducible refine Engine.Canonical.tags ?_; first | with_reducible assumption | with_reducible exact Keeps.eng ‹_› _ _ | with_reducible apply foldl_engine | with_reducible apply Engine.withRun_keeps | with_reducible apply hop)
      | (with_reducible refine Engine.Canonical.kept ?_; first | with_reducible assumption | with_reducible exact Keeps.eng ‹_› _ _ | with_reducible apply foldl_engine | with_reducible apply Engine.withRun_keeps | with_reducible apply hop)
      | exact Engine.zero_canonical
      | with_reducible refine Engine.Canonical.mk ?_ ?_ ?_ ?_ ?_ ?_ ?_ ?_
      | intro _
      | exact id
  | succ k ih =>
    unfold issueOp
    try dsimp only
    repeat' first
      | with_reducible assumption
      | apply ih
      | contradiction
      | apply hop
      | with_reducible apply Engine.withRun_keeps
      | with_reducible apply foldl_engine
      | with_reducible apply foldl_fst_engine
      | with_reducible apply mwf_foldl
      | with_reducible exact Keeps.eng ‹_› _ _
      | split
      | dsimp only
      | (with_reducible refine Engine.Canonical.spad ?_; first | with_reducible assumption | with_reducible exact Keeps.eng ‹_› _ _ | with_reducible apply foldl_engine | with_reducible apply Engine.withRun_keeps | with_reducible apply hop)
      | (with_reducible refine Engine.Canonical.poison ?_; first | with_reducible assumption | with_reducible exact Keeps.eng ‹_› _ _ | with_reducible apply foldl_engine | with_reducible apply Engine.withRun_keeps | with_reducible apply hop)
      | (with_reducible refine Engine.Canonical.acc ?_; first | with_reducible assumption | with_reducible exact Keeps.eng ‹_› _ _ | with_reducible apply foldl_engine | with_reducible apply Engine.withRun_keeps | with_reducible apply hop)
      | (with_reducible refine Engine.Canonical.vreg ?_; first | with_reducible assumption | with_reducible exact Keeps.eng ‹_› _ _ | with_reducible apply foldl_engine | with_reducible apply Engine.withRun_keeps | with_reducible apply hop)
      | (with_reducible refine Engine.Canonical.set0 ?_; first | with_reducible assumption | with_reducible exact Keeps.eng ‹_› _ _ | with_reducible apply foldl_engine | with_reducible apply Engine.withRun_keeps | with_reducible apply hop)
      | (with_reducible refine Engine.Canonical.set1 ?_; first | with_reducible assumption | with_reducible exact Keeps.eng ‹_› _ _ | with_reducible apply foldl_engine | with_reducible apply Engine.withRun_keeps | with_reducible apply hop)
      | (with_reducible refine Engine.Canonical.tags ?_; first | with_reducible assumption | with_reducible exact Keeps.eng ‹_› _ _ | with_reducible apply foldl_engine | with_reducible apply Engine.withRun_keeps | with_reducible apply hop)
      | (with_reducible refine Engine.Canonical.kept ?_; first | with_reducible assumption | with_reducible exact Keeps.eng ‹_› _ _ | with_reducible apply foldl_engine | with_reducible apply Engine.withRun_keeps | with_reducible apply hop)
      | exact Engine.zero_canonical
      | with_reducible refine Engine.Canonical.mk ?_ ?_ ?_ ?_ ?_ ?_ ?_ ?_
      | intro _
      | exact id

theorem meetEcc_keeps  (x : Ecc) (e : Engine) (c : Cur) (he : e.Canonical) :
    Engine.Canonical (meetEcc x e c) := by
  unfold meetEcc
  try dsimp only
  repeat' first
    | with_reducible assumption
    | with_reducible apply Engine.reject_keeps
    | with_reducible exact Keeps.eng ‹_› _ _
    | split
    | dsimp only
    | (with_reducible refine Engine.Canonical.spad ?_; first | with_reducible assumption | with_reducible exact Keeps.eng ‹_› _ _ | with_reducible apply Engine.reject_keeps)
    | (with_reducible refine Engine.Canonical.poison ?_; first | with_reducible assumption | with_reducible exact Keeps.eng ‹_› _ _ | with_reducible apply Engine.reject_keeps)
    | (with_reducible refine Engine.Canonical.acc ?_; first | with_reducible assumption | with_reducible exact Keeps.eng ‹_› _ _ | with_reducible apply Engine.reject_keeps)
    | (with_reducible refine Engine.Canonical.vreg ?_; first | with_reducible assumption | with_reducible exact Keeps.eng ‹_› _ _ | with_reducible apply Engine.reject_keeps)
    | (with_reducible refine Engine.Canonical.set0 ?_; first | with_reducible assumption | with_reducible exact Keeps.eng ‹_› _ _ | with_reducible apply Engine.reject_keeps)
    | (with_reducible refine Engine.Canonical.set1 ?_; first | with_reducible assumption | with_reducible exact Keeps.eng ‹_› _ _ | with_reducible apply Engine.reject_keeps)
    | (with_reducible refine Engine.Canonical.tags ?_; first | with_reducible assumption | with_reducible exact Keeps.eng ‹_› _ _ | with_reducible apply Engine.reject_keeps)
    | (with_reducible refine Engine.Canonical.kept ?_; first | with_reducible assumption | with_reducible exact Keeps.eng ‹_› _ _ | with_reducible apply Engine.reject_keeps)
    | exact Engine.zero_canonical
    | with_reducible refine Engine.Canonical.mk ?_ ?_ ?_ ?_ ?_ ?_ ?_ ?_
    | intro _
    | exact id

theorem slotStep_keeps  (slot op held : Nat) (x : Ecc) (f : Engine → Cur → Engine) (e : Engine) (hf : ∀ a_ b_, a_.Canonical → (f a_ b_).Canonical) (he : e.Canonical) :
    Engine.Canonical (slotStep slot op held x f e) := by
  unfold slotStep
  try dsimp only
  repeat' first
    | with_reducible assumption
    | apply hf
    | with_reducible apply Engine.withRun_keeps
    | with_reducible apply State.advance_keeps
    | with_reducible apply advance_keeps
    | with_reducible apply issueOp_keeps
    | with_reducible apply meetEcc_keeps
    | with_reducible exact Keeps.eng ‹_› _ _
    | split
    | dsimp only
    | (with_reducible refine Engine.Canonical.spad ?_; first | with_reducible assumption | with_reducible exact Keeps.eng ‹_› _ _ | with_reducible apply issueOp_keeps | with_reducible apply advance_keeps | with_reducible apply Engine.withRun_keeps | with_reducible apply meetEcc_keeps | with_reducible apply hf)
    | (with_reducible refine Engine.Canonical.poison ?_; first | with_reducible assumption | with_reducible exact Keeps.eng ‹_› _ _ | with_reducible apply issueOp_keeps | with_reducible apply advance_keeps | with_reducible apply Engine.withRun_keeps | with_reducible apply meetEcc_keeps | with_reducible apply hf)
    | (with_reducible refine Engine.Canonical.acc ?_; first | with_reducible assumption | with_reducible exact Keeps.eng ‹_› _ _ | with_reducible apply issueOp_keeps | with_reducible apply advance_keeps | with_reducible apply Engine.withRun_keeps | with_reducible apply meetEcc_keeps | with_reducible apply hf)
    | (with_reducible refine Engine.Canonical.vreg ?_; first | with_reducible assumption | with_reducible exact Keeps.eng ‹_› _ _ | with_reducible apply issueOp_keeps | with_reducible apply advance_keeps | with_reducible apply Engine.withRun_keeps | with_reducible apply meetEcc_keeps | with_reducible apply hf)
    | (with_reducible refine Engine.Canonical.set0 ?_; first | with_reducible assumption | with_reducible exact Keeps.eng ‹_› _ _ | with_reducible apply issueOp_keeps | with_reducible apply advance_keeps | with_reducible apply Engine.withRun_keeps | with_reducible apply meetEcc_keeps | with_reducible apply hf)
    | (with_reducible refine Engine.Canonical.set1 ?_; first | with_reducible assumption | with_reducible exact Keeps.eng ‹_› _ _ | with_reducible apply issueOp_keeps | with_reducible apply advance_keeps | with_reducible apply Engine.withRun_keeps | with_reducible apply meetEcc_keeps | with_reducible apply hf)
    | (with_reducible refine Engine.Canonical.tags ?_; first | with_reducible assumption | with_reducible exact Keeps.eng ‹_› _ _ | with_reducible apply issueOp_keeps | with_reducible apply advance_keeps | with_reducible apply Engine.withRun_keeps | with_reducible apply meetEcc_keeps | with_reducible apply hf)
    | (with_reducible refine Engine.Canonical.kept ?_; first | with_reducible assumption | with_reducible exact Keeps.eng ‹_› _ _ | with_reducible apply issueOp_keeps | with_reducible apply advance_keeps | with_reducible apply Engine.withRun_keeps | with_reducible apply meetEcc_keeps | with_reducible apply hf)
    | exact Engine.zero_canonical
    | with_reducible refine Engine.Canonical.mk ?_ ?_ ?_ ?_ ?_ ?_ ?_ ?_
    | intro _
    | exact id

end Sys2Proof.Machine
end

