-- ==== Sys2Proof/Laws/KeepsEngArray.lean ====
section
/-! SUPPORT. What each operation of Machine/EngArray.lean keeps (Laws/Keeps.lean). -/

namespace Sys2Proof.Machine

theorem settledSet_keeps  (e : Engine) (k : Nat) (he : e.Canonical) :
    StatSet.Canonical (settledSet e k) := by
  unfold settledSet
  try dsimp only
  repeat' first
    | with_reducible assumption
    | with_reducible apply Engine.setOf_keeps
    | with_reducible apply applyLand_keeps
    | with_reducible apply foldl_engine
    | with_reducible apply foldl_fst_engine
    | with_reducible apply mwf_foldl
    | with_reducible exact Keeps.eng ‹_› _ _
    | split
    | dsimp only
    | (with_reducible refine Engine.Canonical.spad ?_; first | with_reducible assumption | with_reducible exact Keeps.eng ‹_› _ _ | with_reducible apply foldl_engine | with_reducible apply applyLand_keeps)
    | (with_reducible refine Engine.Canonical.poison ?_; first | with_reducible assumption | with_reducible exact Keeps.eng ‹_› _ _ | with_reducible apply foldl_engine | with_reducible apply applyLand_keeps)
    | (with_reducible refine Engine.Canonical.acc ?_; first | with_reducible assumption | with_reducible exact Keeps.eng ‹_› _ _ | with_reducible apply foldl_engine | with_reducible apply applyLand_keeps)
    | (with_reducible refine Engine.Canonical.vreg ?_; first | with_reducible assumption | with_reducible exact Keeps.eng ‹_› _ _ | with_reducible apply foldl_engine | with_reducible apply applyLand_keeps)
    | (with_reducible refine Engine.Canonical.set0 ?_; first | with_reducible assumption | with_reducible exact Keeps.eng ‹_› _ _ | with_reducible apply foldl_engine | with_reducible apply applyLand_keeps)
    | (with_reducible refine Engine.Canonical.set1 ?_; first | with_reducible assumption | with_reducible exact Keeps.eng ‹_› _ _ | with_reducible apply foldl_engine | with_reducible apply applyLand_keeps)
    | (with_reducible refine Engine.Canonical.tags ?_; first | with_reducible assumption | with_reducible exact Keeps.eng ‹_› _ _ | with_reducible apply foldl_engine | with_reducible apply applyLand_keeps)
    | (with_reducible refine Engine.Canonical.kept ?_; first | with_reducible assumption | with_reducible exact Keeps.eng ‹_› _ _ | with_reducible apply foldl_engine | with_reducible apply applyLand_keeps)
    | (with_reducible refine StatSet.Canonical.rows ?_; first | with_reducible assumption | exact Engine.setOf_keeps _ _ ‹_›)
    | (with_reducible refine StatSet.Canonical.scales ?_; first | with_reducible assumption | exact Engine.setOf_keeps _ _ ‹_›)
    | exact Engine.zero_canonical
    | with_reducible refine Engine.Canonical.mk ?_ ?_ ?_ ?_ ?_ ?_ ?_ ?_
    | with_reducible refine StatSet.Canonical.mk ?_ ?_
    | exact mwf_nil
    | intro _
    | exact id

theorem loadStep_keeps  (own : Owners) (as_ pc tIssue n k : Nat) (scale : Bool) (e : Engine) (i : Nat) (he : e.Canonical) :
    Engine.Canonical (loadStep own as_ pc tIssue n k scale e i) := by
  unfold loadStep
  try dsimp only
  repeat' first
    | with_reducible assumption
    | with_reducible apply Engine.addLanding_keeps
    | with_reducible apply Engine.view_keeps
    | with_reducible apply State.land_keeps
    | with_reducible apply checkSpad_keeps
    | with_reducible apply streamStep_keeps
    | with_reducible apply timedRead_keeps
    | with_reducible exact Keeps.eng ‹_› _ _
    | split
    | dsimp only
    | (with_reducible refine Engine.Canonical.spad ?_; first | with_reducible assumption | with_reducible exact Keeps.eng ‹_› _ _ | with_reducible apply streamStep_keeps | with_reducible apply checkSpad_keeps | with_reducible apply Engine.addLanding_keeps | with_reducible apply Engine.view_keeps | with_reducible apply timedRead_keeps)
    | (with_reducible refine Engine.Canonical.poison ?_; first | with_reducible assumption | with_reducible exact Keeps.eng ‹_› _ _ | with_reducible apply streamStep_keeps | with_reducible apply checkSpad_keeps | with_reducible apply Engine.addLanding_keeps | with_reducible apply Engine.view_keeps | with_reducible apply timedRead_keeps)
    | (with_reducible refine Engine.Canonical.acc ?_; first | with_reducible assumption | with_reducible exact Keeps.eng ‹_› _ _ | with_reducible apply streamStep_keeps | with_reducible apply checkSpad_keeps | with_reducible apply Engine.addLanding_keeps | with_reducible apply Engine.view_keeps | with_reducible apply timedRead_keeps)
    | (with_reducible refine Engine.Canonical.vreg ?_; first | with_reducible assumption | with_reducible exact Keeps.eng ‹_› _ _ | with_reducible apply streamStep_keeps | with_reducible apply checkSpad_keeps | with_reducible apply Engine.addLanding_keeps | with_reducible apply Engine.view_keeps | with_reducible apply timedRead_keeps)
    | (with_reducible refine Engine.Canonical.set0 ?_; first | with_reducible assumption | with_reducible exact Keeps.eng ‹_› _ _ | with_reducible apply streamStep_keeps | with_reducible apply checkSpad_keeps | with_reducible apply Engine.addLanding_keeps | with_reducible apply Engine.view_keeps | with_reducible apply timedRead_keeps)
    | (with_reducible refine Engine.Canonical.set1 ?_; first | with_reducible assumption | with_reducible exact Keeps.eng ‹_› _ _ | with_reducible apply streamStep_keeps | with_reducible apply checkSpad_keeps | with_reducible apply Engine.addLanding_keeps | with_reducible apply Engine.view_keeps | with_reducible apply timedRead_keeps)
    | (with_reducible refine Engine.Canonical.tags ?_; first | with_reducible assumption | with_reducible exact Keeps.eng ‹_› _ _ | with_reducible apply streamStep_keeps | with_reducible apply checkSpad_keeps | with_reducible apply Engine.addLanding_keeps | with_reducible apply Engine.view_keeps | with_reducible apply timedRead_keeps)
    | (with_reducible refine Engine.Canonical.kept ?_; first | with_reducible assumption | with_reducible exact Keeps.eng ‹_› _ _ | with_reducible apply streamStep_keeps | with_reducible apply checkSpad_keeps | with_reducible apply Engine.addLanding_keeps | with_reducible apply Engine.view_keeps | with_reducible apply timedRead_keeps)
    | exact Engine.zero_canonical
    | with_reducible refine Engine.Canonical.mk ?_ ?_ ?_ ?_ ?_ ?_ ?_ ?_
    | intro _
    | exact id

theorem opSload_keeps  (own : Owners) (e : Engine) (c : Cur) (he : e.Canonical) :
    Engine.Canonical (opSload own e c) := by
  unfold opSload
  try dsimp only
  repeat' first
    | with_reducible assumption
    | with_reducible apply Engine.fail_keeps
    | with_reducible apply Engine.putSet_keeps
    | with_reducible apply Engine.setTag_keeps
    | with_reducible apply Engine.withRun_keeps
    | with_reducible apply claimStream_keeps
    | with_reducible apply loadStep_keeps
    | with_reducible apply needKind_keeps
    | with_reducible apply foldl_engine
    | with_reducible apply foldl_fst_engine
    | with_reducible apply mwf_foldl
    | with_reducible exact Keeps.eng ‹_› _ _
    | split
    | dsimp only
    | (with_reducible refine Engine.Canonical.spad ?_; first | with_reducible assumption | with_reducible exact Keeps.eng ‹_› _ _ | with_reducible apply foldl_engine | with_reducible apply Engine.fail_keeps | with_reducible apply claimStream_keeps | with_reducible apply Engine.setTag_keeps | with_reducible apply loadStep_keeps | with_reducible apply Engine.withRun_keeps | with_reducible apply needKind_keeps | with_reducible apply Engine.putSet_keeps)
    | (with_reducible refine Engine.Canonical.poison ?_; first | with_reducible assumption | with_reducible exact Keeps.eng ‹_› _ _ | with_reducible apply foldl_engine | with_reducible apply Engine.fail_keeps | with_reducible apply claimStream_keeps | with_reducible apply Engine.setTag_keeps | with_reducible apply loadStep_keeps | with_reducible apply Engine.withRun_keeps | with_reducible apply needKind_keeps | with_reducible apply Engine.putSet_keeps)
    | (with_reducible refine Engine.Canonical.acc ?_; first | with_reducible assumption | with_reducible exact Keeps.eng ‹_› _ _ | with_reducible apply foldl_engine | with_reducible apply Engine.fail_keeps | with_reducible apply claimStream_keeps | with_reducible apply Engine.setTag_keeps | with_reducible apply loadStep_keeps | with_reducible apply Engine.withRun_keeps | with_reducible apply needKind_keeps | with_reducible apply Engine.putSet_keeps)
    | (with_reducible refine Engine.Canonical.vreg ?_; first | with_reducible assumption | with_reducible exact Keeps.eng ‹_› _ _ | with_reducible apply foldl_engine | with_reducible apply Engine.fail_keeps | with_reducible apply claimStream_keeps | with_reducible apply Engine.setTag_keeps | with_reducible apply loadStep_keeps | with_reducible apply Engine.withRun_keeps | with_reducible apply needKind_keeps | with_reducible apply Engine.putSet_keeps)
    | (with_reducible refine Engine.Canonical.set0 ?_; first | with_reducible assumption | with_reducible exact Keeps.eng ‹_› _ _ | with_reducible apply foldl_engine | with_reducible apply Engine.fail_keeps | with_reducible apply claimStream_keeps | with_reducible apply Engine.setTag_keeps | with_reducible apply loadStep_keeps | with_reducible apply Engine.withRun_keeps | with_reducible apply needKind_keeps | with_reducible apply Engine.putSet_keeps)
    | (with_reducible refine Engine.Canonical.set1 ?_; first | with_reducible assumption | with_reducible exact Keeps.eng ‹_› _ _ | with_reducible apply foldl_engine | with_reducible apply Engine.fail_keeps | with_reducible apply claimStream_keeps | with_reducible apply Engine.setTag_keeps | with_reducible apply loadStep_keeps | with_reducible apply Engine.withRun_keeps | with_reducible apply needKind_keeps | with_reducible apply Engine.putSet_keeps)
    | (with_reducible refine Engine.Canonical.tags ?_; first | with_reducible assumption | with_reducible exact Keeps.eng ‹_› _ _ | with_reducible apply foldl_engine | with_reducible apply Engine.fail_keeps | with_reducible apply claimStream_keeps | with_reducible apply Engine.setTag_keeps | with_reducible apply loadStep_keeps | with_reducible apply Engine.withRun_keeps | with_reducible apply needKind_keeps | with_reducible apply Engine.putSet_keeps)
    | (with_reducible refine Engine.Canonical.kept ?_; first | with_reducible assumption | with_reducible exact Keeps.eng ‹_› _ _ | with_reducible apply foldl_engine | with_reducible apply Engine.fail_keeps | with_reducible apply claimStream_keeps | with_reducible apply Engine.setTag_keeps | with_reducible apply loadStep_keeps | with_reducible apply Engine.withRun_keeps | with_reducible apply needKind_keeps | with_reducible apply Engine.putSet_keeps)
    | exact Engine.zero_canonical
    | with_reducible refine Engine.Canonical.mk ?_ ?_ ?_ ?_ ?_ ?_ ?_ ?_
    | with_reducible refine StatSet.Canonical.mk ?_ ?_
    | exact mwf_nil
    | intro _
    | exact id

theorem swapSets_keeps  (e : Engine) (c : Cur) (he : e.Canonical) :
    Engine.Canonical (swapSets e c) := by
  unfold swapSets
  try dsimp only
  repeat' first
    | with_reducible assumption
    | with_reducible apply Engine.fail_keeps
    | with_reducible apply Engine.reject_keeps
    | with_reducible apply settledSet_keeps
    | with_reducible exact Keeps.eng ‹_› _ _
    | split
    | dsimp only
    | (with_reducible refine Engine.Canonical.spad ?_; first | with_reducible assumption | with_reducible exact Keeps.eng ‹_› _ _ | with_reducible apply Engine.fail_keeps | with_reducible apply Engine.reject_keeps)
    | (with_reducible refine Engine.Canonical.poison ?_; first | with_reducible assumption | with_reducible exact Keeps.eng ‹_› _ _ | with_reducible apply Engine.fail_keeps | with_reducible apply Engine.reject_keeps)
    | (with_reducible refine Engine.Canonical.acc ?_; first | with_reducible assumption | with_reducible exact Keeps.eng ‹_› _ _ | with_reducible apply Engine.fail_keeps | with_reducible apply Engine.reject_keeps)
    | (with_reducible refine Engine.Canonical.vreg ?_; first | with_reducible assumption | with_reducible exact Keeps.eng ‹_› _ _ | with_reducible apply Engine.fail_keeps | with_reducible apply Engine.reject_keeps)
    | (with_reducible refine Engine.Canonical.set0 ?_; first | with_reducible assumption | with_reducible exact Keeps.eng ‹_› _ _ | with_reducible apply Engine.fail_keeps | with_reducible apply Engine.reject_keeps)
    | (with_reducible refine Engine.Canonical.set1 ?_; first | with_reducible assumption | with_reducible exact Keeps.eng ‹_› _ _ | with_reducible apply Engine.fail_keeps | with_reducible apply Engine.reject_keeps)
    | (with_reducible refine Engine.Canonical.tags ?_; first | with_reducible assumption | with_reducible exact Keeps.eng ‹_› _ _ | with_reducible apply Engine.fail_keeps | with_reducible apply Engine.reject_keeps)
    | (with_reducible refine Engine.Canonical.kept ?_; first | with_reducible assumption | with_reducible exact Keeps.eng ‹_› _ _ | with_reducible apply Engine.fail_keeps | with_reducible apply Engine.reject_keeps)
    | exact Engine.zero_canonical
    | with_reducible refine Engine.Canonical.mk ?_ ?_ ?_ ?_ ?_ ?_ ?_ ?_
    | intro _
    | exact id

theorem opSwap_keeps  (e : Engine) (c : Cur) (he : e.Canonical) :
    Engine.Canonical (opSwap e c) := by
  unfold opSwap
  try dsimp only
  repeat' first
    | with_reducible assumption
    | with_reducible apply swapSets_keeps
    | with_reducible exact Keeps.eng ‹_› _ _
    | split
    | dsimp only
    | intro _
    | exact id

theorem feedRow_keeps  (k : StreamCtx) (e : Engine) (r : Nat) (he : e.Canonical) :
    Engine.Canonical (feedRow k e r).1 := by
  unfold feedRow
  try dsimp only
  repeat' first
    | with_reducible assumption
    | with_reducible apply Engine.view_keeps
    | with_reducible apply checkSpad_keeps
    | with_reducible apply streamStep_keeps
    | with_reducible apply timedRead_keeps
    | with_reducible exact Keeps.eng ‹_› _ _
    | split
    | dsimp only
    | (with_reducible refine Engine.Canonical.spad ?_; first | with_reducible assumption | with_reducible exact Keeps.eng ‹_› _ _ | with_reducible apply streamStep_keeps | with_reducible apply checkSpad_keeps | with_reducible apply Engine.view_keeps | with_reducible apply timedRead_keeps)
    | (with_reducible refine Engine.Canonical.poison ?_; first | with_reducible assumption | with_reducible exact Keeps.eng ‹_› _ _ | with_reducible apply streamStep_keeps | with_reducible apply checkSpad_keeps | with_reducible apply Engine.view_keeps | with_reducible apply timedRead_keeps)
    | (with_reducible refine Engine.Canonical.acc ?_; first | with_reducible assumption | with_reducible exact Keeps.eng ‹_› _ _ | with_reducible apply streamStep_keeps | with_reducible apply checkSpad_keeps | with_reducible apply Engine.view_keeps | with_reducible apply timedRead_keeps)
    | (with_reducible refine Engine.Canonical.vreg ?_; first | with_reducible assumption | with_reducible exact Keeps.eng ‹_› _ _ | with_reducible apply streamStep_keeps | with_reducible apply checkSpad_keeps | with_reducible apply Engine.view_keeps | with_reducible apply timedRead_keeps)
    | (with_reducible refine Engine.Canonical.set0 ?_; first | with_reducible assumption | with_reducible exact Keeps.eng ‹_› _ _ | with_reducible apply streamStep_keeps | with_reducible apply checkSpad_keeps | with_reducible apply Engine.view_keeps | with_reducible apply timedRead_keeps)
    | (with_reducible refine Engine.Canonical.set1 ?_; first | with_reducible assumption | with_reducible exact Keeps.eng ‹_› _ _ | with_reducible apply streamStep_keeps | with_reducible apply checkSpad_keeps | with_reducible apply Engine.view_keeps | with_reducible apply timedRead_keeps)
    | (with_reducible refine Engine.Canonical.tags ?_; first | with_reducible assumption | with_reducible exact Keeps.eng ‹_› _ _ | with_reducible apply streamStep_keeps | with_reducible apply checkSpad_keeps | with_reducible apply Engine.view_keeps | with_reducible apply timedRead_keeps)
    | (with_reducible refine Engine.Canonical.kept ?_; first | with_reducible assumption | with_reducible exact Keeps.eng ‹_› _ _ | with_reducible apply streamStep_keeps | with_reducible apply checkSpad_keeps | with_reducible apply Engine.view_keeps | with_reducible apply timedRead_keeps)
    | exact Engine.zero_canonical
    | with_reducible refine Engine.Canonical.mk ?_ ?_ ?_ ?_ ?_ ?_ ?_ ?_
    | intro _
    | exact id

theorem scaleRow_keeps  (k : StreamCtx) (lines : List (List Byte)) (e : Engine) (r : Nat) (he : e.Canonical) :
    Engine.Canonical (scaleRow k lines e r).1 := by
  unfold scaleRow
  try dsimp only
  repeat' first
    | with_reducible assumption
    | with_reducible apply Engine.reject_keeps
    | with_reducible apply Engine.release_keeps
    | with_reducible apply Engine.view_keeps
    | with_reducible apply checkSpad_keeps
    | with_reducible apply streamStep_keeps
    | with_reducible apply timedRead_keeps
    | with_reducible exact Keeps.eng ‹_› _ _
    | split
    | dsimp only
    | (with_reducible refine Engine.Canonical.spad ?_; first | with_reducible assumption | with_reducible exact Keeps.eng ‹_› _ _ | with_reducible apply streamStep_keeps | with_reducible apply checkSpad_keeps | with_reducible apply Engine.reject_keeps | with_reducible apply Engine.release_keeps | with_reducible apply Engine.view_keeps | with_reducible apply timedRead_keeps)
    | (with_reducible refine Engine.Canonical.poison ?_; first | with_reducible assumption | with_reducible exact Keeps.eng ‹_› _ _ | with_reducible apply streamStep_keeps | with_reducible apply checkSpad_keeps | with_reducible apply Engine.reject_keeps | with_reducible apply Engine.release_keeps | with_reducible apply Engine.view_keeps | with_reducible apply timedRead_keeps)
    | (with_reducible refine Engine.Canonical.acc ?_; first | with_reducible assumption | with_reducible exact Keeps.eng ‹_› _ _ | with_reducible apply streamStep_keeps | with_reducible apply checkSpad_keeps | with_reducible apply Engine.reject_keeps | with_reducible apply Engine.release_keeps | with_reducible apply Engine.view_keeps | with_reducible apply timedRead_keeps)
    | (with_reducible refine Engine.Canonical.vreg ?_; first | with_reducible assumption | with_reducible exact Keeps.eng ‹_› _ _ | with_reducible apply streamStep_keeps | with_reducible apply checkSpad_keeps | with_reducible apply Engine.reject_keeps | with_reducible apply Engine.release_keeps | with_reducible apply Engine.view_keeps | with_reducible apply timedRead_keeps)
    | (with_reducible refine Engine.Canonical.set0 ?_; first | with_reducible assumption | with_reducible exact Keeps.eng ‹_› _ _ | with_reducible apply streamStep_keeps | with_reducible apply checkSpad_keeps | with_reducible apply Engine.reject_keeps | with_reducible apply Engine.release_keeps | with_reducible apply Engine.view_keeps | with_reducible apply timedRead_keeps)
    | (with_reducible refine Engine.Canonical.set1 ?_; first | with_reducible assumption | with_reducible exact Keeps.eng ‹_› _ _ | with_reducible apply streamStep_keeps | with_reducible apply checkSpad_keeps | with_reducible apply Engine.reject_keeps | with_reducible apply Engine.release_keeps | with_reducible apply Engine.view_keeps | with_reducible apply timedRead_keeps)
    | (with_reducible refine Engine.Canonical.tags ?_; first | with_reducible assumption | with_reducible exact Keeps.eng ‹_› _ _ | with_reducible apply streamStep_keeps | with_reducible apply checkSpad_keeps | with_reducible apply Engine.reject_keeps | with_reducible apply Engine.release_keeps | with_reducible apply Engine.view_keeps | with_reducible apply timedRead_keeps)
    | (with_reducible refine Engine.Canonical.kept ?_; first | with_reducible assumption | with_reducible exact Keeps.eng ‹_› _ _ | with_reducible apply streamStep_keeps | with_reducible apply checkSpad_keeps | with_reducible apply Engine.reject_keeps | with_reducible apply Engine.release_keeps | with_reducible apply Engine.view_keeps | with_reducible apply timedRead_keeps)
    | exact Engine.zero_canonical
    | with_reducible refine Engine.Canonical.mk ?_ ?_ ?_ ?_ ?_ ?_ ?_ ?_
    | intro _
    | exact id

theorem accRow_keeps  (k : StreamCtx) (e : Engine) (r : Nat) (he : e.Canonical) :
    Engine.Canonical (accRow k e r).1 := by
  unfold accRow
  try dsimp only
  repeat' first
    | with_reducible assumption
    | with_reducible apply Engine.reject_keeps
    | with_reducible apply foldKeys_keeps
    | with_reducible apply onRead_keeps
    | with_reducible apply onWrite_keeps
    | with_reducible apply streamStep_keeps
    | with_reducible exact Keeps.eng ‹_› _ _
    | split
    | dsimp only
    | (with_reducible refine Engine.Canonical.spad ?_; first | with_reducible assumption | with_reducible exact Keeps.eng ‹_› _ _ | with_reducible apply streamStep_keeps | with_reducible apply Engine.reject_keeps | with_reducible apply onRead_keeps | with_reducible apply onWrite_keeps | with_reducible apply foldKeys_keeps)
    | (with_reducible refine Engine.Canonical.poison ?_; first | with_reducible assumption | with_reducible exact Keeps.eng ‹_› _ _ | with_reducible apply streamStep_keeps | with_reducible apply Engine.reject_keeps | with_reducible apply onRead_keeps | with_reducible apply onWrite_keeps | with_reducible apply foldKeys_keeps)
    | (with_reducible refine Engine.Canonical.acc ?_; first | with_reducible assumption | with_reducible exact Keeps.eng ‹_› _ _ | with_reducible apply streamStep_keeps | with_reducible apply Engine.reject_keeps | with_reducible apply onRead_keeps | with_reducible apply onWrite_keeps | with_reducible apply foldKeys_keeps)
    | (with_reducible refine Engine.Canonical.vreg ?_; first | with_reducible assumption | with_reducible exact Keeps.eng ‹_› _ _ | with_reducible apply streamStep_keeps | with_reducible apply Engine.reject_keeps | with_reducible apply onRead_keeps | with_reducible apply onWrite_keeps | with_reducible apply foldKeys_keeps)
    | (with_reducible refine Engine.Canonical.set0 ?_; first | with_reducible assumption | with_reducible exact Keeps.eng ‹_› _ _ | with_reducible apply streamStep_keeps | with_reducible apply Engine.reject_keeps | with_reducible apply onRead_keeps | with_reducible apply onWrite_keeps | with_reducible apply foldKeys_keeps)
    | (with_reducible refine Engine.Canonical.set1 ?_; first | with_reducible assumption | with_reducible exact Keeps.eng ‹_› _ _ | with_reducible apply streamStep_keeps | with_reducible apply Engine.reject_keeps | with_reducible apply onRead_keeps | with_reducible apply onWrite_keeps | with_reducible apply foldKeys_keeps)
    | (with_reducible refine Engine.Canonical.tags ?_; first | with_reducible assumption | with_reducible exact Keeps.eng ‹_› _ _ | with_reducible apply streamStep_keeps | with_reducible apply Engine.reject_keeps | with_reducible apply onRead_keeps | with_reducible apply onWrite_keeps | with_reducible apply foldKeys_keeps)
    | (with_reducible refine Engine.Canonical.kept ?_; first | with_reducible assumption | with_reducible exact Keeps.eng ‹_› _ _ | with_reducible apply streamStep_keeps | with_reducible apply Engine.reject_keeps | with_reducible apply onRead_keeps | with_reducible apply onWrite_keeps | with_reducible apply foldKeys_keeps)
    | exact Engine.zero_canonical
    | with_reducible refine Engine.Canonical.mk ?_ ?_ ?_ ?_ ?_ ?_ ?_ ?_
    | intro _
    | exact id

theorem outRow_keeps  (k : StreamCtx) (masked : Bool) (e : Engine) (r : Nat) (he : e.Canonical) :
    Engine.Canonical (outRow k masked e r).1 := by
  unfold outRow
  try dsimp only
  repeat' first
    | with_reducible assumption
    | with_reducible apply Engine.reject_keeps
    | with_reducible apply checkSpad_keeps
    | with_reducible apply streamStep_keeps
    | with_reducible apply timedWrite_keeps
    | with_reducible exact Keeps.eng ‹_› _ _
    | split
    | dsimp only
    | (with_reducible refine Engine.Canonical.spad ?_; first | with_reducible assumption | with_reducible exact Keeps.eng ‹_› _ _ | with_reducible apply streamStep_keeps | with_reducible apply checkSpad_keeps | with_reducible apply Engine.reject_keeps | with_reducible apply timedWrite_keeps)
    | (with_reducible refine Engine.Canonical.poison ?_; first | with_reducible assumption | with_reducible exact Keeps.eng ‹_› _ _ | with_reducible apply streamStep_keeps | with_reducible apply checkSpad_keeps | with_reducible apply Engine.reject_keeps | with_reducible apply timedWrite_keeps)
    | (with_reducible refine Engine.Canonical.acc ?_; first | with_reducible assumption | with_reducible exact Keeps.eng ‹_› _ _ | with_reducible apply streamStep_keeps | with_reducible apply checkSpad_keeps | with_reducible apply Engine.reject_keeps | with_reducible apply timedWrite_keeps)
    | (with_reducible refine Engine.Canonical.vreg ?_; first | with_reducible assumption | with_reducible exact Keeps.eng ‹_› _ _ | with_reducible apply streamStep_keeps | with_reducible apply checkSpad_keeps | with_reducible apply Engine.reject_keeps | with_reducible apply timedWrite_keeps)
    | (with_reducible refine Engine.Canonical.set0 ?_; first | with_reducible assumption | with_reducible exact Keeps.eng ‹_› _ _ | with_reducible apply streamStep_keeps | with_reducible apply checkSpad_keeps | with_reducible apply Engine.reject_keeps | with_reducible apply timedWrite_keeps)
    | (with_reducible refine Engine.Canonical.set1 ?_; first | with_reducible assumption | with_reducible exact Keeps.eng ‹_› _ _ | with_reducible apply streamStep_keeps | with_reducible apply checkSpad_keeps | with_reducible apply Engine.reject_keeps | with_reducible apply timedWrite_keeps)
    | (with_reducible refine Engine.Canonical.tags ?_; first | with_reducible assumption | with_reducible exact Keeps.eng ‹_› _ _ | with_reducible apply streamStep_keeps | with_reducible apply checkSpad_keeps | with_reducible apply Engine.reject_keeps | with_reducible apply timedWrite_keeps)
    | (with_reducible refine Engine.Canonical.kept ?_; first | with_reducible assumption | with_reducible exact Keeps.eng ‹_› _ _ | with_reducible apply streamStep_keeps | with_reducible apply checkSpad_keeps | with_reducible apply Engine.reject_keeps | with_reducible apply timedWrite_keeps)
    | exact Engine.zero_canonical
    | with_reducible refine Engine.Canonical.mk ?_ ?_ ?_ ?_ ?_ ?_ ?_ ?_
    | intro _
    | exact id

theorem readRow_keeps  (k : StreamCtx) (q : Engine × List (List Byte) × List (List Byte)) (r : Nat) (hq : q.1.Canonical) :
    Engine.Canonical (readRow k q r).1 := by
  unfold readRow
  try dsimp only
  repeat' first
    | with_reducible assumption
    | with_reducible apply feedRow_keeps
    | with_reducible apply scaleRow_keeps
    | with_reducible exact Keeps.eng ‹_› _ _
    | split
    | dsimp only
    | intro _
    | exact id

theorem streamRow_keeps  (k : StreamCtx) (lines rows : List (List Byte)) (e0 : Engine) (r : Nat) (he0 : e0.Canonical) :
    Engine.Canonical (streamRow k lines rows e0 r) := by
  unfold streamRow
  try dsimp only
  repeat' first
    | with_reducible assumption
    | with_reducible apply Engine.addLanding_keeps
    | with_reducible apply accRow_keeps
    | with_reducible apply outRow_keeps
    | with_reducible exact Keeps.eng ‹_› _ _
    | split
    | dsimp only
    | (with_reducible refine Engine.Canonical.spad ?_; first | with_reducible assumption | with_reducible exact Keeps.eng ‹_› _ _ | with_reducible apply Engine.addLanding_keeps | with_reducible apply accRow_keeps | with_reducible apply outRow_keeps)
    | (with_reducible refine Engine.Canonical.poison ?_; first | with_reducible assumption | with_reducible exact Keeps.eng ‹_› _ _ | with_reducible apply Engine.addLanding_keeps | with_reducible apply accRow_keeps | with_reducible apply outRow_keeps)
    | (with_reducible refine Engine.Canonical.acc ?_; first | with_reducible assumption | with_reducible exact Keeps.eng ‹_› _ _ | with_reducible apply Engine.addLanding_keeps | with_reducible apply accRow_keeps | with_reducible apply outRow_keeps)
    | (with_reducible refine Engine.Canonical.vreg ?_; first | with_reducible assumption | with_reducible exact Keeps.eng ‹_› _ _ | with_reducible apply Engine.addLanding_keeps | with_reducible apply accRow_keeps | with_reducible apply outRow_keeps)
    | (with_reducible refine Engine.Canonical.set0 ?_; first | with_reducible assumption | with_reducible exact Keeps.eng ‹_› _ _ | with_reducible apply Engine.addLanding_keeps | with_reducible apply accRow_keeps | with_reducible apply outRow_keeps)
    | (with_reducible refine Engine.Canonical.set1 ?_; first | with_reducible assumption | with_reducible exact Keeps.eng ‹_› _ _ | with_reducible apply Engine.addLanding_keeps | with_reducible apply accRow_keeps | with_reducible apply outRow_keeps)
    | (with_reducible refine Engine.Canonical.tags ?_; first | with_reducible assumption | with_reducible exact Keeps.eng ‹_› _ _ | with_reducible apply Engine.addLanding_keeps | with_reducible apply accRow_keeps | with_reducible apply outRow_keeps)
    | (with_reducible refine Engine.Canonical.kept ?_; first | with_reducible assumption | with_reducible exact Keeps.eng ‹_› _ _ | with_reducible apply Engine.addLanding_keeps | with_reducible apply accRow_keeps | with_reducible apply outRow_keeps)
    | (with_reducible refine StatSet.Canonical.rows ?_; first | with_reducible assumption | exact Engine.setOf_keeps _ _ ‹_›)
    | (with_reducible refine StatSet.Canonical.scales ?_; first | with_reducible assumption | exact Engine.setOf_keeps _ _ ‹_›)
    | exact Engine.zero_canonical
    | with_reducible refine Engine.Canonical.mk ?_ ?_ ?_ ?_ ?_ ?_ ?_ ?_
    | with_reducible refine StatSet.Canonical.mk ?_ ?_
    | exact mwf_nil
    | intro _
    | exact id

theorem failIf_keeps  (b : Bool) (f : Failure) (e : Engine) (he : e.Canonical) :
    Engine.Canonical (failIf b f e) := by
  unfold failIf
  try dsimp only
  repeat' first
    | with_reducible assumption
    | with_reducible apply Engine.fail_keeps
    | with_reducible exact Keeps.eng ‹_› _ _
    | split
    | dsimp only
    | intro _
    | exact id

theorem rejectIf_keeps  (b : Bool) (t st slot pc : Nat) (e : Engine) (he : e.Canonical) :
    Engine.Canonical (rejectIf b t st slot pc e) := by
  unfold rejectIf
  try dsimp only
  repeat' first
    | with_reducible assumption
    | with_reducible apply Engine.reject_keeps
    | with_reducible exact Keeps.eng ‹_› _ _
    | split
    | dsimp only
    | intro _
    | exact id

theorem needKindIf_keeps  (b : Bool) (as_ pc t : Nat) (kinds : List Nat) (e : Engine) (he : e.Canonical) :
    Engine.Canonical (needKindIf b as_ pc t kinds e) := by
  unfold needKindIf
  try dsimp only
  repeat' first
    | with_reducible assumption
    | with_reducible apply needKind_keeps
    | with_reducible exact Keeps.eng ‹_› _ _
    | split
    | dsimp only
    | intro _
    | exact id

theorem claimIf_keeps  (b : Bool) (as_ lo hi pc : Nat) (e : Engine) (he : e.Canonical) :
    Engine.Canonical (claimIf b as_ lo hi pc e) := by
  unfold claimIf
  try dsimp only
  repeat' first
    | with_reducible assumption
    | with_reducible apply claimStream_keeps
    | with_reducible exact Keeps.eng ‹_› _ _
    | split
    | dsimp only
    | intro _
    | exact id

theorem streamChecks_keeps  (r : Run) (pd : W64) (as_ : Nat) (set : StatSet) (rc : List W32) (c : Cur) (e : Engine) (hset : set.Canonical) (he : e.Canonical) :
    Engine.Canonical (streamChecks r pd as_ set rc c e) := by
  unfold streamChecks
  try dsimp only
  repeat' first
    | with_reducible assumption
    | with_reducible apply failIf_keeps
    | with_reducible apply needKindIf_keeps
    | with_reducible apply rejectIf_keeps
    | with_reducible exact Keeps.eng ‹_› _ _
    | split
    | dsimp only
    | (with_reducible refine Engine.Canonical.spad ?_; first | with_reducible assumption | with_reducible exact Keeps.eng ‹_› _ _ | with_reducible apply rejectIf_keeps | with_reducible apply needKindIf_keeps | with_reducible apply failIf_keeps)
    | (with_reducible refine Engine.Canonical.poison ?_; first | with_reducible assumption | with_reducible exact Keeps.eng ‹_› _ _ | with_reducible apply rejectIf_keeps | with_reducible apply needKindIf_keeps | with_reducible apply failIf_keeps)
    | (with_reducible refine Engine.Canonical.acc ?_; first | with_reducible assumption | with_reducible exact Keeps.eng ‹_› _ _ | with_reducible apply rejectIf_keeps | with_reducible apply needKindIf_keeps | with_reducible apply failIf_keeps)
    | (with_reducible refine Engine.Canonical.vreg ?_; first | with_reducible assumption | with_reducible exact Keeps.eng ‹_› _ _ | with_reducible apply rejectIf_keeps | with_reducible apply needKindIf_keeps | with_reducible apply failIf_keeps)
    | (with_reducible refine Engine.Canonical.set0 ?_; first | with_reducible assumption | with_reducible exact Keeps.eng ‹_› _ _ | with_reducible apply rejectIf_keeps | with_reducible apply needKindIf_keeps | with_reducible apply failIf_keeps)
    | (with_reducible refine Engine.Canonical.set1 ?_; first | with_reducible assumption | with_reducible exact Keeps.eng ‹_› _ _ | with_reducible apply rejectIf_keeps | with_reducible apply needKindIf_keeps | with_reducible apply failIf_keeps)
    | (with_reducible refine Engine.Canonical.tags ?_; first | with_reducible assumption | with_reducible exact Keeps.eng ‹_› _ _ | with_reducible apply rejectIf_keeps | with_reducible apply needKindIf_keeps | with_reducible apply failIf_keeps)
    | (with_reducible refine Engine.Canonical.kept ?_; first | with_reducible assumption | with_reducible exact Keeps.eng ‹_› _ _ | with_reducible apply rejectIf_keeps | with_reducible apply needKindIf_keeps | with_reducible apply failIf_keeps)
    | exact Engine.zero_canonical
    | with_reducible refine Engine.Canonical.mk ?_ ?_ ?_ ?_ ?_ ?_ ?_ ?_
    | intro _
    | exact id

theorem streamClaims_keeps  (pd : W64) (as_ n : Nat) (c : Cur) (e : Engine) (he : e.Canonical) :
    Engine.Canonical (streamClaims pd as_ n c e) := by
  unfold streamClaims
  try dsimp only
  repeat' first
    | with_reducible assumption
    | with_reducible apply claimIf_keeps
    | with_reducible exact Keeps.eng ‹_› _ _
    | split
    | dsimp only
    | intro _
    | exact id

theorem streamRows_keeps  (k : StreamCtx) (e : Engine) (he : e.Canonical) :
    Engine.Canonical (streamRows k e) := by
  unfold streamRows
  try dsimp only
  repeat' first
    | with_reducible assumption
    | with_reducible apply readRow_keeps
    | with_reducible apply streamRow_keeps
    | with_reducible apply foldl_engine
    | with_reducible apply foldl_fst_engine
    | with_reducible exact Keeps.eng ‹_› _ _
    | split
    | dsimp only
    | intro _
    | exact id

theorem streamFrom_keeps  (own : Owners) (c : Cur) (e : Engine) (he : e.Canonical) :
    Engine.Canonical (streamFrom own c e) := by
  unfold streamFrom
  try dsimp only
  repeat' first
    | with_reducible assumption
    | with_reducible apply Engine.withRun_keeps
    | with_reducible apply settledSet_keeps
    | with_reducible apply streamChecks_keeps
    | with_reducible apply streamClaims_keeps
    | with_reducible apply streamRows_keeps
    | with_reducible exact Keeps.eng ‹_› _ _
    | split
    | dsimp only
    | (with_reducible refine Engine.Canonical.spad ?_; first | with_reducible assumption | with_reducible exact Keeps.eng ‹_› _ _ | with_reducible apply streamClaims_keeps | with_reducible apply Engine.withRun_keeps | with_reducible apply streamRows_keeps | with_reducible apply streamChecks_keeps)
    | (with_reducible refine Engine.Canonical.poison ?_; first | with_reducible assumption | with_reducible exact Keeps.eng ‹_› _ _ | with_reducible apply streamClaims_keeps | with_reducible apply Engine.withRun_keeps | with_reducible apply streamRows_keeps | with_reducible apply streamChecks_keeps)
    | (with_reducible refine Engine.Canonical.acc ?_; first | with_reducible assumption | with_reducible exact Keeps.eng ‹_› _ _ | with_reducible apply streamClaims_keeps | with_reducible apply Engine.withRun_keeps | with_reducible apply streamRows_keeps | with_reducible apply streamChecks_keeps)
    | (with_reducible refine Engine.Canonical.vreg ?_; first | with_reducible assumption | with_reducible exact Keeps.eng ‹_› _ _ | with_reducible apply streamClaims_keeps | with_reducible apply Engine.withRun_keeps | with_reducible apply streamRows_keeps | with_reducible apply streamChecks_keeps)
    | (with_reducible refine Engine.Canonical.set0 ?_; first | with_reducible assumption | with_reducible exact Keeps.eng ‹_› _ _ | with_reducible apply streamClaims_keeps | with_reducible apply Engine.withRun_keeps | with_reducible apply streamRows_keeps | with_reducible apply streamChecks_keeps)
    | (with_reducible refine Engine.Canonical.set1 ?_; first | with_reducible assumption | with_reducible exact Keeps.eng ‹_› _ _ | with_reducible apply streamClaims_keeps | with_reducible apply Engine.withRun_keeps | with_reducible apply streamRows_keeps | with_reducible apply streamChecks_keeps)
    | (with_reducible refine Engine.Canonical.tags ?_; first | with_reducible assumption | with_reducible exact Keeps.eng ‹_› _ _ | with_reducible apply streamClaims_keeps | with_reducible apply Engine.withRun_keeps | with_reducible apply streamRows_keeps | with_reducible apply streamChecks_keeps)
    | (with_reducible refine Engine.Canonical.kept ?_; first | with_reducible assumption | with_reducible exact Keeps.eng ‹_› _ _ | with_reducible apply streamClaims_keeps | with_reducible apply Engine.withRun_keeps | with_reducible apply streamRows_keeps | with_reducible apply streamChecks_keeps)
    | exact Engine.zero_canonical
    | with_reducible refine Engine.Canonical.mk ?_ ?_ ?_ ?_ ?_ ?_ ?_ ?_
    | intro _
    | exact id

theorem opStreamWith_keeps  (swap : Bool) (own : Owners) (e : Engine) (c : Cur) (he : e.Canonical) :
    Engine.Canonical (opStreamWith swap own e c) := by
  unfold opStreamWith
  try dsimp only
  repeat' first
    | with_reducible assumption
    | with_reducible apply streamFrom_keeps
    | with_reducible apply swapSets_keeps
    | with_reducible exact Keeps.eng ‹_› _ _
    | split
    | dsimp only
    | intro _
    | exact id

theorem opStream_keeps  (own : Owners) (e : Engine) (c : Cur) (he : e.Canonical) :
    Engine.Canonical (opStream own e c) := by
  unfold opStream
  try dsimp only
  repeat' first
    | with_reducible assumption
    | with_reducible apply opStreamWith_keeps
    | with_reducible exact Keeps.eng ‹_› _ _
    | split
    | dsimp only
    | intro _
    | exact id

theorem opSwapStream_keeps  (own : Owners) (e : Engine) (c : Cur) (he : e.Canonical) :
    Engine.Canonical (opSwapStream own e c) := by
  unfold opSwapStream
  try dsimp only
  repeat' first
    | with_reducible assumption
    | with_reducible apply opStreamWith_keeps
    | with_reducible exact Keeps.eng ‹_› _ _
    | split
    | dsimp only
    | intro _
    | exact id

end Sys2Proof.Machine
end

