-- ==== Sys2Proof/Laws/KeepsEngVector.lean ====
section
/-! SUPPORT. What each operation of Machine/EngVector.lean keeps (Laws/Keeps.lean). -/

namespace Sys2Proof.Machine

theorem vecOp_keeps  (lat itv : Nat) (srcs dsts : List Nat) (f : Engine → List (List W32)) (e : Engine) (c : Cur) (he : e.Canonical) :
    Engine.Canonical (vecOp lat itv srcs dsts f e c) := by
  unfold vecOp
  try dsimp only
  repeat' first
    | with_reducible assumption
    | with_reducible apply Engine.addLanding_keeps
    | with_reducible apply Engine.fail_keeps
    | with_reducible apply Engine.view_keeps
    | with_reducible apply Engine.withRun_keeps
    | with_reducible apply foldKeys_keeps
    | with_reducible apply onRead_keeps
    | with_reducible apply onWrite_keeps
    | with_reducible apply foldl_engine
    | with_reducible apply foldl_fst_engine
    | with_reducible apply mwf_foldl
    | with_reducible exact Keeps.eng ‹_› _ _
    | split
    | dsimp only
    | (with_reducible refine Engine.Canonical.spad ?_; first | with_reducible assumption | with_reducible exact Keeps.eng ‹_› _ _ | with_reducible apply foldl_engine | with_reducible apply Engine.fail_keeps | with_reducible apply Engine.addLanding_keeps | with_reducible apply Engine.withRun_keeps | with_reducible apply onRead_keeps | with_reducible apply Engine.view_keeps | with_reducible apply onWrite_keeps | with_reducible apply foldKeys_keeps)
    | (with_reducible refine Engine.Canonical.poison ?_; first | with_reducible assumption | with_reducible exact Keeps.eng ‹_› _ _ | with_reducible apply foldl_engine | with_reducible apply Engine.fail_keeps | with_reducible apply Engine.addLanding_keeps | with_reducible apply Engine.withRun_keeps | with_reducible apply onRead_keeps | with_reducible apply Engine.view_keeps | with_reducible apply onWrite_keeps | with_reducible apply foldKeys_keeps)
    | (with_reducible refine Engine.Canonical.acc ?_; first | with_reducible assumption | with_reducible exact Keeps.eng ‹_› _ _ | with_reducible apply foldl_engine | with_reducible apply Engine.fail_keeps | with_reducible apply Engine.addLanding_keeps | with_reducible apply Engine.withRun_keeps | with_reducible apply onRead_keeps | with_reducible apply Engine.view_keeps | with_reducible apply onWrite_keeps | with_reducible apply foldKeys_keeps)
    | (with_reducible refine Engine.Canonical.vreg ?_; first | with_reducible assumption | with_reducible exact Keeps.eng ‹_› _ _ | with_reducible apply foldl_engine | with_reducible apply Engine.fail_keeps | with_reducible apply Engine.addLanding_keeps | with_reducible apply Engine.withRun_keeps | with_reducible apply onRead_keeps | with_reducible apply Engine.view_keeps | with_reducible apply onWrite_keeps | with_reducible apply foldKeys_keeps)
    | (with_reducible refine Engine.Canonical.set0 ?_; first | with_reducible assumption | with_reducible exact Keeps.eng ‹_› _ _ | with_reducible apply foldl_engine | with_reducible apply Engine.fail_keeps | with_reducible apply Engine.addLanding_keeps | with_reducible apply Engine.withRun_keeps | with_reducible apply onRead_keeps | with_reducible apply Engine.view_keeps | with_reducible apply onWrite_keeps | with_reducible apply foldKeys_keeps)
    | (with_reducible refine Engine.Canonical.set1 ?_; first | with_reducible assumption | with_reducible exact Keeps.eng ‹_› _ _ | with_reducible apply foldl_engine | with_reducible apply Engine.fail_keeps | with_reducible apply Engine.addLanding_keeps | with_reducible apply Engine.withRun_keeps | with_reducible apply onRead_keeps | with_reducible apply Engine.view_keeps | with_reducible apply onWrite_keeps | with_reducible apply foldKeys_keeps)
    | (with_reducible refine Engine.Canonical.tags ?_; first | with_reducible assumption | with_reducible exact Keeps.eng ‹_› _ _ | with_reducible apply foldl_engine | with_reducible apply Engine.fail_keeps | with_reducible apply Engine.addLanding_keeps | with_reducible apply Engine.withRun_keeps | with_reducible apply onRead_keeps | with_reducible apply Engine.view_keeps | with_reducible apply onWrite_keeps | with_reducible apply foldKeys_keeps)
    | (with_reducible refine Engine.Canonical.kept ?_; first | with_reducible assumption | with_reducible exact Keeps.eng ‹_› _ _ | with_reducible apply foldl_engine | with_reducible apply Engine.fail_keeps | with_reducible apply Engine.addLanding_keeps | with_reducible apply Engine.withRun_keeps | with_reducible apply onRead_keeps | with_reducible apply Engine.view_keeps | with_reducible apply onWrite_keeps | with_reducible apply foldKeys_keeps)
    | exact Engine.zero_canonical
    | with_reducible refine Engine.Canonical.mk ?_ ?_ ?_ ?_ ?_ ?_ ?_ ?_
    | intro _
    | exact id

theorem fp32Op_keeps  (f : Nat → Nat → Nat) (e : Engine) (c : Cur) (he : e.Canonical) :
    Engine.Canonical (fp32Op f e c) := by
  unfold fp32Op
  try dsimp only
  repeat' first
    | with_reducible assumption
    | with_reducible apply vecOp_keeps
    | with_reducible exact Keeps.eng ‹_› _ _
    | split
    | dsimp only
    | intro _
    | exact id

theorem opFadd_keeps  (e : Engine) (c : Cur) (he : e.Canonical) :
    Engine.Canonical (opFadd e c) := by
  unfold opFadd
  try dsimp only
  repeat' first
    | with_reducible assumption
    | with_reducible apply fp32Op_keeps
    | with_reducible exact Keeps.eng ‹_› _ _
    | split
    | dsimp only
    | intro _
    | exact id

theorem opFsub_keeps  (e : Engine) (c : Cur) (he : e.Canonical) :
    Engine.Canonical (opFsub e c) := by
  unfold opFsub
  try dsimp only
  repeat' first
    | with_reducible assumption
    | with_reducible apply fp32Op_keeps
    | with_reducible exact Keeps.eng ‹_› _ _
    | split
    | dsimp only
    | intro _
    | exact id

theorem opFmul_keeps  (e : Engine) (c : Cur) (he : e.Canonical) :
    Engine.Canonical (opFmul e c) := by
  unfold opFmul
  try dsimp only
  repeat' first
    | with_reducible assumption
    | with_reducible apply fp32Op_keeps
    | with_reducible exact Keeps.eng ‹_› _ _
    | split
    | dsimp only
    | intro _
    | exact id

theorem opFma_keeps  (e : Engine) (c : Cur) (he : e.Canonical) :
    Engine.Canonical (opFma e c) := by
  unfold opFma
  try dsimp only
  repeat' first
    | with_reducible assumption
    | with_reducible apply vecOp_keeps
    | with_reducible exact Keeps.eng ‹_› _ _
    | split
    | dsimp only
    | intro _
    | exact id

theorem opFmin_keeps  (e : Engine) (c : Cur) (he : e.Canonical) :
    Engine.Canonical (opFmin e c) := by
  unfold opFmin
  try dsimp only
  repeat' first
    | with_reducible assumption
    | with_reducible apply fp32Op_keeps
    | with_reducible exact Keeps.eng ‹_› _ _
    | split
    | dsimp only
    | intro _
    | exact id

theorem opFmax_keeps  (e : Engine) (c : Cur) (he : e.Canonical) :
    Engine.Canonical (opFmax e c) := by
  unfold opFmax
  try dsimp only
  repeat' first
    | with_reducible assumption
    | with_reducible apply fp32Op_keeps
    | with_reducible exact Keeps.eng ‹_› _ _
    | split
    | dsimp only
    | intro _
    | exact id

theorem opFcmp_keeps  (e : Engine) (c : Cur) (he : e.Canonical) :
    Engine.Canonical (opFcmp e c) := by
  unfold opFcmp
  try dsimp only
  repeat' first
    | with_reducible assumption
    | with_reducible apply fp32Op_keeps
    | with_reducible exact Keeps.eng ‹_› _ _
    | split
    | dsimp only
    | intro _
    | exact id

theorem fp64Op_keeps  (f : Nat → Nat → Nat) (e : Engine) (c : Cur) (he : e.Canonical) :
    Engine.Canonical (fp64Op f e c) := by
  unfold fp64Op
  try dsimp only
  repeat' first
    | with_reducible assumption
    | with_reducible apply vecOp_keeps
    | with_reducible exact Keeps.eng ‹_› _ _
    | split
    | dsimp only
    | intro _
    | exact id

theorem opDadd_keeps  (e : Engine) (c : Cur) (he : e.Canonical) :
    Engine.Canonical (opDadd e c) := by
  unfold opDadd
  try dsimp only
  repeat' first
    | with_reducible assumption
    | with_reducible apply fp64Op_keeps
    | with_reducible exact Keeps.eng ‹_› _ _
    | split
    | dsimp only
    | intro _
    | exact id

theorem opDmul_keeps  (e : Engine) (c : Cur) (he : e.Canonical) :
    Engine.Canonical (opDmul e c) := by
  unfold opDmul
  try dsimp only
  repeat' first
    | with_reducible assumption
    | with_reducible apply fp64Op_keeps
    | with_reducible exact Keeps.eng ‹_› _ _
    | split
    | dsimp only
    | intro _
    | exact id

theorem opDfma_keeps  (e : Engine) (c : Cur) (he : e.Canonical) :
    Engine.Canonical (opDfma e c) := by
  unfold opDfma
  try dsimp only
  repeat' first
    | with_reducible assumption
    | with_reducible apply vecOp_keeps
    | with_reducible exact Keeps.eng ‹_› _ _
    | split
    | dsimp only
    | intro _
    | exact id

theorem transOp_keeps  (f : W32 → W32) (e : Engine) (c : Cur) (he : e.Canonical) :
    Engine.Canonical (transOp f e c) := by
  unfold transOp
  try dsimp only
  repeat' first
    | with_reducible assumption
    | with_reducible apply vecOp_keeps
    | with_reducible exact Keeps.eng ‹_› _ _
    | split
    | dsimp only
    | intro _
    | exact id

theorem opExp_keeps  (e : Engine) (c : Cur) (he : e.Canonical) :
    Engine.Canonical (opExp e c) := by
  unfold opExp
  try dsimp only
  repeat' first
    | with_reducible assumption
    | with_reducible apply transOp_keeps
    | with_reducible exact Keeps.eng ‹_› _ _
    | split
    | dsimp only
    | intro _
    | exact id

theorem opLog_keeps  (e : Engine) (c : Cur) (he : e.Canonical) :
    Engine.Canonical (opLog e c) := by
  unfold opLog
  try dsimp only
  repeat' first
    | with_reducible assumption
    | with_reducible apply transOp_keeps
    | with_reducible exact Keeps.eng ‹_› _ _
    | split
    | dsimp only
    | intro _
    | exact id

theorem opRsqrt_keeps  (e : Engine) (c : Cur) (he : e.Canonical) :
    Engine.Canonical (opRsqrt e c) := by
  unfold opRsqrt
  try dsimp only
  repeat' first
    | with_reducible assumption
    | with_reducible apply transOp_keeps
    | with_reducible exact Keeps.eng ‹_› _ _
    | split
    | dsimp only
    | intro _
    | exact id

theorem intOp_keeps  (f : W32 → W32 → W32) (e : Engine) (c : Cur) (he : e.Canonical) :
    Engine.Canonical (intOp f e c) := by
  unfold intOp
  try dsimp only
  repeat' first
    | with_reducible assumption
    | with_reducible apply vecOp_keeps
    | with_reducible exact Keeps.eng ‹_› _ _
    | split
    | dsimp only
    | intro _
    | exact id

theorem opIadd_keeps  (e : Engine) (c : Cur) (he : e.Canonical) :
    Engine.Canonical (opIadd e c) := by
  unfold opIadd
  try dsimp only
  repeat' first
    | with_reducible assumption
    | with_reducible apply intOp_keeps
    | with_reducible exact Keeps.eng ‹_› _ _
    | split
    | dsimp only
    | intro _
    | exact id

theorem opIsub_keeps  (e : Engine) (c : Cur) (he : e.Canonical) :
    Engine.Canonical (opIsub e c) := by
  unfold opIsub
  try dsimp only
  repeat' first
    | with_reducible assumption
    | with_reducible apply intOp_keeps
    | with_reducible exact Keeps.eng ‹_› _ _
    | split
    | dsimp only
    | intro _
    | exact id

theorem opImul_keeps  (e : Engine) (c : Cur) (he : e.Canonical) :
    Engine.Canonical (opImul e c) := by
  unfold opImul
  try dsimp only
  repeat' first
    | with_reducible assumption
    | with_reducible apply intOp_keeps
    | with_reducible exact Keeps.eng ‹_› _ _
    | split
    | dsimp only
    | intro _
    | exact id

theorem opAnd_keeps  (e : Engine) (c : Cur) (he : e.Canonical) :
    Engine.Canonical (opAnd e c) := by
  unfold opAnd
  try dsimp only
  repeat' first
    | with_reducible assumption
    | with_reducible apply intOp_keeps
    | with_reducible exact Keeps.eng ‹_› _ _
    | split
    | dsimp only
    | intro _
    | exact id

theorem opOr_keeps  (e : Engine) (c : Cur) (he : e.Canonical) :
    Engine.Canonical (opOr e c) := by
  unfold opOr
  try dsimp only
  repeat' first
    | with_reducible assumption
    | with_reducible apply intOp_keeps
    | with_reducible exact Keeps.eng ‹_› _ _
    | split
    | dsimp only
    | intro _
    | exact id

theorem opXor_keeps  (e : Engine) (c : Cur) (he : e.Canonical) :
    Engine.Canonical (opXor e c) := by
  unfold opXor
  try dsimp only
  repeat' first
    | with_reducible assumption
    | with_reducible apply intOp_keeps
    | with_reducible exact Keeps.eng ‹_› _ _
    | split
    | dsimp only
    | intro _
    | exact id

theorem opShl_keeps  (e : Engine) (c : Cur) (he : e.Canonical) :
    Engine.Canonical (opShl e c) := by
  unfold opShl
  try dsimp only
  repeat' first
    | with_reducible assumption
    | with_reducible apply intOp_keeps
    | with_reducible exact Keeps.eng ‹_› _ _
    | split
    | dsimp only
    | intro _
    | exact id

theorem opShr_keeps  (e : Engine) (c : Cur) (he : e.Canonical) :
    Engine.Canonical (opShr e c) := by
  unfold opShr
  try dsimp only
  repeat' first
    | with_reducible assumption
    | with_reducible apply intOp_keeps
    | with_reducible exact Keeps.eng ‹_› _ _
    | split
    | dsimp only
    | intro _
    | exact id

theorem opSra_keeps  (e : Engine) (c : Cur) (he : e.Canonical) :
    Engine.Canonical (opSra e c) := by
  unfold opSra
  try dsimp only
  repeat' first
    | with_reducible assumption
    | with_reducible apply intOp_keeps
    | with_reducible exact Keeps.eng ‹_› _ _
    | split
    | dsimp only
    | intro _
    | exact id

theorem opSel_keeps  (e : Engine) (c : Cur) (he : e.Canonical) :
    Engine.Canonical (opSel e c) := by
  unfold opSel
  try dsimp only
  repeat' first
    | with_reducible assumption
    | with_reducible apply vecOp_keeps
    | with_reducible exact Keeps.eng ‹_› _ _
    | split
    | dsimp only
    | intro _
    | exact id

theorem opImin_keeps  (e : Engine) (c : Cur) (he : e.Canonical) :
    Engine.Canonical (opImin e c) := by
  unfold opImin
  try dsimp only
  repeat' first
    | with_reducible assumption
    | with_reducible apply intOp_keeps
    | with_reducible exact Keeps.eng ‹_› _ _
    | split
    | dsimp only
    | intro _
    | exact id

theorem opImax_keeps  (e : Engine) (c : Cur) (he : e.Canonical) :
    Engine.Canonical (opImax e c) := by
  unfold opImax
  try dsimp only
  repeat' first
    | with_reducible assumption
    | with_reducible apply intOp_keeps
    | with_reducible exact Keeps.eng ‹_› _ _
    | split
    | dsimp only
    | intro _
    | exact id

theorem opExadd_keeps  (e : Engine) (c : Cur) (he : e.Canonical) :
    Engine.Canonical (opExadd e c) := by
  unfold opExadd
  try dsimp only
  repeat' first
    | with_reducible assumption
    | with_reducible apply vecOp_keeps
    | with_reducible exact Keeps.eng ‹_› _ _
    | split
    | dsimp only
    | intro _
    | exact id

theorem opCvt_keeps  (e : Engine) (c : Cur) (he : e.Canonical) :
    Engine.Canonical (opCvt e c) := by
  unfold opCvt
  try dsimp only
  repeat' first
    | with_reducible assumption
    | with_reducible apply Engine.reject_keeps
    | with_reducible apply vecOp_keeps
    | with_reducible exact Keeps.eng ‹_› _ _
    | split
    | dsimp only
    | intro _
    | exact id

theorem reduceOp_keeps  (f : List W32 → W32) (e : Engine) (c : Cur) (he : e.Canonical) :
    Engine.Canonical (reduceOp f e c) := by
  unfold reduceOp
  try dsimp only
  repeat' first
    | with_reducible assumption
    | with_reducible apply vecOp_keeps
    | with_reducible exact Keeps.eng ‹_› _ _
    | split
    | dsimp only
    | intro _
    | exact id

theorem opRsum_keeps  (e : Engine) (c : Cur) (he : e.Canonical) :
    Engine.Canonical (opRsum e c) := by
  unfold opRsum
  try dsimp only
  repeat' first
    | with_reducible assumption
    | with_reducible apply reduceOp_keeps
    | with_reducible exact Keeps.eng ‹_› _ _
    | split
    | dsimp only
    | intro _
    | exact id

theorem opRmax_keeps  (e : Engine) (c : Cur) (he : e.Canonical) :
    Engine.Canonical (opRmax e c) := by
  unfold opRmax
  try dsimp only
  repeat' first
    | with_reducible assumption
    | with_reducible apply reduceOp_keeps
    | with_reducible exact Keeps.eng ‹_› _ _
    | split
    | dsimp only
    | intro _
    | exact id

theorem opRmin_keeps  (e : Engine) (c : Cur) (he : e.Canonical) :
    Engine.Canonical (opRmin e c) := by
  unfold opRmin
  try dsimp only
  repeat' first
    | with_reducible assumption
    | with_reducible apply reduceOp_keeps
    | with_reducible exact Keeps.eng ‹_› _ _
    | split
    | dsimp only
    | intro _
    | exact id

theorem opExcvt_keeps  (own : Owners) (e : Engine) (c : Cur) (he : e.Canonical) :
    Engine.Canonical (opExcvt own e c) := by
  unfold opExcvt
  try dsimp only
  repeat' first
    | with_reducible assumption
    | with_reducible apply Engine.reject_keeps
    | with_reducible apply claimStream_keeps
    | with_reducible apply foldKeys_keeps
    | with_reducible apply needKind_keeps
    | with_reducible apply onRead_keeps
    | with_reducible apply streamStep_keeps
    | with_reducible apply vecOp_keeps
    | with_reducible exact Keeps.eng ‹_› _ _
    | split
    | dsimp only
    | intro _
    | exact id

theorem opRbits_keeps  (e : Engine) (c : Cur) (he : e.Canonical) :
    Engine.Canonical (opRbits e c) := by
  unfold opRbits
  try dsimp only
  repeat' first
    | with_reducible assumption
    | with_reducible apply Engine.reject_keeps
    | with_reducible apply vecOp_keeps
    | with_reducible exact Keeps.eng ‹_› _ _
    | split
    | dsimp only
    | intro _
    | exact id

end Sys2Proof.Machine
end

