-- ==== Sys2Proof/Laws/KeepsEngSlots.lean ====
section
/-! SUPPORT. What each operation of Machine/EngSlots.lean keeps (Laws/Keeps.lean). -/

namespace Sys2Proof.Machine

theorem opVld_keeps  (own : Owners) (e : Engine) (c : Cur) (he : e.Canonical) :
    Engine.Canonical (opVld own e c) := by
  unfold opVld
  try dsimp only
  repeat' first
    | with_reducible assumption
    | with_reducible apply Engine.addLanding_keeps
    | with_reducible apply Engine.view_keeps
    | with_reducible apply checkSpad_keeps
    | with_reducible apply claimStream_keeps
    | with_reducible apply needKind_keeps
    | with_reducible apply onWrite_keeps
    | with_reducible apply streamStep_keeps
    | with_reducible apply timedRead_keeps
    | with_reducible exact Keeps.eng ‹_› _ _
    | split
    | dsimp only
    | (with_reducible refine Engine.Canonical.spad ?_; first | with_reducible assumption | with_reducible exact Keeps.eng ‹_› _ _ | with_reducible apply streamStep_keeps | with_reducible apply checkSpad_keeps | with_reducible apply claimStream_keeps | with_reducible apply Engine.addLanding_keeps | with_reducible apply needKind_keeps | with_reducible apply Engine.view_keeps | with_reducible apply onWrite_keeps | with_reducible apply timedRead_keeps)
    | (with_reducible refine Engine.Canonical.poison ?_; first | with_reducible assumption | with_reducible exact Keeps.eng ‹_› _ _ | with_reducible apply streamStep_keeps | with_reducible apply checkSpad_keeps | with_reducible apply claimStream_keeps | with_reducible apply Engine.addLanding_keeps | with_reducible apply needKind_keeps | with_reducible apply Engine.view_keeps | with_reducible apply onWrite_keeps | with_reducible apply timedRead_keeps)
    | (with_reducible refine Engine.Canonical.acc ?_; first | with_reducible assumption | with_reducible exact Keeps.eng ‹_› _ _ | with_reducible apply streamStep_keeps | with_reducible apply checkSpad_keeps | with_reducible apply claimStream_keeps | with_reducible apply Engine.addLanding_keeps | with_reducible apply needKind_keeps | with_reducible apply Engine.view_keeps | with_reducible apply onWrite_keeps | with_reducible apply timedRead_keeps)
    | (with_reducible refine Engine.Canonical.vreg ?_; first | with_reducible assumption | with_reducible exact Keeps.eng ‹_› _ _ | with_reducible apply streamStep_keeps | with_reducible apply checkSpad_keeps | with_reducible apply claimStream_keeps | with_reducible apply Engine.addLanding_keeps | with_reducible apply needKind_keeps | with_reducible apply Engine.view_keeps | with_reducible apply onWrite_keeps | with_reducible apply timedRead_keeps)
    | (with_reducible refine Engine.Canonical.set0 ?_; first | with_reducible assumption | with_reducible exact Keeps.eng ‹_› _ _ | with_reducible apply streamStep_keeps | with_reducible apply checkSpad_keeps | with_reducible apply claimStream_keeps | with_reducible apply Engine.addLanding_keeps | with_reducible apply needKind_keeps | with_reducible apply Engine.view_keeps | with_reducible apply onWrite_keeps | with_reducible apply timedRead_keeps)
    | (with_reducible refine Engine.Canonical.set1 ?_; first | with_reducible assumption | with_reducible exact Keeps.eng ‹_› _ _ | with_reducible apply streamStep_keeps | with_reducible apply checkSpad_keeps | with_reducible apply claimStream_keeps | with_reducible apply Engine.addLanding_keeps | with_reducible apply needKind_keeps | with_reducible apply Engine.view_keeps | with_reducible apply onWrite_keeps | with_reducible apply timedRead_keeps)
    | (with_reducible refine Engine.Canonical.tags ?_; first | with_reducible assumption | with_reducible exact Keeps.eng ‹_› _ _ | with_reducible apply streamStep_keeps | with_reducible apply checkSpad_keeps | with_reducible apply claimStream_keeps | with_reducible apply Engine.addLanding_keeps | with_reducible apply needKind_keeps | with_reducible apply Engine.view_keeps | with_reducible apply onWrite_keeps | with_reducible apply timedRead_keeps)
    | (with_reducible refine Engine.Canonical.kept ?_; first | with_reducible assumption | with_reducible exact Keeps.eng ‹_› _ _ | with_reducible apply streamStep_keeps | with_reducible apply checkSpad_keeps | with_reducible apply claimStream_keeps | with_reducible apply Engine.addLanding_keeps | with_reducible apply needKind_keeps | with_reducible apply Engine.view_keeps | with_reducible apply onWrite_keeps | with_reducible apply timedRead_keeps)
    | exact Engine.zero_canonical
    | with_reducible refine Engine.Canonical.mk ?_ ?_ ?_ ?_ ?_ ?_ ?_ ?_
    | intro _
    | exact id

theorem opVst_keeps  (own : Owners) (e : Engine) (c : Cur) (he : e.Canonical) :
    Engine.Canonical (opVst own e c) := by
  unfold opVst
  try dsimp only
  repeat' first
    | with_reducible assumption
    | with_reducible apply Engine.addLanding_keeps
    | with_reducible apply Engine.view_keeps
    | with_reducible apply checkSpad_keeps
    | with_reducible apply claimStream_keeps
    | with_reducible apply needKind_keeps
    | with_reducible apply onRead_keeps
    | with_reducible apply streamStep_keeps
    | with_reducible apply timedWrite_keeps
    | with_reducible exact Keeps.eng ‹_› _ _
    | split
    | dsimp only
    | (with_reducible refine Engine.Canonical.spad ?_; first | with_reducible assumption | with_reducible exact Keeps.eng ‹_› _ _ | with_reducible apply streamStep_keeps | with_reducible apply checkSpad_keeps | with_reducible apply claimStream_keeps | with_reducible apply Engine.addLanding_keeps | with_reducible apply onRead_keeps | with_reducible apply needKind_keeps | with_reducible apply timedWrite_keeps | with_reducible apply Engine.view_keeps)
    | (with_reducible refine Engine.Canonical.poison ?_; first | with_reducible assumption | with_reducible exact Keeps.eng ‹_› _ _ | with_reducible apply streamStep_keeps | with_reducible apply checkSpad_keeps | with_reducible apply claimStream_keeps | with_reducible apply Engine.addLanding_keeps | with_reducible apply onRead_keeps | with_reducible apply needKind_keeps | with_reducible apply timedWrite_keeps | with_reducible apply Engine.view_keeps)
    | (with_reducible refine Engine.Canonical.acc ?_; first | with_reducible assumption | with_reducible exact Keeps.eng ‹_› _ _ | with_reducible apply streamStep_keeps | with_reducible apply checkSpad_keeps | with_reducible apply claimStream_keeps | with_reducible apply Engine.addLanding_keeps | with_reducible apply onRead_keeps | with_reducible apply needKind_keeps | with_reducible apply timedWrite_keeps | with_reducible apply Engine.view_keeps)
    | (with_reducible refine Engine.Canonical.vreg ?_; first | with_reducible assumption | with_reducible exact Keeps.eng ‹_› _ _ | with_reducible apply streamStep_keeps | with_reducible apply checkSpad_keeps | with_reducible apply claimStream_keeps | with_reducible apply Engine.addLanding_keeps | with_reducible apply onRead_keeps | with_reducible apply needKind_keeps | with_reducible apply timedWrite_keeps | with_reducible apply Engine.view_keeps)
    | (with_reducible refine Engine.Canonical.set0 ?_; first | with_reducible assumption | with_reducible exact Keeps.eng ‹_› _ _ | with_reducible apply streamStep_keeps | with_reducible apply checkSpad_keeps | with_reducible apply claimStream_keeps | with_reducible apply Engine.addLanding_keeps | with_reducible apply onRead_keeps | with_reducible apply needKind_keeps | with_reducible apply timedWrite_keeps | with_reducible apply Engine.view_keeps)
    | (with_reducible refine Engine.Canonical.set1 ?_; first | with_reducible assumption | with_reducible exact Keeps.eng ‹_› _ _ | with_reducible apply streamStep_keeps | with_reducible apply checkSpad_keeps | with_reducible apply claimStream_keeps | with_reducible apply Engine.addLanding_keeps | with_reducible apply onRead_keeps | with_reducible apply needKind_keeps | with_reducible apply timedWrite_keeps | with_reducible apply Engine.view_keeps)
    | (with_reducible refine Engine.Canonical.tags ?_; first | with_reducible assumption | with_reducible exact Keeps.eng ‹_› _ _ | with_reducible apply streamStep_keeps | with_reducible apply checkSpad_keeps | with_reducible apply claimStream_keeps | with_reducible apply Engine.addLanding_keeps | with_reducible apply onRead_keeps | with_reducible apply needKind_keeps | with_reducible apply timedWrite_keeps | with_reducible apply Engine.view_keeps)
    | (with_reducible refine Engine.Canonical.kept ?_; first | with_reducible assumption | with_reducible exact Keeps.eng ‹_› _ _ | with_reducible apply streamStep_keeps | with_reducible apply checkSpad_keeps | with_reducible apply claimStream_keeps | with_reducible apply Engine.addLanding_keeps | with_reducible apply onRead_keeps | with_reducible apply needKind_keeps | with_reducible apply timedWrite_keeps | with_reducible apply Engine.view_keeps)
    | exact Engine.zero_canonical
    | with_reducible refine Engine.Canonical.mk ?_ ?_ ?_ ?_ ?_ ?_ ?_ ?_
    | intro _
    | exact id

theorem opAld_keeps  (own : Owners) (e : Engine) (c : Cur) (he : e.Canonical) :
    Engine.Canonical (opAld own e c) := by
  unfold opAld
  try dsimp only
  repeat' first
    | with_reducible assumption
    | with_reducible apply Engine.addLanding_keeps
    | with_reducible apply Engine.reject_keeps
    | with_reducible apply Engine.view_keeps
    | with_reducible apply claimStream_keeps
    | with_reducible apply foldKeys_keeps
    | with_reducible apply needKind_keeps
    | with_reducible apply onRead_keeps
    | with_reducible apply onWrite_keeps
    | with_reducible apply streamStep_keeps
    | with_reducible exact Keeps.eng ‹_› _ _
    | split
    | dsimp only
    | (with_reducible refine Engine.Canonical.spad ?_; first | with_reducible assumption | with_reducible exact Keeps.eng ‹_› _ _ | with_reducible apply streamStep_keeps | with_reducible apply Engine.reject_keeps | with_reducible apply claimStream_keeps | with_reducible apply Engine.addLanding_keeps | with_reducible apply onRead_keeps | with_reducible apply needKind_keeps | with_reducible apply Engine.view_keeps | with_reducible apply onWrite_keeps | with_reducible apply foldKeys_keeps)
    | (with_reducible refine Engine.Canonical.poison ?_; first | with_reducible assumption | with_reducible exact Keeps.eng ‹_› _ _ | with_reducible apply streamStep_keeps | with_reducible apply Engine.reject_keeps | with_reducible apply claimStream_keeps | with_reducible apply Engine.addLanding_keeps | with_reducible apply onRead_keeps | with_reducible apply needKind_keeps | with_reducible apply Engine.view_keeps | with_reducible apply onWrite_keeps | with_reducible apply foldKeys_keeps)
    | (with_reducible refine Engine.Canonical.acc ?_; first | with_reducible assumption | with_reducible exact Keeps.eng ‹_› _ _ | with_reducible apply streamStep_keeps | with_reducible apply Engine.reject_keeps | with_reducible apply claimStream_keeps | with_reducible apply Engine.addLanding_keeps | with_reducible apply onRead_keeps | with_reducible apply needKind_keeps | with_reducible apply Engine.view_keeps | with_reducible apply onWrite_keeps | with_reducible apply foldKeys_keeps)
    | (with_reducible refine Engine.Canonical.vreg ?_; first | with_reducible assumption | with_reducible exact Keeps.eng ‹_› _ _ | with_reducible apply streamStep_keeps | with_reducible apply Engine.reject_keeps | with_reducible apply claimStream_keeps | with_reducible apply Engine.addLanding_keeps | with_reducible apply onRead_keeps | with_reducible apply needKind_keeps | with_reducible apply Engine.view_keeps | with_reducible apply onWrite_keeps | with_reducible apply foldKeys_keeps)
    | (with_reducible refine Engine.Canonical.set0 ?_; first | with_reducible assumption | with_reducible exact Keeps.eng ‹_› _ _ | with_reducible apply streamStep_keeps | with_reducible apply Engine.reject_keeps | with_reducible apply claimStream_keeps | with_reducible apply Engine.addLanding_keeps | with_reducible apply onRead_keeps | with_reducible apply needKind_keeps | with_reducible apply Engine.view_keeps | with_reducible apply onWrite_keeps | with_reducible apply foldKeys_keeps)
    | (with_reducible refine Engine.Canonical.set1 ?_; first | with_reducible assumption | with_reducible exact Keeps.eng ‹_› _ _ | with_reducible apply streamStep_keeps | with_reducible apply Engine.reject_keeps | with_reducible apply claimStream_keeps | with_reducible apply Engine.addLanding_keeps | with_reducible apply onRead_keeps | with_reducible apply needKind_keeps | with_reducible apply Engine.view_keeps | with_reducible apply onWrite_keeps | with_reducible apply foldKeys_keeps)
    | (with_reducible refine Engine.Canonical.tags ?_; first | with_reducible assumption | with_reducible exact Keeps.eng ‹_› _ _ | with_reducible apply streamStep_keeps | with_reducible apply Engine.reject_keeps | with_reducible apply claimStream_keeps | with_reducible apply Engine.addLanding_keeps | with_reducible apply onRead_keeps | with_reducible apply needKind_keeps | with_reducible apply Engine.view_keeps | with_reducible apply onWrite_keeps | with_reducible apply foldKeys_keeps)
    | (with_reducible refine Engine.Canonical.kept ?_; first | with_reducible assumption | with_reducible exact Keeps.eng ‹_› _ _ | with_reducible apply streamStep_keeps | with_reducible apply Engine.reject_keeps | with_reducible apply claimStream_keeps | with_reducible apply Engine.addLanding_keeps | with_reducible apply onRead_keeps | with_reducible apply needKind_keeps | with_reducible apply Engine.view_keeps | with_reducible apply onWrite_keeps | with_reducible apply foldKeys_keeps)
    | exact Engine.zero_canonical
    | with_reducible refine Engine.Canonical.mk ?_ ?_ ?_ ?_ ?_ ?_ ?_ ?_
    | intro _
    | exact id

theorem opAst_keeps  (own : Owners) (e : Engine) (c : Cur) (he : e.Canonical) :
    Engine.Canonical (opAst own e c) := by
  unfold opAst
  try dsimp only
  repeat' first
    | with_reducible assumption
    | with_reducible apply Engine.addLanding_keeps
    | with_reducible apply Engine.reject_keeps
    | with_reducible apply Engine.view_keeps
    | with_reducible apply claimStream_keeps
    | with_reducible apply foldKeys_keeps
    | with_reducible apply needKind_keeps
    | with_reducible apply onRead_keeps
    | with_reducible apply onWrite_keeps
    | with_reducible apply streamStep_keeps
    | with_reducible exact Keeps.eng ‹_› _ _
    | split
    | dsimp only
    | (with_reducible refine Engine.Canonical.spad ?_; first | with_reducible assumption | with_reducible exact Keeps.eng ‹_› _ _ | with_reducible apply streamStep_keeps | with_reducible apply Engine.reject_keeps | with_reducible apply claimStream_keeps | with_reducible apply Engine.addLanding_keeps | with_reducible apply onRead_keeps | with_reducible apply needKind_keeps | with_reducible apply Engine.view_keeps | with_reducible apply onWrite_keeps | with_reducible apply foldKeys_keeps)
    | (with_reducible refine Engine.Canonical.poison ?_; first | with_reducible assumption | with_reducible exact Keeps.eng ‹_› _ _ | with_reducible apply streamStep_keeps | with_reducible apply Engine.reject_keeps | with_reducible apply claimStream_keeps | with_reducible apply Engine.addLanding_keeps | with_reducible apply onRead_keeps | with_reducible apply needKind_keeps | with_reducible apply Engine.view_keeps | with_reducible apply onWrite_keeps | with_reducible apply foldKeys_keeps)
    | (with_reducible refine Engine.Canonical.acc ?_; first | with_reducible assumption | with_reducible exact Keeps.eng ‹_› _ _ | with_reducible apply streamStep_keeps | with_reducible apply Engine.reject_keeps | with_reducible apply claimStream_keeps | with_reducible apply Engine.addLanding_keeps | with_reducible apply onRead_keeps | with_reducible apply needKind_keeps | with_reducible apply Engine.view_keeps | with_reducible apply onWrite_keeps | with_reducible apply foldKeys_keeps)
    | (with_reducible refine Engine.Canonical.vreg ?_; first | with_reducible assumption | with_reducible exact Keeps.eng ‹_› _ _ | with_reducible apply streamStep_keeps | with_reducible apply Engine.reject_keeps | with_reducible apply claimStream_keeps | with_reducible apply Engine.addLanding_keeps | with_reducible apply onRead_keeps | with_reducible apply needKind_keeps | with_reducible apply Engine.view_keeps | with_reducible apply onWrite_keeps | with_reducible apply foldKeys_keeps)
    | (with_reducible refine Engine.Canonical.set0 ?_; first | with_reducible assumption | with_reducible exact Keeps.eng ‹_› _ _ | with_reducible apply streamStep_keeps | with_reducible apply Engine.reject_keeps | with_reducible apply claimStream_keeps | with_reducible apply Engine.addLanding_keeps | with_reducible apply onRead_keeps | with_reducible apply needKind_keeps | with_reducible apply Engine.view_keeps | with_reducible apply onWrite_keeps | with_reducible apply foldKeys_keeps)
    | (with_reducible refine Engine.Canonical.set1 ?_; first | with_reducible assumption | with_reducible exact Keeps.eng ‹_› _ _ | with_reducible apply streamStep_keeps | with_reducible apply Engine.reject_keeps | with_reducible apply claimStream_keeps | with_reducible apply Engine.addLanding_keeps | with_reducible apply onRead_keeps | with_reducible apply needKind_keeps | with_reducible apply Engine.view_keeps | with_reducible apply onWrite_keeps | with_reducible apply foldKeys_keeps)
    | (with_reducible refine Engine.Canonical.tags ?_; first | with_reducible assumption | with_reducible exact Keeps.eng ‹_› _ _ | with_reducible apply streamStep_keeps | with_reducible apply Engine.reject_keeps | with_reducible apply claimStream_keeps | with_reducible apply Engine.addLanding_keeps | with_reducible apply onRead_keeps | with_reducible apply needKind_keeps | with_reducible apply Engine.view_keeps | with_reducible apply onWrite_keeps | with_reducible apply foldKeys_keeps)
    | (with_reducible refine Engine.Canonical.kept ?_; first | with_reducible assumption | with_reducible exact Keeps.eng ‹_› _ _ | with_reducible apply streamStep_keeps | with_reducible apply Engine.reject_keeps | with_reducible apply claimStream_keeps | with_reducible apply Engine.addLanding_keeps | with_reducible apply onRead_keeps | with_reducible apply needKind_keeps | with_reducible apply Engine.view_keeps | with_reducible apply onWrite_keeps | with_reducible apply foldKeys_keeps)
    | exact Engine.zero_canonical
    | with_reducible refine Engine.Canonical.mk ?_ ?_ ?_ ?_ ?_ ?_ ?_ ?_
    | intro _
    | exact id

theorem opXfer_keeps  (kd ks : Nat) (own : Owners) (e : Engine) (c : Cur) (he : e.Canonical) :
    Engine.Canonical (opXfer kd ks own e c) := by
  unfold opXfer
  try dsimp only
  repeat' first
    | with_reducible assumption
    | with_reducible apply Engine.fail_keeps
    | with_reducible apply Engine.reject_keeps
    | with_reducible apply foldKeys_keeps
    | with_reducible apply onAsync_keeps
    | with_reducible exact Keeps.eng ‹_› _ _
    | split
    | dsimp only
    | (with_reducible refine Engine.Canonical.spad ?_; first | with_reducible assumption | with_reducible exact Keeps.eng ‹_› _ _ | with_reducible apply Engine.fail_keeps | with_reducible apply Engine.reject_keeps | with_reducible apply onAsync_keeps | with_reducible apply foldKeys_keeps)
    | (with_reducible refine Engine.Canonical.poison ?_; first | with_reducible assumption | with_reducible exact Keeps.eng ‹_› _ _ | with_reducible apply Engine.fail_keeps | with_reducible apply Engine.reject_keeps | with_reducible apply onAsync_keeps | with_reducible apply foldKeys_keeps)
    | (with_reducible refine Engine.Canonical.acc ?_; first | with_reducible assumption | with_reducible exact Keeps.eng ‹_› _ _ | with_reducible apply Engine.fail_keeps | with_reducible apply Engine.reject_keeps | with_reducible apply onAsync_keeps | with_reducible apply foldKeys_keeps)
    | (with_reducible refine Engine.Canonical.vreg ?_; first | with_reducible assumption | with_reducible exact Keeps.eng ‹_› _ _ | with_reducible apply Engine.fail_keeps | with_reducible apply Engine.reject_keeps | with_reducible apply onAsync_keeps | with_reducible apply foldKeys_keeps)
    | (with_reducible refine Engine.Canonical.set0 ?_; first | with_reducible assumption | with_reducible exact Keeps.eng ‹_› _ _ | with_reducible apply Engine.fail_keeps | with_reducible apply Engine.reject_keeps | with_reducible apply onAsync_keeps | with_reducible apply foldKeys_keeps)
    | (with_reducible refine Engine.Canonical.set1 ?_; first | with_reducible assumption | with_reducible exact Keeps.eng ‹_› _ _ | with_reducible apply Engine.fail_keeps | with_reducible apply Engine.reject_keeps | with_reducible apply onAsync_keeps | with_reducible apply foldKeys_keeps)
    | (with_reducible refine Engine.Canonical.tags ?_; first | with_reducible assumption | with_reducible exact Keeps.eng ‹_› _ _ | with_reducible apply Engine.fail_keeps | with_reducible apply Engine.reject_keeps | with_reducible apply onAsync_keeps | with_reducible apply foldKeys_keeps)
    | (with_reducible refine Engine.Canonical.kept ?_; first | with_reducible assumption | with_reducible exact Keeps.eng ‹_› _ _ | with_reducible apply Engine.fail_keeps | with_reducible apply Engine.reject_keeps | with_reducible apply onAsync_keeps | with_reducible apply foldKeys_keeps)
    | exact Engine.zero_canonical
    | with_reducible refine Engine.Canonical.mk ?_ ?_ ?_ ?_ ?_ ?_ ?_ ?_
    | intro _
    | exact id

theorem opLftr_keeps  (own : Owners) (e : Engine) (c : Cur) (he : e.Canonical) :
    Engine.Canonical (opLftr own e c) := by
  unfold opLftr
  try dsimp only
  repeat' first
    | with_reducible assumption
    | with_reducible apply opXfer_keeps
    | with_reducible exact Keeps.eng ‹_› _ _
    | split
    | dsimp only
    | intro _
    | exact id

theorem opLftw_keeps  (own : Owners) (e : Engine) (c : Cur) (he : e.Canonical) :
    Engine.Canonical (opLftw own e c) := by
  unfold opLftw
  try dsimp only
  repeat' first
    | with_reducible assumption
    | with_reducible apply opXfer_keeps
    | with_reducible exact Keeps.eng ‹_› _ _
    | split
    | dsimp only
    | intro _
    | exact id

theorem opXput_keeps  (own : Owners) (e : Engine) (c : Cur) (he : e.Canonical) :
    Engine.Canonical (opXput own e c) := by
  unfold opXput
  try dsimp only
  repeat' first
    | with_reducible assumption
    | with_reducible apply opXfer_keeps
    | with_reducible exact Keeps.eng ‹_› _ _
    | split
    | dsimp only
    | intro _
    | exact id

theorem opXget_keeps  (own : Owners) (e : Engine) (c : Cur) (he : e.Canonical) :
    Engine.Canonical (opXget own e c) := by
  unfold opXget
  try dsimp only
  repeat' first
    | with_reducible assumption
    | with_reducible apply opXfer_keeps
    | with_reducible exact Keeps.eng ‹_› _ _
    | split
    | dsimp only
    | intro _
    | exact id

theorem Engine.setAgen_keeps  (e : Engine) (a : AgenWrite) (he : e.Canonical) :
    Engine.Canonical (Engine.setAgen e a) := by
  unfold Engine.setAgen
  try dsimp only
  repeat' first
    | with_reducible assumption
    | with_reducible apply Engine.withRun_keeps
    | with_reducible exact Keeps.eng ‹_› _ _
    | split
    | dsimp only
    | (with_reducible refine Engine.Canonical.spad ?_; first | with_reducible assumption | with_reducible exact Keeps.eng ‹_› _ _ | with_reducible apply Engine.withRun_keeps)
    | (with_reducible refine Engine.Canonical.poison ?_; first | with_reducible assumption | with_reducible exact Keeps.eng ‹_› _ _ | with_reducible apply Engine.withRun_keeps)
    | (with_reducible refine Engine.Canonical.acc ?_; first | with_reducible assumption | with_reducible exact Keeps.eng ‹_› _ _ | with_reducible apply Engine.withRun_keeps)
    | (with_reducible refine Engine.Canonical.vreg ?_; first | with_reducible assumption | with_reducible exact Keeps.eng ‹_› _ _ | with_reducible apply Engine.withRun_keeps)
    | (with_reducible refine Engine.Canonical.set0 ?_; first | with_reducible assumption | with_reducible exact Keeps.eng ‹_› _ _ | with_reducible apply Engine.withRun_keeps)
    | (with_reducible refine Engine.Canonical.set1 ?_; first | with_reducible assumption | with_reducible exact Keeps.eng ‹_› _ _ | with_reducible apply Engine.withRun_keeps)
    | (with_reducible refine Engine.Canonical.tags ?_; first | with_reducible assumption | with_reducible exact Keeps.eng ‹_› _ _ | with_reducible apply Engine.withRun_keeps)
    | (with_reducible refine Engine.Canonical.kept ?_; first | with_reducible assumption | with_reducible exact Keeps.eng ‹_› _ _ | with_reducible apply Engine.withRun_keeps)
    | exact Engine.zero_canonical
    | with_reducible refine Engine.Canonical.mk ?_ ?_ ?_ ?_ ?_ ?_ ?_ ?_
    | intro _
    | exact id

theorem streamFree_keeps  (e : Engine) (i : Nat) (c : Cur) (he : e.Canonical) :
    Engine.Canonical (streamFree e i c) := by
  unfold streamFree
  try dsimp only
  repeat' first
    | with_reducible assumption
    | with_reducible apply Engine.fail_keeps
    | with_reducible exact Keeps.eng ‹_› _ _
    | split
    | dsimp only
    | (with_reducible refine Engine.Canonical.spad ?_; first | with_reducible assumption | with_reducible exact Keeps.eng ‹_› _ _ | with_reducible apply Engine.fail_keeps)
    | (with_reducible refine Engine.Canonical.poison ?_; first | with_reducible assumption | with_reducible exact Keeps.eng ‹_› _ _ | with_reducible apply Engine.fail_keeps)
    | (with_reducible refine Engine.Canonical.acc ?_; first | with_reducible assumption | with_reducible exact Keeps.eng ‹_› _ _ | with_reducible apply Engine.fail_keeps)
    | (with_reducible refine Engine.Canonical.vreg ?_; first | with_reducible assumption | with_reducible exact Keeps.eng ‹_› _ _ | with_reducible apply Engine.fail_keeps)
    | (with_reducible refine Engine.Canonical.set0 ?_; first | with_reducible assumption | with_reducible exact Keeps.eng ‹_› _ _ | with_reducible apply Engine.fail_keeps)
    | (with_reducible refine Engine.Canonical.set1 ?_; first | with_reducible assumption | with_reducible exact Keeps.eng ‹_› _ _ | with_reducible apply Engine.fail_keeps)
    | (with_reducible refine Engine.Canonical.tags ?_; first | with_reducible assumption | with_reducible exact Keeps.eng ‹_› _ _ | with_reducible apply Engine.fail_keeps)
    | (with_reducible refine Engine.Canonical.kept ?_; first | with_reducible assumption | with_reducible exact Keeps.eng ‹_› _ _ | with_reducible apply Engine.fail_keeps)
    | exact Engine.zero_canonical
    | with_reducible refine Engine.Canonical.mk ?_ ?_ ?_ ?_ ?_ ?_ ?_ ?_
    | intro _
    | exact id

theorem opAset_keeps  (e : Engine) (c : Cur) (he : e.Canonical) :
    Engine.Canonical (opAset e c) := by
  unfold opAset
  try dsimp only
  repeat' first
    | with_reducible assumption
    | with_reducible apply Engine.setAgen_keeps
    | with_reducible apply streamFree_keeps
    | with_reducible exact Keeps.eng ‹_› _ _
    | split
    | dsimp only
    | intro _
    | exact id

theorem opAbase_keeps  (e : Engine) (c : Cur) (he : e.Canonical) :
    Engine.Canonical (opAbase e c) := by
  unfold opAbase
  try dsimp only
  repeat' first
    | with_reducible assumption
    | with_reducible apply Engine.setAgen_keeps
    | with_reducible apply streamFree_keeps
    | with_reducible exact Keeps.eng ‹_› _ _
    | split
    | dsimp only
    | intro _
    | exact id

theorem opArst_keeps  (e : Engine) (c : Cur) (he : e.Canonical) :
    Engine.Canonical (opArst e c) := by
  unfold opArst
  try dsimp only
  repeat' first
    | with_reducible assumption
    | with_reducible apply Engine.setAgen_keeps
    | with_reducible apply streamFree_keeps
    | with_reducible exact Keeps.eng ‹_› _ _
    | split
    | dsimp only
    | intro _
    | exact id

theorem opSldi_keeps  (e : Engine) (c : Cur) (he : e.Canonical) :
    Engine.Canonical (opSldi e c) := by
  unfold opSldi
  try dsimp only
  repeat' first
    | with_reducible assumption
    | with_reducible apply Engine.setAgen_keeps
    | with_reducible exact Keeps.eng ‹_› _ _
    | split
    | dsimp only
    | intro _
    | exact id

theorem opSaddi_keeps  (e : Engine) (c : Cur) (he : e.Canonical) :
    Engine.Canonical (opSaddi e c) := by
  unfold opSaddi
  try dsimp only
  repeat' first
    | with_reducible assumption
    | with_reducible apply Engine.setAgen_keeps
    | with_reducible exact Keeps.eng ‹_› _ _
    | split
    | dsimp only
    | intro _
    | exact id

theorem opSadd_keeps  (e : Engine) (c : Cur) (he : e.Canonical) :
    Engine.Canonical (opSadd e c) := by
  unfold opSadd
  try dsimp only
  repeat' first
    | with_reducible assumption
    | with_reducible apply Engine.setAgen_keeps
    | with_reducible exact Keeps.eng ‹_› _ _
    | split
    | dsimp only
    | intro _
    | exact id

theorem opSshl_keeps  (e : Engine) (c : Cur) (he : e.Canonical) :
    Engine.Canonical (opSshl e c) := by
  unfold opSshl
  try dsimp only
  repeat' first
    | with_reducible assumption
    | with_reducible apply Engine.setAgen_keeps
    | with_reducible exact Keeps.eng ‹_› _ _
    | split
    | dsimp only
    | intro _
    | exact id

theorem claimLane_keeps  (a b : Nat) (e : Engine) (c : Cur) (he : e.Canonical) :
    Engine.Canonical (claimLane a b e c) := by
  unfold claimLane
  try dsimp only
  repeat' first
    | with_reducible assumption
    | with_reducible apply Engine.fail_keeps
    | with_reducible apply Engine.withRun_keeps
    | with_reducible apply foldl_engine
    | with_reducible apply foldl_fst_engine
    | with_reducible apply mwf_foldl
    | with_reducible exact Keeps.eng ‹_› _ _
    | split
    | dsimp only
    | (with_reducible refine Engine.Canonical.spad ?_; first | with_reducible assumption | with_reducible exact Keeps.eng ‹_› _ _ | with_reducible apply foldl_engine | with_reducible apply Engine.fail_keeps | with_reducible apply Engine.withRun_keeps)
    | (with_reducible refine Engine.Canonical.poison ?_; first | with_reducible assumption | with_reducible exact Keeps.eng ‹_› _ _ | with_reducible apply foldl_engine | with_reducible apply Engine.fail_keeps | with_reducible apply Engine.withRun_keeps)
    | (with_reducible refine Engine.Canonical.acc ?_; first | with_reducible assumption | with_reducible exact Keeps.eng ‹_› _ _ | with_reducible apply foldl_engine | with_reducible apply Engine.fail_keeps | with_reducible apply Engine.withRun_keeps)
    | (with_reducible refine Engine.Canonical.vreg ?_; first | with_reducible assumption | with_reducible exact Keeps.eng ‹_› _ _ | with_reducible apply foldl_engine | with_reducible apply Engine.fail_keeps | with_reducible apply Engine.withRun_keeps)
    | (with_reducible refine Engine.Canonical.set0 ?_; first | with_reducible assumption | with_reducible exact Keeps.eng ‹_› _ _ | with_reducible apply foldl_engine | with_reducible apply Engine.fail_keeps | with_reducible apply Engine.withRun_keeps)
    | (with_reducible refine Engine.Canonical.set1 ?_; first | with_reducible assumption | with_reducible exact Keeps.eng ‹_› _ _ | with_reducible apply foldl_engine | with_reducible apply Engine.fail_keeps | with_reducible apply Engine.withRun_keeps)
    | (with_reducible refine Engine.Canonical.tags ?_; first | with_reducible assumption | with_reducible exact Keeps.eng ‹_› _ _ | with_reducible apply foldl_engine | with_reducible apply Engine.fail_keeps | with_reducible apply Engine.withRun_keeps)
    | (with_reducible refine Engine.Canonical.kept ?_; first | with_reducible assumption | with_reducible exact Keeps.eng ‹_› _ _ | with_reducible apply foldl_engine | with_reducible apply Engine.fail_keeps | with_reducible apply Engine.withRun_keeps)
    | exact Engine.zero_canonical
    | with_reducible refine Engine.Canonical.mk ?_ ?_ ?_ ?_ ?_ ?_ ?_ ?_
    | intro _
    | exact id

theorem opRdrain_keeps  (e : Engine) (c : Cur) (he : e.Canonical) :
    Engine.Canonical (opRdrain e c) := by
  unfold opRdrain
  try dsimp only
  repeat' first
    | with_reducible assumption
    | with_reducible apply claimLane_keeps
    | with_reducible exact Keeps.eng ‹_› _ _
    | split
    | dsimp only
    | intro _
    | exact id

theorem opRvec_keeps  (e : Engine) (c : Cur) (he : e.Canonical) :
    Engine.Canonical (opRvec e c) := by
  unfold opRvec
  try dsimp only
  repeat' first
    | with_reducible assumption
    | with_reducible apply claimLane_keeps
    | with_reducible exact Keeps.eng ‹_› _ _
    | split
    | dsimp only
    | intro _
    | exact id

theorem opRraw_keeps  (e : Engine) (c : Cur) (he : e.Canonical) :
    Engine.Canonical (opRraw e c) := by
  unfold opRraw
  try dsimp only
  repeat' first
    | with_reducible assumption
    | with_reducible apply claimLane_keeps
    | with_reducible exact Keeps.eng ‹_› _ _
    | split
    | dsimp only
    | intro _
    | exact id

theorem opEnd_keeps  (e : Engine) (c : Cur) (he : e.Canonical) :
    Engine.Canonical (opEnd e c) := by
  unfold opEnd
  try dsimp only
  repeat' first
    | with_reducible assumption
    | with_reducible apply Engine.commitTo_keeps
    | with_reducible apply Engine.fail_keeps
    | with_reducible apply ended_keeps
    | with_reducible apply settleBanks_keeps
    | with_reducible apply settleFails_keeps
    | with_reducible apply foldl_engine
    | with_reducible apply foldl_fst_engine
    | with_reducible apply mwf_foldl
    | with_reducible exact Keeps.eng ‹_› _ _
    | split
    | dsimp only
    | (with_reducible refine Engine.Canonical.spad ?_; first | with_reducible assumption | with_reducible exact Keeps.eng ‹_› _ _ | with_reducible apply foldl_engine | with_reducible apply Engine.commitTo_keeps | with_reducible apply Engine.fail_keeps | with_reducible apply settleBanks_keeps | with_reducible apply settleFails_keeps)
    | (with_reducible refine Engine.Canonical.poison ?_; first | with_reducible assumption | with_reducible exact Keeps.eng ‹_› _ _ | with_reducible apply foldl_engine | with_reducible apply Engine.commitTo_keeps | with_reducible apply Engine.fail_keeps | with_reducible apply settleBanks_keeps | with_reducible apply settleFails_keeps)
    | (with_reducible refine Engine.Canonical.acc ?_; first | with_reducible assumption | with_reducible exact Keeps.eng ‹_› _ _ | with_reducible apply foldl_engine | with_reducible apply Engine.commitTo_keeps | with_reducible apply Engine.fail_keeps | with_reducible apply settleBanks_keeps | with_reducible apply settleFails_keeps)
    | (with_reducible refine Engine.Canonical.vreg ?_; first | with_reducible assumption | with_reducible exact Keeps.eng ‹_› _ _ | with_reducible apply foldl_engine | with_reducible apply Engine.commitTo_keeps | with_reducible apply Engine.fail_keeps | with_reducible apply settleBanks_keeps | with_reducible apply settleFails_keeps)
    | (with_reducible refine Engine.Canonical.set0 ?_; first | with_reducible assumption | with_reducible exact Keeps.eng ‹_› _ _ | with_reducible apply foldl_engine | with_reducible apply Engine.commitTo_keeps | with_reducible apply Engine.fail_keeps | with_reducible apply settleBanks_keeps | with_reducible apply settleFails_keeps)
    | (with_reducible refine Engine.Canonical.set1 ?_; first | with_reducible assumption | with_reducible exact Keeps.eng ‹_› _ _ | with_reducible apply foldl_engine | with_reducible apply Engine.commitTo_keeps | with_reducible apply Engine.fail_keeps | with_reducible apply settleBanks_keeps | with_reducible apply settleFails_keeps)
    | (with_reducible refine Engine.Canonical.tags ?_; first | with_reducible assumption | with_reducible exact Keeps.eng ‹_› _ _ | with_reducible apply foldl_engine | with_reducible apply Engine.commitTo_keeps | with_reducible apply Engine.fail_keeps | with_reducible apply settleBanks_keeps | with_reducible apply settleFails_keeps)
    | (with_reducible refine Engine.Canonical.kept ?_; first | with_reducible assumption | with_reducible exact Keeps.eng ‹_› _ _ | with_reducible apply foldl_engine | with_reducible apply Engine.commitTo_keeps | with_reducible apply Engine.fail_keeps | with_reducible apply settleBanks_keeps | with_reducible apply settleFails_keeps)
    | exact Engine.zero_canonical
    | with_reducible refine Engine.Canonical.mk ?_ ?_ ?_ ?_ ?_ ?_ ?_ ?_
    | intro _
    | exact id

theorem opSkip_keeps  (e : Engine) (_c : Cur) (he : e.Canonical) :
    Engine.Canonical (opSkip e _c) := by
  unfold opSkip
  try dsimp only
  repeat' first
    | with_reducible assumption
    | with_reducible exact Keeps.eng ‹_› _ _
    | split
    | dsimp only
    | intro _
    | exact id

theorem opLoop_keeps  (e : Engine) (c : Cur) (he : e.Canonical) :
    Engine.Canonical (opLoop e c) := by
  unfold opLoop
  try dsimp only
  repeat' first
    | with_reducible assumption
    | with_reducible apply Engine.reject_keeps
    | with_reducible apply Engine.withRun_keeps
    | with_reducible exact Keeps.eng ‹_› _ _
    | split
    | dsimp only
    | (with_reducible refine Engine.Canonical.spad ?_; first | with_reducible assumption | with_reducible exact Keeps.eng ‹_› _ _ | with_reducible apply Engine.reject_keeps | with_reducible apply Engine.withRun_keeps)
    | (with_reducible refine Engine.Canonical.poison ?_; first | with_reducible assumption | with_reducible exact Keeps.eng ‹_› _ _ | with_reducible apply Engine.reject_keeps | with_reducible apply Engine.withRun_keeps)
    | (with_reducible refine Engine.Canonical.acc ?_; first | with_reducible assumption | with_reducible exact Keeps.eng ‹_› _ _ | with_reducible apply Engine.reject_keeps | with_reducible apply Engine.withRun_keeps)
    | (with_reducible refine Engine.Canonical.vreg ?_; first | with_reducible assumption | with_reducible exact Keeps.eng ‹_› _ _ | with_reducible apply Engine.reject_keeps | with_reducible apply Engine.withRun_keeps)
    | (with_reducible refine Engine.Canonical.set0 ?_; first | with_reducible assumption | with_reducible exact Keeps.eng ‹_› _ _ | with_reducible apply Engine.reject_keeps | with_reducible apply Engine.withRun_keeps)
    | (with_reducible refine Engine.Canonical.set1 ?_; first | with_reducible assumption | with_reducible exact Keeps.eng ‹_› _ _ | with_reducible apply Engine.reject_keeps | with_reducible apply Engine.withRun_keeps)
    | (with_reducible refine Engine.Canonical.tags ?_; first | with_reducible assumption | with_reducible exact Keeps.eng ‹_› _ _ | with_reducible apply Engine.reject_keeps | with_reducible apply Engine.withRun_keeps)
    | (with_reducible refine Engine.Canonical.kept ?_; first | with_reducible assumption | with_reducible exact Keeps.eng ‹_› _ _ | with_reducible apply Engine.reject_keeps | with_reducible apply Engine.withRun_keeps)
    | exact Engine.zero_canonical
    | with_reducible refine Engine.Canonical.mk ?_ ?_ ?_ ?_ ?_ ?_ ?_ ?_
    | intro _
    | exact id

theorem clearFlag_keeps  (e : Engine) (w : Wait) (he : e.Canonical) :
    Engine.Canonical (clearFlag e w) := by
  unfold clearFlag
  try dsimp only
  repeat' first
    | with_reducible assumption
    | with_reducible exact Keeps.eng ‹_› _ _
    | split
    | dsimp only
    | (with_reducible refine Engine.Canonical.spad ?_; first | with_reducible assumption | with_reducible exact Keeps.eng ‹_› _ _)
    | (with_reducible refine Engine.Canonical.poison ?_; first | with_reducible assumption | with_reducible exact Keeps.eng ‹_› _ _)
    | (with_reducible refine Engine.Canonical.acc ?_; first | with_reducible assumption | with_reducible exact Keeps.eng ‹_› _ _)
    | (with_reducible refine Engine.Canonical.vreg ?_; first | with_reducible assumption | with_reducible exact Keeps.eng ‹_› _ _)
    | (with_reducible refine Engine.Canonical.set0 ?_; first | with_reducible assumption | with_reducible exact Keeps.eng ‹_› _ _)
    | (with_reducible refine Engine.Canonical.set1 ?_; first | with_reducible assumption | with_reducible exact Keeps.eng ‹_› _ _)
    | (with_reducible refine Engine.Canonical.tags ?_; first | with_reducible assumption | with_reducible exact Keeps.eng ‹_› _ _)
    | (with_reducible refine Engine.Canonical.kept ?_; first | with_reducible assumption | with_reducible exact Keeps.eng ‹_› _ _)
    | exact Engine.zero_canonical
    | with_reducible refine Engine.Canonical.mk ?_ ?_ ?_ ?_ ?_ ?_ ?_ ?_
    | intro _
    | exact id

theorem opWait_keeps  (isTag : Bool) (e : Engine) (c : Cur) (he : e.Canonical) :
    Engine.Canonical (opWait isTag e c) := by
  unfold opWait
  try dsimp only
  repeat' first
    | with_reducible assumption
    | with_reducible apply Engine.release_keeps
    | with_reducible apply Engine.withRun_keeps
    | with_reducible apply clearFlag_keeps
    | with_reducible exact Keeps.eng ‹_› _ _
    | split
    | dsimp only
    | (with_reducible refine Engine.Canonical.spad ?_; first | with_reducible assumption | with_reducible exact Keeps.eng ‹_› _ _ | with_reducible apply clearFlag_keeps | with_reducible apply Engine.withRun_keeps | with_reducible apply Engine.release_keeps)
    | (with_reducible refine Engine.Canonical.poison ?_; first | with_reducible assumption | with_reducible exact Keeps.eng ‹_› _ _ | with_reducible apply clearFlag_keeps | with_reducible apply Engine.withRun_keeps | with_reducible apply Engine.release_keeps)
    | (with_reducible refine Engine.Canonical.acc ?_; first | with_reducible assumption | with_reducible exact Keeps.eng ‹_› _ _ | with_reducible apply clearFlag_keeps | with_reducible apply Engine.withRun_keeps | with_reducible apply Engine.release_keeps)
    | (with_reducible refine Engine.Canonical.vreg ?_; first | with_reducible assumption | with_reducible exact Keeps.eng ‹_› _ _ | with_reducible apply clearFlag_keeps | with_reducible apply Engine.withRun_keeps | with_reducible apply Engine.release_keeps)
    | (with_reducible refine Engine.Canonical.set0 ?_; first | with_reducible assumption | with_reducible exact Keeps.eng ‹_› _ _ | with_reducible apply clearFlag_keeps | with_reducible apply Engine.withRun_keeps | with_reducible apply Engine.release_keeps)
    | (with_reducible refine Engine.Canonical.set1 ?_; first | with_reducible assumption | with_reducible exact Keeps.eng ‹_› _ _ | with_reducible apply clearFlag_keeps | with_reducible apply Engine.withRun_keeps | with_reducible apply Engine.release_keeps)
    | (with_reducible refine Engine.Canonical.tags ?_; first | with_reducible assumption | with_reducible exact Keeps.eng ‹_› _ _ | with_reducible apply clearFlag_keeps | with_reducible apply Engine.withRun_keeps | with_reducible apply Engine.release_keeps)
    | (with_reducible refine Engine.Canonical.kept ?_; first | with_reducible assumption | with_reducible exact Keeps.eng ‹_› _ _ | with_reducible apply clearFlag_keeps | with_reducible apply Engine.withRun_keeps | with_reducible apply Engine.release_keeps)
    | exact Engine.zero_canonical
    | with_reducible refine Engine.Canonical.mk ?_ ?_ ?_ ?_ ?_ ?_ ?_ ?_
    | intro _
    | exact id

theorem opWaitt_keeps  (e : Engine) (c : Cur) (he : e.Canonical) :
    Engine.Canonical (opWaitt e c) := by
  unfold opWaitt
  try dsimp only
  repeat' first
    | with_reducible assumption
    | with_reducible apply opWait_keeps
    | with_reducible exact Keeps.eng ‹_› _ _
    | split
    | dsimp only
    | intro _
    | exact id

theorem opWaite_keeps  (e : Engine) (c : Cur) (he : e.Canonical) :
    Engine.Canonical (opWaite e c) := by
  unfold opWaite
  try dsimp only
  repeat' first
    | with_reducible assumption
    | with_reducible apply opWait_keeps
    | with_reducible exact Keeps.eng ‹_› _ _
    | split
    | dsimp only
    | intro _
    | exact id

theorem opSige_keeps  (e : Engine) (c : Cur) (he : e.Canonical) :
    Engine.Canonical (opSige e c) := by
  unfold opSige
  try dsimp only
  repeat' first
    | with_reducible assumption
    | with_reducible exact Keeps.eng ‹_› _ _
    | split
    | dsimp only
    | (with_reducible refine Engine.Canonical.spad ?_; first | with_reducible assumption | with_reducible exact Keeps.eng ‹_› _ _)
    | (with_reducible refine Engine.Canonical.poison ?_; first | with_reducible assumption | with_reducible exact Keeps.eng ‹_› _ _)
    | (with_reducible refine Engine.Canonical.acc ?_; first | with_reducible assumption | with_reducible exact Keeps.eng ‹_› _ _)
    | (with_reducible refine Engine.Canonical.vreg ?_; first | with_reducible assumption | with_reducible exact Keeps.eng ‹_› _ _)
    | (with_reducible refine Engine.Canonical.set0 ?_; first | with_reducible assumption | with_reducible exact Keeps.eng ‹_› _ _)
    | (with_reducible refine Engine.Canonical.set1 ?_; first | with_reducible assumption | with_reducible exact Keeps.eng ‹_› _ _)
    | (with_reducible refine Engine.Canonical.tags ?_; first | with_reducible assumption | with_reducible exact Keeps.eng ‹_› _ _)
    | (with_reducible refine Engine.Canonical.kept ?_; first | with_reducible assumption | with_reducible exact Keeps.eng ‹_› _ _)
    | exact Engine.zero_canonical
    | with_reducible refine Engine.Canonical.mk ?_ ?_ ?_ ?_ ?_ ?_ ?_ ?_
    | intro _
    | exact id

theorem waitStep_keeps  (isTag : Bool) (op : Nat) (e : Engine) (he : e.Canonical) :
    Engine.Canonical (waitStep isTag op e) := by
  unfold waitStep
  try dsimp only
  repeat' first
    | with_reducible assumption
    | with_reducible apply State.advance_keeps
    | with_reducible apply advance_keeps
    | with_reducible apply opWait_keeps
    | with_reducible exact Keeps.eng ‹_› _ _
    | split
    | dsimp only
    | (with_reducible refine Engine.Canonical.spad ?_; first | with_reducible assumption | with_reducible exact Keeps.eng ‹_› _ _ | with_reducible apply opWait_keeps | with_reducible apply advance_keeps)
    | (with_reducible refine Engine.Canonical.poison ?_; first | with_reducible assumption | with_reducible exact Keeps.eng ‹_› _ _ | with_reducible apply opWait_keeps | with_reducible apply advance_keeps)
    | (with_reducible refine Engine.Canonical.acc ?_; first | with_reducible assumption | with_reducible exact Keeps.eng ‹_› _ _ | with_reducible apply opWait_keeps | with_reducible apply advance_keeps)
    | (with_reducible refine Engine.Canonical.vreg ?_; first | with_reducible assumption | with_reducible exact Keeps.eng ‹_› _ _ | with_reducible apply opWait_keeps | with_reducible apply advance_keeps)
    | (with_reducible refine Engine.Canonical.set0 ?_; first | with_reducible assumption | with_reducible exact Keeps.eng ‹_› _ _ | with_reducible apply opWait_keeps | with_reducible apply advance_keeps)
    | (with_reducible refine Engine.Canonical.set1 ?_; first | with_reducible assumption | with_reducible exact Keeps.eng ‹_› _ _ | with_reducible apply opWait_keeps | with_reducible apply advance_keeps)
    | (with_reducible refine Engine.Canonical.tags ?_; first | with_reducible assumption | with_reducible exact Keeps.eng ‹_› _ _ | with_reducible apply opWait_keeps | with_reducible apply advance_keeps)
    | (with_reducible refine Engine.Canonical.kept ?_; first | with_reducible assumption | with_reducible exact Keeps.eng ‹_› _ _ | with_reducible apply opWait_keeps | with_reducible apply advance_keeps)
    | exact Engine.zero_canonical
    | with_reducible refine Engine.Canonical.mk ?_ ?_ ?_ ?_ ?_ ?_ ?_ ?_
    | intro _
    | exact id

theorem waitRelease_keeps  (n : Nat) (e : Engine) (he : e.Canonical) :
    Engine.Canonical (waitRelease n e) := by
  unfold waitRelease
  try dsimp only
  repeat' first
    | with_reducible assumption
    | with_reducible apply Engine.release_keeps
    | with_reducible apply Engine.withRun_keeps
    | with_reducible apply State.advance_keeps
    | with_reducible apply advance_keeps
    | with_reducible apply clearFlag_keeps
    | with_reducible exact Keeps.eng ‹_› _ _
    | split
    | dsimp only
    | (with_reducible refine Engine.Canonical.spad ?_; first | with_reducible assumption | with_reducible exact Keeps.eng ‹_› _ _ | with_reducible apply clearFlag_keeps | with_reducible apply advance_keeps | with_reducible apply Engine.withRun_keeps | with_reducible apply Engine.release_keeps)
    | (with_reducible refine Engine.Canonical.poison ?_; first | with_reducible assumption | with_reducible exact Keeps.eng ‹_› _ _ | with_reducible apply clearFlag_keeps | with_reducible apply advance_keeps | with_reducible apply Engine.withRun_keeps | with_reducible apply Engine.release_keeps)
    | (with_reducible refine Engine.Canonical.acc ?_; first | with_reducible assumption | with_reducible exact Keeps.eng ‹_› _ _ | with_reducible apply clearFlag_keeps | with_reducible apply advance_keeps | with_reducible apply Engine.withRun_keeps | with_reducible apply Engine.release_keeps)
    | (with_reducible refine Engine.Canonical.vreg ?_; first | with_reducible assumption | with_reducible exact Keeps.eng ‹_› _ _ | with_reducible apply clearFlag_keeps | with_reducible apply advance_keeps | with_reducible apply Engine.withRun_keeps | with_reducible apply Engine.release_keeps)
    | (with_reducible refine Engine.Canonical.set0 ?_; first | with_reducible assumption | with_reducible exact Keeps.eng ‹_› _ _ | with_reducible apply clearFlag_keeps | with_reducible apply advance_keeps | with_reducible apply Engine.withRun_keeps | with_reducible apply Engine.release_keeps)
    | (with_reducible refine Engine.Canonical.set1 ?_; first | with_reducible assumption | with_reducible exact Keeps.eng ‹_› _ _ | with_reducible apply clearFlag_keeps | with_reducible apply advance_keeps | with_reducible apply Engine.withRun_keeps | with_reducible apply Engine.release_keeps)
    | (with_reducible refine Engine.Canonical.tags ?_; first | with_reducible assumption | with_reducible exact Keeps.eng ‹_› _ _ | with_reducible apply clearFlag_keeps | with_reducible apply advance_keeps | with_reducible apply Engine.withRun_keeps | with_reducible apply Engine.release_keeps)
    | (with_reducible refine Engine.Canonical.kept ?_; first | with_reducible assumption | with_reducible exact Keeps.eng ‹_› _ _ | with_reducible apply clearFlag_keeps | with_reducible apply advance_keeps | with_reducible apply Engine.withRun_keeps | with_reducible apply Engine.release_keeps)
    | exact Engine.zero_canonical
    | with_reducible refine Engine.Canonical.mk ?_ ?_ ?_ ?_ ?_ ?_ ?_ ?_
    | intro _
    | exact id

end Sys2Proof.Machine
end

