-- ==== Sys2Proof/Laws/KeepsFabOps.lean ====
section
/-! SUPPORT. What each operation of Machine/FabOps.lean keeps (Laws/Keeps.lean). -/

namespace Sys2Proof.Machine

theorem State.setPortFld_keeps {q : List Instr} {n : Nat} {o : List Output} {s : State} (p lo w v : Nat) (h : Keeps q n o s) :
    Keeps q n o (State.setPortFld s p lo w v) := by
  unfold State.setPortFld
  try dsimp only
  repeat' first
    | with_reducible assumption
    | with_reducible apply State.setFld_keeps
    | split
    | dsimp only
    | intro _
    | exact id

theorem State.setPortX_keeps {q : List Instr} {n : Nat} {o : List Output} {s : State} (p : Nat) (x : PortX) (h : Keeps q n o s) :
    Keeps q n o (State.setPortX s p x) := by
  unfold State.setPortX
  try dsimp only
  repeat' first
    | with_reducible assumption
    | with_reducible apply State.onFab_keeps
    | with_reducible apply mwf_mset
    | split
    | dsimp only
    | intro _
    | exact id

theorem State.setBayKeys_keeps {q : List Instr} {n : Nat} {o : List Output} {s : State} (b : Nat) (k : BayKeys) (h : Keeps q n o s) :
    Keeps q n o (State.setBayKeys s b k) := by
  unfold State.setBayKeys
  try dsimp only
  repeat' first
    | with_reducible assumption
    | with_reducible apply State.onSec_keeps
    | with_reducible apply mwf_mset
    | split
    | dsimp only
    | intro _
    | exact id

theorem State.lapseNonce_keeps {q : List Instr} {n : Nat} {o : List Output} {s : State} (b : Nat) (h : Keeps q n o s) :
    Keeps q n o (State.lapseNonce s b) := by
  unfold State.lapseNonce
  try dsimp only
  repeat' first
    | with_reducible assumption
    | with_reducible apply State.setBayKeys_keeps
    | with_reducible apply State.setFld_keeps
    | split
    | dsimp only
    | intro _
    | exact id

theorem State.portPut_keeps {q : List Instr} {n : Nat} {o : List Output} {s : State} (p : Nat) (bs : List Byte) (h : Keeps q n o s) :
    Keeps q n o (State.portPut s p bs) := by
  unfold State.portPut
  try dsimp only
  repeat' first
    | with_reducible assumption
    | with_reducible apply State.emit_keeps
    | with_reducible apply State.setPortX_keeps
    | split
    | dsimp only
    | intro _
    | exact id

theorem State.setReq_keeps {q : List Instr} {n : Nat} {o : List Output} {s : State} (r : FabReq) (h : Keeps q n o s) :
    Keeps q n o (State.setReq s r) := by
  unfold State.setReq
  try dsimp only
  repeat' first
    | with_reducible assumption
    | with_reducible apply State.onFab_keeps
    | split
    | dsimp only
    | intro _
    | exact id

theorem State.endReq_keeps {q : List Instr} {n : Nat} {o : List Output} {s : State} (r : FabReq) (st d1 : Nat) (data : List Byte) (h : Keeps q n o s) :
    Keeps q n o (State.endReq s r st d1 data) := by
  unfold State.endReq
  try dsimp only
  repeat' first
    | with_reducible assumption
    | with_reducible apply State.setReq_keeps
    | with_reducible apply ended_keeps
    | split
    | dsimp only
    | intro _
    | exact id

theorem State.transmit_keeps {q : List Instr} {n : Nat} {o : List Output} {s : State} (r : FabReq) (h : Keeps q n o s) :
    Keeps q n o (State.transmit s r) := by
  unfold State.transmit
  try dsimp only
  repeat' first
    | with_reducible assumption
    | with_reducible apply State.count64_keeps
    | with_reducible apply State.count_keeps
    | with_reducible apply State.endReq_keeps
    | with_reducible apply State.portPut_keeps
    | with_reducible apply State.setReq_keeps
    | split
    | dsimp only
    | intro _
    | exact id

theorem State.remote_keeps {q : List Instr} {n : Nat} {o : List Output} {s : State} (owner : FabFor) (b dev dbay kind addr : Nat) (data : List Byte) (len : Nat) (last : Bool) (h : Keeps q n o s) :
    Keeps q n o (State.remote s owner b dev dbay kind addr data len last) := by
  unfold State.remote
  try dsimp only
  repeat' first
    | with_reducible assumption
    | with_reducible apply State.endReq_keeps
    | with_reducible apply State.onFab_keeps
    | with_reducible apply State.setFld_keeps
    | with_reducible apply State.setReg_keeps
    | with_reducible apply State.transmit_keeps
    | split
    | dsimp only
    | intro _
    | exact id

theorem State.retryWaiting_keeps {q : List Instr} {n : Nat} {o : List Output} {s : State} (h : Keeps q n o s) :
    Keeps q n o (State.retryWaiting s) := by
  unfold State.retryWaiting
  try dsimp only
  repeat' first
    | with_reducible assumption
    | with_reducible apply State.forAll_keeps
    | with_reducible apply State.transmit_keeps
    | split
    | dsimp only
    | intro _
    | exact id

theorem State.remoteWrite_keeps {q : List Instr} {n : Nat} {o : List Output} {s : State} (owner : FabFor) (b dev dbay addr : Nat) (bs : List Byte) (h : Keeps q n o s) :
    Keeps q n o (State.remoteWrite s owner b dev dbay addr bs) := by
  unfold State.remoteWrite
  try dsimp only
  repeat' first
    | with_reducible assumption
    | with_reducible apply State.forAll_keeps
    | with_reducible apply State.remote_keeps
    | split
    | dsimp only
    | intro _
    | exact id

theorem State.remoteSignal_keeps {q : List Instr} {n : Nat} {o : List Output} {s : State} (owner : FabFor) (b dev dbay e op v : Nat) (h : Keeps q n o s) :
    Keeps q n o (State.remoteSignal s owner b dev dbay e op v) := by
  unfold State.remoteSignal
  try dsimp only
  repeat' first
    | with_reducible assumption
    | with_reducible apply State.remote_keeps
    | split
    | dsimp only
    | intro _
    | exact id

theorem State.dropReqs_keeps {q : List Instr} {n : Nat} {o : List Output} {s : State} (p : FabReq → Bool) (h : Keeps q n o s) :
    Keeps q n o (State.dropReqs s p) := by
  unfold State.dropReqs
  try dsimp only
  repeat' first
    | with_reducible assumption
    | with_reducible apply State.onFab_keeps
    | split
    | dsimp only
    | intro _
    | exact id

end Sys2Proof.Machine
end

