-- ==== Sys2Proof/Laws/KeepsEngLife.lean ====
section
/-! SUPPORT. What each operation of Machine/EngLife.lean keeps (Laws/Keeps.lean). -/

namespace Sys2Proof.Machine

theorem State.launchDone_keeps {q : List Instr} {n : Nat} {o : List Output} {s : State} (c : Cmd) (h : Keeps q n o s) :
    Keeps q n o (State.launchDone s c) := by
  unfold State.launchDone
  try dsimp only
  repeat' first
    | with_reducible assumption
    | with_reducible apply State.finish_keeps
    | split
    | dsimp only
    | intro _
    | exact id

theorem State.partEnd_keeps {q : List Instr} {n : Nat} {o : List Output} {s : State} (d p : Nat) (l : Launch) (st d0 d1 : Nat) (h : Keeps q n o s) :
    Keeps q n o (State.partEnd s d p l st d0 d1) := by
  unfold State.partEnd
  try dsimp only
  repeat' first
    | with_reducible assumption
    | with_reducible apply State.endHandling_keeps
    | with_reducible apply State.launchDone_keeps
    | with_reducible refine State.onFlt_keeps ?_ (fun ⟨m0, m1, m2, m3, m4, m5, m6, m7⟩ => ⟨?_, ?_, ?_, ?_, ?_, ?_, ?_, ?_⟩)
    | with_reducible apply State.setCmd_keeps
    | split
    | dsimp only
    | intro _
    | exact id

theorem State.startTest_keeps {q : List Instr} {n : Nat} {o : List Output} {s : State} (d p : Nat) (failed : Option Launch) (st : Nat) (h : Keeps q n o s) :
    Keeps q n o (State.startTest s d p failed st) := by
  unfold State.startTest
  try dsimp only
  repeat' first
    | with_reducible assumption
    | with_reducible apply State.count_keeps
    | with_reducible refine State.onFlt_keeps ?_ (fun ⟨m0, m1, m2, m3, m4, m5, m6, m7⟩ => ⟨?_, ?_, ?_, ?_, ?_, ?_, ?_, ?_⟩)
    | with_reducible apply State.setEng_keeps
    | with_reducible refine Keeps.eng (q := q) (n := n) (o := o) ?_ _ _
    | split
    | dsimp only
    | (with_reducible refine Engine.Canonical.spad ?_; first | with_reducible assumption | with_reducible refine Keeps.eng (q := q) (n := n) (o := o) ?_ _ _)
    | (with_reducible refine Engine.Canonical.poison ?_; first | with_reducible assumption | with_reducible refine Keeps.eng (q := q) (n := n) (o := o) ?_ _ _)
    | (with_reducible refine Engine.Canonical.acc ?_; first | with_reducible assumption | with_reducible refine Keeps.eng (q := q) (n := n) (o := o) ?_ _ _)
    | (with_reducible refine Engine.Canonical.vreg ?_; first | with_reducible assumption | with_reducible refine Keeps.eng (q := q) (n := n) (o := o) ?_ _ _)
    | (with_reducible refine Engine.Canonical.set0 ?_; first | with_reducible assumption | with_reducible refine Keeps.eng (q := q) (n := n) (o := o) ?_ _ _)
    | (with_reducible refine Engine.Canonical.set1 ?_; first | with_reducible assumption | with_reducible refine Keeps.eng (q := q) (n := n) (o := o) ?_ _ _)
    | (with_reducible refine Engine.Canonical.tags ?_; first | with_reducible assumption | with_reducible refine Keeps.eng (q := q) (n := n) (o := o) ?_ _ _)
    | (with_reducible refine Engine.Canonical.kept ?_; first | with_reducible assumption | with_reducible refine Keeps.eng (q := q) (n := n) (o := o) ?_ _ _)
    | exact Engine.zero_canonical
    | with_reducible refine Engine.Canonical.mk ?_ ?_ ?_ ?_ ?_ ?_ ?_ ?_
    | intro _
    | exact id

theorem State.engineFault_keeps {q : List Instr} {n : Nat} {o : List Output} {s : State} (d p : Nat) (bay : Option Nat) (failed : Option Launch) (st : Nat) (h : Keeps q n o s) :
    Keeps q n o (State.engineFault s d p bay failed st) := by
  unfold State.engineFault
  try dsimp only
  repeat' first
    | with_reducible assumption
    | with_reducible apply State.raise_keeps
    | with_reducible apply State.setHandling_keeps
    | with_reducible apply State.startTest_keeps
    | split
    | dsimp only
    | intro _
    | exact id

theorem State.logStall_keeps {q : List Instr} {n' : Nat} {o : List Output} {s : State} (d p pc slot n sched cause ctx : Nat) (h : Keeps q n' o s) :
    Keeps q n' o (State.logStall s d p pc slot n sched cause ctx) := by
  unfold State.logStall
  try dsimp only
  repeat' first
    | with_reducible assumption
    | with_reducible apply State.count_keeps
    | with_reducible apply State.setReg_keeps
    | split
    | dsimp only
    | intro _
    | exact id

theorem State.programFault_keeps {q : List Instr} {n : Nat} {o : List Output} {s : State} (d p : Nat) (r : Run) (f : Failure) (more : Bool) (last : Nat) (h : Keeps q n o s) :
    Keeps q n o (State.programFault s d p r f more last) := by
  unfold State.programFault
  try dsimp only
  repeat' first
    | with_reducible assumption
    | with_reducible apply State.count_keeps
    | with_reducible apply State.engineFault_keeps
    | with_reducible apply State.forAll_keeps
    | with_reducible apply State.haltQueue_keeps
    | with_reducible apply State.partEnd_keeps
    | with_reducible apply State.raise_keeps
    | with_reducible apply State.setCmd_keeps
    | with_reducible apply State.setFld_keeps
    | with_reducible apply State.setReg_keeps
    | split
    | dsimp only
    | intro _
    | exact id

theorem State.rowFails_keeps {q : List Instr} {n : Nat} {o : List Output} {s : State} (d p cyc : Nat) (r : Run) (st : Nat) (det : Nat × Nat) (h : Keeps q n o s) :
    Keeps q n o (State.rowFails s d p cyc r st det) := by
  unfold State.rowFails
  try dsimp only
  repeat' first
    | with_reducible assumption
    | with_reducible apply Engine.withRun_keeps
    | with_reducible apply State.setEng_keeps
    | with_reducible refine Keeps.eng (q := q) (n := n) (o := o) ?_ _ _
    | split
    | dsimp only
    | (with_reducible refine Engine.Canonical.spad ?_; first | with_reducible assumption | with_reducible refine Keeps.eng (q := q) (n := n) (o := o) ?_ _ _ | with_reducible apply Engine.withRun_keeps)
    | (with_reducible refine Engine.Canonical.poison ?_; first | with_reducible assumption | with_reducible refine Keeps.eng (q := q) (n := n) (o := o) ?_ _ _ | with_reducible apply Engine.withRun_keeps)
    | (with_reducible refine Engine.Canonical.acc ?_; first | with_reducible assumption | with_reducible refine Keeps.eng (q := q) (n := n) (o := o) ?_ _ _ | with_reducible apply Engine.withRun_keeps)
    | (with_reducible refine Engine.Canonical.vreg ?_; first | with_reducible assumption | with_reducible refine Keeps.eng (q := q) (n := n) (o := o) ?_ _ _ | with_reducible apply Engine.withRun_keeps)
    | (with_reducible refine Engine.Canonical.set0 ?_; first | with_reducible assumption | with_reducible refine Keeps.eng (q := q) (n := n) (o := o) ?_ _ _ | with_reducible apply Engine.withRun_keeps)
    | (with_reducible refine Engine.Canonical.set1 ?_; first | with_reducible assumption | with_reducible refine Keeps.eng (q := q) (n := n) (o := o) ?_ _ _ | with_reducible apply Engine.withRun_keeps)
    | (with_reducible refine Engine.Canonical.tags ?_; first | with_reducible assumption | with_reducible refine Keeps.eng (q := q) (n := n) (o := o) ?_ _ _ | with_reducible apply Engine.withRun_keeps)
    | (with_reducible refine Engine.Canonical.kept ?_; first | with_reducible assumption | with_reducible refine Keeps.eng (q := q) (n := n) (o := o) ?_ _ _ | with_reducible apply Engine.withRun_keeps)
    | exact Engine.zero_canonical
    | with_reducible refine Engine.Canonical.mk ?_ ?_ ?_ ?_ ?_ ?_ ?_ ?_
    | intro _
    | exact id

theorem State.drainRow_keeps {q : List Instr} {n : Nat} {o : List Output} {s : State} (d p : Nat) (r : Run) (cyc kind addr dev : Nat) (bs : List Byte) (h : Keeps q n o s) :
    Keeps q n o (State.drainRow s d p r cyc kind addr dev bs) := by
  unfold State.drainRow
  try dsimp only
  repeat' first
    | with_reducible assumption
    | with_reducible apply Engine.fail_keeps
    | with_reducible apply State.loftPut_keeps
    | with_reducible refine State.onMem_keeps ?_ (fun ⟨m0, m1, m2, m3, m4, m5, m6, m7⟩ => ⟨?_, ?_, ?_, ?_, ?_, ?_, ?_, ?_⟩)
    | with_reducible apply State.remoteWrite_keeps
    | with_reducible apply State.rowFails_keeps
    | with_reducible apply State.vaWrite_keeps
    | split
    | dsimp only
    | intro _
    | exact id

theorem State.engOut_keeps {q : List Instr} {n : Nat} {o' : List Output} {s : State} (d p : Nat) (r : Run) (o : EngOut) (h : Keeps q n o' s) :
    Keeps q n o' (State.engOut s d p r o) := by
  unfold State.engOut
  try dsimp only
  repeat' first
    | with_reducible assumption
    | with_reducible apply State.count64_keeps
    | with_reducible apply State.count_keeps
    | with_reducible apply State.drainRow_keeps
    | with_reducible apply State.ercAdd_keeps
    | with_reducible apply State.logStall_keeps
    | with_reducible apply State.partEnd_keeps
    | with_reducible apply State.programFault_keeps
    | with_reducible apply State.setEng_keeps
    | with_reducible apply State.setFld_keeps
    | with_reducible apply State.setReg_keeps
    | with_reducible apply ended_keeps
    | with_reducible refine Keeps.eng (q := q) (n := n) (o := o') ?_ _ _
    | split
    | dsimp only
    | (with_reducible refine Engine.Canonical.spad ?_; first | with_reducible assumption | with_reducible refine Keeps.eng (q := q) (n := n) (o := o') ?_ _ _)
    | (with_reducible refine Engine.Canonical.poison ?_; first | with_reducible assumption | with_reducible refine Keeps.eng (q := q) (n := n) (o := o') ?_ _ _)
    | (with_reducible refine Engine.Canonical.acc ?_; first | with_reducible assumption | with_reducible refine Keeps.eng (q := q) (n := n) (o := o') ?_ _ _)
    | (with_reducible refine Engine.Canonical.vreg ?_; first | with_reducible assumption | with_reducible refine Keeps.eng (q := q) (n := n) (o := o') ?_ _ _)
    | (with_reducible refine Engine.Canonical.set0 ?_; first | with_reducible assumption | with_reducible refine Keeps.eng (q := q) (n := n) (o := o') ?_ _ _)
    | (with_reducible refine Engine.Canonical.set1 ?_; first | with_reducible assumption | with_reducible refine Keeps.eng (q := q) (n := n) (o := o') ?_ _ _)
    | (with_reducible refine Engine.Canonical.tags ?_; first | with_reducible assumption | with_reducible refine Keeps.eng (q := q) (n := n) (o := o') ?_ _ _)
    | (with_reducible refine Engine.Canonical.kept ?_; first | with_reducible assumption | with_reducible refine Keeps.eng (q := q) (n := n) (o := o') ?_ _ _)
    | exact Engine.zero_canonical
    | with_reducible refine Engine.Canonical.mk ?_ ?_ ?_ ?_ ?_ ?_ ?_ ?_
    | intro _
    | exact id

theorem State.engineDo_keeps {q : List Instr} {n : Nat} {o : List Output} {s : State} (d p : Nat) (f : Engine → Engine) (h : Keeps q n o s) (hf : ∀ a_, a_.Canonical → (f a_).Canonical) :
    Keeps q n o (State.engineDo s d p f) := by
  unfold State.engineDo
  try dsimp only
  repeat' first
    | with_reducible assumption
    | apply hf
    | with_reducible apply State.engOut_keeps
    | with_reducible apply State.forAll_keeps
    | with_reducible apply State.remote_keeps
    | with_reducible apply State.setEng_keeps
    | with_reducible refine Keeps.eng (q := q) (n := n) (o := o) ?_ _ _
    | split
    | dsimp only
    | (with_reducible refine Engine.Canonical.spad ?_; first | with_reducible assumption | with_reducible refine Keeps.eng (q := q) (n := n) (o := o) ?_ _ _ | with_reducible apply hf)
    | (with_reducible refine Engine.Canonical.poison ?_; first | with_reducible assumption | with_reducible refine Keeps.eng (q := q) (n := n) (o := o) ?_ _ _ | with_reducible apply hf)
    | (with_reducible refine Engine.Canonical.acc ?_; first | with_reducible assumption | with_reducible refine Keeps.eng (q := q) (n := n) (o := o) ?_ _ _ | with_reducible apply hf)
    | (with_reducible refine Engine.Canonical.vreg ?_; first | with_reducible assumption | with_reducible refine Keeps.eng (q := q) (n := n) (o := o) ?_ _ _ | with_reducible apply hf)
    | (with_reducible refine Engine.Canonical.set0 ?_; first | with_reducible assumption | with_reducible refine Keeps.eng (q := q) (n := n) (o := o) ?_ _ _ | with_reducible apply hf)
    | (with_reducible refine Engine.Canonical.set1 ?_; first | with_reducible assumption | with_reducible refine Keeps.eng (q := q) (n := n) (o := o) ?_ _ _ | with_reducible apply hf)
    | (with_reducible refine Engine.Canonical.tags ?_; first | with_reducible assumption | with_reducible refine Keeps.eng (q := q) (n := n) (o := o) ?_ _ _ | with_reducible apply hf)
    | (with_reducible refine Engine.Canonical.kept ?_; first | with_reducible assumption | with_reducible refine Keeps.eng (q := q) (n := n) (o := o) ?_ _ _ | with_reducible apply hf)
    | exact Engine.zero_canonical
    | with_reducible refine Engine.Canonical.mk ?_ ?_ ?_ ?_ ?_ ?_ ?_ ?_
    | intro _
    | exact id

theorem State.slotOp_keeps {q : List Instr} {n : Nat} {o : List Output} {s : State} (r : EngRef) (slot op : Nat) (f : Owners → Engine → Cur → Engine) (h : Keeps q n o s) (hf : ∀ a_ b_ c_, b_.Canonical → (f a_ b_ c_).Canonical) :
    Keeps q n o (State.slotOp s r slot op f) := by
  unfold State.slotOp
  try dsimp only
  repeat' first
    | with_reducible assumption
    | apply hf
    | with_reducible apply State.engineDo_keeps
    | with_reducible apply slotStep_keeps
    | with_reducible refine Keeps.eng (q := q) (n := n) (o := o) ?_ _ _
    | split
    | dsimp only
    | intro _
    | exact id

theorem State.enqueue_keeps {q : List Instr} {n : Nat} {o : List Output} {s : State} (d p : Nat) (l : Launch) (h : Keeps q n o s) :
    Keeps q n o (State.enqueue s d p l) := by
  unfold State.enqueue
  try dsimp only
  repeat' first
    | with_reducible assumption
    | with_reducible apply State.count_keeps
    | with_reducible apply State.handle_keeps
    | with_reducible apply State.setEng_keeps
    | with_reducible refine Keeps.eng (q := q) (n := n) (o := o) ?_ _ _
    | split
    | dsimp only
    | (with_reducible refine Engine.Canonical.spad ?_; first | with_reducible assumption | with_reducible refine Keeps.eng (q := q) (n := n) (o := o) ?_ _ _)
    | (with_reducible refine Engine.Canonical.poison ?_; first | with_reducible assumption | with_reducible refine Keeps.eng (q := q) (n := n) (o := o) ?_ _ _)
    | (with_reducible refine Engine.Canonical.acc ?_; first | with_reducible assumption | with_reducible refine Keeps.eng (q := q) (n := n) (o := o) ?_ _ _)
    | (with_reducible refine Engine.Canonical.vreg ?_; first | with_reducible assumption | with_reducible refine Keeps.eng (q := q) (n := n) (o := o) ?_ _ _)
    | (with_reducible refine Engine.Canonical.set0 ?_; first | with_reducible assumption | with_reducible refine Keeps.eng (q := q) (n := n) (o := o) ?_ _ _)
    | (with_reducible refine Engine.Canonical.set1 ?_; first | with_reducible assumption | with_reducible refine Keeps.eng (q := q) (n := n) (o := o) ?_ _ _)
    | (with_reducible refine Engine.Canonical.tags ?_; first | with_reducible assumption | with_reducible refine Keeps.eng (q := q) (n := n) (o := o) ?_ _ _)
    | (with_reducible refine Engine.Canonical.kept ?_; first | with_reducible assumption | with_reducible refine Keeps.eng (q := q) (n := n) (o := o) ?_ _ _)
    | exact Engine.zero_canonical
    | with_reducible refine Engine.Canonical.mk ?_ ?_ ?_ ?_ ?_ ?_ ?_ ?_
    | intro _
    | exact id

theorem State.ibStatus_keeps {q : List Instr} {n : Nat} {o : List Output} {s : State} (d p : Nat) (h : Keeps q n o s) :
    Keeps q n o (State.ibStatus s d p) := by
  unfold State.ibStatus
  try dsimp only
  repeat' first
    | with_reducible assumption
    | with_reducible apply State.setReg_keeps
    | with_reducible refine Keeps.eng (q := q) (n := n) (o := o) ?_ _ _
    | split
    | dsimp only
    | intro _
    | exact id

theorem evictFor_keeps  (n : Nat) (keep : W32 → Bool) (e : Engine) (he : e.Canonical) :
    Engine.Canonical (evictFor n keep e) := by
  unfold evictFor
  try dsimp only
  repeat' first
    | with_reducible assumption
    | with_reducible apply Engine.keep_keeps
    | with_reducible apply State.handle_keeps
    | with_reducible apply foldl_engine
    | with_reducible apply foldl_fst_engine
    | with_reducible apply mwf_foldl
    | with_reducible exact Keeps.eng ‹_› _ _
    | split
    | dsimp only
    | (with_reducible refine Engine.Canonical.spad ?_; first | with_reducible assumption | with_reducible exact Keeps.eng ‹_› _ _ | with_reducible apply foldl_engine | with_reducible apply Engine.keep_keeps)
    | (with_reducible refine Engine.Canonical.poison ?_; first | with_reducible assumption | with_reducible exact Keeps.eng ‹_› _ _ | with_reducible apply foldl_engine | with_reducible apply Engine.keep_keeps)
    | (with_reducible refine Engine.Canonical.acc ?_; first | with_reducible assumption | with_reducible exact Keeps.eng ‹_› _ _ | with_reducible apply foldl_engine | with_reducible apply Engine.keep_keeps)
    | (with_reducible refine Engine.Canonical.vreg ?_; first | with_reducible assumption | with_reducible exact Keeps.eng ‹_› _ _ | with_reducible apply foldl_engine | with_reducible apply Engine.keep_keeps)
    | (with_reducible refine Engine.Canonical.set0 ?_; first | with_reducible assumption | with_reducible exact Keeps.eng ‹_› _ _ | with_reducible apply foldl_engine | with_reducible apply Engine.keep_keeps)
    | (with_reducible refine Engine.Canonical.set1 ?_; first | with_reducible assumption | with_reducible exact Keeps.eng ‹_› _ _ | with_reducible apply foldl_engine | with_reducible apply Engine.keep_keeps)
    | (with_reducible refine Engine.Canonical.tags ?_; first | with_reducible assumption | with_reducible exact Keeps.eng ‹_› _ _ | with_reducible apply foldl_engine | with_reducible apply Engine.keep_keeps)
    | (with_reducible refine Engine.Canonical.kept ?_; first | with_reducible assumption | with_reducible exact Keeps.eng ‹_› _ _ | with_reducible apply foldl_engine | with_reducible apply Engine.keep_keeps)
    | exact Engine.zero_canonical
    | with_reducible refine Engine.Canonical.mk ?_ ?_ ?_ ?_ ?_ ?_ ?_ ?_
    | intro _
    | exact id

theorem State.pcacheFill_keeps {q : List Instr} {n : Nat} {o : List Output} (fuel : Nat) {s : State} (d : Nat) (h : W32) (bs : List Byte) (hk : Keeps q n o s) :
    Keeps q n o (State.pcacheFill fuel s d h bs) := by
  induction fuel generalizing s with
  | zero =>
    unfold State.pcacheFill
    repeat' first
      | with_reducible assumption
      | contradiction
      | with_reducible apply State.handle_keeps
      | with_reducible refine State.onLofts_keeps ?_ (fun ⟨m0, m1, m2, m3, m4⟩ => ⟨?_, ?_, ?_, ?_, ?_⟩)
      | split
      | dsimp only
      | intro _
      | exact id
  | succ k ih =>
    unfold State.pcacheFill
    try dsimp only
    repeat' first
      | with_reducible assumption
      | apply ih
      | contradiction
      | with_reducible apply State.handle_keeps
      | with_reducible refine State.onLofts_keeps ?_ (fun ⟨m0, m1, m2, m3, m4⟩ => ⟨?_, ?_, ?_, ?_, ?_⟩)
      | split
      | dsimp only
      | intro _
      | exact id

theorem State.failLaunch_keeps {q : List Instr} {n : Nat} {o : List Output} {s : State} (d p : Nat) (l : Launch) (st : Nat) (det : Nat × Nat) (h : Keeps q n o s) :
    Keeps q n o (State.failLaunch s d p l st det) := by
  unfold State.failLaunch
  try dsimp only
  repeat' first
    | with_reducible assumption
    | with_reducible apply State.ibStatus_keeps
    | with_reducible apply State.partEnd_keeps
    | with_reducible apply State.setEng_keeps
    | with_reducible apply State.setUsed_keeps
    | with_reducible refine Keeps.eng (q := q) (n := n) (o := o) ?_ _ _
    | split
    | dsimp only
    | (with_reducible refine Engine.Canonical.spad ?_; first | with_reducible assumption | with_reducible refine Keeps.eng (q := q) (n := n) (o := o) ?_ _ _)
    | (with_reducible refine Engine.Canonical.poison ?_; first | with_reducible assumption | with_reducible refine Keeps.eng (q := q) (n := n) (o := o) ?_ _ _)
    | (with_reducible refine Engine.Canonical.acc ?_; first | with_reducible assumption | with_reducible refine Keeps.eng (q := q) (n := n) (o := o) ?_ _ _)
    | (with_reducible refine Engine.Canonical.vreg ?_; first | with_reducible assumption | with_reducible refine Keeps.eng (q := q) (n := n) (o := o) ?_ _ _)
    | (with_reducible refine Engine.Canonical.set0 ?_; first | with_reducible assumption | with_reducible refine Keeps.eng (q := q) (n := n) (o := o) ?_ _ _)
    | (with_reducible refine Engine.Canonical.set1 ?_; first | with_reducible assumption | with_reducible refine Keeps.eng (q := q) (n := n) (o := o) ?_ _ _)
    | (with_reducible refine Engine.Canonical.tags ?_; first | with_reducible assumption | with_reducible refine Keeps.eng (q := q) (n := n) (o := o) ?_ _ _)
    | (with_reducible refine Engine.Canonical.kept ?_; first | with_reducible assumption | with_reducible refine Keeps.eng (q := q) (n := n) (o := o) ?_ _ _)
    | exact Engine.zero_canonical
    | with_reducible refine Engine.Canonical.mk ?_ ?_ ?_ ?_ ?_ ?_ ?_ ?_
    | intro _
    | exact id

end Sys2Proof.Machine
end

