-- ==== Sys2Proof/Laws/KeepsEngProgram.lean ====
section
/-! SUPPORT. What each operation of Machine/EngProgram.lean keeps (Laws/Keeps.lean). -/

namespace Sys2Proof.Machine

theorem mwfFrom_pend {m : SMap Tag} {lo : Option Nat} (h : mwfFrom noTag lo m = true) :
    mwfFrom noTag lo ((m.filter fun k => decide (k.2.pend ≠ 0)).map fun k => (k.1, (⟨0, 0, k.2.pend⟩ : Tag))) = true := by
  induction m generalizing lo with
  | nil => rfl
  | cons e r ih =>
    obtain ⟨a, b⟩ := e
    have h' := mwfFrom_cons.mp h
    simp only [List.filter_cons]
    split
    · rename_i hb
      have hp : b.pend ≠ 0 := by simpa using hb
      refine mwfFrom_cons.mpr ⟨h'.1, fun hc => hp (congrArg Tag.pend hc), ih h'.2.2⟩
    · cases lo with
      | none => exact mwf_of_from (ih h'.2.2)
      | some l => exact mwfFrom_of_lt (ih h'.2.2) (Nat.le_of_lt (h'.1 l rfl))

theorem mwf_pend {m : SMap Tag} (h : mwf noTag m = true) :
    mwf noTag ((m.filter fun k => decide (k.2.pend ≠ 0)).map fun k => (k.1, (⟨0, 0, k.2.pend⟩ : Tag))) = true :=
  mwfFrom_pend h

theorem State.setClock_keeps {q : List Instr} {n : Nat} {o : List Output} {s : State} (d mhz : Nat) (h : Keeps q n o s) :
    Keeps q n o (State.setClock s d mhz) := by
  unfold State.setClock
  try dsimp only
  repeat' first
    | with_reducible assumption
    | with_reducible apply State.setFld_keeps
    | split
    | dsimp only
    | intro _
    | exact id

theorem State.setPwr_keeps {q : List Instr} {n : Nat} {o : List Output} {s : State} (d p v : Nat) (h : Keeps q n o s) :
    Keeps q n o (State.setPwr s d p v) := by
  unfold State.setPwr
  try dsimp only
  repeat' first
    | with_reducible assumption
    | with_reducible apply State.setFld_keeps
    | split
    | dsimp only
    | intro _
    | exact id

theorem State.clockGate_keeps {q : List Instr} {n : Nat} {o : List Output} {s : State} (d p : Nat) (h : Keeps q n o s) :
    Keeps q n o (State.clockGate s d p) := by
  unfold State.clockGate
  try dsimp only
  repeat' first
    | with_reducible assumption
    | with_reducible apply State.setPwr_keeps
    | with_reducible refine Keeps.eng (q := q) (n := n) (o := o) ?_ _ _
    | split
    | dsimp only
    | intro _
    | exact id

theorem State.engineOff_keeps {q : List Instr} {n : Nat} {o : List Output} {s : State} (d p : Nat) (h : Keeps q n o s) :
    Keeps q n o (State.engineOff s d p) := by
  unfold State.engineOff
  try dsimp only
  repeat' first
    | with_reducible assumption
    | with_reducible apply Engine.zero_keeps
    | with_reducible apply State.forAll_keeps
    | with_reducible apply State.setEng_keeps
    | with_reducible apply State.setPwr_keeps
    | with_reducible apply State.setReg_keeps
    | with_reducible refine Keeps.eng (q := q) (n := n) (o := o) ?_ _ _
    | split
    | dsimp only
    | intro _
    | exact id

theorem State.engPower_keeps {q : List Instr} {n : Nat} {o : List Output} {s : State} (d p v : Nat) (h : Keeps q n o s) :
    Keeps q n o (State.engPower s d p v) := by
  unfold State.engPower
  try dsimp only
  repeat' first
    | with_reducible assumption
    | with_reducible apply State.engineOff_keeps
    | with_reducible apply State.setPwr_keeps
    | with_reducible apply State.setReg_keeps
    | split
    | dsimp only
    | intro _
    | exact id

theorem State.selfTest_keeps {q : List Instr} {n : Nat} {o : List Output} {s : State} (d p : Nat) (ok : Bool) (h : Keeps q n o s) :
    Keeps q n o (State.selfTest s d p ok) := by
  unfold State.selfTest
  try dsimp only
  repeat' first
    | with_reducible assumption
    | with_reducible apply State.engineFault_keeps
    | with_reducible apply State.setReg_keeps
    | split
    | dsimp only
    | intro _
    | exact id

theorem State.powerUp_keeps {q : List Instr} {n : Nat} {o : List Output} {s : State} (d p : Nat) (ok : Bool) (h : Keeps q n o s) :
    Keeps q n o (State.powerUp s d p ok) := by
  unfold State.powerUp
  try dsimp only
  repeat' first
    | with_reducible assumption
    | with_reducible apply Engine.zero_keeps
    | with_reducible apply State.selfTest_keeps
    | with_reducible apply State.setEng_keeps
    | with_reducible apply State.setPwr_keeps
    | with_reducible refine Keeps.eng (q := q) (n := n) (o := o) ?_ _ _
    | split
    | dsimp only
    | (with_reducible refine Engine.Canonical.spad ?_; first | with_reducible assumption | with_reducible refine Keeps.eng (q := q) (n := n) (o := o) ?_ _ _ | with_reducible apply Engine.zero_keeps)
    | (with_reducible refine Engine.Canonical.poison ?_; first | with_reducible assumption | with_reducible refine Keeps.eng (q := q) (n := n) (o := o) ?_ _ _ | with_reducible apply Engine.zero_keeps)
    | (with_reducible refine Engine.Canonical.acc ?_; first | with_reducible assumption | with_reducible refine Keeps.eng (q := q) (n := n) (o := o) ?_ _ _ | with_reducible apply Engine.zero_keeps)
    | (with_reducible refine Engine.Canonical.vreg ?_; first | with_reducible assumption | with_reducible refine Keeps.eng (q := q) (n := n) (o := o) ?_ _ _ | with_reducible apply Engine.zero_keeps)
    | (with_reducible refine Engine.Canonical.set0 ?_; first | with_reducible assumption | with_reducible refine Keeps.eng (q := q) (n := n) (o := o) ?_ _ _ | with_reducible apply Engine.zero_keeps)
    | (with_reducible refine Engine.Canonical.set1 ?_; first | with_reducible assumption | with_reducible refine Keeps.eng (q := q) (n := n) (o := o) ?_ _ _ | with_reducible apply Engine.zero_keeps)
    | (with_reducible refine Engine.Canonical.tags ?_; first | with_reducible assumption | with_reducible refine Keeps.eng (q := q) (n := n) (o := o) ?_ _ _ | with_reducible apply Engine.zero_keeps)
    | (with_reducible refine Engine.Canonical.kept ?_; first | with_reducible assumption | with_reducible refine Keeps.eng (q := q) (n := n) (o := o) ?_ _ _ | with_reducible apply Engine.zero_keeps)
    | exact Engine.zero_canonical
    | with_reducible refine Engine.Canonical.mk ?_ ?_ ?_ ?_ ?_ ?_ ?_ ?_
    | intro _
    | exact id

theorem State.sentCtrl_keeps {q : List Instr} {n : Nat} {o : List Output} {s : State} (d p v : Nat) (h : Keeps q n o s) :
    Keeps q n o (State.sentCtrl s d p v) := by
  unfold State.sentCtrl
  try dsimp only
  repeat' first
    | with_reducible assumption
    | with_reducible apply State.setFld_keeps
    | split
    | dsimp only
    | intro _
    | exact id

theorem State.firstIssue_keeps {q : List Instr} {n : Nat} {o : List Output} {s : State} (d p : Nat) (h : Keeps q n o s) :
    Keeps q n o (State.firstIssue s d p) := by
  unfold State.firstIssue
  repeat' first
    | with_reducible assumption
    | with_reducible apply mwf_pend
    | with_reducible apply State.engineDo_keeps
    | with_reducible apply State.forAll_keeps
    | with_reducible apply State.handle_keeps
    | with_reducible apply State.ibStatus_keeps
    | with_reducible refine State.onLofts_keeps ?_ (fun ⟨m0, m1, m2, m3, m4⟩ => ⟨?_, ?_, ?_, ?_, ?_⟩)
    | with_reducible apply State.setEng_keeps
    | with_reducible apply State.setFld_keeps
    | with_reducible apply State.setPwr_keeps
    | with_reducible apply State.setReg_keeps
    | with_reducible apply State.setUsed_keeps
    | with_reducible apply State.tickStamp_keeps
    | with_reducible apply goWord_keeps
    | with_reducible refine Keeps.eng (q := q) (n := n) (o := o) ?_ _ _
    | split
    | dsimp only
    | (with_reducible refine Engine.Canonical.spad ?_; first | with_reducible assumption | with_reducible refine Keeps.eng (q := q) (n := n) (o := o) ?_ _ _ | with_reducible apply goWord_keeps)
    | (with_reducible refine Engine.Canonical.poison ?_; first | with_reducible assumption | with_reducible refine Keeps.eng (q := q) (n := n) (o := o) ?_ _ _ | with_reducible apply goWord_keeps)
    | (with_reducible refine Engine.Canonical.acc ?_; first | with_reducible assumption | with_reducible refine Keeps.eng (q := q) (n := n) (o := o) ?_ _ _ | with_reducible apply goWord_keeps)
    | (with_reducible refine Engine.Canonical.vreg ?_; first | with_reducible assumption | with_reducible refine Keeps.eng (q := q) (n := n) (o := o) ?_ _ _ | with_reducible apply goWord_keeps)
    | (with_reducible refine Engine.Canonical.set0 ?_; first | with_reducible assumption | with_reducible refine Keeps.eng (q := q) (n := n) (o := o) ?_ _ _ | with_reducible apply goWord_keeps)
    | (with_reducible refine Engine.Canonical.set1 ?_; first | with_reducible assumption | with_reducible refine Keeps.eng (q := q) (n := n) (o := o) ?_ _ _ | with_reducible apply goWord_keeps)
    | (with_reducible refine Engine.Canonical.tags ?_; first | with_reducible assumption | with_reducible refine Keeps.eng (q := q) (n := n) (o := o) ?_ _ _ | with_reducible apply goWord_keeps)
    | (with_reducible refine Engine.Canonical.kept ?_; first | with_reducible assumption | with_reducible refine Keeps.eng (q := q) (n := n) (o := o) ?_ _ _ | with_reducible apply goWord_keeps)
    | exact Engine.zero_canonical
    | with_reducible refine Engine.Canonical.mk ?_ ?_ ?_ ?_ ?_ ?_ ?_ ?_
    | intro _
    | exact id

theorem State.imageRead_keeps {q : List Instr} {n : Nat} {o : List Output} {s : State} (d p : Nat) (l : Launch) (base : Nat) (bs : List Byte) (fill : Bool) (h : Keeps q n o s) :
    Keeps q n o (State.imageRead s d p l base bs fill) := by
  unfold State.imageRead
  try dsimp only
  repeat' first
    | with_reducible assumption
    | with_reducible apply State.failLaunch_keeps
    | with_reducible apply State.handle_keeps
    | with_reducible apply State.ibStatus_keeps
    | with_reducible apply State.pcacheFill_keeps
    | with_reducible apply State.setEng_keeps
    | with_reducible apply evictFor_keeps
    | with_reducible refine Keeps.eng (q := q) (n := n) (o := o) ?_ _ _
    | split
    | dsimp only
    | (with_reducible refine Engine.Canonical.spad ?_; first | with_reducible assumption | with_reducible refine Keeps.eng (q := q) (n := n) (o := o) ?_ _ _ | with_reducible apply evictFor_keeps)
    | (with_reducible refine Engine.Canonical.poison ?_; first | with_reducible assumption | with_reducible refine Keeps.eng (q := q) (n := n) (o := o) ?_ _ _ | with_reducible apply evictFor_keeps)
    | (with_reducible refine Engine.Canonical.acc ?_; first | with_reducible assumption | with_reducible refine Keeps.eng (q := q) (n := n) (o := o) ?_ _ _ | with_reducible apply evictFor_keeps)
    | (with_reducible refine Engine.Canonical.vreg ?_; first | with_reducible assumption | with_reducible refine Keeps.eng (q := q) (n := n) (o := o) ?_ _ _ | with_reducible apply evictFor_keeps)
    | (with_reducible refine Engine.Canonical.set0 ?_; first | with_reducible assumption | with_reducible refine Keeps.eng (q := q) (n := n) (o := o) ?_ _ _ | with_reducible apply evictFor_keeps)
    | (with_reducible refine Engine.Canonical.set1 ?_; first | with_reducible assumption | with_reducible refine Keeps.eng (q := q) (n := n) (o := o) ?_ _ _ | with_reducible apply evictFor_keeps)
    | (with_reducible refine Engine.Canonical.tags ?_; first | with_reducible assumption | with_reducible refine Keeps.eng (q := q) (n := n) (o := o) ?_ _ _ | with_reducible apply evictFor_keeps)
    | (with_reducible refine Engine.Canonical.kept ?_; first | with_reducible assumption | with_reducible refine Keeps.eng (q := q) (n := n) (o := o) ?_ _ _ | with_reducible apply evictFor_keeps)
    | exact Engine.zero_canonical
    | with_reducible refine Engine.Canonical.mk ?_ ?_ ?_ ?_ ?_ ?_ ?_ ?_
    | intro _
    | exact id

theorem State.imageFetch_keeps {q : List Instr} {n : Nat} {o : List Output} {s : State} (d p : Nat) (h : W32) (base : Nat) (m : Medium) (hk : Keeps q n o s) :
    Keeps q n o (State.imageFetch s d p h base m) := by
  unfold State.imageFetch
  try dsimp only
  repeat' first
    | with_reducible assumption
    | with_reducible apply Engine.fail_keeps
    | with_reducible apply State.failLaunch_keeps
    | with_reducible apply State.handle_keeps
    | with_reducible apply State.imageRead_keeps
    | with_reducible apply State.vaReadM_keeps
    | with_reducible apply foldl_state
    | with_reducible apply foldl_fst_state
    | with_reducible apply mwf_foldl
    | with_reducible refine Keeps.eng (q := q) (n := n) (o := o) ?_ _ _
    | split
    | dsimp only
    | (with_reducible refine Engine.Canonical.spad ?_; first | with_reducible assumption | with_reducible refine Keeps.eng (q := q) (n := n) (o := o) ?_ _ _ | with_reducible apply foldl_engine | with_reducible apply Engine.fail_keeps)
    | (with_reducible refine Engine.Canonical.poison ?_; first | with_reducible assumption | with_reducible refine Keeps.eng (q := q) (n := n) (o := o) ?_ _ _ | with_reducible apply foldl_engine | with_reducible apply Engine.fail_keeps)
    | (with_reducible refine Engine.Canonical.acc ?_; first | with_reducible assumption | with_reducible refine Keeps.eng (q := q) (n := n) (o := o) ?_ _ _ | with_reducible apply foldl_engine | with_reducible apply Engine.fail_keeps)
    | (with_reducible refine Engine.Canonical.vreg ?_; first | with_reducible assumption | with_reducible refine Keeps.eng (q := q) (n := n) (o := o) ?_ _ _ | with_reducible apply foldl_engine | with_reducible apply Engine.fail_keeps)
    | (with_reducible refine Engine.Canonical.set0 ?_; first | with_reducible assumption | with_reducible refine Keeps.eng (q := q) (n := n) (o := o) ?_ _ _ | with_reducible apply foldl_engine | with_reducible apply Engine.fail_keeps)
    | (with_reducible refine Engine.Canonical.set1 ?_; first | with_reducible assumption | with_reducible refine Keeps.eng (q := q) (n := n) (o := o) ?_ _ _ | with_reducible apply foldl_engine | with_reducible apply Engine.fail_keeps)
    | (with_reducible refine Engine.Canonical.tags ?_; first | with_reducible assumption | with_reducible refine Keeps.eng (q := q) (n := n) (o := o) ?_ _ _ | with_reducible apply foldl_engine | with_reducible apply Engine.fail_keeps)
    | (with_reducible refine Engine.Canonical.kept ?_; first | with_reducible assumption | with_reducible refine Keeps.eng (q := q) (n := n) (o := o) ?_ _ _ | with_reducible apply foldl_engine | with_reducible apply Engine.fail_keeps)
    | exact Engine.zero_canonical
    | with_reducible refine Engine.Canonical.mk ?_ ?_ ?_ ?_ ?_ ?_ ?_ ?_
    | intro _
    | exact id

theorem State.overrun_keeps {q : List Instr} {n : Nat} {o : List Output} {s : State} (d p : Nat) (h : Keeps q n o s) :
    Keeps q n o (State.overrun s d p) := by
  unfold State.overrun
  try dsimp only
  repeat' first
    | with_reducible assumption
    | with_reducible apply State.engineDo_keeps
    | with_reducible apply abandon_keeps
    | with_reducible refine Keeps.eng (q := q) (n := n) (o := o) ?_ _ _
    | split
    | dsimp only
    | (with_reducible refine Engine.Canonical.spad ?_; first | with_reducible assumption | with_reducible refine Keeps.eng (q := q) (n := n) (o := o) ?_ _ _ | with_reducible apply abandon_keeps)
    | (with_reducible refine Engine.Canonical.poison ?_; first | with_reducible assumption | with_reducible refine Keeps.eng (q := q) (n := n) (o := o) ?_ _ _ | with_reducible apply abandon_keeps)
    | (with_reducible refine Engine.Canonical.acc ?_; first | with_reducible assumption | with_reducible refine Keeps.eng (q := q) (n := n) (o := o) ?_ _ _ | with_reducible apply abandon_keeps)
    | (with_reducible refine Engine.Canonical.vreg ?_; first | with_reducible assumption | with_reducible refine Keeps.eng (q := q) (n := n) (o := o) ?_ _ _ | with_reducible apply abandon_keeps)
    | (with_reducible refine Engine.Canonical.set0 ?_; first | with_reducible assumption | with_reducible refine Keeps.eng (q := q) (n := n) (o := o) ?_ _ _ | with_reducible apply abandon_keeps)
    | (with_reducible refine Engine.Canonical.set1 ?_; first | with_reducible assumption | with_reducible refine Keeps.eng (q := q) (n := n) (o := o) ?_ _ _ | with_reducible apply abandon_keeps)
    | (with_reducible refine Engine.Canonical.tags ?_; first | with_reducible assumption | with_reducible refine Keeps.eng (q := q) (n := n) (o := o) ?_ _ _ | with_reducible apply abandon_keeps)
    | (with_reducible refine Engine.Canonical.kept ?_; first | with_reducible assumption | with_reducible refine Keeps.eng (q := q) (n := n) (o := o) ?_ _ _ | with_reducible apply abandon_keeps)
    | exact Engine.zero_canonical
    | with_reducible refine Engine.Canonical.mk ?_ ?_ ?_ ?_ ?_ ?_ ?_ ?_
    | intro _
    | exact id

theorem Engine.dmaWrite_keeps  (e : Engine) (a : Nat) (bs : List PByte) (he : e.Canonical) :
    Engine.Canonical (Engine.dmaWrite e a bs) := by
  unfold Engine.dmaWrite
  try dsimp only
  repeat' first
    | with_reducible assumption
    | with_reducible apply Engine.store_keeps
    | with_reducible apply foldl_engine
    | with_reducible apply foldl_fst_engine
    | with_reducible apply mwf_mset
    | with_reducible apply mwf_foldl
    | with_reducible exact Keeps.eng ‹_› _ _
    | split
    | dsimp only
    | (with_reducible refine Engine.Canonical.spad ?_; first | with_reducible assumption | with_reducible exact Keeps.eng ‹_› _ _ | with_reducible apply foldl_engine | with_reducible apply Engine.store_keeps)
    | (with_reducible refine Engine.Canonical.poison ?_; first | with_reducible assumption | with_reducible exact Keeps.eng ‹_› _ _ | with_reducible apply foldl_engine | with_reducible apply Engine.store_keeps)
    | (with_reducible refine Engine.Canonical.acc ?_; first | with_reducible assumption | with_reducible exact Keeps.eng ‹_› _ _ | with_reducible apply foldl_engine | with_reducible apply Engine.store_keeps)
    | (with_reducible refine Engine.Canonical.vreg ?_; first | with_reducible assumption | with_reducible exact Keeps.eng ‹_› _ _ | with_reducible apply foldl_engine | with_reducible apply Engine.store_keeps)
    | (with_reducible refine Engine.Canonical.set0 ?_; first | with_reducible assumption | with_reducible exact Keeps.eng ‹_› _ _ | with_reducible apply foldl_engine | with_reducible apply Engine.store_keeps)
    | (with_reducible refine Engine.Canonical.set1 ?_; first | with_reducible assumption | with_reducible exact Keeps.eng ‹_› _ _ | with_reducible apply foldl_engine | with_reducible apply Engine.store_keeps)
    | (with_reducible refine Engine.Canonical.tags ?_; first | with_reducible assumption | with_reducible exact Keeps.eng ‹_› _ _ | with_reducible apply foldl_engine | with_reducible apply Engine.store_keeps)
    | (with_reducible refine Engine.Canonical.kept ?_; first | with_reducible assumption | with_reducible exact Keeps.eng ‹_› _ _ | with_reducible apply foldl_engine | with_reducible apply Engine.store_keeps)
    | exact Engine.zero_canonical
    | with_reducible refine Engine.Canonical.mk ?_ ?_ ?_ ?_ ?_ ?_ ?_ ?_
    | intro _
    | exact id

theorem Engine.markWord_keeps  (e : Engine) (x : Ecc) (he : e.Canonical) :
    Engine.Canonical (Engine.markWord e x) := by
  unfold Engine.markWord
  try dsimp only
  repeat' first
    | with_reducible assumption
    | with_reducible apply mwf_mset
    | with_reducible exact Keeps.eng ‹_› _ _
    | split
    | dsimp only
    | (with_reducible refine Engine.Canonical.spad ?_; first | with_reducible assumption | with_reducible exact Keeps.eng ‹_› _ _)
    | (with_reducible refine Engine.Canonical.poison ?_; first | with_reducible assumption | with_reducible exact Keeps.eng ‹_› _ _)
    | (with_reducible refine Engine.Canonical.acc ?_; first | with_reducible assumption | with_reducible exact Keeps.eng ‹_› _ _)
    | (with_reducible refine Engine.Canonical.vreg ?_; first | with_reducible assumption | with_reducible exact Keeps.eng ‹_› _ _)
    | (with_reducible refine Engine.Canonical.set0 ?_; first | with_reducible assumption | with_reducible exact Keeps.eng ‹_› _ _)
    | (with_reducible refine Engine.Canonical.set1 ?_; first | with_reducible assumption | with_reducible exact Keeps.eng ‹_› _ _)
    | (with_reducible refine Engine.Canonical.tags ?_; first | with_reducible assumption | with_reducible exact Keeps.eng ‹_› _ _)
    | (with_reducible refine Engine.Canonical.kept ?_; first | with_reducible assumption | with_reducible exact Keeps.eng ‹_› _ _)
    | exact Engine.zero_canonical
    | with_reducible refine Engine.Canonical.mk ?_ ?_ ?_ ?_ ?_ ?_ ?_ ?_
    | intro _
    | exact id

theorem Engine.endXfer_keeps  (e : Engine) (x : Xfer) (res : Option (Nat × Nat × Nat)) (he : e.Canonical) :
    Engine.Canonical (Engine.endXfer e x res) := by
  unfold Engine.endXfer
  try dsimp only
  repeat' first
    | with_reducible assumption
    | with_reducible apply Engine.release_keeps
    | with_reducible apply Engine.withRun_keeps
    | with_reducible apply foldKeys_keeps
    | with_reducible exact Keeps.eng ‹_› _ _
    | split
    | dsimp only
    | (with_reducible refine Engine.Canonical.spad ?_; first | with_reducible assumption | with_reducible exact Keeps.eng ‹_› _ _ | with_reducible apply Engine.withRun_keeps | with_reducible apply Engine.release_keeps | with_reducible apply foldKeys_keeps)
    | (with_reducible refine Engine.Canonical.poison ?_; first | with_reducible assumption | with_reducible exact Keeps.eng ‹_› _ _ | with_reducible apply Engine.withRun_keeps | with_reducible apply Engine.release_keeps | with_reducible apply foldKeys_keeps)
    | (with_reducible refine Engine.Canonical.acc ?_; first | with_reducible assumption | with_reducible exact Keeps.eng ‹_› _ _ | with_reducible apply Engine.withRun_keeps | with_reducible apply Engine.release_keeps | with_reducible apply foldKeys_keeps)
    | (with_reducible refine Engine.Canonical.vreg ?_; first | with_reducible assumption | with_reducible exact Keeps.eng ‹_› _ _ | with_reducible apply Engine.withRun_keeps | with_reducible apply Engine.release_keeps | with_reducible apply foldKeys_keeps)
    | (with_reducible refine Engine.Canonical.set0 ?_; first | with_reducible assumption | with_reducible exact Keeps.eng ‹_› _ _ | with_reducible apply Engine.withRun_keeps | with_reducible apply Engine.release_keeps | with_reducible apply foldKeys_keeps)
    | (with_reducible refine Engine.Canonical.set1 ?_; first | with_reducible assumption | with_reducible exact Keeps.eng ‹_› _ _ | with_reducible apply Engine.withRun_keeps | with_reducible apply Engine.release_keeps | with_reducible apply foldKeys_keeps)
    | (with_reducible refine Engine.Canonical.tags ?_; first | with_reducible assumption | with_reducible exact Keeps.eng ‹_› _ _ | with_reducible apply Engine.withRun_keeps | with_reducible apply Engine.release_keeps | with_reducible apply foldKeys_keeps)
    | (with_reducible refine Engine.Canonical.kept ?_; first | with_reducible assumption | with_reducible exact Keeps.eng ‹_› _ _ | with_reducible apply Engine.withRun_keeps | with_reducible apply Engine.release_keeps | with_reducible apply foldKeys_keeps)
    | exact Engine.zero_canonical
    | with_reducible refine Engine.Canonical.mk ?_ ?_ ?_ ?_ ?_ ?_ ?_ ?_
    | intro _
    | exact id

theorem State.dmaEcc_keeps {q : List Instr} {n : Nat} {o : List Output} {s : State} (d p : Nat) (x : Ecc) (bay : Nat) (h : Keeps q n o s) :
    Keeps q n o (State.dmaEcc s d p x bay) := by
  unfold State.dmaEcc
  try dsimp only
  repeat' first
    | with_reducible assumption
    | with_reducible apply State.count_keeps
    | with_reducible apply State.ercAdd_keeps
    | with_reducible apply State.raise_keeps
    | with_reducible apply State.setReg_keeps
    | split
    | dsimp only
    | intro _
    | exact id

theorem State.loftMeet_keeps {q : List Instr} {n : Nat} {o : List Output} {s : State} (d w : Nat) (m : Medium) (bay : Option Nat) (h : Keeps q n o s) :
    Keeps q n o (State.loftMeet s d w m bay) := by
  unfold State.loftMeet
  try dsimp only
  repeat' first
    | with_reducible assumption
    | with_reducible apply State.count_keeps
    | with_reducible apply State.ercAdd_keeps
    | with_reducible apply State.loftMark_keeps
    | with_reducible apply State.raise_keeps
    | split
    | dsimp only
    | intro _
    | exact id

theorem State.xferSource_keeps {q : List Instr} {n : Nat} {o : List Output} {s : State} (d p : Nat) (x : Xfer) (ecc : Ecc) (h : Keeps q n o s) :
    Keeps q n o (State.xferSource s d p x ecc).1 := by
  unfold State.xferSource
  try dsimp only
  repeat' first
    | with_reducible assumption
    | with_reducible apply Engine.markWord_keeps
    | with_reducible apply State.dmaEcc_keeps
    | with_reducible apply State.setEng_keeps
    | with_reducible refine Keeps.eng (q := q) (n := n) (o := o) ?_ _ _
    | split
    | dsimp only
    | intro _
    | exact id

theorem State.endXferAt_keeps {q : List Instr} {n : Nat} {o : List Output} {s : State} (d p : Nat) (x : Xfer) (res : Option (Nat × Nat × Nat)) (h : Keeps q n o s) :
    Keeps q n o (State.endXferAt s d p x res) := by
  unfold State.endXferAt
  try dsimp only
  repeat' first
    | with_reducible assumption
    | with_reducible apply Engine.endXfer_keeps
    | with_reducible apply State.setEng_keeps
    | with_reducible refine Keeps.eng (q := q) (n := n) (o := o) ?_ _ _
    | split
    | dsimp only
    | intro _
    | exact id

theorem State.lftrDone_keeps {q : List Instr} {n : Nat} {o : List Output} {s : State} (d p : Nat) (x : Xfer) (m : Medium) (h : Keeps q n o s) :
    Keeps q n o (State.lftrDone s d p x m) := by
  unfold State.lftrDone
  try dsimp only
  repeat' first
    | with_reducible assumption
    | with_reducible apply Engine.dmaWrite_keeps
    | with_reducible apply State.endXferAt_keeps
    | with_reducible apply State.loftMeet_keeps
    | with_reducible apply State.setEng_keeps
    | with_reducible refine Keeps.eng (q := q) (n := n) (o := o) ?_ _ _
    | split
    | dsimp only
    | (with_reducible refine Engine.Canonical.spad ?_; first | with_reducible assumption | with_reducible refine Keeps.eng (q := q) (n := n) (o := o) ?_ _ _ | with_reducible apply Engine.dmaWrite_keeps)
    | (with_reducible refine Engine.Canonical.poison ?_; first | with_reducible assumption | with_reducible refine Keeps.eng (q := q) (n := n) (o := o) ?_ _ _ | with_reducible apply Engine.dmaWrite_keeps)
    | (with_reducible refine Engine.Canonical.acc ?_; first | with_reducible assumption | with_reducible refine Keeps.eng (q := q) (n := n) (o := o) ?_ _ _ | with_reducible apply Engine.dmaWrite_keeps)
    | (with_reducible refine Engine.Canonical.vreg ?_; first | with_reducible assumption | with_reducible refine Keeps.eng (q := q) (n := n) (o := o) ?_ _ _ | with_reducible apply Engine.dmaWrite_keeps)
    | (with_reducible refine Engine.Canonical.set0 ?_; first | with_reducible assumption | with_reducible refine Keeps.eng (q := q) (n := n) (o := o) ?_ _ _ | with_reducible apply Engine.dmaWrite_keeps)
    | (with_reducible refine Engine.Canonical.set1 ?_; first | with_reducible assumption | with_reducible refine Keeps.eng (q := q) (n := n) (o := o) ?_ _ _ | with_reducible apply Engine.dmaWrite_keeps)
    | (with_reducible refine Engine.Canonical.tags ?_; first | with_reducible assumption | with_reducible refine Keeps.eng (q := q) (n := n) (o := o) ?_ _ _ | with_reducible apply Engine.dmaWrite_keeps)
    | (with_reducible refine Engine.Canonical.kept ?_; first | with_reducible assumption | with_reducible refine Keeps.eng (q := q) (n := n) (o := o) ?_ _ _ | with_reducible apply Engine.dmaWrite_keeps)
    | exact Engine.zero_canonical
    | with_reducible refine Engine.Canonical.mk ?_ ?_ ?_ ?_ ?_ ?_ ?_ ?_
    | intro _
    | exact id

theorem State.lftwDone_keeps {q : List Instr} {n : Nat} {o : List Output} {s : State} (d p : Nat) (x : Xfer) (ecc : Ecc) (h : Keeps q n o s) :
    Keeps q n o (State.lftwDone s d p x ecc) := by
  unfold State.lftwDone
  try dsimp only
  repeat' first
    | with_reducible assumption
    | with_reducible apply State.endXferAt_keeps
    | with_reducible apply State.loftPut_keeps
    | with_reducible apply State.xferSource_keeps
    | split
    | dsimp only
    | intro _
    | exact id

theorem State.xputDone_keeps {q : List Instr} {n : Nat} {o : List Output} {s : State} (d p : Nat) (x : Xfer) (ecc : Ecc) (h : Keeps q n o s) :
    Keeps q n o (State.xputDone s d p x ecc) := by
  unfold State.xputDone
  try dsimp only
  repeat' first
    | with_reducible assumption
    | with_reducible apply Engine.endXfer_keeps
    | with_reducible apply State.endXferAt_keeps
    | with_reducible apply State.remoteWrite_keeps
    | with_reducible apply State.setEng_keeps
    | with_reducible apply State.vaWrite_keeps
    | with_reducible apply State.xferSource_keeps
    | with_reducible refine Keeps.eng (q := q) (n := n) (o := o) ?_ _ _
    | split
    | dsimp only
    | (with_reducible refine Engine.Canonical.spad ?_; first | with_reducible assumption | with_reducible refine Keeps.eng (q := q) (n := n) (o := o) ?_ _ _ | with_reducible apply Engine.endXfer_keeps)
    | (with_reducible refine Engine.Canonical.poison ?_; first | with_reducible assumption | with_reducible refine Keeps.eng (q := q) (n := n) (o := o) ?_ _ _ | with_reducible apply Engine.endXfer_keeps)
    | (with_reducible refine Engine.Canonical.acc ?_; first | with_reducible assumption | with_reducible refine Keeps.eng (q := q) (n := n) (o := o) ?_ _ _ | with_reducible apply Engine.endXfer_keeps)
    | (with_reducible refine Engine.Canonical.vreg ?_; first | with_reducible assumption | with_reducible refine Keeps.eng (q := q) (n := n) (o := o) ?_ _ _ | with_reducible apply Engine.endXfer_keeps)
    | (with_reducible refine Engine.Canonical.set0 ?_; first | with_reducible assumption | with_reducible refine Keeps.eng (q := q) (n := n) (o := o) ?_ _ _ | with_reducible apply Engine.endXfer_keeps)
    | (with_reducible refine Engine.Canonical.set1 ?_; first | with_reducible assumption | with_reducible refine Keeps.eng (q := q) (n := n) (o := o) ?_ _ _ | with_reducible apply Engine.endXfer_keeps)
    | (with_reducible refine Engine.Canonical.tags ?_; first | with_reducible assumption | with_reducible refine Keeps.eng (q := q) (n := n) (o := o) ?_ _ _ | with_reducible apply Engine.endXfer_keeps)
    | (with_reducible refine Engine.Canonical.kept ?_; first | with_reducible assumption | with_reducible refine Keeps.eng (q := q) (n := n) (o := o) ?_ _ _ | with_reducible apply Engine.endXfer_keeps)
    | exact Engine.zero_canonical
    | with_reducible refine Engine.Canonical.mk ?_ ?_ ?_ ?_ ?_ ?_ ?_ ?_
    | intro _
    | exact id

theorem State.xgetDone_keeps {q : List Instr} {n : Nat} {o : List Output} {s : State} (d p : Nat) (x : Xfer) (m : Medium) (h : Keeps q n o s) :
    Keeps q n o (State.xgetDone s d p x m) := by
  unfold State.xgetDone
  try dsimp only
  repeat' first
    | with_reducible assumption
    | with_reducible apply Engine.dmaWrite_keeps
    | with_reducible apply Engine.fail_keeps
    | with_reducible apply State.dropReqs_keeps
    | with_reducible apply State.endXferAt_keeps
    | with_reducible apply State.setEng_keeps
    | with_reducible apply State.vaReadM_keeps
    | with_reducible apply ended_keeps
    | with_reducible apply foldl_state
    | with_reducible apply foldl_fst_state
    | with_reducible apply mwf_foldl
    | with_reducible refine Keeps.eng (q := q) (n := n) (o := o) ?_ _ _
    | split
    | dsimp only
    | (with_reducible refine Engine.Canonical.spad ?_; first | with_reducible assumption | with_reducible refine Keeps.eng (q := q) (n := n) (o := o) ?_ _ _ | with_reducible apply foldl_engine | with_reducible apply Engine.fail_keeps | with_reducible apply Engine.dmaWrite_keeps)
    | (with_reducible refine Engine.Canonical.poison ?_; first | with_reducible assumption | with_reducible refine Keeps.eng (q := q) (n := n) (o := o) ?_ _ _ | with_reducible apply foldl_engine | with_reducible apply Engine.fail_keeps | with_reducible apply Engine.dmaWrite_keeps)
    | (with_reducible refine Engine.Canonical.acc ?_; first | with_reducible assumption | with_reducible refine Keeps.eng (q := q) (n := n) (o := o) ?_ _ _ | with_reducible apply foldl_engine | with_reducible apply Engine.fail_keeps | with_reducible apply Engine.dmaWrite_keeps)
    | (with_reducible refine Engine.Canonical.vreg ?_; first | with_reducible assumption | with_reducible refine Keeps.eng (q := q) (n := n) (o := o) ?_ _ _ | with_reducible apply foldl_engine | with_reducible apply Engine.fail_keeps | with_reducible apply Engine.dmaWrite_keeps)
    | (with_reducible refine Engine.Canonical.set0 ?_; first | with_reducible assumption | with_reducible refine Keeps.eng (q := q) (n := n) (o := o) ?_ _ _ | with_reducible apply foldl_engine | with_reducible apply Engine.fail_keeps | with_reducible apply Engine.dmaWrite_keeps)
    | (with_reducible refine Engine.Canonical.set1 ?_; first | with_reducible assumption | with_reducible refine Keeps.eng (q := q) (n := n) (o := o) ?_ _ _ | with_reducible apply foldl_engine | with_reducible apply Engine.fail_keeps | with_reducible apply Engine.dmaWrite_keeps)
    | (with_reducible refine Engine.Canonical.tags ?_; first | with_reducible assumption | with_reducible refine Keeps.eng (q := q) (n := n) (o := o) ?_ _ _ | with_reducible apply foldl_engine | with_reducible apply Engine.fail_keeps | with_reducible apply Engine.dmaWrite_keeps)
    | (with_reducible refine Engine.Canonical.kept ?_; first | with_reducible assumption | with_reducible refine Keeps.eng (q := q) (n := n) (o := o) ?_ _ _ | with_reducible apply foldl_engine | with_reducible apply Engine.fail_keeps | with_reducible apply Engine.dmaWrite_keeps)
    | exact Engine.zero_canonical
    | with_reducible refine Engine.Canonical.mk ?_ ?_ ?_ ?_ ?_ ?_ ?_ ?_
    | intro _
    | exact id

theorem State.asyncDone_keeps {q : List Instr} {n : Nat} {o : List Output} {s : State} (d p tag : Nat) (ecc : Ecc) (m : Medium) (h : Keeps q n o s) :
    Keeps q n o (State.asyncDone s d p tag ecc m) := by
  unfold State.asyncDone
  try dsimp only
  repeat' first
    | with_reducible assumption
    | with_reducible apply State.lftrDone_keeps
    | with_reducible apply State.lftwDone_keeps
    | with_reducible apply State.xgetDone_keeps
    | with_reducible apply State.xputDone_keeps
    | with_reducible refine Keeps.eng (q := q) (n := n) (o := o) ?_ _ _
    | split
    | dsimp only
    | (with_reducible refine Engine.Canonical.spad ?_; first | with_reducible assumption | with_reducible refine Keeps.eng (q := q) (n := n) (o := o) ?_ _ _)
    | (with_reducible refine Engine.Canonical.poison ?_; first | with_reducible assumption | with_reducible refine Keeps.eng (q := q) (n := n) (o := o) ?_ _ _)
    | (with_reducible refine Engine.Canonical.acc ?_; first | with_reducible assumption | with_reducible refine Keeps.eng (q := q) (n := n) (o := o) ?_ _ _)
    | (with_reducible refine Engine.Canonical.vreg ?_; first | with_reducible assumption | with_reducible refine Keeps.eng (q := q) (n := n) (o := o) ?_ _ _)
    | (with_reducible refine Engine.Canonical.set0 ?_; first | with_reducible assumption | with_reducible refine Keeps.eng (q := q) (n := n) (o := o) ?_ _ _)
    | (with_reducible refine Engine.Canonical.set1 ?_; first | with_reducible assumption | with_reducible refine Keeps.eng (q := q) (n := n) (o := o) ?_ _ _)
    | (with_reducible refine Engine.Canonical.tags ?_; first | with_reducible assumption | with_reducible refine Keeps.eng (q := q) (n := n) (o := o) ?_ _ _)
    | (with_reducible refine Engine.Canonical.kept ?_; first | with_reducible assumption | with_reducible refine Keeps.eng (q := q) (n := n) (o := o) ?_ _ _)
    | exact Engine.zero_canonical
    | with_reducible refine Engine.Canonical.mk ?_ ?_ ?_ ?_ ?_ ?_ ?_ ?_
    | intro _
    | exact id

theorem State.sigeApply_keeps {q : List Instr} {n : Nat} {o : List Output} {s : State} (d p : Nat) (h : Keeps q n o s) :
    Keeps q n o (State.sigeApply s d p) := by
  unfold State.sigeApply
  try dsimp only
  repeat' first
    | with_reducible assumption
    | with_reducible apply State.evtAdd_keeps
    | with_reducible apply State.setEng_keeps
    | with_reducible refine Keeps.eng (q := q) (n := n) (o := o) ?_ _ _
    | split
    | dsimp only
    | (with_reducible refine Engine.Canonical.spad ?_; first | with_reducible assumption | with_reducible refine Keeps.eng (q := q) (n := n) (o := o) ?_ _ _)
    | (with_reducible refine Engine.Canonical.poison ?_; first | with_reducible assumption | with_reducible refine Keeps.eng (q := q) (n := n) (o := o) ?_ _ _)
    | (with_reducible refine Engine.Canonical.acc ?_; first | with_reducible assumption | with_reducible refine Keeps.eng (q := q) (n := n) (o := o) ?_ _ _)
    | (with_reducible refine Engine.Canonical.vreg ?_; first | with_reducible assumption | with_reducible refine Keeps.eng (q := q) (n := n) (o := o) ?_ _ _)
    | (with_reducible refine Engine.Canonical.set0 ?_; first | with_reducible assumption | with_reducible refine Keeps.eng (q := q) (n := n) (o := o) ?_ _ _)
    | (with_reducible refine Engine.Canonical.set1 ?_; first | with_reducible assumption | with_reducible refine Keeps.eng (q := q) (n := n) (o := o) ?_ _ _)
    | (with_reducible refine Engine.Canonical.tags ?_; first | with_reducible assumption | with_reducible refine Keeps.eng (q := q) (n := n) (o := o) ?_ _ _)
    | (with_reducible refine Engine.Canonical.kept ?_; first | with_reducible assumption | with_reducible refine Keeps.eng (q := q) (n := n) (o := o) ?_ _ _)
    | exact Engine.zero_canonical
    | with_reducible refine Engine.Canonical.mk ?_ ?_ ?_ ?_ ?_ ?_ ?_ ?_
    | intro _
    | exact id

theorem execEngineClockChange_keeps {q : List Instr} {n : Nat} {o : List Output} (die : CDie) (mhz : Nat) {s : State} (h : Keeps q n o s) :
    ∃ t, execEngineClockChange die mhz s = .next t ∧ Keeps q n o t := by
  refine ⟨_, rfl, ?_⟩
  try dsimp only
  repeat' first
    | with_reducible assumption
    | with_reducible apply State.setClock_keeps
    | split
    | dsimp only
    | intro _
    | exact id

theorem execProgramFirstIssue_keeps {q : List Instr} {n : Nat} {o : List Output} (die : CDie) (eng : PhysEng) {s : State} (h : Keeps q n o s) :
    ∃ t, execProgramFirstIssue die eng s = .next t ∧ Keeps q n o t := by
  refine ⟨_, rfl, ?_⟩
  try dsimp only
  repeat' first
    | with_reducible assumption
    | with_reducible apply State.firstIssue_keeps
    | split
    | dsimp only
    | intro _
    | exact id

theorem execImageFetchComplete_keeps {q : List Instr} {n : Nat} {o : List Output} (die : CDie) (eng : PhysEng) (handle : W32) (base : BitVec 12) (m : Medium) {s : State} (h : Keeps q n o s) :
    ∃ t, execImageFetchComplete die eng handle base m s = .next t ∧ Keeps q n o t := by
  refine ⟨_, rfl, ?_⟩
  try dsimp only
  repeat' first
    | with_reducible assumption
    | with_reducible apply State.handle_keeps
    | with_reducible apply State.imageFetch_keeps
    | split
    | dsimp only
    | intro _
    | exact id

theorem execTileOverrunExpiry_keeps {q : List Instr} {n : Nat} {o : List Output} (die : CDie) (eng : PhysEng) {s : State} (h : Keeps q n o s) :
    ∃ t, execTileOverrunExpiry die eng s = .next t ∧ Keeps q n o t := by
  refine ⟨_, rfl, ?_⟩
  try dsimp only
  repeat' first
    | with_reducible assumption
    | with_reducible apply State.overrun_keeps
    | split
    | dsimp only
    | intro _
    | exact id

theorem execEngineClockGate_keeps {q : List Instr} {n : Nat} {o : List Output} (die : CDie) (eng : PhysEng) {s : State} (h : Keeps q n o s) :
    ∃ t, execEngineClockGate die eng s = .next t ∧ Keeps q n o t := by
  refine ⟨_, rfl, ?_⟩
  try dsimp only
  repeat' first
    | with_reducible assumption
    | with_reducible apply State.clockGate_keeps
    | split
    | dsimp only
    | intro _
    | exact id

theorem execEngPowerReq_keeps {q : List Instr} {n : Nat} {o : List Output} (die : CDie) (eng : PhysEng) (data : W32) {s : State} (h : Keeps q n o s) :
    ∃ t, execEngPowerReq die eng data s = .next t ∧ Keeps q n o t := by
  refine ⟨_, rfl, ?_⟩
  try dsimp only
  repeat' first
    | with_reducible assumption
    | with_reducible apply State.engPower_keeps
    | split
    | dsimp only
    | intro _
    | exact id

theorem execEnginePowerUpDone_keeps {q : List Instr} {n : Nat} {o : List Output} (die : CDie) (eng : PhysEng) (pass : Bool) {s : State} (h : Keeps q n o s) :
    ∃ t, execEnginePowerUpDone die eng pass s = .next t ∧ Keeps q n o t := by
  refine ⟨_, rfl, ?_⟩
  try dsimp only
  repeat' first
    | with_reducible assumption
    | with_reducible apply State.powerUp_keeps
    | split
    | dsimp only
    | intro _
    | exact id

theorem execSentCtrlWrite_keeps {q : List Instr} {n : Nat} {o : List Output} (die : CDie) (eng : PhysEng) (data : W32) {s : State} (h : Keeps q n o s) :
    ∃ t, execSentCtrlWrite die eng data s = .next t ∧ Keeps q n o t := by
  refine ⟨_, rfl, ?_⟩
  try dsimp only
  repeat' first
    | with_reducible assumption
    | with_reducible apply State.sentCtrl_keeps
    | split
    | dsimp only
    | intro _
    | exact id

theorem execDmaPromotion_keeps {q : List Instr} {n : Nat} {o : List Output} (die : CDie) (eng : PhysEng) (bank : BitVec 4) {s : State} (h : Keeps q n o s) :
    ∃ t, execDmaPromotion die eng bank s = .next t ∧ Keeps q n o t := by
  refine ⟨_, rfl, ?_⟩
  try dsimp only
  repeat' first
    | with_reducible assumption
    | with_reducible apply State.engineDo_keeps
    | with_reducible refine Keeps.eng (q := q) (n := n) (o := o) ?_ _ _
    | split
    | dsimp only
    | (with_reducible refine Engine.Canonical.spad ?_; first | with_reducible assumption | with_reducible refine Keeps.eng (q := q) (n := n) (o := o) ?_ _ _)
    | (with_reducible refine Engine.Canonical.poison ?_; first | with_reducible assumption | with_reducible refine Keeps.eng (q := q) (n := n) (o := o) ?_ _ _)
    | (with_reducible refine Engine.Canonical.acc ?_; first | with_reducible assumption | with_reducible refine Keeps.eng (q := q) (n := n) (o := o) ?_ _ _)
    | (with_reducible refine Engine.Canonical.vreg ?_; first | with_reducible assumption | with_reducible refine Keeps.eng (q := q) (n := n) (o := o) ?_ _ _)
    | (with_reducible refine Engine.Canonical.set0 ?_; first | with_reducible assumption | with_reducible refine Keeps.eng (q := q) (n := n) (o := o) ?_ _ _)
    | (with_reducible refine Engine.Canonical.set1 ?_; first | with_reducible assumption | with_reducible refine Keeps.eng (q := q) (n := n) (o := o) ?_ _ _)
    | (with_reducible refine Engine.Canonical.tags ?_; first | with_reducible assumption | with_reducible refine Keeps.eng (q := q) (n := n) (o := o) ?_ _ _)
    | (with_reducible refine Engine.Canonical.kept ?_; first | with_reducible assumption | with_reducible refine Keeps.eng (q := q) (n := n) (o := o) ?_ _ _)
    | exact Engine.zero_canonical
    | with_reducible refine Engine.Canonical.mk ?_ ?_ ?_ ?_ ?_ ?_ ?_ ?_
    | intro _
    | exact id

theorem execAsyncTransferComplete_keeps {q : List Instr} {n : Nat} {o : List Output} (die : CDie) (eng : PhysEng) (tag : BitVec 3) (ecc : Ecc) (m : Medium) {s : State} (h : Keeps q n o s) :
    ∃ t, execAsyncTransferComplete die eng tag ecc m s = .next t ∧ Keeps q n o t := by
  refine ⟨_, rfl, ?_⟩
  try dsimp only
  repeat' first
    | with_reducible assumption
    | with_reducible apply State.asyncDone_keeps
    | split
    | dsimp only
    | intro _
    | exact id

theorem execSigeEventApply_keeps {q : List Instr} {n : Nat} {o : List Output} (die : CDie) (eng : PhysEng) {s : State} (h : Keeps q n o s) :
    ∃ t, execSigeEventApply die eng s = .next t ∧ Keeps q n o t := by
  refine ⟨_, rfl, ?_⟩
  try dsimp only
  repeat' first
    | with_reducible assumption
    | with_reducible apply State.sigeApply_keeps
    | split
    | dsimp only
    | intro _
    | exact id

end Sys2Proof.Machine
end

