-- ==== Sys2Proof/Laws/KeepsLoft.lean ====
section
/-! SUPPORT. What each operation of Machine/Loft.lean keeps (Laws/Keeps.lean). -/

namespace Sys2Proof.Machine

theorem State.setPending_keeps {q : List Instr} {n : Nat} {o : List Output} {s : State} (d p k : Nat) (b : Bool) (h : Keeps q n o s) :
    Keeps q n o (State.setPending s d p k b) := by
  unfold State.setPending
  try dsimp only
  repeat' first
    | with_reducible assumption
    | with_reducible apply State.setFld_keeps
    | split
    | dsimp only
    | intro _
    | exact id

theorem State.spadOwnWrite_keeps {q : List Instr} {n : Nat} {o : List Output} {s : State} (d p k v : Nat) (h : Keeps q n o s) :
    Keeps q n o (State.spadOwnWrite s d p k v) := by
  unfold State.spadOwnWrite
  try dsimp only
  repeat' first
    | with_reducible assumption
    | with_reducible apply State.setFld_keeps
    | with_reducible apply State.setPending_keeps
    | split
    | dsimp only
    | intro _
    | exact id

theorem Engine.clearBank_keeps  (e : Engine) (k : Nat) (he : e.Canonical) :
    Engine.Canonical (Engine.clearBank e k) := by
  unfold Engine.clearBank
  try dsimp only
  repeat' first
    | with_reducible assumption
    | with_reducible apply Engine.keep_keeps
    | with_reducible apply mwf_mclear
    | with_reducible exact Keeps.eng ‹_› _ _
    | split
    | dsimp only
    | (with_reducible refine Engine.Canonical.spad ?_; first | with_reducible assumption | with_reducible exact Keeps.eng ‹_› _ _ | with_reducible apply Engine.keep_keeps)
    | (with_reducible refine Engine.Canonical.poison ?_; first | with_reducible assumption | with_reducible exact Keeps.eng ‹_› _ _ | with_reducible apply Engine.keep_keeps)
    | (with_reducible refine Engine.Canonical.acc ?_; first | with_reducible assumption | with_reducible exact Keeps.eng ‹_› _ _ | with_reducible apply Engine.keep_keeps)
    | (with_reducible refine Engine.Canonical.vreg ?_; first | with_reducible assumption | with_reducible exact Keeps.eng ‹_› _ _ | with_reducible apply Engine.keep_keeps)
    | (with_reducible refine Engine.Canonical.set0 ?_; first | with_reducible assumption | with_reducible exact Keeps.eng ‹_› _ _ | with_reducible apply Engine.keep_keeps)
    | (with_reducible refine Engine.Canonical.set1 ?_; first | with_reducible assumption | with_reducible exact Keeps.eng ‹_› _ _ | with_reducible apply Engine.keep_keeps)
    | (with_reducible refine Engine.Canonical.tags ?_; first | with_reducible assumption | with_reducible exact Keeps.eng ‹_› _ _ | with_reducible apply Engine.keep_keeps)
    | (with_reducible refine Engine.Canonical.kept ?_; first | with_reducible assumption | with_reducible exact Keeps.eng ‹_› _ _ | with_reducible apply Engine.keep_keeps)
    | exact Engine.zero_canonical
    | with_reducible refine Engine.Canonical.mk ?_ ?_ ?_ ?_ ?_ ?_ ?_ ?_
    | intro _
    | exact id

theorem State.spadHandover_keeps {q : List Instr} {n : Nat} {o : List Output} {s : State} (d p k : Nat) (h : Keeps q n o s) :
    Keeps q n o (State.spadHandover s d p k) := by
  unfold State.spadHandover
  try dsimp only
  repeat' first
    | with_reducible assumption
    | with_reducible apply Engine.clearBank_keeps
    | with_reducible apply State.setEng_keeps
    | with_reducible apply State.setFld_keeps
    | with_reducible apply State.setPending_keeps
    | with_reducible refine Keeps.eng (q := q) (n := n) (o := o) ?_ _ _
    | split
    | dsimp only
    | intro _
    | exact id

theorem State.clearStart_keeps {q : List Instr} {n : Nat} {o : List Output} {s : State} (d : Nat) (h : Keeps q n o s) :
    Keeps q n o (State.clearStart s d) := by
  unfold State.clearStart
  try dsimp only
  repeat' first
    | with_reducible assumption
    | with_reducible refine State.onLofts_keeps ?_ (fun ⟨m0, m1, m2, m3, m4⟩ => ⟨?_, ?_, ?_, ?_, ?_⟩)
    | with_reducible apply State.setFld_keeps
    | with_reducible apply State.setReg_keeps
    | with_reducible apply mwf_mset
    | split
    | dsimp only
    | intro _
    | exact id

theorem State.clearDie_keeps {q : List Instr} {n : Nat} {o : List Output} {s : State} (d : Nat) (h : Keeps q n o s) :
    Keeps q n o (State.clearDie s d) := by
  unfold State.clearDie
  try dsimp only
  repeat' first
    | with_reducible assumption
    | with_reducible apply Engine.zero_keeps
    | with_reducible apply State.forAll_keeps
    | with_reducible apply State.ibStatus_keeps
    | with_reducible refine State.onLofts_keeps ?_ (fun ⟨m0, m1, m2, m3, m4⟩ => ⟨?_, ?_, ?_, ?_, ?_⟩)
    | with_reducible apply State.setEng_keeps
    | with_reducible apply State.setReg_keeps
    | with_reducible apply mwf_mset
    | with_reducible apply mwf_mclear
    | with_reducible refine Keeps.eng (q := q) (n := n) (o := o) ?_ _ _
    | split
    | dsimp only
    | (with_reducible refine Engine.Canonical.spad ?_; first | with_reducible assumption | with_reducible refine Keeps.eng (q := q) (n := n) (o := o) ?_ _ _ | with_reducible apply Engine.zero_keeps)
    | (with_reducible refine Engine.Canonical.poison ?_; first | with_reducible assumption | with_reducible refine Keeps.eng (q := q) (n := n) (o := o) ?_ _ _ | with_reducible apply Engine.zero_keeps)
    | (with_reducible refine Engine.Canonical.acc ?_; first | with_reducible assumption | with_reducible refine Keeps.eng (q := q) (n := n) (o := o) ?_ _ _ | with_reducible apply Engine.zero_keeps)
    | (with_reducible refine Engine.Canonical.vreg ?_; first | with_reducible assumption | with_reducible refine Keeps.eng (q := q) (n := n) (o := o) ?_ _ _ | with_reducible apply Engine.zero_keeps)
    | (with_reducible refine Engine.Canonical.set0 ?_; first | with_reducible assumption | with_reducible refine Keeps.eng (q := q) (n := n) (o := o) ?_ _ _ | with_reducible apply Engine.zero_keeps)
    | (with_reducible refine Engine.Canonical.set1 ?_; first | with_reducible assumption | with_reducible refine Keeps.eng (q := q) (n := n) (o := o) ?_ _ _ | with_reducible apply Engine.zero_keeps)
    | (with_reducible refine Engine.Canonical.tags ?_; first | with_reducible assumption | with_reducible refine Keeps.eng (q := q) (n := n) (o := o) ?_ _ _ | with_reducible apply Engine.zero_keeps)
    | (with_reducible refine Engine.Canonical.kept ?_; first | with_reducible assumption | with_reducible refine Keeps.eng (q := q) (n := n) (o := o) ?_ _ _ | with_reducible apply Engine.zero_keeps)
    | exact Engine.zero_canonical
    | with_reducible refine Engine.Canonical.mk ?_ ?_ ?_ ?_ ?_ ?_ ?_ ?_
    | intro _
    | exact id

theorem State.clearDone_keeps {q : List Instr} {n : Nat} {o : List Output} {s : State} (d : Nat) (mismatch : Bool) (failing : List PhysEng) (h : Keeps q n o s) :
    Keeps q n o (State.clearDone s d mismatch failing) := by
  unfold State.clearDone
  try dsimp only
  repeat' first
    | with_reducible assumption
    | with_reducible apply State.clearDie_keeps
    | with_reducible apply State.forAll_keeps
    | with_reducible apply State.raise_keeps
    | with_reducible apply State.selfTest_keeps
    | with_reducible apply State.setFld_keeps
    | with_reducible apply State.setReg_keeps
    | split
    | dsimp only
    | intro _
    | exact id

theorem State.patrol_keeps {q : List Instr} {n : Nat} {o : List Output} {s : State} (d w : Nat) (m : Medium) (h : Keeps q n o s) :
    Keeps q n o (State.patrol s d w m) := by
  unfold State.patrol
  try dsimp only
  repeat' first
    | with_reducible assumption
    | with_reducible apply State.loftMeet_keeps
    | split
    | dsimp only
    | intro _
    | exact id

theorem State.loftRequest_keeps {q : List Instr} {n' : Nat} {o : List Output} {s : State} (d : Nat) (bay : Option Nat) (la n : Nat) (bs : Option (List PByte)) (m : Medium) (h : Keeps q n' o s) :
    Keeps q n' o (State.loftRequest s d bay la n bs m) := by
  unfold State.loftRequest
  try dsimp only
  repeat' first
    | with_reducible assumption
    | with_reducible apply State.emit_keeps
    | with_reducible apply State.loftMeet_keeps
    | with_reducible apply State.loftPut_keeps
    | split
    | dsimp only
    | intro _
    | exact id

theorem execSpadOwnWrite_keeps {q : List Instr} {n : Nat} {o : List Output} (die : CDie) (eng : PhysEng) (bank : BitVec 4) (data : W32) {s : State} (h : Keeps q n o s) :
    ∃ t, execSpadOwnWrite die eng bank data s = .next t ∧ Keeps q n o t := by
  refine ⟨_, rfl, ?_⟩
  try dsimp only
  repeat' first
    | with_reducible assumption
    | with_reducible apply State.spadOwnWrite_keeps
    | split
    | dsimp only
    | intro _
    | exact id

theorem execSpadHandover_keeps {q : List Instr} {n : Nat} {o : List Output} (die : CDie) (eng : PhysEng) (bank : BitVec 4) {s : State} (h : Keeps q n o s) :
    ∃ t, execSpadHandover die eng bank s = .next t ∧ Keeps q n o t := by
  refine ⟨_, rfl, ?_⟩
  try dsimp only
  repeat' first
    | with_reducible assumption
    | with_reducible apply State.spadHandover_keeps
    | split
    | dsimp only
    | intro _
    | exact id

theorem execClearStart_keeps {q : List Instr} {n : Nat} {o : List Output} (by_ : Agent) (die : CDie) {s : State} (h : Keeps q n o s) :
    ∃ t, execClearStart by_ die s = .next t ∧ Keeps q n o t := by
  refine ⟨_, rfl, ?_⟩
  try dsimp only
  repeat' first
    | with_reducible assumption
    | with_reducible apply State.clearStart_keeps
    | split
    | dsimp only
    | intro _
    | exact id

theorem execPatrolScrubRead_keeps {q : List Instr} {n : Nat} {o : List Output} (die : CDie) (word : BitVec 22) (m : Medium) {s : State} (h : Keeps q n o s) :
    ∃ t, execPatrolScrubRead die word m s = .next t ∧ Keeps q n o t := by
  refine ⟨_, rfl, ?_⟩
  try dsimp only
  repeat' first
    | with_reducible assumption
    | with_reducible apply State.patrol_keeps
    | split
    | dsimp only
    | intro _
    | exact id

theorem execLoftRequest_keeps {q : List Instr} {n' : Nat} {o : List Output} (die : CDie) (bay : Option BayId) (la : BitVec 25) (n : Nat) (bs : Option (List PByte)) (m : Medium) {s : State} (h : Keeps q n' o s) :
    ∃ t, execLoftRequest die bay la n bs m s = .next t ∧ Keeps q n' o t := by
  refine ⟨_, rfl, ?_⟩
  try dsimp only
  repeat' first
    | with_reducible assumption
    | with_reducible apply State.loftRequest_keeps
    | split
    | dsimp only
    | intro _
    | exact id

end Sys2Proof.Machine
end

