-- ==== Sys2Proof/Laws/KeepsQueue.lean ====
section
/-! SUPPORT. What each operation of Machine/Queue.lean keeps (Laws/Keeps.lean). -/

namespace Sys2Proof.Machine

theorem State.doorbell_keeps {q' : List Instr} {n : Nat} {o : List Output} {s : State} (q d : Nat) (h : Keeps q' n o s) :
    Keeps q' n o (State.doorbell s q d) := by
  unfold State.doorbell
  try dsimp only
  repeat' first
    | with_reducible assumption
    | with_reducible apply State.count_keeps
    | with_reducible apply State.haltQueue_keeps
    | with_reducible apply State.setQx_keeps
    | with_reducible apply State.setReg_keeps
    | with_reducible apply State.tickStamp_keeps
    | split
    | dsimp only
    | intro _
    | exact id

theorem State.readPacket_keeps {q' : List Instr} {n : Nat} {o : List Output} {s : State} (q pos : Nat) (h : Keeps q' n o s) :
    Keeps q' n o (State.readPacket s q pos) := by
  unfold State.readPacket
  try dsimp only
  repeat' first
    | with_reducible assumption
    | with_reducible apply State.ccRead_keeps
    | with_reducible apply State.emit_keeps
    | with_reducible apply State.setQx_keeps
    | split
    | dsimp only
    | intro _
    | exact id

theorem State.commandFetch_keeps {q : List Instr} {n : Nat} {o : List Output} {s : State} (cp : Nat) (h : Keeps q n o s) :
    Keeps q n o (State.commandFetch s cp) := by
  unfold State.commandFetch
  try dsimp only
  repeat' first
    | with_reducible assumption
    | with_reducible apply State.count_keeps
    | with_reducible apply State.readPacket_keeps
    | split
    | dsimp only
    | intro _
    | exact id

theorem State.slotsVa_keeps {q' : List Instr} {n' : Nat} {o : List Output} {s : State} (q pos n : Nat) (h : Keeps q' n' o s) :
    Keeps q' n' o (State.slotsVa s q pos n).1 := by
  unfold State.slotsVa
  try dsimp only
  repeat' first
    | with_reducible assumption
    | with_reducible apply Engine.fail_keeps
    | with_reducible apply State.vaRead_keeps
    | with_reducible apply foldl_state
    | with_reducible apply foldl_fst_state
    | with_reducible apply mwf_foldl
    | split
    | dsimp only
    | intro _
    | exact id

theorem State.packet_keeps {q' : List Instr} {n : Nat} {o : List Output} {s : State} (q pos : Nat) (ws : List W32) (fail : Nat) (h : Keeps q' n o s) :
    Keeps q' n o (State.packet s q pos ws fail).1 := by
  unfold State.packet
  try dsimp only
  repeat' first
    | with_reducible assumption
    | with_reducible apply Engine.fail_keeps
    | with_reducible apply State.count64_keeps
    | with_reducible apply State.slotsVa_keeps
    | split
    | dsimp only
    | intro _
    | exact id

theorem State.enterBreak_keeps {q : List Instr} {n : Nat} {o : List Output} {s : State} (c : Cmd) (h : Keeps q n o s) :
    Keeps q n o (State.enterBreak s c) := by
  unfold State.enterBreak
  try dsimp only
  repeat' first
    | with_reducible assumption
    | with_reducible apply State.jnlState_keeps
    | with_reducible apply State.qVector_keeps
    | with_reducible apply State.setCmd_keeps
    | with_reducible apply State.setFld_keeps
    | with_reducible apply State.setQState_keeps
    | with_reducible apply State.setReg_keeps
    | split
    | dsimp only
    | intro _
    | exact id

theorem State.accept_keeps {q' : List Instr} {n : Nat} {o : List Output} {s : State} (q pos : Nat) (ws : List W32) (fail : Option Nat) (h : Keeps q' n o s) :
    Keeps q' n o (State.accept s q pos ws fail) := by
  unfold State.accept
  try dsimp only
  repeat' first
    | with_reducible assumption
    | with_reducible apply Engine.fail_keeps
    | with_reducible apply State.acceptCmd_keeps
    | with_reducible apply State.complete_keeps
    | with_reducible apply State.enterBreak_keeps
    | with_reducible apply State.setQx_keeps
    | with_reducible apply State.setReg_keeps
    | split
    | dsimp only
    | intro _
    | exact id

theorem State.ringReadComplete_keeps {q' : List Instr} {n : Nat} {o : List Output} {s : State} (q : Nat) (ws0 : List W32) (fail : Nat) (h : Keeps q' n o s) :
    Keeps q' n o (State.ringReadComplete s q ws0 fail) := by
  unfold State.ringReadComplete
  try dsimp only
  repeat' first
    | with_reducible assumption
    | with_reducible apply Engine.fail_keeps
    | with_reducible apply Engine.keep_keeps
    | with_reducible apply State.accept_keeps
    | with_reducible apply State.count_keeps
    | with_reducible apply State.packet_keeps
    | with_reducible apply State.setQx_keeps
    | split
    | dsimp only
    | intro _
    | exact id

theorem State.commandStart_keeps {q : List Instr} {n : Nat} {o : List Output} {s : State} (r : CmdRef) (h : Keeps q n o s) :
    Keeps q n o (State.commandStart s r) := by
  unfold State.commandStart
  try dsimp only
  repeat' first
    | with_reducible assumption
    | with_reducible apply State.startCmd_keeps
    | split
    | dsimp only
    | intro _
    | exact id

theorem State.commandComplete_keeps {q : List Instr} {n : Nat} {o : List Output} {s : State} (r : CmdRef) (h : Keeps q n o s) :
    Keeps q n o (State.commandComplete s r) := by
  unfold State.commandComplete
  try dsimp only
  repeat' first
    | with_reducible assumption
    | with_reducible apply State.complete_keeps
    | split
    | dsimp only
    | intro _
    | exact id

theorem State.localSignal_keeps {q : List Instr} {n : Nat} {o : List Output} {s : State} (c : Cmd) (h : Keeps q n o s) :
    Keeps q n o (State.localSignal s c) := by
  unfold State.localSignal
  try dsimp only
  repeat' first
    | with_reducible assumption
    | with_reducible apply State.dropCmd_keeps
    | with_reducible apply State.signal_keeps
    | split
    | dsimp only
    | intro _
    | exact id

theorem State.depTimeout_keeps {q : List Instr} {n : Nat} {o : List Output} {s : State} (r : CmdRef) (h : Keeps q n o s) :
    Keeps q n o (State.depTimeout s r) := by
  unfold State.depTimeout
  try dsimp only
  repeat' first
    | with_reducible assumption
    | with_reducible apply State.complete_keeps
    | split
    | dsimp only
    | intro _
    | exact id

theorem State.depScan_keeps {q : List Instr} {n : Nat} {o : List Output} {s : State} (h : Keeps q n o s) :
    Keeps q n o (State.depScan s) := by
  unfold State.depScan
  try dsimp only
  repeat' first
    | with_reducible assumption
    | with_reducible apply State.complete_keeps
    | with_reducible apply State.forAll_keeps
    | with_reducible apply State.raise_keeps
    | split
    | dsimp only
    | intro _
    | exact id

theorem State.cplHeadWrite_keeps {q' : List Instr} {n : Nat} {o : List Output} {s : State} (q d : Nat) (h : Keeps q' n o s) :
    Keeps q' n o (State.cplHeadWrite s q d) := by
  unfold State.cplHeadWrite
  try dsimp only
  repeat' first
    | with_reducible assumption
    | with_reducible apply State.count_keeps
    | with_reducible apply State.setReg_keeps
    | split
    | dsimp only
    | intro _
    | exact id

theorem State.qEnable_keeps {q' : List Instr} {n : Nat} {o : List Output} {s : State} (q : Nat) (h : Keeps q' n o s) :
    Keeps q' n o (State.qEnable s q) := by
  unfold State.qEnable
  try dsimp only
  repeat' first
    | with_reducible assumption
    | with_reducible apply Engine.zero_keeps
    | with_reducible apply State.forAll_keeps
    | with_reducible apply State.setFld_keeps
    | with_reducible apply State.setQState_keeps
    | with_reducible apply State.setQx_keeps
    | with_reducible apply State.setReg_keeps
    | split
    | dsimp only
    | intro _
    | exact id

theorem State.cancelUnstarted_keeps {q' : List Instr} {n : Nat} {o : List Output} {s : State} (q : Nat) (h : Keeps q' n o s) :
    Keeps q' n o (State.cancelUnstarted s q) := by
  unfold State.cancelUnstarted
  try dsimp only
  repeat' first
    | with_reducible assumption
    | with_reducible apply State.ckptEnd_keeps
    | with_reducible apply State.complete_keeps
    | with_reducible apply State.forAll_keeps
    | split
    | dsimp only
    | intro _
    | exact id

theorem State.qDisable_keeps {q' : List Instr} {n : Nat} {o : List Output} {s : State} (q : Nat) (h : Keeps q' n o s) :
    Keeps q' n o (State.qDisable s q) := by
  unfold State.qDisable
  try dsimp only
  repeat' first
    | with_reducible assumption
    | with_reducible apply State.cancelUnstarted_keeps
    | with_reducible apply State.setQx_keeps
    | with_reducible apply State.settleDisable_keeps
    | split
    | dsimp only
    | intro _
    | exact id

theorem State.withdraw_keeps {q : List Instr} {n : Nat} {o : List Output} {s : State} (c : Cmd) (d p : Nat) (h : Keeps q n o s) :
    Keeps q n o (State.withdraw s c d p) := by
  unfold State.withdraw
  try dsimp only
  repeat' first
    | with_reducible assumption
    | with_reducible apply State.setEng_keeps
    | with_reducible apply State.setUsed_keeps
    | with_reducible refine Keeps.eng (q := q) (n := n) (o := o) ?_ _ _
    | split
    | dsimp only
    | (with_reducible refine Engine.Canonical.spad ?_; first | with_reducible assumption | with_reducible refine Keeps.eng (q := q) (n := n) (o := o) ?_ _ _)
    | (with_reducible refine Engine.Canonical.poison ?_; first | with_reducible assumption | with_reducible refine Keeps.eng (q := q) (n := n) (o := o) ?_ _ _)
    | (with_reducible refine Engine.Canonical.acc ?_; first | with_reducible assumption | with_reducible refine Keeps.eng (q := q) (n := n) (o := o) ?_ _ _)
    | (with_reducible refine Engine.Canonical.vreg ?_; first | with_reducible assumption | with_reducible refine Keeps.eng (q := q) (n := n) (o := o) ?_ _ _)
    | (with_reducible refine Engine.Canonical.set0 ?_; first | with_reducible assumption | with_reducible refine Keeps.eng (q := q) (n := n) (o := o) ?_ _ _)
    | (with_reducible refine Engine.Canonical.set1 ?_; first | with_reducible assumption | with_reducible refine Keeps.eng (q := q) (n := n) (o := o) ?_ _ _)
    | (with_reducible refine Engine.Canonical.tags ?_; first | with_reducible assumption | with_reducible refine Keeps.eng (q := q) (n := n) (o := o) ?_ _ _)
    | (with_reducible refine Engine.Canonical.kept ?_; first | with_reducible assumption | with_reducible refine Keeps.eng (q := q) (n := n) (o := o) ?_ _ _)
    | exact Engine.zero_canonical
    | with_reducible refine Engine.Canonical.mk ?_ ?_ ?_ ?_ ?_ ?_ ?_ ?_
    | intro _
    | exact id

theorem State.withdrawLaunches_keeps {q : List Instr} {n : Nat} {o : List Output} {s : State} (c : Cmd) (h : Keeps q n o s) :
    Keeps q n o (State.withdrawLaunches s c) := by
  unfold State.withdrawLaunches
  try dsimp only
  repeat' first
    | with_reducible assumption
    | with_reducible apply State.dropAdm_keeps
    | with_reducible apply State.forAll_keeps
    | with_reducible apply State.jnlState_keeps
    | with_reducible apply State.setCmd_keeps
    | with_reducible apply State.withdraw_keeps
    | split
    | dsimp only
    | intro _
    | exact id

theorem State.qPreempt_keeps {q' : List Instr} {n : Nat} {o : List Output} {s : State} (q : Nat) (h : Keeps q' n o s) :
    Keeps q' n o (State.qPreempt s q) := by
  unfold State.qPreempt
  try dsimp only
  repeat' first
    | with_reducible assumption
    | with_reducible apply State.forAll_keeps
    | with_reducible apply State.setFld_keeps
    | with_reducible apply State.setQState_keeps
    | with_reducible apply State.setQx_keeps
    | with_reducible apply State.withdrawLaunches_keeps
    | split
    | dsimp only
    | intro _
    | exact id

theorem State.queuePreempted_keeps {q' : List Instr} {n : Nat} {o : List Output} {s : State} (q : Nat) (h : Keeps q' n o s) :
    Keeps q' n o (State.queuePreempted s q) := by
  unfold State.queuePreempted
  try dsimp only
  repeat' first
    | with_reducible assumption
    | with_reducible apply State.qVector_keeps
    | with_reducible apply State.setFld_keeps
    | with_reducible apply State.setQState_keeps
    | with_reducible apply State.setReg_keeps
    | split
    | dsimp only
    | intro _
    | exact id

theorem State.resumeTo_keeps {q' : List Instr} {n : Nat} {o : List Output} {s : State} (q : Nat) (h : Keeps q' n o s) :
    Keeps q' n o (State.resumeTo s q) := by
  unfold State.resumeTo
  try dsimp only
  repeat' first
    | with_reducible assumption
    | with_reducible apply State.setQState_keeps
    | with_reducible apply State.setQx_keeps
    | split
    | dsimp only
    | intro _
    | exact id

theorem State.unstop_keeps {q' : List Instr} {n : Nat} {o : List Output} {s : State} (q : Nat) (h : Keeps q' n o s) :
    Keeps q' n o (State.unstop s q) := by
  unfold State.unstop
  try dsimp only
  repeat' first
    | with_reducible assumption
    | with_reducible apply State.forAll_keeps
    | with_reducible apply State.jnlState_keeps
    | with_reducible apply State.setCmd_keeps
    | split
    | dsimp only
    | intro _
    | exact id

theorem State.unpause_keeps {q' : List Instr} {n : Nat} {o : List Output} {s : State} (q : Nat) (h : Keeps q' n o s) :
    Keeps q' n o (State.unpause s q) := by
  unfold State.unpause
  try dsimp only
  repeat' first
    | with_reducible assumption
    | with_reducible apply State.forAll_keeps
    | with_reducible apply State.setCmd_keeps
    | split
    | dsimp only
    | intro _
    | exact id

theorem State.resumeContinue_keeps {q' : List Instr} {n : Nat} {o : List Output} {s : State} (q : Nat) (h : Keeps q' n o s) :
    Keeps q' n o (State.resumeContinue s q) := by
  unfold State.resumeContinue
  try dsimp only
  repeat' first
    | with_reducible assumption
    | with_reducible apply State.resumeTo_keeps
    | with_reducible apply State.unpause_keeps
    | with_reducible apply State.unstop_keeps
    | split
    | dsimp only
    | intro _
    | exact id

theorem State.resumeRetry_keeps {q' : List Instr} {n : Nat} {o : List Output} {s : State} (q : Nat) (h : Keeps q' n o s) :
    Keeps q' n o (State.resumeRetry s q) := by
  unfold State.resumeRetry
  try dsimp only
  repeat' first
    | with_reducible assumption
    | with_reducible apply State.readPacket_keeps
    | with_reducible apply State.resumeTo_keeps
    | with_reducible apply State.setQx_keeps
    | split
    | dsimp only
    | intro _
    | exact id

theorem State.resumeDiscard_keeps {q' : List Instr} {n : Nat} {o : List Output} {s : State} (q : Nat) (h : Keeps q' n o s) :
    Keeps q' n o (State.resumeDiscard s q) := by
  unfold State.resumeDiscard
  try dsimp only
  repeat' first
    | with_reducible assumption
    | with_reducible apply State.cancelUnstarted_keeps
    | with_reducible apply State.resumeTo_keeps
    | with_reducible apply State.setQx_keeps
    | with_reducible apply State.setReg_keeps
    | split
    | dsimp only
    | intro _
    | exact id

theorem State.brkCtrlWrite_keeps {q' : List Instr} {n : Nat} {o : List Output} {s : State} (q v : Nat) (h : Keeps q' n o s) :
    Keeps q' n o (State.brkCtrlWrite s q v) := by
  unfold State.brkCtrlWrite
  try dsimp only
  repeat' first
    | with_reducible assumption
    | with_reducible apply State.setReg_keeps
    | split
    | dsimp only
    | intro _
    | exact id

theorem State.evtSig_keeps {q : List Instr} {n : Nat} {o : List Output} {s : State} (v : Nat) (h : Keeps q n o s) :
    Keeps q n o (State.evtSig s v) := by
  unfold State.evtSig
  try dsimp only
  repeat' first
    | with_reducible assumption
    | with_reducible apply State.count_keeps
    | with_reducible apply State.signal_keeps
    | split
    | dsimp only
    | intro _
    | exact id

theorem State.jnlAckWrite_keeps {q : List Instr} {n : Nat} {o : List Output} {s : State} (d : Nat) (h : Keeps q n o s) :
    Keeps q n o (State.jnlAckWrite s d) := by
  unfold State.jnlAckWrite
  try dsimp only
  repeat' first
    | with_reducible assumption
    | with_reducible apply State.setReg_keeps
    | split
    | dsimp only
    | intro _
    | exact id

theorem execDoorbell_keeps {q' : List Instr} {n : Nat} {o : List Output} (q : QId) (tail : W32) {s : State} (h : Keeps q' n o s) :
    ∃ t, execDoorbell q tail s = .next t ∧ Keeps q' n o t := by
  refine ⟨_, rfl, ?_⟩
  try dsimp only
  repeat' first
    | with_reducible assumption
    | with_reducible apply State.doorbell_keeps
    | split
    | dsimp only
    | intro _
    | exact id

theorem execCommandFetch_keeps {q : List Instr} {n : Nat} {o : List Output} (cp : Fin 8) {s : State} (h : Keeps q n o s) :
    ∃ t, execCommandFetch cp s = .next t ∧ Keeps q n o t := by
  refine ⟨_, rfl, ?_⟩
  try dsimp only
  repeat' first
    | with_reducible assumption
    | with_reducible apply State.commandFetch_keeps
    | split
    | dsimp only
    | intro _
    | exact id

theorem execRingReadComplete_keeps {q' : List Instr} {n : Nat} {o : List Output} (q : QId) (words : List W32) (fail : W16) {s : State} (h : Keeps q' n o s) :
    ∃ t, execRingReadComplete q words fail s = .next t ∧ Keeps q' n o t := by
  refine ⟨_, rfl, ?_⟩
  try dsimp only
  repeat' first
    | with_reducible assumption
    | with_reducible apply Engine.fail_keeps
    | with_reducible apply State.ringReadComplete_keeps
    | split
    | dsimp only
    | intro _
    | exact id

theorem execCommandStart_keeps {q : List Instr} {n : Nat} {o : List Output} (c : CmdRef) {s : State} (h : Keeps q n o s) :
    ∃ t, execCommandStart c s = .next t ∧ Keeps q n o t := by
  refine ⟨_, rfl, ?_⟩
  try dsimp only
  repeat' first
    | with_reducible assumption
    | with_reducible apply State.commandStart_keeps
    | split
    | dsimp only
    | intro _
    | exact id

theorem execCommandComplete_keeps {q : List Instr} {n : Nat} {o : List Output} (c : CmdRef) {s : State} (h : Keeps q n o s) :
    ∃ t, execCommandComplete c s = .next t ∧ Keeps q n o t := by
  refine ⟨_, rfl, ?_⟩
  try dsimp only
  repeat' first
    | with_reducible assumption
    | with_reducible apply State.commandComplete_keeps
    | split
    | dsimp only
    | intro _
    | exact id

theorem execDepTimeout_keeps {q : List Instr} {n : Nat} {o : List Output} (c : CmdRef) {s : State} (h : Keeps q n o s) :
    ∃ t, execDepTimeout c s = .next t ∧ Keeps q n o t := by
  refine ⟨_, rfl, ?_⟩
  try dsimp only
  repeat' first
    | with_reducible assumption
    | with_reducible apply State.depTimeout_keeps
    | split
    | dsimp only
    | intro _
    | exact id

theorem execDepScan_keeps {q : List Instr} {n : Nat} {o : List Output} {s : State} (h : Keeps q n o s) :
    ∃ t, execDepScan s = .next t ∧ Keeps q n o t := by
  refine ⟨_, rfl, ?_⟩
  try dsimp only
  repeat' first
    | with_reducible assumption
    | with_reducible apply State.depScan_keeps
    | split
    | dsimp only
    | intro _
    | exact id

theorem execCplHeadWrite_keeps {q' : List Instr} {n : Nat} {o : List Output} (q : QId) (head : W32) {s : State} (h : Keeps q' n o s) :
    ∃ t, execCplHeadWrite q head s = .next t ∧ Keeps q' n o t := by
  refine ⟨_, rfl, ?_⟩
  try dsimp only
  repeat' first
    | with_reducible assumption
    | with_reducible apply State.cplHeadWrite_keeps
    | split
    | dsimp only
    | intro _
    | exact id

theorem execQEnable_keeps {q' : List Instr} {n : Nat} {o : List Output} (q : QId) {s : State} (h : Keeps q' n o s) :
    ∃ t, execQEnable q s = .next t ∧ Keeps q' n o t := by
  refine ⟨_, rfl, ?_⟩
  try dsimp only
  repeat' first
    | with_reducible assumption
    | with_reducible apply State.qEnable_keeps
    | split
    | dsimp only
    | intro _
    | exact id

theorem execQDisable_keeps {q' : List Instr} {n : Nat} {o : List Output} (q : QId) {s : State} (h : Keeps q' n o s) :
    ∃ t, execQDisable q s = .next t ∧ Keeps q' n o t := by
  refine ⟨_, rfl, ?_⟩
  try dsimp only
  repeat' first
    | with_reducible assumption
    | with_reducible apply State.qDisable_keeps
    | split
    | dsimp only
    | intro _
    | exact id

theorem execResumeContinue_keeps {q' : List Instr} {n : Nat} {o : List Output} (q : QId) {s : State} (h : Keeps q' n o s) :
    ∃ t, execResumeContinue q s = .next t ∧ Keeps q' n o t := by
  refine ⟨_, rfl, ?_⟩
  try dsimp only
  repeat' first
    | with_reducible assumption
    | with_reducible apply State.resumeContinue_keeps
    | split
    | dsimp only
    | intro _
    | exact id

theorem execResumeRetry_keeps {q' : List Instr} {n : Nat} {o : List Output} (q : QId) {s : State} (h : Keeps q' n o s) :
    ∃ t, execResumeRetry q s = .next t ∧ Keeps q' n o t := by
  refine ⟨_, rfl, ?_⟩
  try dsimp only
  repeat' first
    | with_reducible assumption
    | with_reducible apply State.resumeRetry_keeps
    | split
    | dsimp only
    | intro _
    | exact id

theorem execResumeDiscard_keeps {q' : List Instr} {n : Nat} {o : List Output} (q : QId) {s : State} (h : Keeps q' n o s) :
    ∃ t, execResumeDiscard q s = .next t ∧ Keeps q' n o t := by
  refine ⟨_, rfl, ?_⟩
  try dsimp only
  repeat' first
    | with_reducible assumption
    | with_reducible apply State.resumeDiscard_keeps
    | split
    | dsimp only
    | intro _
    | exact id

theorem execQPreempt_keeps {q' : List Instr} {n : Nat} {o : List Output} (q : QId) {s : State} (h : Keeps q' n o s) :
    ∃ t, execQPreempt q s = .next t ∧ Keeps q' n o t := by
  refine ⟨_, rfl, ?_⟩
  try dsimp only
  repeat' first
    | with_reducible assumption
    | with_reducible apply State.qPreempt_keeps
    | split
    | dsimp only
    | intro _
    | exact id

theorem execQueuePreempted_keeps {q' : List Instr} {n : Nat} {o : List Output} (q : QId) {s : State} (h : Keeps q' n o s) :
    ∃ t, execQueuePreempted q s = .next t ∧ Keeps q' n o t := by
  refine ⟨_, rfl, ?_⟩
  try dsimp only
  repeat' first
    | with_reducible assumption
    | with_reducible apply State.queuePreempted_keeps
    | split
    | dsimp only
    | intro _
    | exact id

theorem execBrkCtrlWrite_keeps {q' : List Instr} {n : Nat} {o : List Output} (q : QId) (data : W32) {s : State} (h : Keeps q' n o s) :
    ∃ t, execBrkCtrlWrite q data s = .next t ∧ Keeps q' n o t := by
  refine ⟨_, rfl, ?_⟩
  try dsimp only
  repeat' first
    | with_reducible assumption
    | with_reducible apply State.brkCtrlWrite_keeps
    | split
    | dsimp only
    | intro _
    | exact id

theorem execEvtSig_keeps {q : List Instr} {n : Nat} {o : List Output} (data : W64) {s : State} (h : Keeps q n o s) :
    ∃ t, execEvtSig data s = .next t ∧ Keeps q n o t := by
  refine ⟨_, rfl, ?_⟩
  try dsimp only
  repeat' first
    | with_reducible assumption
    | with_reducible apply State.evtSig_keeps
    | split
    | dsimp only
    | intro _
    | exact id

theorem execJnlAckWrite_keeps {q : List Instr} {n : Nat} {o : List Output} (pos : W32) {s : State} (h : Keeps q n o s) :
    ∃ t, execJnlAckWrite pos s = .next t ∧ Keeps q n o t := by
  refine ⟨_, rfl, ?_⟩
  try dsimp only
  repeat' first
    | with_reducible assumption
    | with_reducible apply State.jnlAckWrite_keeps
    | split
    | dsimp only
    | intro _
    | exact id

end Sys2Proof.Machine
end

