-- ==== Sys2Proof/Laws/KeepsOpcodes.lean ====
section
/-! SUPPORT. What each operation of Machine/Opcodes.lean keeps (Laws/Keeps.lean). -/

namespace Sys2Proof.Machine

theorem State.endsWith_keeps {q : List Instr} {n : Nat} {o : List Output} (c : Cmd) (st : Nat) {s : State} (h : Keeps q n o s) :
    Keeps q n o (State.endsWith c st s) := by
  unfold State.endsWith
  try dsimp only
  repeat' first
    | with_reducible assumption
    | with_reducible apply State.finish_keeps
    | split
    | dsimp only
    | intro _
    | exact id

theorem State.endsDie_keeps {q : List Instr} {n : Nat} {o : List Output} (c : Cmd) (d st : Nat) {s : State} (h : Keeps q n o s) :
    Keeps q n o (State.endsDie c d st s) := by
  unfold State.endsDie
  try dsimp only
  repeat' first
    | with_reducible assumption
    | with_reducible apply State.finish_keeps
    | split
    | dsimp only
    | intro _
    | exact id

theorem State.enterPart_keeps {q : List Instr} {n : Nat} {o : List Output} {s : State} (c : Cmd) (x : Part) (h : Keeps q n o s) :
    Keeps q n o (State.enterPart s c x) := by
  unfold State.enterPart
  try dsimp only
  repeat' first
    | with_reducible assumption
    | with_reducible apply State.enqueue_keeps
    | with_reducible refine Keeps.eng (q := q) (n := n) (o := o) ?_ _ _
    | split
    | dsimp only
    | intro _
    | exact id

theorem State.launchAll_keeps {q : List Instr} {n : Nat} {o : List Output} {s : State} (c : Cmd) (h : Keeps q n o s) :
    Keeps q n o (State.launchAll s c) := by
  unfold State.launchAll
  try dsimp only
  repeat' first
    | with_reducible assumption
    | with_reducible apply State.enterPart_keeps
    | with_reducible apply State.forAll_keeps
    | with_reducible apply State.setCmd_keeps
    | split
    | dsimp only
    | intro _
    | exact id

theorem State.launchAdmit_keeps {q : List Instr} {n : Nat} {o : List Output} (c : Cmd) {s : State} (h : Keeps q n o s) :
    Keeps q n o (State.launchAdmit c s) := by
  unfold State.launchAdmit
  have ha := State.admit_keeps c (c.bay.getD 0) [(2, (launchEngines c).length)] h
  revert ha
  generalize s.admitUnits c (c.bay.getD 0) [(2, (launchEngines c).length)] = a
  intro ha
  cases a with
  | served c' s' => exact State.launchAll_keeps _ (ha _ (.inl ⟨_, rfl⟩))
  | waits s' => exact ha _ (.inr (.inl rfl))
  | refused s' => exact ha _ (.inr (.inr rfl))

theorem State.launchUp_keeps {q : List Instr} {n : Nat} {o : List Output} (c : Cmd) {s : State} (hole : Option Nat) (h : Keeps q n o s) :
    Keeps q n o (State.launchUp c s hole) := by
  cases hole with
  | some l => exact State.finish_keeps _ _ _ _ h
  | none => exact State.launchAdmit_keeps _ h

theorem State.launchOn_keeps {q : List Instr} {n : Nat} {o : List Output} (c : Cmd) {s : State} (refusal : Option Nat) (h : Keeps q n o s) :
    Keeps q n o (State.launchOn c s refusal) := by
  unfold State.launchOn
  try dsimp only
  repeat' first
    | with_reducible assumption
    | with_reducible apply State.endsDie_keeps
    | with_reducible apply State.launchUp_keeps
    | split
    | dsimp only
    | intro _
    | exact id

theorem State.tileLaunch_keeps {q : List Instr} {n : Nat} {o : List Output} (c : Cmd) {s : State} (h : Keeps q n o s) :
    Keeps q n o (State.tileLaunch c s) := State.launchOn_keeps c _ h

theorem State.relaunch_keeps {q : List Instr} {n : Nat} {o : List Output} (c : Cmd) {s : State} (h : Keeps q n o s) :
    Keeps q n o (State.relaunch c s) := by
  unfold State.relaunch
  try dsimp only
  repeat' first
    | with_reducible assumption
    | with_reducible apply State.enterPart_keeps
    | with_reducible apply State.forAll_keeps
    | with_reducible apply State.setCmd_keeps
    | with_reducible apply State.setUsed_keeps
    | split
    | dsimp only
    | intro _
    | exact id

theorem State.copyStart_keeps {q : List Instr} {n : Nat} {o : List Output} (copy : Bool) (c : Cmd) {s : State} (h : Keeps q n o s) :
    Keeps q n o (State.copyStart copy c s) := by
  unfold State.copyStart
  try dsimp only
  repeat' first
    | with_reducible assumption
    | with_reducible apply State.endsWith_keeps
    | with_reducible apply State.finish_keeps
    | with_reducible apply State.setCmd_keeps
    | split
    | dsimp only
    | intro _
    | exact id

theorem State.chunkRead_keeps {q : List Instr} {n' : Nat} {o : List Output} {s : State} (c : Cmd) (x : Side) (off n : Nat) (ecc : Ecc) (m : Medium) (h : Keeps q n' o s) :
    Keeps q n' o (State.chunkRead s c x off n ecc m).1 := by
  unfold State.chunkRead
  try dsimp only
  repeat' first
    | with_reducible assumption
    | with_reducible apply Engine.fail_keeps
    | with_reducible apply Engine.markWord_keeps
    | with_reducible apply State.dmaEcc_keeps
    | with_reducible apply State.loftMeet_keeps
    | with_reducible apply State.setEng_keeps
    | with_reducible apply State.vaReadM_keeps
    | with_reducible refine Keeps.eng (q := q) (n := n') (o := o) ?_ _ _
    | split
    | dsimp only
    | (with_reducible refine Engine.Canonical.spad ?_; first | with_reducible assumption | with_reducible refine Keeps.eng (q := q) (n := n') (o := o) ?_ _ _ | with_reducible apply Engine.fail_keeps | with_reducible apply Engine.markWord_keeps)
    | (with_reducible refine Engine.Canonical.poison ?_; first | with_reducible assumption | with_reducible refine Keeps.eng (q := q) (n := n') (o := o) ?_ _ _ | with_reducible apply Engine.fail_keeps | with_reducible apply Engine.markWord_keeps)
    | (with_reducible refine Engine.Canonical.acc ?_; first | with_reducible assumption | with_reducible refine Keeps.eng (q := q) (n := n') (o := o) ?_ _ _ | with_reducible apply Engine.fail_keeps | with_reducible apply Engine.markWord_keeps)
    | (with_reducible refine Engine.Canonical.vreg ?_; first | with_reducible assumption | with_reducible refine Keeps.eng (q := q) (n := n') (o := o) ?_ _ _ | with_reducible apply Engine.fail_keeps | with_reducible apply Engine.markWord_keeps)
    | (with_reducible refine Engine.Canonical.set0 ?_; first | with_reducible assumption | with_reducible refine Keeps.eng (q := q) (n := n') (o := o) ?_ _ _ | with_reducible apply Engine.fail_keeps | with_reducible apply Engine.markWord_keeps)
    | (with_reducible refine Engine.Canonical.set1 ?_; first | with_reducible assumption | with_reducible refine Keeps.eng (q := q) (n := n') (o := o) ?_ _ _ | with_reducible apply Engine.fail_keeps | with_reducible apply Engine.markWord_keeps)
    | (with_reducible refine Engine.Canonical.tags ?_; first | with_reducible assumption | with_reducible refine Keeps.eng (q := q) (n := n') (o := o) ?_ _ _ | with_reducible apply Engine.fail_keeps | with_reducible apply Engine.markWord_keeps)
    | (with_reducible refine Engine.Canonical.kept ?_; first | with_reducible assumption | with_reducible refine Keeps.eng (q := q) (n := n') (o := o) ?_ _ _ | with_reducible apply Engine.fail_keeps | with_reducible apply Engine.markWord_keeps)
    | exact Engine.zero_canonical
    | with_reducible refine Engine.Canonical.mk ?_ ?_ ?_ ?_ ?_ ?_ ?_ ?_
    | intro _
    | exact id

theorem State.chunkWrite_keeps {q : List Instr} {n : Nat} {o : List Output} {s : State} (c : Cmd) (x : Side) (off : Nat) (bs : List PByte) (m : Medium) (h : Keeps q n o s) :
    ∀ t, State.chunkWrite s c x off bs m = some t → Keeps q n o t.1 := by
  intro t ht
  unfold State.chunkWrite at ht
  try dsimp only at ht
  repeat' first
    | contradiction
    | (obtain rfl := Option.some.inj ht; clear ht)
    | with_reducible assumption
    | with_reducible apply Engine.dmaWrite_keeps
    | with_reducible apply State.loftPut_keeps
    | with_reducible apply State.setEng_keeps
    | with_reducible apply State.vaWriteM_keeps
    | with_reducible refine Keeps.eng (q := q) (n := n) (o := o) ?_ _ _
    | split at ht
    | split
    | dsimp only
    | (with_reducible refine Engine.Canonical.spad ?_; first | with_reducible assumption | with_reducible refine Keeps.eng (q := q) (n := n) (o := o) ?_ _ _ | with_reducible apply Engine.dmaWrite_keeps)
    | (with_reducible refine Engine.Canonical.poison ?_; first | with_reducible assumption | with_reducible refine Keeps.eng (q := q) (n := n) (o := o) ?_ _ _ | with_reducible apply Engine.dmaWrite_keeps)
    | (with_reducible refine Engine.Canonical.acc ?_; first | with_reducible assumption | with_reducible refine Keeps.eng (q := q) (n := n) (o := o) ?_ _ _ | with_reducible apply Engine.dmaWrite_keeps)
    | (with_reducible refine Engine.Canonical.vreg ?_; first | with_reducible assumption | with_reducible refine Keeps.eng (q := q) (n := n) (o := o) ?_ _ _ | with_reducible apply Engine.dmaWrite_keeps)
    | (with_reducible refine Engine.Canonical.set0 ?_; first | with_reducible assumption | with_reducible refine Keeps.eng (q := q) (n := n) (o := o) ?_ _ _ | with_reducible apply Engine.dmaWrite_keeps)
    | (with_reducible refine Engine.Canonical.set1 ?_; first | with_reducible assumption | with_reducible refine Keeps.eng (q := q) (n := n) (o := o) ?_ _ _ | with_reducible apply Engine.dmaWrite_keeps)
    | (with_reducible refine Engine.Canonical.tags ?_; first | with_reducible assumption | with_reducible refine Keeps.eng (q := q) (n := n) (o := o) ?_ _ _ | with_reducible apply Engine.dmaWrite_keeps)
    | (with_reducible refine Engine.Canonical.kept ?_; first | with_reducible assumption | with_reducible refine Keeps.eng (q := q) (n := n) (o := o) ?_ _ _ | with_reducible apply Engine.dmaWrite_keeps)
    | exact Engine.zero_canonical
    | with_reducible refine Engine.Canonical.mk ?_ ?_ ?_ ?_ ?_ ?_ ?_ ?_
    | intro _

theorem State.chunkPending_keeps {q : List Instr} {n : Nat} {o : List Output} {s : State} (c : Cmd) (x : Side) (off : Nat) (bs : List PByte) (m : Medium) (h : Keeps q n o s) :
    Keeps q n o (State.chunkPending s c x off bs m) := by
  unfold State.chunkPending
  try dsimp only
  repeat' first
    | with_reducible assumption
    | with_reducible apply State.vaWriteM_keeps
    | split
    | dsimp only
    | intro _
    | exact id

theorem State.copyChunk_keeps {q : List Instr} {n : Nat} {o : List Output} {s : State} (c : Cmd) (ecc : Ecc) (ms md : Medium) (h : Keeps q n o s) :
    Keeps q n o (State.copyChunk s c ecc ms md) := by
  unfold State.copyChunk
  try dsimp only
  repeat' first
    | with_reducible assumption
    | with_reducible apply Engine.fail_keeps
    | with_reducible apply State.chunkPending_keeps
    | with_reducible apply State.chunkRead_keeps
    | (refine State.chunkWrite_keeps _ _ _ _ _ ?_ _ ‹_ = some _›)
    | with_reducible apply State.finish_keeps
    | with_reducible apply State.moved_keeps
    | with_reducible apply State.setCmd_keeps
    | split
    | dsimp only
    | intro _
    | exact id

theorem State.evtInit_keeps {q : List Instr} {n : Nat} {o : List Output} (c : Cmd) {s : State} (h : Keeps q n o s) :
    Keeps q n o (State.evtInit c s) := by
  unfold State.evtInit
  try dsimp only
  repeat' first
    | with_reducible assumption
    | with_reducible apply State.endsWith_keeps
    | with_reducible apply State.forAll_keeps
    | with_reducible apply State.setReg_keeps
    | split
    | dsimp only
    | intro _
    | exact id

theorem State.setFlag_keeps {q : List Instr} {n : Nat} {o : List Output} {s : State} (d p f : Nat) (clear : Bool) (h : Keeps q n o s) :
    Keeps q n o (State.setFlag s d p f clear) := by
  unfold State.setFlag
  try dsimp only
  repeat' first
    | with_reducible assumption
    | with_reducible apply State.setEng_keeps
    | with_reducible refine Keeps.eng (q := q) (n := n) (o := o) ?_ _ _
    | split
    | dsimp only
    | (with_reducible refine Engine.Canonical.spad ?_; first | with_reducible assumption | with_reducible refine Keeps.eng (q := q) (n := n) (o := o) ?_ _ _)
    | (with_reducible refine Engine.Canonical.poison ?_; first | with_reducible assumption | with_reducible refine Keeps.eng (q := q) (n := n) (o := o) ?_ _ _)
    | (with_reducible refine Engine.Canonical.acc ?_; first | with_reducible assumption | with_reducible refine Keeps.eng (q := q) (n := n) (o := o) ?_ _ _)
    | (with_reducible refine Engine.Canonical.vreg ?_; first | with_reducible assumption | with_reducible refine Keeps.eng (q := q) (n := n) (o := o) ?_ _ _)
    | (with_reducible refine Engine.Canonical.set0 ?_; first | with_reducible assumption | with_reducible refine Keeps.eng (q := q) (n := n) (o := o) ?_ _ _)
    | (with_reducible refine Engine.Canonical.set1 ?_; first | with_reducible assumption | with_reducible refine Keeps.eng (q := q) (n := n) (o := o) ?_ _ _)
    | (with_reducible refine Engine.Canonical.tags ?_; first | with_reducible assumption | with_reducible refine Keeps.eng (q := q) (n := n) (o := o) ?_ _ _)
    | (with_reducible refine Engine.Canonical.kept ?_; first | with_reducible assumption | with_reducible refine Keeps.eng (q := q) (n := n) (o := o) ?_ _ _)
    | exact Engine.zero_canonical
    | with_reducible refine Engine.Canonical.mk ?_ ?_ ?_ ?_ ?_ ?_ ?_ ?_
    | intro _
    | exact id

theorem State.engFlag_keeps {q : List Instr} {n : Nat} {o : List Output} (c : Cmd) {s : State} (h : Keeps q n o s) :
    Keeps q n o (State.engFlag c s) := by
  unfold State.engFlag
  try dsimp only
  repeat' first
    | with_reducible assumption
    | with_reducible apply State.endsDie_keeps
    | with_reducible apply State.endsWith_keeps
    | with_reducible apply State.forAll_keeps
    | with_reducible apply State.setFlag_keeps
    | split
    | dsimp only
    | intro _
    | exact id

theorem execNop_keeps {q : List Instr} {n : Nat} {o : List Output} (c : CmdRef) {s : State} (h : Keeps q n o s) :
    ∃ t, execNop c s = .next t ∧ Keeps q n o t := by
  refine ⟨_, rfl, ?_⟩
  try dsimp only
  repeat' first
    | with_reducible assumption
    | with_reducible apply State.endsWith_keeps
    | with_reducible apply State.perform_keeps
    | split
    | dsimp only
    | intro _
    | exact id

theorem execTileLaunch_keeps {q : List Instr} {n : Nat} {o : List Output} (c : CmdRef) {s : State} (h : Keeps q n o s) :
    ∃ t, execTileLaunch c s = .next t ∧ Keeps q n o t := by
  refine ⟨_, rfl, ?_⟩
  try dsimp only
  repeat' first
    | with_reducible assumption
    | with_reducible apply State.perform_keeps
    | with_reducible apply State.relaunch_keeps
    | with_reducible apply State.running_keeps
    | with_reducible apply State.tileLaunch_keeps
    | split
    | dsimp only
    | intro _
    | exact id

theorem execCopy_keeps {q : List Instr} {n : Nat} {o : List Output} (c : CmdRef) {s : State} (h : Keeps q n o s) :
    ∃ t, execCopy c s = .next t ∧ Keeps q n o t := by
  refine ⟨_, rfl, ?_⟩
  try dsimp only
  repeat' first
    | with_reducible assumption
    | with_reducible apply State.copyStart_keeps
    | with_reducible apply State.perform_keeps
    | split
    | dsimp only
    | intro _
    | exact id

theorem execFill_keeps {q : List Instr} {n : Nat} {o : List Output} (c : CmdRef) {s : State} (h : Keeps q n o s) :
    ∃ t, execFill c s = .next t ∧ Keeps q n o t := by
  refine ⟨_, rfl, ?_⟩
  try dsimp only
  repeat' first
    | with_reducible assumption
    | with_reducible apply State.copyStart_keeps
    | with_reducible apply State.perform_keeps
    | split
    | dsimp only
    | intro _
    | exact id

theorem execCopyChunkDone_keeps {q : List Instr} {n : Nat} {o : List Output} (c : CmdRef) (ecc : Ecc) (ms md : Medium) {s : State} (h : Keeps q n o s) :
    ∃ t, execCopyChunkDone c ecc ms md s = .next t ∧ Keeps q n o t := by
  refine ⟨_, rfl, ?_⟩
  try dsimp only
  repeat' first
    | with_reducible assumption
    | with_reducible apply State.copyChunk_keeps
    | with_reducible apply State.running_keeps
    | split
    | dsimp only
    | intro _
    | exact id

theorem execFence_keeps {q : List Instr} {n : Nat} {o : List Output} (c : CmdRef) {s : State} (h : Keeps q n o s) :
    ∃ t, execFence c s = .next t ∧ Keeps q n o t := by
  refine ⟨_, rfl, ?_⟩
  try dsimp only
  repeat' first
    | with_reducible assumption
    | with_reducible apply State.endsWith_keeps
    | with_reducible apply State.perform_keeps
    | split
    | dsimp only
    | intro _
    | exact id

theorem execEvtInit_keeps {q : List Instr} {n : Nat} {o : List Output} (c : CmdRef) {s : State} (h : Keeps q n o s) :
    ∃ t, execEvtInit c s = .next t ∧ Keeps q n o t := by
  refine ⟨_, rfl, ?_⟩
  try dsimp only
  repeat' first
    | with_reducible assumption
    | with_reducible apply State.evtInit_keeps
    | with_reducible apply State.perform_keeps
    | split
    | dsimp only
    | intro _
    | exact id

theorem execEngFlag_keeps {q : List Instr} {n : Nat} {o : List Output} (c : CmdRef) {s : State} (h : Keeps q n o s) :
    ∃ t, execEngFlag c s = .next t ∧ Keeps q n o t := by
  refine ⟨_, rfl, ?_⟩
  try dsimp only
  repeat' first
    | with_reducible assumption
    | with_reducible apply State.engFlag_keeps
    | with_reducible apply State.perform_keeps
    | split
    | dsimp only
    | intro _
    | exact id

theorem execJournalMark_keeps {q : List Instr} {n : Nat} {o : List Output} (c : CmdRef) {s : State} (h : Keeps q n o s) :
    ∃ t, execJournalMark c s = .next t ∧ Keeps q n o t := by
  refine ⟨_, rfl, ?_⟩
  try dsimp only
  repeat' first
    | with_reducible assumption
    | with_reducible apply State.endsWith_keeps
    | with_reducible apply State.perform_keeps
    | split
    | dsimp only
    | intro _
    | exact id

end Sys2Proof.Machine
end

