-- ==== Sys2Proof/Laws/KeepsBays.lean ====
section
/-! SUPPORT. What each operation of Machine/Bays.lean keeps (Laws/Keeps.lean). -/

namespace Sys2Proof.Machine

theorem State.setBayX_keeps {q : List Instr} {n : Nat} {o : List Output} {s : State} (b : Nat) (x : BayX) (h : Keeps q n o s) :
    Keeps q n o (State.setBayX s b x) := by
  unfold State.setBayX
  try dsimp only
  repeat' first
    | with_reducible assumption
    | with_reducible refine State.onCq_keeps ?_ (fun ⟨m0, m1, m2, m3⟩ => ⟨?_, ?_, ?_, ?_⟩)
    | with_reducible apply mwf_mset
    | split
    | dsimp only
    | intro _
    | exact id

theorem State.wrongState_keeps {q : List Instr} {n : Nat} {o : List Output} (c : Cmd) {s : State} (h : Keeps q n o s) :
    Keeps q n o (State.wrongState c s) := by
  unfold State.wrongState
  try dsimp only
  repeat' first
    | with_reducible assumption
    | with_reducible apply State.finish_keeps
    | split
    | dsimp only
    | intro _
    | exact id

theorem State.bayCreate_keeps {q : List Instr} {n : Nat} {o : List Output} (c : Cmd) {s : State} (h : Keeps q n o s) :
    Keeps q n o (State.bayCreate c s) := by
  unfold State.bayCreate
  try dsimp only
  repeat' first
    | with_reducible assumption
    | with_reducible apply State.endsWith_keeps
    | with_reducible apply State.finish_keeps
    | with_reducible apply State.forAll_keeps
    | with_reducible apply State.setClock_keeps
    | with_reducible apply State.setReg_keeps
    | with_reducible apply State.setUsed_keeps
    | with_reducible apply State.wrongState_keeps
    | split
    | dsimp only
    | intro _
    | exact id

theorem State.setEngRole_keeps {q : List Instr} {n : Nat} {o : List Output} {s : State} (b d l g : Nat) (h : Keeps q n o s) :
    Keeps q n o (State.setEngRole s b d l g) := by
  unfold State.setEngRole
  try dsimp only
  repeat' first
    | with_reducible assumption
    | with_reducible apply State.setFld_keeps
    | split
    | dsimp only
    | intro _
    | exact id

theorem State.setQueueRole_keeps {q' : List Instr} {n : Nat} {o : List Output} {s : State} (q g : Nat) (h : Keeps q' n o s) :
    Keeps q' n o (State.setQueueRole s q g) := by
  unfold State.setQueueRole
  try dsimp only
  repeat' first
    | with_reducible assumption
    | with_reducible apply State.setFld_keeps
    | split
    | dsimp only
    | intro _
    | exact id

theorem State.clearRole_keeps {q : List Instr} {n : Nat} {o : List Output} {s : State} (b g : Nat) (h : Keeps q n o s) :
    Keeps q n o (State.clearRole s b g) := by
  unfold State.clearRole
  try dsimp only
  repeat' first
    | with_reducible assumption
    | with_reducible apply State.forAll_keeps
    | with_reducible apply State.setEngRole_keeps
    | with_reducible apply State.setQueueRole_keeps
    | with_reducible apply State.setReg_keeps
    | with_reducible refine Keeps.eng (q := q) (n := n) (o := o) ?_ _ _
    | split
    | dsimp only
    | intro _
    | exact id

theorem State.bayRoles_keeps {q : List Instr} {n : Nat} {o : List Output} (c : Cmd) {s : State} (h : Keeps q n o s) :
    Keeps q n o (State.bayRoles c s) := by
  unfold State.bayRoles
  try dsimp only
  repeat' first
    | with_reducible assumption
    | with_reducible apply State.clearRole_keeps
    | with_reducible apply State.endsWith_keeps
    | with_reducible apply State.forAll_keeps
    | with_reducible apply State.setCmd_keeps
    | with_reducible apply State.setEngRole_keeps
    | with_reducible apply State.setQueueRole_keeps
    | with_reducible apply State.setReg_keeps
    | with_reducible apply State.wrongState_keeps
    | with_reducible refine Keeps.eng (q := q) (n := n) (o := o) ?_ _ _
    | split
    | dsimp only
    | (with_reducible refine Engine.Canonical.spad ?_; first | with_reducible assumption | with_reducible refine Keeps.eng (q := q) (n := n) (o := o) ?_ _ _)
    | (with_reducible refine Engine.Canonical.poison ?_; first | with_reducible assumption | with_reducible refine Keeps.eng (q := q) (n := n) (o := o) ?_ _ _)
    | (with_reducible refine Engine.Canonical.acc ?_; first | with_reducible assumption | with_reducible refine Keeps.eng (q := q) (n := n) (o := o) ?_ _ _)
    | (with_reducible refine Engine.Canonical.vreg ?_; first | with_reducible assumption | with_reducible refine Keeps.eng (q := q) (n := n) (o := o) ?_ _ _)
    | (with_reducible refine Engine.Canonical.set0 ?_; first | with_reducible assumption | with_reducible refine Keeps.eng (q := q) (n := n) (o := o) ?_ _ _)
    | (with_reducible refine Engine.Canonical.set1 ?_; first | with_reducible assumption | with_reducible refine Keeps.eng (q := q) (n := n) (o := o) ?_ _ _)
    | (with_reducible refine Engine.Canonical.tags ?_; first | with_reducible assumption | with_reducible refine Keeps.eng (q := q) (n := n) (o := o) ?_ _ _)
    | (with_reducible refine Engine.Canonical.kept ?_; first | with_reducible assumption | with_reducible refine Keeps.eng (q := q) (n := n) (o := o) ?_ _ _)
    | exact Engine.zero_canonical
    | with_reducible refine Engine.Canonical.mk ?_ ?_ ?_ ?_ ?_ ?_ ?_ ?_
    | intro _
    | exact id

theorem State.bayRolesWait_keeps {q : List Instr} {n : Nat} {o : List Output} {s : State} (c : Cmd) (h : Keeps q n o s) :
    Keeps q n o (State.bayRolesWait s c) := by
  unfold State.bayRolesWait
  try dsimp only
  repeat' first
    | with_reducible assumption
    | with_reducible apply State.endsWith_keeps
    | split
    | dsimp only
    | intro _
    | exact id

theorem State.killRun_keeps {q : List Instr} {n : Nat} {o : List Output} {s : State} (d p : Nat) (h : Keeps q n o s) :
    Keeps q n o (State.killRun s d p) := by
  unfold State.killRun
  try dsimp only
  repeat' first
    | with_reducible assumption
    | with_reducible apply State.setEng_keeps
    | with_reducible apply State.setFld_keeps
    | with_reducible apply abandon_keeps
    | with_reducible refine Keeps.eng (q := q) (n := n) (o := o) ?_ _ _
    | split
    | dsimp only
    | (with_reducible refine Engine.Canonical.spad ?_; first | with_reducible assumption | with_reducible refine Keeps.eng (q := q) (n := n) (o := o) ?_ _ _ | with_reducible apply abandon_keeps)
    | (with_reducible refine Engine.Canonical.poison ?_; first | with_reducible assumption | with_reducible refine Keeps.eng (q := q) (n := n) (o := o) ?_ _ _ | with_reducible apply abandon_keeps)
    | (with_reducible refine Engine.Canonical.acc ?_; first | with_reducible assumption | with_reducible refine Keeps.eng (q := q) (n := n) (o := o) ?_ _ _ | with_reducible apply abandon_keeps)
    | (with_reducible refine Engine.Canonical.vreg ?_; first | with_reducible assumption | with_reducible refine Keeps.eng (q := q) (n := n) (o := o) ?_ _ _ | with_reducible apply abandon_keeps)
    | (with_reducible refine Engine.Canonical.set0 ?_; first | with_reducible assumption | with_reducible refine Keeps.eng (q := q) (n := n) (o := o) ?_ _ _ | with_reducible apply abandon_keeps)
    | (with_reducible refine Engine.Canonical.set1 ?_; first | with_reducible assumption | with_reducible refine Keeps.eng (q := q) (n := n) (o := o) ?_ _ _ | with_reducible apply abandon_keeps)
    | (with_reducible refine Engine.Canonical.tags ?_; first | with_reducible assumption | with_reducible refine Keeps.eng (q := q) (n := n) (o := o) ?_ _ _ | with_reducible apply abandon_keeps)
    | (with_reducible refine Engine.Canonical.kept ?_; first | with_reducible assumption | with_reducible refine Keeps.eng (q := q) (n := n) (o := o) ?_ _ _ | with_reducible apply abandon_keeps)
    | exact Engine.zero_canonical
    | with_reducible refine Engine.Canonical.mk ?_ ?_ ?_ ?_ ?_ ?_ ?_ ?_
    | intro _
    | exact id

theorem State.cancelWaiting_keeps {q : List Instr} {n : Nat} {o : List Output} {s : State} (c : Cmd) (h : Keeps q n o s) :
    Keeps q n o (State.cancelWaiting s c) := by
  unfold State.cancelWaiting
  try dsimp only
  repeat' first
    | with_reducible assumption
    | with_reducible apply State.forAll_keeps
    | with_reducible apply State.launchDone_keeps
    | with_reducible apply State.setCmd_keeps
    | with_reducible apply State.withdraw_keeps
    | split
    | dsimp only
    | intro _
    | exact id

theorem State.teardown_keeps {q : List Instr} {n : Nat} {o : List Output} {s : State} (b cause : Nat) (h : Keeps q n o s) :
    Keeps q n o (State.teardown s b cause) := by
  unfold State.teardown
  try dsimp only
  repeat' first
    | with_reducible assumption
    | with_reducible apply State.cancelUnstarted_keeps
    | with_reducible apply State.cancelWaiting_keeps
    | with_reducible apply State.forAll_keeps
    | with_reducible apply State.killRun_keeps
    | with_reducible apply State.lapseNonce_keeps
    | with_reducible apply State.setBayX_keeps
    | with_reducible apply State.setCmd_keeps
    | with_reducible apply State.setFld_keeps
    | split
    | dsimp only
    | intro _
    | exact id

theorem State.forget_keeps {q : List Instr} {n : Nat} {o : List Output} {s : State} (b : Nat) (h : Keeps q n o s) :
    Keeps q n o (State.forget s b) := by
  unfold State.forget
  try dsimp only
  repeat' first
    | with_reducible assumption
    | with_reducible apply Engine.endXfer_keeps
    | with_reducible apply State.forAll_keeps
    | with_reducible refine State.onCq_keeps ?_ (fun ⟨m0, m1, m2, m3⟩ => ⟨?_, ?_, ?_, ?_⟩)
    | with_reducible apply State.onFab_keeps
    | with_reducible refine State.onMem_keeps ?_ (fun ⟨m0, m1, m2, m3, m4, m5, m6, m7⟩ => ⟨?_, ?_, ?_, ?_, ?_, ?_, ?_, ?_⟩)
    | with_reducible apply State.setEng_keeps
    | with_reducible apply State.setMirHost_keeps
    | with_reducible apply State.setMirSrc_keeps
    | with_reducible apply State.setReg_keeps
    | with_reducible apply foldl_state
    | with_reducible apply foldl_fst_state
    | with_reducible apply mwf_foldl
    | with_reducible refine Keeps.eng (q := q) (n := n) (o := o) ?_ _ _
    | split
    | dsimp only
    | (with_reducible refine Engine.Canonical.spad ?_; first | with_reducible assumption | with_reducible refine Keeps.eng (q := q) (n := n) (o := o) ?_ _ _ | with_reducible apply foldl_engine | with_reducible apply Engine.endXfer_keeps)
    | (with_reducible refine Engine.Canonical.poison ?_; first | with_reducible assumption | with_reducible refine Keeps.eng (q := q) (n := n) (o := o) ?_ _ _ | with_reducible apply foldl_engine | with_reducible apply Engine.endXfer_keeps)
    | (with_reducible refine Engine.Canonical.acc ?_; first | with_reducible assumption | with_reducible refine Keeps.eng (q := q) (n := n) (o := o) ?_ _ _ | with_reducible apply foldl_engine | with_reducible apply Engine.endXfer_keeps)
    | (with_reducible refine Engine.Canonical.vreg ?_; first | with_reducible assumption | with_reducible refine Keeps.eng (q := q) (n := n) (o := o) ?_ _ _ | with_reducible apply foldl_engine | with_reducible apply Engine.endXfer_keeps)
    | (with_reducible refine Engine.Canonical.set0 ?_; first | with_reducible assumption | with_reducible refine Keeps.eng (q := q) (n := n) (o := o) ?_ _ _ | with_reducible apply foldl_engine | with_reducible apply Engine.endXfer_keeps)
    | (with_reducible refine Engine.Canonical.set1 ?_; first | with_reducible assumption | with_reducible refine Keeps.eng (q := q) (n := n) (o := o) ?_ _ _ | with_reducible apply foldl_engine | with_reducible apply Engine.endXfer_keeps)
    | (with_reducible refine Engine.Canonical.tags ?_; first | with_reducible assumption | with_reducible refine Keeps.eng (q := q) (n := n) (o := o) ?_ _ _ | with_reducible apply foldl_engine | with_reducible apply Engine.endXfer_keeps)
    | (with_reducible refine Engine.Canonical.kept ?_; first | with_reducible assumption | with_reducible refine Keeps.eng (q := q) (n := n) (o := o) ?_ _ _ | with_reducible apply foldl_engine | with_reducible apply Engine.endXfer_keeps)
    | exact Engine.zero_canonical
    | with_reducible refine Engine.Canonical.mk ?_ ?_ ?_ ?_ ?_ ?_ ?_ ?_
    | intro _
    | exact id

theorem State.freeSlots_keeps {q : List Instr} {n : Nat} {o : List Output} {s : State} (job : Nat) (h : Keeps q n o s) :
    Keeps q n o (State.freeSlots s job) := by
  unfold State.freeSlots
  try dsimp only
  repeat' first
    | with_reducible assumption
    | with_reducible apply State.forAll_keeps
    | with_reducible apply State.setReg_keeps
    | split
    | dsimp only
    | intro _
    | exact id

theorem State.disableModels_keeps {q : List Instr} {n : Nat} {o : List Output} {s : State} (b : Nat) (h : Keeps q n o s) :
    Keeps q n o (State.disableModels s b) := by
  unfold State.disableModels
  try dsimp only
  repeat' first
    | with_reducible assumption
    | with_reducible apply State.clearLate_keeps
    | with_reducible apply State.forAll_keeps
    | with_reducible apply State.setReg_keeps
    | with_reducible refine State.Canonical.models (Keeps.canon (q := q) (n := n) (o := o) ?_)
    | with_reducible apply mwf_mclear
    | split
    | with_reducible apply Keeps.withRt
    | dsimp only
    | intro _
    | exact id

theorem State.tornTests_keeps {q : List Instr} {n : Nat} {o : List Output} {s : State} (b : Nat) (h : Keeps q n o s) :
    Keeps q n o (State.tornTests s b) := by
  unfold State.tornTests
  try dsimp only
  repeat' first
    | with_reducible assumption
    | with_reducible apply State.endHandling_keeps
    | with_reducible apply State.forAll_keeps
    | with_reducible refine State.onFlt_keeps ?_ (fun ⟨m0, m1, m2, m3, m4, m5, m6, m7⟩ => ⟨?_, ?_, ?_, ?_, ?_, ?_, ?_, ?_⟩)
    | split
    | dsimp only
    | intro _
    | exact id

theorem State.torn_keeps {q : List Instr} {n : Nat} {o : List Output} {s : State} (b : Nat) (h : Keeps q n o s) :
    Keeps q n o (State.torn s b) := by
  unfold State.torn
  try dsimp only
  repeat' first
    | with_reducible assumption
    | with_reducible apply Engine.zero_keeps
    | with_reducible apply State.complete_keeps
    | with_reducible apply State.disableModels_keeps
    | with_reducible apply State.endsWith_keeps
    | with_reducible apply State.forAll_keeps
    | with_reducible apply State.forget_keeps
    | with_reducible apply State.freeSlots_keeps
    | with_reducible apply State.setBayKeys_keeps
    | with_reducible apply State.setFld_keeps
    | with_reducible apply State.setQState_keeps
    | with_reducible apply State.setQx_keeps
    | with_reducible apply State.setReg_keeps
    | with_reducible apply State.tornTests_keeps
    | split
    | dsimp only
    | intro _
    | exact id

theorem State.bayTeardownCmd_keeps {q : List Instr} {n : Nat} {o : List Output} (c : Cmd) {s : State} (h : Keeps q n o s) :
    Keeps q n o (State.bayTeardownCmd c s) := by
  unfold State.bayTeardownCmd
  try dsimp only
  repeat' first
    | with_reducible assumption
    | with_reducible apply State.endsWith_keeps
    | with_reducible apply State.setCmd_keeps
    | with_reducible apply State.teardown_keeps
    | with_reducible apply State.wrongState_keeps
    | split
    | dsimp only
    | intro _
    | exact id

theorem State.teardownWait_keeps {q : List Instr} {n : Nat} {o : List Output} {s : State} (b : Nat) (h : Keeps q n o s) :
    Keeps q n o (State.teardownWait s b) := by
  unfold State.teardownWait
  try dsimp only
  repeat' first
    | with_reducible assumption
    | with_reducible apply State.armLate_keeps
    | with_reducible apply State.clearLate_keeps
    | with_reducible apply State.teardown_keeps
    | with_reducible apply State.torn_keeps
    | split
    | dsimp only
    | intro _
    | exact id

theorem State.resetRegs_keeps {q : List Instr} {n : Nat} {o : List Output} {s : State} (lo hi : Nat) (h : Keeps q n o s) :
    Keeps q n o (State.resetRegs s lo hi) := by
  unfold State.resetRegs
  try dsimp only
  repeat' first
    | with_reducible assumption
    | with_reducible refine State.Canonical.regs (Keeps.canon (q := q) (n := n) (o := o) ?_)
    | with_reducible apply mwf_mclear
    | split
    | with_reducible apply Keeps.withRegs
    | dsimp only
    | intro _
    | exact id

theorem State.eraseGroups_keeps {q : List Instr} {n : Nat} {o : List Output} {s : State} (b : Nat) (h : Keeps q n o s) :
    Keeps q n o (State.eraseGroups s b) := by
  unfold State.eraseGroups
  try dsimp only
  repeat' first
    | with_reducible assumption
    | with_reducible apply State.onKv_keeps
    | with_reducible refine State.onMem_keeps ?_ (fun ⟨m0, m1, m2, m3, m4, m5, m6, m7⟩ => ⟨?_, ?_, ?_, ?_, ?_, ?_, ?_, ?_⟩)
    | with_reducible apply State.setBayKeys_keeps
    | with_reducible apply State.setFld_keeps
    | with_reducible apply mwf_mset
    | with_reducible apply mwf_mclear
    | split
    | dsimp only
    | intro _
    | exact id

theorem State.freeBay_keeps {q : List Instr} {n : Nat} {o : List Output} {s : State} (b : Nat) (h : Keeps q n o s) :
    Keeps q n o (State.freeBay s b) := by
  unfold State.freeBay
  try dsimp only
  repeat' first
    | with_reducible assumption
    | with_reducible apply Engine.zero_keeps
    | with_reducible apply State.endsDie_keeps
    | with_reducible apply State.endsWith_keeps
    | with_reducible apply State.forAll_keeps
    | with_reducible refine State.onCq_keeps ?_ (fun ⟨m0, m1, m2, m3⟩ => ⟨?_, ?_, ?_, ?_⟩)
    | with_reducible apply State.onFab_keeps
    | with_reducible apply State.resetRegs_keeps
    | with_reducible apply State.setCkpt_keeps
    | with_reducible apply State.setQueueRole_keeps
    | with_reducible apply State.setReg_keeps
    | with_reducible apply mwf_mset
    | with_reducible apply mwf_mclear
    | split
    | dsimp only
    | intro _
    | exact id

theorem State.settleScrub_keeps {q : List Instr} {n : Nat} {o : List Output} {s : State} (b : Nat) (h : Keeps q n o s) :
    Keeps q n o (State.settleScrub s b) := by
  unfold State.settleScrub
  try dsimp only
  repeat' first
    | with_reducible assumption
    | with_reducible apply State.freeBay_keeps
    | split
    | dsimp only
    | intro _
    | exact id

theorem State.scrubDie_keeps {q : List Instr} {n : Nat} {o : List Output} {s : State} (d : Nat) (failed : Bool) (h : Keeps q n o s) :
    Keeps q n o (State.scrubDie s d failed) := by
  unfold State.scrubDie
  try dsimp only
  repeat' first
    | with_reducible assumption
    | with_reducible apply State.forAll_keeps
    | with_reducible apply State.setBayX_keeps
    | with_reducible apply State.settleScrub_keeps
    | split
    | dsimp only
    | intro _
    | exact id

theorem State.bayScrub_keeps {q : List Instr} {n : Nat} {o : List Output} (c : Cmd) {s : State} (h : Keeps q n o s) :
    Keeps q n o (State.bayScrub c s) := by
  unfold State.bayScrub
  try dsimp only
  repeat' first
    | with_reducible assumption
    | with_reducible apply State.clearStart_keeps
    | with_reducible apply State.forAll_keeps
    | with_reducible apply State.setBayX_keeps
    | with_reducible apply State.setCmd_keeps
    | with_reducible apply State.setFld_keeps
    | with_reducible apply State.wrongState_keeps
    | split
    | dsimp only
    | intro _
    | exact id

theorem State.eraseDone_keeps {q : List Instr} {n : Nat} {o : List Output} {s : State} (b : Nat) (h : Keeps q n o s) :
    Keeps q n o (State.eraseDone s b) := by
  unfold State.eraseDone
  try dsimp only
  repeat' first
    | with_reducible assumption
    | with_reducible apply State.eraseGroups_keeps
    | with_reducible apply State.setBayX_keeps
    | with_reducible apply State.settleScrub_keeps
    | split
    | dsimp only
    | intro _
    | exact id

theorem State.admissionGrant_keeps {q : List Instr} {n : Nat} {o : List Output} {s : State} (r : CmdRef) (h : Keeps q n o s) :
    Keeps q n o (State.admissionGrant s r) := by
  unfold State.admissionGrant
  try dsimp only
  repeat' first
    | with_reducible assumption
    | with_reducible apply State.countWaiting_keeps
    | with_reducible apply State.count_keeps
    | with_reducible apply State.dropAdm_keeps
    | with_reducible apply State.lateRecord_keeps
    | with_reducible apply State.serve_keeps
    | with_reducible apply State.setCmd_keeps
    | split
    | dsimp only
    | intro _
    | exact id

theorem State.admitTimeout_keeps {q : List Instr} {n : Nat} {o : List Output} {s : State} (r : CmdRef) (h : Keeps q n o s) :
    Keeps q n o (State.admitTimeout s r) := by
  unfold State.admitTimeout
  try dsimp only
  repeat' first
    | with_reducible assumption
    | with_reducible apply State.countWaiting_keeps
    | with_reducible apply State.count_keeps
    | with_reducible apply State.dropAdm_keeps
    | with_reducible apply State.finish_keeps
    | with_reducible apply State.setCmd_keeps
    | split
    | dsimp only
    | intro _
    | exact id

theorem State.powerTick_keeps {q : List Instr} {n : Nat} {o : List Output} {s : State} (b avg : Nat) (h : Keeps q n o s) :
    Keeps q n o (State.powerTick s b avg) := by
  unfold State.powerTick
  try dsimp only
  repeat' first
    | with_reducible assumption
    | with_reducible apply State.count_keeps
    | with_reducible apply State.forAll_keeps
    | with_reducible apply State.setClock_keeps
    | with_reducible apply State.setFld_keeps
    | split
    | dsimp only
    | intro _
    | exact id

theorem State.setPhase_keeps {q : List Instr} {n : Nat} {o : List Output} {s : State} (b t : Nat) (x : PhaseTimer) (h : Keeps q n o s) :
    Keeps q n o (State.setPhase s b t x) := by
  unfold State.setPhase
  try dsimp only
  repeat' first
    | with_reducible assumption
    | with_reducible refine State.onCq_keeps ?_ (fun ⟨m0, m1, m2, m3⟩ => ⟨?_, ?_, ?_, ?_⟩)
    | with_reducible apply mwf_mset
    | split
    | dsimp only
    | intro _
    | exact id

theorem State.putPhase_keeps {q : List Instr} {n : Nat} {o : List Output} {s : State} (b : Nat) (ws : List Nat) (h : Keeps q n o s) :
    Keeps q n o (State.putPhase s b ws) := by
  unfold State.putPhase
  try dsimp only
  repeat' first
    | with_reducible assumption
    | with_reducible apply State.count_keeps
    | with_reducible apply State.devWrite_keeps
    | with_reducible apply State.setReg_keeps
    | split
    | dsimp only
    | intro _
    | exact id

theorem State.setPhState_keeps {q : List Instr} {n : Nat} {o : List Output} {s : State} (b t : Nat) (run late : Bool) (h : Keeps q n o s) :
    Keeps q n o (State.setPhState s b t run late) := by
  unfold State.setPhState
  try dsimp only
  repeat' first
    | with_reducible assumption
    | with_reducible apply State.setFld_keeps
    | split
    | dsimp only
    | intro _
    | exact id

theorem State.phaseBegin_keeps {q : List Instr} {n : Nat} {o : List Output} (c : Cmd) {s : State} (h : Keeps q n o s) :
    Keeps q n o (State.phaseBegin c s) := by
  unfold State.phaseBegin
  try dsimp only
  repeat' first
    | with_reducible assumption
    | with_reducible apply State.endsWith_keeps
    | with_reducible apply State.putPhase_keeps
    | with_reducible apply State.setPhState_keeps
    | with_reducible apply State.setPhase_keeps
    | with_reducible apply State.setReg_keeps
    | split
    | dsimp only
    | intro _
    | exact id

theorem State.phaseEnd_keeps {q : List Instr} {n : Nat} {o : List Output} (c : Cmd) {s : State} (h : Keeps q n o s) :
    Keeps q n o (State.phaseEnd c s) := by
  unfold State.phaseEnd
  try dsimp only
  repeat' first
    | with_reducible assumption
    | with_reducible apply State.endsWith_keeps
    | with_reducible apply State.lateRecord_keeps
    | with_reducible apply State.putPhase_keeps
    | with_reducible apply State.setFld_keeps
    | with_reducible apply State.setPhState_keeps
    | with_reducible apply State.setPhase_keeps
    | with_reducible apply State.setReg_keeps
    | split
    | dsimp only
    | intro _
    | exact id

theorem State.phaseCancel_keeps {q : List Instr} {n : Nat} {o : List Output} (c : Cmd) {s : State} (h : Keeps q n o s) :
    Keeps q n o (State.phaseCancel c s) := by
  unfold State.phaseCancel
  try dsimp only
  repeat' first
    | with_reducible assumption
    | with_reducible apply State.endsWith_keeps
    | with_reducible apply State.setPhState_keeps
    | with_reducible apply State.setPhase_keeps
    | split
    | dsimp only
    | intro _
    | exact id

theorem State.phaseExpiry_keeps {q : List Instr} {n : Nat} {o : List Output} {s : State} (b t : Nat) (h : Keeps q n o s) :
    Keeps q n o (State.phaseExpiry s b t) := by
  unfold State.phaseExpiry
  try dsimp only
  repeat' first
    | with_reducible assumption
    | with_reducible apply State.evtAdd_keeps
    | with_reducible apply State.putPhase_keeps
    | with_reducible apply State.setPhState_keeps
    | with_reducible apply State.setPhase_keeps
    | split
    | dsimp only
    | intro _
    | exact id

theorem execBayCreate_keeps {q : List Instr} {n : Nat} {o : List Output} (c : CmdRef) {s : State} (h : Keeps q n o s) :
    ∃ t, execBayCreate c s = .next t ∧ Keeps q n o t := by
  refine ⟨_, rfl, ?_⟩
  try dsimp only
  repeat' first
    | with_reducible assumption
    | with_reducible apply State.bayCreate_keeps
    | with_reducible apply State.perform_keeps
    | split
    | dsimp only
    | intro _
    | exact id

theorem execBayRoles_keeps {q : List Instr} {n : Nat} {o : List Output} (c : CmdRef) {s : State} (h : Keeps q n o s) :
    ∃ t, execBayRoles c s = .next t ∧ Keeps q n o t := by
  refine ⟨_, rfl, ?_⟩
  try dsimp only
  repeat' first
    | with_reducible assumption
    | with_reducible apply State.bayRolesWait_keeps
    | with_reducible apply State.bayRoles_keeps
    | with_reducible apply State.perform_keeps
    | with_reducible apply State.running_keeps
    | split
    | dsimp only
    | intro _
    | exact id

theorem execBayTeardown_keeps {q : List Instr} {n : Nat} {o : List Output} (c : CmdRef) {s : State} (h : Keeps q n o s) :
    ∃ t, execBayTeardown c s = .next t ∧ Keeps q n o t := by
  refine ⟨_, rfl, ?_⟩
  try dsimp only
  repeat' first
    | with_reducible assumption
    | with_reducible apply State.bayTeardownCmd_keeps
    | with_reducible apply State.perform_keeps
    | split
    | dsimp only
    | intro _
    | exact id

theorem execTeardownWaitExpiry_keeps {q : List Instr} {n : Nat} {o : List Output} (bay : BayId) {s : State} (h : Keeps q n o s) :
    ∃ t, execTeardownWaitExpiry bay s = .next t ∧ Keeps q n o t := by
  refine ⟨_, rfl, ?_⟩
  try dsimp only
  repeat' first
    | with_reducible assumption
    | with_reducible apply State.teardownWait_keeps
    | split
    | dsimp only
    | intro _
    | exact id

theorem execBayScrub_keeps {q : List Instr} {n : Nat} {o : List Output} (c : CmdRef) {s : State} (h : Keeps q n o s) :
    ∃ t, execBayScrub c s = .next t ∧ Keeps q n o t := by
  refine ⟨_, rfl, ?_⟩
  try dsimp only
  repeat' first
    | with_reducible assumption
    | with_reducible apply State.bayScrub_keeps
    | with_reducible apply State.perform_keeps
    | split
    | dsimp only
    | intro _
    | exact id

theorem execHbmEraseDone_keeps {q : List Instr} {n : Nat} {o : List Output} (bay : BayId) {s : State} (h : Keeps q n o s) :
    ∃ t, execHbmEraseDone bay s = .next t ∧ Keeps q n o t := by
  refine ⟨_, rfl, ?_⟩
  try dsimp only
  repeat' first
    | with_reducible assumption
    | with_reducible apply State.eraseDone_keeps
    | split
    | dsimp only
    | intro _
    | exact id

theorem execPhaseBegin_keeps {q : List Instr} {n : Nat} {o : List Output} (c : CmdRef) {s : State} (h : Keeps q n o s) :
    ∃ t, execPhaseBegin c s = .next t ∧ Keeps q n o t := by
  refine ⟨_, rfl, ?_⟩
  try dsimp only
  repeat' first
    | with_reducible assumption
    | with_reducible apply State.perform_keeps
    | with_reducible apply State.phaseBegin_keeps
    | split
    | dsimp only
    | intro _
    | exact id

theorem execPhaseEnd_keeps {q : List Instr} {n : Nat} {o : List Output} (c : CmdRef) {s : State} (h : Keeps q n o s) :
    ∃ t, execPhaseEnd c s = .next t ∧ Keeps q n o t := by
  refine ⟨_, rfl, ?_⟩
  try dsimp only
  repeat' first
    | with_reducible assumption
    | with_reducible apply State.perform_keeps
    | with_reducible apply State.phaseEnd_keeps
    | split
    | dsimp only
    | intro _
    | exact id

theorem execPhaseCancel_keeps {q : List Instr} {n : Nat} {o : List Output} (c : CmdRef) {s : State} (h : Keeps q n o s) :
    ∃ t, execPhaseCancel c s = .next t ∧ Keeps q n o t := by
  refine ⟨_, rfl, ?_⟩
  try dsimp only
  repeat' first
    | with_reducible assumption
    | with_reducible apply State.perform_keeps
    | with_reducible apply State.phaseCancel_keeps
    | split
    | dsimp only
    | intro _
    | exact id

theorem execPhaseBudgetExpiry_keeps {q : List Instr} {n : Nat} {o : List Output} (bay : BayId) (timer : BitVec 6) {s : State} (h : Keeps q n o s) :
    ∃ t, execPhaseBudgetExpiry bay timer s = .next t ∧ Keeps q n o t := by
  refine ⟨_, rfl, ?_⟩
  try dsimp only
  repeat' first
    | with_reducible assumption
    | with_reducible apply State.phaseExpiry_keeps
    | split
    | dsimp only
    | intro _
    | exact id

theorem execAdmissionGrant_keeps {q : List Instr} {n : Nat} {o : List Output} (c : CmdRef) {s : State} (h : Keeps q n o s) :
    ∃ t, execAdmissionGrant c s = .next t ∧ Keeps q n o t := by
  refine ⟨_, rfl, ?_⟩
  try dsimp only
  repeat' first
    | with_reducible assumption
    | with_reducible apply State.admissionGrant_keeps
    | split
    | dsimp only
    | intro _
    | exact id

theorem execAdmitTimeout_keeps {q : List Instr} {n : Nat} {o : List Output} (c : CmdRef) {s : State} (h : Keeps q n o s) :
    ∃ t, execAdmitTimeout c s = .next t ∧ Keeps q n o t := by
  refine ⟨_, rfl, ?_⟩
  try dsimp only
  repeat' first
    | with_reducible assumption
    | with_reducible apply State.admitTimeout_keeps
    | split
    | dsimp only
    | intro _
    | exact id

theorem execPowerControlTick_keeps {q : List Instr} {n : Nat} {o : List Output} (bay : BayId) (watts : Nat) {s : State} (h : Keeps q n o s) :
    ∃ t, execPowerControlTick bay watts s = .next t ∧ Keeps q n o t := by
  refine ⟨_, rfl, ?_⟩
  try dsimp only
  repeat' first
    | with_reducible assumption
    | with_reducible apply State.powerTick_keeps
    | split
    | dsimp only
    | intro _
    | exact id

end Sys2Proof.Machine
end

