-- ==== Sys2Proof/Laws/KeepsFabric.lean ====
section
/-! SUPPORT. What each operation of Machine/Fabric.lean keeps (Laws/Keeps.lean). -/

namespace Sys2Proof.Machine

theorem State.setLanes_keeps {q : List Instr} {n : Nat} {o : List Output} {s : State} (p mask : Nat) (h : Keeps q n o s) :
    Keeps q n o (State.setLanes s p mask) := by
  unfold State.setLanes
  try dsimp only
  repeat' first
    | with_reducible assumption
    | with_reducible apply State.setPortFld_keeps
    | with_reducible apply State.setReg_keeps
    | split
    | dsimp only
    | intro _
    | exact id

theorem State.enterPort_keeps {q : List Instr} {n : Nat} {o : List Output} {s : State} (p st cause : Nat) (h : Keeps q n o s) :
    Keeps q n o (State.enterPort s p st cause) := by
  unfold State.enterPort
  try dsimp only
  repeat' first
    | with_reducible assumption
    | with_reducible apply State.setLanes_keeps
    | with_reducible apply State.setPortFld_keeps
    | with_reducible apply State.setPortX_keeps
    | split
    | dsimp only
    | intro _
    | exact id

theorem State.portCfgWrite_keeps {q : List Instr} {n : Nat} {o : List Output} {s : State} (p v : Nat) (h : Keeps q n o s) :
    Keeps q n o (State.portCfgWrite s p v) := by
  unfold State.portCfgWrite
  try dsimp only
  repeat' first
    | with_reducible assumption
    | with_reducible apply State.enterPort_keeps
    | with_reducible apply State.setReg_keeps
    | split
    | dsimp only
    | intro _
    | exact id

theorem State.trainingBurst_keeps {q : List Instr} {n : Nat} {o : List Output} {s : State} (p : Nat) (h : Keeps q n o s) :
    Keeps q n o (State.trainingBurst s p) := by
  unfold State.trainingBurst
  try dsimp only
  repeat' first
    | with_reducible assumption
    | with_reducible apply State.emit_keeps
    | split
    | dsimp only
    | intro _
    | exact id

theorem State.partnerBurst_keeps {q : List Instr} {n : Nat} {o : List Output} {s : State} (p lanes : Nat) (h : Keeps q n o s) :
    Keeps q n o (State.partnerBurst s p lanes) := by
  unfold State.partnerBurst
  try dsimp only
  repeat' first
    | with_reducible assumption
    | with_reducible apply State.setPortFld_keeps
    | split
    | dsimp only
    | intro _
    | exact id

theorem State.trainDone_keeps {q : List Instr} {n : Nat} {o : List Output} {s : State} (p : Nat) (h : Keeps q n o s) :
    Keeps q n o (State.trainDone s p) := by
  unfold State.trainDone
  try dsimp only
  repeat' first
    | with_reducible assumption
    | with_reducible apply State.setPortFld_keeps
    | split
    | dsimp only
    | intro _
    | exact id

theorem State.trainTimeout_keeps {q : List Instr} {n : Nat} {o : List Output} {s : State} (p : Nat) (h : Keeps q n o s) :
    Keeps q n o (State.trainTimeout s p) := by
  unfold State.trainTimeout
  try dsimp only
  repeat' first
    | with_reducible assumption
    | with_reducible apply State.enterPort_keeps
    | split
    | dsimp only
    | intro _
    | exact id

theorem State.alignDone_keeps {q : List Instr} {n : Nat} {o : List Output} {s : State} (p locked : Nat) (h : Keeps q n o s) :
    Keeps q n o (State.alignDone s p locked) := by
  unfold State.alignDone
  try dsimp only
  repeat' first
    | with_reducible assumption
    | with_reducible apply State.enterPort_keeps
    | with_reducible apply State.setLanes_keeps
    | with_reducible apply State.setPortFld_keeps
    | split
    | dsimp only
    | intro _
    | exact id

theorem State.releaseHeld_keeps {q : List Instr} {n : Nat} {o : List Output} {s : State} (p : Nat) (h : Keeps q n o s) :
    Keeps q n o (State.releaseHeld s p) := by
  unfold State.releaseHeld
  try dsimp only
  repeat' first
    | with_reducible assumption
    | with_reducible apply State.forAll_keeps
    | with_reducible apply State.portPut_keeps
    | with_reducible apply State.setPortX_keeps
    | split
    | dsimp only
    | intro _
    | exact id

theorem State.portActivate_keeps {q : List Instr} {n : Nat} {o : List Output} {s : State} (p : Nat) (h : Keeps q n o s) :
    Keeps q n o (State.portActivate s p) := by
  unfold State.portActivate
  try dsimp only
  repeat' first
    | with_reducible assumption
    | with_reducible apply State.releaseHeld_keeps
    | with_reducible apply State.setPortFld_keeps
    | with_reducible apply State.setPortX_keeps
    | with_reducible apply State.setReg_keeps
    | split
    | dsimp only
    | intro _
    | exact id

theorem State.negotiateDone_keeps {q : List Instr} {n : Nat} {o : List Output} {s : State} (p lo hi f2 f3 peer role : Nat) (h : Keeps q n o s) :
    Keeps q n o (State.negotiateDone s p lo hi f2 f3 peer role) := by
  unfold State.negotiateDone
  try dsimp only
  repeat' first
    | with_reducible assumption
    | with_reducible apply State.enterPort_keeps
    | with_reducible apply State.portActivate_keeps
    | with_reducible apply State.setPortFld_keeps
    | with_reducible apply State.setReg_keeps
    | split
    | dsimp only
    | intro _
    | exact id

theorem State.startRetrain_keeps {q : List Instr} {n : Nat} {o : List Output} {s : State} (p : Nat) (h : Keeps q n o s) :
    Keeps q n o (State.startRetrain s p) := by
  unfold State.startRetrain
  try dsimp only
  repeat' first
    | with_reducible assumption
    | with_reducible apply State.count_keeps
    | with_reducible apply State.enterPort_keeps
    | with_reducible apply State.ercAdd_keeps
    | split
    | dsimp only
    | intro _
    | exact id

theorem State.signalLoss_keeps {q : List Instr} {n : Nat} {o : List Output} {s : State} (p : Nat) (h : Keeps q n o s) :
    Keeps q n o (State.signalLoss s p) := by
  unfold State.signalLoss
  try dsimp only
  repeat' first
    | with_reducible assumption
    | with_reducible apply State.startRetrain_keeps
    | split
    | dsimp only
    | intro _
    | exact id

theorem State.retrainDone_keeps {q : List Instr} {n : Nat} {o : List Output} {s : State} (p good : Nat) (h : Keeps q n o s) :
    Keeps q n o (State.retrainDone s p good) := by
  unfold State.retrainDone
  try dsimp only
  repeat' first
    | with_reducible assumption
    | with_reducible apply State.enterPort_keeps
    | with_reducible apply State.portActivate_keeps
    | with_reducible apply State.setLanes_keeps
    | split
    | dsimp only
    | intro _
    | exact id

theorem State.flitReceive_keeps {q : List Instr} {n : Nat} {o : List Output} {s : State} (p hdr corrected : Nat) (bad : Bool) (ack : Option Nat) (h : Keeps q n o s) :
    Keeps q n o (State.flitReceive s p hdr corrected bad ack) := by
  unfold State.flitReceive
  try dsimp only
  repeat' first
    | with_reducible assumption
    | with_reducible apply State.count_keeps
    | with_reducible apply State.emit_keeps
    | with_reducible apply State.ercAdd_keeps
    | with_reducible apply State.setPortX_keeps
    | split
    | dsimp only
    | intro _
    | exact id

theorem State.flitReplay_keeps {q : List Instr} {n : Nat} {o : List Output} {s : State} (p fseq : Nat) (h : Keeps q n o s) :
    Keeps q n o (State.flitReplay s p fseq) := by
  unfold State.flitReplay
  try dsimp only
  repeat' first
    | with_reducible assumption
    | with_reducible apply State.emit_keeps
    | with_reducible apply State.setPortX_keeps
    | with_reducible apply State.startRetrain_keeps
    | split
    | dsimp only
    | intro _
    | exact id

theorem State.laneRetire_keeps {q : List Instr} {n : Nat} {o : List Output} {s : State} (p lane count : Nat) (h : Keeps q n o s) :
    Keeps q n o (State.laneRetire s p lane count) := by
  unfold State.laneRetire
  try dsimp only
  repeat' first
    | with_reducible assumption
    | with_reducible apply State.count_keeps
    | with_reducible apply State.enterPort_keeps
    | with_reducible apply State.ercAdd_keeps
    | with_reducible apply State.setLanes_keeps
    | with_reducible apply State.startRetrain_keeps
    | split
    | dsimp only
    | intro _
    | exact id

theorem State.mgmtNack_keeps {q : List Instr} {n : Nat} {o : List Output} {s : State} (h : PktHdr) (st : Nat) (retry : Bool) (hk : Keeps q n o s) :
    Keeps q n o (State.mgmtNack s h st retry) := by
  unfold State.mgmtNack
  try dsimp only
  repeat' first
    | with_reducible assumption
    | with_reducible apply State.portPut_keeps
    | split
    | dsimp only
    | intro _
    | exact id

theorem State.forward_keeps {q : List Instr} {n : Nat} {o : List Output} {s : State} (h : PktHdr) (bs : List Byte) (inAxis : Option Nat) (hk : Keeps q n o s) :
    Keeps q n o (State.forward s h bs inAxis) := by
  unfold State.forward
  try dsimp only
  repeat' first
    | with_reducible assumption
    | with_reducible apply State.count64_keeps
    | with_reducible apply State.count_keeps
    | with_reducible apply State.mgmtNack_keeps
    | with_reducible apply State.portPut_keeps
    | split
    | dsimp only
    | intro _
    | exact id

theorem State.packetReceive_keeps {q : List Instr} {n : Nat} {o : List Output} {s : State} (p : Nat) (bs : List Byte) (h : Keeps q n o s) :
    Keeps q n o (State.packetReceive s p bs) := by
  unfold State.packetReceive
  try dsimp only
  repeat' first
    | with_reducible assumption
    | with_reducible apply State.count64_keeps
    | with_reducible apply State.count_keeps
    | with_reducible apply State.forward_keeps
    | split
    | dsimp only
    | intro _
    | exact id

theorem State.reroute_keeps {q : List Instr} {n : Nat} {o : List Output} {s : State} (p : Nat) (bs : List Byte) (h : Keeps q n o s) :
    Keeps q n o (State.reroute s p bs) := by
  unfold State.reroute
  try dsimp only
  repeat' first
    | with_reducible assumption
    | with_reducible apply State.endReq_keeps
    | with_reducible apply State.mgmtNack_keeps
    | with_reducible apply State.portPut_keeps
    | split
    | dsimp only
    | intro _
    | exact id

theorem State.linkHold_keeps {q : List Instr} {n : Nat} {o : List Output} {s : State} (p : Nat) (h : Keeps q n o s) :
    Keeps q n o (State.linkHold s p) := by
  unfold State.linkHold
  try dsimp only
  repeat' first
    | with_reducible assumption
    | with_reducible apply State.forAll_keeps
    | with_reducible apply State.raise_keeps
    | with_reducible apply State.reroute_keeps
    | with_reducible apply State.setPortFld_keeps
    | with_reducible apply State.setPortX_keeps
    | split
    | dsimp only
    | intro _
    | exact id

theorem State.sendAnswer_keeps {q : List Instr} {n : Nat} {o : List Output} {s : State} (h : PktHdr) (st : Nat) (data : List Byte) (hk : Keeps q n o s) :
    Keeps q n o (State.sendAnswer s h st data) := by
  unfold State.sendAnswer
  try dsimp only
  repeat' first
    | with_reducible assumption
    | with_reducible apply State.count64_keeps
    | with_reducible apply State.count_keeps
    | with_reducible apply State.portPut_keeps
    | split
    | dsimp only
    | intro _
    | exact id

theorem State.answer_keeps {q : List Instr} {n : Nat} {o : List Output} {s : State} (p : Nat) (h : PktHdr) (a : FabAnswer) (hk : Keeps q n o s) :
    Keeps q n o (State.answer s p h a) := by
  unfold State.answer
  try dsimp only
  repeat' first
    | with_reducible assumption
    | with_reducible apply State.count_keeps
    | with_reducible apply State.mgmtNack_keeps
    | with_reducible apply State.sendAnswer_keeps
    | split
    | dsimp only
    | intro _
    | exact id

theorem State.countWins_keeps {q : List Instr} {n : Nat} {o : List Output} {s : State} (h : Keeps q n o s) :
    Keeps q n o (State.countWins s) := by
  unfold State.countWins
  try dsimp only
  repeat' first
    | with_reducible assumption
    | with_reducible apply State.forAll_keeps
    | with_reducible apply State.setReg_keeps
    | split
    | dsimp only
    | intro _
    | exact id

theorem State.pruneWins_keeps {q : List Instr} {n : Nat} {o : List Output} {s : State} (b : Nat) (h : Keeps q n o s) :
    Keeps q n o (State.pruneWins s b) := by
  unfold State.pruneWins
  try dsimp only
  repeat' first
    | with_reducible assumption
    | with_reducible apply State.countWins_keeps
    | with_reducible apply State.onFab_keeps
    | split
    | dsimp only
    | intro _
    | exact id

theorem State.recordSeq_keeps {q : List Instr} {n : Nat} {o : List Output} {s : State} (e b : Nat) (h : PktHdr) (st : Option Nat) (hk : Keeps q n o s) :
    Keeps q n o (State.recordSeq s e b h st) := by
  unfold State.recordSeq
  try dsimp only
  repeat' first
    | with_reducible assumption
    | with_reducible apply State.countWins_keeps
    | with_reducible apply State.onFab_keeps
    | split
    | dsimp only
    | intro _
    | exact id

theorem State.land_keeps {q : List Instr} {n : Nat} {o : List Output} {s : State} (x : LandWin) (va : Nat) (bs : List Byte) (last : Bool) (h : Keeps q n o s) :
    Keeps q n o (State.land s x va bs last).1 := by
  unfold State.land
  try dsimp only
  repeat' first
    | with_reducible assumption
    | with_reducible apply Engine.dmaWrite_keeps
    | with_reducible apply State.setEng_keeps
    | with_reducible apply State.setFlag_keeps
    | with_reducible refine Keeps.eng (q := q) (n := n) (o := o) ?_ _ _
    | split
    | dsimp only
    | (with_reducible refine Engine.Canonical.spad ?_; first | with_reducible assumption | with_reducible refine Keeps.eng (q := q) (n := n) (o := o) ?_ _ _ | with_reducible apply Engine.dmaWrite_keeps)
    | (with_reducible refine Engine.Canonical.poison ?_; first | with_reducible assumption | with_reducible refine Keeps.eng (q := q) (n := n) (o := o) ?_ _ _ | with_reducible apply Engine.dmaWrite_keeps)
    | (with_reducible refine Engine.Canonical.acc ?_; first | with_reducible assumption | with_reducible refine Keeps.eng (q := q) (n := n) (o := o) ?_ _ _ | with_reducible apply Engine.dmaWrite_keeps)
    | (with_reducible refine Engine.Canonical.vreg ?_; first | with_reducible assumption | with_reducible refine Keeps.eng (q := q) (n := n) (o := o) ?_ _ _ | with_reducible apply Engine.dmaWrite_keeps)
    | (with_reducible refine Engine.Canonical.set0 ?_; first | with_reducible assumption | with_reducible refine Keeps.eng (q := q) (n := n) (o := o) ?_ _ _ | with_reducible apply Engine.dmaWrite_keeps)
    | (with_reducible refine Engine.Canonical.set1 ?_; first | with_reducible assumption | with_reducible refine Keeps.eng (q := q) (n := n) (o := o) ?_ _ _ | with_reducible apply Engine.dmaWrite_keeps)
    | (with_reducible refine Engine.Canonical.tags ?_; first | with_reducible assumption | with_reducible refine Keeps.eng (q := q) (n := n) (o := o) ?_ _ _ | with_reducible apply Engine.dmaWrite_keeps)
    | (with_reducible refine Engine.Canonical.kept ?_; first | with_reducible assumption | with_reducible refine Keeps.eng (q := q) (n := n) (o := o) ?_ _ _ | with_reducible apply Engine.dmaWrite_keeps)
    | exact Engine.zero_canonical
    | with_reducible refine Engine.Canonical.mk ?_ ?_ ?_ ?_ ?_ ?_ ?_ ?_
    | intro _
    | exact id

theorem State.applyRemote_keeps {q : List Instr} {n : Nat} {o : List Output} {s : State} (b : Nat) (h : PktHdr) (pl : List Byte) (m : Medium) (hk : Keeps q n o s) :
    Keeps q n o (State.applyRemote s b h pl m).1 := by
  unfold State.applyRemote
  try dsimp only
  repeat' first
    | with_reducible assumption
    | with_reducible apply State.land_keeps
    | with_reducible apply State.mirHosted_keeps
    | with_reducible apply State.signal_keeps
    | with_reducible apply State.vaReadM_keeps
    | with_reducible apply State.vaWriteM_keeps
    | split
    | dsimp only
    | intro _
    | exact id

theorem State.remoteRequest_keeps {q : List Instr} {n : Nat} {o : List Output} {s : State} (p : Nat) (bs : List Byte) (busy : Bool) (m : Medium) (h : Keeps q n o s) :
    Keeps q n o (State.remoteRequest s p bs busy m) := by
  unfold State.remoteRequest
  try dsimp only
  repeat' first
    | with_reducible assumption
    | with_reducible apply State.answer_keeps
    | with_reducible apply State.applyRemote_keeps
    | with_reducible apply State.count_keeps
    | with_reducible apply State.raise_keeps
    | with_reducible apply State.recordSeq_keeps
    | split
    | dsimp only
    | intro _
    | exact id

theorem State.takeAnswer_keeps {q : List Instr} {n : Nat} {o : List Output} {s : State} (r : FabReq) (h : PktHdr) (pl : List Byte) (hk : Keeps q n o s) :
    Keeps q n o (State.takeAnswer s r h pl) := by
  unfold State.takeAnswer
  try dsimp only
  repeat' first
    | with_reducible assumption
    | with_reducible apply State.endReq_keeps
    | with_reducible apply State.setReq_keeps
    | split
    | dsimp only
    | intro _
    | exact id

theorem State.lateAnswer_keeps {q' : List Instr} {n : Nat} {o : List Output} {s : State} (p b g q : Nat) (h : Keeps q' n o s) :
    Keeps q' n o (State.lateAnswer s p b g q) := by
  unfold State.lateAnswer
  try dsimp only
  repeat' first
    | with_reducible assumption
    | with_reducible apply State.count_keeps
    | with_reducible apply State.lateRecord_keeps
    | with_reducible apply State.onFab_keeps
    | split
    | dsimp only
    | intro _
    | exact id

theorem State.remoteResponse_keeps {q : List Instr} {n : Nat} {o : List Output} {s : State} (p : Nat) (bs : List Byte) (h : Keeps q n o s) :
    Keeps q n o (State.remoteResponse s p bs) := by
  unfold State.remoteResponse
  try dsimp only
  repeat' first
    | with_reducible assumption
    | with_reducible apply State.count_keeps
    | with_reducible apply State.lateAnswer_keeps
    | with_reducible apply State.raise_keeps
    | with_reducible apply State.retryWaiting_keeps
    | with_reducible apply State.takeAnswer_keeps
    | split
    | dsimp only
    | intro _
    | exact id

theorem State.backoffExpiry_keeps {q' : List Instr} {n : Nat} {o : List Output} {s : State} (b g q : Nat) (h : Keeps q' n o s) :
    Keeps q' n o (State.backoffExpiry s b g q) := by
  unfold State.backoffExpiry
  try dsimp only
  repeat' first
    | with_reducible assumption
    | with_reducible apply State.transmit_keeps
    | split
    | dsimp only
    | intro _
    | exact id

theorem State.reqTimeout_keeps {q' : List Instr} {n : Nat} {o : List Output} {s : State} (b g q : Nat) (h : Keeps q' n o s) :
    Keeps q' n o (State.reqTimeout s b g q) := by
  unfold State.reqTimeout
  try dsimp only
  repeat' first
    | with_reducible assumption
    | with_reducible apply State.endReq_keeps
    | with_reducible apply State.onFab_keeps
    | with_reducible apply State.retryWaiting_keeps
    | split
    | dsimp only
    | intro _
    | exact id

theorem State.xputEnds_keeps {q : List Instr} {n : Nat} {o : List Output} {s : State} (d p prog issue : Nat) (h : Keeps q n o s) :
    Keeps q n o (State.xputEnds s d p prog issue) := by
  unfold State.xputEnds
  try dsimp only
  repeat' first
    | with_reducible assumption
    | with_reducible apply Engine.withRun_keeps
    | with_reducible apply State.dropReqs_keeps
    | with_reducible apply State.setEng_keeps
    | with_reducible refine Keeps.eng (q := q) (n := n) (o := o) ?_ _ _
    | split
    | dsimp only
    | (with_reducible refine Engine.Canonical.spad ?_; first | with_reducible assumption | with_reducible refine Keeps.eng (q := q) (n := n) (o := o) ?_ _ _ | with_reducible apply Engine.withRun_keeps)
    | (with_reducible refine Engine.Canonical.poison ?_; first | with_reducible assumption | with_reducible refine Keeps.eng (q := q) (n := n) (o := o) ?_ _ _ | with_reducible apply Engine.withRun_keeps)
    | (with_reducible refine Engine.Canonical.acc ?_; first | with_reducible assumption | with_reducible refine Keeps.eng (q := q) (n := n) (o := o) ?_ _ _ | with_reducible apply Engine.withRun_keeps)
    | (with_reducible refine Engine.Canonical.vreg ?_; first | with_reducible assumption | with_reducible refine Keeps.eng (q := q) (n := n) (o := o) ?_ _ _ | with_reducible apply Engine.withRun_keeps)
    | (with_reducible refine Engine.Canonical.set0 ?_; first | with_reducible assumption | with_reducible refine Keeps.eng (q := q) (n := n) (o := o) ?_ _ _ | with_reducible apply Engine.withRun_keeps)
    | (with_reducible refine Engine.Canonical.set1 ?_; first | with_reducible assumption | with_reducible refine Keeps.eng (q := q) (n := n) (o := o) ?_ _ _ | with_reducible apply Engine.withRun_keeps)
    | (with_reducible refine Engine.Canonical.tags ?_; first | with_reducible assumption | with_reducible refine Keeps.eng (q := q) (n := n) (o := o) ?_ _ _ | with_reducible apply Engine.withRun_keeps)
    | (with_reducible refine Engine.Canonical.kept ?_; first | with_reducible assumption | with_reducible refine Keeps.eng (q := q) (n := n) (o := o) ?_ _ _ | with_reducible apply Engine.withRun_keeps)
    | exact Engine.zero_canonical
    | with_reducible refine Engine.Canonical.mk ?_ ?_ ?_ ?_ ?_ ?_ ?_ ?_
    | intro _
    | exact id

theorem State.signalEnds_keeps {q' : List Instr} {n : Nat} {o : List Output} {s : State} (q seq : Nat) (h : Keeps q' n o s) :
    Keeps q' n o (State.signalEnds s q seq) := by
  unfold State.signalEnds
  try dsimp only
  repeat' first
    | with_reducible assumption
    | with_reducible apply State.dropReqs_keeps
    | with_reducible apply State.setCmd_keeps
    | with_reducible apply State.signal_keeps
    | split
    | dsimp only
    | intro _
    | exact id

theorem State.settleFab_keeps {q : List Instr} {n : Nat} {o : List Output} {s : State} (h : Keeps q n o s) :
    Keeps q n o (State.settleFab s) := by
  unfold State.settleFab
  try dsimp only
  repeat' first
    | with_reducible assumption
    | with_reducible apply State.dropReqs_keeps
    | with_reducible apply State.forAll_keeps
    | with_reducible apply State.signalEnds_keeps
    | with_reducible apply State.signal_keeps
    | with_reducible apply State.xputEnds_keeps
    | split
    | dsimp only
    | intro _
    | exact id

theorem State.commandSignal_keeps {q : List Instr} {n : Nat} {o : List Output} {s : State} (r : CmdRef) (h : Keeps q n o s) :
    Keeps q n o (State.commandSignal s r) := by
  unfold State.commandSignal
  try dsimp only
  repeat' first
    | with_reducible assumption
    | with_reducible apply State.localSignal_keeps
    | with_reducible apply State.remoteSignal_keeps
    | with_reducible apply State.setCmd_keeps
    | with_reducible apply State.settleFab_keeps
    | with_reducible apply State.signal_keeps
    | split
    | dsimp only
    | intro _
    | exact id

theorem State.lwCfgWrite_keeps {q : List Instr} {n : Nat} {o : List Output} {s : State} (b w v : Nat) (h : Keeps q n o s) :
    Keeps q n o (State.lwCfgWrite s b w v) := by
  unfold State.lwCfgWrite
  try dsimp only
  repeat' first
    | with_reducible assumption
    | with_reducible apply State.setReg_keeps
    | split
    | dsimp only
    | intro _
    | exact id

theorem State.linkAuth_keeps {q : List Instr} {n : Nat} {o : List Output} {s : State} (p : Nat) (ok : Bool) (h : Keeps q n o s) :
    Keeps q n o (State.linkAuth s p ok) := by
  unfold State.linkAuth
  try dsimp only
  repeat' first
    | with_reducible assumption
    | with_reducible apply State.count_keeps
    | with_reducible apply State.enterPort_keeps
    | with_reducible apply State.setPortX_keeps
    | split
    | dsimp only
    | intro _
    | exact id

theorem execCommandSignal_keeps {q : List Instr} {n : Nat} {o : List Output} (c : CmdRef) {s : State} (h : Keeps q n o s) :
    ∃ t, execCommandSignal c s = .next t ∧ Keeps q n o t := by
  refine ⟨_, rfl, ?_⟩
  try dsimp only
  repeat' first
    | with_reducible assumption
    | with_reducible apply State.commandSignal_keeps
    | split
    | dsimp only
    | intro _
    | exact id

theorem execPortCfgWrite_keeps {q : List Instr} {n : Nat} {o : List Output} (port : PortId) (data : W32) {s : State} (h : Keeps q n o s) :
    ∃ t, execPortCfgWrite port data s = .next t ∧ Keeps q n o t := by
  refine ⟨_, rfl, ?_⟩
  try dsimp only
  repeat' first
    | with_reducible assumption
    | with_reducible apply State.portCfgWrite_keeps
    | split
    | dsimp only
    | intro _
    | exact id

theorem execTrainingBurst_keeps {q : List Instr} {n : Nat} {o : List Output} (port : PortId) {s : State} (h : Keeps q n o s) :
    ∃ t, execTrainingBurst port s = .next t ∧ Keeps q n o t := by
  refine ⟨_, rfl, ?_⟩
  try dsimp only
  repeat' first
    | with_reducible assumption
    | with_reducible apply State.trainingBurst_keeps
    | split
    | dsimp only
    | intro _
    | exact id

theorem execPartnerBurst_keeps {q : List Instr} {n : Nat} {o : List Output} (port : PortId) (lanes : BitVec 5) {s : State} (h : Keeps q n o s) :
    ∃ t, execPartnerBurst port lanes s = .next t ∧ Keeps q n o t := by
  refine ⟨_, rfl, ?_⟩
  try dsimp only
  repeat' first
    | with_reducible assumption
    | with_reducible apply State.partnerBurst_keeps
    | split
    | dsimp only
    | intro _
    | exact id

theorem execTrainDone_keeps {q : List Instr} {n : Nat} {o : List Output} (port : PortId) {s : State} (h : Keeps q n o s) :
    ∃ t, execTrainDone port s = .next t ∧ Keeps q n o t := by
  refine ⟨_, rfl, ?_⟩
  try dsimp only
  repeat' first
    | with_reducible assumption
    | with_reducible apply State.trainDone_keeps
    | split
    | dsimp only
    | intro _
    | exact id

theorem execTrainTimeout_keeps {q : List Instr} {n : Nat} {o : List Output} (port : PortId) {s : State} (h : Keeps q n o s) :
    ∃ t, execTrainTimeout port s = .next t ∧ Keeps q n o t := by
  refine ⟨_, rfl, ?_⟩
  try dsimp only
  repeat' first
    | with_reducible assumption
    | with_reducible apply State.trainTimeout_keeps
    | split
    | dsimp only
    | intro _
    | exact id

theorem execAlignDone_keeps {q : List Instr} {n : Nat} {o : List Output} (port : PortId) (locked : W16) {s : State} (h : Keeps q n o s) :
    ∃ t, execAlignDone port locked s = .next t ∧ Keeps q n o t := by
  refine ⟨_, rfl, ?_⟩
  try dsimp only
  repeat' first
    | with_reducible assumption
    | with_reducible apply State.alignDone_keeps
    | split
    | dsimp only
    | intro _
    | exact id

theorem execNegotiateDone_keeps {q : List Instr} {n : Nat} {o : List Output} (port : PortId) (majorMin majorMax : Byte) (features2 features3 : W16) (peer : BitVec 24) (role : PortId) {s : State} (h : Keeps q n o s) :
    ∃ t, execNegotiateDone port majorMin majorMax features2 features3 peer role s = .next t ∧ Keeps q n o t := by
  refine ⟨_, rfl, ?_⟩
  try dsimp only
  repeat' first
    | with_reducible assumption
    | with_reducible apply State.negotiateDone_keeps
    | split
    | dsimp only
    | intro _
    | exact id

theorem execLinkSignalLoss_keeps {q : List Instr} {n : Nat} {o : List Output} (port : PortId) {s : State} (h : Keeps q n o s) :
    ∃ t, execLinkSignalLoss port s = .next t ∧ Keeps q n o t := by
  refine ⟨_, rfl, ?_⟩
  try dsimp only
  repeat' first
    | with_reducible assumption
    | with_reducible apply State.signalLoss_keeps
    | split
    | dsimp only
    | intro _
    | exact id

theorem execRetrainDone_keeps {q : List Instr} {n : Nat} {o : List Output} (port : PortId) (good : W16) {s : State} (h : Keeps q n o s) :
    ∃ t, execRetrainDone port good s = .next t ∧ Keeps q n o t := by
  refine ⟨_, rfl, ?_⟩
  try dsimp only
  repeat' first
    | with_reducible assumption
    | with_reducible apply State.retrainDone_keeps
    | split
    | dsimp only
    | intro _
    | exact id

theorem execFlitReceive_keeps {q : List Instr} {n : Nat} {o : List Output} (port : PortId) (hdr : W32) (corrected : Nat) (bad : Bool) (ack : Option (BitVec 12)) {s : State} (h : Keeps q n o s) :
    ∃ t, execFlitReceive port hdr corrected bad ack s = .next t ∧ Keeps q n o t := by
  refine ⟨_, rfl, ?_⟩
  try dsimp only
  repeat' first
    | with_reducible assumption
    | with_reducible apply State.flitReceive_keeps
    | split
    | dsimp only
    | intro _
    | exact id

theorem execFlitReplay_keeps {q : List Instr} {n : Nat} {o : List Output} (port : PortId) (fseq : BitVec 12) {s : State} (h : Keeps q n o s) :
    ∃ t, execFlitReplay port fseq s = .next t ∧ Keeps q n o t := by
  refine ⟨_, rfl, ?_⟩
  try dsimp only
  repeat' first
    | with_reducible assumption
    | with_reducible apply State.flitReplay_keeps
    | split
    | dsimp only
    | intro _
    | exact id

theorem execLaneRetire_keeps {q : List Instr} {n : Nat} {o : List Output} (port : PortId) (lane : BitVec 4) (count : W32) {s : State} (h : Keeps q n o s) :
    ∃ t, execLaneRetire port lane count s = .next t ∧ Keeps q n o t := by
  refine ⟨_, rfl, ?_⟩
  try dsimp only
  repeat' first
    | with_reducible assumption
    | with_reducible apply State.count_keeps
    | with_reducible apply State.laneRetire_keeps
    | split
    | dsimp only
    | intro _
    | exact id

theorem execPacketReceive_keeps {q : List Instr} {n : Nat} {o : List Output} (port : PortId) (bytes : List Byte) {s : State} (h : Keeps q n o s) :
    ∃ t, execPacketReceive port bytes s = .next t ∧ Keeps q n o t := by
  refine ⟨_, rfl, ?_⟩
  try dsimp only
  repeat' first
    | with_reducible assumption
    | with_reducible apply State.packetReceive_keeps
    | split
    | dsimp only
    | intro _
    | exact id

theorem execLinkHoldExpiry_keeps {q : List Instr} {n : Nat} {o : List Output} (port : PortId) {s : State} (h : Keeps q n o s) :
    ∃ t, execLinkHoldExpiry port s = .next t ∧ Keeps q n o t := by
  refine ⟨_, rfl, ?_⟩
  try dsimp only
  repeat' first
    | with_reducible assumption
    | with_reducible apply State.linkHold_keeps
    | with_reducible apply State.settleFab_keeps
    | split
    | dsimp only
    | intro _
    | exact id

theorem execRemoteRequest_keeps {q : List Instr} {n : Nat} {o : List Output} (port : PortId) (bytes : List Byte) (busy : Bool) (m : Medium) {s : State} (h : Keeps q n o s) :
    ∃ t, execRemoteRequest port bytes busy m s = .next t ∧ Keeps q n o t := by
  refine ⟨_, rfl, ?_⟩
  try dsimp only
  repeat' first
    | with_reducible assumption
    | with_reducible apply State.remoteRequest_keeps
    | split
    | dsimp only
    | intro _
    | exact id

theorem execRemoteResponse_keeps {q : List Instr} {n : Nat} {o : List Output} (port : PortId) (bytes : List Byte) {s : State} (h : Keeps q n o s) :
    ∃ t, execRemoteResponse port bytes s = .next t ∧ Keeps q n o t := by
  refine ⟨_, rfl, ?_⟩
  try dsimp only
  repeat' first
    | with_reducible assumption
    | with_reducible apply State.remoteResponse_keeps
    | with_reducible apply State.settleFab_keeps
    | split
    | dsimp only
    | intro _
    | exact id

theorem execRetryBackoffExpiry_keeps {q : List Instr} {n : Nat} {o : List Output} (bay : BayId) (gen : Byte) (seq : BitVec 48) {s : State} (h : Keeps q n o s) :
    ∃ t, execRetryBackoffExpiry bay gen seq s = .next t ∧ Keeps q n o t := by
  refine ⟨_, rfl, ?_⟩
  try dsimp only
  repeat' first
    | with_reducible assumption
    | with_reducible apply State.backoffExpiry_keeps
    | with_reducible apply State.settleFab_keeps
    | split
    | dsimp only
    | intro _
    | exact id

theorem execFabReqTimeout_keeps {q : List Instr} {n : Nat} {o : List Output} (bay : BayId) (gen : Byte) (seq : BitVec 48) {s : State} (h : Keeps q n o s) :
    ∃ t, execFabReqTimeout bay gen seq s = .next t ∧ Keeps q n o t := by
  refine ⟨_, rfl, ?_⟩
  try dsimp only
  repeat' first
    | with_reducible assumption
    | with_reducible apply State.reqTimeout_keeps
    | with_reducible apply State.settleFab_keeps
    | split
    | dsimp only
    | intro _
    | exact id

theorem execLwCfgWrite_keeps {q : List Instr} {n : Nat} {o : List Output} (bay : BayId) (win : BitVec 5) (data : W32) {s : State} (h : Keeps q n o s) :
    ∃ t, execLwCfgWrite bay win data s = .next t ∧ Keeps q n o t := by
  refine ⟨_, rfl, ?_⟩
  try dsimp only
  repeat' first
    | with_reducible assumption
    | with_reducible apply State.lwCfgWrite_keeps
    | split
    | dsimp only
    | intro _
    | exact id

theorem execLinkAuthDone_keeps {q : List Instr} {n : Nat} {o : List Output} (port : PortId) (ok : Bool) {s : State} (h : Keeps q n o s) :
    ∃ t, execLinkAuthDone port ok s = .next t ∧ Keeps q n o t := by
  refine ⟨_, rfl, ?_⟩
  try dsimp only
  repeat' first
    | with_reducible assumption
    | with_reducible apply State.linkAuth_keeps
    | split
    | dsimp only
    | intro _
    | exact id

end Sys2Proof.Machine
end

