-- ==== Sys2Proof/Laws/KeepsMemory.lean ====
section
/-! SUPPORT. What each operation of Machine/Memory.lean keeps (Laws/Keeps.lean). -/

namespace Sys2Proof.Machine

theorem State.addObj_keeps {q : List Instr} {n : Nat} {o' : List Output} {s : State} (o : Obj) (h : Keeps q n o' s) :
    Keeps q n o' (State.addObj s o) := by
  unfold State.addObj
  try dsimp only
  repeat' first
    | with_reducible assumption
    | with_reducible refine State.onMem_keeps ?_ (fun ⟨m0, m1, m2, m3, m4, m5, m6, m7⟩ => ⟨?_, ?_, ?_, ?_, ?_, ?_, ?_, ?_⟩)
    | split
    | dsimp only
    | intro _
    | exact id

theorem State.removeObj_keeps {q : List Instr} {n : Nat} {o' : List Output} {s : State} (o : Obj) (h : Keeps q n o' s) :
    Keeps q n o' (State.removeObj s o) := by
  unfold State.removeObj
  try dsimp only
  repeat' first
    | with_reducible assumption
    | with_reducible refine State.onMem_keeps ?_ (fun ⟨m0, m1, m2, m3, m4, m5, m6, m7⟩ => ⟨?_, ?_, ?_, ?_, ?_, ?_, ?_, ?_⟩)
    | split
    | dsimp only
    | intro _
    | exact id

theorem State.placeAll_keeps {q : List Instr} {n' : Nat} {o' : List Output} {s : State} (o : Obj) (n i : Nat) (h : Keeps q n' o' s) :
    ∀ t, State.placeAll s o n i = some t → Keeps q n' o' t := by
  induction n generalizing s i with
  | zero => intro t ht; cases ht; exact h
  | succ k ih =>
    intro t ht
    unfold State.placeAll at ht
    split at ht
    · contradiction
    · exact ih (i + 1) (State.setSlab_keeps _ _ _ (State.takeSlab_keeps _ _ h)) t ht

theorem State.memMap_keeps {q : List Instr} {n : Nat} {o : List Output} (c : Cmd) {s : State} (h : Keeps q n o s) :
    Keeps q n o (State.memMap c s) := by
  unfold State.memMap
  try dsimp only
  repeat' first
    | with_reducible assumption
    | with_reducible apply State.addObj_keeps
    | (refine State.admit_keeps _ _ _ ?_ _ (.inl ⟨_, ‹_ = Admitted.served _ _›⟩))
    | (refine State.admit_keeps _ _ _ ?_ _ (.inr (.inl ‹_ = Admitted.waits _›)))
    | (refine State.admit_keeps _ _ _ ?_ _ (.inr (.inr ‹_ = Admitted.refused _›)))
    | with_reducible apply State.endsWith_keeps
    | with_reducible apply State.finish_keeps
    | (refine State.placeAll_keeps _ _ _ ?_ _ ‹_ = some _›)
    | with_reducible apply State.setUsed_keeps
    | split
    | dsimp only
    | intro _
    | exact id

theorem State.unmapObj_keeps {q : List Instr} {n : Nat} {o' : List Output} {s : State} (o : Obj) (h : Keeps q n o' s) :
    Keeps q n o' (State.unmapObj s o) := by
  unfold State.unmapObj
  try dsimp only
  repeat' first
    | with_reducible assumption
    | with_reducible apply State.dropCopy_keeps
    | with_reducible apply State.forAll_keeps
    | with_reducible apply State.giveSlab_keeps
    | with_reducible refine State.onMem_keeps ?_ (fun ⟨m0, m1, m2, m3, m4, m5, m6, m7⟩ => ⟨?_, ?_, ?_, ?_, ?_, ?_, ?_, ?_⟩)
    | with_reducible apply State.removeObj_keeps
    | with_reducible apply State.setUsed_keeps
    | with_reducible apply mwf_mclear
    | split
    | dsimp only
    | intro _
    | exact id

theorem State.writeBackObj_keeps {q : List Instr} {n : Nat} {o' : List Output} {s : State} (o : Obj) (h : Keeps q n o' s) :
    Keeps q n o' (State.writeBackObj s o) := by
  unfold State.writeBackObj
  try dsimp only
  repeat' first
    | with_reducible assumption
    | with_reducible apply State.forAll_keeps
    | with_reducible apply State.writeBack_keeps
    | split
    | dsimp only
    | intro _
    | exact id

theorem State.unmapStep_keeps {q : List Instr} {n : Nat} {o' : List Output} {s : State} (c : Cmd) (o : Obj) (h : Keeps q n o' s) :
    Keeps q n o' (State.unmapStep s c o) := by
  unfold State.unmapStep
  try dsimp only
  repeat' first
    | with_reducible assumption
    | with_reducible apply State.endsWith_keeps
    | with_reducible apply State.finish_keeps
    | with_reducible apply State.unmapObj_keeps
    | with_reducible apply State.writeBackObj_keeps
    | split
    | dsimp only
    | intro _
    | exact id

theorem State.memUnmap_keeps {q : List Instr} {n : Nat} {o : List Output} (c : Cmd) {s : State} (h : Keeps q n o s) :
    Keeps q n o (State.memUnmap c s) := by
  unfold State.memUnmap
  try dsimp only
  repeat' first
    | with_reducible assumption
    | with_reducible apply State.endsWith_keeps
    | with_reducible apply State.forAll_keeps
    | with_reducible apply State.setCmd_keeps
    | with_reducible apply State.setCopy_keeps
    | with_reducible apply State.unmapStep_keeps
    | split
    | dsimp only
    | intro _
    | exact id

theorem State.memUnmapAgain_keeps {q : List Instr} {n : Nat} {o : List Output} {s : State} (c : Cmd) (h : Keeps q n o s) :
    Keeps q n o (State.memUnmapAgain s c) := by
  unfold State.memUnmapAgain
  try dsimp only
  repeat' first
    | with_reducible assumption
    | with_reducible apply State.endsWith_keeps
    | with_reducible apply State.unmapStep_keeps
    | split
    | dsimp only
    | intro _
    | exact id

theorem State.moveStart_keeps {q : List Instr} {n' : Nat} {o' : List Output} {s : State} (c : Cmd) (o : Obj) (n : Nat) (x : Slab) (h : Keeps q n' o' s) :
    Keeps q n' o' (State.moveStart s c o n x) := by
  unfold State.moveStart
  try dsimp only
  repeat' first
    | with_reducible assumption
    | with_reducible apply Engine.zero_keeps
    | with_reducible apply State.setSlab_keeps
    | with_reducible apply State.setT3_keeps
    | with_reducible apply State.t3Fetch_keeps
    | with_reducible apply State.t3Send_keeps
    | split
    | dsimp only
    | intro _
    | exact id

theorem State.moveSlab_keeps {q : List Instr} {n' : Nat} {o' : List Output} {s : State} (c : Cmd) (o : Obj) (n : Nat) (h : Keeps q n' o' s) :
    Keeps q n' o' (State.moveSlab s c o n) := by
  unfold State.moveSlab
  try dsimp only
  repeat' first
    | with_reducible assumption
    | with_reducible apply State.moveStart_keeps
    | with_reducible apply State.writeBack_keeps
    | split
    | dsimp only
    | intro _
    | exact id

theorem State.moveNext_keeps {q : List Instr} {n : Nat} {o' : List Output} {s : State} (c : Cmd) (o : Obj) (h : Keeps q n o' s) :
    Keeps q n o' (State.moveNext s c o) := by
  unfold State.moveNext
  try dsimp only
  repeat' first
    | with_reducible assumption
    | with_reducible apply State.moveSlab_keeps
    | with_reducible apply State.setCmd_keeps
    | split
    | dsimp only
    | intro _
    | exact id

theorem State.migrated_keeps {q : List Instr} {n : Nat} {o' : List Output} {s : State} (c : Cmd) (o : Obj) (h : Keeps q n o' s) :
    Keeps q n o' (State.migrated s c o) := by
  unfold State.migrated
  try dsimp only
  repeat' first
    | with_reducible assumption
    | with_reducible apply State.endsWith_keeps
    | with_reducible apply State.forAll_keeps
    | with_reducible apply State.setObj_keeps
    | with_reducible apply State.setSlab_keeps
    | split
    | dsimp only
    | intro _
    | exact id

theorem State.migrateAdmit_keeps {q : List Instr} {n : Nat} {o : List Output} {s : State} (c : Cmd) (left : Nat) (h : Keeps q n o s) :
    ∀ t, (∃ c', State.migrateAdmit s c left = .served c' t) ∨ State.migrateAdmit s c left = .waits t ∨ State.migrateAdmit s c left = .refused t → Keeps q n o t := by
  intro t ht
  unfold State.migrateAdmit at ht
  split at ht
  · exact State.admit_keeps _ _ _ h _ ht
  · rcases ht with ⟨_, ht⟩ | ht | ht <;> cases ht
    exact h

theorem State.migrateFails_keeps {q : List Instr} {n' : Nat} {o' : List Output} {s : State} (c : Cmd) (o : Obj) (n st d0 d1 : Nat) (h : Keeps q n' o' s) :
    Keeps q n' o' (State.migrateFails s c o n st d0 d1) := by
  unfold State.migrateFails
  try dsimp only
  repeat' first
    | with_reducible assumption
    | with_reducible apply State.finish_keeps
    | with_reducible apply State.setObj_keeps
    | with_reducible apply State.setSlab_keeps
    | with_reducible apply State.setUsed_keeps
    | split
    | dsimp only
    | intro _
    | exact id

theorem State.migrate_keeps {q : List Instr} {n : Nat} {o : List Output} (c : Cmd) {s : State} (h : Keeps q n o s) :
    Keeps q n o (State.migrate c s) := by
  unfold State.migrate
  try dsimp only
  repeat' first
    | with_reducible assumption
    | with_reducible apply State.endsWith_keeps
    | (refine State.migrateAdmit_keeps _ _ ?_ _ (.inl ⟨_, ‹_ = Admitted.served _ _›⟩))
    | (refine State.migrateAdmit_keeps _ _ ?_ _ (.inr (.inl ‹_ = Admitted.waits _›)))
    | (refine State.migrateAdmit_keeps _ _ ?_ _ (.inr (.inr ‹_ = Admitted.refused _›)))
    | with_reducible apply State.moveNext_keeps
    | with_reducible apply State.setCmd_keeps
    | with_reducible apply State.setObj_keeps
    | split
    | dsimp only
    | intro _
    | exact id

theorem State.migrateAgain_keeps {q : List Instr} {n : Nat} {o : List Output} {s : State} (c : Cmd) (h : Keeps q n o s) :
    Keeps q n o (State.migrateAgain s c) := by
  unfold State.migrateAgain
  try dsimp only
  repeat' first
    | with_reducible assumption
    | with_reducible apply State.moveSlab_keeps
    | split
    | dsimp only
    | intro _
    | exact id

theorem State.slabRead_keeps {q : List Instr} {n' : Nat} {o' : List Output} {s : State} (c : Cmd) (o : Obj) (n : Nat) (m : Medium) (h : Keeps q n' o' s) :
    Keeps q n' o' (State.slabRead s c o n m).1 := by
  unfold State.slabRead
  try dsimp only
  repeat' first
    | with_reducible assumption
    | with_reducible apply Engine.zero_keeps
    | with_reducible apply State.meetMedium_keeps
    | with_reducible apply State.sawBad_keeps
    | with_reducible apply State.t3Done_keeps
    | split
    | dsimp only
    | intro _
    | exact id

theorem State.leaveOld_keeps {q : List Instr} {n' : Nat} {o' : List Output} {s : State} (o : Obj) (n : Nat) (x : Slab) (h : Keeps q n' o' s) :
    Keeps q n' o' (State.leaveOld s o n x) := by
  unfold State.leaveOld
  try dsimp only
  repeat' first
    | with_reducible assumption
    | with_reducible apply State.dropCopy_keeps
    | with_reducible apply State.giveSlab_keeps
    | with_reducible apply State.setUsed_keeps
    | split
    | dsimp only
    | intro _
    | exact id

theorem State.moveFlipped_keeps {q : List Instr} {n : Nat} {o' : List Output} {s : State} (c : Cmd) (o : Obj) (h : Keeps q n o' s) :
    Keeps q n o' (State.moveFlipped s c o) := by
  unfold State.moveFlipped
  try dsimp only
  repeat' first
    | with_reducible assumption
    | with_reducible apply State.migrated_keeps
    | with_reducible apply State.moveNext_keeps
    | split
    | dsimp only
    | intro _
    | exact id

theorem State.migrateSlabDone_keeps {q : List Instr} {n : Nat} {o : List Output} {s : State} (c : Cmd) (m : Medium) (fail : Nat) (h : Keeps q n o s) :
    Keeps q n o (State.migrateSlabDone s c m fail) := by
  unfold State.migrateSlabDone
  try dsimp only
  repeat' first
    | with_reducible assumption
    | with_reducible apply Engine.fail_keeps
    | with_reducible apply Engine.zero_keeps
    | with_reducible apply State.copySlab_keeps
    | with_reducible apply State.leaveOld_keeps
    | with_reducible apply State.migrateFails_keeps
    | with_reducible apply State.moveFlipped_keeps
    | with_reducible apply State.moved_keeps
    | with_reducible refine State.onMem_keeps ?_ (fun ⟨m0, m1, m2, m3, m4, m5, m6, m7⟩ => ⟨?_, ?_, ?_, ?_, ?_, ?_, ?_, ?_⟩)
    | with_reducible apply State.setSlab_keeps
    | with_reducible apply State.slabRead_keeps
    | with_reducible apply State.t3Send_keeps
    | with_reducible apply State.takeSlab_keeps
    | with_reducible apply mwf_rangePut
    | split
    | dsimp only
    | intro _
    | exact id

theorem State.setSched_keeps {q : List Instr} {n : Nat} {o : List Output} {s : State} (b k : Nat) (x : Option Sched) (h : Keeps q n o s) :
    Keeps q n o (State.setSched s b k x) := by
  unfold State.setSched
  try dsimp only
  repeat' first
    | with_reducible assumption
    | with_reducible refine State.onMem_keeps ?_ (fun ⟨m0, m1, m2, m3, m4, m5, m6, m7⟩ => ⟨?_, ?_, ?_, ?_, ?_, ?_, ?_, ?_⟩)
    | split
    | dsimp only
    | intro _
    | exact id

theorem State.dropSched_keeps {q : List Instr} {n : Nat} {o : List Output} {s : State} (b k : Nat) (h : Keeps q n o s) :
    Keeps q n o (State.dropSched s b k) := by
  unfold State.dropSched
  try dsimp only
  repeat' first
    | with_reducible assumption
    | with_reducible apply State.forAll_keeps
    | with_reducible apply State.setCopy_keeps
    | with_reducible apply State.setSched_keeps
    | with_reducible apply State.setUsed_keeps
    | split
    | dsimp only
    | intro _
    | exact id

theorem State.prefetchSched_keeps {q : List Instr} {n : Nat} {o : List Output} (c : Cmd) {s : State} (h : Keeps q n o s) :
    Keeps q n o (State.prefetchSched c s) := by
  unfold State.prefetchSched
  try dsimp only
  repeat' first
    | with_reducible assumption
    | with_reducible apply Engine.fail_keeps
    | (refine State.admit_keeps _ _ _ ?_ _ (.inl ⟨_, ‹_ = Admitted.served _ _›⟩))
    | (refine State.admit_keeps _ _ _ ?_ _ (.inr (.inl ‹_ = Admitted.waits _›)))
    | (refine State.admit_keeps _ _ _ ?_ _ (.inr (.inr ‹_ = Admitted.refused _›)))
    | with_reducible apply State.dropSched_keeps
    | with_reducible apply State.endsWith_keeps
    | with_reducible apply State.finish_keeps
    | with_reducible apply State.setSched_keeps
    | with_reducible apply State.vaRead_keeps
    | split
    | dsimp only
    | intro _
    | exact id

theorem State.fetchSlab_keeps {q : List Instr} {n' : Nat} {o : List Output} {s : State} (b k : Nat) (x : Sched) (n : Nat) (h : Keeps q n' o s) :
    Keeps q n' o (State.fetchSlab s b k x n) := by
  unfold State.fetchSlab
  try dsimp only
  repeat' first
    | with_reducible assumption
    | with_reducible apply Engine.keep_keeps
    | with_reducible apply State.dropCopy_keeps
    | with_reducible apply State.setCopy_keeps
    | with_reducible apply State.setUsed_keeps
    | with_reducible apply State.startFill_keeps
    | with_reducible apply State.takeSlab_keeps
    | with_reducible apply State.writeBack_keeps
    | split
    | dsimp only
    | intro _
    | exact id

theorem State.prefetchFetch_keeps {q : List Instr} {n : Nat} {o : List Output} {s : State} (b k : Nat) (h : Keeps q n o s) :
    Keeps q n o (State.prefetchFetch s b k) := by
  unfold State.prefetchFetch
  try dsimp only
  repeat' first
    | with_reducible assumption
    | with_reducible apply State.count_keeps
    | with_reducible apply State.fetchSlab_keeps
    | with_reducible apply State.forAll_keeps
    | with_reducible apply State.setSched_keeps
    | split
    | dsimp only
    | intro _
    | exact id

theorem State.hbmRequest_keeps {q : List Instr} {n' : Nat} {o : List Output} {s : State} (b va n : Nat) (bs : Option (List PByte)) (m : Medium) (h : Keeps q n' o s) :
    Keeps q n' o (State.hbmRequest s b va n bs m) := by
  unfold State.hbmRequest
  try dsimp only
  repeat' first
    | with_reducible assumption
    | with_reducible apply Engine.fail_keeps
    | with_reducible apply State.emit_keeps
    | with_reducible apply State.readPiece_keeps
    | with_reducible apply State.writePiece_keeps
    | split
    | dsimp only
    | intro _
    | exact id

theorem State.zeroSlabWrite_keeps {q : List Instr} {n' : Nat} {o : List Output} {s : State} (b n : Nat) (h : Keeps q n' o s) :
    Keeps q n' o (State.zeroSlabWrite s b n) := by
  unfold State.zeroSlabWrite
  try dsimp only
  repeat' first
    | with_reducible assumption
    | with_reducible apply Engine.zero_keeps
    | with_reducible apply State.setSlab_keeps
    | with_reducible apply State.zeroWrite_keeps
    | split
    | dsimp only
    | intro _
    | exact id

theorem State.latency_keeps {q : List Instr} {n : Nat} {o : List Output} {s : State} (b kind ns : Nat) (h : Keeps q n o s) :
    Keeps q n o (State.latency s b kind ns) := by
  unfold State.latency
  try dsimp only
  repeat' first
    | with_reducible assumption
    | with_reducible refine State.onMem_keeps ?_ (fun ⟨m0, m1, m2, m3, m4, m5, m6, m7⟩ => ⟨?_, ?_, ?_, ?_, ?_, ?_, ?_, ?_⟩)
    | with_reducible apply State.wmUpdate_keeps
    | with_reducible apply mwf_mset
    | split
    | dsimp only
    | intro _
    | exact id

theorem State.dropIdle_keeps {q : List Instr} {n : Nat} {o : List Output} {s : State} (h : Keeps q n o s) :
    Keeps q n o (State.dropIdle s) := by
  unfold State.dropIdle
  try dsimp only
  repeat' first
    | with_reducible assumption
    | with_reducible apply State.setT3_keeps
    | split
    | dsimp only
    | intro _
    | exact id

theorem State.t3Ends_keeps {q : List Instr} {n : Nat} {o : List Output} {s : State} (a : T3Acc) (st : Nat) (h : Keeps q n o s) :
    Keeps q n o (State.t3Ends s a st) := by
  unfold State.t3Ends
  try dsimp only
  repeat' first
    | with_reducible assumption
    | with_reducible apply State.dropCopy_keeps
    | with_reducible apply State.dropIdle_keeps
    | with_reducible apply State.moved_keeps
    | with_reducible apply State.setT3_keeps
    | split
    | dsimp only
    | intro _
    | exact id

theorem State.landLine_keeps {q : List Instr} {n : Nat} {o : List Output} {s : State} (a : T3Acc) (loc va : Nat) (bs : List PByte) (bad : Bool) (h : Keeps q n o s) :
    Keeps q n o (State.landLine s a loc va bs bad) := by
  unfold State.landLine
  try dsimp only
  repeat' first
    | with_reducible assumption
    | with_reducible apply State.count_keeps
    | with_reducible apply State.hbmPut_keeps
    | with_reducible apply State.poisonLine_keeps
    | with_reducible apply State.raise_keeps
    | with_reducible apply State.sawBad_keeps
    | split
    | dsimp only
    | intro _
    | exact id

theorem State.fillLands_keeps {q : List Instr} {n : Nat} {o : List Output} {s : State} (a : T3Acc) (va : Nat) (bs : List PByte) (bad : Bool) (ns : Nat) (h : Keeps q n o s) :
    Keeps q n o (State.fillLands s a va bs bad ns) := by
  unfold State.fillLands
  try dsimp only
  repeat' first
    | with_reducible assumption
    | with_reducible apply State.forAll_keeps
    | with_reducible apply State.landLine_keeps
    | with_reducible apply State.latency_keeps
    | with_reducible apply State.moved_keeps
    | with_reducible apply State.setCopy_keeps
    | with_reducible apply State.setT3_keeps
    | split
    | dsimp only
    | intro _
    | exact id

theorem State.t3Response_keeps {q : List Instr} {n : Nat} {o : List Output} {s : State} (link b va : Nat) (fill : Bool) (bs : List PByte) (bad error : Bool) (ns : Nat) (h : Keeps q n o s) :
    Keeps q n o (State.t3Response s link b va fill bs bad error ns) := by
  unfold State.t3Response
  try dsimp only
  repeat' first
    | with_reducible assumption
    | with_reducible apply State.count64_keeps
    | with_reducible apply State.count_keeps
    | with_reducible apply State.fillLands_keeps
    | with_reducible apply State.lateArrival_keeps
    | with_reducible apply State.lateRecord_keeps
    | with_reducible apply State.latency_keeps
    | with_reducible refine State.onMem_keeps ?_ (fun ⟨m0, m1, m2, m3, m4, m5, m6, m7⟩ => ⟨?_, ?_, ?_, ?_, ?_, ?_, ?_, ?_⟩)
    | with_reducible apply State.raise_keeps
    | with_reducible apply State.retryDevWrites_keeps
    | with_reducible apply State.sawBad_keeps
    | with_reducible apply State.setT3_keeps
    | with_reducible apply State.t3Ends_keeps
    | with_reducible apply State.teardown_keeps
    | split
    | dsimp only
    | intro _
    | exact id

theorem State.t3Timeout_keeps {q : List Instr} {n : Nat} {o : List Output} {s : State} (b va : Nat) (fill : Bool) (h : Keeps q n o s) :
    Keeps q n o (State.t3Timeout s b va fill) := by
  unfold State.t3Timeout
  try dsimp only
  repeat' first
    | with_reducible assumption
    | with_reducible refine State.onMem_keeps ?_ (fun ⟨m0, m1, m2, m3, m4, m5, m6, m7⟩ => ⟨?_, ?_, ?_, ?_, ?_, ?_, ?_, ?_⟩)
    | with_reducible apply State.retryDevWrites_keeps
    | with_reducible apply State.t3Ends_keeps
    | split
    | dsimp only
    | intro _
    | exact id

theorem State.writeBackDone_keeps {q : List Instr} {n' : Nat} {o : List Output} {s : State} (b n st : Nat) (h : Keeps q n' o s) :
    Keeps q n' o (State.writeBackDone s b n st) := by
  unfold State.writeBackDone
  try dsimp only
  repeat' first
    | with_reducible assumption
    | with_reducible apply State.count_keeps
    | with_reducible apply State.moved_keeps
    | with_reducible apply State.raise_keeps
    | with_reducible apply State.setCopy_keeps
    | split
    | dsimp only
    | intro _
    | exact id

theorem State.ageTick_keeps {q : List Instr} {n : Nat} {o : List Output} {s : State} (b : Nat) (h : Keeps q n o s) :
    Keeps q n o (State.ageTick s b) := by
  unfold State.ageTick
  try dsimp only
  repeat' first
    | with_reducible assumption
    | with_reducible apply State.forAll_keeps
    | with_reducible refine State.onMem_keeps ?_ (fun ⟨m0, m1, m2, m3, m4, m5, m6, m7⟩ => ⟨?_, ?_, ?_, ?_, ?_, ?_, ?_, ?_⟩)
    | with_reducible apply State.setCopy_keeps
    | with_reducible apply mwf_mset
    | split
    | dsimp only
    | intro _
    | exact id

theorem State.wmArm_keeps {q : List Instr} {n : Nat} {o : List Output} {s : State} (b w : Nat) (h : Keeps q n o s) :
    Keeps q n o (State.wmArm s b w) := by
  unfold State.wmArm
  try dsimp only
  repeat' first
    | with_reducible assumption
    | with_reducible apply State.setReg_keeps
    | with_reducible apply State.wmCross_keeps
    | split
    | dsimp only
    | intro _
    | exact id

theorem State.wmDisarm_keeps {q : List Instr} {n : Nat} {o : List Output} {s : State} (b w : Nat) (h : Keeps q n o s) :
    Keeps q n o (State.wmDisarm s b w) := by
  unfold State.wmDisarm
  try dsimp only
  repeat' first
    | with_reducible assumption
    | with_reducible apply State.setReg_keeps
    | split
    | dsimp only
    | intro _
    | exact id

theorem execMemMap_keeps {q : List Instr} {n : Nat} {o : List Output} (c : CmdRef) {s : State} (h : Keeps q n o s) :
    ∃ t, execMemMap c s = .next t ∧ Keeps q n o t := by
  refine ⟨_, rfl, ?_⟩
  try dsimp only
  repeat' first
    | with_reducible assumption
    | with_reducible apply State.memMap_keeps
    | with_reducible apply State.perform_keeps
    | split
    | dsimp only
    | intro _
    | exact id

theorem execMemUnmap_keeps {q : List Instr} {n : Nat} {o : List Output} (c : CmdRef) {s : State} (h : Keeps q n o s) :
    ∃ t, execMemUnmap c s = .next t ∧ Keeps q n o t := by
  refine ⟨_, rfl, ?_⟩
  try dsimp only
  repeat' first
    | with_reducible assumption
    | with_reducible apply State.memUnmapAgain_keeps
    | with_reducible apply State.memUnmap_keeps
    | with_reducible apply State.perform_keeps
    | with_reducible apply State.running_keeps
    | split
    | dsimp only
    | intro _
    | exact id

theorem execMigrate_keeps {q : List Instr} {n : Nat} {o : List Output} (c : CmdRef) {s : State} (h : Keeps q n o s) :
    ∃ t, execMigrate c s = .next t ∧ Keeps q n o t := by
  refine ⟨_, rfl, ?_⟩
  try dsimp only
  repeat' first
    | with_reducible assumption
    | with_reducible apply State.migrateAgain_keeps
    | with_reducible apply State.migrate_keeps
    | with_reducible apply State.perform_keeps
    | with_reducible apply State.running_keeps
    | split
    | dsimp only
    | intro _
    | exact id

theorem execMigrateSlabDone_keeps {q : List Instr} {n : Nat} {o : List Output} (c : CmdRef) (m : Medium) (fail : Bool) {s : State} (h : Keeps q n o s) :
    ∃ t, execMigrateSlabDone c m fail s = .next t ∧ Keeps q n o t := by
  refine ⟨_, rfl, ?_⟩
  try dsimp only
  repeat' first
    | with_reducible assumption
    | with_reducible apply Engine.fail_keeps
    | with_reducible apply State.migrateSlabDone_keeps
    | with_reducible apply State.running_keeps
    | split
    | dsimp only
    | intro _
    | exact id

theorem execPrefetchSched_keeps {q : List Instr} {n : Nat} {o : List Output} (c : CmdRef) {s : State} (h : Keeps q n o s) :
    ∃ t, execPrefetchSched c s = .next t ∧ Keeps q n o t := by
  refine ⟨_, rfl, ?_⟩
  try dsimp only
  repeat' first
    | with_reducible assumption
    | with_reducible apply State.perform_keeps
    | with_reducible apply State.prefetchSched_keeps
    | split
    | dsimp only
    | intro _
    | exact id

theorem execPrefetchFetch_keeps {q : List Instr} {n : Nat} {o : List Output} (bay : BayId) (k : BitVec 4) {s : State} (h : Keeps q n o s) :
    ∃ t, execPrefetchFetch bay k s = .next t ∧ Keeps q n o t := by
  refine ⟨_, rfl, ?_⟩
  try dsimp only
  repeat' first
    | with_reducible assumption
    | with_reducible apply State.prefetchFetch_keeps
    | split
    | dsimp only
    | intro _
    | exact id

theorem execHbmRequest_keeps {q : List Instr} {n' : Nat} {o : List Output} (bay : BayId) (va : BitVec 57) (n : Nat) (bs : Option (List PByte)) (m : Medium) {s : State} (h : Keeps q n' o s) :
    ∃ t, execHbmRequest bay va n bs m s = .next t ∧ Keeps q n' o t := by
  refine ⟨_, rfl, ?_⟩
  try dsimp only
  repeat' first
    | with_reducible assumption
    | with_reducible apply State.hbmRequest_keeps
    | split
    | dsimp only
    | intro _
    | exact id

theorem execZeroSlabWrite_keeps {q : List Instr} {n : Nat} {o : List Output} (bay : BayId) (slab : BitVec 41) {s : State} (h : Keeps q n o s) :
    ∃ t, execZeroSlabWrite bay slab s = .next t ∧ Keeps q n o t := by
  refine ⟨_, rfl, ?_⟩
  try dsimp only
  repeat' first
    | with_reducible assumption
    | with_reducible apply State.zeroSlabWrite_keeps
    | split
    | dsimp only
    | intro _
    | exact id

theorem execT3Response_keeps {q : List Instr} {n : Nat} {o : List Output} (link : LinkId) (bay : BayId) (va : BitVec 57) (fill : Bool) (bs : List PByte) (bad error : Bool) (ns : Nat) {s : State} (h : Keeps q n o s) :
    ∃ t, execT3Response link bay va fill bs bad error ns s = .next t ∧ Keeps q n o t := by
  refine ⟨_, rfl, ?_⟩
  try dsimp only
  repeat' first
    | with_reducible assumption
    | with_reducible apply State.t3Response_keeps
    | split
    | dsimp only
    | intro _
    | exact id

theorem execT3Timeout_keeps {q : List Instr} {n : Nat} {o : List Output} (bay : BayId) (va : BitVec 57) (fill : Bool) {s : State} (h : Keeps q n o s) :
    ∃ t, execT3Timeout bay va fill s = .next t ∧ Keeps q n o t := by
  refine ⟨_, rfl, ?_⟩
  try dsimp only
  repeat' first
    | with_reducible assumption
    | with_reducible apply State.t3Timeout_keeps
    | split
    | dsimp only
    | intro _
    | exact id

theorem execWriteBackDone_keeps {q : List Instr} {n : Nat} {o : List Output} (bay : BayId) (slab : BitVec 41) (fail : W16) {s : State} (h : Keeps q n o s) :
    ∃ t, execWriteBackDone bay slab fail s = .next t ∧ Keeps q n o t := by
  refine ⟨_, rfl, ?_⟩
  try dsimp only
  repeat' first
    | with_reducible assumption
    | with_reducible apply Engine.fail_keeps
    | with_reducible apply State.writeBackDone_keeps
    | split
    | dsimp only
    | intro _
    | exact id

theorem execAgeEpochTick_keeps {q : List Instr} {n : Nat} {o : List Output} (bay : BayId) {s : State} (h : Keeps q n o s) :
    ∃ t, execAgeEpochTick bay s = .next t ∧ Keeps q n o t := by
  refine ⟨_, rfl, ?_⟩
  try dsimp only
  repeat' first
    | with_reducible assumption
    | with_reducible apply State.ageTick_keeps
    | split
    | dsimp only
    | intro _
    | exact id

theorem execWmArm_keeps {q : List Instr} {n : Nat} {o : List Output} (bay : BayId) (w : BitVec 3) {s : State} (h : Keeps q n o s) :
    ∃ t, execWmArm bay w s = .next t ∧ Keeps q n o t := by
  refine ⟨_, rfl, ?_⟩
  try dsimp only
  repeat' first
    | with_reducible assumption
    | with_reducible apply State.wmArm_keeps
    | split
    | dsimp only
    | intro _
    | exact id

theorem execWmDisarm_keeps {q : List Instr} {n : Nat} {o : List Output} (bay : BayId) (w : BitVec 3) {s : State} (h : Keeps q n o s) :
    ∃ t, execWmDisarm bay w s = .next t ∧ Keeps q n o t := by
  refine ⟨_, rfl, ?_⟩
  try dsimp only
  repeat' first
    | with_reducible assumption
    | with_reducible apply State.wmDisarm_keeps
    | split
    | dsimp only
    | intro _
    | exact id

end Sys2Proof.Machine
end

