-- ==== Sys2Proof/Laws/KeepsRtOps.lean ====
section
/-! SUPPORT. What each operation of Machine/RtOps.lean keeps (Laws/Keeps.lean). -/

namespace Sys2Proof.Machine

theorem State.setModel_keeps {q : List Instr} {n : Nat} {o : List Output} {s : State} (b m : Nat) (x : Option RtModel) (h : Keeps q n o s) :
    Keeps q n o (State.setModel s b m x) := by
  unfold State.setModel
  try dsimp only
  repeat' first
    | with_reducible assumption
    | with_reducible apply State.onRt_keeps
    | with_reducible apply mwf_mset
    | split
    | dsimp only
    | intro _
    | exact id

theorem State.setRtSt_keeps {q : List Instr} {n : Nat} {o : List Output} {s : State} (b m v : Nat) (h : Keeps q n o s) :
    Keeps q n o (State.setRtSt s b m v) := by
  unfold State.setRtSt
  try dsimp only
  repeat' first
    | with_reducible assumption
    | with_reducible apply State.setFld_keeps
    | split
    | dsimp only
    | intro _
    | exact id

theorem State.epochWrite_keeps {q : List Instr} {n : Nat} {o : List Output} {s : State} (b m off : Nat) (ws : List Nat) (h : Keeps q n o s) :
    Keeps q n o (State.epochWrite s b m off ws) := by
  unfold State.epochWrite
  try dsimp only
  repeat' first
    | with_reducible assumption
    | with_reducible apply State.devWriteBy_keeps
    | split
    | dsimp only
    | intro _
    | exact id

theorem State.putUnitRec_keeps {q : List Instr} {n : Nat} {o : List Output} {s : State} (b m : Nat) (adapter : Bool) (i : Nat) (u : RtUnit) (h : Keeps q n o s) :
    Keeps q n o (State.putUnitRec s b m adapter i u) := by
  unfold State.putUnitRec
  try dsimp only
  repeat' first
    | with_reducible assumption
    | with_reducible apply State.epochWrite_keeps
    | split
    | dsimp only
    | intro _
    | exact id

theorem State.putUnit_keeps {q : List Instr} {n : Nat} {o : List Output} {s : State} (b m : Nat) (adapter : Bool) (i : Nat) (u : RtUnit) (h : Keeps q n o s) :
    Keeps q n o (State.putUnit s b m adapter i u) := by
  unfold State.putUnit
  try dsimp only
  repeat' first
    | with_reducible assumption
    | with_reducible apply State.putUnitRec_keeps
    | with_reducible apply State.setModel_keeps
    | split
    | dsimp only
    | intro _
    | exact id

theorem State.rtPublish_keeps {q : List Instr} {n : Nat} {o : List Output} {s : State} (b m : Nat) (h : Keeps q n o s) :
    Keeps q n o (State.rtPublish s b m) := by
  unfold State.rtPublish
  try dsimp only
  repeat' first
    | with_reducible assumption
    | with_reducible apply State.setFld_keeps
    | with_reducible apply State.setReg_keeps
    | split
    | dsimp only
    | intro _
    | exact id

theorem State.rootOf_keeps {q : List Instr} {n : Nat} {o : List Output} {s : State} (locs : List Nat) (len : Nat) (h : Keeps q n o s) :
    Keeps q n o (State.rootOf s locs len).1 := by
  unfold State.rootOf
  try dsimp only
  repeat' first
    | with_reducible assumption
    | with_reducible apply State.count64_keeps
    | split
    | dsimp only
    | intro _
    | exact id

theorem State.huMismatch_keeps {q : List Instr} {n : Nat} {o : List Output} {s : State} (locs : List Nat) (h : Keeps q n o s) :
    Keeps q n o (State.huMismatch s locs) := by
  unfold State.huMismatch
  try dsimp only
  repeat' first
    | with_reducible assumption
    | with_reducible apply State.count_keeps
    | split
    | dsimp only
    | intro _
    | exact id

theorem State.rtBytes_keeps {q : List Instr} {n' : Nat} {o : List Output} {s : State} (c : Cmd) (m : Medium) (va n : Nat) (h : Keeps q n' o s) :
    Keeps q n' o (State.rtBytes s c m va n).1 := by
  unfold State.rtBytes
  try dsimp only
  repeat' first
    | with_reducible assumption
    | with_reducible apply State.vaReadKeep_keeps
    | split
    | dsimp only
    | intro _
    | exact id

theorem State.rtReadEntries_keeps {q : List Instr} {n' : Nat} {o : List Output} {s : State} (c : Cmd) (m : Medium) (n : Nat) (h : Keeps q n' o s) :
    Keeps q n' o (State.rtReadEntries s c m n).1 := by
  unfold State.rtReadEntries
  have h1 := State.rtBytes_keeps c m (c.p64 1) (128 * (1 + n) + 96) h
  revert h1
  generalize State.rtBytes s c m (c.p64 1) (128 * (1 + n) + 96) = r
  obtain ⟨s1, x, a⟩ := r
  exact id

theorem State.rtReadSized_keeps {q : List Instr} {n' : Nat} {o : List Output} (c : Cmd) (m : Medium) (h : State × Option (List Nat) × Acc) (n : Option Nat) (hh : Keeps q n' o h.1) :
    Keeps q n' o (State.rtReadSized c m h n).1 := by
  cases n with
  | none => exact hh
  | some k => exact State.rtReadEntries_keeps _ _ _ hh

theorem State.rtReadFirst_keeps {q : List Instr} {n : Nat} {o : List Output} (c : Cmd) (m : Medium) (h : State × Option (List Nat) × Acc) (hh : Keeps q n o h.1) :
    Keeps q n o (State.rtReadFirst c m h).1 := State.rtReadSized_keeps _ _ _ _ hh

theorem State.rtReadManifest_keeps {q : List Instr} {n : Nat} {o : List Output} {s : State} (c : Cmd) (m : Medium) (h : Keeps q n o s) :
    Keeps q n o (State.rtReadManifest s c m).1 := State.rtReadFirst_keeps _ _ _ (State.rtBytes_keeps _ _ _ _ h)

theorem State.rtReadShards_keeps {q : List Instr} {n : Nat} {o : List Output} {s : State} (c : Cmd) (m : Medium) (man : RtManifest) (h : Keeps q n o s) :
    Keeps q n o (State.rtReadShards s c m man).1 := by
  unfold State.rtReadShards
  try dsimp only
  repeat' first
    | with_reducible assumption
    | with_reducible apply Engine.fail_keeps
    | with_reducible apply State.rtBytes_keeps
    | with_reducible apply foldl_state
    | with_reducible apply foldl_fst_state
    | with_reducible apply mwf_foldl
    | split
    | dsimp only
    | intro _
    | exact id

theorem State.discardStaging_keeps {q : List Instr} {n : Nat} {o : List Output} {s : State} (b m : Nat) (h : Keeps q n o s) :
    Keeps q n o (State.discardStaging s b m) := by
  unfold State.discardStaging
  try dsimp only
  repeat' first
    | with_reducible assumption
    | with_reducible apply State.forAll_keeps
    | with_reducible apply State.putUnit_keeps
    | with_reducible apply State.rtPublish_keeps
    | split
    | dsimp only
    | intro _
    | exact id

theorem State.stagePut_keeps {q : List Instr} {n : Nat} {o : List Output} {s : State} (u : RtUnit) (off : Nat) (bs : List Byte) (h : Keeps q n o s) :
    Keeps q n o (State.stagePut s u off bs) := by
  unfold State.stagePut
  try dsimp only
  repeat' first
    | with_reducible assumption
    | with_reducible apply State.hbmPut_keeps
    | with_reducible apply foldl_state
    | with_reducible apply foldl_fst_state
    | split
    | dsimp only
    | intro _
    | exact id

theorem State.stageOpen_keeps {q : List Instr} {n : Nat} {o : List Output} {s : State} (b m : Nat) (adapter : Bool) (i epoch : Nat) (u : RtUnit) (h : Keeps q n o s) :
    Keeps q n o (State.stageOpen s b m adapter i epoch u) := by
  unfold State.stageOpen
  try dsimp only
  repeat' first
    | with_reducible assumption
    | with_reducible apply State.forAll_keeps
    | with_reducible apply State.putUnit_keeps
    | with_reducible apply State.zeroSlab_keeps
    | split
    | dsimp only
    | intro _
    | exact id

theorem State.setStage_keeps {q : List Instr} {n : Nat} {o : List Output} {s : State} (b m : Nat) (adapter : Bool) (g : Option RtStage) (h : Keeps q n o s) :
    Keeps q n o (State.setStage s b m adapter g) := by
  unfold State.setStage
  try dsimp only
  repeat' first
    | with_reducible assumption
    | with_reducible apply State.setModel_keeps
    | split
    | dsimp only
    | intro _
    | exact id

theorem State.flipUnit_keeps {q : List Instr} {n : Nat} {o : List Output} {s : State} (b m : Nat) (adapter : Bool) (i first : Nat) (h : Keeps q n o s) :
    Keeps q n o (State.flipUnit s b m adapter i first) := by
  unfold State.flipUnit
  try dsimp only
  repeat' first
    | with_reducible assumption
    | with_reducible apply Engine.zero_keeps
    | with_reducible apply State.count_keeps
    | with_reducible apply State.forAll_keeps
    | with_reducible apply State.putUnit_keeps
    | with_reducible apply State.setSlab_keeps
    | split
    | dsimp only
    | intro _
    | exact id

theorem State.putHold_keeps {q : List Instr} {n : Nat} {o : List Output} {s : State} (b m : Nat) (x : RtBar) (h : Keeps q n o s) :
    Keeps q n o (State.putHold s b m x) := by
  unfold State.putHold
  try dsimp only
  repeat' first
    | with_reducible assumption
    | with_reducible apply State.setReg_keeps
    | split
    | dsimp only
    | intro _
    | exact id

theorem State.endBar_keeps {q : List Instr} {n : Nat} {o : List Output} {s : State} (x : RtBar) (st d0 d1 : Nat) (h : Keeps q n o s) :
    Keeps q n o (State.endBar s x st d0 d1) := by
  unfold State.endBar
  try dsimp only
  repeat' first
    | with_reducible assumption
    | with_reducible apply State.finish_keeps
    | split
    | dsimp only
    | intro _
    | exact id

theorem State.setBars_keeps {q : List Instr} {n : Nat} {o : List Output} {s : State} (b m : Nat) (arm abar : Option RtBar) (h : Keeps q n o s) :
    Keeps q n o (State.setBars s b m arm abar) := by
  unfold State.setBars
  try dsimp only
  repeat' first
    | with_reducible assumption
    | with_reducible apply State.setModel_keeps
    | split
    | dsimp only
    | intro _
    | exact id

theorem State.armStep_keeps {q : List Instr} {n : Nat} {o : List Output} {s : State} (b m : Nat) (h : Keeps q n o s) :
    Keeps q n o (State.armStep s b m) := by
  unfold State.armStep
  try dsimp only
  repeat' first
    | with_reducible assumption
    | with_reducible apply State.endBar_keeps
    | with_reducible apply State.flipUnit_keeps
    | with_reducible apply State.forAll_keeps
    | with_reducible apply State.putHold_keeps
    | with_reducible apply State.rtPublish_keeps
    | with_reducible apply State.setBars_keeps
    | with_reducible apply State.setRtSt_keeps
    | split
    | dsimp only
    | intro _
    | exact id

theorem State.abarStep_keeps {q : List Instr} {n : Nat} {o : List Output} {s : State} (b m : Nat) (h : Keeps q n o s) :
    Keeps q n o (State.abarStep s b m) := by
  unfold State.abarStep
  try dsimp only
  repeat' first
    | with_reducible assumption
    | with_reducible apply State.endBar_keeps
    | with_reducible apply State.flipUnit_keeps
    | with_reducible apply State.forAll_keeps
    | with_reducible apply State.putHold_keeps
    | with_reducible apply State.setBars_keeps
    | split
    | dsimp only
    | intro _
    | exact id

theorem State.raiseGates_keeps {q : List Instr} {n : Nat} {o : List Output} {s : State} (b m : Nat) (h : Keeps q n o s) :
    Keeps q n o (State.raiseGates s b m) := by
  unfold State.raiseGates
  try dsimp only
  repeat' first
    | with_reducible assumption
    | with_reducible apply State.evtMax_keeps
    | with_reducible apply State.forAll_keeps
    | split
    | dsimp only
    | intro _
    | exact id

theorem State.stampModel_keeps {q : List Instr} {n : Nat} {o : List Output} {s : State} (b m k : Nat) (x : RtModel) (h : Keeps q n o s) :
    Keeps q n o (State.stampModel s b m k x) := by
  unfold State.stampModel
  try dsimp only
  repeat' first
    | with_reducible assumption
    | with_reducible apply State.epochWrite_keeps
    | with_reducible apply State.evtMax_keeps
    | with_reducible apply State.setModel_keeps
    | with_reducible apply State.setReg_keeps
    | split
    | with_reducible apply Keeps.withStamp
    | dsimp only
    | intro _
    | exact id

theorem State.stampStep_keeps {q : List Instr} {n : Nat} {o : List Output} {s : State} (b m k : Nat) (h : Keeps q n o s) :
    Keeps q n o (State.stampStep s b m k) := by
  unfold State.stampStep
  try dsimp only
  repeat' first
    | with_reducible assumption
    | with_reducible apply State.stampModel_keeps
    | split
    | dsimp only
    | intro _
    | exact id

theorem State.putStamps_keeps {q : List Instr} {n : Nat} {o : List Output} {s : State} (b m : Nat) (h : Keeps q n o s) :
    Keeps q n o (State.putStamps s b m) := by
  unfold State.putStamps
  try dsimp only
  repeat' first
    | with_reducible assumption
    | with_reducible apply State.forAll_keeps
    | with_reducible apply State.stampStep_keeps
    | split
    | dsimp only
    | intro _
    | exact id

theorem State.rtGo_keeps {q : List Instr} {n : Nat} {o : List Output} {s : State} (b m : Nat) (h : Keeps q n o s) :
    Keeps q n o (State.rtGo s b m) := by
  unfold State.rtGo
  try dsimp only
  repeat' first
    | with_reducible assumption
    | with_reducible apply State.abarStep_keeps
    | with_reducible apply State.armStep_keeps
    | with_reducible apply State.putStamps_keeps
    | with_reducible apply State.raiseGates_keeps
    | split
    | dsimp only
    | intro _
    | exact id

theorem State.openAbar_keeps {q : List Instr} {n : Nat} {o : List Output} {s : State} (b m : Nat) (g : RtStage) (c : Cmd) (h : Keeps q n o s) :
    Keeps q n o (State.openAbar s b m g c) := by
  unfold State.openAbar
  try dsimp only
  repeat' first
    | with_reducible assumption
    | with_reducible apply State.rtGo_keeps
    | with_reducible apply State.setCmd_keeps
    | with_reducible apply State.setModel_keeps
    | split
    | dsimp only
    | intro _
    | exact id

theorem State.orphan_keeps {q : List Instr} {n : Nat} {o' : List Output} {s : State} (o : FabFor) (h : Keeps q n o' s) :
    Keeps q n o' (State.orphan s o) := by
  unfold State.orphan
  try dsimp only
  repeat' first
    | with_reducible assumption
    | with_reducible apply State.onFab_keeps
    | split
    | dsimp only
    | intro _
    | exact id

theorem State.stageEnd_keeps {q : List Instr} {n : Nat} {o : List Output} {s : State} (b m : Nat) (adapter : Bool) (res : Nat × Nat × Nat) (h : Keeps q n o s) :
    Keeps q n o (State.stageEnd s b m adapter res) := by
  unfold State.stageEnd
  try dsimp only
  repeat' first
    | with_reducible assumption
    | with_reducible apply State.discardStaging_keeps
    | with_reducible apply State.finish_keeps
    | with_reducible apply State.openAbar_keeps
    | with_reducible apply State.orphan_keeps
    | with_reducible apply State.rtPublish_keeps
    | with_reducible apply State.setRtSt_keeps
    | with_reducible apply State.setStage_keeps
    | split
    | dsimp only
    | intro _
    | exact id

theorem State.stageCompare_keeps {q : List Instr} {n : Nat} {o : List Output} {s : State} (b m : Nat) (adapter : Bool) (e : RtEntry) (h : Keeps q n o s) :
    Keeps q n o (State.stageCompare s b m adapter e) := by
  unfold State.stageCompare
  try dsimp only
  repeat' first
    | with_reducible assumption
    | with_reducible apply Engine.fail_keeps
    | with_reducible apply State.huMismatch_keeps
    | with_reducible apply State.putUnit_keeps
    | with_reducible apply State.rootOf_keeps
    | with_reducible apply State.setStage_keeps
    | split
    | dsimp only
    | intro _
    | exact id

theorem State.stageCheckEnd_keeps {q : List Instr} {n : Nat} {o : List Output} {s : State} (b m : Nat) (adapter : Bool) (h : Keeps q n o s) :
    Keeps q n o (State.stageCheckEnd s b m adapter) := by
  unfold State.stageCheckEnd
  try dsimp only
  repeat' first
    | with_reducible assumption
    | with_reducible apply State.stageEnd_keeps
    | split
    | dsimp only
    | intro _
    | exact id

theorem State.stageClosed_keeps {q : List Instr} {n : Nat} {o : List Output} {s : State} (b m : Nat) (h : Keeps q n o s) :
    Keeps q n o (State.stageClosed s b m).1 := by
  unfold State.stageClosed
  try dsimp only
  repeat' first
    | with_reducible assumption
    | with_reducible apply State.count_keeps
    | split
    | dsimp only
    | intro _
    | exact id

theorem State.stageStray_keeps {q : List Instr} {n : Nat} {o : List Output} {s : State} (b m va : Nat) (adapter : Bool) (h : Keeps q n o s) :
    Keeps q n o (State.stageStray s b m va adapter).1 := by
  unfold State.stageStray
  try dsimp only
  repeat' first
    | with_reducible assumption
    | with_reducible apply State.lateArrival_keeps
    | with_reducible apply State.lateRecord_keeps
    | with_reducible apply State.stageClosed_keeps
    | split
    | dsimp only
    | intro _
    | exact id

theorem State.landStaging_keeps {q : List Instr} {n : Nat} {o : List Output} {s : State} (b m va : Nat) (bs : List Byte) (h : Keeps q n o s) :
    Keeps q n o (State.landStaging s b m va bs).1 := by
  unfold State.landStaging
  try dsimp only
  repeat' first
    | with_reducible assumption
    | with_reducible apply Engine.fail_keeps
    | with_reducible apply State.putUnit_keeps
    | with_reducible apply State.setStage_keeps
    | with_reducible apply State.stageCheckEnd_keeps
    | with_reducible apply State.stageClosed_keeps
    | with_reducible apply State.stageCompare_keeps
    | with_reducible apply State.stagePut_keeps
    | with_reducible apply State.stageStray_keeps
    | split
    | dsimp only
    | intro _
    | exact id

theorem State.readySettle_keeps {q : List Instr} {n : Nat} {o : List Output} {s : State} (b m : Nat) (adapter : Bool) (h : Keeps q n o s) :
    Keeps q n o (State.readySettle s b m adapter) := by
  unfold State.readySettle
  try dsimp only
  repeat' first
    | with_reducible assumption
    | with_reducible apply State.dropReqs_keeps
    | with_reducible apply State.stageEnd_keeps
    | split
    | dsimp only
    | intro _
    | exact id

theorem State.rtSettle_keeps {q : List Instr} {n : Nat} {o : List Output} {s : State} (h : Keeps q n o s) :
    Keeps q n o (State.rtSettle s) := by
  unfold State.rtSettle
  try dsimp only
  repeat' first
    | with_reducible assumption
    | with_reducible apply State.forAll_keeps
    | with_reducible apply State.readySettle_keeps
    | with_reducible apply State.rtGo_keeps
    | split
    | dsimp only
    | intro _
    | exact id

end Sys2Proof.Machine
end

