-- ==== Sys2Proof/Laws/KeepsRethatch.lean ====
section
/-! SUPPORT. What each operation of Machine/Rethatch.lean keeps (Laws/Keeps.lean). -/

namespace Sys2Proof.Machine

theorem State.placeSet_keeps {q : List Instr} {n' : Nat} {o : List Output} (n i : Nat) {s : State} (b mask : Nat) (h : Keeps q n' o s) :
    ∀ t, State.placeSet n i s b mask = some t → Keeps q n' o t.1 := by
  induction n generalizing s i with
  | zero => intro t ht; cases ht; exact h
  | succ k ih =>
    intro t ht
    unfold State.placeSet at ht
    split at ht
    · contradiction
    · obtain ⟨r, hr, rfl⟩ := Option.map_eq_some_iff.mp ht
      exact ih _ (State.takeSlab_keeps _ _ h) r hr

theorem State.placeUnit_keeps {q : List Instr} {n : Nat} {o : List Output} {s : State} (b base first slabs fmt layout mask : Nat) (h : Keeps q n o s) :
    ∀ t, State.placeUnit s b base first slabs fmt layout mask = some t → Keeps q n o t.1 := by
  intro t ht
  unfold State.placeUnit at ht
  try dsimp only at ht
  repeat' first
    | contradiction
    | (obtain rfl := Option.some.inj ht; clear ht)
    | with_reducible assumption
    | with_reducible apply Engine.zero_keeps
    | with_reducible apply State.forAll_keeps
    | (refine State.placeSet_keeps _ _ _ _ ?_ _ ‹_ = some _›)
    | with_reducible apply State.setSlab_keeps
    | split at ht
    | split
    | dsimp only
    | intro _

theorem State.placeUnits_keeps {q : List Instr} {n : Nat} {o : List Output} {s : State} (b base first : Nat) (l : List (Nat × Nat × Nat × Nat)) (h : Keeps q n o s) :
    ∀ t, State.placeUnits s b base first l = some t → Keeps q n o t.1 := by
  induction l generalizing s first with
  | nil => intro t ht; cases ht; exact h
  | cons e r ih =>
    intro t ht
    unfold State.placeUnits at ht
    split at ht
    · contradiction
    · obtain ⟨y, hy, rfl⟩ := Option.map_eq_some_iff.mp ht
      exact ih _ (State.placeUnit_keeps _ _ _ _ _ _ _ h _ ‹_›) y hy

theorem State.notEnabling_keeps {q : List Instr} {n : Nat} {o : List Output} {s : State} (b m : Nat) (h : Keeps q n o s) :
    Keeps q n o (State.notEnabling s b m) := by
  unfold State.notEnabling
  try dsimp only
  repeat' first
    | with_reducible assumption
    | with_reducible apply State.onRt_keeps
    | split
    | dsimp only
    | intro _
    | exact id

theorem State.enableFails_keeps {q : List Instr} {n : Nat} {o : List Output} {s : State} (b m st : Nat) (h : Keeps q n o s) :
    Keeps q n o (State.enableFails s b m st) := by
  unfold State.enableFails
  try dsimp only
  repeat' first
    | with_reducible assumption
    | with_reducible apply State.notEnabling_keeps
    | with_reducible apply State.setFld_keeps
    | split
    | dsimp only
    | intro _
    | exact id

theorem State.modelUp_keeps {q : List Instr} {n : Nat} {o : List Output} {s : State} (b m : Nat) (layers adapts : List RtUnit) (h : Keeps q n o s) :
    Keeps q n o (State.modelUp s b m layers adapts) := by
  unfold State.modelUp
  try dsimp only
  repeat' first
    | with_reducible assumption
    | with_reducible apply State.epochWrite_keeps
    | with_reducible apply State.forAll_keeps
    | with_reducible apply State.notEnabling_keeps
    | with_reducible apply State.rtGo_keeps
    | with_reducible apply State.rtPublish_keeps
    | with_reducible apply State.setEvt_keeps
    | with_reducible apply State.setModel_keeps
    | with_reducible apply State.setReg_keeps
    | split
    | dsimp only
    | intro _
    | exact id

theorem State.rtTry_keeps {q : List Instr} {n : Nat} {o : List Output} {s : State} (b m : Nat) (h : Keeps q n o s) :
    Keeps q n o (State.rtTry s b m) := by
  unfold State.rtTry
  try dsimp only
  repeat' first
    | with_reducible assumption
    | with_reducible apply Engine.fail_keeps
    | with_reducible apply State.addObj_keeps
    | with_reducible apply State.enableFails_keeps
    | with_reducible apply State.modelUp_keeps
    | (refine State.placeUnits_keeps _ _ _ _ ?_ _ ‹_ = some _›)
    | with_reducible apply State.takeUnits_keeps
    | with_reducible apply State.vaRead_keeps
    | split
    | dsimp only
    | intro _
    | exact id

theorem State.rtEnable_keeps {q : List Instr} {n : Nat} {o : List Output} {s : State} (b m : Nat) (h : Keeps q n o s) :
    Keeps q n o (State.rtEnable s b m) := by
  unfold State.rtEnable
  try dsimp only
  repeat' first
    | with_reducible assumption
    | with_reducible apply State.onRt_keeps
    | with_reducible apply State.rtTry_keeps
    | split
    | dsimp only
    | intro _
    | exact id

theorem State.rtDisable_keeps {q : List Instr} {n : Nat} {o : List Output} {s : State} (b m : Nat) (h : Keeps q n o s) :
    Keeps q n o (State.rtDisable s b m) := by
  unfold State.rtDisable
  try dsimp only
  repeat' first
    | with_reducible assumption
    | with_reducible apply State.finish_keeps
    | with_reducible apply State.forAll_keeps
    | with_reducible apply State.giveSlab_keeps
    | with_reducible apply State.orphan_keeps
    | with_reducible apply State.setModel_keeps
    | with_reducible apply State.setReg_keeps
    | with_reducible apply State.setUsed_keeps
    | with_reducible apply State.unmapObj_keeps
    | split
    | dsimp only
    | intro _
    | exact id

theorem State.sendReady_keeps {q : List Instr} {n : Nat} {o : List Output} {s : State} (c : Cmd) (b m : Nat) (adapter : Bool) (h : Keeps q n o s) :
    Keeps q n o (State.sendReady s c b m adapter) := by
  unfold State.sendReady
  try dsimp only
  repeat' first
    | with_reducible assumption
    | with_reducible apply State.evtAdd_keeps
    | with_reducible apply State.readySettle_keeps
    | with_reducible apply State.remoteSignal_keeps
    | with_reducible apply State.stageEnd_keeps
    | split
    | dsimp only
    | intro _
    | exact id

theorem State.stageBegin_keeps {q : List Instr} {n : Nat} {o : List Output} {s : State} (c : Cmd) (b m : Nat) (adapter fabric : Bool) (man : RtManifest) (vas : List Nat) (h : Keeps q n o s) :
    Keeps q n o (State.stageBegin s c b m adapter fabric man vas) := by
  unfold State.stageBegin
  try dsimp only
  repeat' first
    | with_reducible assumption
    | with_reducible apply State.clearLate_keeps
    | with_reducible apply State.forAll_keeps
    | with_reducible apply State.rtPublish_keeps
    | with_reducible apply State.sendReady_keeps
    | with_reducible apply State.setCmd_keeps
    | with_reducible apply State.setRtSt_keeps
    | with_reducible apply State.setStage_keeps
    | with_reducible apply State.stageCheckEnd_keeps
    | with_reducible apply State.stageOpen_keeps
    | split
    | dsimp only
    | intro _
    | exact id

theorem State.rtEnds_keeps {q : List Instr} {n : Nat} {o : List Output} {s : State} (c : Cmd) (m : Nat) (adapter : Bool) (f : Nat × Nat × Nat) (h : Keeps q n o s) :
    Keeps q n o (State.rtEnds s c m adapter f) := by
  unfold State.rtEnds
  try dsimp only
  repeat' first
    | with_reducible assumption
    | with_reducible apply State.finish_keeps
    | with_reducible apply State.t3Done_keeps
    | split
    | dsimp only
    | intro _
    | exact id

theorem State.withShards_keeps {q' : List Instr} {n : Nat} {o : List Output} (c : Cmd) (m : Nat) (adapter : Bool) (go : State → RtManifest → List Nat → State) (q : State × RtRead × RtFail) (hgo : ∀ a_ b_ c_, Keeps q' n o a_ → Keeps q' n o (go a_ b_ c_)) (hq : Keeps q' n o q.1) :
    Keeps q' n o (State.withShards c m adapter go q) := by
  unfold State.withShards
  try dsimp only
  repeat' first
    | with_reducible assumption
    | apply hgo
    | with_reducible apply Engine.fail_keeps
    | with_reducible apply State.finish_keeps
    | with_reducible apply State.rtEnds_keeps
    | with_reducible apply State.t3Done_keeps
    | split
    | dsimp only
    | intro _
    | exact id

theorem State.withRead_keeps {q : List Instr} {n : Nat} {o : List Output} (c : Cmd) (md : Medium) (m : Nat) (adapter fabric : Bool) (check : RtManifest → RtFail) (go : State → RtManifest → List Nat → State) (r : State × RtRead) (hgo : ∀ a_ b_ c_, Keeps q n o a_ → Keeps q n o (go a_ b_ c_)) (hr : Keeps q n o r.1) :
    Keeps q n o (State.withRead c md m adapter fabric check go r) := by
  unfold State.withRead
  try dsimp only
  repeat' first
    | with_reducible assumption
    | apply hgo
    | with_reducible apply Engine.fail_keeps
    | with_reducible apply State.finish_keeps
    | with_reducible apply State.rtEnds_keeps
    | with_reducible apply State.rtReadShards_keeps
    | with_reducible apply State.t3Done_keeps
    | with_reducible apply State.withShards_keeps
    | split
    | dsimp only
    | intro _
    | exact id

theorem State.withManifest_keeps {q : List Instr} {n : Nat} {o : List Output} {s : State} (c : Cmd) (md : Medium) (m : Nat) (adapter fabric : Bool) (check : RtManifest → RtFail) (go : State → RtManifest → List Nat → State) (h : Keeps q n o s) (hgo : ∀ a_ b_ c_, Keeps q n o a_ → Keeps q n o (go a_ b_ c_)) :
    Keeps q n o (State.withManifest s c md m adapter fabric check go) := State.withRead_keeps _ _ _ _ _ _ _ _ hgo (State.rtReadManifest_keeps _ _ h)

theorem State.stageGo_keeps {q : List Instr} {n : Nat} {o : List Output} (c : Cmd) (b m : Nat) (fabric : Bool) {s : State} (man : RtManifest) (vas : List Nat) (h : Keeps q n o s) :
    Keeps q n o (State.stageGo c b m fabric s man vas) := by
  unfold State.stageGo
  try dsimp only
  repeat' first
    | with_reducible assumption
    | with_reducible apply State.discardStaging_keeps
    | with_reducible apply State.endsWith_keeps
    | with_reducible apply State.rtEnds_keeps
    | with_reducible apply State.stageBegin_keeps
    | split
    | dsimp only
    | intro _
    | exact id

theorem State.rtStage_keeps {q : List Instr} {n : Nat} {o : List Output} (fabric : Bool) (md : Medium) (c : Cmd) {s : State} (h : Keeps q n o s) :
    Keeps q n o (State.rtStage fabric md c s) := by
  unfold State.rtStage
  try dsimp only
  repeat' first
    | with_reducible assumption
    | with_reducible apply State.rtEnds_keeps
    | with_reducible apply State.stageGo_keeps
    | with_reducible apply State.withManifest_keeps
    | split
    | dsimp only
    | intro _
    | exact id

theorem State.stageLeaf_keeps {q : List Instr} {n : Nat} {o : List Output} {s : State} (c : Cmd) (b m : Nat) (adapter : Bool) (md : Medium) (x : RtModel) (g : RtStage) (e : RtEntry) (u : RtUnit) (h : Keeps q n o s) :
    Keeps q n o (State.stageLeaf s c b m adapter md x g e u) := by
  unfold State.stageLeaf
  try dsimp only
  repeat' first
    | with_reducible assumption
    | with_reducible apply Engine.fail_keeps
    | with_reducible apply State.moved_keeps
    | with_reducible apply State.setModel_keeps
    | with_reducible apply State.setStage_keeps
    | with_reducible apply State.stageCompare_keeps
    | with_reducible apply State.stagePut_keeps
    | with_reducible apply State.vaReadM_keeps
    | split
    | dsimp only
    | intro _
    | exact id

theorem State.stageMore_keeps {q : List Instr} {n : Nat} {o : List Output} (adapter : Bool) (md : Medium) (c : Cmd) {s : State} (h : Keeps q n o s) :
    Keeps q n o (State.stageMore adapter md c s) := by
  unfold State.stageMore
  try dsimp only
  repeat' first
    | with_reducible assumption
    | with_reducible apply State.setCmd_keeps
    | with_reducible apply State.stageCheckEnd_keeps
    | with_reducible apply State.stageLeaf_keeps
    | split
    | dsimp only
    | intro _
    | exact id

theorem State.adapterGo_keeps {q : List Instr} {n : Nat} {o : List Output} (c : Cmd) (b m : Nat) (fabric : Bool) (x : RtModel) {s : State} (man : RtManifest) (vas : List Nat) (h : Keeps q n o s) :
    Keeps q n o (State.adapterGo c b m fabric x s man vas) := by
  unfold State.adapterGo
  try dsimp only
  repeat' first
    | with_reducible assumption
    | with_reducible apply State.rtEnds_keeps
    | with_reducible apply State.stageBegin_keeps
    | split
    | dsimp only
    | intro _
    | exact id

theorem State.rtAdapter_keeps {q : List Instr} {n : Nat} {o : List Output} (md : Medium) (c : Cmd) {s : State} (h : Keeps q n o s) :
    Keeps q n o (State.rtAdapter md c s) := by
  unfold State.rtAdapter
  try dsimp only
  repeat' first
    | with_reducible assumption
    | with_reducible apply State.adapterGo_keeps
    | with_reducible apply State.rtEnds_keeps
    | with_reducible apply State.withManifest_keeps
    | split
    | dsimp only
    | intro _
    | exact id

theorem State.stagingLanding_keeps {q : List Instr} {n : Nat} {o : List Output} {s : State} (b va : Nat) (bs : List Byte) (h : Keeps q n o s) :
    Keeps q n o (State.stagingLanding s b va bs) := by
  unfold State.stagingLanding
  try dsimp only
  repeat' first
    | with_reducible assumption
    | with_reducible apply State.landStaging_keeps
    | split
    | dsimp only
    | intro _
    | exact id

theorem State.stageTimeout_keeps {q : List Instr} {n : Nat} {o : List Output} {s : State} (r : CmdRef) (h : Keeps q n o s) :
    Keeps q n o (State.stageTimeout s r) := by
  unfold State.stageTimeout
  try dsimp only
  repeat' first
    | with_reducible assumption
    | with_reducible apply State.armLate_keeps
    | with_reducible apply State.stageEnd_keeps
    | split
    | dsimp only
    | intro _
    | exact id

theorem State.recheck_keeps {q : List Instr} {n : Nat} {o : List Output} {s : State} (b m : Nat) (staged : Bool) (x : RtModel) (differs : List (BitVec 14)) (h : Keeps q n o s) :
    Keeps q n o (State.recheck s b m staged x differs).1 := by
  unfold State.recheck
  try dsimp only
  repeat' first
    | with_reducible assumption
    | with_reducible apply State.huMismatch_keeps
    | with_reducible apply State.rootOf_keeps
    | with_reducible apply foldl_state
    | with_reducible apply foldl_fst_state
    | with_reducible apply mwf_foldl
    | split
    | dsimp only
    | intro _
    | exact id

theorem State.activeMismatch_keeps {q : List Instr} {n : Nat} {o : List Output} (b m : Nat) {s : State} (f : Bool × Nat) (h : Keeps q n o s) :
    Keeps q n o (State.activeMismatch b m s f) := by
  unfold State.activeMismatch
  try dsimp only
  repeat' first
    | with_reducible assumption
    | with_reducible apply State.count_keeps
    | with_reducible apply State.notice_keeps
    | with_reducible apply State.putUnit_keeps
    | with_reducible apply State.raise_keeps
    | with_reducible apply State.rtPublish_keeps
    | split
    | dsimp only
    | intro _
    | exact id

theorem State.stagedMismatch_keeps {q : List Instr} {n : Nat} {o : List Output} (b m : Nat) {s : State} (f : Bool × Nat) (h : Keeps q n o s) :
    Keeps q n o (State.stagedMismatch b m s f) := by
  unfold State.stagedMismatch
  try dsimp only
  repeat' first
    | with_reducible assumption
    | with_reducible apply State.endBar_keeps
    | with_reducible apply State.putUnit_keeps
    | with_reducible apply State.rtGo_keeps
    | with_reducible apply State.rtPublish_keeps
    | with_reducible apply State.setBars_keeps
    | with_reducible apply State.setRtSt_keeps
    | split
    | dsimp only
    | intro _
    | exact id

theorem State.verifyCheck_keeps {q : List Instr} {n : Nat} {o : List Output} (staged : Bool) (differs : List (BitVec 14)) (c : Cmd) {s : State} (h : Keeps q n o s) :
    Keeps q n o (State.verifyCheck staged differs c s) := by
  unfold State.verifyCheck
  try dsimp only
  repeat' first
    | with_reducible assumption
    | with_reducible apply State.activeMismatch_keeps
    | with_reducible apply State.endsWith_keeps
    | with_reducible apply State.finish_keeps
    | with_reducible apply State.forAll_keeps
    | with_reducible apply State.recheck_keeps
    | with_reducible apply State.rtEnds_keeps
    | with_reducible apply State.stagedMismatch_keeps
    | split
    | dsimp only
    | intro _
    | exact id

theorem State.recheckPass_keeps {q : List Instr} {n : Nat} {o : List Output} {s : State} (b m : Nat) (active staged : List (BitVec 14)) (h : Keeps q n o s) :
    Keeps q n o (State.recheckPass s b m active staged) := by
  unfold State.recheckPass
  try dsimp only
  repeat' first
    | with_reducible assumption
    | with_reducible apply State.activeMismatch_keeps
    | with_reducible apply State.forAll_keeps
    | with_reducible apply State.recheck_keeps
    | with_reducible apply State.setReg_keeps
    | with_reducible apply State.stagedMismatch_keeps
    | split
    | dsimp only
    | intro _
    | exact id

theorem State.payloadDigests_keeps {q : List Instr} {n : Nat} {o : List Output} {s : State} (c : Cmd) (md : Medium) (man : RtManifest) (vas : List Nat) (h : Keeps q n o s) :
    Keeps q n o (State.payloadDigests s c md man vas).1 := by
  unfold State.payloadDigests
  try dsimp only
  repeat' first
    | with_reducible assumption
    | with_reducible apply State.count64_keeps
    | with_reducible apply State.rtBytes_keeps
    | with_reducible apply foldl_state
    | with_reducible apply foldl_fst_state
    | with_reducible apply mwf_foldl
    | split
    | dsimp only
    | intro _
    | exact id

theorem State.publishGo_keeps {q : List Instr} {n : Nat} {o : List Output} (c : Cmd) (md : Medium) (b m : Nat) {s : State} (man : RtManifest) (vas : List Nat) (h : Keeps q n o s) :
    Keeps q n o (State.publishGo c md b m s man vas) := by
  unfold State.publishGo
  try dsimp only
  repeat' first
    | with_reducible assumption
    | with_reducible apply Engine.fail_keeps
    | with_reducible apply State.draw_keeps
    | with_reducible apply State.endsWith_keeps
    | with_reducible apply State.finish_keeps
    | with_reducible apply State.payloadDigests_keeps
    | with_reducible apply State.rtEnds_keeps
    | with_reducible apply State.t3Done_keeps
    | with_reducible apply State.vaWriteM_keeps
    | with_reducible apply State.writeReady_keeps
    | split
    | dsimp only
    | intro _
    | exact id

theorem State.verifyPublish_keeps {q : List Instr} {n : Nat} {o : List Output} (md : Medium) (c : Cmd) {s : State} (h : Keeps q n o s) :
    Keeps q n o (State.verifyPublish md c s) := by
  unfold State.verifyPublish
  try dsimp only
  repeat' first
    | with_reducible assumption
    | with_reducible apply State.publishGo_keeps
    | with_reducible apply State.withManifest_keeps
    | split
    | dsimp only
    | intro _
    | exact id

theorem State.rtArm_keeps {q : List Instr} {n : Nat} {o : List Output} (rolling : Bool) (c : Cmd) {s : State} (h : Keeps q n o s) :
    Keeps q n o (State.rtArm rolling c s) := by
  unfold State.rtArm
  try dsimp only
  repeat' first
    | with_reducible assumption
    | with_reducible apply State.rtEnds_keeps
    | with_reducible apply State.rtGo_keeps
    | with_reducible apply State.setBars_keeps
    | with_reducible apply State.setCmd_keeps
    | with_reducible apply State.setRtSt_keeps
    | split
    | dsimp only
    | intro _
    | exact id

theorem State.abortCmd_keeps {q' : List Instr} {n : Nat} {o : List Output} {s : State} (q seq m : Nat) (adapter : Bool) (h : Keeps q' n o s) :
    Keeps q' n o (State.abortCmd s q seq m adapter) := by
  unfold State.abortCmd
  try dsimp only
  repeat' first
    | with_reducible assumption
    | with_reducible apply State.rtEnds_keeps
    | split
    | dsimp only
    | intro _
    | exact id

theorem State.rtAbort_keeps {q : List Instr} {n : Nat} {o : List Output} (c : Cmd) {s : State} (h : Keeps q n o s) :
    Keeps q n o (State.rtAbort c s) := by
  unfold State.rtAbort
  try dsimp only
  repeat' first
    | with_reducible assumption
    | with_reducible apply State.abortCmd_keeps
    | with_reducible apply State.discardStaging_keeps
    | with_reducible apply State.endBar_keeps
    | with_reducible apply State.endsWith_keeps
    | with_reducible apply State.orphan_keeps
    | with_reducible apply State.putHold_keeps
    | with_reducible apply State.rtEnds_keeps
    | with_reducible apply State.rtGo_keeps
    | with_reducible apply State.rtSettle_keeps
    | with_reducible apply State.setBars_keeps
    | with_reducible apply State.setRtSt_keeps
    | with_reducible apply State.setStage_keeps
    | split
    | dsimp only
    | intro _
    | exact id

theorem State.rtAbortAdapter_keeps {q : List Instr} {n : Nat} {o : List Output} (c : Cmd) {s : State} (h : Keeps q n o s) :
    Keeps q n o (State.rtAbortAdapter c s) := by
  unfold State.rtAbortAdapter
  try dsimp only
  repeat' first
    | with_reducible assumption
    | with_reducible apply State.abortCmd_keeps
    | with_reducible apply State.endBar_keeps
    | with_reducible apply State.endsWith_keeps
    | with_reducible apply State.orphan_keeps
    | with_reducible apply State.putHold_keeps
    | with_reducible apply State.rtEnds_keeps
    | with_reducible apply State.rtGo_keeps
    | with_reducible apply State.rtSettle_keeps
    | with_reducible apply State.setBars_keeps
    | with_reducible apply State.setStage_keeps
    | split
    | dsimp only
    | intro _
    | exact id

theorem State.barrierTimeout_keeps {q : List Instr} {n : Nat} {o : List Output} {s0 : State} (r : CmdRef) (h : Keeps q n o s0) :
    Keeps q n o (State.barrierTimeout s0 r) := by
  unfold State.barrierTimeout
  try dsimp only
  repeat' first
    | with_reducible assumption
    | with_reducible apply State.endBar_keeps
    | with_reducible apply State.putHold_keeps
    | with_reducible apply State.rtGo_keeps
    | with_reducible apply State.rtSettle_keeps
    | with_reducible apply State.setBars_keeps
    | with_reducible apply State.setRtSt_keeps
    | split
    | dsimp only
    | intro _
    | exact id

theorem State.rtPoll_keeps {q : List Instr} {n : Nat} {o : List Output} {s : State} (h : Keeps q n o s) :
    Keeps q n o (State.rtPoll s) := by
  unfold State.rtPoll
  try dsimp only
  repeat' first
    | with_reducible assumption
    | with_reducible apply State.forAll_keeps
    | with_reducible apply State.rtSettle_keeps
    | with_reducible apply State.rtTry_keeps
    | split
    | dsimp only
    | intro _
    | exact id

theorem execRtEnable_keeps {q : List Instr} {n : Nat} {o : List Output} (bay : BayId) (model : BitVec 2) {s : State} (h : Keeps q n o s) :
    ∃ t, execRtEnable bay model s = .next t ∧ Keeps q n o t := by
  refine ⟨_, rfl, ?_⟩
  try dsimp only
  repeat' first
    | with_reducible assumption
    | with_reducible apply State.rtEnable_keeps
    | split
    | dsimp only
    | intro _
    | exact id

theorem execRtDisable_keeps {q : List Instr} {n : Nat} {o : List Output} (bay : BayId) (model : BitVec 2) {s : State} (h : Keeps q n o s) :
    ∃ t, execRtDisable bay model s = .next t ∧ Keeps q n o t := by
  refine ⟨_, rfl, ?_⟩
  try dsimp only
  repeat' first
    | with_reducible assumption
    | with_reducible apply State.rtDisable_keeps
    | split
    | dsimp only
    | intro _
    | exact id

theorem execRtStageMemory_keeps {q : List Instr} {n : Nat} {o : List Output} (c : CmdRef) (m : Medium) {s : State} (h : Keeps q n o s) :
    ∃ t, execRtStageMemory c m s = .next t ∧ Keeps q n o t := by
  refine ⟨_, rfl, ?_⟩
  try dsimp only
  repeat' first
    | with_reducible assumption
    | with_reducible apply State.perform_keeps
    | with_reducible apply State.rtStage_keeps
    | with_reducible apply State.running_keeps
    | with_reducible apply State.stageMore_keeps
    | split
    | dsimp only
    | intro _
    | exact id

theorem execRtStageFabric_keeps {q : List Instr} {n : Nat} {o : List Output} (c : CmdRef) (m : Medium) {s : State} (h : Keeps q n o s) :
    ∃ t, execRtStageFabric c m s = .next t ∧ Keeps q n o t := by
  refine ⟨_, rfl, ?_⟩
  try dsimp only
  repeat' first
    | with_reducible assumption
    | with_reducible apply State.perform_keeps
    | with_reducible apply State.rtStage_keeps
    | split
    | dsimp only
    | intro _
    | exact id

theorem execStagingLanding_keeps {q : List Instr} {n : Nat} {o : List Output} (bay : BayId) (va : W64) (bytes : List Byte) {s : State} (h : Keeps q n o s) :
    ∃ t, execStagingLanding bay va bytes s = .next t ∧ Keeps q n o t := by
  refine ⟨_, rfl, ?_⟩
  try dsimp only
  repeat' first
    | with_reducible assumption
    | with_reducible apply State.stagingLanding_keeps
    | split
    | dsimp only
    | intro _
    | exact id

theorem execStageTimeout_keeps {q : List Instr} {n : Nat} {o : List Output} (c : CmdRef) {s : State} (h : Keeps q n o s) :
    ∃ t, execStageTimeout c s = .next t ∧ Keeps q n o t := by
  refine ⟨_, rfl, ?_⟩
  try dsimp only
  repeat' first
    | with_reducible assumption
    | with_reducible apply State.stageTimeout_keeps
    | split
    | dsimp only
    | intro _
    | exact id

theorem execRtVerifyCheckActive_keeps {q : List Instr} {n : Nat} {o : List Output} (c : CmdRef) (differs : List (BitVec 14)) {s : State} (h : Keeps q n o s) :
    ∃ t, execRtVerifyCheckActive c differs s = .next t ∧ Keeps q n o t := by
  refine ⟨_, rfl, ?_⟩
  try dsimp only
  repeat' first
    | with_reducible assumption
    | with_reducible apply State.perform_keeps
    | with_reducible apply State.verifyCheck_keeps
    | split
    | dsimp only
    | intro _
    | exact id

theorem execRtVerifyCheckStaged_keeps {q : List Instr} {n : Nat} {o : List Output} (c : CmdRef) (differs : List (BitVec 14)) {s : State} (h : Keeps q n o s) :
    ∃ t, execRtVerifyCheckStaged c differs s = .next t ∧ Keeps q n o t := by
  refine ⟨_, rfl, ?_⟩
  try dsimp only
  repeat' first
    | with_reducible assumption
    | with_reducible apply State.perform_keeps
    | with_reducible apply State.verifyCheck_keeps
    | split
    | dsimp only
    | intro _
    | exact id

theorem execRtVerifyPublish_keeps {q : List Instr} {n : Nat} {o : List Output} (c : CmdRef) (m : Medium) {s : State} (h : Keeps q n o s) :
    ∃ t, execRtVerifyPublish c m s = .next t ∧ Keeps q n o t := by
  refine ⟨_, rfl, ?_⟩
  try dsimp only
  repeat' first
    | with_reducible assumption
    | with_reducible apply State.perform_keeps
    | with_reducible apply State.verifyPublish_keeps
    | split
    | dsimp only
    | intro _
    | exact id

theorem execRtArmStrict_keeps {q : List Instr} {n : Nat} {o : List Output} (c : CmdRef) {s : State} (h : Keeps q n o s) :
    ∃ t, execRtArmStrict c s = .next t ∧ Keeps q n o t := by
  refine ⟨_, rfl, ?_⟩
  try dsimp only
  repeat' first
    | with_reducible assumption
    | with_reducible apply State.perform_keeps
    | with_reducible apply State.rtArm_keeps
    | split
    | dsimp only
    | intro _
    | exact id

theorem execRtArmRolling_keeps {q : List Instr} {n : Nat} {o : List Output} (c : CmdRef) {s : State} (h : Keeps q n o s) :
    ∃ t, execRtArmRolling c s = .next t ∧ Keeps q n o t := by
  refine ⟨_, rfl, ?_⟩
  try dsimp only
  repeat' first
    | with_reducible assumption
    | with_reducible apply State.perform_keeps
    | with_reducible apply State.rtArm_keeps
    | split
    | dsimp only
    | intro _
    | exact id

theorem execRtAbort_keeps {q : List Instr} {n : Nat} {o : List Output} (c : CmdRef) {s : State} (h : Keeps q n o s) :
    ∃ t, execRtAbort c s = .next t ∧ Keeps q n o t := by
  refine ⟨_, rfl, ?_⟩
  try dsimp only
  repeat' first
    | with_reducible assumption
    | with_reducible apply State.perform_keeps
    | with_reducible apply State.rtAbort_keeps
    | split
    | dsimp only
    | intro _
    | exact id

theorem execRtAbortAdapter_keeps {q : List Instr} {n : Nat} {o : List Output} (c : CmdRef) {s : State} (h : Keeps q n o s) :
    ∃ t, execRtAbortAdapter c s = .next t ∧ Keeps q n o t := by
  refine ⟨_, rfl, ?_⟩
  try dsimp only
  repeat' first
    | with_reducible assumption
    | with_reducible apply State.perform_keeps
    | with_reducible apply State.rtAbortAdapter_keeps
    | split
    | dsimp only
    | intro _
    | exact id

theorem execRtAdapter_keeps {q : List Instr} {n : Nat} {o : List Output} (c : CmdRef) (m : Medium) {s : State} (h : Keeps q n o s) :
    ∃ t, execRtAdapter c m s = .next t ∧ Keeps q n o t := by
  refine ⟨_, rfl, ?_⟩
  try dsimp only
  repeat' first
    | with_reducible assumption
    | with_reducible apply State.perform_keeps
    | with_reducible apply State.rtAdapter_keeps
    | with_reducible apply State.running_keeps
    | with_reducible apply State.stageMore_keeps
    | split
    | dsimp only
    | intro _
    | exact id

theorem execBarrierTimeout_keeps {q : List Instr} {n : Nat} {o : List Output} (c : CmdRef) {s : State} (h : Keeps q n o s) :
    ∃ t, execBarrierTimeout c s = .next t ∧ Keeps q n o t := by
  refine ⟨_, rfl, ?_⟩
  try dsimp only
  repeat' first
    | with_reducible assumption
    | with_reducible apply State.barrierTimeout_keeps
    | split
    | dsimp only
    | intro _
    | exact id

theorem execRecheckPass_keeps {q : List Instr} {n : Nat} {o : List Output} (bay : BayId) (model : BitVec 2) (active staged : List (BitVec 14)) {s : State} (h : Keeps q n o s) :
    ∃ t, execRecheckPass bay model active staged s = .next t ∧ Keeps q n o t := by
  refine ⟨_, rfl, ?_⟩
  try dsimp only
  repeat' first
    | with_reducible assumption
    | with_reducible apply State.recheckPass_keeps
    | split
    | dsimp only
    | intro _
    | exact id

end Sys2Proof.Machine
end

