-- ==== Sys2Proof/Laws/KeepsScrub.lean ====
section
/-! SUPPORT. What each operation of Machine/Scrub.lean keeps (Laws/Keeps.lean). -/

namespace Sys2Proof.Machine

theorem State.extestGo_keeps {q : List Instr} {n : Nat} {o : List Output} {s : State} (h : Keeps q n o s) :
    Keeps q n o (State.extestGo s) := by
  unfold State.extestGo
  try dsimp only
  repeat' first
    | with_reducible assumption
    | split
    | with_reducible apply Keeps.withPins
    | dsimp only
    | intro _
    | exact id

theorem State.scrubEnd_keeps {q : List Instr} {n : Nat} {o : List Output} {s : State} (h : Keeps q n o s) :
    Keeps q n o (State.scrubEnd s) := by
  unfold State.scrubEnd
  try dsimp only
  repeat' first
    | with_reducible assumption
    | with_reducible apply State.eraseGroups_keeps
    | with_reducible apply State.extestGo_keeps
    | with_reducible apply State.forAll_keeps
    | with_reducible apply State.freeBay_keeps
    | with_reducible apply State.onSec_keeps
    | with_reducible apply State.setBayX_keeps
    | with_reducible apply State.setFld_keeps
    | with_reducible apply State.setReg_keeps
    | split
    | dsimp only
    | intro _
    | exact id

theorem State.scrubBay_keeps {q : List Instr} {n : Nat} {o : List Output} {s : State} (b : Nat) (h : Keeps q n o s) :
    Keeps q n o (State.scrubBay s b) := by
  unfold State.scrubBay
  try dsimp only
  repeat' first
    | with_reducible assumption
    | with_reducible apply Engine.zero_keeps
    | with_reducible apply State.setBayKeys_keeps
    | with_reducible apply State.setBayX_keeps
    | with_reducible apply State.setFld_keeps
    | with_reducible apply State.teardown_keeps
    | with_reducible apply State.torn_keeps
    | split
    | dsimp only
    | intro _
    | exact id

theorem State.scrubStart_keeps {q : List Instr} {n : Nat} {o : List Output} {s : State} (cause : Nat) (h : Keeps q n o s) :
    Keeps q n o (State.scrubStart s cause) := by
  unfold State.scrubStart
  try dsimp only
  repeat' first
    | with_reducible assumption
    | with_reducible apply State.clearStart_keeps
    | with_reducible apply State.forAll_keeps
    | with_reducible apply State.onSec_keeps
    | with_reducible apply State.scrubBay_keeps
    | with_reducible apply State.scrubEnd_keeps
    | with_reducible apply State.setClock_keeps
    | with_reducible apply State.setReg_keeps
    | split
    | dsimp only
    | intro _
    | exact id

theorem State.scrubDieDone_keeps {q : List Instr} {n : Nat} {o : List Output} {s : State} (d : Nat) (failed : Bool) (h : Keeps q n o s) :
    Keeps q n o (State.scrubDieDone s d failed) := by
  unfold State.scrubDieDone
  try dsimp only
  repeat' first
    | with_reducible assumption
    | with_reducible apply State.onSec_keeps
    | with_reducible apply State.scrubEnd_keeps
    | split
    | dsimp only
    | intro _
    | exact id

theorem State.tamper_keeps {q : List Instr} {n : Nat} {o : List Output} {s : State} (kind : Nat) (h : Keeps q n o s) :
    Keeps q n o (State.tamper s kind) := by
  unfold State.tamper
  try dsimp only
  repeat' first
    | with_reducible assumption
    | with_reducible apply State.count_keeps
    | with_reducible apply State.pldmEvent_keeps
    | with_reducible apply State.scrubStart_keeps
    | with_reducible apply State.setFld_keeps
    | split
    | dsimp only
    | intro _
    | exact id

theorem State.scrubCommand_keeps {q : List Instr} {n : Nat} {o : List Output} {s : State} (h : Keeps q n o s) :
    Keeps q n o (State.scrubCommand s) := by
  unfold State.scrubCommand
  try dsimp only
  repeat' first
    | with_reducible assumption
    | with_reducible apply State.scrubStart_keeps
    | split
    | dsimp only
    | intro _
    | exact id

theorem execClearDone_keeps {q : List Instr} {n : Nat} {o : List Output} (die : CDie) (mismatch : Bool) (failing : List PhysEng) {s : State} (h : Keeps q n o s) :
    ∃ t, execClearDone die mismatch failing s = .next t ∧ Keeps q n o t := by
  refine ⟨_, rfl, ?_⟩
  try dsimp only
  repeat' first
    | with_reducible assumption
    | with_reducible apply State.clearDone_keeps
    | with_reducible apply State.scrubDieDone_keeps
    | with_reducible apply State.scrubDie_keeps
    | split
    | dsimp only
    | intro _
    | exact id

theorem execTamperDetect_keeps {q : List Instr} {n : Nat} {o : List Output} (kind : Fin 3) {s : State} (h : Keeps q n o s) :
    ∃ t, execTamperDetect kind s = .next t ∧ Keeps q n o t := by
  refine ⟨_, rfl, ?_⟩
  try dsimp only
  repeat' first
    | with_reducible assumption
    | with_reducible apply State.tamper_keeps
    | split
    | dsimp only
    | intro _
    | exact id

theorem execDscrubStart_keeps {q : List Instr} {n : Nat} {o : List Output} {s : State} (h : Keeps q n o s) :
    ∃ t, execDscrubStart s = .next t ∧ Keeps q n o t := by
  refine ⟨_, rfl, ?_⟩
  try dsimp only
  repeat' first
    | with_reducible assumption
    | with_reducible apply State.scrubCommand_keeps
    | split
    | dsimp only
    | intro _
    | exact id

theorem execScanExtest_keeps {q : List Instr} {n : Nat} {o : List Output} {s : State} (h : Keeps q n o s) :
    ∃ t, execScanExtest s = .next t ∧ Keeps q n o t := by
  refine ⟨_, rfl, ?_⟩
  try dsimp only
  repeat' first
    | with_reducible assumption
    | with_reducible apply State.scrubStart_keeps
    | split
    | with_reducible apply Keeps.withPins
    | dsimp only
    | intro _
    | exact id

end Sys2Proof.Machine
end

