-- ==== Sys2Proof/Laws/KeepsSecurity.lean ====
section
/-! SUPPORT. What each operation of Machine/Security.lean keeps (Laws/Keeps.lean). -/

namespace Sys2Proof.Machine

theorem State.setDigest_keeps {q : List Instr} {n : Nat} {o : List Output} {s : State} (a : Nat → Nat) (bs : List Nat) (h : Keeps q n o s) :
    Keeps q n o (State.setDigest s a bs) := by
  unfold State.setDigest
  try dsimp only
  repeat' first
    | with_reducible assumption
    | with_reducible apply State.forAll_keeps
    | with_reducible apply State.setReg_keeps
    | split
    | dsimp only
    | intro _
    | exact id

theorem State.aliasSign_keeps {q : List Instr} {n : Nat} {o : List Output} {s : State} (digest : List Nat) (h : Keeps q n o s) :
    Keeps q n o (State.aliasSign s digest).2 := by
  unfold State.aliasSign
  try dsimp only
  repeat' first
    | with_reducible assumption
    | with_reducible apply State.draw_keeps
    | split
    | dsimp only
    | intro _
    | exact id

theorem State.signedWords_keeps {q : List Instr} {n : Nat} {o : List Output} {s : State} (ws : List Nat) (h : Keeps q n o s) :
    Keeps q n o (State.signedWords s ws).2 := by
  unfold State.signedWords
  try dsimp only
  repeat' first
    | with_reducible assumption
    | with_reducible apply State.aliasSign_keeps
    | split
    | dsimp only
    | intro _
    | exact id

theorem State.attestOut_keeps {q : List Instr} {n : Nat} {o : List Output} {s : State} (c : Cmd) (ws : List Nat) (h : Keeps q n o s) :
    Keeps q n o (State.attestOut s c ws) := by
  unfold State.attestOut
  try dsimp only
  repeat' first
    | with_reducible assumption
    | with_reducible apply Engine.fail_keeps
    | with_reducible apply State.endsWith_keeps
    | with_reducible apply State.finish_keeps
    | with_reducible apply State.hostWrite_keeps
    | with_reducible apply State.vaWrite_keeps
    | split
    | dsimp only
    | intro _
    | exact id

theorem State.attestReport_keeps {q : List Instr} {n : Nat} {o : List Output} (c : Cmd) {s : State} (h : Keeps q n o s) :
    Keeps q n o (State.attestReport c s) := by
  unfold State.attestReport
  try dsimp only
  repeat' first
    | with_reducible assumption
    | with_reducible apply State.attestOut_keeps
    | with_reducible apply State.signedWords_keeps
    | split
    | dsimp only
    | intro _
    | exact id

theorem State.sealNonce_keeps {q : List Instr} {n : Nat} {o : List Output} (c : Cmd) {s : State} (h : Keeps q n o s) :
    Keeps q n o (State.sealNonce c s) := by
  unfold State.sealNonce
  try dsimp only
  repeat' first
    | with_reducible assumption
    | with_reducible apply State.attestOut_keeps
    | with_reducible apply State.draw_keeps
    | with_reducible apply State.endsWith_keeps
    | with_reducible apply State.setBayKeys_keeps
    | with_reducible apply State.setFld_keeps
    | with_reducible apply State.signedWords_keeps
    | with_reducible apply State.wrongState_keeps
    | split
    | dsimp only
    | intro _
    | exact id

theorem State.giveSlots_keeps {q : List Instr} {n' : Nat} {o : List Output} {s : State} (job n : Nat) (h : Keeps q n' o s) :
    Keeps q n' o (State.giveSlots s job n) := by
  unfold State.giveSlots
  try dsimp only
  repeat' first
    | with_reducible assumption
    | with_reducible apply State.forAll_keeps
    | with_reducible apply State.setReg_keeps
    | split
    | dsimp only
    | intro _
    | exact id

theorem State.giveTurns_keeps {q : List Instr} {n : Nat} {o : List Output} {s : State} (b : Nat) (h : Keeps q n o s) :
    Keeps q n o (State.giveTurns s b) := by
  unfold State.giveTurns
  try dsimp only
  repeat' first
    | with_reducible assumption
    | with_reducible apply State.setReg_keeps
    | with_reducible apply foldl_state
    | with_reducible apply foldl_fst_state
    | with_reducible apply mwf_foldl
    | split
    | dsimp only
    | intro _
    | exact id

theorem State.sealed_keeps {q : List Instr} {n : Nat} {o : List Output} {s : State} (c : Cmd) (jmk : List Nat) (h : Keeps q n o s) :
    Keeps q n o (State.sealed s c jmk) := by
  unfold State.sealed
  try dsimp only
  repeat' first
    | with_reducible assumption
    | with_reducible apply State.endsWith_keeps
    | with_reducible apply State.forAll_keeps
    | with_reducible apply State.giveSlots_keeps
    | with_reducible apply State.giveTurns_keeps
    | with_reducible apply State.setBayKeys_keeps
    | with_reducible apply State.setFld_keeps
    | with_reducible apply State.setReg_keeps
    | split
    | dsimp only
    | intro _
    | exact id

theorem State.baySeal_keeps {q : List Instr} {n : Nat} {o : List Output} (c : Cmd) {s : State} (h : Keeps q n o s) :
    Keeps q n o (State.baySeal c s) := by
  unfold State.baySeal
  try dsimp only
  repeat' first
    | with_reducible assumption
    | with_reducible apply State.endsWith_keeps
    | with_reducible apply State.finish_keeps
    | with_reducible apply State.lapseNonce_keeps
    | with_reducible apply State.sealed_keeps
    | with_reducible apply State.wrongState_keeps
    | split
    | dsimp only
    | intro _
    | exact id

theorem State.tenantOp_keeps {q : List Instr} {n : Nat} {o : List Output} {s : State} (c : Cmd) (op : Nat) (f : State → State) (h : Keeps q n o s) (hf : ∀ a_, Keeps q n o a_ → Keeps q n o (f a_)) :
    Keeps q n o (State.tenantOp s c op f) := by
  unfold State.tenantOp
  try dsimp only
  repeat' first
    | with_reducible assumption
    | apply hf
    | with_reducible apply State.finish_keeps
    | with_reducible apply State.setReg_keeps
    | split
    | dsimp only
    | intro _
    | exact id

theorem State.addPubkey_keeps {q : List Instr} {n : Nat} {o : List Output} (c : Cmd) {s : State} (h : Keeps q n o s) :
    Keeps q n o (State.addPubkey c s) := by
  unfold State.addPubkey
  try dsimp only
  repeat' first
    | with_reducible assumption
    | with_reducible apply State.endsWith_keeps
    | with_reducible apply State.setBayKeys_keeps
    | with_reducible apply State.setFld_keeps
    | with_reducible apply State.tenantOp_keeps
    | split
    | dsimp only
    | intro _
    | exact id

theorem State.withdraw413_keeps {q : List Instr} {n : Nat} {o : List Output} {s : State} (b lost : Nat) (h : Keeps q n o s) :
    Keeps q n o (State.withdraw413 s b lost) := by
  unfold State.withdraw413
  try dsimp only
  repeat' first
    | with_reducible assumption
    | with_reducible apply State.forAll_keeps
    | with_reducible apply State.setFld_keeps
    | split
    | with_reducible apply Keeps.withPins
    | dsimp only
    | intro _
    | exact id

theorem State.setConsent_keeps {q : List Instr} {n : Nat} {o : List Output} (c : Cmd) {s : State} (h : Keeps q n o s) :
    Keeps q n o (State.setConsent c s) := by
  unfold State.setConsent
  try dsimp only
  repeat' first
    | with_reducible assumption
    | with_reducible apply State.endsWith_keeps
    | with_reducible apply State.setReg_keeps
    | with_reducible apply State.tenantOp_keeps
    | with_reducible apply State.withdraw413_keeps
    | split
    | dsimp only
    | intro _
    | exact id

theorem State.rotateLink_keeps {q : List Instr} {n : Nat} {o : List Output} (c : Cmd) {s : State} (h : Keeps q n o s) :
    Keeps q n o (State.rotateLink c s) := by
  unfold State.rotateLink
  try dsimp only
  repeat' first
    | with_reducible assumption
    | with_reducible apply State.endsWith_keeps
    | with_reducible apply State.pruneWins_keeps
    | with_reducible apply State.setFld_keeps
    | with_reducible apply State.setReg_keeps
    | split
    | dsimp only
    | intro _
    | exact id

theorem State.trngFail_keeps {q : List Instr} {n : Nat} {o : List Output} {s : State} (h : Keeps q n o s) :
    Keeps q n o (State.trngFail s) := by
  unfold State.trngFail
  try dsimp only
  repeat' first
    | with_reducible assumption
    | with_reducible apply State.count_keeps
    | with_reducible apply State.onSec_keeps
    | with_reducible apply State.setFld_keeps
    | split
    | dsimp only
    | intro _
    | exact id

theorem State.trngRetest_keeps {q : List Instr} {n : Nat} {o : List Output} {s : State} (pass : Bool) (h : Keeps q n o s) :
    Keeps q n o (State.trngRetest s pass) := by
  unfold State.trngRetest
  try dsimp only
  repeat' first
    | with_reducible assumption
    | with_reducible apply State.count_keeps
    | with_reducible apply State.onSec_keeps
    | with_reducible apply State.setFld_keeps
    | split
    | dsimp only
    | intro _
    | exact id

theorem execBaySeal_keeps {q : List Instr} {n : Nat} {o : List Output} (c : CmdRef) {s : State} (h : Keeps q n o s) :
    ∃ t, execBaySeal c s = .next t ∧ Keeps q n o t := by
  refine ⟨_, rfl, ?_⟩
  try dsimp only
  repeat' first
    | with_reducible assumption
    | with_reducible apply State.baySeal_keeps
    | with_reducible apply State.perform_keeps
    | split
    | dsimp only
    | intro _
    | exact id

theorem execAttestReport_keeps {q : List Instr} {n : Nat} {o : List Output} (c : CmdRef) {s : State} (h : Keeps q n o s) :
    ∃ t, execAttestReport c s = .next t ∧ Keeps q n o t := by
  refine ⟨_, rfl, ?_⟩
  try dsimp only
  repeat' first
    | with_reducible assumption
    | with_reducible apply State.attestReport_keeps
    | with_reducible apply State.perform_keeps
    | split
    | dsimp only
    | intro _
    | exact id

theorem execAttestSealNonce_keeps {q : List Instr} {n : Nat} {o : List Output} (c : CmdRef) {s : State} (h : Keeps q n o s) :
    ∃ t, execAttestSealNonce c s = .next t ∧ Keeps q n o t := by
  refine ⟨_, rfl, ?_⟩
  try dsimp only
  repeat' first
    | with_reducible assumption
    | with_reducible apply State.perform_keeps
    | with_reducible apply State.sealNonce_keeps
    | split
    | dsimp only
    | intro _
    | exact id

theorem execAttestAddPubkey_keeps {q : List Instr} {n : Nat} {o : List Output} (c : CmdRef) {s : State} (h : Keeps q n o s) :
    ∃ t, execAttestAddPubkey c s = .next t ∧ Keeps q n o t := by
  refine ⟨_, rfl, ?_⟩
  try dsimp only
  repeat' first
    | with_reducible assumption
    | with_reducible apply State.addPubkey_keeps
    | with_reducible apply State.perform_keeps
    | split
    | dsimp only
    | intro _
    | exact id

theorem execAttestSetConsent_keeps {q : List Instr} {n : Nat} {o : List Output} (c : CmdRef) {s : State} (h : Keeps q n o s) :
    ∃ t, execAttestSetConsent c s = .next t ∧ Keeps q n o t := by
  refine ⟨_, rfl, ?_⟩
  try dsimp only
  repeat' first
    | with_reducible assumption
    | with_reducible apply State.perform_keeps
    | with_reducible apply State.setConsent_keeps
    | split
    | dsimp only
    | intro _
    | exact id

theorem execAttestRotateLink_keeps {q : List Instr} {n : Nat} {o : List Output} (c : CmdRef) {s : State} (h : Keeps q n o s) :
    ∃ t, execAttestRotateLink c s = .next t ∧ Keeps q n o t := by
  refine ⟨_, rfl, ?_⟩
  try dsimp only
  repeat' first
    | with_reducible assumption
    | with_reducible apply State.perform_keeps
    | with_reducible apply State.rotateLink_keeps
    | split
    | dsimp only
    | intro _
    | exact id

theorem execTrngHealthFail_keeps {q : List Instr} {n : Nat} {o : List Output} {s : State} (h : Keeps q n o s) :
    ∃ t, execTrngHealthFail s = .next t ∧ Keeps q n o t := by
  refine ⟨_, rfl, ?_⟩
  try dsimp only
  repeat' first
    | with_reducible assumption
    | with_reducible apply State.trngFail_keeps
    | split
    | dsimp only
    | intro _
    | exact id

theorem execTrngRetest_keeps {q : List Instr} {n : Nat} {o : List Output} (pass : Bool) {s : State} (h : Keeps q n o s) :
    ∃ t, execTrngRetest pass s = .next t ∧ Keeps q n o t := by
  refine ⟨_, rfl, ?_⟩
  try dsimp only
  repeat' first
    | with_reducible assumption
    | with_reducible apply State.trngRetest_keeps
    | split
    | dsimp only
    | intro _
    | exact id

theorem execScanDebugInstruction_keeps {q : List Instr} {n : Nat} {o : List Output} (die : DieId) {s : State} (h : Keeps q n o s) :
    ∃ t, execScanDebugInstruction die s = .next t ∧ Keeps q n o t := by
  refine ⟨_, rfl, ?_⟩
  try dsimp only
  repeat' first
    | with_reducible assumption
    | split
    | with_reducible apply Keeps.withPins
    | dsimp only
    | intro _
    | exact id

end Sys2Proof.Machine
end

