-- ==== Sys2Proof/Laws/KeepsCkpt.lean ====
section
/-! SUPPORT. What each operation of Machine/Ckpt.lean keeps (Laws/Keeps.lean). -/

namespace Sys2Proof.Machine

theorem State.takeEnds_keeps {q : List Instr} {n : Nat} {o : List Output} {s : State} (c : Cmd) (st d0 d1 : Nat) (h : Keeps q n o s) :
    Keeps q n o (State.takeEnds s c st d0 d1) := by
  unfold State.takeEnds
  try dsimp only
  repeat' first
    | with_reducible assumption
    | with_reducible apply State.ckptEnd_keeps
    | with_reducible apply State.finish_keeps
    | split
    | dsimp only
    | intro _
    | exact id

theorem State.dropRun_keeps {q : List Instr} {n : Nat} {o : List Output} {s : State} (c : Cmd) (h : Keeps q n o s) :
    Keeps q n o (State.dropRun s c) := by
  unfold State.dropRun
  try dsimp only
  repeat' first
    | with_reducible assumption
    | with_reducible apply State.forAll_keeps
    | with_reducible apply State.giveSlab_keeps
    | with_reducible refine State.onFlt_keeps ?_ (fun ⟨m0, m1, m2, m3, m4, m5, m6, m7⟩ => ⟨?_, ?_, ?_, ?_, ?_, ?_, ?_, ?_⟩)
    | with_reducible apply State.setUsed_keeps
    | split
    | dsimp only
    | intro _
    | exact id

theorem State.snapSlab_keeps {q : List Instr} {n : Nat} {o : List Output} {s : State} (b : Nat) (bs : List PByte) (h : Keeps q n o s) :
    Keeps q n o (State.snapSlab s b bs).1 := by
  unfold State.snapSlab
  try dsimp only
  repeat' first
    | with_reducible assumption
    | with_reducible apply State.forAll_keeps
    | with_reducible apply State.hbmPut_keeps
    | with_reducible apply State.moved_keeps
    | with_reducible apply State.takeSlab_keeps
    | with_reducible apply State.zeroSlab_keeps
    | split
    | dsimp only
    | intro _
    | exact id

theorem State.snapObj_keeps {q' : List Instr} {n : Nat} {o' : List Output} (c : Cmd) (m : Medium) (q : State × List Nat × List (List Nat) × Acc) (o : Nat × Nat × Nat) (hq : Keeps q' n o' q.1) :
    Keeps q' n o' (State.snapObj c m q o).1 := by
  unfold State.snapObj
  try dsimp only
  repeat' first
    | with_reducible assumption
    | with_reducible apply State.count64_keeps
    | with_reducible apply State.snapSlab_keeps
    | with_reducible apply State.vaReadM_keeps
    | with_reducible apply foldl_state
    | with_reducible apply foldl_fst_state
    | with_reducible apply mwf_foldl
    | split
    | dsimp only
    | intro _
    | exact id

theorem State.snapshot_keeps {q : List Instr} {n : Nat} {o : List Output} {s : State} (c : Cmd) (m : Medium) (objs : List (Nat × Nat × Nat)) (h : Keeps q n o s) :
    Keeps q n o (State.snapshot s c m objs) := by
  unfold State.snapshot
  try dsimp only
  repeat' first
    | with_reducible assumption
    | with_reducible apply Engine.fail_keeps
    | with_reducible apply State.dropRun_keeps
    | with_reducible apply State.evtMax_keeps
    | with_reducible refine State.onFlt_keeps ?_ (fun ⟨m0, m1, m2, m3, m4, m5, m6, m7⟩ => ⟨?_, ?_, ?_, ?_, ?_, ?_, ?_, ?_⟩)
    | with_reducible apply State.setCmd_keeps
    | with_reducible apply State.setUsed_keeps
    | with_reducible apply State.snapObj_keeps
    | with_reducible apply State.takeEnds_keeps
    | with_reducible apply foldl_state
    | with_reducible apply foldl_fst_state
    | with_reducible apply mwf_foldl
    | split
    | dsimp only
    | intro _
    | exact id

theorem State.ckptTake_keeps {q : List Instr} {n : Nat} {o : List Output} (c : Cmd) (m : Medium) {s : State} (h : Keeps q n o s) :
    Keeps q n o (State.ckptTake c m s) := by
  unfold State.ckptTake
  try dsimp only
  repeat' first
    | with_reducible assumption
    | with_reducible apply Engine.fail_keeps
    | (refine State.admit_keeps _ _ _ ?_ _ (.inl ⟨_, ‹_ = Admitted.served _ _›⟩))
    | (refine State.admit_keeps _ _ _ ?_ _ (.inr (.inl ‹_ = Admitted.waits _›)))
    | (refine State.admit_keeps _ _ _ ?_ _ (.inr (.inr ‹_ = Admitted.refused _›)))
    | with_reducible apply State.ckptEnd_keeps
    | with_reducible apply State.snapshot_keeps
    | with_reducible apply State.takeEnds_keeps
    | with_reducible apply State.vaReadM_keeps
    | split
    | dsimp only
    | intro _
    | exact id

theorem State.putManifest_keeps {q : List Instr} {n : Nat} {o : List Output} {s : State} (c : Cmd) (bs : List PByte) (h : Keeps q n o s) :
    Keeps q n o (State.putManifest s c bs) := by
  unfold State.putManifest
  extract_lets b x
  have hx : Keeps q n o x.1 := State.vaWrite_keeps _ _ _ _ _ h
  split
  · exact hx
  · exact State.takeEnds_keeps _ _ _ _ (State.dropRun_keeps _ hx)
  · exact State.takeEnds_keeps _ _ _ _ (State.setReg_keeps (State.dropRun_keeps _ hx) _ _)

theorem State.writeManifest_keeps {q : List Instr} {n : Nat} {o : List Output} {s : State} (c : Cmd) (r : CkptRun) (d : Nat) (h : Keeps q n o s) :
    Keeps q n o (State.writeManifest s c r d) := by
  unfold State.writeManifest
  exact State.putManifest_keeps _ _ (State.draw_keeps h)

theorem State.ckptWrite_keeps {q : List Instr} {n : Nat} {o : List Output} (c : Cmd) {s : State} (h : Keeps q n o s) :
    Keeps q n o (State.ckptWrite c s) := by
  unfold State.ckptWrite
  extract_lets b
  split
  · extract_lets w
    have hw : Keeps q n o w.1 := foldl_fst_state h fun _ _ hy => State.vaWrite_keeps _ _ _ _ _ hy
    split
    · exact hw
    · exact State.takeEnds_keeps _ _ _ _ (State.dropRun_keeps _ hw)
    · exact State.writeManifest_keeps _ _ _ hw
  · exact State.takeEnds_keeps _ _ _ _ (State.dropRun_keeps _ h)

theorem State.restoreInto_keeps {q : List Instr} {n' : Nat} {o : List Output} {s : State} (c : Cmd) (k : Nat) (e : CkptEntry) (bs : List PByte) (h : Keeps q n' o s) :
    Keeps q n' o (State.restoreInto s c k e bs) := by
  unfold State.restoreInto
  extract_lets b w
  have hw : Keeps q n' o w.1 := State.vaWrite_keeps _ _ _ _ _ h
  split
  · exact hw
  · exact State.finish_keeps _ _ _ _ hw
  · split
    · exact State.finish_keeps _ _ _ _ hw
    · exact State.setCmd_keeps _ hw

theorem State.restoreNext_keeps {q : List Instr} {n' : Nat} {o : List Output} {s : State} (c : Cmd) (m : Medium) (n : Nat) (bs : List Nat) (h : Keeps q n' o s) :
    Keeps q n' o (State.restoreNext s c m n bs) := by
  unfold State.restoreNext
  extract_lets b es
  split
  · exact State.endsWith_keeps _ _ h
  · extract_lets e r
    have hr : Keeps q n' o r.1 := State.vaReadM_keeps _ _ _ _ _ h
    split
    · exact hr
    · exact State.finish_keeps _ _ _ _ hr
    · exact State.restoreInto_keeps _ _ _ _ hr

theorem State.restoreFrom_keeps {q : List Instr} {n' : Nat} {o : List Output} {s : State} (c : Cmd) (m : Medium) (n len : Nat) (h : Keeps q n' o s) :
    Keeps q n' o (State.restoreFrom s c m n len) := by
  unfold State.restoreFrom
  extract_lets b r
  have hr : Keeps q n' o r.1 := State.vaReadM_keeps _ _ _ _ _ h
  split
  · exact hr
  · exact State.finish_keeps _ _ _ _ hr
  · split
    · exact State.endsWith_keeps _ _ hr
    · exact State.restoreNext_keeps _ _ _ _ hr

theorem State.restoreHead_keeps {q : List Instr} {n : Nat} {o : List Output} {s : State} (c : Cmd) (m : Medium) (len : Nat) (h : Keeps q n o s) :
    Keeps q n o (State.restoreHead s c m len) := by
  unfold State.restoreHead
  extract_lets b r
  have hr : Keeps q n o r.1 := State.vaReadKeep_keeps _ _ _ _ _ h
  split
  · exact hr
  · exact State.finish_keeps _ _ _ _ (State.t3Done_keeps _ hr)
  · exact State.restoreFrom_keeps _ _ _ _ hr

theorem State.ckptRestore_keeps {q : List Instr} {n : Nat} {o : List Output} (c : Cmd) (m : Medium) {s : State} (h : Keeps q n o s) :
    Keeps q n o (State.ckptRestore c m s) := by
  unfold State.ckptRestore
  split
  · exact h
  · exact State.restoreHead_keeps _ _ _ h

theorem State.ckptSched_keeps {q : List Instr} {n : Nat} {o : List Output} (c : Cmd) {s : State} (h : Keeps q n o s) :
    Keeps q n o (State.ckptSched c s) := by
  unfold State.ckptSched
  try dsimp only
  repeat' first
    | with_reducible assumption
    | with_reducible apply State.endsWith_keeps
    | with_reducible apply State.setCkpt_keeps
    | with_reducible apply State.setFld_keeps
    | split
    | dsimp only
    | intro _
    | exact id

theorem execCkptTake_keeps {q : List Instr} {n : Nat} {o : List Output} (c : CmdRef) (m : Medium) {s : State} (h : Keeps q n o s) :
    ∃ t, execCkptTake c m s = .next t ∧ Keeps q n o t := by
  refine ⟨_, rfl, ?_⟩
  try dsimp only
  repeat' first
    | with_reducible assumption
    | with_reducible apply State.ckptTake_keeps
    | with_reducible apply State.ckptWrite_keeps
    | with_reducible apply State.perform_keeps
    | with_reducible apply State.running_keeps
    | split
    | dsimp only
    | intro _
    | exact id

theorem execCkptRestore_keeps {q : List Instr} {n : Nat} {o : List Output} (c : CmdRef) (m : Medium) {s : State} (h : Keeps q n o s) :
    ∃ t, execCkptRestore c m s = .next t ∧ Keeps q n o t := by
  refine ⟨_, rfl, ?_⟩
  try dsimp only
  repeat' first
    | with_reducible assumption
    | with_reducible apply State.ckptRestore_keeps
    | with_reducible apply State.perform_keeps
    | with_reducible apply State.running_keeps
    | split
    | dsimp only
    | intro _
    | exact id

theorem execCkptSched_keeps {q : List Instr} {n : Nat} {o : List Output} (c : CmdRef) {s : State} (h : Keeps q n o s) :
    ∃ t, execCkptSched c s = .next t ∧ Keeps q n o t := by
  refine ⟨_, rfl, ?_⟩
  try dsimp only
  repeat' first
    | with_reducible assumption
    | with_reducible apply State.ckptSched_keeps
    | with_reducible apply State.perform_keeps
    | split
    | dsimp only
    | intro _
    | exact id

end Sys2Proof.Machine
end

