-- ==== Sys2Proof/Laws/KeepsColl.lean ====
section
/-! SUPPORT. What each operation of Machine/Coll.lean keeps (Laws/Keeps.lean). -/

namespace Sys2Proof.Machine

theorem State.setColl_keeps {q : List Instr} {n : Nat} {o : List Output} {s : State} (c : Coll) (h : Keeps q n o s) :
    Keeps q n o (State.setColl s c) := by
  unfold State.setColl
  try dsimp only
  repeat' first
    | with_reducible assumption
    | with_reducible apply State.onFab_keeps
    | split
    | dsimp only
    | intro _
    | exact id

theorem State.countColls_keeps {q : List Instr} {n : Nat} {o : List Output} {s : State} (b : Nat) (h : Keeps q n o s) :
    Keeps q n o (State.countColls s b) := by
  unfold State.countColls
  try dsimp only
  repeat' first
    | with_reducible assumption
    | with_reducible apply State.setReg_keeps
    | with_reducible apply foldl_state
    | with_reducible apply foldl_fst_state
    | split
    | dsimp only
    | intro _
    | exact id

theorem State.collSend_keeps {q : List Instr} {n : Nat} {o : List Output} {s : State} (c : Coll) (owner : FabFor) (p : Nat × Nat) (kind : Nat) (gather : Bool) (chunk : Nat) (data : List Byte) (h : Keeps q n o s) :
    Keeps q n o (State.collSend s c owner p kind gather chunk data) := by
  unfold State.collSend
  try dsimp only
  repeat' first
    | with_reducible assumption
    | with_reducible apply State.remote_keeps
    | split
    | dsimp only
    | intro _
    | exact id

theorem State.sendReadies_keeps {q : List Instr} {n : Nat} {o : List Output} {s : State} (c : Coll) (h : Keeps q n o s) :
    Keeps q n o (State.sendReadies s c) := by
  unfold State.sendReadies
  try dsimp only
  repeat' first
    | with_reducible assumption
    | with_reducible apply State.collSend_keeps
    | with_reducible apply State.forAll_keeps
    | split
    | dsimp only
    | intro _
    | exact id

theorem State.collEnd_keeps {q : List Instr} {n : Nat} {o : List Output} {s : State} (c : Coll) (st d0 d1 : Nat) (h : Keeps q n o s) :
    Keeps q n o (State.collEnd s c st d0 d1) := by
  unfold State.collEnd
  try dsimp only
  repeat' first
    | with_reducible assumption
    | with_reducible apply State.countColls_keeps
    | with_reducible apply State.count_keeps
    | with_reducible apply State.finish_keeps
    | with_reducible apply State.freeArbiter_keeps
    | with_reducible apply State.onFab_keeps
    | with_reducible apply State.orphan_keeps
    | split
    | dsimp only
    | intro _
    | exact id

theorem State.collFail_keeps {q : List Instr} {n : Nat} {o : List Output} {s : State} (c : Coll) (st d0 d1 : Nat) (origin ostatus : Nat) (skip : Option (Nat × Nat)) (h : Keeps q n o s) :
    Keeps q n o (State.collFail s c st d0 d1 origin ostatus skip) := by
  unfold State.collFail
  try dsimp only
  repeat' first
    | with_reducible assumption
    | with_reducible apply State.collEnd_keeps
    | with_reducible apply State.collSend_keeps
    | with_reducible apply State.forAll_keeps
    | split
    | dsimp only
    | intro _
    | exact id

theorem State.collFails_keeps {q : List Instr} {n : Nat} {o : List Output} {s : State} (c : Coll) (st d0 d1 : Nat) (h : Keeps q n o s) :
    Keeps q n o (State.collFails s c st d0 d1) := by
  unfold State.collFails
  try dsimp only
  repeat' first
    | with_reducible assumption
    | with_reducible apply State.collFail_keeps
    | split
    | dsimp only
    | intro _
    | exact id

theorem State.collFlush_keeps {q : List Instr} {n : Nat} {o : List Output} {s : State} (c : Coll) (h : Keeps q n o s) :
    Keeps q n o (State.collFlush s c) := by
  unfold State.collFlush
  try dsimp only
  repeat' first
    | with_reducible assumption
    | with_reducible apply State.collSend_keeps
    | with_reducible apply State.count64_keeps
    | with_reducible apply State.forAll_keeps
    | with_reducible apply State.setColl_keeps
    | split
    | dsimp only
    | intro _
    | exact id

theorem State.collForm_keeps {q : List Instr} {n : Nat} {o : List Output} {s : State} (c : Coll) (i : Nat) (own : List PByte) (h : Keeps q n o s) :
    Keeps q n o (State.collForm s c i own) := by
  unfold State.collForm
  try dsimp only
  repeat' first
    | with_reducible assumption
    | with_reducible apply State.count64_keeps
    | with_reducible apply State.setColl_keeps
    | split
    | dsimp only
    | intro _
    | exact id

theorem State.collRead_keeps {q : List Instr} {n : Nat} {o : List Output} {s : State} (c : Coll) (m : Medium) (i : Nat) (h : Keeps q n o s) :
    Keeps q n o (State.collRead s c m i) := by
  unfold State.collRead
  try dsimp only
  repeat' first
    | with_reducible assumption
    | with_reducible apply Engine.fail_keeps
    | with_reducible apply State.collFails_keeps
    | with_reducible apply State.collForm_keeps
    | with_reducible apply State.vaReadM_keeps
    | split
    | dsimp only
    | intro _
    | exact id

theorem State.collWrite_keeps {q : List Instr} {n : Nat} {o : List Output} {s : State} (c : Coll) (i : Nat) (data : List PByte) (h : Keeps q n o s) :
    Keeps q n o (State.collWrite s c i data) := by
  unfold State.collWrite
  try dsimp only
  repeat' first
    | with_reducible assumption
    | with_reducible apply Engine.fail_keeps
    | with_reducible apply State.count64_keeps
    | with_reducible apply State.landStaging_keeps
    | with_reducible apply State.setColl_keeps
    | with_reducible apply State.vaWriteM_keeps
    | split
    | dsimp only
    | intro _
    | exact id

theorem State.collComplete_keeps {q : List Instr} {n : Nat} {o : List Output} {s : State} (c : Coll) (h : Keeps q n o s) :
    Keeps q n o (State.collComplete s c) := by
  unfold State.collComplete
  try dsimp only
  repeat' first
    | with_reducible assumption
    | with_reducible apply State.collEnd_keeps
    | with_reducible apply State.collSend_keeps
    | split
    | dsimp only
    | intro _
    | exact id

theorem State.collGo_keeps {q : List Instr} {n : Nat} {o : List Output} {s : State} (c0 : Coll) (m : Medium) (h : Keeps q n o s) :
    Keeps q n o (State.collGo s c0 m) := by
  unfold State.collGo
  try dsimp only
  repeat' first
    | with_reducible assumption
    | with_reducible apply State.collComplete_keeps
    | with_reducible apply State.collFails_keeps
    | with_reducible apply State.collFlush_keeps
    | with_reducible apply State.collRead_keeps
    | with_reducible apply State.collWrite_keeps
    | with_reducible apply State.dropReqs_keeps
    | with_reducible apply State.forAll_keeps
    | split
    | dsimp only
    | intro _
    | exact id

theorem State.collSettle_keeps {q : List Instr} {n : Nat} {o : List Output} {s : State} (h : Keeps q n o s) :
    Keeps q n o (State.collSettle s) := by
  unfold State.collSettle
  try dsimp only
  repeat' first
    | with_reducible assumption
    | with_reducible apply State.collGo_keeps
    | with_reducible apply State.forAll_keeps
    | split
    | dsimp only
    | intro _
    | exact id

theorem State.takeEarly_keeps {q : List Instr} {n : Nat} {o : List Output} {s : State} (c : Coll) (h : Keeps q n o s) :
    Keeps q n o (State.takeEarly s c) := by
  unfold State.takeEarly
  try dsimp only
  repeat' first
    | with_reducible assumption
    | with_reducible apply State.collFails_keeps
    | with_reducible apply State.onFab_keeps
    | with_reducible apply State.setColl_keeps
    | split
    | dsimp only
    | intro _
    | exact id

theorem State.collBegin_keeps {q : List Instr} {n : Nat} {o : List Output} {s : State} (c : Cmd) (e : GroupEntry) (m : Medium) (h : Keeps q n o s) :
    Keeps q n o (State.collBegin s c e m) := by
  unfold State.collBegin
  try dsimp only
  repeat' first
    | with_reducible assumption
    | with_reducible apply Engine.fail_keeps
    | with_reducible apply State.collFails_keeps
    | with_reducible apply State.collGo_keeps
    | with_reducible apply State.countColls_keeps
    | with_reducible apply State.count_keeps
    | with_reducible apply State.finish_keeps
    | with_reducible apply State.freeArbiter_keeps
    | with_reducible apply State.onFab_keeps
    | with_reducible apply State.sendReadies_keeps
    | with_reducible apply State.setCmd_keeps
    | with_reducible apply State.takeEarly_keeps
    | split
    | dsimp only
    | intro _
    | exact id

theorem State.collStart_keeps {q : List Instr} {n : Nat} {o : List Output} (m : Medium) (c0 : Cmd) {s0 : State} (h : Keeps q n o s0) :
    Keeps q n o (State.collStart m c0 s0) := by
  unfold State.collStart
  try dsimp only
  repeat' first
    | with_reducible assumption
    | with_reducible apply Engine.fail_keeps
    | (refine State.admit_keeps _ _ _ ?_ _ (.inl ⟨_, ‹_ = Admitted.served _ _›⟩))
    | (refine State.admit_keeps _ _ _ ?_ _ (.inr (.inl ‹_ = Admitted.waits _›)))
    | (refine State.admit_keeps _ _ _ ?_ _ (.inr (.inr ‹_ = Admitted.refused _›)))
    | with_reducible apply State.collBegin_keeps
    | with_reducible apply State.finish_keeps
    | with_reducible apply State.freeArbiter_keeps
    | with_reducible apply State.vaRead_keeps
    | split
    | dsimp only
    | intro _
    | exact id

theorem State.collLateCount_keeps {q : List Instr} {n : Nat} {o : List Output} {s : State} (p : Nat) (l : CollLate) (h : Keeps q n o s) :
    Keeps q n o (State.collLateCount s p l) := by
  unfold State.collLateCount
  try dsimp only
  repeat' first
    | with_reducible assumption
    | with_reducible apply State.count_keeps
    | with_reducible apply State.lateRecord_keeps
    | with_reducible apply State.onFab_keeps
    | split
    | dsimp only
    | intro _
    | exact id

theorem State.collArrive_keeps {q : List Instr} {n : Nat} {o : List Output} {s : State} (p : Nat) (bs : List Byte) (kind : Nat) (f : PktHdr → List Byte → State → State) (h : Keeps q n o s) (hf : ∀ a_ b_ c_, Keeps q n o c_ → Keeps q n o (f a_ b_ c_)) :
    Keeps q n o (State.collArrive s p bs kind f) := by
  unfold State.collArrive
  try dsimp only
  repeat' first
    | with_reducible assumption
    | apply hf
    | with_reducible apply State.answer_keeps
    | with_reducible apply State.count_keeps
    | with_reducible apply State.raise_keeps
    | with_reducible apply State.recordSeq_keeps
    | split
    | dsimp only
    | intro _
    | exact id

theorem State.collReady_keeps {q : List Instr} {n : Nat} {o : List Output} {s : State} (p : Nat) (bs : List Byte) (h : Keeps q n o s) :
    Keeps q n o (State.collReady s p bs) := by
  unfold State.collReady
  try dsimp only
  repeat' first
    | with_reducible assumption
    | with_reducible apply State.collArrive_keeps
    | with_reducible apply State.collFails_keeps
    | with_reducible apply State.collGo_keeps
    | with_reducible apply State.collLateCount_keeps
    | with_reducible apply State.onFab_keeps
    | with_reducible apply State.setColl_keeps
    | split
    | dsimp only
    | intro _
    | exact id

theorem State.collFor_keeps {q : List Instr} {n : Nat} {o : List Output} {s : State} (p : Nat) (h : PktHdr) (f : Coll → Nat × Nat → State) (hk : Keeps q n o s) (hf : ∀ a_ b_, Keeps q n o (f a_ b_)) :
    Keeps q n o (State.collFor s p h f) := by
  unfold State.collFor
  try dsimp only
  repeat' first
    | with_reducible assumption
    | apply hf
    | with_reducible apply State.collLateCount_keeps
    | split
    | dsimp only
    | intro _
    | exact id

theorem State.reductionMeet_keeps {q : List Instr} {n : Nat} {o : List Output} {s : State} (c : Coll) (buf : Medium) (h : Keeps q n o s) :
    Keeps q n o (State.reductionMeet s c buf).1 := by
  unfold State.reductionMeet
  try dsimp only
  repeat' first
    | with_reducible assumption
    | with_reducible apply State.collFails_keeps
    | with_reducible apply State.count_keeps
    | with_reducible apply State.ercAdd_keeps
    | with_reducible apply State.raise_keeps
    | split
    | dsimp only
    | intro _
    | exact id

theorem State.collData_keeps {q : List Instr} {n : Nat} {o : List Output} {s : State} (p : Nat) (bs : List Byte) (poisoned : Bool) (buf m : Medium) (h : Keeps q n o s) :
    Keeps q n o (State.collData s p bs poisoned buf m) := by
  unfold State.collData
  try dsimp only
  repeat' first
    | with_reducible assumption
    | with_reducible apply State.collArrive_keeps
    | with_reducible apply State.collFor_keeps
    | with_reducible apply State.collGo_keeps
    | with_reducible apply State.reductionMeet_keeps
    | with_reducible apply State.setColl_keeps
    | split
    | dsimp only
    | intro _
    | exact id

theorem State.collDone_keeps {q : List Instr} {n : Nat} {o : List Output} {s : State} (p : Nat) (bs : List Byte) (h : Keeps q n o s) :
    Keeps q n o (State.collDone s p bs) := by
  unfold State.collDone
  try dsimp only
  repeat' first
    | with_reducible assumption
    | with_reducible apply State.collArrive_keeps
    | with_reducible apply State.collFor_keeps
    | with_reducible apply State.collGo_keeps
    | with_reducible apply State.setColl_keeps
    | split
    | dsimp only
    | intro _
    | exact id

theorem State.collAbort_keeps {q : List Instr} {n : Nat} {o : List Output} {s : State} (p : Nat) (bs : List Byte) (h : Keeps q n o s) :
    Keeps q n o (State.collAbort s p bs) := by
  unfold State.collAbort
  try dsimp only
  repeat' first
    | with_reducible assumption
    | with_reducible apply State.collArrive_keeps
    | with_reducible apply State.collFail_keeps
    | split
    | dsimp only
    | intro _
    | exact id

theorem State.collTimeout_keeps {q : List Instr} {n : Nat} {o : List Output} {s : State} (r : CmdRef) (h : Keeps q n o s) :
    Keeps q n o (State.collTimeout s r) := by
  unfold State.collTimeout
  try dsimp only
  repeat' first
    | with_reducible assumption
    | with_reducible apply State.collFails_keeps
    | split
    | dsimp only
    | intro _
    | exact id

theorem State.collDieReset_keeps {q : List Instr} {n : Nat} {o : List Output} {s : State} (d : Nat) (h : Keeps q n o s) :
    Keeps q n o (State.collDieReset s d) := by
  unfold State.collDieReset
  try dsimp only
  repeat' first
    | with_reducible assumption
    | with_reducible apply State.collEnd_keeps
    | with_reducible apply State.forAll_keeps
    | split
    | dsimp only
    | intro _
    | exact id

theorem execRidge_keeps {q : List Instr} {n : Nat} {o : List Output} (c : CmdRef) (m : Medium) {s : State} (h : Keeps q n o s) :
    ∃ t, execRidge c m s = .next t ∧ Keeps q n o t := by
  refine ⟨_, rfl, ?_⟩
  try dsimp only
  repeat' first
    | with_reducible assumption
    | with_reducible apply State.collGo_keeps
    | with_reducible apply State.collStart_keeps
    | with_reducible apply State.forAll_keeps
    | with_reducible apply State.perform_keeps
    | with_reducible apply State.running_keeps
    | split
    | dsimp only
    | intro _
    | exact id

theorem execValley_keeps {q : List Instr} {n : Nat} {o : List Output} (c : CmdRef) (m : Medium) {s : State} (h : Keeps q n o s) :
    ∃ t, execValley c m s = .next t ∧ Keeps q n o t := by
  refine ⟨_, rfl, ?_⟩
  try dsimp only
  repeat' first
    | with_reducible assumption
    | with_reducible apply State.collGo_keeps
    | with_reducible apply State.collStart_keeps
    | with_reducible apply State.forAll_keeps
    | with_reducible apply State.perform_keeps
    | with_reducible apply State.running_keeps
    | split
    | dsimp only
    | intro _
    | exact id

theorem execCollReady_keeps {q : List Instr} {n : Nat} {o : List Output} (port : PortId) (bytes : List Byte) {s : State} (h : Keeps q n o s) :
    ∃ t, execCollReady port bytes s = .next t ∧ Keeps q n o t := by
  refine ⟨_, rfl, ?_⟩
  try dsimp only
  repeat' first
    | with_reducible assumption
    | with_reducible apply State.collReady_keeps
    | split
    | dsimp only
    | intro _
    | exact id

theorem execCollData_keeps {q : List Instr} {n : Nat} {o : List Output} (port : PortId) (bytes : List Byte) (poisoned : Bool) (buf m : Medium) {s : State} (h : Keeps q n o s) :
    ∃ t, execCollData port bytes poisoned buf m s = .next t ∧ Keeps q n o t := by
  refine ⟨_, rfl, ?_⟩
  try dsimp only
  repeat' first
    | with_reducible assumption
    | with_reducible apply State.collData_keeps
    | split
    | dsimp only
    | intro _
    | exact id

theorem execCollDone_keeps {q : List Instr} {n : Nat} {o : List Output} (port : PortId) (bytes : List Byte) {s : State} (h : Keeps q n o s) :
    ∃ t, execCollDone port bytes s = .next t ∧ Keeps q n o t := by
  refine ⟨_, rfl, ?_⟩
  try dsimp only
  repeat' first
    | with_reducible assumption
    | with_reducible apply State.collDone_keeps
    | split
    | dsimp only
    | intro _
    | exact id

theorem execCollAbort_keeps {q : List Instr} {n : Nat} {o : List Output} (port : PortId) (bytes : List Byte) {s : State} (h : Keeps q n o s) :
    ∃ t, execCollAbort port bytes s = .next t ∧ Keeps q n o t := by
  refine ⟨_, rfl, ?_⟩
  try dsimp only
  repeat' first
    | with_reducible assumption
    | with_reducible apply State.collAbort_keeps
    | split
    | dsimp only
    | intro _
    | exact id

theorem execCollTimeout_keeps {q : List Instr} {n : Nat} {o : List Output} (c : CmdRef) {s : State} (h : Keeps q n o s) :
    ∃ t, execCollTimeout c s = .next t ∧ Keeps q n o t := by
  refine ⟨_, rfl, ?_⟩
  try dsimp only
  repeat' first
    | with_reducible assumption
    | with_reducible apply State.collTimeout_keeps
    | split
    | dsimp only
    | intro _
    | exact id

end Sys2Proof.Machine
end

