-- ==== Sys2Proof/Laws/KeepsEngRows.lean ====
section
/-! SUPPORT. What each operation of Machine/EngRows.lean keeps (Laws/Keeps.lean). -/

namespace Sys2Proof.Machine

theorem drainFreeze_keeps  (n : Nat) (e : Engine) (he : e.Canonical) :
    Engine.Canonical (drainFreeze n e) := by
  unfold drainFreeze
  try dsimp only
  repeat' first
    | with_reducible assumption
    | with_reducible exact Keeps.eng ‹_› _ _
    | split
    | dsimp only
    | (with_reducible refine Engine.Canonical.spad ?_; first | with_reducible assumption | with_reducible exact Keeps.eng ‹_› _ _)
    | (with_reducible refine Engine.Canonical.poison ?_; first | with_reducible assumption | with_reducible exact Keeps.eng ‹_› _ _)
    | (with_reducible refine Engine.Canonical.acc ?_; first | with_reducible assumption | with_reducible exact Keeps.eng ‹_› _ _)
    | (with_reducible refine Engine.Canonical.vreg ?_; first | with_reducible assumption | with_reducible exact Keeps.eng ‹_› _ _)
    | (with_reducible refine Engine.Canonical.set0 ?_; first | with_reducible assumption | with_reducible exact Keeps.eng ‹_› _ _)
    | (with_reducible refine Engine.Canonical.set1 ?_; first | with_reducible assumption | with_reducible exact Keeps.eng ‹_› _ _)
    | (with_reducible refine Engine.Canonical.tags ?_; first | with_reducible assumption | with_reducible exact Keeps.eng ‹_› _ _)
    | (with_reducible refine Engine.Canonical.kept ?_; first | with_reducible assumption | with_reducible exact Keeps.eng ‹_› _ _)
    | exact Engine.zero_canonical
    | with_reducible refine Engine.Canonical.mk ?_ ?_ ?_ ?_ ?_ ?_ ?_ ?_
    | intro _
    | exact id

theorem execSload_keeps {q : List Instr} {n : Nat} {o : List Output} (r : EngRef) {s : State} (h : Keeps q n o s) :
    ∃ t, execSload r s = .next t ∧ Keeps q n o t := by
  refine ⟨_, rfl, ?_⟩
  try dsimp only
  repeat' first
    | with_reducible assumption
    | with_reducible apply State.slotOp_keeps
    | with_reducible apply opSload_keeps
    | split
    | dsimp only
    | intro _
    | exact id

theorem execSwap_keeps {q : List Instr} {n : Nat} {o : List Output} (r : EngRef) {s : State} (h : Keeps q n o s) :
    ∃ t, execSwap r s = .next t ∧ Keeps q n o t := by
  refine ⟨_, rfl, ?_⟩
  try dsimp only
  repeat' first
    | with_reducible assumption
    | with_reducible apply State.slotOp_keeps
    | with_reducible apply opSwap_keeps
    | split
    | dsimp only
    | intro _
    | exact id

theorem execStream_keeps {q : List Instr} {n : Nat} {o : List Output} (r : EngRef) (freeze : Nat) {s : State} (h : Keeps q n o s) :
    ∃ t, execStream r freeze s = .next t ∧ Keeps q n o t := by
  refine ⟨_, rfl, ?_⟩
  try dsimp only
  repeat' first
    | with_reducible assumption
    | with_reducible apply State.slotOp_keeps
    | with_reducible apply drainFreeze_keeps
    | with_reducible apply opStream_keeps
    | split
    | dsimp only
    | intro _
    | exact id

theorem execSwapStream_keeps {q : List Instr} {n : Nat} {o : List Output} (r : EngRef) (freeze : Nat) {s : State} (h : Keeps q n o s) :
    ∃ t, execSwapStream r freeze s = .next t ∧ Keeps q n o t := by
  refine ⟨_, rfl, ?_⟩
  try dsimp only
  repeat' first
    | with_reducible assumption
    | with_reducible apply State.slotOp_keeps
    | with_reducible apply drainFreeze_keeps
    | with_reducible apply opSwapStream_keeps
    | split
    | dsimp only
    | intro _
    | exact id

theorem execFadd_keeps {q : List Instr} {n : Nat} {o : List Output} (r : EngRef) {s : State} (h : Keeps q n o s) :
    ∃ t, execFadd r s = .next t ∧ Keeps q n o t := by
  refine ⟨_, rfl, ?_⟩
  try dsimp only
  repeat' first
    | with_reducible assumption
    | with_reducible apply State.slotOp_keeps
    | with_reducible apply opFadd_keeps
    | split
    | dsimp only
    | intro _
    | exact id

theorem execFsub_keeps {q : List Instr} {n : Nat} {o : List Output} (r : EngRef) {s : State} (h : Keeps q n o s) :
    ∃ t, execFsub r s = .next t ∧ Keeps q n o t := by
  refine ⟨_, rfl, ?_⟩
  try dsimp only
  repeat' first
    | with_reducible assumption
    | with_reducible apply State.slotOp_keeps
    | with_reducible apply opFsub_keeps
    | split
    | dsimp only
    | intro _
    | exact id

theorem execFmul_keeps {q : List Instr} {n : Nat} {o : List Output} (r : EngRef) {s : State} (h : Keeps q n o s) :
    ∃ t, execFmul r s = .next t ∧ Keeps q n o t := by
  refine ⟨_, rfl, ?_⟩
  try dsimp only
  repeat' first
    | with_reducible assumption
    | with_reducible apply State.slotOp_keeps
    | with_reducible apply opFmul_keeps
    | split
    | dsimp only
    | intro _
    | exact id

theorem execFma_keeps {q : List Instr} {n : Nat} {o : List Output} (r : EngRef) {s : State} (h : Keeps q n o s) :
    ∃ t, execFma r s = .next t ∧ Keeps q n o t := by
  refine ⟨_, rfl, ?_⟩
  try dsimp only
  repeat' first
    | with_reducible assumption
    | with_reducible apply State.slotOp_keeps
    | with_reducible apply opFma_keeps
    | split
    | dsimp only
    | intro _
    | exact id

theorem execFmin_keeps {q : List Instr} {n : Nat} {o : List Output} (r : EngRef) {s : State} (h : Keeps q n o s) :
    ∃ t, execFmin r s = .next t ∧ Keeps q n o t := by
  refine ⟨_, rfl, ?_⟩
  try dsimp only
  repeat' first
    | with_reducible assumption
    | with_reducible apply State.slotOp_keeps
    | with_reducible apply opFmin_keeps
    | split
    | dsimp only
    | intro _
    | exact id

theorem execFmax_keeps {q : List Instr} {n : Nat} {o : List Output} (r : EngRef) {s : State} (h : Keeps q n o s) :
    ∃ t, execFmax r s = .next t ∧ Keeps q n o t := by
  refine ⟨_, rfl, ?_⟩
  try dsimp only
  repeat' first
    | with_reducible assumption
    | with_reducible apply State.slotOp_keeps
    | with_reducible apply opFmax_keeps
    | split
    | dsimp only
    | intro _
    | exact id

theorem execFcmp_keeps {q : List Instr} {n : Nat} {o : List Output} (r : EngRef) {s : State} (h : Keeps q n o s) :
    ∃ t, execFcmp r s = .next t ∧ Keeps q n o t := by
  refine ⟨_, rfl, ?_⟩
  try dsimp only
  repeat' first
    | with_reducible assumption
    | with_reducible apply State.slotOp_keeps
    | with_reducible apply opFcmp_keeps
    | split
    | dsimp only
    | intro _
    | exact id

theorem execDadd_keeps {q : List Instr} {n : Nat} {o : List Output} (r : EngRef) {s : State} (h : Keeps q n o s) :
    ∃ t, execDadd r s = .next t ∧ Keeps q n o t := by
  refine ⟨_, rfl, ?_⟩
  try dsimp only
  repeat' first
    | with_reducible assumption
    | with_reducible apply State.slotOp_keeps
    | with_reducible apply opDadd_keeps
    | split
    | dsimp only
    | intro _
    | exact id

theorem execDmul_keeps {q : List Instr} {n : Nat} {o : List Output} (r : EngRef) {s : State} (h : Keeps q n o s) :
    ∃ t, execDmul r s = .next t ∧ Keeps q n o t := by
  refine ⟨_, rfl, ?_⟩
  try dsimp only
  repeat' first
    | with_reducible assumption
    | with_reducible apply State.slotOp_keeps
    | with_reducible apply opDmul_keeps
    | split
    | dsimp only
    | intro _
    | exact id

theorem execDfma_keeps {q : List Instr} {n : Nat} {o : List Output} (r : EngRef) {s : State} (h : Keeps q n o s) :
    ∃ t, execDfma r s = .next t ∧ Keeps q n o t := by
  refine ⟨_, rfl, ?_⟩
  try dsimp only
  repeat' first
    | with_reducible assumption
    | with_reducible apply State.slotOp_keeps
    | with_reducible apply opDfma_keeps
    | split
    | dsimp only
    | intro _
    | exact id

theorem execExp_keeps {q : List Instr} {n : Nat} {o : List Output} (r : EngRef) {s : State} (h : Keeps q n o s) :
    ∃ t, execExp r s = .next t ∧ Keeps q n o t := by
  refine ⟨_, rfl, ?_⟩
  try dsimp only
  repeat' first
    | with_reducible assumption
    | with_reducible apply State.slotOp_keeps
    | with_reducible apply opExp_keeps
    | split
    | dsimp only
    | intro _
    | exact id

theorem execLog_keeps {q : List Instr} {n : Nat} {o : List Output} (r : EngRef) {s : State} (h : Keeps q n o s) :
    ∃ t, execLog r s = .next t ∧ Keeps q n o t := by
  refine ⟨_, rfl, ?_⟩
  try dsimp only
  repeat' first
    | with_reducible assumption
    | with_reducible apply State.slotOp_keeps
    | with_reducible apply opLog_keeps
    | split
    | dsimp only
    | intro _
    | exact id

theorem execRsqrt_keeps {q : List Instr} {n : Nat} {o : List Output} (r : EngRef) {s : State} (h : Keeps q n o s) :
    ∃ t, execRsqrt r s = .next t ∧ Keeps q n o t := by
  refine ⟨_, rfl, ?_⟩
  try dsimp only
  repeat' first
    | with_reducible assumption
    | with_reducible apply State.slotOp_keeps
    | with_reducible apply opRsqrt_keeps
    | split
    | dsimp only
    | intro _
    | exact id

theorem execIadd_keeps {q : List Instr} {n : Nat} {o : List Output} (r : EngRef) {s : State} (h : Keeps q n o s) :
    ∃ t, execIadd r s = .next t ∧ Keeps q n o t := by
  refine ⟨_, rfl, ?_⟩
  try dsimp only
  repeat' first
    | with_reducible assumption
    | with_reducible apply State.slotOp_keeps
    | with_reducible apply opIadd_keeps
    | split
    | dsimp only
    | intro _
    | exact id

theorem execIsub_keeps {q : List Instr} {n : Nat} {o : List Output} (r : EngRef) {s : State} (h : Keeps q n o s) :
    ∃ t, execIsub r s = .next t ∧ Keeps q n o t := by
  refine ⟨_, rfl, ?_⟩
  try dsimp only
  repeat' first
    | with_reducible assumption
    | with_reducible apply State.slotOp_keeps
    | with_reducible apply opIsub_keeps
    | split
    | dsimp only
    | intro _
    | exact id

theorem execImul_keeps {q : List Instr} {n : Nat} {o : List Output} (r : EngRef) {s : State} (h : Keeps q n o s) :
    ∃ t, execImul r s = .next t ∧ Keeps q n o t := by
  refine ⟨_, rfl, ?_⟩
  try dsimp only
  repeat' first
    | with_reducible assumption
    | with_reducible apply State.slotOp_keeps
    | with_reducible apply opImul_keeps
    | split
    | dsimp only
    | intro _
    | exact id

theorem execAndOp_keeps {q : List Instr} {n : Nat} {o : List Output} (r : EngRef) {s : State} (h : Keeps q n o s) :
    ∃ t, execAndOp r s = .next t ∧ Keeps q n o t := by
  refine ⟨_, rfl, ?_⟩
  try dsimp only
  repeat' first
    | with_reducible assumption
    | with_reducible apply State.slotOp_keeps
    | with_reducible apply opAnd_keeps
    | split
    | dsimp only
    | intro _
    | exact id

theorem execOrOp_keeps {q : List Instr} {n : Nat} {o : List Output} (r : EngRef) {s : State} (h : Keeps q n o s) :
    ∃ t, execOrOp r s = .next t ∧ Keeps q n o t := by
  refine ⟨_, rfl, ?_⟩
  try dsimp only
  repeat' first
    | with_reducible assumption
    | with_reducible apply State.slotOp_keeps
    | with_reducible apply opOr_keeps
    | split
    | dsimp only
    | intro _
    | exact id

theorem execXorOp_keeps {q : List Instr} {n : Nat} {o : List Output} (r : EngRef) {s : State} (h : Keeps q n o s) :
    ∃ t, execXorOp r s = .next t ∧ Keeps q n o t := by
  refine ⟨_, rfl, ?_⟩
  try dsimp only
  repeat' first
    | with_reducible assumption
    | with_reducible apply State.slotOp_keeps
    | with_reducible apply opXor_keeps
    | split
    | dsimp only
    | intro _
    | exact id

theorem execShl_keeps {q : List Instr} {n : Nat} {o : List Output} (r : EngRef) {s : State} (h : Keeps q n o s) :
    ∃ t, execShl r s = .next t ∧ Keeps q n o t := by
  refine ⟨_, rfl, ?_⟩
  try dsimp only
  repeat' first
    | with_reducible assumption
    | with_reducible apply State.slotOp_keeps
    | with_reducible apply opShl_keeps
    | split
    | dsimp only
    | intro _
    | exact id

theorem execShr_keeps {q : List Instr} {n : Nat} {o : List Output} (r : EngRef) {s : State} (h : Keeps q n o s) :
    ∃ t, execShr r s = .next t ∧ Keeps q n o t := by
  refine ⟨_, rfl, ?_⟩
  try dsimp only
  repeat' first
    | with_reducible assumption
    | with_reducible apply State.slotOp_keeps
    | with_reducible apply opShr_keeps
    | split
    | dsimp only
    | intro _
    | exact id

theorem execSra_keeps {q : List Instr} {n : Nat} {o : List Output} (r : EngRef) {s : State} (h : Keeps q n o s) :
    ∃ t, execSra r s = .next t ∧ Keeps q n o t := by
  refine ⟨_, rfl, ?_⟩
  try dsimp only
  repeat' first
    | with_reducible assumption
    | with_reducible apply State.slotOp_keeps
    | with_reducible apply opSra_keeps
    | split
    | dsimp only
    | intro _
    | exact id

theorem execSel_keeps {q : List Instr} {n : Nat} {o : List Output} (r : EngRef) {s : State} (h : Keeps q n o s) :
    ∃ t, execSel r s = .next t ∧ Keeps q n o t := by
  refine ⟨_, rfl, ?_⟩
  try dsimp only
  repeat' first
    | with_reducible assumption
    | with_reducible apply State.slotOp_keeps
    | with_reducible apply opSel_keeps
    | split
    | dsimp only
    | intro _
    | exact id

theorem execImin_keeps {q : List Instr} {n : Nat} {o : List Output} (r : EngRef) {s : State} (h : Keeps q n o s) :
    ∃ t, execImin r s = .next t ∧ Keeps q n o t := by
  refine ⟨_, rfl, ?_⟩
  try dsimp only
  repeat' first
    | with_reducible assumption
    | with_reducible apply State.slotOp_keeps
    | with_reducible apply opImin_keeps
    | split
    | dsimp only
    | intro _
    | exact id

theorem execImax_keeps {q : List Instr} {n : Nat} {o : List Output} (r : EngRef) {s : State} (h : Keeps q n o s) :
    ∃ t, execImax r s = .next t ∧ Keeps q n o t := by
  refine ⟨_, rfl, ?_⟩
  try dsimp only
  repeat' first
    | with_reducible assumption
    | with_reducible apply State.slotOp_keeps
    | with_reducible apply opImax_keeps
    | split
    | dsimp only
    | intro _
    | exact id

theorem execExadd_keeps {q : List Instr} {n : Nat} {o : List Output} (r : EngRef) {s : State} (h : Keeps q n o s) :
    ∃ t, execExadd r s = .next t ∧ Keeps q n o t := by
  refine ⟨_, rfl, ?_⟩
  try dsimp only
  repeat' first
    | with_reducible assumption
    | with_reducible apply State.slotOp_keeps
    | with_reducible apply opExadd_keeps
    | split
    | dsimp only
    | intro _
    | exact id

theorem execCvt_keeps {q : List Instr} {n : Nat} {o : List Output} (r : EngRef) {s : State} (h : Keeps q n o s) :
    ∃ t, execCvt r s = .next t ∧ Keeps q n o t := by
  refine ⟨_, rfl, ?_⟩
  try dsimp only
  repeat' first
    | with_reducible assumption
    | with_reducible apply State.slotOp_keeps
    | with_reducible apply opCvt_keeps
    | split
    | dsimp only
    | intro _
    | exact id

theorem execRsum_keeps {q : List Instr} {n : Nat} {o : List Output} (r : EngRef) {s : State} (h : Keeps q n o s) :
    ∃ t, execRsum r s = .next t ∧ Keeps q n o t := by
  refine ⟨_, rfl, ?_⟩
  try dsimp only
  repeat' first
    | with_reducible assumption
    | with_reducible apply State.slotOp_keeps
    | with_reducible apply opRsum_keeps
    | split
    | dsimp only
    | intro _
    | exact id

theorem execRmax_keeps {q : List Instr} {n : Nat} {o : List Output} (r : EngRef) {s : State} (h : Keeps q n o s) :
    ∃ t, execRmax r s = .next t ∧ Keeps q n o t := by
  refine ⟨_, rfl, ?_⟩
  try dsimp only
  repeat' first
    | with_reducible assumption
    | with_reducible apply State.slotOp_keeps
    | with_reducible apply opRmax_keeps
    | split
    | dsimp only
    | intro _
    | exact id

theorem execRmin_keeps {q : List Instr} {n : Nat} {o : List Output} (r : EngRef) {s : State} (h : Keeps q n o s) :
    ∃ t, execRmin r s = .next t ∧ Keeps q n o t := by
  refine ⟨_, rfl, ?_⟩
  try dsimp only
  repeat' first
    | with_reducible assumption
    | with_reducible apply State.slotOp_keeps
    | with_reducible apply opRmin_keeps
    | split
    | dsimp only
    | intro _
    | exact id

theorem execExcvt_keeps {q : List Instr} {n : Nat} {o : List Output} (r : EngRef) {s : State} (h : Keeps q n o s) :
    ∃ t, execExcvt r s = .next t ∧ Keeps q n o t := by
  refine ⟨_, rfl, ?_⟩
  try dsimp only
  repeat' first
    | with_reducible assumption
    | with_reducible apply State.slotOp_keeps
    | with_reducible apply opExcvt_keeps
    | split
    | dsimp only
    | intro _
    | exact id

theorem execRbits_keeps {q : List Instr} {n : Nat} {o : List Output} (r : EngRef) {s : State} (h : Keeps q n o s) :
    ∃ t, execRbits r s = .next t ∧ Keeps q n o t := by
  refine ⟨_, rfl, ?_⟩
  try dsimp only
  repeat' first
    | with_reducible assumption
    | with_reducible apply State.slotOp_keeps
    | with_reducible apply opRbits_keeps
    | split
    | dsimp only
    | intro _
    | exact id

theorem execVld_keeps {q : List Instr} {n : Nat} {o : List Output} (r : EngRef) {s : State} (h : Keeps q n o s) :
    ∃ t, execVld r s = .next t ∧ Keeps q n o t := by
  refine ⟨_, rfl, ?_⟩
  try dsimp only
  repeat' first
    | with_reducible assumption
    | with_reducible apply State.slotOp_keeps
    | with_reducible apply opVld_keeps
    | split
    | dsimp only
    | intro _
    | exact id

theorem execVst_keeps {q : List Instr} {n : Nat} {o : List Output} (r : EngRef) {s : State} (h : Keeps q n o s) :
    ∃ t, execVst r s = .next t ∧ Keeps q n o t := by
  refine ⟨_, rfl, ?_⟩
  try dsimp only
  repeat' first
    | with_reducible assumption
    | with_reducible apply State.slotOp_keeps
    | with_reducible apply opVst_keeps
    | split
    | dsimp only
    | intro _
    | exact id

theorem execAld_keeps {q : List Instr} {n : Nat} {o : List Output} (r : EngRef) {s : State} (h : Keeps q n o s) :
    ∃ t, execAld r s = .next t ∧ Keeps q n o t := by
  refine ⟨_, rfl, ?_⟩
  try dsimp only
  repeat' first
    | with_reducible assumption
    | with_reducible apply State.slotOp_keeps
    | with_reducible apply opAld_keeps
    | split
    | dsimp only
    | intro _
    | exact id

theorem execAst_keeps {q : List Instr} {n : Nat} {o : List Output} (r : EngRef) {s : State} (h : Keeps q n o s) :
    ∃ t, execAst r s = .next t ∧ Keeps q n o t := by
  refine ⟨_, rfl, ?_⟩
  try dsimp only
  repeat' first
    | with_reducible assumption
    | with_reducible apply State.slotOp_keeps
    | with_reducible apply opAst_keeps
    | split
    | dsimp only
    | intro _
    | exact id

theorem execLftr_keeps {q : List Instr} {n : Nat} {o : List Output} (r : EngRef) {s : State} (h : Keeps q n o s) :
    ∃ t, execLftr r s = .next t ∧ Keeps q n o t := by
  refine ⟨_, rfl, ?_⟩
  try dsimp only
  repeat' first
    | with_reducible assumption
    | with_reducible apply State.slotOp_keeps
    | with_reducible apply opLftr_keeps
    | split
    | dsimp only
    | intro _
    | exact id

theorem execLftw_keeps {q : List Instr} {n : Nat} {o : List Output} (r : EngRef) {s : State} (h : Keeps q n o s) :
    ∃ t, execLftw r s = .next t ∧ Keeps q n o t := by
  refine ⟨_, rfl, ?_⟩
  try dsimp only
  repeat' first
    | with_reducible assumption
    | with_reducible apply State.slotOp_keeps
    | with_reducible apply opLftw_keeps
    | split
    | dsimp only
    | intro _
    | exact id

theorem execXput_keeps {q : List Instr} {n : Nat} {o : List Output} (r : EngRef) {s : State} (h : Keeps q n o s) :
    ∃ t, execXput r s = .next t ∧ Keeps q n o t := by
  refine ⟨_, rfl, ?_⟩
  try dsimp only
  repeat' first
    | with_reducible assumption
    | with_reducible apply State.slotOp_keeps
    | with_reducible apply opXput_keeps
    | split
    | dsimp only
    | intro _
    | exact id

theorem execXget_keeps {q : List Instr} {n : Nat} {o : List Output} (r : EngRef) {s : State} (h : Keeps q n o s) :
    ∃ t, execXget r s = .next t ∧ Keeps q n o t := by
  refine ⟨_, rfl, ?_⟩
  try dsimp only
  repeat' first
    | with_reducible assumption
    | with_reducible apply State.slotOp_keeps
    | with_reducible apply opXget_keeps
    | split
    | dsimp only
    | intro _
    | exact id

theorem execAset_keeps {q : List Instr} {n : Nat} {o : List Output} (r : EngRef) {s : State} (h : Keeps q n o s) :
    ∃ t, execAset r s = .next t ∧ Keeps q n o t := by
  refine ⟨_, rfl, ?_⟩
  try dsimp only
  repeat' first
    | with_reducible assumption
    | with_reducible apply State.slotOp_keeps
    | with_reducible apply opAset_keeps
    | split
    | dsimp only
    | intro _
    | exact id

theorem execAbase_keeps {q : List Instr} {n : Nat} {o : List Output} (r : EngRef) {s : State} (h : Keeps q n o s) :
    ∃ t, execAbase r s = .next t ∧ Keeps q n o t := by
  refine ⟨_, rfl, ?_⟩
  try dsimp only
  repeat' first
    | with_reducible assumption
    | with_reducible apply State.slotOp_keeps
    | with_reducible apply opAbase_keeps
    | split
    | dsimp only
    | intro _
    | exact id

theorem execArst_keeps {q : List Instr} {n : Nat} {o : List Output} (r : EngRef) {s : State} (h : Keeps q n o s) :
    ∃ t, execArst r s = .next t ∧ Keeps q n o t := by
  refine ⟨_, rfl, ?_⟩
  try dsimp only
  repeat' first
    | with_reducible assumption
    | with_reducible apply State.slotOp_keeps
    | with_reducible apply opArst_keeps
    | split
    | dsimp only
    | intro _
    | exact id

theorem execSldi_keeps {q : List Instr} {n : Nat} {o : List Output} (r : EngRef) {s : State} (h : Keeps q n o s) :
    ∃ t, execSldi r s = .next t ∧ Keeps q n o t := by
  refine ⟨_, rfl, ?_⟩
  try dsimp only
  repeat' first
    | with_reducible assumption
    | with_reducible apply State.slotOp_keeps
    | with_reducible apply opSldi_keeps
    | split
    | dsimp only
    | intro _
    | exact id

theorem execSaddi_keeps {q : List Instr} {n : Nat} {o : List Output} (r : EngRef) {s : State} (h : Keeps q n o s) :
    ∃ t, execSaddi r s = .next t ∧ Keeps q n o t := by
  refine ⟨_, rfl, ?_⟩
  try dsimp only
  repeat' first
    | with_reducible assumption
    | with_reducible apply State.slotOp_keeps
    | with_reducible apply opSaddi_keeps
    | split
    | dsimp only
    | intro _
    | exact id

theorem execSadd_keeps {q : List Instr} {n : Nat} {o : List Output} (r : EngRef) {s : State} (h : Keeps q n o s) :
    ∃ t, execSadd r s = .next t ∧ Keeps q n o t := by
  refine ⟨_, rfl, ?_⟩
  try dsimp only
  repeat' first
    | with_reducible assumption
    | with_reducible apply State.slotOp_keeps
    | with_reducible apply opSadd_keeps
    | split
    | dsimp only
    | intro _
    | exact id

theorem execSshl_keeps {q : List Instr} {n : Nat} {o : List Output} (r : EngRef) {s : State} (h : Keeps q n o s) :
    ∃ t, execSshl r s = .next t ∧ Keeps q n o t := by
  refine ⟨_, rfl, ?_⟩
  try dsimp only
  repeat' first
    | with_reducible assumption
    | with_reducible apply State.slotOp_keeps
    | with_reducible apply opSshl_keeps
    | split
    | dsimp only
    | intro _
    | exact id

theorem execRdrain_keeps {q : List Instr} {n : Nat} {o : List Output} (r : EngRef) {s : State} (h : Keeps q n o s) :
    ∃ t, execRdrain r s = .next t ∧ Keeps q n o t := by
  refine ⟨_, rfl, ?_⟩
  try dsimp only
  repeat' first
    | with_reducible assumption
    | with_reducible apply State.slotOp_keeps
    | with_reducible apply opRdrain_keeps
    | split
    | dsimp only
    | intro _
    | exact id

theorem execRvec_keeps {q : List Instr} {n : Nat} {o : List Output} (r : EngRef) {s : State} (h : Keeps q n o s) :
    ∃ t, execRvec r s = .next t ∧ Keeps q n o t := by
  refine ⟨_, rfl, ?_⟩
  try dsimp only
  repeat' first
    | with_reducible assumption
    | with_reducible apply State.slotOp_keeps
    | with_reducible apply opRvec_keeps
    | split
    | dsimp only
    | intro _
    | exact id

theorem execRraw_keeps {q : List Instr} {n : Nat} {o : List Output} (r : EngRef) {s : State} (h : Keeps q n o s) :
    ∃ t, execRraw r s = .next t ∧ Keeps q n o t := by
  refine ⟨_, rfl, ?_⟩
  try dsimp only
  repeat' first
    | with_reducible assumption
    | with_reducible apply State.slotOp_keeps
    | with_reducible apply opRraw_keeps
    | split
    | dsimp only
    | intro _
    | exact id

theorem execEndProgram_keeps {q : List Instr} {n : Nat} {o : List Output} (r : EngRef) {s : State} (h : Keeps q n o s) :
    ∃ t, execEndProgram r s = .next t ∧ Keeps q n o t := by
  refine ⟨_, rfl, ?_⟩
  try dsimp only
  repeat' first
    | with_reducible assumption
    | with_reducible apply State.slotOp_keeps
    | with_reducible apply opEnd_keeps
    | split
    | dsimp only
    | intro _
    | exact id

theorem execSkip_keeps {q : List Instr} {n : Nat} {o : List Output} (r : EngRef) {s : State} (h : Keeps q n o s) :
    ∃ t, execSkip r s = .next t ∧ Keeps q n o t := by
  refine ⟨_, rfl, ?_⟩
  try dsimp only
  repeat' first
    | with_reducible assumption
    | with_reducible apply State.slotOp_keeps
    | with_reducible apply opSkip_keeps
    | split
    | dsimp only
    | intro _
    | exact id

theorem execLoop_keeps {q : List Instr} {n : Nat} {o : List Output} (r : EngRef) {s : State} (h : Keeps q n o s) :
    ∃ t, execLoop r s = .next t ∧ Keeps q n o t := by
  refine ⟨_, rfl, ?_⟩
  try dsimp only
  repeat' first
    | with_reducible assumption
    | with_reducible apply State.slotOp_keeps
    | with_reducible apply opLoop_keeps
    | split
    | dsimp only
    | intro _
    | exact id

theorem execWaitt_keeps {q : List Instr} {n : Nat} {o : List Output} (r : EngRef) {s : State} (h : Keeps q n o s) :
    ∃ t, execWaitt r s = .next t ∧ Keeps q n o t := by
  refine ⟨_, rfl, ?_⟩
  try dsimp only
  repeat' first
    | with_reducible assumption
    | with_reducible apply State.engineDo_keeps
    | with_reducible apply waitStep_keeps
    | with_reducible refine Keeps.eng (q := q) (n := n) (o := o) ?_ _ _
    | split
    | dsimp only
    | intro _
    | exact id

theorem execWaite_keeps {q : List Instr} {n : Nat} {o : List Output} (r : EngRef) {s : State} (h : Keeps q n o s) :
    ∃ t, execWaite r s = .next t ∧ Keeps q n o t := by
  refine ⟨_, rfl, ?_⟩
  try dsimp only
  repeat' first
    | with_reducible assumption
    | with_reducible apply State.engineDo_keeps
    | with_reducible apply waitStep_keeps
    | with_reducible refine Keeps.eng (q := q) (n := n) (o := o) ?_ _ _
    | split
    | dsimp only
    | intro _
    | exact id

theorem execWaitRelease_keeps {q : List Instr} {n' : Nat} {o : List Output} (die : CDie) (eng : PhysEng) (n : Nat) {s : State} (h : Keeps q n' o s) :
    ∃ t, execWaitRelease die eng n s = .next t ∧ Keeps q n' o t := by
  refine ⟨_, rfl, ?_⟩
  try dsimp only
  repeat' first
    | with_reducible assumption
    | with_reducible apply State.engineDo_keeps
    | with_reducible apply waitRelease_keeps
    | with_reducible refine Keeps.eng (q := q) (n := n') (o := o) ?_ _ _
    | split
    | dsimp only
    | intro _
    | exact id

theorem execSige_keeps {q : List Instr} {n : Nat} {o : List Output} (r : EngRef) {s : State} (h : Keeps q n o s) :
    ∃ t, execSige r s = .next t ∧ Keeps q n o t := by
  refine ⟨_, rfl, ?_⟩
  try dsimp only
  repeat' first
    | with_reducible assumption
    | with_reducible apply State.slotOp_keeps
    | with_reducible apply opSige_keeps
    | split
    | dsimp only
    | intro _
    | exact id

end Sys2Proof.Machine
end

