-- ==== Sys2Proof/Laws/KeepsSpdm.lean ====
section
/-! SUPPORT. What each operation of Machine/Spdm.lean keeps (Laws/Keeps.lean). -/

namespace Sys2Proof.Machine

theorem State.setSpdm_keeps {q : List Instr} {n : Nat} {o : List Output} {s : State} (x : Spdm) (h : Keeps q n o s) :
    Keeps q n o (State.setSpdm s x) := by
  unfold State.setSpdm
  try dsimp only
  repeat' first
    | with_reducible assumption
    | with_reducible apply State.onSec_keeps
    | split
    | dsimp only
    | intro _
    | exact id

theorem State.endSessions_keeps {q : List Instr} {n : Nat} {o : List Output} {s : State} (h : Keeps q n o s) :
    Keeps q n o (State.endSessions s) := by
  unfold State.endSessions
  try dsimp only
  repeat' first
    | with_reducible assumption
    | with_reducible apply State.onSec_keeps
    | split
    | dsimp only
    | intro _
    | exact id

theorem State.spdmError_keeps {q : List Instr} {n : Nat} {o : List Output} {s : State} (ep code data : Nat) (token : Option Nat) (h : Keeps q n o s) :
    Keeps q n o (State.spdmError s ep code data token) := by
  unfold State.spdmError
  try dsimp only
  repeat' first
    | with_reducible assumption
    | with_reducible apply State.emit_keeps
    | split
    | dsimp only
    | intro _
    | exact id

theorem State.spdmDefer_keeps {q : List Instr} {n : Nat} {o : List Output} {s : State} (ep : Nat) (r : SpdmReq) (h : Keeps q n o s) :
    Keeps q n o (State.spdmDefer s ep r) := by
  unfold State.spdmDefer
  try dsimp only
  repeat' first
    | with_reducible assumption
    | with_reducible apply State.onSec_keeps
    | with_reducible apply State.setSpdm_keeps
    | with_reducible apply State.spdmError_keeps
    | split
    | dsimp only
    | intro _
    | exact id

theorem State.spdmSigned_keeps {q : List Instr} {n : Nat} {o : List Output} {s : State} (ep kind : Nat) (values : List Nat) (f : List Nat → List Nat → SpdmRsp) (h : Keeps q n o s) :
    Keeps q n o (State.spdmSigned s ep kind values f) := by
  unfold State.spdmSigned
  try dsimp only
  repeat' first
    | with_reducible assumption
    | with_reducible apply State.aliasSign_keeps
    | with_reducible apply State.draw_keeps
    | with_reducible apply State.emit_keeps
    | with_reducible apply State.spdmError_keeps
    | split
    | dsimp only
    | intro _
    | exact id

theorem State.spdmKeyExchange_keeps {q : List Instr} {n : Nat} {o : List Output} {s : State} (ep x y id : Nat) (h : Keeps q n o s) :
    Keeps q n o (State.spdmKeyExchange s ep x y id) := by
  unfold State.spdmKeyExchange
  try dsimp only
  repeat' first
    | with_reducible assumption
    | with_reducible apply State.aliasSign_keeps
    | with_reducible apply State.draw_keeps
    | with_reducible apply State.emit_keeps
    | with_reducible apply State.setSpdm_keeps
    | with_reducible apply State.spdmError_keeps
    | split
    | dsimp only
    | intro _
    | exact id

theorem State.spdmAnswer_keeps {q : List Instr} {n : Nat} {o : List Output} {s : State} (ep : Nat) (r : SpdmReq) (h : Keeps q n o s) :
    Keeps q n o (State.spdmAnswer s ep r) := by
  unfold State.spdmAnswer
  try dsimp only
  repeat' first
    | with_reducible assumption
    | with_reducible apply State.emit_keeps
    | with_reducible apply State.finish_keeps
    | with_reducible apply State.setSpdm_keeps
    | with_reducible apply State.spdmError_keeps
    | with_reducible apply State.spdmKeyExchange_keeps
    | with_reducible apply State.spdmSigned_keeps
    | split
    | dsimp only
    | intro _
    | exact id

theorem State.spdmRequest_keeps {q : List Instr} {n : Nat} {o : List Output} {s : State} (ep : Nat) (r : SpdmReq) (h : Keeps q n o s) :
    Keeps q n o (State.spdmRequest s ep r) := by
  unfold State.spdmRequest
  try dsimp only
  repeat' first
    | with_reducible assumption
    | with_reducible apply State.spdmAnswer_keeps
    | with_reducible apply State.spdmDefer_keeps
    | split
    | dsimp only
    | intro _
    | exact id

theorem State.spdmRespond_keeps {q : List Instr} {n : Nat} {o : List Output} {s : State} (ep token : Nat) (h : Keeps q n o s) :
    Keeps q n o (State.spdmRespond s ep token) := by
  unfold State.spdmRespond
  try dsimp only
  repeat' first
    | with_reducible assumption
    | with_reducible apply State.setSpdm_keeps
    | with_reducible apply State.spdmAnswer_keeps
    | with_reducible apply State.spdmError_keeps
    | split
    | dsimp only
    | intro _
    | exact id

theorem execGetVersion_keeps {q : List Instr} {n : Nat} {o : List Output} (ep : BitVec 2) {s : State} (h : Keeps q n o s) :
    ∃ t, execGetVersion ep s = .next t ∧ Keeps q n o t := by
  refine ⟨_, rfl, ?_⟩
  try dsimp only
  repeat' first
    | with_reducible assumption
    | with_reducible apply State.spdmRequest_keeps
    | split
    | dsimp only
    | intro _
    | exact id

theorem execGetCapabilities_keeps {q : List Instr} {n : Nat} {o : List Output} (ep : BitVec 2) {s : State} (h : Keeps q n o s) :
    ∃ t, execGetCapabilities ep s = .next t ∧ Keeps q n o t := by
  refine ⟨_, rfl, ?_⟩
  try dsimp only
  repeat' first
    | with_reducible assumption
    | with_reducible apply State.spdmRequest_keeps
    | split
    | dsimp only
    | intro _
    | exact id

theorem execNegotiateAlgorithms_keeps {q : List Instr} {n : Nat} {o : List Output} (ep : BitVec 2) (sign hash dhe aead : Bool) {s : State} (h : Keeps q n o s) :
    ∃ t, execNegotiateAlgorithms ep sign hash dhe aead s = .next t ∧ Keeps q n o t := by
  refine ⟨_, rfl, ?_⟩
  try dsimp only
  repeat' first
    | with_reducible assumption
    | with_reducible apply State.spdmRequest_keeps
    | split
    | dsimp only
    | intro _
    | exact id

theorem execGetDigests_keeps {q : List Instr} {n : Nat} {o : List Output} (ep : BitVec 2) {s : State} (h : Keeps q n o s) :
    ∃ t, execGetDigests ep s = .next t ∧ Keeps q n o t := by
  refine ⟨_, rfl, ?_⟩
  try dsimp only
  repeat' first
    | with_reducible assumption
    | with_reducible apply State.spdmRequest_keeps
    | split
    | dsimp only
    | intro _
    | exact id

theorem execGetCertificate_keeps {q : List Instr} {n : Nat} {o : List Output} (ep : BitVec 2) (slot : BitVec 4) (off len : W16) {s : State} (h : Keeps q n o s) :
    ∃ t, execGetCertificate ep slot off len s = .next t ∧ Keeps q n o t := by
  refine ⟨_, rfl, ?_⟩
  try dsimp only
  repeat' first
    | with_reducible assumption
    | with_reducible apply State.spdmRequest_keeps
    | split
    | dsimp only
    | intro _
    | exact id

theorem execChallenge_keeps {q : List Instr} {n : Nat} {o : List Output} (ep : BitVec 2) (slot : BitVec 4) (nonce : BitVec 256) {s : State} (h : Keeps q n o s) :
    ∃ t, execChallenge ep slot nonce s = .next t ∧ Keeps q n o t := by
  refine ⟨_, rfl, ?_⟩
  try dsimp only
  repeat' first
    | with_reducible assumption
    | with_reducible apply State.spdmRequest_keeps
    | split
    | dsimp only
    | intro _
    | exact id

theorem execGetMeasurements_keeps {q : List Instr} {n : Nat} {o : List Output} (ep : BitVec 2) (index : Byte) (sign : Bool) (nonce : BitVec 256) {s : State} (h : Keeps q n o s) :
    ∃ t, execGetMeasurements ep index sign nonce s = .next t ∧ Keeps q n o t := by
  refine ⟨_, rfl, ?_⟩
  try dsimp only
  repeat' first
    | with_reducible assumption
    | with_reducible apply State.spdmRequest_keeps
    | split
    | dsimp only
    | intro _
    | exact id

theorem execKeyExchange_keeps {q : List Instr} {n : Nat} {o : List Output} (ep : BitVec 2) (x y : BitVec 384) (id : W16) {s : State} (h : Keeps q n o s) :
    ∃ t, execKeyExchange ep x y id s = .next t ∧ Keeps q n o t := by
  refine ⟨_, rfl, ?_⟩
  try dsimp only
  repeat' first
    | with_reducible assumption
    | with_reducible apply State.spdmRequest_keeps
    | split
    | dsimp only
    | intro _
    | exact id

theorem execFinish_keeps {q : List Instr} {n : Nat} {o : List Output} (ep : BitVec 2) (id : W32) (mac : Bool) (peer : Option (BitVec 768)) {s : State} (h : Keeps q n o s) :
    ∃ t, execFinish ep id mac peer s = .next t ∧ Keeps q n o t := by
  refine ⟨_, rfl, ?_⟩
  try dsimp only
  repeat' first
    | with_reducible assumption
    | with_reducible apply State.finish_keeps
    | with_reducible apply State.spdmRequest_keeps
    | split
    | dsimp only
    | intro _
    | exact id

theorem execEndSession_keeps {q : List Instr} {n : Nat} {o : List Output} (ep : BitVec 2) (id : W32) {s : State} (h : Keeps q n o s) :
    ∃ t, execEndSession ep id s = .next t ∧ Keeps q n o t := by
  refine ⟨_, rfl, ?_⟩
  try dsimp only
  repeat' first
    | with_reducible assumption
    | with_reducible apply State.spdmRequest_keeps
    | split
    | dsimp only
    | intro _
    | exact id

theorem execRespondIfReady_keeps {q : List Instr} {n : Nat} {o : List Output} (ep : BitVec 2) (token : Byte) {s : State} (h : Keeps q n o s) :
    ∃ t, execRespondIfReady ep token s = .next t ∧ Keeps q n o t := by
  refine ⟨_, rfl, ?_⟩
  try dsimp only
  repeat' first
    | with_reducible assumption
    | with_reducible apply State.spdmRespond_keeps
    | split
    | dsimp only
    | intro _
    | exact id

end Sys2Proof.Machine
end

