-- ==== Sys2Proof/Laws/KeepsIsland.lean ====
section
/-! SUPPORT. What each operation of Machine/Island.lean keeps (Laws/Keeps.lean). -/

namespace Sys2Proof.Machine

theorem State.islandLost_keeps {q : List Instr} {n : Nat} {o : List Output} {s : State} (h : Keeps q n o s) :
    Keeps q n o (State.islandLost s) := by
  unfold State.islandLost
  try dsimp only
  repeat' first
    | with_reducible assumption
    | with_reducible apply State.forAll_keeps
    | with_reducible apply State.onMgmt_keeps
    | with_reducible apply State.running_keeps
    | with_reducible apply State.setReg_keeps
    | split
    | dsimp only
    | intro _
    | exact mwf_nil
    | exact id

theorem State.measureIsland_keeps {q : List Instr} {n : Nat} {o : List Output} {s : State} (h : Keeps q n o s) :
    Keeps q n o (State.measureIsland s) := by
  unfold State.measureIsland
  try dsimp only
  repeat' first
    | with_reducible assumption
    | with_reducible apply State.running_keeps
    | with_reducible apply State.setDigest_keeps
    | split
    | dsimp only
    | intro _
    | exact id

theorem State.islandBoot_keeps {q : List Instr} {n : Nat} {o : List Output} {s : State} (ok : Bool) (h : Keeps q n o s) :
    Keeps q n o (State.islandBoot s ok) := by
  unfold State.islandBoot
  try dsimp only
  repeat' first
    | with_reducible assumption
    | with_reducible apply State.measureIsland_keeps
    | with_reducible apply State.onMgmt_keeps
    | with_reducible apply State.running_keeps
    | split
    | dsimp only
    | intro _
    | exact id

theorem State.mgmtResetLow_keeps {q : List Instr} {n : Nat} {o : List Output} {s : State} (h : Keeps q n o s) :
    Keeps q n o (State.mgmtResetLow s) := by
  unfold State.mgmtResetLow
  try dsimp only
  repeat' first
    | with_reducible assumption
    | with_reducible apply State.islandLost_keeps
    | split
    | with_reducible apply Keeps.withPins
    | dsimp only
    | intro _
    | exact id

theorem State.islandRestart_keeps {q : List Instr} {n : Nat} {o : List Output} {s : State} (powerUp ok : Bool) (straps : Nat) (h : Keeps q n o s) :
    Keeps q n o (State.islandRestart s powerUp ok straps) := by
  unfold State.islandRestart
  try dsimp only
  repeat' first
    | with_reducible assumption
    | with_reducible apply State.islandBoot_keeps
    | with_reducible apply State.powerUp_keeps
    | split
    | with_reducible apply Keeps.withPins
    | dsimp only
    | intro _
    | exact id

theorem State.islandLoad_keeps {q : List Instr} {n : Nat} {o : List Output} {s : State} (ok : Bool) (h : Keeps q n o s) :
    Keeps q n o (State.islandLoad s ok) := by
  unfold State.islandLoad
  try dsimp only
  repeat' first
    | with_reducible assumption
    | with_reducible apply State.islandBoot_keeps
    | split
    | dsimp only
    | intro _
    | exact id

theorem State.setI3c_keeps {q : List Instr} {n' : Nat} {o : List Output} {s : State} (n v : Nat) (h : Keeps q n' o s) :
    Keeps q n' o (State.setI3c s n v) := by
  unfold State.setI3c
  try dsimp only
  repeat' first
    | with_reducible assumption
    | with_reducible apply State.onMgmt_keeps
    | with_reducible apply State.setFld_keeps
    | split
    | dsimp only
    | intro _
    | exact id

theorem State.araRead_keeps {q : List Instr} {n' : Nat} {o : List Output} {s : State} (n : Nat) (h : Keeps q n' o s) :
    Keeps q n' o (State.araRead s n) := by
  unfold State.araRead
  try dsimp only
  repeat' first
    | with_reducible assumption
    | with_reducible apply State.emit_keeps
    | with_reducible apply State.onMgmt_keeps
    | split
    | dsimp only
    | intro _
    | exact id

theorem State.dropReasm_keeps {q : List Instr} {n : Nat} {o : List Output} {s : State} (ep src tag : Nat) (h : Keeps q n o s) :
    Keeps q n o (State.dropReasm s ep src tag) := by
  unfold State.dropReasm
  try dsimp only
  repeat' first
    | with_reducible assumption
    | with_reducible apply State.onMgmt_keeps
    | split
    | dsimp only
    | intro _
    | exact id

theorem State.eventAck_keeps {q : List Instr} {n : Nat} {o : List Output} {s : State} (ep : Nat) (bs : List Byte) (h : Keeps q n o s) :
    Keeps q n o (State.eventAck s ep bs) := by
  unfold State.eventAck
  try dsimp only
  repeat' first
    | with_reducible assumption
    | with_reducible apply State.onMgmt_keeps
    | split
    | dsimp only
    | intro _
    | exact id

theorem State.mctpMessage_keeps {q : List Instr} {n : Nat} {o : List Output} {s : State} (ep src : Nat) (bs : List Byte) (h : Keeps q n o s) :
    Keeps q n o (State.mctpMessage s ep src bs) := by
  unfold State.mctpMessage
  try dsimp only
  repeat' first
    | with_reducible assumption
    | with_reducible apply State.emit_keeps
    | with_reducible apply State.eventAck_keeps
    | split
    | dsimp only
    | intro _
    | exact id

theorem State.mctpPacket_keeps {q : List Instr} {n : Nat} {o : List Output} {s : State} (ep : Nat) (pec : Bool) (src dst tag sq : Nat) (som eom : Bool) (bs : List Byte) (h : Keeps q n o s) :
    Keeps q n o (State.mctpPacket s ep pec src dst tag sq som eom bs) := by
  unfold State.mctpPacket
  try dsimp only
  repeat' first
    | with_reducible assumption
    | with_reducible apply State.count_keeps
    | with_reducible apply State.dropReasm_keeps
    | with_reducible apply State.mctpMessage_keeps
    | with_reducible apply State.onMgmt_keeps
    | split
    | dsimp only
    | intro _
    | exact id

theorem State.reasmTimeout_keeps {q : List Instr} {n : Nat} {o : List Output} {s : State} (ep src tag : Nat) (h : Keeps q n o s) :
    Keeps q n o (State.reasmTimeout s ep src tag) := by
  unfold State.reasmTimeout
  try dsimp only
  repeat' first
    | with_reducible assumption
    | with_reducible apply State.count_keeps
    | with_reducible apply State.dropReasm_keeps
    | split
    | dsimp only
    | intro _
    | exact id

theorem State.setEid_keeps {q : List Instr} {n : Nat} {o : List Output} {s : State} (ep eid : Nat) (h : Keeps q n o s) :
    Keeps q n o (State.setEid s ep eid) := by
  unfold State.setEid
  try dsimp only
  repeat' first
    | with_reducible assumption
    | with_reducible apply State.setFld_keeps
    | split
    | dsimp only
    | intro _
    | exact id

theorem State.pldmRequest_keeps {q : List Instr} {n : Nat} {o : List Output} {s : State} (ep src type inst : Nat) {f : State → State × List Nat}
    (hf : ∀ t, Keeps q n o t → Keeps q n o (f t).1) (h : Keeps q n o s) :
    Keeps q n o (State.pldmRequest s ep src type inst f) := by
  unfold State.pldmRequest
  try dsimp only
  repeat' first
    | with_reducible assumption
    | with_reducible apply hf
    | with_reducible apply State.count_keeps
    | with_reducible apply State.emit_keeps
    | with_reducible apply State.onMgmt_keeps
    | split
    | dsimp only
    | intro _
    | exact id

theorem State.sensorPut_keeps {q : List Instr} {n : Nat} {o : List Output} {s : State} (i v : Nat) (h : Keeps q n o s) :
    Keeps q n o (State.sensorPut s i v) := by
  unfold State.sensorPut
  try dsimp only
  repeat' first
    | with_reducible assumption
    | with_reducible apply State.forAll_keeps
    | with_reducible apply State.onMgmt_keeps
    | with_reducible apply State.pldmEvent_keeps
    | with_reducible apply mwf_mset
    | split
    | dsimp only
    | intro _
    | exact id

theorem State.fwSettle_keeps {q : List Instr} {n : Nat} {o : List Output} {s : State} (h : Keeps q n o s) :
    Keeps q n o (State.fwSettle s) := by
  unfold State.fwSettle
  try dsimp only
  repeat' first
    | with_reducible assumption
    | with_reducible apply State.onMgmt_keeps
    | with_reducible apply State.pldmEvent_keeps
    | split
    | dsimp only
    | intro _
    | exact id

theorem State.stackTemps_keeps {q : List Instr} {n : Nat} {o : List Output} {s : State} (ts : List Nat) (h : Keeps q n o s) :
    Keeps q n o (State.stackTemps s ts) := by
  unfold State.stackTemps
  try dsimp only
  repeat' first
    | with_reducible assumption
    | with_reducible apply State.forAll_keeps
    | with_reducible apply State.setReg_keeps
    | split
    | dsimp only
    | intro _
    | exact id

theorem State.sensorRefresh_keeps {q : List Instr} {n : Nat} {o : List Output} {s : State} (power power1s amps : Nat) (dies stk : List Nat) (h : Keeps q n o s) :
    Keeps q n o (State.sensorRefresh s power power1s amps dies stk) := by
  unfold State.sensorRefresh
  try dsimp only
  repeat' first
    | with_reducible assumption
    | with_reducible apply State.forAll_keeps
    | with_reducible apply State.fwSettle_keeps
    | with_reducible apply State.sensorPut_keeps
    | with_reducible apply State.setFld_keeps
    | with_reducible apply State.setReg_keeps
    | with_reducible apply State.stackTemps_keeps
    | split
    | dsimp only
    | intro _
    | exact id

theorem State.sensorReading_keeps {q : List Instr} {n : Nat} {o : List Output} {s : State} (i : Nat) (h : Keeps q n o s) :
    Keeps q n o (State.sensorReading s i).1 := by
  unfold State.sensorReading
  try dsimp only
  repeat' first
    | with_reducible assumption
    | split
    | dsimp only
    | intro _
    | exact id

theorem State.eventRetry_keeps {q : List Instr} {n : Nat} {o : List Output} {s : State} (id : Nat) (h : Keeps q n o s) :
    Keeps q n o (State.eventRetry s id) := by
  unfold State.eventRetry
  try dsimp only
  repeat' first
    | with_reducible assumption
    | with_reducible apply State.emit_keeps
    | with_reducible apply State.onMgmt_keeps
    | with_reducible apply State.pldmEvent_keeps
    | split
    | dsimp only
    | intro _
    | exact id

theorem execMgmtResetAssert_keeps {q : List Instr} {n : Nat} {o : List Output} {s : State} (h : Keeps q n o s) :
    ∃ t, execMgmtResetAssert s = .next t ∧ Keeps q n o t := by
  refine ⟨_, rfl, ?_⟩
  try dsimp only
  repeat' first
    | with_reducible assumption
    | with_reducible apply State.mgmtResetLow_keeps
    | split
    | dsimp only
    | intro _
    | exact id

theorem execIslandRestart_keeps {q : List Instr} {n : Nat} {o : List Output} (powerUp ok : Bool) (straps : BitVec 3) {s : State} (h : Keeps q n o s) :
    ∃ t, execIslandRestart powerUp ok straps s = .next t ∧ Keeps q n o t := by
  refine ⟨_, rfl, ?_⟩
  try dsimp only
  repeat' first
    | with_reducible assumption
    | with_reducible apply State.islandRestart_keeps
    | with_reducible apply State.powerUp_keeps
    | split
    | dsimp only
    | intro _
    | exact id

theorem execIslandLoadRestart_keeps {q : List Instr} {n : Nat} {o : List Output} (ok : Bool) {s : State} (h : Keeps q n o s) :
    ∃ t, execIslandLoadRestart ok s = .next t ∧ Keeps q n o t := by
  refine ⟨_, rfl, ?_⟩
  try dsimp only
  repeat' first
    | with_reducible assumption
    | with_reducible apply State.islandLoad_keeps
    | split
    | dsimp only
    | intro _
    | exact id

theorem execEntdaa_keeps {q : List Instr} {n : Nat} {o : List Output} (port : Fin 2) {s : State} (h : Keeps q n o s) :
    ∃ t, execEntdaa port s = .next t ∧ Keeps q n o t := by
  refine ⟨_, rfl, ?_⟩
  try dsimp only
  repeat' first
    | with_reducible assumption
    | with_reducible apply State.setI3c_keeps
    | split
    | dsimp only
    | intro _
    | exact id

theorem execSetdasa_keeps {q : List Instr} {n : Nat} {o : List Output} (port : Fin 2) (addr : BitVec 7) {s : State} (h : Keeps q n o s) :
    ∃ t, execSetdasa port addr s = .next t ∧ Keeps q n o t := by
  refine ⟨_, rfl, ?_⟩
  try dsimp only
  repeat' first
    | with_reducible assumption
    | with_reducible apply State.setI3c_keeps
    | split
    | dsimp only
    | intro _
    | exact id

theorem execRstdaa_keeps {q : List Instr} {n : Nat} {o : List Output} (port : Fin 2) {s : State} (h : Keeps q n o s) :
    ∃ t, execRstdaa port s = .next t ∧ Keeps q n o t := by
  refine ⟨_, rfl, ?_⟩
  try dsimp only
  repeat' first
    | with_reducible assumption
    | with_reducible apply State.setI3c_keeps
    | split
    | dsimp only
    | intro _
    | exact id

theorem execMctpPacket_keeps {q : List Instr} {n : Nat} {o : List Output} (ep : BitVec 2) (pec : Bool) (src dst : Byte) (tag : BitVec 4) (seq : BitVec 2) (som eom : Bool) (bytes : List Byte) {s : State} (h : Keeps q n o s) :
    ∃ t, execMctpPacket ep pec src dst tag seq som eom bytes s = .next t ∧ Keeps q n o t := by
  refine ⟨_, rfl, ?_⟩
  try dsimp only
  repeat' first
    | with_reducible assumption
    | with_reducible apply State.mctpPacket_keeps
    | split
    | dsimp only
    | intro _
    | exact id

theorem execMctpReasmTimeout_keeps {q : List Instr} {n : Nat} {o : List Output} (ep : BitVec 2) (src : Byte) (tag : BitVec 4) {s : State} (h : Keeps q n o s) :
    ∃ t, execMctpReasmTimeout ep src tag s = .next t ∧ Keeps q n o t := by
  refine ⟨_, rfl, ?_⟩
  try dsimp only
  repeat' first
    | with_reducible assumption
    | with_reducible apply State.reasmTimeout_keeps
    | split
    | dsimp only
    | intro _
    | exact id

theorem execSetEndpointId_keeps {q : List Instr} {n : Nat} {o : List Output} (ep : BitVec 2) (eid : Byte) {s : State} (h : Keeps q n o s) :
    ∃ t, execSetEndpointId ep eid s = .next t ∧ Keeps q n o t := by
  refine ⟨_, rfl, ?_⟩
  try dsimp only
  repeat' first
    | with_reducible assumption
    | with_reducible apply State.setEid_keeps
    | split
    | dsimp only
    | intro _
    | exact id

theorem execSmbusAraRead_keeps {q : List Instr} {n : Nat} {o : List Output} (port : Fin 2) {s : State} (h : Keeps q n o s) :
    ∃ t, execSmbusAraRead port s = .next t ∧ Keeps q n o t := by
  refine ⟨_, rfl, ?_⟩
  try dsimp only
  repeat' first
    | with_reducible assumption
    | with_reducible apply State.araRead_keeps
    | split
    | dsimp only
    | intro _
    | exact id

theorem execSensorRefresh_keeps {q : List Instr} {n : Nat} {o : List Output} (power power1s amps : W16) (dies stk : List Byte) {s : State} (h : Keeps q n o s) :
    ∃ t, execSensorRefresh power power1s amps dies stk s = .next t ∧ Keeps q n o t := by
  refine ⟨_, rfl, ?_⟩
  try dsimp only
  repeat' first
    | with_reducible assumption
    | with_reducible apply State.sensorRefresh_keeps
    | split
    | dsimp only
    | intro _
    | exact id

theorem execGetSensorReading_keeps {q : List Instr} {n : Nat} {o : List Output} (ep : BitVec 2) (src : Byte) (inst : BitVec 5) (sensor : W16) {s : State} (h : Keeps q n o s) :
    ∃ t, execGetSensorReading ep src inst sensor s = .next t ∧ Keeps q n o t := by
  refine ⟨_, rfl, ?_⟩
  try dsimp only
  repeat' first
    | with_reducible assumption
    | with_reducible apply State.pldmRequest_keeps
    | with_reducible apply State.sensorReading_keeps
    | split
    | dsimp only
    | intro _
    | exact id

theorem execPldmEventRetry_keeps {q : List Instr} {n : Nat} {o : List Output} (id : Nat) {s : State} (h : Keeps q n o s) :
    ∃ t, execPldmEventRetry id s = .next t ∧ Keeps q n o t := by
  refine ⟨_, rfl, ?_⟩
  try dsimp only
  repeat' first
    | with_reducible assumption
    | with_reducible apply State.eventRetry_keeps
    | split
    | dsimp only
    | intro _
    | exact id

end Sys2Proof.Machine
end

