-- ==== Sys2Proof/Laws/KeepsKv.lean ====
section
/-! SUPPORT. What each operation of Machine/Kv.lean keeps (Laws/Keeps.lean). -/

namespace Sys2Proof.Machine

theorem State.setKvSeq_keeps {q : List Instr} {n : Nat} {o : List Output} {s : State} (x : KvSeq) (h : Keeps q n o s) :
    Keeps q n o (State.setKvSeq s x) := by
  unfold State.setKvSeq
  try dsimp only
  repeat' first
    | with_reducible assumption
    | with_reducible apply State.onKv_keeps
    | split
    | dsimp only
    | intro _
    | exact id

theorem State.dropKvSeq_keeps {q : List Instr} {n : Nat} {o : List Output} {s : State} (x : KvSeq) (h : Keeps q n o s) :
    Keeps q n o (State.dropKvSeq s x) := by
  unfold State.dropKvSeq
  try dsimp only
  repeat' first
    | with_reducible assumption
    | with_reducible apply State.onKv_keeps
    | split
    | dsimp only
    | intro _
    | exact id

theorem State.dropSlots_keeps {q' : List Instr} {n : Nat} {o : List Output} {s : State} (b p q : Nat) (h : Keeps q' n o s) :
    Keeps q' n o (State.dropSlots s b p q) := by
  unfold State.dropSlots
  try dsimp only
  repeat' first
    | with_reducible assumption
    | with_reducible apply State.onKv_keeps
    | split
    | dsimp only
    | intro _
    | exact id

theorem State.kvDieReset_keeps {q : List Instr} {n : Nat} {o : List Output} {s : State} (d : Nat) (h : Keeps q n o s) :
    Keeps q n o (State.kvDieReset s d) := by
  unfold State.kvDieReset
  try dsimp only
  repeat' first
    | with_reducible assumption
    | with_reducible apply State.onKv_keeps
    | split
    | dsimp only
    | intro _
    | exact id

theorem State.kvList_keeps {q : List Instr} {n' : Nat} {o : List Output} {s : State} (c : Cmd) (va n : Nat) (h : Keeps q n' o s) :
    Keeps q n' o (State.kvList s c va n).1 := by
  unfold State.kvList
  try dsimp only
  repeat' first
    | with_reducible assumption
    | with_reducible apply State.vaRead_keeps
    | split
    | dsimp only
    | intro _
    | exact id

theorem State.kvListFails_keeps {q : List Instr} {n : Nat} {o : List Output} {s : State} (c : Cmd) (st va : Nat) (h : Keeps q n o s) :
    Keeps q n o (State.kvListFails s c st va) := by
  unfold State.kvListFails
  try dsimp only
  repeat' first
    | with_reducible assumption
    | with_reducible apply State.finish_keeps
    | split
    | dsimp only
    | intro _
    | exact id

theorem State.takeZeroed_keeps {q : List Instr} {n' : Nat} {o : List Output} {s : State} (b n : Nat) (h : Keeps q n' o s) :
    ∀ t, State.takeZeroed s b n = some t → Keeps q n' o t.1 := by
  induction n generalizing s with
  | zero => intro t ht; cases ht; exact h
  | succ k ih =>
    intro t ht
    unfold State.takeZeroed at ht
    split at ht
    · contradiction
    · obtain ⟨r, hr, rfl⟩ := Option.map_eq_some_iff.mp ht
      exact ih (State.zeroSlab_keeps _ (State.takeSlab_keeps _ _ h)) r hr

theorem State.growSeq_keeps {q : List Instr} {n : Nat} {o : List Output} {s : State} (p : Pool) (x : KvSeq) (fuel : Nat) (h : Keeps q n o s) :
    ∀ t, State.growSeq s p x fuel = some t → Keeps q n o t.1 := by
  induction fuel generalizing s x with
  | zero => intro t ht; cases ht; exact h
  | succ k ih =>
    intro t ht
    unfold State.growSeq at ht
    split at ht
    · cases ht; exact h
    · split at ht
      · contradiction
      · exact ih _ (State.takeZeroed_keeps _ _ h _ ‹_›) t ht

theorem State.growAll_keeps {q : List Instr} {n : Nat} {o : List Output} {s : State} (p : Pool) (l : List KvSeq) (h : Keeps q n o s) :
    ∀ t, State.growAll s p l = some t → Keeps q n o t := by
  induction l generalizing s with
  | nil => intro t ht; cases ht; exact h
  | cons x r ih =>
    intro t ht
    unfold State.growAll at ht
    split at ht
    · contradiction
    · exact ih (State.setKvSeq_keeps _ (State.growSeq_keeps _ _ _ h _ ‹_›)) t ht

theorem State.pageAlloc_keeps {q : List Instr} {n : Nat} {o : List Output} (c : Cmd) {s : State} (h : Keeps q n o s) :
    Keeps q n o (State.pageAlloc c s) := by
  unfold State.pageAlloc
  try dsimp only
  repeat' first
    | with_reducible assumption
    | with_reducible apply Engine.fail_keeps
    | (refine State.admit_keeps _ _ _ ?_ _ (.inl ⟨_, ‹_ = Admitted.served _ _›⟩))
    | (refine State.admit_keeps _ _ _ ?_ _ (.inr (.inl ‹_ = Admitted.waits _›)))
    | (refine State.admit_keeps _ _ _ ?_ _ (.inr (.inr ‹_ = Admitted.refused _›)))
    | with_reducible apply State.endsWith_keeps
    | with_reducible apply State.finish_keeps
    | (refine State.growAll_keeps _ _ ?_ _ ‹_ = some _›)
    | with_reducible apply State.kvListFails_keeps
    | with_reducible apply State.kvList_keeps
    | with_reducible apply State.setUsed_keeps
    | split
    | dsimp only
    | intro _
    | exact id

theorem State.shrinkSeq_keeps {q : List Instr} {n : Nat} {o : List Output} {s : State} (x : KvSeq) (h : Keeps q n o s) :
    Keeps q n o (State.shrinkSeq s x) := by
  unfold State.shrinkSeq
  try dsimp only
  repeat' first
    | with_reducible assumption
    | with_reducible apply State.dropKvSeq_keeps
    | with_reducible apply State.dropSlots_keeps
    | with_reducible apply State.forAll_keeps
    | with_reducible apply State.giveSlab_keeps
    | with_reducible apply State.setKvSeq_keeps
    | with_reducible apply State.setUsed_keeps
    | with_reducible apply mwf_mclear
    | split
    | dsimp only
    | intro _
    | exact id

theorem State.pageFree_keeps {q : List Instr} {n : Nat} {o : List Output} (c : Cmd) {s : State} (h : Keeps q n o s) :
    Keeps q n o (State.pageFree c s) := by
  unfold State.pageFree
  try dsimp only
  repeat' first
    | with_reducible assumption
    | with_reducible apply Engine.fail_keeps
    | with_reducible apply State.endsWith_keeps
    | with_reducible apply State.finish_keeps
    | with_reducible apply State.forAll_keeps
    | with_reducible apply State.kvListFails_keeps
    | with_reducible apply State.kvList_keeps
    | with_reducible apply State.shrinkSeq_keeps
    | split
    | dsimp only
    | intro _
    | exact id

theorem State.advance_keeps {q : List Instr} {n : Nat} {o : List Output} (c : Cmd) {s : State} (h : Keeps q n o s) :
    Keeps q n o (State.advance c s) := by
  unfold State.advance
  try dsimp only
  repeat' first
    | with_reducible assumption
    | with_reducible apply Engine.fail_keeps
    | with_reducible apply State.endsWith_keeps
    | with_reducible apply State.finish_keeps
    | with_reducible apply State.forAll_keeps
    | with_reducible apply State.kvListFails_keeps
    | with_reducible apply State.kvList_keeps
    | with_reducible apply State.setKvSeq_keeps
    | split
    | dsimp only
    | intro _
    | exact id

theorem State.homePut_keeps {q : List Instr} {n : Nat} {o : List Output} {s : State} (x : KvSeq) (page off : Nat) (bs : List PByte) (h : Keeps q n o s) :
    Keeps q n o (State.homePut s x page off bs) := by
  unfold State.homePut
  try dsimp only
  repeat' first
    | with_reducible assumption
    | with_reducible apply State.forAll_keeps
    | with_reducible apply State.hbmPut_keeps
    | split
    | dsimp only
    | intro _
    | exact id

theorem State.digestPage_keeps {q : List Instr} {n : Nat} {o : List Output} {s : State} (p : Pool) (x : KvSeq) (page l g gk : Nat) (h : Keeps q n o s) :
    Keeps q n o (State.digestPage s p x page l g gk) := by
  unfold State.digestPage
  try dsimp only
  repeat' first
    | with_reducible assumption
    | with_reducible apply State.count_keeps
    | with_reducible apply State.draw_keeps
    | with_reducible apply State.homePut_keeps
    | with_reducible apply State.setKvSeq_keeps
    | with_reducible apply mwf_markPut
    | split
    | dsimp only
    | intro _
    | exact id

theorem State.spadPut_keeps {q : List Instr} {n : Nat} {o : List Output} {s : State} (d p a : Nat) (bs : List PByte) (h : Keeps q n o s) :
    Keeps q n o (State.spadPut s d p a bs) := by
  unfold State.spadPut
  try dsimp only
  repeat' first
    | with_reducible assumption
    | with_reducible apply Engine.dmaWrite_keeps
    | with_reducible apply State.setEng_keeps
    | with_reducible refine Keeps.eng (q := q) (n := n) (o := o) ?_ _ _
    | split
    | dsimp only
    | intro _
    | exact id

theorem State.commitWin_keeps {q : List Instr} {n : Nat} {o : List Output} {s : State} (w : KvWin) (h : Keeps q n o s) :
    Keeps q n o (State.commitWin s w) := by
  unfold State.commitWin
  try dsimp only
  repeat' first
    | with_reducible assumption
    | with_reducible apply State.digestPage_keeps
    | with_reducible apply State.forAll_keeps
    | with_reducible apply State.homePut_keeps
    | with_reducible refine Keeps.eng (q := q) (n := n) (o := o) ?_ _ _
    | split
    | dsimp only
    | (with_reducible refine Engine.Canonical.spad ?_; first | with_reducible assumption | with_reducible refine Keeps.eng (q := q) (n := n) (o := o) ?_ _ _)
    | (with_reducible refine Engine.Canonical.poison ?_; first | with_reducible assumption | with_reducible refine Keeps.eng (q := q) (n := n) (o := o) ?_ _ _)
    | (with_reducible refine Engine.Canonical.acc ?_; first | with_reducible assumption | with_reducible refine Keeps.eng (q := q) (n := n) (o := o) ?_ _ _)
    | (with_reducible refine Engine.Canonical.vreg ?_; first | with_reducible assumption | with_reducible refine Keeps.eng (q := q) (n := n) (o := o) ?_ _ _)
    | (with_reducible refine Engine.Canonical.set0 ?_; first | with_reducible assumption | with_reducible refine Keeps.eng (q := q) (n := n) (o := o) ?_ _ _)
    | (with_reducible refine Engine.Canonical.set1 ?_; first | with_reducible assumption | with_reducible refine Keeps.eng (q := q) (n := n) (o := o) ?_ _ _)
    | (with_reducible refine Engine.Canonical.tags ?_; first | with_reducible assumption | with_reducible refine Keeps.eng (q := q) (n := n) (o := o) ?_ _ _)
    | (with_reducible refine Engine.Canonical.kept ?_; first | with_reducible assumption | with_reducible refine Keeps.eng (q := q) (n := n) (o := o) ?_ _ _)
    | exact Engine.zero_canonical
    | with_reducible refine Engine.Canonical.mk ?_ ?_ ?_ ?_ ?_ ?_ ?_ ?_
    | intro _
    | exact id

theorem State.gatherPage_keeps {q : List Instr} {n : Nat} {o : List Output} {s : State} (w : KvWin) (p : Pool) (x : KvSeq) (slot page keep : Nat) (m : Medium) (h : Keeps q n o s) :
    Keeps q n o (State.gatherPage s w p x slot page keep m).1 := by
  unfold State.gatherPage
  try dsimp only
  repeat' first
    | with_reducible assumption
    | with_reducible apply Engine.keep_keeps
    | with_reducible apply State.count_keeps
    | with_reducible apply State.hbmCount_keeps
    | with_reducible apply State.meetMedium_keeps
    | with_reducible apply State.moved_keeps
    | with_reducible apply State.spadPut_keeps
    | split
    | dsimp only
    | intro _
    | exact id

theorem State.setWin_keeps {q : List Instr} {n : Nat} {o : List Output} {s : State} (w : KvWin) (h : Keeps q n o s) :
    Keeps q n o (State.setWin s w) := by
  unfold State.setWin
  try dsimp only
  repeat' first
    | with_reducible assumption
    | with_reducible apply State.onKv_keeps
    | split
    | dsimp only
    | intro _
    | exact id

theorem State.gatherWin_keeps {q : List Instr} {n : Nat} {o : List Output} {s : State} (c : Cmd) (p : Pool) (w0 : KvWin) (es : List (KvSeq × Nat)) (sels : List (List Nat)) (idx : Nat) (m : Medium) (h : Keeps q n o s) :
    Keeps q n o (State.gatherWin s c p w0 es sels idx m) := by
  unfold State.gatherWin
  try dsimp only
  repeat' first
    | with_reducible assumption
    | with_reducible apply Engine.keep_keeps
    | with_reducible apply State.count_keeps
    | with_reducible apply State.endsWith_keeps
    | with_reducible apply State.finish_keeps
    | with_reducible apply State.gatherPage_keeps
    | with_reducible apply State.setWin_keeps
    | with_reducible apply State.spadPut_keeps
    | with_reducible apply State.tickStamp_keeps
    | with_reducible apply foldl_state
    | with_reducible apply foldl_fst_state
    | with_reducible apply mwf_foldl
    | with_reducible refine Keeps.eng (q := q) (n := n) (o := o) ?_ _ _
    | split
    | dsimp only
    | (with_reducible refine Engine.Canonical.spad ?_; first | with_reducible assumption | with_reducible refine Keeps.eng (q := q) (n := n) (o := o) ?_ _ _ | with_reducible apply foldl_engine | with_reducible apply Engine.keep_keeps)
    | (with_reducible refine Engine.Canonical.poison ?_; first | with_reducible assumption | with_reducible refine Keeps.eng (q := q) (n := n) (o := o) ?_ _ _ | with_reducible apply foldl_engine | with_reducible apply Engine.keep_keeps)
    | (with_reducible refine Engine.Canonical.acc ?_; first | with_reducible assumption | with_reducible refine Keeps.eng (q := q) (n := n) (o := o) ?_ _ _ | with_reducible apply foldl_engine | with_reducible apply Engine.keep_keeps)
    | (with_reducible refine Engine.Canonical.vreg ?_; first | with_reducible assumption | with_reducible refine Keeps.eng (q := q) (n := n) (o := o) ?_ _ _ | with_reducible apply foldl_engine | with_reducible apply Engine.keep_keeps)
    | (with_reducible refine Engine.Canonical.set0 ?_; first | with_reducible assumption | with_reducible refine Keeps.eng (q := q) (n := n) (o := o) ?_ _ _ | with_reducible apply foldl_engine | with_reducible apply Engine.keep_keeps)
    | (with_reducible refine Engine.Canonical.set1 ?_; first | with_reducible assumption | with_reducible refine Keeps.eng (q := q) (n := n) (o := o) ?_ _ _ | with_reducible apply foldl_engine | with_reducible apply Engine.keep_keeps)
    | (with_reducible refine Engine.Canonical.tags ?_; first | with_reducible assumption | with_reducible refine Keeps.eng (q := q) (n := n) (o := o) ?_ _ _ | with_reducible apply foldl_engine | with_reducible apply Engine.keep_keeps)
    | (with_reducible refine Engine.Canonical.kept ?_; first | with_reducible assumption | with_reducible refine Keeps.eng (q := q) (n := n) (o := o) ?_ _ _ | with_reducible apply foldl_engine | with_reducible apply Engine.keep_keeps)
    | exact Engine.zero_canonical
    | with_reducible refine Engine.Canonical.mk ?_ ?_ ?_ ?_ ?_ ?_ ?_ ?_
    | intro _
    | exact id

theorem State.windowQuery_keeps {q : List Instr} {n : Nat} {o : List Output} {s : State} (c : Cmd) (h : Keeps q n o s) :
    Keeps q n o (State.windowQuery s c).1 := by
  unfold State.windowQuery
  try dsimp only
  repeat' first
    | with_reducible assumption
    | with_reducible apply State.vaRead_keeps
    | split
    | dsimp only
    | intro _
    | exact id

theorem State.ptGather_keeps {q : List Instr} {n : Nat} {o : List Output} {s : State} (c : Cmd) (m : Medium) (es : List (Nat × Nat)) (query : List Byte) (h : Keeps q n o s) :
    Keeps q n o (State.ptGather s c m es query) := by
  unfold State.ptGather
  try dsimp only
  repeat' first
    | with_reducible assumption
    | with_reducible apply State.commitWin_keeps
    | with_reducible apply State.finish_keeps
    | with_reducible apply State.gatherWin_keeps
    | with_reducible apply State.setWin_keeps
    | with_reducible apply foldl_state
    | with_reducible apply foldl_fst_state
    | with_reducible apply mwf_foldl
    | split
    | dsimp only
    | intro _
    | exact id

theorem State.ptEntries_keeps {q : List Instr} {n : Nat} {o : List Output} {s : State} (c : Cmd) (m : Medium) (es : List (Nat × Nat)) (query : List Byte) (h : Keeps q n o s) :
    Keeps q n o (State.ptEntries s c m es query) := by
  unfold State.ptEntries
  try dsimp only
  repeat' first
    | with_reducible assumption
    | with_reducible apply Engine.fail_keeps
    | with_reducible apply State.finish_keeps
    | with_reducible apply State.ptGather_keeps
    | split
    | dsimp only
    | intro _
    | exact id

theorem State.ptRead_keeps {q : List Instr} {n : Nat} {o : List Output} {s : State} (c : Cmd) (m : Medium) (h : Keeps q n o s) :
    Keeps q n o (State.ptRead s c m) := by
  unfold State.ptRead
  try dsimp only
  repeat' first
    | with_reducible assumption
    | with_reducible apply Engine.fail_keeps
    | with_reducible apply State.kvListFails_keeps
    | with_reducible apply State.kvList_keeps
    | with_reducible apply State.ptEntries_keeps
    | with_reducible apply State.windowQuery_keeps
    | split
    | dsimp only
    | intro _
    | exact id

theorem State.ptWindow_keeps {q : List Instr} {n : Nat} {o : List Output} (m : Medium) (c : Cmd) {s : State} (h : Keeps q n o s) :
    Keeps q n o (State.ptWindow m c s) := by
  unfold State.ptWindow
  try dsimp only
  repeat' first
    | with_reducible assumption
    | with_reducible apply State.finish_keeps
    | with_reducible apply State.ptRead_keeps
    | split
    | dsimp only
    | intro _
    | exact id

theorem State.swapOut_keeps {q : List Instr} {n : Nat} {o : List Output} (m : Medium) (c : Cmd) {s : State} (h : Keeps q n o s) :
    Keeps q n o (State.swapOut m c s) := by
  unfold State.swapOut
  try dsimp only
  repeat' first
    | with_reducible assumption
    | with_reducible apply Engine.fail_keeps
    | with_reducible apply State.dropSlots_keeps
    | with_reducible apply State.finish_keeps
    | with_reducible apply State.forAll_keeps
    | with_reducible apply State.kvListFails_keeps
    | with_reducible apply State.meetMedium_keeps
    | with_reducible apply State.sawBad_keeps
    | with_reducible apply State.setCmd_keeps
    | with_reducible apply State.setKvSeq_keeps
    | with_reducible apply State.t3Send_keeps
    | split
    | dsimp only
    | intro _
    | exact id

theorem State.swapOutEnds_keeps {q : List Instr} {n : Nat} {o : List Output} {s : State} (c : Cmd) (fail : Bool) (h : Keeps q n o s) :
    Keeps q n o (State.swapOutEnds s c fail) := by
  unfold State.swapOutEnds
  try dsimp only
  repeat' first
    | with_reducible assumption
    | with_reducible apply Engine.fail_keeps
    | with_reducible apply State.count_keeps
    | with_reducible apply State.endsWith_keeps
    | with_reducible apply State.forAll_keeps
    | with_reducible apply State.giveSlab_keeps
    | with_reducible apply State.kvListFails_keeps
    | with_reducible apply State.setKvSeq_keeps
    | with_reducible apply State.setUsed_keeps
    | split
    | dsimp only
    | intro _
    | exact id

theorem State.swapIn_keeps {q : List Instr} {n : Nat} {o : List Output} (c : Cmd) {s : State} (h : Keeps q n o s) :
    Keeps q n o (State.swapIn c s) := by
  unfold State.swapIn
  try dsimp only
  repeat' first
    | with_reducible assumption
    | (refine State.admit_keeps _ _ _ ?_ _ (.inl ⟨_, ‹_ = Admitted.served _ _›⟩))
    | (refine State.admit_keeps _ _ _ ?_ _ (.inr (.inl ‹_ = Admitted.waits _›)))
    | (refine State.admit_keeps _ _ _ ?_ _ (.inr (.inr ‹_ = Admitted.refused _›)))
    | with_reducible apply State.finish_keeps
    | with_reducible apply State.forAll_keeps
    | (refine State.growSeq_keeps _ _ _ ?_ _ ‹_ = some _›)
    | with_reducible apply State.setCmd_keeps
    | with_reducible apply State.setKvSeq_keeps
    | with_reducible apply State.setT3_keeps
    | with_reducible apply State.setUsed_keeps
    | with_reducible apply State.t3Fetch_keeps
    | split
    | dsimp only
    | intro _
    | exact id

theorem State.swapInEnds_keeps {q : List Instr} {n : Nat} {o : List Output} {s : State} (c : Cmd) (h : Keeps q n o s) :
    Keeps q n o (State.swapInEnds s c) := by
  unfold State.swapInEnds
  try dsimp only
  repeat' first
    | with_reducible assumption
    | with_reducible apply State.count_keeps
    | with_reducible apply State.endsWith_keeps
    | with_reducible apply State.forAll_keeps
    | with_reducible apply State.giveSlab_keeps
    | with_reducible apply State.kvListFails_keeps
    | with_reducible refine State.onMem_keeps ?_ (fun ⟨m0, m1, m2, m3, m4, m5, m6, m7⟩ => ⟨?_, ?_, ?_, ?_, ?_, ?_, ?_, ?_⟩)
    | with_reducible apply State.setKvSeq_keeps
    | with_reducible apply State.setT3_keeps
    | with_reducible apply State.setUsed_keeps
    | with_reducible apply mwf_rangePut
    | split
    | dsimp only
    | intro _
    | exact id

theorem execPageAlloc_keeps {q : List Instr} {n : Nat} {o : List Output} (c : CmdRef) {s : State} (h : Keeps q n o s) :
    ∃ t, execPageAlloc c s = .next t ∧ Keeps q n o t := by
  refine ⟨_, rfl, ?_⟩
  try dsimp only
  repeat' first
    | with_reducible assumption
    | with_reducible apply State.pageAlloc_keeps
    | with_reducible apply State.perform_keeps
    | split
    | dsimp only
    | intro _
    | exact id

theorem execPageFree_keeps {q : List Instr} {n : Nat} {o : List Output} (c : CmdRef) {s : State} (h : Keeps q n o s) :
    ∃ t, execPageFree c s = .next t ∧ Keeps q n o t := by
  refine ⟨_, rfl, ?_⟩
  try dsimp only
  repeat' first
    | with_reducible assumption
    | with_reducible apply State.pageFree_keeps
    | with_reducible apply State.perform_keeps
    | split
    | dsimp only
    | intro _
    | exact id

theorem execPageSwapOut_keeps {q : List Instr} {n : Nat} {o : List Output} (c : CmdRef) (m : Medium) (fail : Bool) {s : State} (h : Keeps q n o s) :
    ∃ t, execPageSwapOut c m fail s = .next t ∧ Keeps q n o t := by
  refine ⟨_, rfl, ?_⟩
  try dsimp only
  repeat' first
    | with_reducible assumption
    | with_reducible apply Engine.fail_keeps
    | with_reducible apply State.perform_keeps
    | with_reducible apply State.running_keeps
    | with_reducible apply State.swapOutEnds_keeps
    | with_reducible apply State.swapOut_keeps
    | split
    | dsimp only
    | intro _
    | exact id

theorem execPageSwapIn_keeps {q : List Instr} {n : Nat} {o : List Output} (c : CmdRef) {s : State} (h : Keeps q n o s) :
    ∃ t, execPageSwapIn c s = .next t ∧ Keeps q n o t := by
  refine ⟨_, rfl, ?_⟩
  try dsimp only
  repeat' first
    | with_reducible assumption
    | with_reducible apply State.perform_keeps
    | with_reducible apply State.running_keeps
    | with_reducible apply State.swapInEnds_keeps
    | with_reducible apply State.swapIn_keeps
    | split
    | dsimp only
    | intro _
    | exact id

theorem execPtUpdateWindow_keeps {q : List Instr} {n : Nat} {o : List Output} (c : CmdRef) (m : Medium) {s : State} (h : Keeps q n o s) :
    ∃ t, execPtUpdateWindow c m s = .next t ∧ Keeps q n o t := by
  refine ⟨_, rfl, ?_⟩
  try dsimp only
  repeat' first
    | with_reducible assumption
    | with_reducible apply State.perform_keeps
    | with_reducible apply State.ptWindow_keeps
    | split
    | dsimp only
    | intro _
    | exact id

theorem execPtUpdateAdvance_keeps {q : List Instr} {n : Nat} {o : List Output} (c : CmdRef) {s : State} (h : Keeps q n o s) :
    ∃ t, execPtUpdateAdvance c s = .next t ∧ Keeps q n o t := by
  refine ⟨_, rfl, ?_⟩
  try dsimp only
  repeat' first
    | with_reducible assumption
    | with_reducible apply State.advance_keeps
    | with_reducible apply State.perform_keeps
    | with_reducible apply advance_keeps
    | split
    | dsimp only
    | intro _
    | exact id

end Sys2Proof.Machine
end

