-- ==== Sys2Proof/Laws/KeepsMesh.lean ====
section
/-! SUPPORT. What each operation of Machine/Mesh.lean keeps (Laws/Keeps.lean). -/

namespace Sys2Proof.Machine

theorem State.setRouterCopy_keeps {q : List Instr} {n : Nat} {o : List Output} {s : State} (r d : Nat) (v : Byte) (h : Keeps q n o s) :
    Keeps q n o (State.setRouterCopy s r d v) := by
  unfold State.setRouterCopy
  try dsimp only
  repeat' first
    | with_reducible assumption
    | with_reducible apply State.onMesh_keeps
    | with_reducible apply mwf_mset
    | split
    | dsimp only
    | intro _
    | exact id

theorem State.meshRequest_keeps {q : List Instr} {n : Nat} {o : List Output} {s : State} (p : MeshPkt) (h : Keeps q n o s) :
    Keeps q n o (State.meshRequest s p) := by
  unfold State.meshRequest
  try dsimp only
  repeat' first
    | with_reducible assumption
    | with_reducible apply State.emit_keeps
    | with_reducible apply State.onMesh_keeps
    | split
    | dsimp only
    | intro _
    | exact id

theorem State.meshResponse_keeps {q : List Instr} {n : Nat} {o : List Output} {s : State} (p : MeshPkt) (h : Keeps q n o s) :
    Keeps q n o (State.meshResponse s p) := by
  unfold State.meshResponse
  try dsimp only
  repeat' first
    | with_reducible assumption
    | with_reducible apply State.count_keeps
    | with_reducible apply State.emit_keeps
    | with_reducible apply State.lateArrival_keeps
    | with_reducible apply State.lateRecord_keeps
    | with_reducible apply State.onMesh_keeps
    | split
    | dsimp only
    | intro _
    | exact id

theorem State.endMesh_keeps {q : List Instr} {n : Nat} {o : List Output} {s : State} (st : Nat) (f : MeshPkt → Bool) (h : Keeps q n o s) :
    Keeps q n o (State.endMesh s st f) := by
  unfold State.endMesh
  try dsimp only
  repeat' first
    | with_reducible assumption
    | with_reducible apply State.emits_keeps
    | with_reducible apply State.onMesh_keeps
    | split
    | dsimp only
    | intro _
    | exact id

theorem State.incarnApply_keeps {q : List Instr} {n : Nat} {o : List Output} {s : State} (r d : Nat) (inc : Byte) (h : Keeps q n o s) :
    Keeps q n o (State.incarnApply s r d inc) := by
  unfold State.incarnApply
  try dsimp only
  repeat' first
    | with_reducible assumption
    | with_reducible apply State.endMesh_keeps
    | with_reducible apply State.setRouterCopy_keeps
    | split
    | dsimp only
    | intro _
    | exact id

theorem State.meshStale_keeps {q : List Instr} {n : Nat} {o : List Output} {s : State} (r : Nat) (p : MeshPkt) (h : Keeps q n o s) :
    Keeps q n o (State.meshStale s r p) := by
  unfold State.meshStale
  try dsimp only
  repeat' first
    | with_reducible assumption
    | with_reducible apply State.count_keeps
    | with_reducible apply State.raise_keeps
    | split
    | dsimp only
    | intro _
    | exact id

theorem execMeshRequest_keeps {q : List Instr} {n : Nat} {o : List Output} (p : MeshPkt) {s : State} (h : Keeps q n o s) :
    ∃ t, execMeshRequest p s = .next t ∧ Keeps q n o t := by
  refine ⟨_, rfl, ?_⟩
  try dsimp only
  repeat' first
    | with_reducible assumption
    | with_reducible apply State.meshRequest_keeps
    | split
    | dsimp only
    | intro _
    | exact id

theorem execMeshResponse_keeps {q : List Instr} {n : Nat} {o : List Output} (p : MeshPkt) {s : State} (h : Keeps q n o s) :
    ∃ t, execMeshResponse p s = .next t ∧ Keeps q n o t := by
  refine ⟨_, rfl, ?_⟩
  try dsimp only
  repeat' first
    | with_reducible assumption
    | with_reducible apply State.meshResponse_keeps
    | split
    | dsimp only
    | intro _
    | exact id

theorem execIncarnBroadcastApply_keeps {q : List Instr} {n : Nat} {o : List Output} (router die : DieId) (inc : Byte) {s : State} (h : Keeps q n o s) :
    ∃ t, execIncarnBroadcastApply router die inc s = .next t ∧ Keeps q n o t := by
  refine ⟨_, rfl, ?_⟩
  try dsimp only
  repeat' first
    | with_reducible assumption
    | with_reducible apply State.incarnApply_keeps
    | split
    | dsimp only
    | intro _
    | exact id

theorem execMeshPacketAgeExpiry_keeps {q : List Instr} {n : Nat} {o : List Output} (router : DieId) (p : MeshPkt) {s : State} (h : Keeps q n o s) :
    ∃ t, execMeshPacketAgeExpiry router p s = .next t ∧ Keeps q n o t := by
  refine ⟨_, rfl, ?_⟩
  try dsimp only
  repeat' first
    | with_reducible assumption
    | with_reducible apply State.meshStale_keeps
    | split
    | dsimp only
    | intro _
    | exact id

end Sys2Proof.Machine
end

