-- ==== Sys2Proof/Laws/KeepsRecover.lean ====
section
/-! SUPPORT. What each operation of Machine/Recover.lean keeps (Laws/Keeps.lean). -/

namespace Sys2Proof.Machine

theorem State.setDieOp_keeps {q : List Instr} {n : Nat} {o' : List Output} {s : State} (d : Nat) (o : DieOp) (h : Keeps q n o' s) :
    Keeps q n o' (State.setDieOp s d o) := by
  unfold State.setDieOp
  try dsimp only
  repeat' first
    | with_reducible assumption
    | with_reducible refine State.onFlt_keeps ?_ (fun ⟨m0, m1, m2, m3, m4, m5, m6, m7⟩ => ⟨?_, ?_, ?_, ?_, ?_, ?_, ?_, ?_⟩)
    | with_reducible apply mwf_mset
    | split
    | dsimp only
    | intro _
    | exact id

theorem State.resetDieRegs_keeps {q : List Instr} {n : Nat} {o : List Output} {s : State} (d : Nat) (h : Keeps q n o s) :
    Keeps q n o (State.resetDieRegs s d) := by
  unfold State.resetDieRegs
  try dsimp only
  repeat' first
    | with_reducible assumption
    | with_reducible apply Engine.keep_keeps
    | with_reducible refine State.Canonical.regs (Keeps.canon (q := q) (n := n) (o := o) ?_)
    | with_reducible apply mwf_mclear
    | split
    | with_reducible apply Keeps.withRegs
    | dsimp only
    | intro _
    | exact id

theorem State.dieContentsLost_keeps {q : List Instr} {n : Nat} {o : List Output} {s : State} (d : Nat) (h : Keeps q n o s) :
    Keeps q n o (State.dieContentsLost s d) := by
  unfold State.dieContentsLost
  extract_lets t s1 s2 s3 s4 s5 s6
  have h1 : Keeps q n o s1 := State.onLofts_keeps (State.draw_keeps h) fun ⟨m0, m1, m2, m3, m4⟩ =>
    by
    refine ⟨?_, ?_, ?_, ?_, ?_⟩ <;> dsimp only
    · exact mwf_mclear m0 _
    · exact mwf_mclear m1 _
    · split
      · exact mwf_mset m2 _ _
      · exact m2
    · exact mwf_mclear m3 _
    · exact mwf_mset m4 _ _
  have h3 : Keeps q n o s3 := State.kvDieReset_keeps d (State.setDomain_keeps _ _ (h1.clearEngines _))
  have h4 : Keeps q n o s4 := State.onFlt_keeps h3 fun ⟨m0, m1, m2, m3, m4, m5, m6, m7⟩ => ⟨m0, m1, m2, m3, m4, m5, m6, m7⟩
  exact State.scrubDieDone_keeps _ _ (State.scrubDie_keeps _ _
    (State.resetDieRegs_keeps _ (Keeps.withPins (State.onMesh_keeps h4 id))))

theorem State.edgeRequestsEnd_keeps {q : List Instr} {n : Nat} {o : List Output} {s : State} (d : Nat) (h : Keeps q n o s) :
    Keeps q n o (State.edgeRequestsEnd s d) := by
  unfold State.edgeRequestsEnd
  try dsimp only
  repeat' first
    | with_reducible assumption
    | with_reducible apply State.collDieReset_keeps
    | with_reducible apply State.onFab_keeps
    | with_reducible refine State.onMem_keeps ?_ (fun ⟨m0, m1, m2, m3, m4, m5, m6, m7⟩ => ⟨?_, ?_, ?_, ?_, ?_, ?_, ?_, ?_⟩)
    | with_reducible apply ended_keeps
    | split
    | dsimp only
    | intro _
    | exact id

theorem State.dropWork_keeps {q : List Instr} {n : Nat} {o : List Output} {s : State} (d st : Nat) (h : Keeps q n o s) :
    Keeps q n o (State.dropWork s d st) := by
  unfold State.dropWork
  try dsimp only
  repeat' first
    | with_reducible assumption
    | with_reducible apply State.endsDie_keeps
    | with_reducible apply State.forAll_keeps
    | with_reducible apply State.killRun_keeps
    | with_reducible refine State.onFlt_keeps ?_ (fun ⟨m0, m1, m2, m3, m4, m5, m6, m7⟩ => ⟨?_, ?_, ?_, ?_, ?_, ?_, ?_, ?_⟩)
    | with_reducible apply State.setEng_keeps
    | with_reducible apply State.setUsed_keeps
    | with_reducible refine Keeps.eng (q := q) (n := n) (o := o) ?_ _ _
    | split
    | dsimp only
    | (with_reducible refine Engine.Canonical.spad ?_; first | with_reducible assumption | with_reducible refine Keeps.eng (q := q) (n := n) (o := o) ?_ _ _)
    | (with_reducible refine Engine.Canonical.poison ?_; first | with_reducible assumption | with_reducible refine Keeps.eng (q := q) (n := n) (o := o) ?_ _ _)
    | (with_reducible refine Engine.Canonical.acc ?_; first | with_reducible assumption | with_reducible refine Keeps.eng (q := q) (n := n) (o := o) ?_ _ _)
    | (with_reducible refine Engine.Canonical.vreg ?_; first | with_reducible assumption | with_reducible refine Keeps.eng (q := q) (n := n) (o := o) ?_ _ _)
    | (with_reducible refine Engine.Canonical.set0 ?_; first | with_reducible assumption | with_reducible refine Keeps.eng (q := q) (n := n) (o := o) ?_ _ _)
    | (with_reducible refine Engine.Canonical.set1 ?_; first | with_reducible assumption | with_reducible refine Keeps.eng (q := q) (n := n) (o := o) ?_ _ _)
    | (with_reducible refine Engine.Canonical.tags ?_; first | with_reducible assumption | with_reducible refine Keeps.eng (q := q) (n := n) (o := o) ?_ _ _)
    | (with_reducible refine Engine.Canonical.kept ?_; first | with_reducible assumption | with_reducible refine Keeps.eng (q := q) (n := n) (o := o) ?_ _ _)
    | exact Engine.zero_canonical
    | with_reducible refine Engine.Canonical.mk ?_ ?_ ?_ ?_ ?_ ?_ ?_ ?_
    | intro _
    | exact id

theorem State.enterReset_keeps {q : List Instr} {n : Nat} {o : List Output} {s : State} (d : Nat) (h : Keeps q n o s) :
    Keeps q n o (State.enterReset s d) := by
  unfold State.enterReset
  try dsimp only
  repeat' first
    | with_reducible assumption
    | with_reducible apply Engine.zero_keeps
    | with_reducible apply State.bumpIncarn_keeps
    | with_reducible apply State.dieContentsLost_keeps
    | with_reducible apply State.dropWork_keeps
    | with_reducible apply State.edgeRequestsEnd_keeps
    | with_reducible apply State.forAll_keeps
    | with_reducible apply State.setDieState_keeps
    | with_reducible apply State.setPortX_keeps
    | split
    | dsimp only
    | intro _
    | exact id

theorem State.enterOn_keeps {q : List Instr} {n : Nat} {o : List Output} {s : State} (d : Nat) (h : Keeps q n o s) :
    Keeps q n o (State.enterOn s d) := by
  unfold State.enterOn
  try dsimp only
  repeat' first
    | with_reducible assumption
    | with_reducible apply State.ercArm_keeps
    | with_reducible apply State.setDieState_keeps
    | split
    | dsimp only
    | intro _
    | exact id

theorem State.leaveReset_keeps {q : List Instr} {n : Nat} {o : List Output} {s : State} (d : Nat) (h : Keeps q n o s) :
    Keeps q n o (State.leaveReset s d) := by
  unfold State.leaveReset
  try dsimp only
  repeat' first
    | with_reducible assumption
    | with_reducible apply State.enterOn_keeps
    | with_reducible apply State.enterPort_keeps
    | with_reducible apply State.forAll_keeps
    | with_reducible apply State.setPwr_keeps
    | with_reducible apply State.setReg_keeps
    | split
    | dsimp only
    | intro _
    | exact id

theorem State.doOp_keeps {q : List Instr} {n : Nat} {o : List Output} {s : State} (d op : Nat) (loss : Bool) (h : Keeps q n o s) :
    Keeps q n o (State.doOp s d op loss) := by
  unfold State.doOp
  try dsimp only
  repeat' first
    | with_reducible assumption
    | with_reducible apply State.enterOn_keeps
    | with_reducible apply State.enterReset_keeps
    | with_reducible apply State.setDieOp_keeps
    | with_reducible apply State.setDieState_keeps
    | split
    | dsimp only
    | intro _
    | exact id

theorem State.pctrl_keeps {q : List Instr} {n : Nat} {o : List Output} {s : State} (by_ : Agent) (d op : Nat) (h : Keeps q n o s) :
    Keeps q n o (State.pctrl s by_ d op) := by
  unfold State.pctrl
  try dsimp only
  repeat' first
    | with_reducible assumption
    | with_reducible apply State.doOp_keeps
    | with_reducible apply State.setFld_keeps
    | split
    | dsimp only
    | intro _
    | exact id

theorem State.drained_keeps {q : List Instr} {n : Nat} {o : List Output} {s : State} (d : Nat) (h : Keeps q n o s) :
    Keeps q n o (State.drained s d) := by
  unfold State.drained
  try dsimp only
  repeat' first
    | with_reducible assumption
    | with_reducible apply State.setDieOp_keeps
    | with_reducible apply State.setDieState_keeps
    | split
    | dsimp only
    | intro _
    | exact id

theorem State.dieDrainedRow_keeps {q : List Instr} {n : Nat} {o : List Output} {s : State} (d : Nat) (h : Keeps q n o s) :
    Keeps q n o (State.dieDrainedRow s d) := by
  unfold State.dieDrainedRow
  try dsimp only
  repeat' first
    | with_reducible assumption
    | with_reducible apply State.clearLate_keeps
    | with_reducible apply State.drained_keeps
    | split
    | dsimp only
    | intro _
    | exact id

theorem State.drainLimit_keeps {q : List Instr} {n : Nat} {o : List Output} {s : State} (d : Nat) (h : Keeps q n o s) :
    Keeps q n o (State.drainLimit s d) := by
  unfold State.drainLimit
  try dsimp only
  repeat' first
    | with_reducible assumption
    | with_reducible apply State.armLate_keeps
    | with_reducible apply State.drained_keeps
    | with_reducible apply State.endMesh_keeps
    | split
    | dsimp only
    | intro _
    | exact id

theorem State.dieLoss_keeps {q : List Instr} {n : Nat} {o : List Output} {s : State} (d : Nat) (h : Keeps q n o s) :
    Keeps q n o (State.dieLoss s d) := by
  unfold State.dieLoss
  try dsimp only
  repeat' first
    | with_reducible assumption
    | with_reducible apply State.dropWork_keeps
    | with_reducible apply State.setDieOp_keeps
    | with_reducible apply State.setDieState_keeps
    | split
    | dsimp only
    | intro _
    | exact id

theorem State.dropRoles_keeps {q : List Instr} {n : Nat} {o : List Output} {s : State} (b d : Nat) (h : Keeps q n o s) :
    Keeps q n o (State.dropRoles s b d) := by
  unfold State.dropRoles
  try dsimp only
  repeat' first
    | with_reducible assumption
    | with_reducible apply State.forAll_keeps
    | with_reducible apply State.setReg_keeps
    | split
    | dsimp only
    | intro _
    | exact id

theorem State.dieGone_keeps {q : List Instr} {n : Nat} {o : List Output} {s : State} (d : Nat) (h : Keeps q n o s) :
    Keeps q n o (State.dieGone s d) := by
  unfold State.dieGone
  try dsimp only
  repeat' first
    | with_reducible assumption
    | with_reducible apply State.bayFaultNotice_keeps
    | with_reducible apply State.dropRoles_keeps
    | with_reducible apply State.endHandling_keeps
    | with_reducible apply State.setFld_keeps
    | with_reducible apply State.teardown_keeps
    | split
    | dsimp only
    | intro _
    | exact id

theorem State.opDone_keeps {q : List Instr} {n : Nat} {o : List Output} {s : State} (d : Nat) (h : Keeps q n o s) :
    Keeps q n o (State.opDone s d) := by
  unfold State.opDone
  try dsimp only
  repeat' first
    | with_reducible assumption
    | with_reducible apply State.dieContentsLost_keeps
    | with_reducible apply State.dieGone_keeps
    | with_reducible apply State.endHandling_keeps
    | with_reducible apply State.leaveReset_keeps
    | with_reducible apply State.setDieOp_keeps
    | with_reducible apply State.setDieState_keeps
    | split
    | dsimp only
    | intro _
    | exact id

theorem State.deviceNotice_keeps {q : List Instr} {n : Nat} {o : List Output} {s : State} (h : Keeps q n o s) :
    Keeps q n o (State.deviceNotice s) := by
  unfold State.deviceNotice
  try dsimp only
  repeat' first
    | with_reducible assumption
    | with_reducible apply State.forAll_keeps
    | with_reducible apply State.notice_keeps
    | with_reducible apply State.setFld_keeps
    | split
    | dsimp only
    | intro _
    | exact id

theorem State.deviceLevel_keeps {q : List Instr} {n : Nat} {o : List Output} {s : State} (h : Keeps q n o s) :
    Keeps q n o (State.deviceLevel s) := by
  unfold State.deviceLevel
  try dsimp only
  repeat' first
    | with_reducible assumption
    | with_reducible apply State.deviceNotice_keeps
    | with_reducible apply State.enterPort_keeps
    | with_reducible apply State.forAll_keeps
    | with_reducible refine State.onFlt_keeps ?_ (fun ⟨m0, m1, m2, m3, m4, m5, m6, m7⟩ => ⟨?_, ?_, ?_, ?_, ?_, ?_, ?_, ?_⟩)
    | with_reducible apply State.pldmEvent_keeps
    | with_reducible apply State.scrubStart_keeps
    | split
    | dsimp only
    | intro _
    | exact id

theorem State.handle_keeps {q : List Instr} {n : Nat} {o : List Output} {s : State} (h : Handling) (hk : Keeps q n o s) :
    Keeps q n o (State.handle s h) := by
  unfold State.handle
  try dsimp only
  repeat' first
    | with_reducible assumption
    | with_reducible apply State.deviceLevel_keeps
    | with_reducible apply State.deviceNotice_keeps
    | with_reducible apply State.dieLoss_keeps
    | with_reducible apply State.doOp_keeps
    | with_reducible apply State.endHandling_keeps
    | with_reducible apply State.setHandling_keeps
    | with_reducible apply State.teardown_keeps
    | split
    | dsimp only
    | intro _
    | exact id

theorem State.settle_keeps {q : List Instr} {n : Nat} {o : List Output} {s : State} (h : Keeps q n o s) :
    Keeps q n o (State.settle s) := by
  unfold State.settle
  try dsimp only
  repeat' first
    | with_reducible assumption
    | with_reducible apply State.forAll_keeps
    | with_reducible apply State.handle_keeps
    | split
    | dsimp only
    | intro _
    | exact id

theorem State.edgeReturn_keeps {q : List Instr} {n : Nat} {o : List Output} {s : State} (d : Nat) (h : Keeps q n o s) :
    Keeps q n o (State.edgeReturn s d) := by
  unfold State.edgeReturn
  try dsimp only
  repeat' first
    | with_reducible assumption
    | with_reducible apply State.raise_keeps
    | split
    | dsimp only
    | intro _
    | exact id

theorem State.moveParts_keeps {q : List Instr} {n : Nat} {o : List Output} {s : State} (d log p : Nat) (h : Keeps q n o s) :
    Keeps q n o (State.moveParts s d log p) := by
  unfold State.moveParts
  try dsimp only
  repeat' first
    | with_reducible assumption
    | with_reducible refine State.onCq_keeps ?_ (fun ⟨m0, m1, m2, m3⟩ => ⟨?_, ?_, ?_, ?_⟩)
    | split
    | dsimp only
    | intro _
    | exact id

theorem State.reenter_keeps {q : List Instr} {n : Nat} {o : List Output} {s : State} (d p : Nat) (l : Launch) (h : Keeps q n o s) :
    Keeps q n o (State.reenter s d p l) := by
  unfold State.reenter
  try dsimp only
  repeat' first
    | with_reducible assumption
    | with_reducible apply State.enqueue_keeps
    | with_reducible apply State.handle_keeps
    | with_reducible refine Keeps.eng (q := q) (n := n) (o := o) ?_ _ _
    | split
    | dsimp only
    | (with_reducible refine Engine.Canonical.spad ?_; first | with_reducible assumption | with_reducible refine Keeps.eng (q := q) (n := n) (o := o) ?_ _ _)
    | (with_reducible refine Engine.Canonical.poison ?_; first | with_reducible assumption | with_reducible refine Keeps.eng (q := q) (n := n) (o := o) ?_ _ _)
    | (with_reducible refine Engine.Canonical.acc ?_; first | with_reducible assumption | with_reducible refine Keeps.eng (q := q) (n := n) (o := o) ?_ _ _)
    | (with_reducible refine Engine.Canonical.vreg ?_; first | with_reducible assumption | with_reducible refine Keeps.eng (q := q) (n := n) (o := o) ?_ _ _)
    | (with_reducible refine Engine.Canonical.set0 ?_; first | with_reducible assumption | with_reducible refine Keeps.eng (q := q) (n := n) (o := o) ?_ _ _)
    | (with_reducible refine Engine.Canonical.set1 ?_; first | with_reducible assumption | with_reducible refine Keeps.eng (q := q) (n := n) (o := o) ?_ _ _)
    | (with_reducible refine Engine.Canonical.tags ?_; first | with_reducible assumption | with_reducible refine Keeps.eng (q := q) (n := n) (o := o) ?_ _ _)
    | (with_reducible refine Engine.Canonical.kept ?_; first | with_reducible assumption | with_reducible refine Keeps.eng (q := q) (n := n) (o := o) ?_ _ _)
    | exact Engine.zero_canonical
    | with_reducible refine Engine.Canonical.mk ?_ ?_ ?_ ?_ ?_ ?_ ?_ ?_
    | intro _
    | exact id

theorem State.resume_keeps {q : List Instr} {n : Nat} {o : List Output} {s : State} (d p : Nat) (t : EngTest) (held : List Launch) (h : Keeps q n o s) :
    Keeps q n o (State.resume s d p t held) := by
  unfold State.resume
  try dsimp only
  repeat' first
    | with_reducible assumption
    | with_reducible apply Engine.zero_keeps
    | with_reducible apply State.count_keeps
    | with_reducible apply State.endHandling_keeps
    | with_reducible apply State.forAll_keeps
    | with_reducible refine State.onFlt_keeps ?_ (fun ⟨m0, m1, m2, m3, m4, m5, m6, m7⟩ => ⟨?_, ?_, ?_, ?_, ?_, ?_, ?_, ?_⟩)
    | with_reducible apply State.partEnd_keeps
    | with_reducible apply State.reenter_keeps
    | with_reducible apply State.setEng_keeps
    | with_reducible apply State.setUsed_keeps
    | with_reducible refine Keeps.eng (q := q) (n := n) (o := o) ?_ _ _
    | split
    | dsimp only
    | (with_reducible refine Engine.Canonical.spad ?_; first | with_reducible assumption | with_reducible refine Keeps.eng (q := q) (n := n) (o := o) ?_ _ _ | with_reducible apply Engine.zero_keeps)
    | (with_reducible refine Engine.Canonical.poison ?_; first | with_reducible assumption | with_reducible refine Keeps.eng (q := q) (n := n) (o := o) ?_ _ _ | with_reducible apply Engine.zero_keeps)
    | (with_reducible refine Engine.Canonical.acc ?_; first | with_reducible assumption | with_reducible refine Keeps.eng (q := q) (n := n) (o := o) ?_ _ _ | with_reducible apply Engine.zero_keeps)
    | (with_reducible refine Engine.Canonical.vreg ?_; first | with_reducible assumption | with_reducible refine Keeps.eng (q := q) (n := n) (o := o) ?_ _ _ | with_reducible apply Engine.zero_keeps)
    | (with_reducible refine Engine.Canonical.set0 ?_; first | with_reducible assumption | with_reducible refine Keeps.eng (q := q) (n := n) (o := o) ?_ _ _ | with_reducible apply Engine.zero_keeps)
    | (with_reducible refine Engine.Canonical.set1 ?_; first | with_reducible assumption | with_reducible refine Keeps.eng (q := q) (n := n) (o := o) ?_ _ _ | with_reducible apply Engine.zero_keeps)
    | (with_reducible refine Engine.Canonical.tags ?_; first | with_reducible assumption | with_reducible refine Keeps.eng (q := q) (n := n) (o := o) ?_ _ _ | with_reducible apply Engine.zero_keeps)
    | (with_reducible refine Engine.Canonical.kept ?_; first | with_reducible assumption | with_reducible refine Keeps.eng (q := q) (n := n) (o := o) ?_ _ _ | with_reducible apply Engine.zero_keeps)
    | exact Engine.zero_canonical
    | with_reducible refine Engine.Canonical.mk ?_ ?_ ?_ ?_ ?_ ?_ ?_ ?_
    | intro _
    | exact id

theorem State.testDone_keeps {q : List Instr} {n : Nat} {o : List Output} {s : State} (d p : Nat) (pass ok : Bool) (h : Keeps q n o s) :
    Keeps q n o (State.testDone s d p pass ok) := by
  unfold State.testDone
  try dsimp only
  repeat' first
    | with_reducible assumption
    | with_reducible apply State.endHandling_keeps
    | with_reducible apply State.forAll_keeps
    | with_reducible apply State.moveParts_keeps
    | with_reducible refine State.onFlt_keeps ?_ (fun ⟨m0, m1, m2, m3, m4, m5, m6, m7⟩ => ⟨?_, ?_, ?_, ?_, ?_, ?_, ?_, ?_⟩)
    | with_reducible apply State.partEnd_keeps
    | with_reducible apply State.resume_keeps
    | with_reducible apply State.selfTest_keeps
    | with_reducible apply State.setEng_keeps
    | with_reducible apply State.setFailed_keeps
    | with_reducible apply State.setPwr_keeps
    | with_reducible apply State.setReg_keeps
    | with_reducible apply State.setSpare_keeps
    | with_reducible apply State.setUsed_keeps
    | with_reducible refine Keeps.eng (q := q) (n := n) (o := o) ?_ _ _
    | split
    | dsimp only
    | (with_reducible refine Engine.Canonical.spad ?_; first | with_reducible assumption | with_reducible refine Keeps.eng (q := q) (n := n) (o := o) ?_ _ _)
    | (with_reducible refine Engine.Canonical.poison ?_; first | with_reducible assumption | with_reducible refine Keeps.eng (q := q) (n := n) (o := o) ?_ _ _)
    | (with_reducible refine Engine.Canonical.acc ?_; first | with_reducible assumption | with_reducible refine Keeps.eng (q := q) (n := n) (o := o) ?_ _ _)
    | (with_reducible refine Engine.Canonical.vreg ?_; first | with_reducible assumption | with_reducible refine Keeps.eng (q := q) (n := n) (o := o) ?_ _ _)
    | (with_reducible refine Engine.Canonical.set0 ?_; first | with_reducible assumption | with_reducible refine Keeps.eng (q := q) (n := n) (o := o) ?_ _ _)
    | (with_reducible refine Engine.Canonical.set1 ?_; first | with_reducible assumption | with_reducible refine Keeps.eng (q := q) (n := n) (o := o) ?_ _ _)
    | (with_reducible refine Engine.Canonical.tags ?_; first | with_reducible assumption | with_reducible refine Keeps.eng (q := q) (n := n) (o := o) ?_ _ _)
    | (with_reducible refine Engine.Canonical.kept ?_; first | with_reducible assumption | with_reducible refine Keeps.eng (q := q) (n := n) (o := o) ?_ _ _)
    | exact Engine.zero_canonical
    | with_reducible refine Engine.Canonical.mk ?_ ?_ ?_ ?_ ?_ ?_ ?_ ?_
    | intro _
    | exact id

theorem State.fifoPop_keeps {q : List Instr} {n : Nat} {o : List Output} {s : State} (d : Nat) (h : Keeps q n o s) :
    Keeps q n o (State.fifoPop s d) := by
  unfold State.fifoPop
  try dsimp only
  repeat' first
    | with_reducible assumption
    | with_reducible apply State.setDomain_keeps
    | split
    | dsimp only
    | intro _
    | exact id

theorem State.ercTick_keeps {q : List Instr} {n : Nat} {o : List Output} {s : State} (d : Nat) (h : Keeps q n o s) :
    Keeps q n o (State.ercTick s d) := by
  unfold State.ercTick
  try dsimp only
  repeat' first
    | with_reducible assumption
    | with_reducible apply State.setReg_keeps
    | split
    | dsimp only
    | intro _
    | exact id

theorem execErrFifoPop_keeps {q : List Instr} {n : Nat} {o : List Output} (die : DieId) {s : State} (h : Keeps q n o s) :
    ∃ t, execErrFifoPop die s = .next t ∧ Keeps q n o t := by
  refine ⟨_, rfl, ?_⟩
  try dsimp only
  repeat' first
    | with_reducible assumption
    | with_reducible apply State.fifoPop_keeps
    | split
    | dsimp only
    | intro _
    | exact id

theorem execEngineTestDone_keeps {q : List Instr} {n : Nat} {o : List Output} (die : CDie) (eng : PhysEng) (pass ok : Bool) {s : State} (h : Keeps q n o s) :
    ∃ t, execEngineTestDone die eng pass ok s = .next t ∧ Keeps q n o t := by
  refine ⟨_, rfl, ?_⟩
  try dsimp only
  repeat' first
    | with_reducible assumption
    | with_reducible apply State.testDone_keeps
    | split
    | dsimp only
    | intro _
    | exact id

theorem execEdgeReturnTimeout_keeps {q : List Instr} {n : Nat} {o : List Output} (die : EDie) {s : State} (h : Keeps q n o s) :
    ∃ t, execEdgeReturnTimeout die s = .next t ∧ Keeps q n o t := by
  refine ⟨_, rfl, ?_⟩
  try dsimp only
  repeat' first
    | with_reducible assumption
    | with_reducible apply State.edgeReturn_keeps
    | split
    | dsimp only
    | intro _
    | exact id

theorem execCloseDie_keeps {q : List Instr} {n : Nat} {o : List Output} (by_ : Agent) (die : DieId) {s : State} (h : Keeps q n o s) :
    ∃ t, execCloseDie by_ die s = .next t ∧ Keeps q n o t := by
  refine ⟨_, rfl, ?_⟩
  try dsimp only
  repeat' first
    | with_reducible assumption
    | with_reducible apply State.pctrl_keeps
    | split
    | dsimp only
    | intro _
    | exact id

theorem execOffDie_keeps {q : List Instr} {n : Nat} {o : List Output} (by_ : Agent) (die : DieId) {s : State} (h : Keeps q n o s) :
    ∃ t, execOffDie by_ die s = .next t ∧ Keeps q n o t := by
  refine ⟨_, rfl, ?_⟩
  try dsimp only
  repeat' first
    | with_reducible assumption
    | with_reducible apply State.pctrl_keeps
    | split
    | dsimp only
    | intro _
    | exact id

theorem execOpenDie_keeps {q : List Instr} {n : Nat} {o : List Output} (by_ : Agent) (die : DieId) {s : State} (h : Keeps q n o s) :
    ∃ t, execOpenDie by_ die s = .next t ∧ Keeps q n o t := by
  refine ⟨_, rfl, ?_⟩
  try dsimp only
  repeat' first
    | with_reducible assumption
    | with_reducible apply State.pctrl_keeps
    | split
    | dsimp only
    | intro _
    | exact id

theorem execPowerOn_keeps {q : List Instr} {n : Nat} {o : List Output} (by_ : Agent) (die : DieId) {s : State} (h : Keeps q n o s) :
    ∃ t, execPowerOn by_ die s = .next t ∧ Keeps q n o t := by
  refine ⟨_, rfl, ?_⟩
  try dsimp only
  repeat' first
    | with_reducible assumption
    | with_reducible apply State.pctrl_keeps
    | split
    | dsimp only
    | intro _
    | exact id

theorem execPartialReset_keeps {q : List Instr} {n : Nat} {o : List Output} (by_ : Agent) (die : DieId) {s : State} (h : Keeps q n o s) :
    ∃ t, execPartialReset by_ die s = .next t ∧ Keeps q n o t := by
  refine ⟨_, rfl, ?_⟩
  try dsimp only
  repeat' first
    | with_reducible assumption
    | with_reducible apply State.pctrl_keeps
    | split
    | dsimp only
    | intro _
    | exact id

theorem execDieDrained_keeps {q : List Instr} {n : Nat} {o : List Output} (die : CDie) {s : State} (h : Keeps q n o s) :
    ∃ t, execDieDrained die s = .next t ∧ Keeps q n o t := by
  refine ⟨_, rfl, ?_⟩
  try dsimp only
  repeat' first
    | with_reducible assumption
    | with_reducible apply State.dieDrainedRow_keeps
    | split
    | dsimp only
    | intro _
    | exact id

theorem execDrainLimitExpiry_keeps {q : List Instr} {n : Nat} {o : List Output} (die : CDie) {s : State} (h : Keeps q n o s) :
    ∃ t, execDrainLimitExpiry die s = .next t ∧ Keeps q n o t := by
  refine ⟨_, rfl, ?_⟩
  try dsimp only
  repeat' first
    | with_reducible assumption
    | with_reducible apply State.drainLimit_keeps
    | split
    | dsimp only
    | intro _
    | exact id

theorem execDiePowerOpDone_keeps {q : List Instr} {n : Nat} {o : List Output} (die : DieId) {s : State} (h : Keeps q n o s) :
    ∃ t, execDiePowerOpDone die s = .next t ∧ Keeps q n o t := by
  refine ⟨_, rfl, ?_⟩
  try dsimp only
  repeat' first
    | with_reducible assumption
    | with_reducible apply State.opDone_keeps
    | split
    | dsimp only
    | intro _
    | exact id

theorem execErcTick_keeps {q : List Instr} {n : Nat} {o : List Output} (die : DieId) {s : State} (h : Keeps q n o s) :
    ∃ t, execErcTick die s = .next t ∧ Keeps q n o t := by
  refine ⟨_, rfl, ?_⟩
  try dsimp only
  repeat' first
    | with_reducible assumption
    | with_reducible apply State.ercTick_keeps
    | split
    | dsimp only
    | intro _
    | exact id

theorem execErcArm_keeps {q : List Instr} {n : Nat} {o : List Output} (die : DieId) (failing : Bool) {s : State} (h : Keeps q n o s) :
    ∃ t, execErcArm die failing s = .next t ∧ Keeps q n o t := by
  refine ⟨_, rfl, ?_⟩
  try dsimp only
  repeat' first
    | with_reducible assumption
    | with_reducible apply State.ercArm_keeps
    | split
    | dsimp only
    | intro _
    | exact id

theorem execErcDisarm_keeps {q : List Instr} {n : Nat} {o : List Output} (die : DieId) (failing : Bool) {s : State} (h : Keeps q n o s) :
    ∃ t, execErcDisarm die failing s = .next t ∧ Keeps q n o t := by
  refine ⟨_, rfl, ?_⟩
  try dsimp only
  repeat' first
    | with_reducible assumption
    | with_reducible apply State.ercDisarm_keeps
    | split
    | dsimp only
    | intro _
    | exact id

end Sys2Proof.Machine
end

