-- ==== Sys2Proof/Laws/KeepsFirmware.lean ====
section
/-! SUPPORT. What each operation of Machine/Firmware.lean keeps (Laws/Keeps.lean). -/

namespace Sys2Proof.Machine

theorem State.setSlot_keeps {q : List Instr} {n' : Nat} {o : List Output} {s : State} (n : Nat) (x : FwSlot) (h : Keeps q n' o s) :
    Keeps q n' o (State.setSlot s n x) := by
  unfold State.setSlot
  try dsimp only
  repeat' first
    | with_reducible assumption
    | with_reducible apply State.onMgmt_keeps
    | split
    | dsimp only
    | intro _
    | exact mwf_nil
    | with_reducible exact mwf_mmap (by assumption) _
    | exact id

theorem State.unstage_keeps {q : List Instr} {n : Nat} {o : List Output} {s : State} (h : Keeps q n o s) :
    Keeps q n o (State.unstage s) := by
  unfold State.unstage
  try dsimp only
  repeat' first
    | with_reducible assumption
    | with_reducible apply State.forAll_keeps
    | with_reducible apply State.setDigest_keeps
    | split
    | dsimp only
    | intro _
    | exact mwf_nil
    | with_reducible exact mwf_mmap (by assumption) _
    | exact id

theorem State.fwData_keeps {q : List Instr} {n : Nat} {o : List Output} {s : State} (ep : Nat) (bs : List Byte) (last : Bool) (h : Keeps q n o s) :
    Keeps q n o (State.fwData s ep bs last) := by
  unfold State.fwData
  try dsimp only
  repeat' first
    | with_reducible assumption
    | with_reducible apply State.emit_keeps
    | with_reducible apply State.onMgmt_keeps
    | with_reducible apply State.setFld_keeps
    | with_reducible apply State.setSlot_keeps
    | with_reducible apply State.unstage_keeps
    | split
    | dsimp only
    | intro _
    | exact mwf_nil
    | with_reducible exact mwf_mmap (by assumption) _
    | exact id

theorem State.fwVerify_keeps {q : List Instr} {n : Nat} {o : List Output} {s : State} (ep ua : Nat) (h : Keeps q n o s) :
    Keeps q n o (State.fwVerify s ep ua) := by
  unfold State.fwVerify
  try dsimp only
  repeat' first
    | with_reducible assumption
    | with_reducible apply State.emit_keeps
    | with_reducible apply State.onMgmt_keeps
    | with_reducible apply State.setFld_keeps
    | with_reducible apply State.setSlot_keeps
    | split
    | dsimp only
    | intro _
    | exact mwf_nil
    | with_reducible exact mwf_mmap (by assumption) _
    | exact id

theorem State.fwApply_keeps {q : List Instr} {n : Nat} {o : List Output} {s : State} (ep ua : Nat) (h : Keeps q n o s) :
    Keeps q n o (State.fwApply s ep ua) := by
  unfold State.fwApply
  try dsimp only
  repeat' first
    | with_reducible assumption
    | with_reducible apply State.emit_keeps
    | with_reducible apply State.forAll_keeps
    | with_reducible apply State.onMgmt_keeps
    | with_reducible apply State.setDigest_keeps
    | with_reducible apply State.setFld_keeps
    | with_reducible apply State.setSlot_keeps
    | split
    | dsimp only
    | intro _
    | exact mwf_nil
    | with_reducible exact mwf_mmap (by assumption) _
    | exact id

theorem State.grithalRegsReset_keeps {q : List Instr} {n : Nat} {o : List Output} {s : State} (h : Keeps q n o s) :
    Keeps q n o (State.grithalRegsReset s) := by
  unfold State.grithalRegsReset
  try dsimp only
  repeat' first
    | with_reducible assumption
    | with_reducible apply State.setReg_keeps
    | split
    | dsimp only
    | intro _
    | exact mwf_nil
    | with_reducible exact mwf_mmap (by assumption) _
    | exact id

theorem State.apexRestart_keeps {q : List Instr} {n : Nat} {o : List Output} {s : State} (h : Keeps q n o s) :
    Keeps q n o (State.apexRestart s) := by
  unfold State.apexRestart
  try dsimp only
  repeat' first
    | with_reducible assumption
    | with_reducible apply State.bumpIncarn_keeps
    | with_reducible apply State.endSessions_keeps
    | with_reducible apply State.forAll_keeps
    | with_reducible apply State.grithalRegsReset_keeps
    | with_reducible apply State.lapseNonce_keeps
    | with_reducible refine State.onCq_keeps ?_ (fun ⟨m0, m1, m2, m3⟩ => ⟨?_, ?_, ?_, ?_⟩)
    | with_reducible apply State.onMgmt_keeps
    | split
    | dsimp only
    | intro _
    | exact mwf_nil
    | with_reducible exact mwf_mmap (by assumption) _
    | exact id

theorem State.runImage_keeps {q : List Instr} {n' : Nat} {o : List Output} {s : State} (n : Nat) (h : Keeps q n' o s) :
    Keeps q n' o (State.runImage s n) := by
  unfold State.runImage
  try dsimp only
  repeat' first
    | with_reducible assumption
    | with_reducible apply State.draw_keeps
    | with_reducible apply State.onMgmt_keeps
    | with_reducible apply State.onSec_keeps
    | with_reducible apply State.setDigest_keeps
    | with_reducible apply State.setFld_keeps
    | split
    | dsimp only
    | intro _
    | exact mwf_nil
    | with_reducible exact mwf_mmap (by assumption) _
    | exact id

theorem State.measureSettle_keeps {q : List Instr} {n : Nat} {o : List Output} {s : State} (h : Keeps q n o s) :
    Keeps q n o (State.measureSettle s) := by
  unfold State.measureSettle
  try dsimp only
  repeat' first
    | with_reducible assumption
    | with_reducible apply State.runImage_keeps
    | with_reducible apply State.setDigest_keeps
    | split
    | dsimp only
    | intro _
    | exact mwf_nil
    | with_reducible exact mwf_mmap (by assumption) _
    | exact id

theorem State.activate_keeps {q : List Instr} {n : Nat} {o : List Output} {s : State} (h : Keeps q n o s) :
    Keeps q n o (State.activate s).1 := by
  unfold State.activate
  try dsimp only
  repeat' first
    | with_reducible assumption
    | with_reducible apply State.apexRestart_keeps
    | with_reducible apply State.onMgmt_keeps
    | with_reducible apply State.setSlot_keeps
    | split
    | dsimp only
    | intro _
    | exact mwf_nil
    | with_reducible exact mwf_mmap (by assumption) _
    | exact id

theorem State.shiftTimers_keeps {q : List Instr} {n : Nat} {o : List Output} {s : State} (d : Nat) (h : Keeps q n o s) :
    Keeps q n o (State.shiftTimers s d) := by
  unfold State.shiftTimers
  try dsimp only
  repeat' first
    | with_reducible assumption
    | with_reducible refine State.onCq_keeps ?_ (fun ⟨m0, m1, m2, m3⟩ => ⟨?_, ?_, ?_, ?_⟩)
    | with_reducible refine State.onFlt_keeps ?_ (fun ⟨m0, m1, m2, m3, m4, m5, m6, m7⟩ => ⟨?_, ?_, ?_, ?_, ?_, ?_, ?_, ?_⟩)
    | with_reducible apply State.onRt_keeps
    | split
    | dsimp only
    | intro _
    | exact mwf_nil
    | with_reducible exact mwf_mmap (by assumption) _
    | exact id

theorem State.writeHeld_keeps {q : List Instr} {n : Nat} {o : List Output} {s : State} (k : Nat × Nat) (h : Keeps q n o s) :
    Keeps q n o (State.writeHeld s k) := by
  unfold State.writeHeld
  try dsimp only
  repeat' first
    | with_reducible assumption
    | with_reducible apply State.complete_keeps
    | split
    | dsimp only
    | intro _
    | exact mwf_nil
    | with_reducible exact mwf_mmap (by assumption) _
    | exact id

theorem State.intakeResume_keeps {q : List Instr} {n : Nat} {o : List Output} {s : State} (h : Keeps q n o s) :
    Keeps q n o (State.intakeResume s) := by
  unfold State.intakeResume
  try dsimp only
  repeat' first
    | with_reducible assumption
    | with_reducible apply State.flushVecs_keeps
    | with_reducible apply State.forAll_keeps
    | with_reducible apply State.measureSettle_keeps
    | with_reducible apply State.onMgmt_keeps
    | with_reducible apply State.shiftTimers_keeps
    | with_reducible apply State.writeHeld_keeps
    | split
    | dsimp only
    | intro _
    | exact mwf_nil
    | with_reducible exact mwf_mmap (by assumption) _
    | exact id

theorem State.watchdog_keeps {q : List Instr} {n : Nat} {o : List Output} {s : State} (h : Keeps q n o s) :
    Keeps q n o (State.watchdog s) := by
  unfold State.watchdog
  try dsimp only
  repeat' first
    | with_reducible assumption
    | with_reducible apply State.apexRestart_keeps
    | with_reducible apply State.onMgmt_keeps
    | with_reducible apply State.runImage_keeps
    | with_reducible apply State.unstage_keeps
    | split
    | dsimp only
    | intro _
    | exact mwf_nil
    | with_reducible exact mwf_mmap (by assumption) _
    | exact id

theorem State.trialExpiry_keeps {q : List Instr} {n : Nat} {o : List Output} {s : State} (h : Keeps q n o s) :
    Keeps q n o (State.trialExpiry s) := by
  unfold State.trialExpiry
  try dsimp only
  repeat' first
    | with_reducible assumption
    | with_reducible apply State.setSlot_keeps
    | split
    | dsimp only
    | intro _
    | exact mwf_nil
    | with_reducible exact mwf_mmap (by assumption) _
    | exact id

theorem execRequestFirmwareData_keeps {q : List Instr} {n : Nat} {o : List Output} (ep : BitVec 2) (bytes : List Byte) (last : Bool) {s : State} (h : Keeps q n o s) :
    ∃ t, execRequestFirmwareData ep bytes last s = .next t ∧ Keeps q n o t := by
  refine ⟨_, rfl, ?_⟩
  try dsimp only
  repeat' first
    | with_reducible assumption
    | with_reducible apply State.fwData_keeps
    | split
    | dsimp only
    | intro _
    | exact mwf_nil
    | with_reducible exact mwf_mmap (by assumption) _
    | exact id

theorem execVerifyComplete_keeps {q : List Instr} {n : Nat} {o : List Output} (ep : BitVec 2) (ua : Byte) {s : State} (h : Keeps q n o s) :
    ∃ t, execVerifyComplete ep ua s = .next t ∧ Keeps q n o t := by
  refine ⟨_, rfl, ?_⟩
  try dsimp only
  repeat' first
    | with_reducible assumption
    | with_reducible apply State.fwVerify_keeps
    | split
    | dsimp only
    | intro _
    | exact mwf_nil
    | with_reducible exact mwf_mmap (by assumption) _
    | exact id

theorem execApplyComplete_keeps {q : List Instr} {n : Nat} {o : List Output} (ep : BitVec 2) (ua : Byte) {s : State} (h : Keeps q n o s) :
    ∃ t, execApplyComplete ep ua s = .next t ∧ Keeps q n o t := by
  refine ⟨_, rfl, ?_⟩
  try dsimp only
  repeat' first
    | with_reducible assumption
    | with_reducible apply State.fwApply_keeps
    | split
    | dsimp only
    | intro _
    | exact mwf_nil
    | with_reducible exact mwf_mmap (by assumption) _
    | exact id

theorem execActivateFirmware_keeps {q : List Instr} {n : Nat} {o : List Output} (ep : BitVec 2) (src : Byte) (inst : BitVec 5) {s : State} (h : Keeps q n o s) :
    ∃ t, execActivateFirmware ep src inst s = .next t ∧ Keeps q n o t := by
  refine ⟨_, rfl, ?_⟩
  try dsimp only
  repeat' first
    | with_reducible assumption
    | with_reducible apply State.activate_keeps
    | with_reducible apply State.pldmRequest_keeps
    | split
    | dsimp only
    | intro _
    | exact mwf_nil
    | with_reducible exact mwf_mmap (by assumption) _
    | exact id

theorem execIntakeResume_keeps {q : List Instr} {n : Nat} {o : List Output} {s : State} (h : Keeps q n o s) :
    ∃ t, execIntakeResume s = .next t ∧ Keeps q n o t := by
  refine ⟨_, rfl, ?_⟩
  try dsimp only
  repeat' first
    | with_reducible assumption
    | with_reducible apply State.intakeResume_keeps
    | split
    | dsimp only
    | intro _
    | exact mwf_nil
    | with_reducible exact mwf_mmap (by assumption) _
    | exact id

theorem execActivationWatchdog_keeps {q : List Instr} {n : Nat} {o : List Output} {s : State} (h : Keeps q n o s) :
    ∃ t, execActivationWatchdog s = .next t ∧ Keeps q n o t := by
  refine ⟨_, rfl, ?_⟩
  try dsimp only
  repeat' first
    | with_reducible assumption
    | with_reducible apply State.watchdog_keeps
    | split
    | dsimp only
    | intro _
    | exact mwf_nil
    | with_reducible exact mwf_mmap (by assumption) _
    | exact id

theorem execFwTrialExpiry_keeps {q : List Instr} {n : Nat} {o : List Output} {s : State} (h : Keeps q n o s) :
    ∃ t, execFwTrialExpiry s = .next t ∧ Keeps q n o t := by
  refine ⟨_, rfl, ?_⟩
  try dsimp only
  repeat' first
    | with_reducible assumption
    | with_reducible apply State.trialExpiry_keeps
    | split
    | dsimp only
    | intro _
    | exact mwf_nil
    | with_reducible exact mwf_mmap (by assumption) _
    | exact id

end Sys2Proof.Machine
end

