-- ==== Sys2Proof/Laws/KeepsHostLink.lean ====
section
/-! SUPPORT. What each operation of Machine/HostLink.lean keeps (Laws/Keeps.lean). -/

namespace Sys2Proof.Machine

theorem State.failT3_keeps {q : List Instr} {n' : Nat} {o : List Output} {s : State} (n : Nat) (h : Keeps q n' o s) :
    Keeps q n' o (State.failT3 s n) := by
  unfold State.failT3
  try dsimp only
  repeat' first
    | with_reducible assumption
    | with_reducible apply State.forAll_keeps
    | with_reducible apply State.retryDevWrites_keeps
    | with_reducible apply State.t3Ends_keeps
    | split
    | dsimp only
    | intro _
    | exact mwf_nil
    | with_reducible exact mwf_mmap (by assumption) _
    | exact id

theorem State.failWriteBacks_keeps {q : List Instr} {n' : Nat} {o : List Output} {s : State} (n : Nat) (h : Keeps q n' o s) :
    Keeps q n' o (State.failWriteBacks s n) := by
  unfold State.failWriteBacks
  try dsimp only
  repeat' first
    | with_reducible assumption
    | with_reducible apply State.forAll_keeps
    | with_reducible apply State.writeBackDone_keeps
    | split
    | dsimp only
    | intro _
    | exact mwf_nil
    | with_reducible exact mwf_mmap (by assumption) _
    | exact id

theorem State.failRings_keeps {q : List Instr} {n' : Nat} {o : List Output} {s : State} (n : Nat) (h : Keeps q n' o s) :
    Keeps q n' o (State.failRings s n) := by
  unfold State.failRings
  try dsimp only
  repeat' first
    | with_reducible assumption
    | with_reducible apply State.forAll_keeps
    | with_reducible apply State.ringReadComplete_keeps
    | split
    | dsimp only
    | intro _
    | exact mwf_nil
    | with_reducible exact mwf_mmap (by assumption) _
    | exact id

theorem State.linkSettle_keeps {q : List Instr} {n : Nat} {o : List Output} {s : State} (h : Keeps q n o s) :
    Keeps q n o (State.linkSettle s) := by
  unfold State.linkSettle
  try dsimp only
  repeat' first
    | with_reducible assumption
    | with_reducible apply State.failRings_keeps
    | with_reducible apply State.failT3_keeps
    | with_reducible apply State.forAll_keeps
    | split
    | dsimp only
    | intro _
    | exact mwf_nil
    | with_reducible exact mwf_mmap (by assumption) _
    | exact id

theorem State.ccLost_keeps {q : List Instr} {n : Nat} {o : List Output} {s : State} (h : Keeps q n o s) :
    Keeps q n o (State.ccLost s) := by
  unfold State.ccLost
  try dsimp only
  repeat' first
    | with_reducible assumption
    | with_reducible apply State.count_keeps
    | with_reducible apply State.onHosts_keeps
    | with_reducible apply State.raise_keeps
    | with_reducible apply State.setReg_keeps
    | split
    | dsimp only
    | intro _
    | exact mwf_nil
    | with_reducible exact mwf_mmap (by assumption) _
    | exact id

theorem State.linkDown_keeps {q : List Instr} {n' : Nat} {o : List Output} {s : State} (n : Nat) (h : Keeps q n' o s) :
    Keeps q n' o (State.linkDown s n) := by
  unfold State.linkDown
  try dsimp only
  repeat' first
    | with_reducible assumption
    | with_reducible apply State.ccLost_keeps
    | with_reducible apply State.failRings_keeps
    | with_reducible apply State.failT3_keeps
    | with_reducible apply State.failWriteBacks_keeps
    | with_reducible apply State.setLink_keeps
    | with_reducible apply State.setReg_keeps
    | split
    | dsimp only
    | intro _
    | exact mwf_nil
    | with_reducible exact mwf_mmap (by assumption) _
    | exact id

theorem State.perst_keeps {q : List Instr} {n' : Nat} {o : List Output} {s : State} (n v : Nat) (h : Keeps q n' o s) :
    Keeps q n' o (State.perst s n v) := by
  unfold State.perst
  try dsimp only
  repeat' first
    | with_reducible assumption
    | split
    | with_reducible apply Keeps.withPins
    | dsimp only
    | intro _
    | exact mwf_nil
    | with_reducible exact mwf_mmap (by assumption) _
    | exact id

theorem State.linkUpRow_keeps {q : List Instr} {n' : Nat} {o : List Output} {s : State} (n rate width : Nat) (flit cxl : Bool) (bar2 : Nat) (h : Keeps q n' o s) :
    Keeps q n' o (State.linkUpRow s n rate width flit cxl bar2) := by
  unfold State.linkUpRow
  try dsimp only
  repeat' first
    | with_reducible assumption
    | with_reducible apply State.flushVecs_keeps
    | with_reducible apply State.perst_keeps
    | with_reducible apply State.setFld_keeps
    | with_reducible apply State.setLink_keeps
    | with_reducible apply State.setReg_keeps
    | split
    | dsimp only
    | intro _
    | exact mwf_nil
    | with_reducible exact mwf_mmap (by assumption) _
    | exact id

theorem State.linkError_keeps {q : List Instr} {n' : Nat} {o : List Output} {s : State} (n b va : Nat) (fill : Bool) (poisoned : Option Nat) (h : Keeps q n' o s) :
    Keeps q n' o (State.linkError s n b va fill poisoned) := by
  unfold State.linkError
  try dsimp only
  repeat' first
    | with_reducible assumption
    | with_reducible apply State.t3Response_keeps
    | split
    | dsimp only
    | intro _
    | exact mwf_nil
    | with_reducible exact mwf_mmap (by assumption) _
    | exact id

theorem State.bar2Refuse_keeps {q : List Instr} {n' : Nat} {o : List Output} {s : State} (n : Nat) (wr : Bool) (h : Keeps q n' o s) :
    Keeps q n' o (State.bar2Refuse s n wr) := by
  unfold State.bar2Refuse
  try dsimp only
  repeat' first
    | with_reducible assumption
    | with_reducible apply State.count_keeps
    | with_reducible apply State.emit_keeps
    | split
    | dsimp only
    | intro _
    | exact mwf_nil
    | with_reducible exact mwf_mmap (by assumption) _
    | exact id

theorem State.bar2Access_keeps {q : List Instr} {n' : Nat} {o : List Output} {s : State} (n off len : Nat) (data : Option (List Byte)) (m : Medium) (h : Keeps q n' o s) :
    Keeps q n' o (State.bar2Access s n off len data m) := by
  unfold State.bar2Access
  try dsimp only
  repeat' first
    | with_reducible assumption
    | with_reducible apply Engine.fail_keeps
    | with_reducible apply State.bar2Refuse_keeps
    | with_reducible apply State.count64_keeps
    | with_reducible apply State.emit_keeps
    | with_reducible refine State.onMem_keeps ?_ (fun ⟨m0, m1, m2, m3, m4, m5, m6, m7⟩ => ⟨?_, ?_, ?_, ?_, ?_, ?_, ?_, ?_⟩)
    | with_reducible apply State.vaReadM_keeps
    | with_reducible apply State.vaWriteM_keeps
    | split
    | dsimp only
    | intro _
    | exact mwf_nil
    | with_reducible exact mwf_mmap (by assumption) _
    | exact id

theorem State.msixWrite_keeps {q : List Instr} {n' : Nat} {o : List Output} {s : State} (n : Nat) (en mask : Bool) (h : Keeps q n' o s) :
    Keeps q n' o (State.msixWrite s n en mask) := by
  unfold State.msixWrite
  try dsimp only
  repeat' first
    | with_reducible assumption
    | with_reducible apply State.flushVecs_keeps
    | with_reducible apply State.setLink_keeps
    | split
    | dsimp only
    | intro _
    | exact mwf_nil
    | with_reducible exact mwf_mmap (by assumption) _
    | exact id

theorem State.snoopEvict_keeps {q : List Instr} {n : Nat} {o : List Output} {s : State} (e : CEvict) (h : Keeps q n o s) :
    Keeps q n o (State.snoopEvict s e) := by
  unfold State.snoopEvict
  try dsimp only
  repeat' first
    | with_reducible assumption
    | with_reducible apply State.emit_keeps
    | with_reducible apply State.onHosts_keeps
    | split
    | dsimp only
    | intro _
    | exact mwf_nil
    | with_reducible exact mwf_mmap (by assumption) _
    | exact id

theorem State.snoop_keeps {q : List Instr} {n : Nat} {o : List Output} {s : State} (l kind : Nat) (h : Keeps q n o s) :
    Keeps q n o (State.snoop s l kind) := by
  unfold State.snoop
  try dsimp only
  repeat' first
    | with_reducible assumption
    | with_reducible apply State.count_keeps
    | with_reducible apply State.emit_keeps
    | with_reducible apply State.setCcLine_keeps
    | with_reducible apply State.snoopEvict_keeps
    | split
    | dsimp only
    | intro _
    | exact mwf_nil
    | with_reducible exact mwf_mmap (by assumption) _
    | exact id

theorem State.flushGo_keeps {q : List Instr} {n : Nat} {o : List Output} {s : State} (h : Keeps q n o s) :
    Keeps q n o (State.flushGo s) := by
  unfold State.flushGo
  try dsimp only
  repeat' first
    | with_reducible assumption
    | with_reducible apply State.ccEvictLine_keeps
    | with_reducible apply State.forAll_keeps
    | split
    | dsimp only
    | intro _
    | exact mwf_nil
    | with_reducible exact mwf_mmap (by assumption) _
    | exact id

theorem State.goWritePull_keeps {q : List Instr} {n : Nat} {o : List Output} {s : State} (l : Nat) (drop : Bool) (h : Keeps q n o s) :
    Keeps q n o (State.goWritePull s l drop) := by
  unfold State.goWritePull
  try dsimp only
  repeat' first
    | with_reducible assumption
    | with_reducible apply State.ccCountEvict_keeps
    | with_reducible apply State.ccRetry_keeps
    | with_reducible apply State.count_keeps
    | with_reducible apply State.emit_keeps
    | with_reducible apply State.flushGo_keeps
    | with_reducible apply State.onHosts_keeps
    | split
    | dsimp only
    | intro _
    | exact mwf_nil
    | with_reducible exact mwf_mmap (by assumption) _
    | exact id

theorem State.goWait_keeps {q : List Instr} {n : Nat} {o : List Output} {s : State} (l : Nat) (h : Keeps q n o s) :
    Keeps q n o (State.goWait s l) := by
  unfold State.goWait
  try dsimp only
  repeat' first
    | with_reducible assumption
    | with_reducible apply State.count_keeps
    | with_reducible apply State.onHosts_keeps
    | with_reducible apply State.raise_keeps
    | split
    | dsimp only
    | intro _
    | exact mwf_nil
    | with_reducible exact mwf_mmap (by assumption) _
    | exact id

theorem State.h2dGo_keeps {q : List Instr} {n : Nat} {o : List Output} {s : State} (l : Nat) (data : List Byte) (excl : Bool) (h : Keeps q n o s) :
    Keeps q n o (State.h2dGo s l data excl) := by
  unfold State.h2dGo
  try dsimp only
  repeat' first
    | with_reducible assumption
    | with_reducible apply State.ccRetry_keeps
    | with_reducible apply State.onHosts_keeps
    | with_reducible apply State.setCcLine_keeps
    | with_reducible apply State.tickStamp_keeps
    | split
    | dsimp only
    | intro _
    | exact mwf_nil
    | with_reducible exact mwf_mmap (by assumption) _
    | exact id

theorem State.ccWinWrite_keeps {q : List Instr} {n : Nat} {o : List Output} {s : State} (w v : Nat) (h : Keeps q n o s) :
    Keeps q n o (State.ccWinWrite s w v) := by
  unfold State.ccWinWrite
  try dsimp only
  repeat' first
    | with_reducible assumption
    | with_reducible apply State.flushGo_keeps
    | with_reducible apply State.onHosts_keeps
    | with_reducible apply State.setFld_keeps
    | with_reducible apply State.setReg_keeps
    | split
    | dsimp only
    | intro _
    | exact mwf_nil
    | with_reducible exact mwf_mmap (by assumption) _
    | exact id

theorem State.flushDone_keeps {q : List Instr} {n : Nat} {o : List Output} {s : State} (h : Keeps q n o s) :
    Keeps q n o (State.flushDone s) := by
  unfold State.flushDone
  try dsimp only
  repeat' first
    | with_reducible assumption
    | with_reducible apply State.onHosts_keeps
    | with_reducible apply State.setFld_keeps
    | split
    | dsimp only
    | intro _
    | exact mwf_nil
    | with_reducible exact mwf_mmap (by assumption) _
    | exact id

theorem execPerstAssert_keeps {q : List Instr} {n : Nat} {o : List Output} (link : LinkId) {s : State} (h : Keeps q n o s) :
    ∃ t, execPerstAssert link s = .next t ∧ Keeps q n o t := by
  refine ⟨_, rfl, ?_⟩
  try dsimp only
  repeat' first
    | with_reducible assumption
    | with_reducible apply State.linkDown_keeps
    | with_reducible apply State.perst_keeps
    | split
    | dsimp only
    | intro _
    | exact mwf_nil
    | with_reducible exact mwf_mmap (by assumption) _
    | exact id

theorem execPerstRelease_keeps {q : List Instr} {n : Nat} {o : List Output} (link : LinkId) {s : State} (h : Keeps q n o s) :
    ∃ t, execPerstRelease link s = .next t ∧ Keeps q n o t := by
  refine ⟨_, rfl, ?_⟩
  try dsimp only
  repeat' first
    | with_reducible assumption
    | with_reducible apply State.perst_keeps
    | split
    | dsimp only
    | intro _
    | exact mwf_nil
    | with_reducible exact mwf_mmap (by assumption) _
    | exact id

theorem execHostLinkDown_keeps {q : List Instr} {n : Nat} {o : List Output} (link : LinkId) {s : State} (h : Keeps q n o s) :
    ∃ t, execHostLinkDown link s = .next t ∧ Keeps q n o t := by
  refine ⟨_, rfl, ?_⟩
  try dsimp only
  repeat' first
    | with_reducible assumption
    | with_reducible apply State.linkDown_keeps
    | split
    | dsimp only
    | intro _
    | exact mwf_nil
    | with_reducible exact mwf_mmap (by assumption) _
    | exact id

theorem execHostLinkUp_keeps {q : List Instr} {n : Nat} {o : List Output} (link : LinkId) (rate : BitVec 3) (width : BitVec 5) (flit cxl : Bool) (bar2 : BitVec 4) {s : State} (h : Keeps q n o s) :
    ∃ t, execHostLinkUp link rate width flit cxl bar2 s = .next t ∧ Keeps q n o t := by
  refine ⟨_, rfl, ?_⟩
  try dsimp only
  repeat' first
    | with_reducible assumption
    | with_reducible apply State.linkUpRow_keeps
    | split
    | dsimp only
    | intro _
    | exact mwf_nil
    | with_reducible exact mwf_mmap (by assumption) _
    | exact id

theorem execHostLinkError_keeps {q : List Instr} {n : Nat} {o : List Output} (link : LinkId) (bay : BayId) (va : BitVec 57) (fill : Bool) (poisoned : Option Nat) {s : State} (h : Keeps q n o s) :
    ∃ t, execHostLinkError link bay va fill poisoned s = .next t ∧ Keeps q n o t := by
  refine ⟨_, rfl, ?_⟩
  try dsimp only
  repeat' first
    | with_reducible assumption
    | with_reducible apply State.linkError_keeps
    | split
    | dsimp only
    | intro _
    | exact mwf_nil
    | with_reducible exact mwf_mmap (by assumption) _
    | exact id

theorem execBar2Access_keeps {q : List Instr} {n : Nat} {o : List Output} (link : LinkId) (off : BitVec 40) (len : Nat) (data : Option (List Byte)) (m : Medium) {s : State} (h : Keeps q n o s) :
    ∃ t, execBar2Access link off len data m s = .next t ∧ Keeps q n o t := by
  refine ⟨_, rfl, ?_⟩
  try dsimp only
  repeat' first
    | with_reducible assumption
    | with_reducible apply State.bar2Access_keeps
    | split
    | dsimp only
    | intro _
    | exact mwf_nil
    | with_reducible exact mwf_mmap (by assumption) _
    | exact id

theorem execMsixUnmask_keeps {q : List Instr} {n : Nat} {o : List Output} (link : LinkId) (en mask : Bool) {s : State} (h : Keeps q n o s) :
    ∃ t, execMsixUnmask link en mask s = .next t ∧ Keeps q n o t := by
  refine ⟨_, rfl, ?_⟩
  try dsimp only
  repeat' first
    | with_reducible assumption
    | with_reducible apply State.msixWrite_keeps
    | split
    | dsimp only
    | intro _
    | exact mwf_nil
    | with_reducible exact mwf_mmap (by assumption) _
    | exact id

theorem execSnpInv_keeps {q : List Instr} {n : Nat} {o : List Output} (line : BitVec 58) {s : State} (h : Keeps q n o s) :
    ∃ t, execSnpInv line s = .next t ∧ Keeps q n o t := by
  refine ⟨_, rfl, ?_⟩
  try dsimp only
  repeat' first
    | with_reducible assumption
    | with_reducible apply State.snoop_keeps
    | split
    | dsimp only
    | intro _
    | exact mwf_nil
    | with_reducible exact mwf_mmap (by assumption) _
    | exact id

theorem execSnpData_keeps {q : List Instr} {n : Nat} {o : List Output} (line : BitVec 58) {s : State} (h : Keeps q n o s) :
    ∃ t, execSnpData line s = .next t ∧ Keeps q n o t := by
  refine ⟨_, rfl, ?_⟩
  try dsimp only
  repeat' first
    | with_reducible assumption
    | with_reducible apply State.snoop_keeps
    | split
    | dsimp only
    | intro _
    | exact mwf_nil
    | with_reducible exact mwf_mmap (by assumption) _
    | exact id

theorem execSnpCur_keeps {q : List Instr} {n : Nat} {o : List Output} (line : BitVec 58) {s : State} (h : Keeps q n o s) :
    ∃ t, execSnpCur line s = .next t ∧ Keeps q n o t := by
  refine ⟨_, rfl, ?_⟩
  try dsimp only
  repeat' first
    | with_reducible assumption
    | with_reducible apply State.snoop_keeps
    | split
    | dsimp only
    | intro _
    | exact mwf_nil
    | with_reducible exact mwf_mmap (by assumption) _
    | exact id

theorem execGoWritePull_keeps {q : List Instr} {n : Nat} {o : List Output} (line : BitVec 58) (drop : Bool) {s : State} (h : Keeps q n o s) :
    ∃ t, execGoWritePull line drop s = .next t ∧ Keeps q n o t := by
  refine ⟨_, rfl, ?_⟩
  try dsimp only
  repeat' first
    | with_reducible assumption
    | with_reducible apply State.goWritePull_keeps
    | split
    | dsimp only
    | intro _
    | exact mwf_nil
    | with_reducible exact mwf_mmap (by assumption) _
    | exact id

theorem execGoWaitExpiry_keeps {q : List Instr} {n : Nat} {o : List Output} (line : BitVec 58) {s : State} (h : Keeps q n o s) :
    ∃ t, execGoWaitExpiry line s = .next t ∧ Keeps q n o t := by
  refine ⟨_, rfl, ?_⟩
  try dsimp only
  repeat' first
    | with_reducible assumption
    | with_reducible apply State.goWait_keeps
    | split
    | dsimp only
    | intro _
    | exact mwf_nil
    | with_reducible exact mwf_mmap (by assumption) _
    | exact id

theorem execH2dGo_keeps {q : List Instr} {n : Nat} {o : List Output} (line : BitVec 58) (data : List Byte) (excl : Bool) {s : State} (h : Keeps q n o s) :
    ∃ t, execH2dGo line data excl s = .next t ∧ Keeps q n o t := by
  refine ⟨_, rfl, ?_⟩
  try dsimp only
  repeat' first
    | with_reducible assumption
    | with_reducible apply State.h2dGo_keeps
    | split
    | dsimp only
    | intro _
    | exact mwf_nil
    | with_reducible exact mwf_mmap (by assumption) _
    | exact id

theorem execCcWinCfgWrite_keeps {q : List Instr} {n : Nat} {o : List Output} (win : BitVec 3) (data : W32) {s : State} (h : Keeps q n o s) :
    ∃ t, execCcWinCfgWrite win data s = .next t ∧ Keeps q n o t := by
  refine ⟨_, rfl, ?_⟩
  try dsimp only
  repeat' first
    | with_reducible assumption
    | with_reducible apply State.ccWinWrite_keeps
    | split
    | dsimp only
    | intro _
    | exact mwf_nil
    | with_reducible exact mwf_mmap (by assumption) _
    | exact id

theorem execCcFlushDone_keeps {q : List Instr} {n : Nat} {o : List Output} {s : State} (h : Keeps q n o s) :
    ∃ t, execCcFlushDone s = .next t ∧ Keeps q n o t := by
  refine ⟨_, rfl, ?_⟩
  try dsimp only
  repeat' first
    | with_reducible assumption
    | with_reducible apply State.flushDone_keeps
    | split
    | dsimp only
    | intro _
    | exact mwf_nil
    | with_reducible exact mwf_mmap (by assumption) _
    | exact id

end Sys2Proof.Machine
end

