-- ==== Sys2Proof/Laws/KeepsTime.lean ====
section
/-! SUPPORT. What each operation of Machine/Time.lean keeps (Laws/Keeps.lean). -/

namespace Sys2Proof.Machine

theorem State.setRate_keeps {q : List Instr} {n : Nat} {o : List Output} {s : State} (off : Int) (h : Keeps q n o s) :
    Keeps q n o (State.setRate s off) := by
  unfold State.setRate
  try dsimp only
  repeat' first
    | with_reducible assumption
    | with_reducible apply State.draw_keeps
    | with_reducible apply State.setReg_keeps
    | split
    | dsimp only
    | intro _
    | exact id

theorem State.timeStep_keeps {q : List Instr} {n : Nat} {o : List Output} {s : State} (off : Int) (h : Keeps q n o s) :
    Keeps q n o (State.timeStep s off) := by
  unfold State.timeStep
  try dsimp only
  repeat' first
    | with_reducible assumption
    | with_reducible apply State.setFld_keeps
    | split
    | with_reducible apply Keeps.withKtime
    | dsimp only
    | intro _
    | exact id

theorem State.timeLock_keeps {q : List Instr} {n' : Nat} {o : List Output} {s : State} (n : Nat) (h : Keeps q n' o s) :
    Keeps q n' o (State.timeLock s n) := by
  unfold State.timeLock
  try dsimp only
  repeat' first
    | with_reducible assumption
    | with_reducible apply State.onFab_keeps
    | with_reducible apply State.setFld_keeps
    | with_reducible apply State.setReg_keeps
    | split
    | dsimp only
    | intro _
    | exact id

theorem State.timeLeft_keeps {q : List Instr} {n : Nat} {o : List Output} {s : State} (left : Int) (h : Keeps q n o s) :
    Keeps q n o (State.timeLeft s left) := by
  unfold State.timeLeft
  try dsimp only
  repeat' first
    | with_reducible assumption
    | with_reducible apply State.onFab_keeps
    | with_reducible apply State.setRate_keeps
    | with_reducible apply State.timeLock_keeps
    | split
    | dsimp only
    | intro _
    | exact id

theorem State.timeOffset_keeps {q : List Instr} {n : Nat} {o : List Output} {s : State} (off : Int) (mayStep : Bool) (h : Keeps q n o s) :
    Keeps q n o (State.timeOffset s off mayStep) := by
  unfold State.timeOffset
  try dsimp only
  repeat' first
    | with_reducible assumption
    | with_reducible apply State.setReg_keeps
    | with_reducible apply State.timeLeft_keeps
    | with_reducible apply State.timeStep_keeps
    | split
    | dsimp only
    | intro _
    | exact id

theorem State.timeExchange_keeps {q : List Instr} {n : Nat} {o : List Output} {s : State} (p : Nat) (off : Int) (delay depth : Nat) (h : Keeps q n o s) :
    Keeps q n o (State.timeExchange s p off delay depth) := by
  unfold State.timeExchange
  try dsimp only
  repeat' first
    | with_reducible assumption
    | with_reducible apply State.setFld_keeps
    | with_reducible apply State.setReg_keeps
    | with_reducible apply State.timeOffset_keeps
    | split
    | dsimp only
    | intro _
    | exact id

theorem State.ppsEdge_keeps {q : List Instr} {n : Nat} {o : List Output} {s : State} (h : Keeps q n o s) :
    Keeps q n o (State.ppsEdge s) := by
  unfold State.ppsEdge
  try dsimp only
  repeat' first
    | with_reducible assumption
    | with_reducible apply State.setFld_keeps
    | with_reducible apply State.timeOffset_keeps
    | split
    | dsimp only
    | intro _
    | exact id

theorem State.parentLoss_keeps {q : List Instr} {n : Nat} {o : List Output} {s : State} (h : Keeps q n o s) :
    Keeps q n o (State.parentLoss s) := by
  unfold State.parentLoss
  try dsimp only
  repeat' first
    | with_reducible assumption
    | with_reducible apply State.count_keeps
    | with_reducible apply State.onFab_keeps
    | with_reducible apply State.setFld_keeps
    | split
    | dsimp only
    | intro _
    | exact id

theorem State.slewTo_keeps {q : List Instr} {n : Nat} {o : List Output} {s : State} (acc step : Nat) (h : Keeps q n o s) :
    Keeps q n o (State.slewTo s acc step) := ⟨h.pending, h.draws, h.out, { h.canon with }⟩

theorem State.passNs_keeps {q : List Instr} {n : Nat} {o : List Output} {s : State} (h : Keeps q n o s) :
    Keeps q n o (State.passNs s) := State.slewTo_keeps _ _ h

theorem execTimeExchange_keeps {q : List Instr} {n : Nat} {o : List Output} (port : PortId) (offset delay : BitVec 32) (depth : Byte) {s : State} (h : Keeps q n o s) :
    ∃ t, execTimeExchange port offset delay depth s = .next t ∧ Keeps q n o t := by
  refine ⟨_, rfl, ?_⟩
  try dsimp only
  repeat' first
    | with_reducible assumption
    | with_reducible apply State.timeExchange_keeps
    | split
    | dsimp only
    | intro _
    | exact id

theorem execPpsEdge_keeps {q : List Instr} {n : Nat} {o : List Output} {s : State} (h : Keeps q n o s) :
    ∃ t, execPpsEdge s = .next t ∧ Keeps q n o t := by
  refine ⟨_, rfl, ?_⟩
  try dsimp only
  repeat' first
    | with_reducible assumption
    | with_reducible apply State.ppsEdge_keeps
    | split
    | dsimp only
    | intro _
    | exact id

theorem execTimeParentLoss_keeps {q : List Instr} {n : Nat} {o : List Output} {s : State} (h : Keeps q n o s) :
    ∃ t, execTimeParentLoss s = .next t ∧ Keeps q n o t := by
  refine ⟨_, rfl, ?_⟩
  try dsimp only
  repeat' first
    | with_reducible assumption
    | with_reducible apply State.parentLoss_keeps
    | split
    | dsimp only
    | intro _
    | exact id

end Sys2Proof.Machine
end

