-- ==== Sys2Proof/Laws/KeepsMgmt.lean ====
section
/-! SUPPORT. What each operation of Machine/Mgmt.lean keeps (Laws/Keeps.lean). -/

namespace Sys2Proof.Machine

theorem State.fabReg_keeps {q : List Instr} {n : Nat} {o : List Output} {s : State} (a : Nat → Nat) (v : Nat) (h : Keeps q n o s) :
    Keeps q n o (State.fabReg s a v) := by
  unfold State.fabReg
  try dsimp only
  repeat' first
    | with_reducible assumption
    | with_reducible apply State.forAll_keeps
    | with_reducible apply State.setReg_keeps
    | split
    | dsimp only
    | intro _
    | exact mwf_nil
    | with_reducible exact mwf_mmap (by assumption) _
    | exact id

theorem State.writeDevAddr_keeps {q : List Instr} {n : Nat} {o : List Output} {s : State} (v : Nat) (h : Keeps q n o s) :
    Keeps q n o (State.writeDevAddr s v) := by
  unfold State.writeDevAddr
  try dsimp only
  repeat' first
    | with_reducible assumption
    | with_reducible apply State.fabReg_keeps
    | split
    | dsimp only
    | intro _
    | exact mwf_nil
    | with_reducible exact mwf_mmap (by assumption) _
    | exact id

theorem State.writeDims_keeps {q : List Instr} {n : Nat} {o : List Output} {s : State} (v : Nat) (h : Keeps q n o s) :
    Keeps q n o (State.writeDims s v) := by
  unfold State.writeDims
  try dsimp only
  repeat' first
    | with_reducible assumption
    | with_reducible apply State.fabReg_keeps
    | split
    | dsimp only
    | intro _
    | exact mwf_nil
    | with_reducible exact mwf_mmap (by assumption) _
    | exact id

theorem State.writeAlias_keeps {q : List Instr} {n : Nat} {o : List Output} {s : State} (a v : Nat) (h : Keeps q n o s) :
    Keeps q n o (State.writeAlias s a v) := by
  unfold State.writeAlias
  try dsimp only
  repeat' first
    | with_reducible assumption
    | with_reducible apply State.fabReg_keeps
    | split
    | dsimp only
    | intro _
    | exact mwf_nil
    | with_reducible exact mwf_mmap (by assumption) _
    | exact id

theorem State.writeBudget_keeps {q : List Instr} {n : Nat} {o : List Output} {s : State} (v : Nat) (h : Keeps q n o s) :
    Keeps q n o (State.writeBudget s v) := by
  unfold State.writeBudget
  try dsimp only
  repeat' first
    | with_reducible assumption
    | with_reducible apply State.setReg_keeps
    | split
    | dsimp only
    | intro _
    | exact mwf_nil
    | with_reducible exact mwf_mmap (by assumption) _
    | exact id

theorem State.mgmtCommand_keeps {q : List Instr} {n : Nat} {o : List Output} {s : State} (h : MgmtHdr) (cmd : Nat) (apex : Bool) {f : State → State × Nat × List Nat}
    (hf : ∀ t, Keeps q n o t → Keeps q n o (f t).1) (hk : Keeps q n o s) :
    Keeps q n o (State.mgmtCommand s h cmd apex f) := by
  unfold State.mgmtCommand
  try dsimp only
  repeat' first
    | with_reducible assumption
    | with_reducible apply hf
    | with_reducible apply State.count_keeps
    | with_reducible apply State.emit_keeps
    | with_reducible apply State.onMgmt_keeps
    | split
    | dsimp only
    | intro _
    | exact mwf_nil
    | with_reducible exact mwf_mmap (by assumption) _
    | exact id

theorem ended_keeps {q : List Instr} {n : Nat} {o : List Output} {t : State} (code : Nat) (h : Keeps q n o t) :
    Keeps q n o (ended t code).1 := by
  unfold ended
  try dsimp only
  repeat' first
    | with_reducible assumption
    | split
    | dsimp only
    | intro _
    | exact mwf_nil
    | with_reducible exact mwf_mmap (by assumption) _
    | exact id

theorem State.getIdentity_keeps {q : List Instr} {n : Nat} {o : List Output} {s : State} (h : Keeps q n o s) :
    Keeps q n o (State.getIdentity s).1 := by
  unfold State.getIdentity
  try dsimp only
  repeat' first
    | with_reducible assumption
    | split
    | dsimp only
    | intro _
    | exact mwf_nil
    | with_reducible exact mwf_mmap (by assumption) _
    | exact id

theorem State.getHealth_keeps {q : List Instr} {n : Nat} {o : List Output} {s : State} (h : Keeps q n o s) :
    Keeps q n o (State.getHealth s).1 := by
  unfold State.getHealth
  try dsimp only
  repeat' first
    | with_reducible assumption
    | split
    | dsimp only
    | intro _
    | exact mwf_nil
    | with_reducible exact mwf_mmap (by assumption) _
    | exact id

theorem State.readDevlog_keeps {q : List Instr} {n : Nat} {o : List Output} {s : State} (pos : Nat) (h : Keeps q n o s) :
    Keeps q n o (State.readDevlog s pos).1 := by
  unfold State.readDevlog
  try dsimp only
  repeat' first
    | with_reducible assumption
    | split
    | dsimp only
    | intro _
    | exact mwf_nil
    | with_reducible exact mwf_mmap (by assumption) _
    | exact id

theorem State.getPorts_keeps {q : List Instr} {n : Nat} {o : List Output} {s : State} (h : Keeps q n o s) :
    Keeps q n o (State.getPorts s).1 := by
  unfold State.getPorts
  try dsimp only
  repeat' first
    | with_reducible assumption
    | split
    | dsimp only
    | intro _
    | exact mwf_nil
    | with_reducible exact mwf_mmap (by assumption) _
    | exact id

theorem State.setFabric_keeps {q : List Instr} {n : Nat} {o : List Output} {s : State} (addr dims time : Nat) (h : Keeps q n o s) :
    Keeps q n o (State.setFabric s addr dims time).1 := by
  unfold State.setFabric
  try dsimp only
  repeat' first
    | with_reducible assumption
    | with_reducible apply State.setReg_keeps
    | with_reducible apply State.writeDevAddr_keeps
    | with_reducible apply State.writeDims_keeps
    | with_reducible apply ended_keeps
    | split
    | dsimp only
    | intro _
    | exact mwf_nil
    | with_reducible exact mwf_mmap (by assumption) _
    | exact id

theorem State.setPort_keeps {q : List Instr} {n : Nat} {o : List Output} {s : State} (p v : Nat) (h : Keeps q n o s) :
    Keeps q n o (State.setPort s p v).1 := by
  unfold State.setPort
  try dsimp only
  repeat' first
    | with_reducible assumption
    | with_reducible apply State.portCfgWrite_keeps
    | with_reducible apply ended_keeps
    | split
    | dsimp only
    | intro _
    | exact mwf_nil
    | with_reducible exact mwf_mmap (by assumption) _
    | exact id

theorem State.setPassSlots_keeps {q : List Instr} {n : Nat} {o : List Output} {s : State} (p mask job : Nat) (h : Keeps q n o s) :
    Keeps q n o (State.setPassSlots s p mask job).1 := by
  unfold State.setPassSlots
  try dsimp only
  repeat' first
    | with_reducible assumption
    | with_reducible apply State.forAll_keeps
    | with_reducible apply State.setReg_keeps
    | with_reducible apply ended_keeps
    | split
    | dsimp only
    | intro _
    | exact mwf_nil
    | with_reducible exact mwf_mmap (by assumption) _
    | exact id

theorem State.setAlias_keeps {q : List Instr} {n : Nat} {o : List Output} {s : State} (a logical physical : Nat) (valid : Bool) (h : Keeps q n o s) :
    Keeps q n o (State.setAlias s a logical physical valid).1 := by
  unfold State.setAlias
  try dsimp only
  repeat' first
    | with_reducible assumption
    | with_reducible apply State.writeAlias_keeps
    | with_reducible apply ended_keeps
    | split
    | dsimp only
    | intro _
    | exact mwf_nil
    | with_reducible exact mwf_mmap (by assumption) _
    | exact id

theorem State.fwCommit_keeps {q : List Instr} {n : Nat} {o : List Output} {s : State} (h : Keeps q n o s) :
    Keeps q n o (State.fwCommit s).1 := by
  unfold State.fwCommit
  try dsimp only
  repeat' first
    | with_reducible assumption
    | with_reducible apply State.setSlot_keeps
    | with_reducible apply ended_keeps
    | split
    | dsimp only
    | intro _
    | exact mwf_nil
    | with_reducible exact mwf_mmap (by assumption) _
    | exact id

theorem State.svnAdvance_keeps {q : List Instr} {n' : Nat} {o : List Output} {s : State} (n : Nat) (h : Keeps q n' o s) :
    Keeps q n' o (State.svnAdvance s n).1 := by
  unfold State.svnAdvance
  try dsimp only
  repeat' first
    | with_reducible assumption
    | with_reducible apply State.onMgmt_keeps
    | with_reducible apply State.setFld_keeps
    | with_reducible apply ended_keeps
    | split
    | dsimp only
    | intro _
    | exact mwf_nil
    | with_reducible exact mwf_mmap (by assumption) _
    | exact id

theorem State.diePower_keeps {q : List Instr} {n : Nat} {o : List Output} {s : State} (d op : Nat) (h : Keeps q n o s) :
    Keeps q n o (State.diePower s d op).1 := by
  unfold State.diePower
  try dsimp only
  repeat' first
    | with_reducible assumption
    | with_reducible apply State.pctrl_keeps
    | with_reducible apply ended_keeps
    | split
    | dsimp only
    | intro _
    | exact mwf_nil
    | with_reducible exact mwf_mmap (by assumption) _
    | exact id

theorem State.setBayBudget_keeps {q : List Instr} {n : Nat} {o : List Output} {s : State} (w : Nat) (h : Keeps q n o s) :
    Keeps q n o (State.setBayBudget s w).1 := by
  unfold State.setBayBudget
  try dsimp only
  repeat' first
    | with_reducible assumption
    | with_reducible apply State.writeBudget_keeps
    | with_reducible apply ended_keeps
    | split
    | dsimp only
    | intro _
    | exact mwf_nil
    | with_reducible exact mwf_mmap (by assumption) _
    | exact id

theorem execGetIdentity_keeps {q : List Instr} {n : Nat} {o : List Output} (h : MgmtHdr) {s : State} (hk : Keeps q n o s) :
    ∃ t, execGetIdentity h s = .next t ∧ Keeps q n o t := by
  refine ⟨_, rfl, ?_⟩
  try dsimp only
  repeat' first
    | with_reducible assumption
    | with_reducible apply State.getIdentity_keeps
    | with_reducible apply State.mgmtCommand_keeps
    | split
    | dsimp only
    | intro _
    | exact mwf_nil
    | with_reducible exact mwf_mmap (by assumption) _
    | exact id

theorem execGetHealth_keeps {q : List Instr} {n : Nat} {o : List Output} (h : MgmtHdr) {s : State} (hk : Keeps q n o s) :
    ∃ t, execGetHealth h s = .next t ∧ Keeps q n o t := by
  refine ⟨_, rfl, ?_⟩
  try dsimp only
  repeat' first
    | with_reducible assumption
    | with_reducible apply State.getHealth_keeps
    | with_reducible apply State.mgmtCommand_keeps
    | split
    | dsimp only
    | intro _
    | exact mwf_nil
    | with_reducible exact mwf_mmap (by assumption) _
    | exact id

theorem execReadDevlog_keeps {q : List Instr} {n : Nat} {o : List Output} (h : MgmtHdr) (pos : W32) {s : State} (hk : Keeps q n o s) :
    ∃ t, execReadDevlog h pos s = .next t ∧ Keeps q n o t := by
  refine ⟨_, rfl, ?_⟩
  try dsimp only
  repeat' first
    | with_reducible assumption
    | with_reducible apply State.mgmtCommand_keeps
    | with_reducible apply State.readDevlog_keeps
    | split
    | dsimp only
    | intro _
    | exact mwf_nil
    | with_reducible exact mwf_mmap (by assumption) _
    | exact id

theorem execGetPorts_keeps {q : List Instr} {n : Nat} {o : List Output} (h : MgmtHdr) {s : State} (hk : Keeps q n o s) :
    ∃ t, execGetPorts h s = .next t ∧ Keeps q n o t := by
  refine ⟨_, rfl, ?_⟩
  try dsimp only
  repeat' first
    | with_reducible assumption
    | with_reducible apply State.getPorts_keeps
    | with_reducible apply State.mgmtCommand_keeps
    | split
    | dsimp only
    | intro _
    | exact mwf_nil
    | with_reducible exact mwf_mmap (by assumption) _
    | exact id

theorem execSetFabric_keeps {q : List Instr} {n : Nat} {o : List Output} (h : MgmtHdr) (addr dims time : W32) {s : State} (hk : Keeps q n o s) :
    ∃ t, execSetFabric h addr dims time s = .next t ∧ Keeps q n o t := by
  refine ⟨_, rfl, ?_⟩
  try dsimp only
  repeat' first
    | with_reducible assumption
    | with_reducible apply State.mgmtCommand_keeps
    | with_reducible apply State.setFabric_keeps
    | split
    | dsimp only
    | intro _
    | exact mwf_nil
    | with_reducible exact mwf_mmap (by assumption) _
    | exact id

theorem execSetPort_keeps {q : List Instr} {n : Nat} {o : List Output} (h : MgmtHdr) (port : PortId) (expect sticky : Bool) {s : State} (hk : Keeps q n o s) :
    ∃ t, execSetPort h port expect sticky s = .next t ∧ Keeps q n o t := by
  refine ⟨_, rfl, ?_⟩
  try dsimp only
  repeat' first
    | with_reducible assumption
    | with_reducible apply State.mgmtCommand_keeps
    | with_reducible apply State.setPort_keeps
    | split
    | dsimp only
    | intro _
    | exact mwf_nil
    | with_reducible exact mwf_mmap (by assumption) _
    | exact id

theorem execSetPassSlots_keeps {q : List Instr} {n : Nat} {o : List Output} (h : MgmtHdr) (port : PortId) (mask : W64) (job : W16) {s : State} (hk : Keeps q n o s) :
    ∃ t, execSetPassSlots h port mask job s = .next t ∧ Keeps q n o t := by
  refine ⟨_, rfl, ?_⟩
  try dsimp only
  repeat' first
    | with_reducible assumption
    | with_reducible apply State.mgmtCommand_keeps
    | with_reducible apply State.setPassSlots_keeps
    | split
    | dsimp only
    | intro _
    | exact mwf_nil
    | with_reducible exact mwf_mmap (by assumption) _
    | exact id

theorem execSetAlias_keeps {q : List Instr} {n : Nat} {o : List Output} (h : MgmtHdr) (entry : BitVec 4) (logical physical : BitVec 24) (valid : Bool) {s : State} (hk : Keeps q n o s) :
    ∃ t, execSetAlias h entry logical physical valid s = .next t ∧ Keeps q n o t := by
  refine ⟨_, rfl, ?_⟩
  try dsimp only
  repeat' first
    | with_reducible assumption
    | with_reducible apply State.mgmtCommand_keeps
    | with_reducible apply State.setAlias_keeps
    | split
    | dsimp only
    | intro _
    | exact mwf_nil
    | with_reducible exact mwf_mmap (by assumption) _
    | exact id

theorem execFwCommit_keeps {q : List Instr} {n : Nat} {o : List Output} (h : MgmtHdr) {s : State} (hk : Keeps q n o s) :
    ∃ t, execFwCommit h s = .next t ∧ Keeps q n o t := by
  refine ⟨_, rfl, ?_⟩
  try dsimp only
  repeat' first
    | with_reducible assumption
    | with_reducible apply State.fwCommit_keeps
    | with_reducible apply State.mgmtCommand_keeps
    | split
    | dsimp only
    | intro _
    | exact mwf_nil
    | with_reducible exact mwf_mmap (by assumption) _
    | exact id

theorem execSvnAdvance_keeps {q : List Instr} {n' : Nat} {o : List Output} (h : MgmtHdr) (n : Byte) {s : State} (hk : Keeps q n' o s) :
    ∃ t, execSvnAdvance h n s = .next t ∧ Keeps q n' o t := by
  refine ⟨_, rfl, ?_⟩
  try dsimp only
  repeat' first
    | with_reducible assumption
    | with_reducible apply State.mgmtCommand_keeps
    | with_reducible apply State.svnAdvance_keeps
    | split
    | dsimp only
    | intro _
    | exact mwf_nil
    | with_reducible exact mwf_mmap (by assumption) _
    | exact id

theorem execDeviceScrub_keeps {q : List Instr} {n : Nat} {o : List Output} (h : MgmtHdr) {s : State} (hk : Keeps q n o s) :
    ∃ t, execDeviceScrub h s = .next t ∧ Keeps q n o t := by
  refine ⟨_, rfl, ?_⟩
  try dsimp only
  repeat' first
    | with_reducible assumption
    | with_reducible apply State.mgmtCommand_keeps
    | with_reducible apply State.scrubCommand_keeps
    | with_reducible apply ended_keeps
    | split
    | dsimp only
    | intro _
    | exact mwf_nil
    | with_reducible exact mwf_mmap (by assumption) _
    | exact id

theorem execDiePower_keeps {q : List Instr} {n : Nat} {o : List Output} (h : MgmtHdr) (die op : Byte) {s : State} (hk : Keeps q n o s) :
    ∃ t, execDiePower h die op s = .next t ∧ Keeps q n o t := by
  refine ⟨_, rfl, ?_⟩
  try dsimp only
  repeat' first
    | with_reducible assumption
    | with_reducible apply State.diePower_keeps
    | with_reducible apply State.mgmtCommand_keeps
    | split
    | dsimp only
    | intro _
    | exact mwf_nil
    | with_reducible exact mwf_mmap (by assumption) _
    | exact id

theorem execSetBayBudget_keeps {q : List Instr} {n : Nat} {o : List Output} (h : MgmtHdr) (watts : W16) {s : State} (hk : Keeps q n o s) :
    ∃ t, execSetBayBudget h watts s = .next t ∧ Keeps q n o t := by
  refine ⟨_, rfl, ?_⟩
  try dsimp only
  repeat' first
    | with_reducible assumption
    | with_reducible apply State.mgmtCommand_keeps
    | with_reducible apply State.setBayBudget_keeps
    | split
    | dsimp only
    | intro _
    | exact mwf_nil
    | with_reducible exact mwf_mmap (by assumption) _
    | exact id

end Sys2Proof.Machine
end

