-- ==== Sys2Proof/Laws/KeepsPower.lean ====
section
/-! SUPPORT. What each operation of Machine/Power.lean keeps (Laws/Keeps.lean). -/

namespace Sys2Proof.Machine

/-- At reset every sparse map is canonical. -/
theorem reset_canonical : State.reset.Canonical where
  regs := by decide +kernel
  engines := rfl
  lofts := ⟨rfl, rfl, rfl, rfl, rfl⟩
  mem := ⟨rfl, rfl, rfl, rfl, rfl, rfl, rfl, rfl⟩
  cq := ⟨rfl, rfl, rfl, rfl⟩
  flt := ⟨rfl, rfl, rfl, rfl, rfl, rfl, rfl, rfl⟩
  cache := rfl
  copies := rfl
  ports := rfl
  keys := rfl
  models := rfl
  sensors := rfl
  engine := by intro e he; cases he

theorem State.resetAll_keeps {q : List Instr} {n : Nat} {o : List Output} {s : State} (h : Keeps q n o s) :
    Keeps q n o (State.resetAll s) := by
  unfold State.resetAll
  extract_lets r m0 m p0 p t u
  have ht : Keeps q n o t := ⟨h.pending, h.draws, h.out, { reset_canonical with sensors := h.canon.sensors }⟩
  have hu : Keeps q n o u := State.setFld_keeps (State.forAll_keeps ht _ fun _ _ hk => State.setReg_keeps hk _ _) _ _ _ _
  split
  · exact State.setFld_keeps hu _ _ _ _
  · exact hu

theorem State.leaveHold_keeps {q : List Instr} {n : Nat} {o : List Output} {s : State} (h : Keeps q n o s) :
    Keeps q n o (State.leaveHold s) := by
  unfold State.leaveHold
  try dsimp only
  repeat' first
    | with_reducible assumption
    | with_reducible apply State.onPins_keeps
    | split
    | dsimp only
    | intro _
    | exact mwf_nil
    | with_reducible exact mwf_mmap (by assumption) _
    | exact id

theorem State.pkgAssert_keeps {q : List Instr} {n : Nat} {o : List Output} {s : State} (h : Keeps q n o s) :
    Keeps q n o (State.pkgAssert s) := by
  unfold State.pkgAssert
  try dsimp only
  repeat' first
    | with_reducible assumption
    | with_reducible apply State.onPins_keeps
    | with_reducible apply State.resetAll_keeps
    | split
    | dsimp only
    | intro _
    | exact mwf_nil
    | with_reducible exact mwf_mmap (by assumption) _
    | exact id

theorem State.pkgRelease_keeps {q : List Instr} {n : Nat} {o : List Output} {s : State} (clocks : Nat) (h : Keeps q n o s) :
    Keeps q n o (State.pkgRelease s clocks) := by
  unfold State.pkgRelease
  try dsimp only
  repeat' first
    | with_reducible assumption
    | with_reducible apply State.leaveHold_keeps
    | with_reducible apply State.onPins_keeps
    | split
    | dsimp only
    | intro _
    | exact mwf_nil
    | with_reducible exact mwf_mmap (by assumption) _
    | exact id

theorem State.useTries_keeps {q : List Instr} {n : Nat} {o : List Output} {s : State} (h : Keeps q n o s) :
    Keeps q n o (State.useTries s) := by
  unfold State.useTries
  try dsimp only
  repeat' first
    | with_reducible assumption
    | with_reducible apply State.forAll_keeps
    | with_reducible apply State.setSlot_keeps
    | split
    | dsimp only
    | intro _
    | exact mwf_nil
    | with_reducible exact mwf_mmap (by assumption) _
    | exact id

theorem State.measureBoot_keeps {q : List Instr} {n : Nat} {o : List Output} {s : State} (x : FwSlot) (tags : Bool) (h : Keeps q n o s) :
    Keeps q n o (State.measureBoot s x tags) := by
  unfold State.measureBoot
  try dsimp only
  repeat' first
    | with_reducible assumption
    | with_reducible apply State.measureIsland_keeps
    | with_reducible apply State.setDigest_keeps
    | split
    | dsimp only
    | intro _
    | exact mwf_nil
    | with_reducible exact mwf_mmap (by assumption) _
    | exact id

theorem State.bootScrub_keeps {q : List Instr} {n : Nat} {o : List Output} {s : State} (bad : Nat) (h : Keeps q n o s) :
    Keeps q n o (State.bootScrub s bad) := by
  unfold State.bootScrub
  try dsimp only
  repeat' first
    | with_reducible assumption
    | with_reducible apply State.draw_keeps
    | with_reducible apply State.forAll_keeps
    | with_reducible apply State.setFld_keeps
    | with_reducible apply State.setReg_keeps
    | split
    | dsimp only
    | intro _
    | exact mwf_nil
    | with_reducible exact mwf_mmap (by assumption) _
    | exact id

theorem State.bootImage_keeps {q : List Instr} {n' : Nat} {o : List Output} {s : State} (n : Nat) (i : BootIn) (h : Keeps q n' o s) :
    Keeps q n' o (State.bootImage s n i) := by
  unfold State.bootImage
  try dsimp only
  repeat' first
    | with_reducible assumption
    | with_reducible apply State.bootScrub_keeps
    | with_reducible apply State.draw_keeps
    | with_reducible apply State.forAll_keeps
    | with_reducible apply State.leaveReset_keeps
    | with_reducible apply State.measureBoot_keeps
    | with_reducible apply State.onMgmt_keeps
    | with_reducible apply State.onPins_keeps
    | with_reducible apply State.onSec_keeps
    | with_reducible apply State.portCfgWrite_keeps
    | with_reducible apply State.raise_keeps
    | with_reducible apply State.setFld_keeps
    | with_reducible apply State.setReg_keeps
    | with_reducible apply State.writeDevAddr_keeps
    | with_reducible apply State.writeDims_keeps
    | split
    | dsimp only
    | intro _
    | exact mwf_nil
    | with_reducible exact mwf_mmap (by assumption) _
    | exact id

theorem State.recovery_keeps {q : List Instr} {n : Nat} {o : List Output} {s : State} (h : Keeps q n o s) :
    Keeps q n o (State.recovery s) := by
  unfold State.recovery
  try dsimp only
  repeat' first
    | with_reducible assumption
    | with_reducible apply State.onPins_keeps
    | with_reducible apply State.setDigest_keeps
    | with_reducible apply State.setFld_keeps
    | split
    | dsimp only
    | intro _
    | exact mwf_nil
    | with_reducible exact mwf_mmap (by assumption) _
    | exact id

theorem State.bootComplete_keeps {q : List Instr} {n : Nat} {o : List Output} {s : State} (i : BootIn) (h : Keeps q n o s) :
    Keeps q n o (State.bootComplete s i) := by
  unfold State.bootComplete
  try dsimp only
  repeat' first
    | with_reducible assumption
    | with_reducible apply State.bootImage_keeps
    | with_reducible apply State.recovery_keeps
    | with_reducible apply State.useTries_keeps
    | split
    | dsimp only
    | intro _
    | exact mwf_nil
    | with_reducible exact mwf_mmap (by assumption) _
    | exact id

theorem State.deviceEvent_keeps {q : List Instr} {n : Nat} {o : List Output} {s : State} (h : Keeps q n o s) :
    Keeps q n o (State.deviceEvent s) := by
  unfold State.deviceEvent
  try dsimp only
  repeat' first
    | with_reducible assumption
    | with_reducible apply State.raise_keeps
    | split
    | dsimp only
    | intro _
    | exact mwf_nil
    | with_reducible exact mwf_mmap (by assumption) _
    | exact id

theorem State.railFail_keeps {q : List Instr} {n : Nat} {o : List Output} {s : State} (r : Nat) (h : Keeps q n o s) :
    Keeps q n o (State.railFail s r) := by
  unfold State.railFail
  try dsimp only
  repeat' first
    | with_reducible assumption
    | with_reducible apply State.deviceEvent_keeps
    | with_reducible apply State.islandLost_keeps
    | with_reducible apply State.onMgmt_keeps
    | with_reducible apply State.onPins_keeps
    | with_reducible apply State.resetAll_keeps
    | with_reducible apply State.setFld_keeps
    | with_reducible apply State.tamper_keeps
    | split
    | dsimp only
    | intro _
    | exact mwf_nil
    | with_reducible exact mwf_mmap (by assumption) _
    | exact id

theorem State.railRise_keeps {q : List Instr} {n : Nat} {o : List Output} {s : State} (r : Nat) (h : Keeps q n o s) :
    Keeps q n o (State.railRise s r) := by
  unfold State.railRise
  try dsimp only
  repeat' first
    | with_reducible assumption
    | with_reducible apply State.setFld_keeps
    | split
    | dsimp only
    | intro _
    | exact mwf_nil
    | with_reducible exact mwf_mmap (by assumption) _
    | exact id

theorem State.clockLoss_keeps {q : List Instr} {n : Nat} {o : List Output} {s : State} (k : Nat) (h : Keeps q n o s) :
    Keeps q n o (State.clockLoss s k) := by
  unfold State.clockLoss
  try dsimp only
  repeat' first
    | with_reducible assumption
    | with_reducible apply State.count_keeps
    | with_reducible apply State.enterPort_keeps
    | with_reducible apply State.forAll_keeps
    | with_reducible apply State.linkDown_keeps
    | with_reducible apply State.onPins_keeps
    | with_reducible apply State.setFld_keeps
    | with_reducible apply State.signalLoss_keeps
    | with_reducible apply State.tamper_keeps
    | split
    | dsimp only
    | intro _
    | exact mwf_nil
    | with_reducible exact mwf_mmap (by assumption) _
    | exact id

theorem State.ppsOut_keeps {q : List Instr} {n : Nat} {o : List Output} {s : State} (h : Keeps q n o s) :
    Keeps q n o (State.ppsOut s) := by
  unfold State.ppsOut
  try dsimp only
  repeat' first
    | with_reducible assumption
    | with_reducible apply State.onPins_keeps
    | split
    | dsimp only
    | intro _
    | exact mwf_nil
    | with_reducible exact mwf_mmap (by assumption) _
    | exact id

theorem State.thermNotice_keeps {q : List Instr} {n : Nat} {o : List Output} {s : State} (b : Nat) (h : Keeps q n o s) :
    Keeps q n o (State.thermNotice s b) := by
  unfold State.thermNotice
  try dsimp only
  repeat' first
    | with_reducible assumption
    | with_reducible apply State.notice_keeps
    | with_reducible apply State.setFld_keeps
    | with_reducible apply State.setReg_keeps
    | split
    | dsimp only
    | intro _
    | exact mwf_nil
    | with_reducible exact mwf_mmap (by assumption) _
    | exact id

theorem State.emergency_keeps {q : List Instr} {n : Nat} {o : List Output} {s : State} (h : Keeps q n o s) :
    Keeps q n o (State.emergency s) := by
  unfold State.emergency
  try dsimp only
  repeat' first
    | with_reducible assumption
    | with_reducible apply State.count_keeps
    | with_reducible apply State.forAll_keeps
    | with_reducible apply State.setClock_keeps
    | with_reducible apply State.setFld_keeps
    | with_reducible apply State.thermNotice_keeps
    | split
    | dsimp only
    | intro _
    | exact mwf_nil
    | with_reducible exact mwf_mmap (by assumption) _
    | exact id

theorem State.clampRelease_keeps {q : List Instr} {n : Nat} {o : List Output} {s : State} (h : Keeps q n o s) :
    Keeps q n o (State.clampRelease s) := by
  unfold State.clampRelease
  try dsimp only
  repeat' first
    | with_reducible assumption
    | with_reducible apply State.setFld_keeps
    | split
    | dsimp only
    | intro _
    | exact mwf_nil
    | with_reducible exact mwf_mmap (by assumption) _
    | exact id

theorem State.tripped_keeps {q : List Instr} {n : Nat} {o : List Output} {s : State} (h : Keeps q n o s) :
    Keeps q n o (State.tripped s) := by
  unfold State.tripped
  try dsimp only
  repeat' first
    | with_reducible assumption
    | with_reducible apply State.enterPort_keeps
    | with_reducible apply State.forAll_keeps
    | with_reducible apply State.linkDown_keeps
    | with_reducible apply State.onPins_keeps
    | with_reducible apply State.tamper_keeps
    | split
    | dsimp only
    | intro _
    | exact mwf_nil
    | with_reducible exact mwf_mmap (by assumption) _
    | exact id

theorem State.testEnHigh_keeps {q : List Instr} {n : Nat} {o : List Output} {s : State} (h : Keeps q n o s) :
    Keeps q n o (State.testEnHigh s) := by
  unfold State.testEnHigh
  try dsimp only
  repeat' first
    | with_reducible assumption
    | with_reducible apply State.onPins_keeps
    | with_reducible apply State.resetAll_keeps
    | split
    | dsimp only
    | intro _
    | exact mwf_nil
    | with_reducible exact mwf_mmap (by assumption) _
    | exact id

theorem State.testEnLow_keeps {q : List Instr} {n : Nat} {o : List Output} {s : State} (h : Keeps q n o s) :
    Keeps q n o (State.testEnLow s) := by
  unfold State.testEnLow
  try dsimp only
  repeat' first
    | with_reducible assumption
    | with_reducible apply State.leaveHold_keeps
    | with_reducible apply State.onPins_keeps
    | split
    | dsimp only
    | intro _
    | exact mwf_nil
    | with_reducible exact mwf_mmap (by assumption) _
    | exact id

theorem execPkgResetAssert_keeps {q : List Instr} {n : Nat} {o : List Output} {s : State} (h : Keeps q n o s) :
    ∃ t, execPkgResetAssert s = .next t ∧ Keeps q n o t := by
  refine ⟨_, rfl, ?_⟩
  try dsimp only
  repeat' first
    | with_reducible assumption
    | with_reducible apply State.pkgAssert_keeps
    | split
    | dsimp only
    | intro _
    | exact mwf_nil
    | with_reducible exact mwf_mmap (by assumption) _
    | exact id

theorem execPkgResetRelease_keeps {q : List Instr} {n : Nat} {o : List Output} (clocks : BitVec 4) {s : State} (h : Keeps q n o s) :
    ∃ t, execPkgResetRelease clocks s = .next t ∧ Keeps q n o t := by
  refine ⟨_, rfl, ?_⟩
  try dsimp only
  repeat' first
    | with_reducible assumption
    | with_reducible apply State.pkgRelease_keeps
    | split
    | dsimp only
    | intro _
    | exact mwf_nil
    | with_reducible exact mwf_mmap (by assumption) _
    | exact id

theorem execBootComplete_keeps {q : List Instr} {n : Nat} {o : List Output} (expect : Byte) (addr : BitVec 24) (dims : BitVec 26) (tags : Bool) (bad : BitVec 20) {s : State} (h : Keeps q n o s) :
    ∃ t, execBootComplete expect addr dims tags bad s = .next t ∧ Keeps q n o t := by
  refine ⟨_, rfl, ?_⟩
  try dsimp only
  repeat' first
    | with_reducible assumption
    | with_reducible apply State.bootComplete_keeps
    | split
    | dsimp only
    | intro _
    | exact mwf_nil
    | with_reducible exact mwf_mmap (by assumption) _
    | exact id

theorem execRailPowerFail_keeps {q : List Instr} {n : Nat} {o : List Output} (rail : BitVec 3) {s : State} (h : Keeps q n o s) :
    ∃ t, execRailPowerFail rail s = .next t ∧ Keeps q n o t := by
  refine ⟨_, rfl, ?_⟩
  try dsimp only
  repeat' first
    | with_reducible assumption
    | with_reducible apply State.railFail_keeps
    | split
    | dsimp only
    | intro _
    | exact mwf_nil
    | with_reducible exact mwf_mmap (by assumption) _
    | exact id

theorem execRailRise_keeps {q : List Instr} {n : Nat} {o : List Output} (rail : BitVec 3) {s : State} (h : Keeps q n o s) :
    ∃ t, execRailRise rail s = .next t ∧ Keeps q n o t := by
  refine ⟨_, rfl, ?_⟩
  try dsimp only
  repeat' first
    | with_reducible assumption
    | with_reducible apply State.railRise_keeps
    | split
    | dsimp only
    | intro _
    | exact mwf_nil
    | with_reducible exact mwf_mmap (by assumption) _
    | exact id

theorem execRefclkLoss_keeps {q : List Instr} {n : Nat} {o : List Output} (clock : Fin 5) {s : State} (h : Keeps q n o s) :
    ∃ t, execRefclkLoss clock s = .next t ∧ Keeps q n o t := by
  refine ⟨_, rfl, ?_⟩
  try dsimp only
  repeat' first
    | with_reducible assumption
    | with_reducible apply State.clockLoss_keeps
    | split
    | dsimp only
    | intro _
    | exact mwf_nil
    | with_reducible exact mwf_mmap (by assumption) _
    | exact id

theorem execTimePpsOutput_keeps {q : List Instr} {n : Nat} {o : List Output} {s : State} (h : Keeps q n o s) :
    ∃ t, execTimePpsOutput s = .next t ∧ Keeps q n o t := by
  refine ⟨_, rfl, ?_⟩
  try dsimp only
  repeat' first
    | with_reducible assumption
    | with_reducible apply State.ppsOut_keeps
    | split
    | dsimp only
    | intro _
    | exact mwf_nil
    | with_reducible exact mwf_mmap (by assumption) _
    | exact id

theorem execThermalEmergency_keeps {q : List Instr} {n : Nat} {o : List Output} {s : State} (h : Keeps q n o s) :
    ∃ t, execThermalEmergency s = .next t ∧ Keeps q n o t := by
  refine ⟨_, rfl, ?_⟩
  try dsimp only
  repeat' first
    | with_reducible assumption
    | with_reducible apply State.emergency_keeps
    | split
    | dsimp only
    | intro _
    | exact mwf_nil
    | with_reducible exact mwf_mmap (by assumption) _
    | exact id

theorem execThermalClampRelease_keeps {q : List Instr} {n : Nat} {o : List Output} {s : State} (h : Keeps q n o s) :
    ∃ t, execThermalClampRelease s = .next t ∧ Keeps q n o t := by
  refine ⟨_, rfl, ?_⟩
  try dsimp only
  repeat' first
    | with_reducible assumption
    | with_reducible apply State.clampRelease_keeps
    | split
    | dsimp only
    | intro _
    | exact mwf_nil
    | with_reducible exact mwf_mmap (by assumption) _
    | exact id

theorem execThermalTrip_keeps {q : List Instr} {n : Nat} {o : List Output} {s : State} (h : Keeps q n o s) :
    ∃ t, execThermalTrip s = .next t ∧ Keeps q n o t := by
  refine ⟨_, rfl, ?_⟩
  try dsimp only
  repeat' first
    | with_reducible assumption
    | with_reducible apply State.tripped_keeps
    | split
    | dsimp only
    | intro _
    | exact mwf_nil
    | with_reducible exact mwf_mmap (by assumption) _
    | exact id

theorem execTestEnAssert_keeps {q : List Instr} {n : Nat} {o : List Output} {s : State} (h : Keeps q n o s) :
    ∃ t, execTestEnAssert s = .next t ∧ Keeps q n o t := by
  refine ⟨_, rfl, ?_⟩
  try dsimp only
  repeat' first
    | with_reducible assumption
    | with_reducible apply State.testEnHigh_keeps
    | split
    | dsimp only
    | intro _
    | exact mwf_nil
    | with_reducible exact mwf_mmap (by assumption) _
    | exact id

theorem execTestEnRelease_keeps {q : List Instr} {n : Nat} {o : List Output} {s : State} (h : Keeps q n o s) :
    ∃ t, execTestEnRelease s = .next t ∧ Keeps q n o t := by
  refine ⟨_, rfl, ?_⟩
  try dsimp only
  repeat' first
    | with_reducible assumption
    | with_reducible apply State.testEnLow_keeps
    | split
    | dsimp only
    | intro _
    | exact mwf_nil
    | with_reducible exact mwf_mmap (by assumption) _
    | exact id

end Sys2Proof.Machine
end

