-- ==== Sys2Proof/Laws/KeepsHostAccess.lean ====
section
/-! SUPPORT. What each operation of Machine/HostAccess.lean keeps (Laws/Keeps.lean). -/

namespace Sys2Proof.Machine

theorem State.readWhole_keeps {q : List Instr} {n : Nat} {o : List Output} {s : State} (d : Nat) (r : RegRow) (a : Nat) (h : Keeps q n o s) :
    Keeps q n o (State.readWhole s d r a).2 := by
  unfold State.readWhole
  try dsimp only
  repeat' first
    | with_reducible assumption
    | with_reducible apply Engine.view_keeps
    | with_reducible apply State.setReg_keeps
    | with_reducible apply State.wmUpdate_keeps
    | split
    | dsimp only
    | intro _
    | exact mwf_nil
    | with_reducible exact mwf_mmap (by assumption) _
    | exact id

theorem State.qCtrlWrite_keeps {q' : List Instr} {n : Nat} {o : List Output} {s : State} (q v : Nat) (h : Keeps q' n o s) :
    Keeps q' n o (State.qCtrlWrite s q v) := by
  unfold State.qCtrlWrite
  try dsimp only
  repeat' first
    | with_reducible assumption
    | with_reducible apply State.qDisable_keeps
    | with_reducible apply State.qEnable_keeps
    | with_reducible apply State.qPreempt_keeps
    | with_reducible apply State.resumeContinue_keeps
    | with_reducible apply State.resumeDiscard_keeps
    | with_reducible apply State.resumeRetry_keeps
    | split
    | dsimp only
    | intro _
    | exact mwf_nil
    | with_reducible exact mwf_mmap (by assumption) _
    | exact id

theorem State.ercCtrlWrite_keeps {q : List Instr} {n : Nat} {o : List Output} {s : State} (d v : Nat) (h : Keeps q n o s) :
    Keeps q n o (State.ercCtrlWrite s d v) := by
  unfold State.ercCtrlWrite
  try dsimp only
  repeat' first
    | with_reducible assumption
    | with_reducible apply State.ercArm_keeps
    | with_reducible apply State.ercDisarm_keeps
    | with_reducible apply State.forAll_keeps
    | split
    | dsimp only
    | intro _
    | exact mwf_nil
    | with_reducible exact mwf_mmap (by assumption) _
    | exact id

theorem twoWay_keeps {q : List Instr} {n : Nat} {o : List Output} {s : State} (v : Nat) {on off : State} (h : Keeps q n o s) (hon : Keeps q n o on) (hoff : Keeps q n o off) :
    Keeps q n o (twoWay s v on off) := by
  unfold twoWay
  try dsimp only
  repeat' first
    | with_reducible assumption
    | split
    | dsimp only
    | intro _
    | exact mwf_nil
    | with_reducible exact mwf_mmap (by assumption) _
    | exact id

theorem State.putIf_keeps {q : List Instr} {n : Nat} {o : List Output} {s : State} (a v : Nat) (ok : Bool) (h : Keeps q n o s) :
    Keeps q n o (State.putIf s a v ok) := by
  unfold State.putIf
  try dsimp only
  repeat' first
    | with_reducible assumption
    | with_reducible apply State.setReg_keeps
    | split
    | dsimp only
    | intro _
    | exact mwf_nil
    | with_reducible exact mwf_mmap (by assumption) _
    | exact id

theorem State.fabWrite_keeps {q : List Instr} {n : Nat} {o : List Output} {s : State} (d base i v : Nat) (h : Keeps q n o s) :
    Keeps q n o (State.fabWrite s d base i v) := by
  unfold State.fabWrite
  try dsimp only
  repeat' first
    | with_reducible assumption
    | with_reducible apply State.fabReg_keeps
    | with_reducible apply State.writeAlias_keeps
    | with_reducible apply State.writeDevAddr_keeps
    | with_reducible apply State.writeDims_keeps
    | split
    | dsimp only
    | intro _
    | exact mwf_nil
    | with_reducible exact mwf_mmap (by assumption) _
    | exact id

theorem State.keyWrite_keeps {q : List Instr} {n : Nat} {o : List Output} {s : State} (i v : Nat) (h : Keeps q n o s) :
    Keeps q n o (State.keyWrite s i v) := by
  unfold State.keyWrite
  try dsimp only
  repeat' first
    | with_reducible assumption
    | with_reducible apply State.onMgmt_keeps
    | with_reducible apply State.setReg_keeps
    | split
    | dsimp only
    | intro _
    | exact mwf_nil
    | with_reducible exact mwf_mmap (by assumption) _
    | exact id

theorem State.ownWrite_keeps {q : List Instr} {n : Nat} {o : List Output} {s : State} (by_ : Agent) (d : Nat) (r : RegRow) (i j a v : Nat) (h : Keeps q n o s) :
    ∀ t, State.ownWrite s by_ d r i j a v = some t → Keeps q n o t := by
  intro t ht
  unfold State.ownWrite at ht
  try dsimp only at ht
  repeat' first
    | contradiction
    | (obtain rfl := Option.some.inj ht; clear ht)
    | with_reducible assumption
    | with_reducible apply State.brkCtrlWrite_keeps
    | with_reducible apply State.ccWinWrite_keeps
    | with_reducible apply State.clearStart_keeps
    | with_reducible apply State.cplHeadWrite_keeps
    | with_reducible apply State.doorbell_keeps
    | with_reducible apply State.engPower_keeps
    | with_reducible apply State.ercCtrlWrite_keeps
    | with_reducible apply State.evtSig_keeps
    | with_reducible apply State.fabWrite_keeps
    | with_reducible apply State.fifoPop_keeps
    | with_reducible apply State.flushVecs_keeps
    | with_reducible apply State.jnlAckWrite_keeps
    | with_reducible apply State.keyWrite_keeps
    | with_reducible apply State.lwCfgWrite_keeps
    | with_reducible apply State.pctrl_keeps
    | with_reducible apply State.portCfgWrite_keeps
    | with_reducible apply State.putIf_keeps
    | with_reducible apply State.qCtrlWrite_keeps
    | with_reducible apply State.rtDisable_keeps
    | with_reducible apply State.rtEnable_keeps
    | with_reducible apply State.scrubCommand_keeps
    | with_reducible apply State.sentCtrl_keeps
    | with_reducible apply State.setFld_keeps
    | with_reducible apply State.setReg_keeps
    | with_reducible apply State.spadOwnWrite_keeps
    | with_reducible apply State.wmArm_keeps
    | with_reducible apply State.wmDisarm_keeps
    | with_reducible apply State.writeBudget_keeps
    | with_reducible apply twoWay_keeps
    | split at ht
    | split
    | dsimp only
    | intro _

theorem State.writeWhole_keeps {q : List Instr} {n : Nat} {o : List Output} {s : State} (by_ : Agent) (d : Nat) (r : RegRow) (a w : Nat) (h : Keeps q n o s) :
    Keeps q n o (State.writeWhole s by_ d r a w) := by
  unfold State.writeWhole
  try dsimp only
  repeat' first
    | with_reducible assumption
    | (refine State.ownWrite_keeps _ _ _ _ _ _ _ ?_ _ ‹_ = some _›)
    | with_reducible apply State.putIf_keeps
    | with_reducible apply State.setReg_keeps
    | split
    | dsimp only
    | intro _
    | exact mwf_nil
    | with_reducible exact mwf_mmap (by assumption) _
    | exact id

theorem State.writeHalf_keeps {q : List Instr} {n : Nat} {o : List Output} {s : State} (by_ : Agent) (d : Nat) (r : RegRow) (a h v : Nat) (hk : Keeps q n o s) :
    Keeps q n o (State.writeHalf s by_ d r a h v) := by
  unfold State.writeHalf
  try dsimp only
  repeat' first
    | with_reducible assumption
    | with_reducible apply State.writeWhole_keeps
    | split
    | dsimp only
    | intro _
    | exact mwf_nil
    | with_reducible exact mwf_mmap (by assumption) _
    | exact id

theorem State.applyHeld_keeps {q : List Instr} {n' : Nat} {o : List Output} {s : State} (n : Nat) (h : Keeps q n' o s) :
    Keeps q n' o (State.applyHeld s n) := by
  unfold State.applyHeld
  try dsimp only
  repeat' first
    | with_reducible assumption
    | with_reducible apply State.setLink_keeps
    | with_reducible apply State.writeHalf_keeps
    | split
    | dsimp only
    | intro _
    | exact mwf_nil
    | with_reducible exact mwf_mmap (by assumption) _
    | exact id

theorem State.dropLatch_keeps {q : List Instr} {n' : Nat} {o : List Output} {s : State} (n : Nat) (h : Keeps q n' o s) :
    Keeps q n' o (State.dropLatch s n) := by
  unfold State.dropLatch
  try dsimp only
  repeat' first
    | with_reducible assumption
    | with_reducible apply State.setLink_keeps
    | split
    | dsimp only
    | intro _
    | exact mwf_nil
    | with_reducible exact mwf_mmap (by assumption) _
    | exact id

theorem State.write32_keeps {q : List Instr} {n : Nat} {o : List Output} {s : State} (by_ : Agent) (a v : Nat) (h : Keeps q n o s) :
    Keeps q n o (State.write32 s by_ a v) := by
  unfold State.write32
  try dsimp only
  repeat' first
    | with_reducible assumption
    | with_reducible apply State.setLink_keeps
    | with_reducible apply State.writeHalf_keeps
    | with_reducible apply State.writeWhole_keeps
    | split
    | dsimp only
    | intro _
    | exact mwf_nil
    | with_reducible exact mwf_mmap (by assumption) _
    | exact id

theorem State.write64_keeps {q : List Instr} {n : Nat} {o : List Output} {s : State} (by_ : Agent) (a v : Nat) (h : Keeps q n o s) :
    Keeps q n o (State.write64 s by_ a v) := by
  unfold State.write64
  try dsimp only
  repeat' first
    | with_reducible assumption
    | with_reducible apply State.write32_keeps
    | with_reducible apply State.writeWhole_keeps
    | split
    | dsimp only
    | intro _
    | exact mwf_nil
    | with_reducible exact mwf_mmap (by assumption) _
    | exact id

theorem State.joined_keeps {q : List Instr} {n' : Nat} {o : List Output} {s : State} (n a size v : Nat) (h : Keeps q n' o s) :
    ∀ t, State.joined s n a size v = some t → Keeps q n' o t := by
  intro t ht
  unfold State.joined at ht
  try dsimp only at ht
  repeat' first
    | contradiction
    | (obtain rfl := Option.some.inj ht; clear ht)
    | with_reducible assumption
    | with_reducible apply State.setLink_keeps
    | with_reducible apply State.write64_keeps
    | split at ht
    | split
    | dsimp only
    | intro _

theorem State.barWrite_keeps {q : List Instr} {n : Nat} {o : List Output} {s : State} (by_ : Agent) (a size v : Nat) (h : Keeps q n o s) :
    Keeps q n o (State.barWrite s by_ a size v) := by
  unfold State.barWrite
  try dsimp only
  repeat' first
    | with_reducible assumption
    | with_reducible apply State.applyHeld_keeps
    | with_reducible apply State.dropLatch_keeps
    | (refine State.joined_keeps _ _ _ _ ?_ _ ‹_ = some _›)
    | with_reducible apply State.write32_keeps
    | with_reducible apply State.write64_keeps
    | split
    | dsimp only
    | intro _
    | exact mwf_nil
    | with_reducible exact mwf_mmap (by assumption) _
    | exact id

theorem State.read32_keeps {q : List Instr} {n' : Nat} {o : List Output} {s : State} (n : Nat) (latch : Option (Nat × Nat)) (a : Nat) (h : Keeps q n' o s) :
    Keeps q n' o (State.read32 s n latch a).2 := by
  unfold State.read32
  try dsimp only
  repeat' first
    | with_reducible assumption
    | with_reducible apply State.readWhole_keeps
    | with_reducible apply State.setLink_keeps
    | split
    | dsimp only
    | intro _
    | exact mwf_nil
    | with_reducible exact mwf_mmap (by assumption) _
    | exact id

theorem addHigh_keeps {q : List Instr} {n : Nat} {o : List Output} (lo : Nat) {hi : Nat × State} (h : Keeps q n o hi.2) :
    Keeps q n o (addHigh lo hi).2 := by
  rw [addHigh]
  exact h

theorem readHigh_keeps {q : List Instr} {n' : Nat} {o : List Output} {lo : Nat × State} (n a : Nat) (h : Keeps q n' o lo.2) :
    Keeps q n' o (readHigh lo n a).2 := addHigh_keeps _ (State.read32_keeps _ _ _ h)

theorem State.readTwo_keeps {q : List Instr} {n' : Nat} {o : List Output} {s : State} (n a : Nat) (h : Keeps q n' o s) :
    Keeps q n' o (State.readTwo s n a).2 := readHigh_keeps _ _ (State.read32_keeps _ _ _ h)

theorem State.read64At_keeps {q : List Instr} {n' : Nat} {o : List Output} {s : State} (n a : Nat) (x : Option (Nat × RegRow × Nat)) (h : Keeps q n' o s) :
    Keeps q n' o (State.read64At s n a x).2 := by
  unfold State.read64At
  split
  · split
    · split
      · exact State.readWhole_keeps _ _ _ h
      · exact h
    · exact State.readTwo_keeps _ _ h
  · exact State.readTwo_keeps _ _ h

theorem State.read64_keeps {q : List Instr} {n' : Nat} {o : List Output} {s : State} (n a : Nat) (h : Keeps q n' o s) :
    Keeps q n' o (State.read64 s n a).2 := State.read64At_keeps _ _ _ h

theorem State.barRead_keeps {q : List Instr} {n' : Nat} {o : List Output} {s : State} (n a size : Nat) (h : Keeps q n' o s) :
    Keeps q n' o (State.barRead s n a size) := by
  unfold State.barRead
  try dsimp only
  repeat' first
    | with_reducible assumption
    | with_reducible apply State.applyHeld_keeps
    | with_reducible apply State.dropLatch_keeps
    | with_reducible apply State.emit_keeps
    | with_reducible apply State.read32_keeps
    | with_reducible apply State.read64_keeps
    | split
    | dsimp only
    | intro _
    | exact mwf_nil
    | with_reducible exact mwf_mmap (by assumption) _
    | exact id

theorem execRegisterWrite_keeps {q : List Instr} {n : Nat} {o : List Output} (by_ : Agent) (addr : BitVec 26) (size : Nat) (data : W64) {s : State} (h : Keeps q n o s) :
    ∃ t, execRegisterWrite by_ addr size data s = .next t ∧ Keeps q n o t := by
  refine ⟨_, rfl, ?_⟩
  try dsimp only
  repeat' first
    | with_reducible assumption
    | with_reducible apply State.barWrite_keeps
    | split
    | dsimp only
    | intro _
    | exact mwf_nil
    | with_reducible exact mwf_mmap (by assumption) _
    | exact id

theorem execRegisterReadClear_keeps {q : List Instr} {n : Nat} {o : List Output} (link : LinkId) (addr : BitVec 26) (size : Nat) {s : State} (h : Keeps q n o s) :
    ∃ t, execRegisterReadClear link addr size s = .next t ∧ Keeps q n o t := by
  refine ⟨_, rfl, ?_⟩
  try dsimp only
  repeat' first
    | with_reducible assumption
    | with_reducible apply State.barRead_keeps
    | split
    | dsimp only
    | intro _
    | exact mwf_nil
    | with_reducible exact mwf_mmap (by assumption) _
    | exact id

theorem execBar0LowHalfTimeout_keeps {q : List Instr} {n : Nat} {o : List Output} (link : LinkId) {s : State} (h : Keeps q n o s) :
    ∃ t, execBar0LowHalfTimeout link s = .next t ∧ Keeps q n o t := by
  refine ⟨_, rfl, ?_⟩
  try dsimp only
  repeat' first
    | with_reducible assumption
    | with_reducible apply State.applyHeld_keeps
    | split
    | dsimp only
    | intro _
    | exact mwf_nil
    | with_reducible exact mwf_mmap (by assumption) _
    | exact id

end Sys2Proof.Machine
end

