-- ==== Sys2Proof/Laws/KeepsMirror.lean ====
section
/-! SUPPORT. What each operation of Machine/Mirror.lean keeps (Laws/Keeps.lean). -/

namespace Sys2Proof.Machine

theorem State.mirBit_keeps {q : List Instr} {n : Nat} {o : List Output} {s : State} (b i v : Nat) (h : Keeps q n o s) :
    Keeps q n o (State.mirBit s b i v) := by
  unfold State.mirBit
  try dsimp only
  repeat' first
    | with_reducible assumption
    | with_reducible apply State.setFld_keeps
    | split
    | dsimp only
    | intro _
    | exact id

theorem State.mirSend_keeps {q : List Instr} {n : Nat} {o : List Output} {s : State} (b i line : Nat) (bs : List Byte) (h : Keeps q n o s) :
    Keeps q n o (State.mirSend s b i line bs) := by
  unfold State.mirSend
  try dsimp only
  repeat' first
    | with_reducible assumption
    | with_reducible apply State.count64_keeps
    | with_reducible apply State.remoteWrite_keeps
    | with_reducible apply State.setMirSrc_keeps
    | with_reducible apply mwf_mset
    | split
    | dsimp only
    | intro _
    | exact id

theorem State.mirSendSlab_keeps {q : List Instr} {n : Nat} {o : List Output} {s : State} (b i : Nat) (h : Keeps q n o s) :
    Keeps q n o (State.mirSendSlab s b i) := by
  unfold State.mirSendSlab
  try dsimp only
  repeat' first
    | with_reducible assumption
    | with_reducible apply State.forAll_keeps
    | with_reducible apply State.mirSend_keeps
    | split
    | dsimp only
    | intro _
    | exact id

theorem State.mirStop_keeps {q : List Instr} {n : Nat} {o : List Output} {s : State} (b : Nat) (x : MirSrc) (under port : Nat) (h : Keeps q n o s) :
    Keeps q n o (State.mirStop s b x under port) := by
  unfold State.mirStop
  try dsimp only
  repeat' first
    | with_reducible assumption
    | with_reducible apply State.bayFaultNotice_keeps
    | with_reducible apply State.dropReqs_keeps
    | with_reducible apply State.mirBit_keeps
    | with_reducible apply State.raise_keeps
    | with_reducible apply State.setFld_keeps
    | with_reducible apply State.setMirSrc_keeps
    | split
    | dsimp only
    | intro _
    | exact id

theorem State.finishIf_keeps {q : List Instr} {n : Nat} {o : List Output} {s : State} (c : Option Cmd) (st d0 d1 : Nat) (h : Keeps q n o s) :
    Keeps q n o (State.finishIf s c st d0 d1) := by
  unfold State.finishIf
  try dsimp only
  repeat' first
    | with_reducible assumption
    | with_reducible apply State.finish_keeps
    | split
    | dsimp only
    | intro _
    | exact id

theorem State.mirFails_keeps {q : List Instr} {n : Nat} {o : List Output} {s : State} (b : Nat) (x : MirSrc) (under port : Nat) (h : Keeps q n o s) :
    Keeps q n o (State.mirFails s b x under port) := by
  unfold State.mirFails
  try dsimp only
  repeat' first
    | with_reducible assumption
    | with_reducible apply State.finishIf_keeps
    | with_reducible apply State.mirStop_keeps
    | split
    | dsimp only
    | intro _
    | exact id

theorem State.mirCommit_keeps {q' : List Instr} {n : Nat} {o : List Output} {s : State} (b : Nat) (x : MirSrc) (q seq : Nat) (h : Keeps q' n o s) :
    Keeps q' n o (State.mirCommit s b x q seq) := by
  unfold State.mirCommit
  try dsimp only
  repeat' first
    | with_reducible assumption
    | with_reducible apply State.finish_keeps
    | with_reducible apply State.mirBit_keeps
    | with_reducible apply State.setMirSrc_keeps
    | with_reducible apply State.setReg_keeps
    | with_reducible apply foldl_state
    | with_reducible apply foldl_fst_state
    | with_reducible apply mwf_markPut
    | with_reducible apply mwf_foldl
    | split
    | dsimp only
    | intro _
    | exact id

theorem State.mirGo_keeps {q : List Instr} {n : Nat} {o : List Output} {s : State} (b : Nat) (h : Keeps q n o s) :
    Keeps q n o (State.mirGo s b) := by
  unfold State.mirGo
  try dsimp only
  repeat' first
    | with_reducible assumption
    | with_reducible apply State.dropReqs_keeps
    | with_reducible apply State.forAll_keeps
    | with_reducible apply State.mirCommit_keeps
    | with_reducible apply State.mirFails_keeps
    | with_reducible apply State.mirSend_keeps
    | with_reducible apply State.remoteSignal_keeps
    | with_reducible apply State.setMirSrc_keeps
    | split
    | dsimp only
    | intro _
    | exact id

theorem State.mirSettle_keeps {q : List Instr} {n : Nat} {o : List Output} {s : State} (h : Keeps q n o s) :
    Keeps q n o (State.mirSettle s) := by
  unfold State.mirSettle
  try dsimp only
  repeat' first
    | with_reducible assumption
    | with_reducible apply State.forAll_keeps
    | with_reducible apply State.mirGo_keeps
    | split
    | dsimp only
    | intro _
    | exact id

theorem State.mirrorSource_keeps {q : List Instr} {n : Nat} {o : List Output} (c : Cmd) {s : State} (h : Keeps q n o s) :
    Keeps q n o (State.mirrorSource c s) := by
  unfold State.mirrorSource
  try dsimp only
  repeat' first
    | with_reducible assumption
    | with_reducible apply State.endsWith_keeps
    | with_reducible apply State.forAll_keeps
    | with_reducible apply State.mirBit_keeps
    | with_reducible apply State.mirSendSlab_keeps
    | with_reducible apply State.setMirSrc_keeps
    | with_reducible apply State.setReg_keeps
    | split
    | dsimp only
    | intro _
    | exact id

theorem State.mirrorHost_keeps {q : List Instr} {n : Nat} {o : List Output} (c : Cmd) {s : State} (h : Keeps q n o s) :
    Keeps q n o (State.mirrorHost c s) := by
  unfold State.mirrorHost
  try dsimp only
  repeat' first
    | with_reducible assumption
    | with_reducible apply State.addObj_keeps
    | with_reducible apply State.endsWith_keeps
    | with_reducible apply State.evictClean_keeps
    | with_reducible apply State.finish_keeps
    | with_reducible apply State.mirBit_keeps
    | (refine State.placeAll_keeps _ _ _ ?_ _ ‹_ = some _›)
    | with_reducible apply State.setMirHost_keeps
    | with_reducible apply State.setReg_keeps
    | split
    | dsimp only
    | intro _
    | exact id

theorem State.mirrorSync_keeps {q : List Instr} {n : Nat} {o : List Output} (c : Cmd) {s : State} (h : Keeps q n o s) :
    Keeps q n o (State.mirrorSync c s) := by
  unfold State.mirrorSync
  try dsimp only
  repeat' first
    | with_reducible assumption
    | with_reducible apply State.endsWith_keeps
    | with_reducible apply State.finish_keeps
    | with_reducible apply State.forAll_keeps
    | with_reducible apply State.mirBit_keeps
    | with_reducible apply State.mirSendSlab_keeps
    | with_reducible apply State.mirSend_keeps
    | with_reducible apply State.setCmd_keeps
    | with_reducible apply State.setMirSrc_keeps
    | split
    | dsimp only
    | intro _
    | exact id

theorem State.mirrorRestore_keeps {q : List Instr} {n : Nat} {o : List Output} (c : Cmd) (m : Medium) {s : State} (h : Keeps q n o s) :
    Keeps q n o (State.mirrorRestore c m s) := by
  unfold State.mirrorRestore
  try dsimp only
  repeat' first
    | with_reducible assumption
    | with_reducible apply Engine.fail_keeps
    | with_reducible apply State.dropReqs_keeps
    | with_reducible apply State.endsWith_keeps
    | with_reducible apply State.finish_keeps
    | with_reducible apply State.remoteWrite_keeps
    | with_reducible apply State.setCmd_keeps
    | with_reducible apply State.setMirHost_keeps
    | with_reducible apply State.vaReadM_keeps
    | with_reducible apply foldl_state
    | with_reducible apply foldl_fst_state
    | with_reducible apply mwf_foldl
    | split
    | dsimp only
    | intro _
    | exact id

theorem State.mirrorRestoreWait_keeps {q : List Instr} {n : Nat} {o : List Output} {s : State} (c : Cmd) (h : Keeps q n o s) :
    Keeps q n o (State.mirrorRestoreWait s c) := by
  unfold State.mirrorRestoreWait
  try dsimp only
  repeat' first
    | with_reducible assumption
    | with_reducible apply State.dropReqs_keeps
    | with_reducible apply State.endsWith_keeps
    | with_reducible apply State.finish_keeps
    | with_reducible apply State.setMirHost_keeps
    | split
    | dsimp only
    | intro _
    | exact id

theorem State.mirrorStopSource_keeps {q : List Instr} {n : Nat} {o : List Output} (c : Cmd) {s : State} (h : Keeps q n o s) :
    Keeps q n o (State.mirrorStopSource c s) := by
  unfold State.mirrorStopSource
  try dsimp only
  repeat' first
    | with_reducible assumption
    | with_reducible apply State.dropReqs_keeps
    | with_reducible apply State.endsWith_keeps
    | with_reducible apply State.finish_keeps
    | with_reducible apply State.mirBit_keeps
    | with_reducible apply State.setMirSrc_keeps
    | split
    | dsimp only
    | intro _
    | exact id

theorem State.mirrorStopHost_keeps {q : List Instr} {n : Nat} {o : List Output} (c : Cmd) {s : State} (h : Keeps q n o s) :
    Keeps q n o (State.mirrorStopHost c s) := by
  unfold State.mirrorStopHost
  try dsimp only
  repeat' first
    | with_reducible assumption
    | with_reducible apply State.endsWith_keeps
    | with_reducible apply State.mirBit_keeps
    | with_reducible apply State.setMirHost_keeps
    | with_reducible apply State.setReg_keeps
    | with_reducible apply State.setUsed_keeps
    | with_reducible apply State.unmapObj_keeps
    | split
    | dsimp only
    | intro _
    | exact id

theorem execMirrorSource_keeps {q : List Instr} {n : Nat} {o : List Output} (c : CmdRef) {s : State} (h : Keeps q n o s) :
    ∃ t, execMirrorSource c s = .next t ∧ Keeps q n o t := by
  refine ⟨_, rfl, ?_⟩
  try dsimp only
  repeat' first
    | with_reducible assumption
    | with_reducible apply State.mirrorSource_keeps
    | with_reducible apply State.perform_keeps
    | split
    | dsimp only
    | intro _
    | exact id

theorem execMirrorHost_keeps {q : List Instr} {n : Nat} {o : List Output} (c : CmdRef) {s : State} (h : Keeps q n o s) :
    ∃ t, execMirrorHost c s = .next t ∧ Keeps q n o t := by
  refine ⟨_, rfl, ?_⟩
  try dsimp only
  repeat' first
    | with_reducible assumption
    | with_reducible apply State.mirrorHost_keeps
    | with_reducible apply State.perform_keeps
    | split
    | dsimp only
    | intro _
    | exact id

theorem execMirrorSync_keeps {q : List Instr} {n : Nat} {o : List Output} (c : CmdRef) {s : State} (h : Keeps q n o s) :
    ∃ t, execMirrorSync c s = .next t ∧ Keeps q n o t := by
  refine ⟨_, rfl, ?_⟩
  try dsimp only
  repeat' first
    | with_reducible assumption
    | with_reducible apply State.mirSettle_keeps
    | with_reducible apply State.mirrorSync_keeps
    | with_reducible apply State.perform_keeps
    | split
    | dsimp only
    | intro _
    | exact id

theorem execMirrorRestore_keeps {q : List Instr} {n : Nat} {o : List Output} (c : CmdRef) (m : Medium) {s : State} (h : Keeps q n o s) :
    ∃ t, execMirrorRestore c m s = .next t ∧ Keeps q n o t := by
  refine ⟨_, rfl, ?_⟩
  try dsimp only
  repeat' first
    | with_reducible assumption
    | with_reducible apply State.mirrorRestoreWait_keeps
    | with_reducible apply State.mirrorRestore_keeps
    | with_reducible apply State.perform_keeps
    | with_reducible apply State.running_keeps
    | split
    | dsimp only
    | intro _
    | exact id

theorem execMirrorStopSource_keeps {q : List Instr} {n : Nat} {o : List Output} (c : CmdRef) {s : State} (h : Keeps q n o s) :
    ∃ t, execMirrorStopSource c s = .next t ∧ Keeps q n o t := by
  refine ⟨_, rfl, ?_⟩
  try dsimp only
  repeat' first
    | with_reducible assumption
    | with_reducible apply State.mirrorStopSource_keeps
    | with_reducible apply State.perform_keeps
    | split
    | dsimp only
    | intro _
    | exact id

theorem execMirrorStopHost_keeps {q : List Instr} {n : Nat} {o : List Output} (c : CmdRef) {s : State} (h : Keeps q n o s) :
    ∃ t, execMirrorStopHost c s = .next t ∧ Keeps q n o t := by
  refine ⟨_, rfl, ?_⟩
  try dsimp only
  repeat' first
    | with_reducible assumption
    | with_reducible apply State.mirrorStopHost_keeps
    | with_reducible apply State.perform_keeps
    | split
    | dsimp only
    | intro _
    | exact id

end Sys2Proof.Machine
end

