-- ==== Sys2Proof/Laws/KeepsDispatch.lean ====
section
/-! SUPPORT. Every command answers a next state, which keeps what Laws/Keeps.lean names: one lemma per meaning is cited. -/

namespace Sys2Proof.Machine

theorem exec_keeps {q : List Instr} {n : Nat} {o : List Output} (i : Instr) {s : State} (h : Keeps q n o s) :
    ∃ t, exec i s = .next t ∧ Keeps q n o t := by
  cases i with
  | registerWrite _ _ _ _ => apply execRegisterWrite_keeps <;> assumption
  | registerReadClear _ _ _ => apply execRegisterReadClear_keeps <;> assumption
  | bar0LowHalfTimeout _ => apply execBar0LowHalfTimeout_keeps <;> assumption
  | meshRequest _ => apply execMeshRequest_keeps <;> assumption
  | meshResponse _ => apply execMeshResponse_keeps <;> assumption
  | incarnBroadcastApply _ _ _ => apply execIncarnBroadcastApply_keeps <;> assumption
  | meshPacketAgeExpiry _ _ => apply execMeshPacketAgeExpiry_keeps <;> assumption
  | engineClockChange _ _ => apply execEngineClockChange_keeps <;> assumption
  | programFirstIssue _ _ => apply execProgramFirstIssue_keeps <;> assumption
  | imageFetchComplete _ _ _ _ _ => apply execImageFetchComplete_keeps <;> assumption
  | tileOverrunExpiry _ _ => apply execTileOverrunExpiry_keeps <;> assumption
  | engineClockGate _ _ => apply execEngineClockGate_keeps <;> assumption
  | engPowerReq _ _ _ => apply execEngPowerReq_keeps <;> assumption
  | enginePowerUpDone _ _ _ => apply execEnginePowerUpDone_keeps <;> assumption
  | sentCtrlWrite _ _ _ => apply execSentCtrlWrite_keeps <;> assumption
  | dmaPromotion _ _ _ => apply execDmaPromotion_keeps <;> assumption
  | asyncTransferComplete _ _ _ _ _ => apply execAsyncTransferComplete_keeps <;> assumption
  | sload _ => apply execSload_keeps <;> assumption
  | swap _ => apply execSwap_keeps <;> assumption
  | stream _ _ => apply execStream_keeps <;> assumption
  | swapStream _ _ => apply execSwapStream_keeps <;> assumption
  | fadd _ => apply execFadd_keeps <;> assumption
  | fsub _ => apply execFsub_keeps <;> assumption
  | fmul _ => apply execFmul_keeps <;> assumption
  | fma _ => apply execFma_keeps <;> assumption
  | fmin _ => apply execFmin_keeps <;> assumption
  | fmax _ => apply execFmax_keeps <;> assumption
  | fcmp _ => apply execFcmp_keeps <;> assumption
  | dadd _ => apply execDadd_keeps <;> assumption
  | dmul _ => apply execDmul_keeps <;> assumption
  | dfma _ => apply execDfma_keeps <;> assumption
  | exp _ => apply execExp_keeps <;> assumption
  | log _ => apply execLog_keeps <;> assumption
  | rsqrt _ => apply execRsqrt_keeps <;> assumption
  | iadd _ => apply execIadd_keeps <;> assumption
  | isub _ => apply execIsub_keeps <;> assumption
  | imul _ => apply execImul_keeps <;> assumption
  | andOp _ => apply execAndOp_keeps <;> assumption
  | orOp _ => apply execOrOp_keeps <;> assumption
  | xorOp _ => apply execXorOp_keeps <;> assumption
  | shl _ => apply execShl_keeps <;> assumption
  | shr _ => apply execShr_keeps <;> assumption
  | sra _ => apply execSra_keeps <;> assumption
  | sel _ => apply execSel_keeps <;> assumption
  | imin _ => apply execImin_keeps <;> assumption
  | imax _ => apply execImax_keeps <;> assumption
  | exadd _ => apply execExadd_keeps <;> assumption
  | cvt _ => apply execCvt_keeps <;> assumption
  | rsum _ => apply execRsum_keeps <;> assumption
  | rmax _ => apply execRmax_keeps <;> assumption
  | rmin _ => apply execRmin_keeps <;> assumption
  | excvt _ => apply execExcvt_keeps <;> assumption
  | rbits _ => apply execRbits_keeps <;> assumption
  | vld _ => apply execVld_keeps <;> assumption
  | vst _ => apply execVst_keeps <;> assumption
  | ald _ => apply execAld_keeps <;> assumption
  | ast _ => apply execAst_keeps <;> assumption
  | lftr _ => apply execLftr_keeps <;> assumption
  | lftw _ => apply execLftw_keeps <;> assumption
  | xput _ => apply execXput_keeps <;> assumption
  | xget _ => apply execXget_keeps <;> assumption
  | aset _ => apply execAset_keeps <;> assumption
  | abase _ => apply execAbase_keeps <;> assumption
  | arst _ => apply execArst_keeps <;> assumption
  | sldi _ => apply execSldi_keeps <;> assumption
  | saddi _ => apply execSaddi_keeps <;> assumption
  | sadd _ => apply execSadd_keeps <;> assumption
  | sshl _ => apply execSshl_keeps <;> assumption
  | rdrain _ => apply execRdrain_keeps <;> assumption
  | rvec _ => apply execRvec_keeps <;> assumption
  | rraw _ => apply execRraw_keeps <;> assumption
  | endProgram _ => apply execEndProgram_keeps <;> assumption
  | skip _ => apply execSkip_keeps <;> assumption
  | loop _ => apply execLoop_keeps <;> assumption
  | waitt _ => apply execWaitt_keeps <;> assumption
  | waite _ => apply execWaite_keeps <;> assumption
  | waitRelease _ _ _ => apply execWaitRelease_keeps <;> assumption
  | sige _ => apply execSige_keeps <;> assumption
  | sigeEventApply _ _ => apply execSigeEventApply_keeps <;> assumption
  | spadOwnWrite _ _ _ _ => apply execSpadOwnWrite_keeps <;> assumption
  | spadHandover _ _ _ => apply execSpadHandover_keeps <;> assumption
  | clearStart _ _ => apply execClearStart_keeps <;> assumption
  | clearDone _ _ _ => apply execClearDone_keeps <;> assumption
  | patrolScrubRead _ _ _ => apply execPatrolScrubRead_keeps <;> assumption
  | loftRequest _ _ _ _ _ _ => apply execLoftRequest_keeps <;> assumption
  | doorbell _ _ => apply execDoorbell_keeps <;> assumption
  | commandFetch _ => apply execCommandFetch_keeps <;> assumption
  | ringReadComplete _ _ _ => apply execRingReadComplete_keeps <;> assumption
  | commandStart _ => apply execCommandStart_keeps <;> assumption
  | commandComplete _ => apply execCommandComplete_keeps <;> assumption
  | commandSignal _ => apply execCommandSignal_keeps <;> assumption
  | depTimeout _ => apply execDepTimeout_keeps <;> assumption
  | depScan => apply execDepScan_keeps <;> assumption
  | cplHeadWrite _ _ => apply execCplHeadWrite_keeps <;> assumption
  | qEnable _ => apply execQEnable_keeps <;> assumption
  | qDisable _ => apply execQDisable_keeps <;> assumption
  | resumeContinue _ => apply execResumeContinue_keeps <;> assumption
  | resumeRetry _ => apply execResumeRetry_keeps <;> assumption
  | resumeDiscard _ => apply execResumeDiscard_keeps <;> assumption
  | qPreempt _ => apply execQPreempt_keeps <;> assumption
  | queuePreempted _ => apply execQueuePreempted_keeps <;> assumption
  | brkCtrlWrite _ _ => apply execBrkCtrlWrite_keeps <;> assumption
  | evtSig _ => apply execEvtSig_keeps <;> assumption
  | jnlAckWrite _ => apply execJnlAckWrite_keeps <;> assumption
  | nop _ => apply execNop_keeps <;> assumption
  | tileLaunch _ => apply execTileLaunch_keeps <;> assumption
  | copy _ => apply execCopy_keeps <;> assumption
  | fill _ => apply execFill_keeps <;> assumption
  | copyChunkDone _ _ _ _ => apply execCopyChunkDone_keeps <;> assumption
  | fence _ => apply execFence_keeps <;> assumption
  | evtInit _ => apply execEvtInit_keeps <;> assumption
  | engFlag _ => apply execEngFlag_keeps <;> assumption
  | journalMark _ => apply execJournalMark_keeps <;> assumption
  | bayCreate _ => apply execBayCreate_keeps <;> assumption
  | baySeal _ => apply execBaySeal_keeps <;> assumption
  | bayRoles _ => apply execBayRoles_keeps <;> assumption
  | bayTeardown _ => apply execBayTeardown_keeps <;> assumption
  | teardownWaitExpiry _ => apply execTeardownWaitExpiry_keeps <;> assumption
  | bayScrub _ => apply execBayScrub_keeps <;> assumption
  | hbmEraseDone _ => apply execHbmEraseDone_keeps <;> assumption
  | phaseBegin _ => apply execPhaseBegin_keeps <;> assumption
  | phaseEnd _ => apply execPhaseEnd_keeps <;> assumption
  | phaseCancel _ => apply execPhaseCancel_keeps <;> assumption
  | phaseBudgetExpiry _ _ => apply execPhaseBudgetExpiry_keeps <;> assumption
  | admissionGrant _ => apply execAdmissionGrant_keeps <;> assumption
  | admitTimeout _ => apply execAdmitTimeout_keeps <;> assumption
  | powerControlTick _ _ => apply execPowerControlTick_keeps <;> assumption
  | memMap _ => apply execMemMap_keeps <;> assumption
  | memUnmap _ => apply execMemUnmap_keeps <;> assumption
  | migrate _ => apply execMigrate_keeps <;> assumption
  | migrateSlabDone _ _ _ => apply execMigrateSlabDone_keeps <;> assumption
  | prefetchSched _ => apply execPrefetchSched_keeps <;> assumption
  | prefetchFetch _ _ => apply execPrefetchFetch_keeps <;> assumption
  | hbmRequest _ _ _ _ _ => apply execHbmRequest_keeps <;> assumption
  | zeroSlabWrite _ _ => apply execZeroSlabWrite_keeps <;> assumption
  | t3Response _ _ _ _ _ _ _ _ => apply execT3Response_keeps <;> assumption
  | t3Timeout _ _ _ => apply execT3Timeout_keeps <;> assumption
  | writeBackDone _ _ _ => apply execWriteBackDone_keeps <;> assumption
  | ageEpochTick _ => apply execAgeEpochTick_keeps <;> assumption
  | wmArm _ _ => apply execWmArm_keeps <;> assumption
  | wmDisarm _ _ => apply execWmDisarm_keeps <;> assumption
  | pageAlloc _ => apply execPageAlloc_keeps <;> assumption
  | pageFree _ => apply execPageFree_keeps <;> assumption
  | pageSwapOut _ _ _ => apply execPageSwapOut_keeps <;> assumption
  | pageSwapIn _ => apply execPageSwapIn_keeps <;> assumption
  | ptUpdateWindow _ _ => apply execPtUpdateWindow_keeps <;> assumption
  | ptUpdateAdvance _ => apply execPtUpdateAdvance_keeps <;> assumption
  | rtEnable _ _ => apply execRtEnable_keeps <;> assumption
  | rtDisable _ _ => apply execRtDisable_keeps <;> assumption
  | rtStageMemory _ _ => apply execRtStageMemory_keeps <;> assumption
  | rtStageFabric _ _ => apply execRtStageFabric_keeps <;> assumption
  | stagingLanding _ _ _ => apply execStagingLanding_keeps <;> assumption
  | stageTimeout _ => apply execStageTimeout_keeps <;> assumption
  | rtVerifyCheckActive _ _ => apply execRtVerifyCheckActive_keeps <;> assumption
  | rtVerifyCheckStaged _ _ => apply execRtVerifyCheckStaged_keeps <;> assumption
  | rtVerifyPublish _ _ => apply execRtVerifyPublish_keeps <;> assumption
  | rtArmStrict _ => apply execRtArmStrict_keeps <;> assumption
  | rtArmRolling _ => apply execRtArmRolling_keeps <;> assumption
  | rtAbort _ => apply execRtAbort_keeps <;> assumption
  | rtAbortAdapter _ => apply execRtAbortAdapter_keeps <;> assumption
  | rtAdapter _ _ => apply execRtAdapter_keeps <;> assumption
  | barrierTimeout _ => apply execBarrierTimeout_keeps <;> assumption
  | recheckPass _ _ _ _ => apply execRecheckPass_keeps <;> assumption
  | ridge _ _ => apply execRidge_keeps <;> assumption
  | valley _ _ => apply execValley_keeps <;> assumption
  | collReady _ _ => apply execCollReady_keeps <;> assumption
  | collData _ _ _ _ _ => apply execCollData_keeps <;> assumption
  | collDone _ _ => apply execCollDone_keeps <;> assumption
  | collAbort _ _ => apply execCollAbort_keeps <;> assumption
  | collTimeout _ => apply execCollTimeout_keeps <;> assumption
  | portCfgWrite _ _ => apply execPortCfgWrite_keeps <;> assumption
  | trainingBurst _ => apply execTrainingBurst_keeps <;> assumption
  | partnerBurst _ _ => apply execPartnerBurst_keeps <;> assumption
  | trainDone _ => apply execTrainDone_keeps <;> assumption
  | trainTimeout _ => apply execTrainTimeout_keeps <;> assumption
  | alignDone _ _ => apply execAlignDone_keeps <;> assumption
  | negotiateDone _ _ _ _ _ _ _ => apply execNegotiateDone_keeps <;> assumption
  | linkSignalLoss _ => apply execLinkSignalLoss_keeps <;> assumption
  | retrainDone _ _ => apply execRetrainDone_keeps <;> assumption
  | flitReceive _ _ _ _ _ => apply execFlitReceive_keeps <;> assumption
  | flitReplay _ _ => apply execFlitReplay_keeps <;> assumption
  | laneRetire _ _ _ => apply execLaneRetire_keeps <;> assumption
  | packetReceive _ _ => apply execPacketReceive_keeps <;> assumption
  | linkHoldExpiry _ => apply execLinkHoldExpiry_keeps <;> assumption
  | remoteRequest _ _ _ _ => apply execRemoteRequest_keeps <;> assumption
  | remoteResponse _ _ => apply execRemoteResponse_keeps <;> assumption
  | retryBackoffExpiry _ _ _ => apply execRetryBackoffExpiry_keeps <;> assumption
  | fabReqTimeout _ _ _ => apply execFabReqTimeout_keeps <;> assumption
  | lwCfgWrite _ _ _ => apply execLwCfgWrite_keeps <;> assumption
  | timeExchange _ _ _ _ => apply execTimeExchange_keeps <;> assumption
  | ppsEdge => apply execPpsEdge_keeps <;> assumption
  | timeParentLoss => apply execTimeParentLoss_keeps <;> assumption
  | linkAuthDone _ _ => apply execLinkAuthDone_keeps <;> assumption
  | attestReport _ => apply execAttestReport_keeps <;> assumption
  | attestSealNonce _ => apply execAttestSealNonce_keeps <;> assumption
  | attestAddPubkey _ => apply execAttestAddPubkey_keeps <;> assumption
  | attestSetConsent _ => apply execAttestSetConsent_keeps <;> assumption
  | attestRotateLink _ => apply execAttestRotateLink_keeps <;> assumption
  | trngHealthFail => apply execTrngHealthFail_keeps <;> assumption
  | trngRetest _ => apply execTrngRetest_keeps <;> assumption
  | tamperDetect _ => apply execTamperDetect_keeps <;> assumption
  | dscrubStart => apply execDscrubStart_keeps <;> assumption
  | scanExtest => apply execScanExtest_keeps <;> assumption
  | scanDebugInstruction _ => apply execScanDebugInstruction_keeps <;> assumption
  | getVersion _ => apply execGetVersion_keeps <;> assumption
  | getCapabilities _ => apply execGetCapabilities_keeps <;> assumption
  | negotiateAlgorithms _ _ _ _ _ => apply execNegotiateAlgorithms_keeps <;> assumption
  | getDigests _ => apply execGetDigests_keeps <;> assumption
  | getCertificate _ _ _ _ => apply execGetCertificate_keeps <;> assumption
  | challenge _ _ _ => apply execChallenge_keeps <;> assumption
  | getMeasurements _ _ _ _ => apply execGetMeasurements_keeps <;> assumption
  | keyExchange _ _ _ _ => apply execKeyExchange_keeps <;> assumption
  | finish _ _ _ _ => apply execFinish_keeps <;> assumption
  | endSession _ _ => apply execEndSession_keeps <;> assumption
  | respondIfReady _ _ => apply execRespondIfReady_keeps <;> assumption
  | errFifoPop _ => apply execErrFifoPop_keeps <;> assumption
  | engineTestDone _ _ _ _ => apply execEngineTestDone_keeps <;> assumption
  | edgeReturnTimeout _ => apply execEdgeReturnTimeout_keeps <;> assumption
  | closeDie _ _ => apply execCloseDie_keeps <;> assumption
  | offDie _ _ => apply execOffDie_keeps <;> assumption
  | openDie _ _ => apply execOpenDie_keeps <;> assumption
  | powerOn _ _ => apply execPowerOn_keeps <;> assumption
  | partialReset _ _ => apply execPartialReset_keeps <;> assumption
  | dieDrained _ => apply execDieDrained_keeps <;> assumption
  | drainLimitExpiry _ => apply execDrainLimitExpiry_keeps <;> assumption
  | diePowerOpDone _ => apply execDiePowerOpDone_keeps <;> assumption
  | ercTick _ => apply execErcTick_keeps <;> assumption
  | ercArm _ _ => apply execErcArm_keeps <;> assumption
  | ercDisarm _ _ => apply execErcDisarm_keeps <;> assumption
  | mirrorSource _ => apply execMirrorSource_keeps <;> assumption
  | mirrorHost _ => apply execMirrorHost_keeps <;> assumption
  | mirrorSync _ => apply execMirrorSync_keeps <;> assumption
  | mirrorRestore _ _ => apply execMirrorRestore_keeps <;> assumption
  | mirrorStopSource _ => apply execMirrorStopSource_keeps <;> assumption
  | mirrorStopHost _ => apply execMirrorStopHost_keeps <;> assumption
  | ckptTake _ _ => apply execCkptTake_keeps <;> assumption
  | ckptRestore _ _ => apply execCkptRestore_keeps <;> assumption
  | ckptSched _ => apply execCkptSched_keeps <;> assumption
  | pkgResetAssert => apply execPkgResetAssert_keeps <;> assumption
  | pkgResetRelease _ => apply execPkgResetRelease_keeps <;> assumption
  | bootComplete _ _ _ _ _ => apply execBootComplete_keeps <;> assumption
  | perstAssert _ => apply execPerstAssert_keeps <;> assumption
  | perstRelease _ => apply execPerstRelease_keeps <;> assumption
  | hostLinkDown _ => apply execHostLinkDown_keeps <;> assumption
  | hostLinkError _ _ _ _ _ => apply execHostLinkError_keeps <;> assumption
  | bar2Access _ _ _ _ _ => apply execBar2Access_keeps <;> assumption
  | msixUnmask _ _ _ => apply execMsixUnmask_keeps <;> assumption
  | snpInv _ => apply execSnpInv_keeps <;> assumption
  | snpData _ => apply execSnpData_keeps <;> assumption
  | snpCur _ => apply execSnpCur_keeps <;> assumption
  | goWritePull _ _ => apply execGoWritePull_keeps <;> assumption
  | goWaitExpiry _ => apply execGoWaitExpiry_keeps <;> assumption
  | ccWinCfgWrite _ _ => apply execCcWinCfgWrite_keeps <;> assumption
  | ccFlushDone => apply execCcFlushDone_keeps <;> assumption
  | mgmtResetAssert => apply execMgmtResetAssert_keeps <;> assumption
  | islandRestart _ _ _ => apply execIslandRestart_keeps <;> assumption
  | islandLoadRestart _ => apply execIslandLoadRestart_keeps <;> assumption
  | entdaa _ => apply execEntdaa_keeps <;> assumption
  | setdasa _ _ => apply execSetdasa_keeps <;> assumption
  | rstdaa _ => apply execRstdaa_keeps <;> assumption
  | mctpPacket _ _ _ _ _ _ _ _ _ => apply execMctpPacket_keeps <;> assumption
  | mctpReasmTimeout _ _ _ => apply execMctpReasmTimeout_keeps <;> assumption
  | setEndpointId _ _ => apply execSetEndpointId_keeps <;> assumption
  | smbusAraRead _ => apply execSmbusAraRead_keeps <;> assumption
  | sensorRefresh _ _ _ _ _ => apply execSensorRefresh_keeps <;> assumption
  | getSensorReading _ _ _ _ => apply execGetSensorReading_keeps <;> assumption
  | pldmEventRetry _ => apply execPldmEventRetry_keeps <;> assumption
  | requestFirmwareData _ _ _ => apply execRequestFirmwareData_keeps <;> assumption
  | verifyComplete _ _ => apply execVerifyComplete_keeps <;> assumption
  | applyComplete _ _ => apply execApplyComplete_keeps <;> assumption
  | activateFirmware _ _ _ => apply execActivateFirmware_keeps <;> assumption
  | intakeResume => apply execIntakeResume_keeps <;> assumption
  | activationWatchdog => apply execActivationWatchdog_keeps <;> assumption
  | fwTrialExpiry => apply execFwTrialExpiry_keeps <;> assumption
  | getIdentity _ => apply execGetIdentity_keeps <;> assumption
  | getHealth _ => apply execGetHealth_keeps <;> assumption
  | readDevlog _ _ => apply execReadDevlog_keeps <;> assumption
  | getPorts _ => apply execGetPorts_keeps <;> assumption
  | setFabric _ _ _ _ => apply execSetFabric_keeps <;> assumption
  | setPort _ _ _ _ => apply execSetPort_keeps <;> assumption
  | setPassSlots _ _ _ _ => apply execSetPassSlots_keeps <;> assumption
  | setAlias _ _ _ _ _ => apply execSetAlias_keeps <;> assumption
  | fwCommit _ => apply execFwCommit_keeps <;> assumption
  | svnAdvance _ _ => apply execSvnAdvance_keeps <;> assumption
  | deviceScrub _ => apply execDeviceScrub_keeps <;> assumption
  | diePower _ _ _ => apply execDiePower_keeps <;> assumption
  | setBayBudget _ _ => apply execSetBayBudget_keeps <;> assumption
  | railPowerFail _ => apply execRailPowerFail_keeps <;> assumption
  | railRise _ => apply execRailRise_keeps <;> assumption
  | refclkLoss _ => apply execRefclkLoss_keeps <;> assumption
  | thermalEmergency => apply execThermalEmergency_keeps <;> assumption
  | thermalClampRelease => apply execThermalClampRelease_keeps <;> assumption
  | thermalTrip => apply execThermalTrip_keeps <;> assumption
  | testEnAssert => apply execTestEnAssert_keeps <;> assumption
  | hostLinkUp _ _ _ _ _ _ => apply execHostLinkUp_keeps <;> assumption
  | h2dGo _ _ _ => apply execH2dGo_keeps <;> assumption
  | timePpsOutput => apply execTimePpsOutput_keeps <;> assumption
  | testEnRelease => apply execTestEnRelease_keeps <;> assumption

end Sys2Proof.Machine
end

