-- ==== Sys2Proof/Laws/KeepsTick.lean ====
section
/-! SUPPORT. What each operation of Machine/Tick.lean keeps (Laws/Keeps.lean). -/

namespace Sys2Proof.Machine

theorem State.settleAll_keeps {q : List Instr} {n : Nat} {o : List Output} {s : State} (h : Keeps q n o s) :
    Keeps q n o (State.settleAll s) := by
  unfold State.settleAll
  try dsimp only
  repeat' first
    | with_reducible assumption
    | with_reducible apply State.collSettle_keeps
    | with_reducible apply State.fwSettle_keeps
    | with_reducible apply State.linkSettle_keeps
    | with_reducible apply State.measureSettle_keeps
    | with_reducible apply State.mirSettle_keeps
    | with_reducible apply State.retryDevWrites_keeps
    | with_reducible apply State.rtPoll_keeps
    | with_reducible apply State.settleFab_keeps
    | with_reducible apply State.settle_keeps
    | split
    | dsimp only
    | intro _
    | exact id

theorem State.tick_keeps {q : List Instr} {n : Nat} {o : List Output} {s : State} (h : Keeps q n o s) :
    Keeps q n o (State.tick s) := by
  unfold State.tick
  try dsimp only
  repeat' first
    | with_reducible assumption
    | with_reducible apply State.passNs_keeps
    | with_reducible apply State.settleAll_keeps
    | split
    | dsimp only
    | intro _
    | exact id

end Sys2Proof.Machine
end

