-- ==== Sys2Proof/Laws/State.lean ====
section
/-! SUPPORT. What each update of the state does to each of its fields, one lemma each, so that no proof unfolds a record; and
what registers and their fields read after a write. -/

namespace Sys2Proof.Machine

variable (s : State)

/-! ### setReg -/

@[simp] theorem State.setReg_pending (a v : Nat) : (s.setReg a v).pending = s.pending := rfl
@[simp] theorem State.setReg_free (a v : Nat) : (s.setReg a v).free = s.free := rfl
@[simp] theorem State.setReg_stamp (a v : Nat) : (s.setReg a v).stamp = s.stamp := rfl
@[simp] theorem State.setReg_ktime (a v : Nat) : (s.setReg a v).ktime = s.ktime := rfl
@[simp] theorem State.setReg_regs (a v : Nat) : (s.setReg a v).regs = mset resetOf s.regs a (BitVec.ofNat 64 v) := rfl
@[simp] theorem State.setReg_mesh (a v : Nat) : (s.setReg a v).mesh = s.mesh := rfl
@[simp] theorem State.setReg_engines (a v : Nat) : (s.setReg a v).engines = s.engines := rfl
@[simp] theorem State.setReg_lofts (a v : Nat) : (s.setReg a v).lofts = s.lofts := rfl
@[simp] theorem State.setReg_mem (a v : Nat) : (s.setReg a v).mem = s.mem := rfl
@[simp] theorem State.setReg_kv (a v : Nat) : (s.setReg a v).kv = s.kv := rfl
@[simp] theorem State.setReg_cq (a v : Nat) : (s.setReg a v).cq = s.cq := rfl
@[simp] theorem State.setReg_flt (a v : Nat) : (s.setReg a v).flt = s.flt := rfl
@[simp] theorem State.setReg_hosts (a v : Nat) : (s.setReg a v).hosts = s.hosts := rfl
@[simp] theorem State.setReg_fab (a v : Nat) : (s.setReg a v).fab = s.fab := rfl
@[simp] theorem State.setReg_sec (a v : Nat) : (s.setReg a v).sec = s.sec := rfl
@[simp] theorem State.setReg_rt (a v : Nat) : (s.setReg a v).rt = s.rt := rfl
@[simp] theorem State.setReg_mgmt (a v : Nat) : (s.setReg a v).mgmt = s.mgmt := rfl
@[simp] theorem State.setReg_pins (a v : Nat) : (s.setReg a v).pins = s.pins := rfl
@[simp] theorem State.setReg_out (a v : Nat) : (s.setReg a v).out = s.out := rfl

/-! ### setFld -/

@[simp] theorem State.setFld_pending (a lo w v : Nat) : (s.setFld a lo w v).pending = s.pending := rfl
@[simp] theorem State.setFld_free (a lo w v : Nat) : (s.setFld a lo w v).free = s.free := rfl
@[simp] theorem State.setFld_stamp (a lo w v : Nat) : (s.setFld a lo w v).stamp = s.stamp := rfl
@[simp] theorem State.setFld_ktime (a lo w v : Nat) : (s.setFld a lo w v).ktime = s.ktime := rfl
@[simp] theorem State.setFld_mesh (a lo w v : Nat) : (s.setFld a lo w v).mesh = s.mesh := rfl
@[simp] theorem State.setFld_engines (a lo w v : Nat) : (s.setFld a lo w v).engines = s.engines := rfl
@[simp] theorem State.setFld_lofts (a lo w v : Nat) : (s.setFld a lo w v).lofts = s.lofts := rfl
@[simp] theorem State.setFld_mem (a lo w v : Nat) : (s.setFld a lo w v).mem = s.mem := rfl
@[simp] theorem State.setFld_kv (a lo w v : Nat) : (s.setFld a lo w v).kv = s.kv := rfl
@[simp] theorem State.setFld_cq (a lo w v : Nat) : (s.setFld a lo w v).cq = s.cq := rfl
@[simp] theorem State.setFld_flt (a lo w v : Nat) : (s.setFld a lo w v).flt = s.flt := rfl
@[simp] theorem State.setFld_hosts (a lo w v : Nat) : (s.setFld a lo w v).hosts = s.hosts := rfl
@[simp] theorem State.setFld_fab (a lo w v : Nat) : (s.setFld a lo w v).fab = s.fab := rfl
@[simp] theorem State.setFld_sec (a lo w v : Nat) : (s.setFld a lo w v).sec = s.sec := rfl
@[simp] theorem State.setFld_rt (a lo w v : Nat) : (s.setFld a lo w v).rt = s.rt := rfl
@[simp] theorem State.setFld_mgmt (a lo w v : Nat) : (s.setFld a lo w v).mgmt = s.mgmt := rfl
@[simp] theorem State.setFld_pins (a lo w v : Nat) : (s.setFld a lo w v).pins = s.pins := rfl
@[simp] theorem State.setFld_out (a lo w v : Nat) : (s.setFld a lo w v).out = s.out := rfl

/-! ### count -/

@[simp] theorem State.count_pending (a n : Nat) : (s.count a n).pending = s.pending := rfl
@[simp] theorem State.count_free (a n : Nat) : (s.count a n).free = s.free := rfl
@[simp] theorem State.count_stamp (a n : Nat) : (s.count a n).stamp = s.stamp := rfl
@[simp] theorem State.count_ktime (a n : Nat) : (s.count a n).ktime = s.ktime := rfl
@[simp] theorem State.count_mesh (a n : Nat) : (s.count a n).mesh = s.mesh := rfl
@[simp] theorem State.count_engines (a n : Nat) : (s.count a n).engines = s.engines := rfl
@[simp] theorem State.count_lofts (a n : Nat) : (s.count a n).lofts = s.lofts := rfl
@[simp] theorem State.count_mem (a n : Nat) : (s.count a n).mem = s.mem := rfl
@[simp] theorem State.count_kv (a n : Nat) : (s.count a n).kv = s.kv := rfl
@[simp] theorem State.count_cq (a n : Nat) : (s.count a n).cq = s.cq := rfl
@[simp] theorem State.count_flt (a n : Nat) : (s.count a n).flt = s.flt := rfl
@[simp] theorem State.count_hosts (a n : Nat) : (s.count a n).hosts = s.hosts := rfl
@[simp] theorem State.count_fab (a n : Nat) : (s.count a n).fab = s.fab := rfl
@[simp] theorem State.count_sec (a n : Nat) : (s.count a n).sec = s.sec := rfl
@[simp] theorem State.count_rt (a n : Nat) : (s.count a n).rt = s.rt := rfl
@[simp] theorem State.count_mgmt (a n : Nat) : (s.count a n).mgmt = s.mgmt := rfl
@[simp] theorem State.count_pins (a n : Nat) : (s.count a n).pins = s.pins := rfl
@[simp] theorem State.count_out (a n : Nat) : (s.count a n).out = s.out := rfl

/-! ### count32 -/

@[simp] theorem State.count32_pending (a n : Nat) : (s.count32 a n).pending = s.pending := rfl
@[simp] theorem State.count32_free (a n : Nat) : (s.count32 a n).free = s.free := rfl
@[simp] theorem State.count32_stamp (a n : Nat) : (s.count32 a n).stamp = s.stamp := rfl
@[simp] theorem State.count32_ktime (a n : Nat) : (s.count32 a n).ktime = s.ktime := rfl
@[simp] theorem State.count32_mesh (a n : Nat) : (s.count32 a n).mesh = s.mesh := rfl
@[simp] theorem State.count32_engines (a n : Nat) : (s.count32 a n).engines = s.engines := rfl
@[simp] theorem State.count32_lofts (a n : Nat) : (s.count32 a n).lofts = s.lofts := rfl
@[simp] theorem State.count32_mem (a n : Nat) : (s.count32 a n).mem = s.mem := rfl
@[simp] theorem State.count32_kv (a n : Nat) : (s.count32 a n).kv = s.kv := rfl
@[simp] theorem State.count32_cq (a n : Nat) : (s.count32 a n).cq = s.cq := rfl
@[simp] theorem State.count32_flt (a n : Nat) : (s.count32 a n).flt = s.flt := rfl
@[simp] theorem State.count32_hosts (a n : Nat) : (s.count32 a n).hosts = s.hosts := rfl
@[simp] theorem State.count32_fab (a n : Nat) : (s.count32 a n).fab = s.fab := rfl
@[simp] theorem State.count32_sec (a n : Nat) : (s.count32 a n).sec = s.sec := rfl
@[simp] theorem State.count32_rt (a n : Nat) : (s.count32 a n).rt = s.rt := rfl
@[simp] theorem State.count32_mgmt (a n : Nat) : (s.count32 a n).mgmt = s.mgmt := rfl
@[simp] theorem State.count32_pins (a n : Nat) : (s.count32 a n).pins = s.pins := rfl
@[simp] theorem State.count32_out (a n : Nat) : (s.count32 a n).out = s.out := rfl

/-! ### count64 -/

@[simp] theorem State.count64_pending (a n : Nat) : (s.count64 a n).pending = s.pending := rfl
@[simp] theorem State.count64_free (a n : Nat) : (s.count64 a n).free = s.free := rfl
@[simp] theorem State.count64_stamp (a n : Nat) : (s.count64 a n).stamp = s.stamp := rfl
@[simp] theorem State.count64_ktime (a n : Nat) : (s.count64 a n).ktime = s.ktime := rfl
@[simp] theorem State.count64_mesh (a n : Nat) : (s.count64 a n).mesh = s.mesh := rfl
@[simp] theorem State.count64_engines (a n : Nat) : (s.count64 a n).engines = s.engines := rfl
@[simp] theorem State.count64_lofts (a n : Nat) : (s.count64 a n).lofts = s.lofts := rfl
@[simp] theorem State.count64_mem (a n : Nat) : (s.count64 a n).mem = s.mem := rfl
@[simp] theorem State.count64_kv (a n : Nat) : (s.count64 a n).kv = s.kv := rfl
@[simp] theorem State.count64_cq (a n : Nat) : (s.count64 a n).cq = s.cq := rfl
@[simp] theorem State.count64_flt (a n : Nat) : (s.count64 a n).flt = s.flt := rfl
@[simp] theorem State.count64_hosts (a n : Nat) : (s.count64 a n).hosts = s.hosts := rfl
@[simp] theorem State.count64_fab (a n : Nat) : (s.count64 a n).fab = s.fab := rfl
@[simp] theorem State.count64_sec (a n : Nat) : (s.count64 a n).sec = s.sec := rfl
@[simp] theorem State.count64_rt (a n : Nat) : (s.count64 a n).rt = s.rt := rfl
@[simp] theorem State.count64_mgmt (a n : Nat) : (s.count64 a n).mgmt = s.mgmt := rfl
@[simp] theorem State.count64_pins (a n : Nat) : (s.count64 a n).pins = s.pins := rfl
@[simp] theorem State.count64_out (a n : Nat) : (s.count64 a n).out = s.out := rfl

/-! ### emit -/

@[simp] theorem State.emit_pending (o : Output) : (s.emit o).pending = s.pending := rfl
@[simp] theorem State.emit_free (o : Output) : (s.emit o).free = s.free := rfl
@[simp] theorem State.emit_stamp (o : Output) : (s.emit o).stamp = s.stamp := rfl
@[simp] theorem State.emit_ktime (o : Output) : (s.emit o).ktime = s.ktime := rfl
@[simp] theorem State.emit_regs (o : Output) : (s.emit o).regs = s.regs := rfl
@[simp] theorem State.emit_mesh (o : Output) : (s.emit o).mesh = s.mesh := rfl
@[simp] theorem State.emit_engines (o : Output) : (s.emit o).engines = s.engines := rfl
@[simp] theorem State.emit_lofts (o : Output) : (s.emit o).lofts = s.lofts := rfl
@[simp] theorem State.emit_mem (o : Output) : (s.emit o).mem = s.mem := rfl
@[simp] theorem State.emit_kv (o : Output) : (s.emit o).kv = s.kv := rfl
@[simp] theorem State.emit_cq (o : Output) : (s.emit o).cq = s.cq := rfl
@[simp] theorem State.emit_flt (o : Output) : (s.emit o).flt = s.flt := rfl
@[simp] theorem State.emit_hosts (o : Output) : (s.emit o).hosts = s.hosts := rfl
@[simp] theorem State.emit_fab (o : Output) : (s.emit o).fab = s.fab := rfl
@[simp] theorem State.emit_sec (o : Output) : (s.emit o).sec = s.sec := rfl
@[simp] theorem State.emit_rt (o : Output) : (s.emit o).rt = s.rt := rfl
@[simp] theorem State.emit_mgmt (o : Output) : (s.emit o).mgmt = s.mgmt := rfl
@[simp] theorem State.emit_pins (o : Output) : (s.emit o).pins = s.pins := rfl
@[simp] theorem State.emit_out (o : Output) : (s.emit o).out = s.out ++ [o] := rfl

/-! ### emits -/

@[simp] theorem State.emits_pending (os : List Output) : (s.emits os).pending = s.pending := rfl
@[simp] theorem State.emits_free (os : List Output) : (s.emits os).free = s.free := rfl
@[simp] theorem State.emits_stamp (os : List Output) : (s.emits os).stamp = s.stamp := rfl
@[simp] theorem State.emits_ktime (os : List Output) : (s.emits os).ktime = s.ktime := rfl
@[simp] theorem State.emits_regs (os : List Output) : (s.emits os).regs = s.regs := rfl
@[simp] theorem State.emits_mesh (os : List Output) : (s.emits os).mesh = s.mesh := rfl
@[simp] theorem State.emits_engines (os : List Output) : (s.emits os).engines = s.engines := rfl
@[simp] theorem State.emits_lofts (os : List Output) : (s.emits os).lofts = s.lofts := rfl
@[simp] theorem State.emits_mem (os : List Output) : (s.emits os).mem = s.mem := rfl
@[simp] theorem State.emits_kv (os : List Output) : (s.emits os).kv = s.kv := rfl
@[simp] theorem State.emits_cq (os : List Output) : (s.emits os).cq = s.cq := rfl
@[simp] theorem State.emits_flt (os : List Output) : (s.emits os).flt = s.flt := rfl
@[simp] theorem State.emits_hosts (os : List Output) : (s.emits os).hosts = s.hosts := rfl
@[simp] theorem State.emits_fab (os : List Output) : (s.emits os).fab = s.fab := rfl
@[simp] theorem State.emits_sec (os : List Output) : (s.emits os).sec = s.sec := rfl
@[simp] theorem State.emits_rt (os : List Output) : (s.emits os).rt = s.rt := rfl
@[simp] theorem State.emits_mgmt (os : List Output) : (s.emits os).mgmt = s.mgmt := rfl
@[simp] theorem State.emits_pins (os : List Output) : (s.emits os).pins = s.pins := rfl
@[simp] theorem State.emits_out (os : List Output) : (s.emits os).out = s.out ++ os := rfl

/-! ### draw -/

@[simp] theorem State.draw_pending : (s.draw.2).pending = s.pending := rfl
@[simp] theorem State.draw_free : (s.draw.2).free = s.free + 1 := rfl
@[simp] theorem State.draw_stamp : (s.draw.2).stamp = s.stamp := rfl
@[simp] theorem State.draw_ktime : (s.draw.2).ktime = s.ktime := rfl
@[simp] theorem State.draw_regs : (s.draw.2).regs = s.regs := rfl
@[simp] theorem State.draw_mesh : (s.draw.2).mesh = s.mesh := rfl
@[simp] theorem State.draw_engines : (s.draw.2).engines = s.engines := rfl
@[simp] theorem State.draw_lofts : (s.draw.2).lofts = s.lofts := rfl
@[simp] theorem State.draw_mem : (s.draw.2).mem = s.mem := rfl
@[simp] theorem State.draw_kv : (s.draw.2).kv = s.kv := rfl
@[simp] theorem State.draw_cq : (s.draw.2).cq = s.cq := rfl
@[simp] theorem State.draw_flt : (s.draw.2).flt = s.flt := rfl
@[simp] theorem State.draw_hosts : (s.draw.2).hosts = s.hosts := rfl
@[simp] theorem State.draw_fab : (s.draw.2).fab = s.fab := rfl
@[simp] theorem State.draw_sec : (s.draw.2).sec = s.sec := rfl
@[simp] theorem State.draw_rt : (s.draw.2).rt = s.rt := rfl
@[simp] theorem State.draw_mgmt : (s.draw.2).mgmt = s.mgmt := rfl
@[simp] theorem State.draw_pins : (s.draw.2).pins = s.pins := rfl
@[simp] theorem State.draw_out : (s.draw.2).out = s.out := rfl

/-! ### tickStamp -/

@[simp] theorem State.tickStamp_pending : (s.tickStamp.2).pending = s.pending := rfl
@[simp] theorem State.tickStamp_free : (s.tickStamp.2).free = s.free := rfl
@[simp] theorem State.tickStamp_stamp : (s.tickStamp.2).stamp = s.stamp + 1 := rfl
@[simp] theorem State.tickStamp_ktime : (s.tickStamp.2).ktime = s.ktime := rfl
@[simp] theorem State.tickStamp_regs : (s.tickStamp.2).regs = s.regs := rfl
@[simp] theorem State.tickStamp_mesh : (s.tickStamp.2).mesh = s.mesh := rfl
@[simp] theorem State.tickStamp_engines : (s.tickStamp.2).engines = s.engines := rfl
@[simp] theorem State.tickStamp_lofts : (s.tickStamp.2).lofts = s.lofts := rfl
@[simp] theorem State.tickStamp_mem : (s.tickStamp.2).mem = s.mem := rfl
@[simp] theorem State.tickStamp_kv : (s.tickStamp.2).kv = s.kv := rfl
@[simp] theorem State.tickStamp_cq : (s.tickStamp.2).cq = s.cq := rfl
@[simp] theorem State.tickStamp_flt : (s.tickStamp.2).flt = s.flt := rfl
@[simp] theorem State.tickStamp_hosts : (s.tickStamp.2).hosts = s.hosts := rfl
@[simp] theorem State.tickStamp_fab : (s.tickStamp.2).fab = s.fab := rfl
@[simp] theorem State.tickStamp_sec : (s.tickStamp.2).sec = s.sec := rfl
@[simp] theorem State.tickStamp_rt : (s.tickStamp.2).rt = s.rt := rfl
@[simp] theorem State.tickStamp_mgmt : (s.tickStamp.2).mgmt = s.mgmt := rfl
@[simp] theorem State.tickStamp_pins : (s.tickStamp.2).pins = s.pins := rfl
@[simp] theorem State.tickStamp_out : (s.tickStamp.2).out = s.out := rfl

/-! ### onCq -/

@[simp] theorem State.onCq_pending (f : CmdState → CmdState) : (s.onCq f).pending = s.pending := rfl
@[simp] theorem State.onCq_free (f : CmdState → CmdState) : (s.onCq f).free = s.free := rfl
@[simp] theorem State.onCq_stamp (f : CmdState → CmdState) : (s.onCq f).stamp = s.stamp := rfl
@[simp] theorem State.onCq_ktime (f : CmdState → CmdState) : (s.onCq f).ktime = s.ktime := rfl
@[simp] theorem State.onCq_regs (f : CmdState → CmdState) : (s.onCq f).regs = s.regs := rfl
@[simp] theorem State.onCq_mesh (f : CmdState → CmdState) : (s.onCq f).mesh = s.mesh := rfl
@[simp] theorem State.onCq_engines (f : CmdState → CmdState) : (s.onCq f).engines = s.engines := rfl
@[simp] theorem State.onCq_lofts (f : CmdState → CmdState) : (s.onCq f).lofts = s.lofts := rfl
@[simp] theorem State.onCq_mem (f : CmdState → CmdState) : (s.onCq f).mem = s.mem := rfl
@[simp] theorem State.onCq_kv (f : CmdState → CmdState) : (s.onCq f).kv = s.kv := rfl
@[simp] theorem State.onCq_cq (f : CmdState → CmdState) : (s.onCq f).cq = f s.cq := rfl
@[simp] theorem State.onCq_flt (f : CmdState → CmdState) : (s.onCq f).flt = s.flt := rfl
@[simp] theorem State.onCq_hosts (f : CmdState → CmdState) : (s.onCq f).hosts = s.hosts := rfl
@[simp] theorem State.onCq_fab (f : CmdState → CmdState) : (s.onCq f).fab = s.fab := rfl
@[simp] theorem State.onCq_sec (f : CmdState → CmdState) : (s.onCq f).sec = s.sec := rfl
@[simp] theorem State.onCq_rt (f : CmdState → CmdState) : (s.onCq f).rt = s.rt := rfl
@[simp] theorem State.onCq_mgmt (f : CmdState → CmdState) : (s.onCq f).mgmt = s.mgmt := rfl
@[simp] theorem State.onCq_pins (f : CmdState → CmdState) : (s.onCq f).pins = s.pins := rfl
@[simp] theorem State.onCq_out (f : CmdState → CmdState) : (s.onCq f).out = s.out := rfl

/-! ### onMem -/

@[simp] theorem State.onMem_pending (f : Mem → Mem) : (s.onMem f).pending = s.pending := rfl
@[simp] theorem State.onMem_free (f : Mem → Mem) : (s.onMem f).free = s.free := rfl
@[simp] theorem State.onMem_stamp (f : Mem → Mem) : (s.onMem f).stamp = s.stamp := rfl
@[simp] theorem State.onMem_ktime (f : Mem → Mem) : (s.onMem f).ktime = s.ktime := rfl
@[simp] theorem State.onMem_regs (f : Mem → Mem) : (s.onMem f).regs = s.regs := rfl
@[simp] theorem State.onMem_mesh (f : Mem → Mem) : (s.onMem f).mesh = s.mesh := rfl
@[simp] theorem State.onMem_engines (f : Mem → Mem) : (s.onMem f).engines = s.engines := rfl
@[simp] theorem State.onMem_lofts (f : Mem → Mem) : (s.onMem f).lofts = s.lofts := rfl
@[simp] theorem State.onMem_mem (f : Mem → Mem) : (s.onMem f).mem = f s.mem := rfl
@[simp] theorem State.onMem_kv (f : Mem → Mem) : (s.onMem f).kv = s.kv := rfl
@[simp] theorem State.onMem_cq (f : Mem → Mem) : (s.onMem f).cq = s.cq := rfl
@[simp] theorem State.onMem_flt (f : Mem → Mem) : (s.onMem f).flt = s.flt := rfl
@[simp] theorem State.onMem_hosts (f : Mem → Mem) : (s.onMem f).hosts = s.hosts := rfl
@[simp] theorem State.onMem_fab (f : Mem → Mem) : (s.onMem f).fab = s.fab := rfl
@[simp] theorem State.onMem_sec (f : Mem → Mem) : (s.onMem f).sec = s.sec := rfl
@[simp] theorem State.onMem_rt (f : Mem → Mem) : (s.onMem f).rt = s.rt := rfl
@[simp] theorem State.onMem_mgmt (f : Mem → Mem) : (s.onMem f).mgmt = s.mgmt := rfl
@[simp] theorem State.onMem_pins (f : Mem → Mem) : (s.onMem f).pins = s.pins := rfl
@[simp] theorem State.onMem_out (f : Mem → Mem) : (s.onMem f).out = s.out := rfl

/-! ### onKv -/

@[simp] theorem State.onKv_pending (f : KvState → KvState) : (s.onKv f).pending = s.pending := rfl
@[simp] theorem State.onKv_free (f : KvState → KvState) : (s.onKv f).free = s.free := rfl
@[simp] theorem State.onKv_stamp (f : KvState → KvState) : (s.onKv f).stamp = s.stamp := rfl
@[simp] theorem State.onKv_ktime (f : KvState → KvState) : (s.onKv f).ktime = s.ktime := rfl
@[simp] theorem State.onKv_regs (f : KvState → KvState) : (s.onKv f).regs = s.regs := rfl
@[simp] theorem State.onKv_mesh (f : KvState → KvState) : (s.onKv f).mesh = s.mesh := rfl
@[simp] theorem State.onKv_engines (f : KvState → KvState) : (s.onKv f).engines = s.engines := rfl
@[simp] theorem State.onKv_lofts (f : KvState → KvState) : (s.onKv f).lofts = s.lofts := rfl
@[simp] theorem State.onKv_mem (f : KvState → KvState) : (s.onKv f).mem = s.mem := rfl
@[simp] theorem State.onKv_kv (f : KvState → KvState) : (s.onKv f).kv = f s.kv := rfl
@[simp] theorem State.onKv_cq (f : KvState → KvState) : (s.onKv f).cq = s.cq := rfl
@[simp] theorem State.onKv_flt (f : KvState → KvState) : (s.onKv f).flt = s.flt := rfl
@[simp] theorem State.onKv_hosts (f : KvState → KvState) : (s.onKv f).hosts = s.hosts := rfl
@[simp] theorem State.onKv_fab (f : KvState → KvState) : (s.onKv f).fab = s.fab := rfl
@[simp] theorem State.onKv_sec (f : KvState → KvState) : (s.onKv f).sec = s.sec := rfl
@[simp] theorem State.onKv_rt (f : KvState → KvState) : (s.onKv f).rt = s.rt := rfl
@[simp] theorem State.onKv_mgmt (f : KvState → KvState) : (s.onKv f).mgmt = s.mgmt := rfl
@[simp] theorem State.onKv_pins (f : KvState → KvState) : (s.onKv f).pins = s.pins := rfl
@[simp] theorem State.onKv_out (f : KvState → KvState) : (s.onKv f).out = s.out := rfl

/-! ### onFlt -/

@[simp] theorem State.onFlt_pending (f : Faults → Faults) : (s.onFlt f).pending = s.pending := rfl
@[simp] theorem State.onFlt_free (f : Faults → Faults) : (s.onFlt f).free = s.free := rfl
@[simp] theorem State.onFlt_stamp (f : Faults → Faults) : (s.onFlt f).stamp = s.stamp := rfl
@[simp] theorem State.onFlt_ktime (f : Faults → Faults) : (s.onFlt f).ktime = s.ktime := rfl
@[simp] theorem State.onFlt_regs (f : Faults → Faults) : (s.onFlt f).regs = s.regs := rfl
@[simp] theorem State.onFlt_mesh (f : Faults → Faults) : (s.onFlt f).mesh = s.mesh := rfl
@[simp] theorem State.onFlt_engines (f : Faults → Faults) : (s.onFlt f).engines = s.engines := rfl
@[simp] theorem State.onFlt_lofts (f : Faults → Faults) : (s.onFlt f).lofts = s.lofts := rfl
@[simp] theorem State.onFlt_mem (f : Faults → Faults) : (s.onFlt f).mem = s.mem := rfl
@[simp] theorem State.onFlt_kv (f : Faults → Faults) : (s.onFlt f).kv = s.kv := rfl
@[simp] theorem State.onFlt_cq (f : Faults → Faults) : (s.onFlt f).cq = s.cq := rfl
@[simp] theorem State.onFlt_flt (f : Faults → Faults) : (s.onFlt f).flt = f s.flt := rfl
@[simp] theorem State.onFlt_hosts (f : Faults → Faults) : (s.onFlt f).hosts = s.hosts := rfl
@[simp] theorem State.onFlt_fab (f : Faults → Faults) : (s.onFlt f).fab = s.fab := rfl
@[simp] theorem State.onFlt_sec (f : Faults → Faults) : (s.onFlt f).sec = s.sec := rfl
@[simp] theorem State.onFlt_rt (f : Faults → Faults) : (s.onFlt f).rt = s.rt := rfl
@[simp] theorem State.onFlt_mgmt (f : Faults → Faults) : (s.onFlt f).mgmt = s.mgmt := rfl
@[simp] theorem State.onFlt_pins (f : Faults → Faults) : (s.onFlt f).pins = s.pins := rfl
@[simp] theorem State.onFlt_out (f : Faults → Faults) : (s.onFlt f).out = s.out := rfl

/-! ### onHosts -/

@[simp] theorem State.onHosts_pending (f : Hosts → Hosts) : (s.onHosts f).pending = s.pending := rfl
@[simp] theorem State.onHosts_free (f : Hosts → Hosts) : (s.onHosts f).free = s.free := rfl
@[simp] theorem State.onHosts_stamp (f : Hosts → Hosts) : (s.onHosts f).stamp = s.stamp := rfl
@[simp] theorem State.onHosts_ktime (f : Hosts → Hosts) : (s.onHosts f).ktime = s.ktime := rfl
@[simp] theorem State.onHosts_regs (f : Hosts → Hosts) : (s.onHosts f).regs = s.regs := rfl
@[simp] theorem State.onHosts_mesh (f : Hosts → Hosts) : (s.onHosts f).mesh = s.mesh := rfl
@[simp] theorem State.onHosts_engines (f : Hosts → Hosts) : (s.onHosts f).engines = s.engines := rfl
@[simp] theorem State.onHosts_lofts (f : Hosts → Hosts) : (s.onHosts f).lofts = s.lofts := rfl
@[simp] theorem State.onHosts_mem (f : Hosts → Hosts) : (s.onHosts f).mem = s.mem := rfl
@[simp] theorem State.onHosts_kv (f : Hosts → Hosts) : (s.onHosts f).kv = s.kv := rfl
@[simp] theorem State.onHosts_cq (f : Hosts → Hosts) : (s.onHosts f).cq = s.cq := rfl
@[simp] theorem State.onHosts_flt (f : Hosts → Hosts) : (s.onHosts f).flt = s.flt := rfl
@[simp] theorem State.onHosts_hosts (f : Hosts → Hosts) : (s.onHosts f).hosts = f s.hosts := rfl
@[simp] theorem State.onHosts_fab (f : Hosts → Hosts) : (s.onHosts f).fab = s.fab := rfl
@[simp] theorem State.onHosts_sec (f : Hosts → Hosts) : (s.onHosts f).sec = s.sec := rfl
@[simp] theorem State.onHosts_rt (f : Hosts → Hosts) : (s.onHosts f).rt = s.rt := rfl
@[simp] theorem State.onHosts_mgmt (f : Hosts → Hosts) : (s.onHosts f).mgmt = s.mgmt := rfl
@[simp] theorem State.onHosts_pins (f : Hosts → Hosts) : (s.onHosts f).pins = s.pins := rfl
@[simp] theorem State.onHosts_out (f : Hosts → Hosts) : (s.onHosts f).out = s.out := rfl

/-! ### onLofts -/

@[simp] theorem State.onLofts_pending (f : Lofts → Lofts) : (s.onLofts f).pending = s.pending := rfl
@[simp] theorem State.onLofts_free (f : Lofts → Lofts) : (s.onLofts f).free = s.free := rfl
@[simp] theorem State.onLofts_stamp (f : Lofts → Lofts) : (s.onLofts f).stamp = s.stamp := rfl
@[simp] theorem State.onLofts_ktime (f : Lofts → Lofts) : (s.onLofts f).ktime = s.ktime := rfl
@[simp] theorem State.onLofts_regs (f : Lofts → Lofts) : (s.onLofts f).regs = s.regs := rfl
@[simp] theorem State.onLofts_mesh (f : Lofts → Lofts) : (s.onLofts f).mesh = s.mesh := rfl
@[simp] theorem State.onLofts_engines (f : Lofts → Lofts) : (s.onLofts f).engines = s.engines := rfl
@[simp] theorem State.onLofts_lofts (f : Lofts → Lofts) : (s.onLofts f).lofts = f s.lofts := rfl
@[simp] theorem State.onLofts_mem (f : Lofts → Lofts) : (s.onLofts f).mem = s.mem := rfl
@[simp] theorem State.onLofts_kv (f : Lofts → Lofts) : (s.onLofts f).kv = s.kv := rfl
@[simp] theorem State.onLofts_cq (f : Lofts → Lofts) : (s.onLofts f).cq = s.cq := rfl
@[simp] theorem State.onLofts_flt (f : Lofts → Lofts) : (s.onLofts f).flt = s.flt := rfl
@[simp] theorem State.onLofts_hosts (f : Lofts → Lofts) : (s.onLofts f).hosts = s.hosts := rfl
@[simp] theorem State.onLofts_fab (f : Lofts → Lofts) : (s.onLofts f).fab = s.fab := rfl
@[simp] theorem State.onLofts_sec (f : Lofts → Lofts) : (s.onLofts f).sec = s.sec := rfl
@[simp] theorem State.onLofts_rt (f : Lofts → Lofts) : (s.onLofts f).rt = s.rt := rfl
@[simp] theorem State.onLofts_mgmt (f : Lofts → Lofts) : (s.onLofts f).mgmt = s.mgmt := rfl
@[simp] theorem State.onLofts_pins (f : Lofts → Lofts) : (s.onLofts f).pins = s.pins := rfl
@[simp] theorem State.onLofts_out (f : Lofts → Lofts) : (s.onLofts f).out = s.out := rfl

/-! ### onMesh -/

@[simp] theorem State.onMesh_pending (f : MeshState → MeshState) : (s.onMesh f).pending = s.pending := rfl
@[simp] theorem State.onMesh_free (f : MeshState → MeshState) : (s.onMesh f).free = s.free := rfl
@[simp] theorem State.onMesh_stamp (f : MeshState → MeshState) : (s.onMesh f).stamp = s.stamp := rfl
@[simp] theorem State.onMesh_ktime (f : MeshState → MeshState) : (s.onMesh f).ktime = s.ktime := rfl
@[simp] theorem State.onMesh_regs (f : MeshState → MeshState) : (s.onMesh f).regs = s.regs := rfl
@[simp] theorem State.onMesh_mesh (f : MeshState → MeshState) : (s.onMesh f).mesh = f s.mesh := rfl
@[simp] theorem State.onMesh_engines (f : MeshState → MeshState) : (s.onMesh f).engines = s.engines := rfl
@[simp] theorem State.onMesh_lofts (f : MeshState → MeshState) : (s.onMesh f).lofts = s.lofts := rfl
@[simp] theorem State.onMesh_mem (f : MeshState → MeshState) : (s.onMesh f).mem = s.mem := rfl
@[simp] theorem State.onMesh_kv (f : MeshState → MeshState) : (s.onMesh f).kv = s.kv := rfl
@[simp] theorem State.onMesh_cq (f : MeshState → MeshState) : (s.onMesh f).cq = s.cq := rfl
@[simp] theorem State.onMesh_flt (f : MeshState → MeshState) : (s.onMesh f).flt = s.flt := rfl
@[simp] theorem State.onMesh_hosts (f : MeshState → MeshState) : (s.onMesh f).hosts = s.hosts := rfl
@[simp] theorem State.onMesh_fab (f : MeshState → MeshState) : (s.onMesh f).fab = s.fab := rfl
@[simp] theorem State.onMesh_sec (f : MeshState → MeshState) : (s.onMesh f).sec = s.sec := rfl
@[simp] theorem State.onMesh_rt (f : MeshState → MeshState) : (s.onMesh f).rt = s.rt := rfl
@[simp] theorem State.onMesh_mgmt (f : MeshState → MeshState) : (s.onMesh f).mgmt = s.mgmt := rfl
@[simp] theorem State.onMesh_pins (f : MeshState → MeshState) : (s.onMesh f).pins = s.pins := rfl
@[simp] theorem State.onMesh_out (f : MeshState → MeshState) : (s.onMesh f).out = s.out := rfl

/-! ### onFab -/

@[simp] theorem State.onFab_pending (f : FabState → FabState) : (s.onFab f).pending = s.pending := rfl
@[simp] theorem State.onFab_free (f : FabState → FabState) : (s.onFab f).free = s.free := rfl
@[simp] theorem State.onFab_stamp (f : FabState → FabState) : (s.onFab f).stamp = s.stamp := rfl
@[simp] theorem State.onFab_ktime (f : FabState → FabState) : (s.onFab f).ktime = s.ktime := rfl
@[simp] theorem State.onFab_regs (f : FabState → FabState) : (s.onFab f).regs = s.regs := rfl
@[simp] theorem State.onFab_mesh (f : FabState → FabState) : (s.onFab f).mesh = s.mesh := rfl
@[simp] theorem State.onFab_engines (f : FabState → FabState) : (s.onFab f).engines = s.engines := rfl
@[simp] theorem State.onFab_lofts (f : FabState → FabState) : (s.onFab f).lofts = s.lofts := rfl
@[simp] theorem State.onFab_mem (f : FabState → FabState) : (s.onFab f).mem = s.mem := rfl
@[simp] theorem State.onFab_kv (f : FabState → FabState) : (s.onFab f).kv = s.kv := rfl
@[simp] theorem State.onFab_cq (f : FabState → FabState) : (s.onFab f).cq = s.cq := rfl
@[simp] theorem State.onFab_flt (f : FabState → FabState) : (s.onFab f).flt = s.flt := rfl
@[simp] theorem State.onFab_hosts (f : FabState → FabState) : (s.onFab f).hosts = s.hosts := rfl
@[simp] theorem State.onFab_fab (f : FabState → FabState) : (s.onFab f).fab = f s.fab := rfl
@[simp] theorem State.onFab_sec (f : FabState → FabState) : (s.onFab f).sec = s.sec := rfl
@[simp] theorem State.onFab_rt (f : FabState → FabState) : (s.onFab f).rt = s.rt := rfl
@[simp] theorem State.onFab_mgmt (f : FabState → FabState) : (s.onFab f).mgmt = s.mgmt := rfl
@[simp] theorem State.onFab_pins (f : FabState → FabState) : (s.onFab f).pins = s.pins := rfl
@[simp] theorem State.onFab_out (f : FabState → FabState) : (s.onFab f).out = s.out := rfl

/-! ### onRt -/

@[simp] theorem State.onRt_pending (f : RtState → RtState) : (s.onRt f).pending = s.pending := rfl
@[simp] theorem State.onRt_free (f : RtState → RtState) : (s.onRt f).free = s.free := rfl
@[simp] theorem State.onRt_stamp (f : RtState → RtState) : (s.onRt f).stamp = s.stamp := rfl
@[simp] theorem State.onRt_ktime (f : RtState → RtState) : (s.onRt f).ktime = s.ktime := rfl
@[simp] theorem State.onRt_regs (f : RtState → RtState) : (s.onRt f).regs = s.regs := rfl
@[simp] theorem State.onRt_mesh (f : RtState → RtState) : (s.onRt f).mesh = s.mesh := rfl
@[simp] theorem State.onRt_engines (f : RtState → RtState) : (s.onRt f).engines = s.engines := rfl
@[simp] theorem State.onRt_lofts (f : RtState → RtState) : (s.onRt f).lofts = s.lofts := rfl
@[simp] theorem State.onRt_mem (f : RtState → RtState) : (s.onRt f).mem = s.mem := rfl
@[simp] theorem State.onRt_kv (f : RtState → RtState) : (s.onRt f).kv = s.kv := rfl
@[simp] theorem State.onRt_cq (f : RtState → RtState) : (s.onRt f).cq = s.cq := rfl
@[simp] theorem State.onRt_flt (f : RtState → RtState) : (s.onRt f).flt = s.flt := rfl
@[simp] theorem State.onRt_hosts (f : RtState → RtState) : (s.onRt f).hosts = s.hosts := rfl
@[simp] theorem State.onRt_fab (f : RtState → RtState) : (s.onRt f).fab = s.fab := rfl
@[simp] theorem State.onRt_sec (f : RtState → RtState) : (s.onRt f).sec = s.sec := rfl
@[simp] theorem State.onRt_rt (f : RtState → RtState) : (s.onRt f).rt = f s.rt := rfl
@[simp] theorem State.onRt_mgmt (f : RtState → RtState) : (s.onRt f).mgmt = s.mgmt := rfl
@[simp] theorem State.onRt_pins (f : RtState → RtState) : (s.onRt f).pins = s.pins := rfl
@[simp] theorem State.onRt_out (f : RtState → RtState) : (s.onRt f).out = s.out := rfl

/-! ### onSec -/

@[simp] theorem State.onSec_pending (f : SecState → SecState) : (s.onSec f).pending = s.pending := rfl
@[simp] theorem State.onSec_free (f : SecState → SecState) : (s.onSec f).free = s.free := rfl
@[simp] theorem State.onSec_stamp (f : SecState → SecState) : (s.onSec f).stamp = s.stamp := rfl
@[simp] theorem State.onSec_ktime (f : SecState → SecState) : (s.onSec f).ktime = s.ktime := rfl
@[simp] theorem State.onSec_regs (f : SecState → SecState) : (s.onSec f).regs = s.regs := rfl
@[simp] theorem State.onSec_mesh (f : SecState → SecState) : (s.onSec f).mesh = s.mesh := rfl
@[simp] theorem State.onSec_engines (f : SecState → SecState) : (s.onSec f).engines = s.engines := rfl
@[simp] theorem State.onSec_lofts (f : SecState → SecState) : (s.onSec f).lofts = s.lofts := rfl
@[simp] theorem State.onSec_mem (f : SecState → SecState) : (s.onSec f).mem = s.mem := rfl
@[simp] theorem State.onSec_kv (f : SecState → SecState) : (s.onSec f).kv = s.kv := rfl
@[simp] theorem State.onSec_cq (f : SecState → SecState) : (s.onSec f).cq = s.cq := rfl
@[simp] theorem State.onSec_flt (f : SecState → SecState) : (s.onSec f).flt = s.flt := rfl
@[simp] theorem State.onSec_hosts (f : SecState → SecState) : (s.onSec f).hosts = s.hosts := rfl
@[simp] theorem State.onSec_fab (f : SecState → SecState) : (s.onSec f).fab = s.fab := rfl
@[simp] theorem State.onSec_sec (f : SecState → SecState) : (s.onSec f).sec = f s.sec := rfl
@[simp] theorem State.onSec_rt (f : SecState → SecState) : (s.onSec f).rt = s.rt := rfl
@[simp] theorem State.onSec_mgmt (f : SecState → SecState) : (s.onSec f).mgmt = s.mgmt := rfl
@[simp] theorem State.onSec_pins (f : SecState → SecState) : (s.onSec f).pins = s.pins := rfl
@[simp] theorem State.onSec_out (f : SecState → SecState) : (s.onSec f).out = s.out := rfl

/-! ### onMgmt -/

@[simp] theorem State.onMgmt_pending (f : Mgmt → Mgmt) : (s.onMgmt f).pending = s.pending := rfl
@[simp] theorem State.onMgmt_free (f : Mgmt → Mgmt) : (s.onMgmt f).free = s.free := rfl
@[simp] theorem State.onMgmt_stamp (f : Mgmt → Mgmt) : (s.onMgmt f).stamp = s.stamp := rfl
@[simp] theorem State.onMgmt_ktime (f : Mgmt → Mgmt) : (s.onMgmt f).ktime = s.ktime := rfl
@[simp] theorem State.onMgmt_regs (f : Mgmt → Mgmt) : (s.onMgmt f).regs = s.regs := rfl
@[simp] theorem State.onMgmt_mesh (f : Mgmt → Mgmt) : (s.onMgmt f).mesh = s.mesh := rfl
@[simp] theorem State.onMgmt_engines (f : Mgmt → Mgmt) : (s.onMgmt f).engines = s.engines := rfl
@[simp] theorem State.onMgmt_lofts (f : Mgmt → Mgmt) : (s.onMgmt f).lofts = s.lofts := rfl
@[simp] theorem State.onMgmt_mem (f : Mgmt → Mgmt) : (s.onMgmt f).mem = s.mem := rfl
@[simp] theorem State.onMgmt_kv (f : Mgmt → Mgmt) : (s.onMgmt f).kv = s.kv := rfl
@[simp] theorem State.onMgmt_cq (f : Mgmt → Mgmt) : (s.onMgmt f).cq = s.cq := rfl
@[simp] theorem State.onMgmt_flt (f : Mgmt → Mgmt) : (s.onMgmt f).flt = s.flt := rfl
@[simp] theorem State.onMgmt_hosts (f : Mgmt → Mgmt) : (s.onMgmt f).hosts = s.hosts := rfl
@[simp] theorem State.onMgmt_fab (f : Mgmt → Mgmt) : (s.onMgmt f).fab = s.fab := rfl
@[simp] theorem State.onMgmt_sec (f : Mgmt → Mgmt) : (s.onMgmt f).sec = s.sec := rfl
@[simp] theorem State.onMgmt_rt (f : Mgmt → Mgmt) : (s.onMgmt f).rt = s.rt := rfl
@[simp] theorem State.onMgmt_mgmt (f : Mgmt → Mgmt) : (s.onMgmt f).mgmt = f s.mgmt := rfl
@[simp] theorem State.onMgmt_pins (f : Mgmt → Mgmt) : (s.onMgmt f).pins = s.pins := rfl
@[simp] theorem State.onMgmt_out (f : Mgmt → Mgmt) : (s.onMgmt f).out = s.out := rfl

/-! ### onPins -/

@[simp] theorem State.onPins_pending (f : Pins → Pins) : (s.onPins f).pending = s.pending := rfl
@[simp] theorem State.onPins_free (f : Pins → Pins) : (s.onPins f).free = s.free := rfl
@[simp] theorem State.onPins_stamp (f : Pins → Pins) : (s.onPins f).stamp = s.stamp := rfl
@[simp] theorem State.onPins_ktime (f : Pins → Pins) : (s.onPins f).ktime = s.ktime := rfl
@[simp] theorem State.onPins_regs (f : Pins → Pins) : (s.onPins f).regs = s.regs := rfl
@[simp] theorem State.onPins_mesh (f : Pins → Pins) : (s.onPins f).mesh = s.mesh := rfl
@[simp] theorem State.onPins_engines (f : Pins → Pins) : (s.onPins f).engines = s.engines := rfl
@[simp] theorem State.onPins_lofts (f : Pins → Pins) : (s.onPins f).lofts = s.lofts := rfl
@[simp] theorem State.onPins_mem (f : Pins → Pins) : (s.onPins f).mem = s.mem := rfl
@[simp] theorem State.onPins_kv (f : Pins → Pins) : (s.onPins f).kv = s.kv := rfl
@[simp] theorem State.onPins_cq (f : Pins → Pins) : (s.onPins f).cq = s.cq := rfl
@[simp] theorem State.onPins_flt (f : Pins → Pins) : (s.onPins f).flt = s.flt := rfl
@[simp] theorem State.onPins_hosts (f : Pins → Pins) : (s.onPins f).hosts = s.hosts := rfl
@[simp] theorem State.onPins_fab (f : Pins → Pins) : (s.onPins f).fab = s.fab := rfl
@[simp] theorem State.onPins_sec (f : Pins → Pins) : (s.onPins f).sec = s.sec := rfl
@[simp] theorem State.onPins_rt (f : Pins → Pins) : (s.onPins f).rt = s.rt := rfl
@[simp] theorem State.onPins_mgmt (f : Pins → Pins) : (s.onPins f).mgmt = s.mgmt := rfl
@[simp] theorem State.onPins_pins (f : Pins → Pins) : (s.onPins f).pins = f s.pins := rfl
@[simp] theorem State.onPins_out (f : Pins → Pins) : (s.onPins f).out = s.out := rfl

/-! ### Registers after a write -/

/-- A register reads what was written to it, in 64 bits. -/
theorem State.reg_setReg_same (h : mwf resetOf s.regs = true) (a v : Nat) : (s.setReg a v).reg a = v % 2 ^ 64 := by
  simp [State.reg, mget_mset_same h]

/-- A write of one register leaves every other as it was. -/
theorem State.reg_setReg_other (h : mwf resetOf s.regs = true) {a b : Nat} (v : Nat) (hab : b ≠ a) :
    (s.setReg a v).reg b = s.reg b := by
  simp [State.reg, mget_mset_other h hab]

theorem State.reg_lt (a : Nat) : s.reg a < 2 ^ 64 := (mget resetOf s.regs a).isLt

/-- A number is its bits below a field, the field, and its bits above. -/
theorem putBits_eq (n lo w v : Nat) :
    putBits n lo w v = n % 2 ^ lo + (2 ^ w * (n / 2 ^ lo / 2 ^ w) + v % 2 ^ w) * 2 ^ lo := by
  have h : n = n % 2 ^ lo + (2 ^ w * (n / 2 ^ lo / 2 ^ w) + n / 2 ^ lo % 2 ^ w) * 2 ^ lo := by
    rw [Nat.div_add_mod, Nat.mul_comm, Nat.mod_add_div]
  unfold putBits bitsAt
  rw [Nat.add_mul] at h ⊢
  omega

/-- A field reads what was put there, in its own width. -/
theorem bitsAt_putBits_same (n lo w v : Nat) : bitsAt (putBits n lo w v) lo w = v % 2 ^ w := by
  have hp : 0 < 2 ^ lo := Nat.two_pow_pos lo
  unfold bitsAt
  rw [putBits_eq, Nat.add_mul_div_right _ _ hp, Nat.div_eq_of_lt (Nat.mod_lt _ hp), Nat.zero_add, Nat.mul_add_mod, Nat.mod_mod]

theorem putBits_lt {n lo w v : Nat} (hw : lo + w ≤ 64) (hn : n < 2 ^ 64) : putBits n lo w v < 2 ^ 64 := by
  have e : n / 2 ^ lo / 2 ^ w < 2 ^ (64 - lo - w) := by
    rw [Nat.div_div_eq_div_mul, ← Nat.pow_add, Nat.div_lt_iff_lt_mul (Nat.two_pow_pos _), ← Nat.pow_add]
    rwa [show 64 - lo - w + (lo + w) = 64 by omega]
  have hv : v % 2 ^ w < 2 ^ w := Nat.mod_lt _ (Nat.two_pow_pos w)
  have hq : 2 ^ w * (n / 2 ^ lo / 2 ^ w) + v % 2 ^ w < 2 ^ (64 - lo) := by
    have : 2 ^ w * (n / 2 ^ lo / 2 ^ w + 1) ≤ 2 ^ w * 2 ^ (64 - lo - w) := Nat.mul_le_mul_left _ e
    rw [← Nat.pow_add, show w + (64 - lo - w) = 64 - lo by omega, Nat.mul_add, Nat.mul_one] at this
    omega
  have hm : n % 2 ^ lo < 2 ^ lo := Nat.mod_lt _ (Nat.two_pow_pos lo)
  have : (2 ^ w * (n / 2 ^ lo / 2 ^ w) + v % 2 ^ w + 1) * 2 ^ lo ≤ 2 ^ (64 - lo) * 2 ^ lo := Nat.mul_le_mul_right _ hq
  rw [← Nat.pow_add, show 64 - lo + lo = 64 by omega, Nat.add_mul, Nat.one_mul] at this
  rw [putBits_eq]
  omega

/-- A field of a register reads what was written to it. -/
theorem State.fld_setFld_same (h : mwf resetOf s.regs = true) {a lo w v : Nat} (hw : lo + w ≤ 64) :
    (s.setFld a lo w v).fld a lo w = v % 2 ^ w := by
  unfold State.fld State.setFld
  rw [s.reg_setReg_same h, Nat.mod_eq_of_lt (putBits_lt hw (s.reg_lt a)), bitsAt_putBits_same]

/-- A write of a field of one register leaves every other register as it was. -/
theorem State.reg_setFld_other (h : mwf resetOf s.regs = true) {a b : Nat} (lo w v : Nat) (hab : b ≠ a) :
    (s.setFld a lo w v).reg b = s.reg b := s.reg_setReg_other h _ hab

end Sys2Proof.Machine
end

