-- ==== Sys2Proof/WellFormed.lean ====
section
/-! DEFINITION. Which commands are well formed: their lists and numbers have the shape that the spec gives what they stand
for. A meaning is total all the same; nothing in the model depends on these checks. -/

namespace Sys2Proof

/-- The bytes of a write agree with the length of the access; a read has no bytes. -/
def lenOk {α : Type} (n : Nat) (bs : Option (List α)) : Bool :=
  decide (0 < n) && match bs with | none => true | some l => decide (l.length = n)

/-- A fabric packet: a 32-byte header, at most 4,096 payload bytes, a 16-byte tag, in whole words (R348). -/
def packetOk (bs : List Byte) : Bool :=
  decide (48 ≤ bs.length) && decide (bs.length ≤ 4144) && decide (bs.length % 4 = 0)

/-- An engine clock (Table 01-4): 1,200 to 2,100 MHz in steps of 50. -/
def clockOk (mhz : Nat) : Bool := decide (1200 ≤ mhz) && decide (mhz ≤ 2100) && decide (mhz % 50 = 0)

/-- The command is well formed. -/
def Instr.wf (i : Instr) : Bool :=
  match i with
  | .registerWrite _ a n _ => (decide (n = 4) || decide (n = 8)) && decide (a.toNat % n = 0)
  | .registerReadClear _ a n => (decide (n = 4) || decide (n = 8)) && decide (a.toNat % n = 0)
  | .engineClockChange _ mhz => clockOk mhz
  | .loftRequest _ _ la n bs _ => lenOk n bs && decide (la.toNat % 64 + n ≤ 64)
  | .hbmRequest _ va n bs _ => lenOk n bs && decide (va.toNat % 128 + n ≤ 128)
  | .ringReadComplete _ ws _ => decide (ws.length % 16 = 0) && decide (ws.length ≤ 128)
  | .t3Response _ _ va f bs _ _ _ => decide (0 < bs.length) && decide (va.toNat % 65536 + bs.length ≤ 65536) &&
      (!f || (decide (va.toNat % 128 = 0) && decide (bs.length % 128 = 0)))
  | .stagingLanding _ _ bs => decide (0 < bs.length) && decide (bs.length ≤ 4096)
  | .collReady _ bs => packetOk bs
  | .collData _ bs _ _ _ => packetOk bs
  | .collDone _ bs => packetOk bs
  | .collAbort _ bs => packetOk bs
  | .packetReceive _ bs => packetOk bs
  | .remoteRequest _ bs _ _ => packetOk bs
  | .remoteResponse _ bs => packetOk bs
  | .bar2Access _ _ n bs _ => lenOk n bs
  | .mctpPacket _ _ _ _ _ _ _ _ bs => decide (0 < bs.length)
  | .sensorRefresh _ _ _ ds ms => decide (ds.length = 25) && decide (ms.length = 8)
  | .h2dGo _ bs _ => decide (bs.length = 0) || decide (bs.length = 64)
  | _ => true

end Sys2Proof
end

