-- ==== Sys2Proof/Tests/Slice0.lean ====
section
/-! SUPPORT. Tests of the model: ill-formed commands that WellFormed refuses, examples the spec computes, and, for each
statement of Certificates, states and operands that meet its hypotheses together. -/

namespace Sys2Proof.Tests

set_option Elab.async false

open Machine Claims

/-! ### States to test on -/

def canonSet (x : StatSet) : Bool := mwf zeroByte x.rows && mwf zeroByte x.scales

def canonEng (e : Engine) : Bool :=
  mwf zeroByte e.spad && mwf notPoisoned e.poison && mwf zeroWord e.acc && mwf zeroWord e.vreg && canonSet e.set0 &&
    canonSet e.set1 && mwf noTag e.tags && mwf notPoisoned e.kept

def canonMem (m : Mem) : Bool :=
  mwf (fun _ => (0 : Byte)) m.hbm && mwf (fun _ => false) m.poison && mwf useDefault m.use && mwf slabDefault m.slabs &&
    mwf (fun _ => 0) m.epochs && mwf (fun _ => 0) m.badSeen && mwf (fun _ => 0) m.lat && mwf (fun _ => 0) m.turns

def canonLofts (l : Lofts) : Bool :=
  mwf (fun _ => (0 : Byte)) l.bytes && mwf (fun _ => false) l.poison && mwf (fun _ => 0) l.lost &&
    mwf (fun _ => false) l.fresh && mwf (fun _ => 0) l.clr

def canonCq (c : CmdState) : Bool :=
  mwf queueDefault c.queues && mwf jnlDefault c.journal && mwf phaseDefault c.phases && mwf bayXDefault c.bays

def canonFlt (f : Faults) : Bool :=
  mwf domDefault f.domains && mwf (fun _ => ([] : List W32)) f.devlog && mwf (fun _ => DieOp.none) f.dieOps &&
    mwf spareDefault f.spare && mwf failedDefault f.failed && mwf ckptDefault f.ckpts && mwf mirSrcDefault f.mirSrc &&
    mwf mirHostDefault f.mirHost

def canonParts (s : State) : Bool :=
  mwf ccDefault s.hosts.cc && mwf (fun _ => (0 : Byte)) s.mesh.copies && mwf portDefault s.fab.ports &&
    mwf keysDefault s.sec.keys && mwf rtDefault s.rt.models && mwf (fun _ => 0) s.mgmt.sensors &&
    mwf engDefault s.engines && s.engines.all fun e => canonEng e.2

/-- The canonical form, computed. -/
def canon (s : State) : Bool :=
  mwf resetOf s.regs && canonLofts s.lofts && canonMem s.mem && canonCq s.cq && canonFlt s.flt && canonParts s

theorem canonSet_sound {x : StatSet} (h : canonSet x = true) : x.Canonical := by
  simp only [canonSet, Bool.and_eq_true] at h; exact ⟨h.1, h.2⟩

theorem canonEng_sound {e : Engine} (h : canonEng e = true) : e.Canonical := by
  simp only [canonEng, Bool.and_eq_true] at h
  obtain ⟨⟨⟨⟨⟨⟨⟨a, b⟩, c⟩, d⟩, e'⟩, f⟩, g⟩, i⟩ := h
  exact ⟨a, b, c, d, canonSet_sound e', canonSet_sound f, g, i⟩

theorem canon_sound {s : State} (h : canon s = true) : s.Canonical := by
  simp only [canon, canonLofts, canonMem, canonCq, canonFlt, canonParts, Bool.and_eq_true, List.all_eq_true] at h
  obtain ⟨⟨⟨⟨⟨a, ⟨⟨⟨l1, l2⟩, l3⟩, l4⟩, l5⟩, ⟨⟨⟨⟨⟨⟨m1, m2⟩, m3⟩, m4⟩, m5⟩, m6⟩, m7⟩, m8⟩, ⟨⟨c1, c2⟩, c3⟩, c4⟩,
    ⟨⟨⟨⟨⟨⟨f1, f2⟩, f3⟩, f4⟩, f5⟩, f6⟩, f7⟩, f8⟩, ⟨⟨⟨⟨⟨⟨p1, p2⟩, p3⟩, p4⟩, p5⟩, p6⟩, p7⟩, p8⟩ := h
  exact ⟨a, p7, ⟨l1, l2, l3, l4, l5⟩, ⟨m1, m2, m3, m4, m5, m6, m7, m8⟩, ⟨c1, c2, c3, c4⟩, ⟨f1, f2, f3, f4, f5, f6, f7, f8⟩,
    p1, p2, p3, p4, p5, p6, fun e he => canonEng_sound (p8 e he)⟩

/-- The device after its boot has ended, its apex die ON. -/
def up : State := { State.reset with pins := { State.reset.pins with booting := false } }

/-- Bay 3, RUNNING, with compute die 0 and channel groups 0 and 8, on dies that are ON. -/
def bayS : State :=
  ((((((up.setDieState 0 2).setDieState 20 2).setDieState 21 2).setFld (Reg.BAY_STATE 3) 0 3 2).setReg (Reg.BAY_DIES 3) 1).setReg
    (Reg.BAY_GROUPS 3) 257)

/-- Words of a packet of opcode `op` with some parameter words. -/
def packetOf (op : Nat) (ps : List (Nat × Nat)) : List W32 :=
  BitVec.ofNat 32 op :: List.replicate 15 0 ++ (List.range 48).map fun i => BitVec.ofNat 32 (mget (fun _ => 0) ps i)

/-- A started command of queue 8 and bay 3, its work not begun. -/
def cmdOf (op : Nat) (ps : List (Nat × Nat)) : Cmd :=
  { q := 8, seq := 0, bay := some 3, words := packetOf op ps, pos := 0, jpos := 0, accept := 0, startAt := 0, phase := .started
    errRec := false, adm := .none, ran := false, paused := false, done := 0, parts := [], sigSent := false, sigRes := none }

def ref : CmdRef := ⟨8, 0⟩

def withCmd (s : State) (c : Cmd) : State := { s with cq := { s.cq with cmds := [c] } }

theorem due_of {s : State} {r : CmdRef} {op : Nat} {c : Cmd} (h : (s.apexUp && decide (s.findCmd r.q.val r.seq.toNat = some c) &&
    decide (c.phase = .started) && decide (c.ran = false) && decide (c.op = op)) = true) : due s r op c := by
  simp only [Bool.and_eq_true, decide_eq_true_eq] at h
  obtain ⟨⟨⟨⟨a, b⟩, c⟩, d⟩, e⟩ := h
  exact ⟨a, b, c, d, e⟩

theorem begun_of {s : State} {r : CmdRef} {op : Nat} {c : Cmd} (h : (decide (s.findCmd r.q.val r.seq.toNat = some c) &&
    decide (c.phase = .started) && decide (c.ran = true) && decide (c.op = op)) = true) : begun s r op c := by
  simp only [Bool.and_eq_true, decide_eq_true_eq] at h
  obtain ⟨⟨⟨b, c⟩, d⟩, e⟩ := h
  exact ⟨b, c, d, e⟩

/-- Engine 0 of compute die 0, as slot operations name it. -/
def er : EngRef := ⟨0, 0, 0, .none⟩

def launch0 : Launch := ⟨8, 0, 3, 0, 0, 0, 0, 0, List.replicate 16 0, .ready, false⟩

/-- A program in its first word, with 16 scalar registers and streams. -/
def runOf (cur : Option Cur) : Run :=
  { launch := launch0, prog := 0, base := 0, img := ⟨0, 64, [], [], [], [], []⟩, start := 0, cur := cur, wait := none, waited := 0
    loops := [], release := none, sregs := List.replicate 16 0, streams := List.replicate 16 AStream.zero, agen := .none
    feedEnd := 0, loadEnd := 0, setFree := 0, feedPd := none, vecFree := 0, lanes := [], uses := [], fails := []
    xfail := none, debug := false }

def engOn (r : Run) : Engine := { Engine.zero with run := some r }

/-- A state in which engine 0 of die 0 is `e`. -/
def withEng (s : State) (e : Engine) : State := { s with engines := [(0, e)] }

/-- The least word whose slot k holds opcode op. -/
def wordOf (k op : Nat) : W128 := BitVec.ofNat 128 (op * 2 ^ ([8, 36, 64, 84, 104, 112].getD k 0))

def curOf (k op : Nat) : Cur := ⟨0, wordOf k op, k, 0⟩

theorem reached_of {s : State} {r : EngRef} {k op : Nat} {c : Cur} {x : Run} (hr : (engOf s r).run = some x)
    (h : (decide ((engOf s r).issuing k op = some c) && decide (r.ecc = .none) && decide (x.debug = false) &&
      decide (x.waited = 0)) = true) : reached s r k op c := by
  simp only [Bool.and_eq_true, decide_eq_true_eq] at h
  exact ⟨h.1.1.1, h.1.1.2, x, hr, h.1.2, h.2⟩

/-! ### The engines: the statements' hypotheses can be met -/

/-- Engine 0 of die 0 at operation op of slot k, with its streams of KIND `kind`. -/
def atOp (kind k op : Nat) : State :=
  withEng up (engOn { runOf (some (curOf k op)) with streams := List.replicate 16 { AStream.zero with kind := kind } })

theorem atOp_canon (kind k op : Nat) : (atOp kind k op).Canonical := by
  have h : canon up = true := by decide +kernel
  have g := canon_sound h
  refine ⟨g.1, rfl, g.3, g.4, g.5, g.6, g.7, g.8, g.9, g.10, g.11, g.12, ?_⟩
  intro e he
  simp only [atOp, withEng, List.mem_singleton] at he
  subst he
  exact ⟨rfl, rfl, rfl, rfl, ⟨rfl, rfl⟩, ⟨rfl, rfl⟩, rfl, rfl⟩

/-- Slots and opcodes of Tables 05-2 to 05-10. -/
def slotOps : List (Nat × Nat) :=
  [(0, 1), (0, 2), (0, 3), (0, 4)] ++ (([1, 2, 3, 4, 5, 6, 7, 8, 9, 10, 11, 12, 13, 16, 17, 18, 19, 20, 21, 22, 23, 24, 25, 26, 27,
    28, 32, 34, 35, 36, 40, 44].map fun o => (1, o)) ++ ([1, 2, 3, 4, 5, 6, 7, 8].map fun o => (2, o)) ++
    ([1, 2, 3, 4, 5, 6, 7].map fun o => (3, o)) ++ ([1, 2, 3].map fun o => (4, o)) ++ ([1, 2, 3, 4, 5, 6].map fun o => (5, o)))

theorem reached_all : ∀ kind < 4, ∀ w ∈ slotOps, reached (atOp kind w.1 w.2) er w.1 w.2 (curOf w.1 w.2) := by
  have h : ∀ kind < 4, ∀ w ∈ slotOps, (decide ((engOf (atOp kind w.1 w.2) er).issuing w.1 w.2 = some (curOf w.1 w.2)) &&
      decide (er.ecc = .none) && true && true) = true := by decide +kernel
  intro kind hk w hw
  exact reached_of (x := { runOf (some (curOf w.1 w.2)) with streams := List.replicate 16 { AStream.zero with kind := kind } }) rfl
    (h kind hk w hw)

/-- Every operation of the vector slot can be reached. -/
theorem witness_VectorArithmetic : (∀ q ∈ floatRows ++ integerRows ++ exaddRow :: rbitsRow :: excvtRow :: reduceRows,
      ∃ s c, reached s er 1 q.op c) ∧ (∃ s c, reached s er 1 (cvtRow (engOf s er) c).op c) ∧
    ∃ s c, reached s er 1 40 c ∧ direct (engOf s er) (opA c % 16) 1 := by
  refine ⟨?_, ⟨_, _, reached_all 0 (by decide) (1, 32) (by decide)⟩,
    _, _, reached_all 1 (by decide) (1, 40) (by decide), rfl, rfl, _, rfl, by decide⟩
  intro q hq
  have h : ∀ q ∈ floatRows ++ integerRows ++ exaddRow :: rbitsRow :: excvtRow :: reduceRows, (1, q.op) ∈ slotOps := by
    simp [floatRows, integerRows, reduceRows, fp32Row, fp64Row, unaryRow, intRow, reduceRow, exaddRow, rbitsRow, excvtRow,
      slotOps]
  exact ⟨_, _, reached_all 0 (by decide) _ (h q hq)⟩

theorem witness_LoadsAndStores :
    (∀ q ∈ moveRows, ∃ s c, reached s er 2 q.op c ∧ direct (engOf s er) (bitsAt (wLdst c.word) 10 4) q.kind) ∧
    (∀ q ∈ xferRows, ∃ s c, reached s er 2 q.op c ∧ (engOf s er).doomed c.cyc = false) := by
  refine ⟨fun q hq => ?_, fun q hq => ?_⟩
  · simp only [moveRows, List.mem_cons, List.not_mem_nil, or_false] at hq
    obtain rfl | rfl | rfl | rfl := hq <;>
      exact ⟨_, _, reached_all _ (by decide) (2, _) (by decide), rfl, rfl, _, rfl, by decide⟩
  · simp only [xferRows, List.mem_cons, List.not_mem_nil, or_false] at hq
    obtain rfl | rfl | rfl | rfl := hq <;> exact ⟨_, _, reached_all 0 (by decide) (2, _) (by decide), rfl⟩

theorem witness_AddressGeneration :
    (∀ q ∈ scalarRows, ∃ s c, reached s er 3 q.op c ∧ ∃ x, (engOf s er).run = some x ∧ x.sregs.length = 16) ∧
    ∀ o ∈ [1, 2, 3], ∃ s c, reached s er 3 o c ∧ ∃ x, (engOf s er).run = some x ∧ x.streams.length = 16 := by
  refine ⟨fun q hq => ?_, fun q hq => ?_⟩
  · simp only [scalarRows, List.mem_cons, List.not_mem_nil, or_false] at hq
    obtain rfl | rfl | rfl | rfl := hq <;> exact ⟨_, _, reached_all 0 (by decide) (3, _) (by decide), _, rfl, rfl⟩
  · simp only [List.mem_cons, List.not_mem_nil, or_false] at hq
    obtain rfl | rfl | rfl := hq <;> exact ⟨_, _, reached_all 0 (by decide) (3, _) (by decide), _, rfl, rfl⟩

theorem witness_RandomLane : ∀ q ∈ laneRows, ∃ s c x, reached s er 4 q.op c ∧ (engOf s er).run = some x := by
  intro q hq
  simp only [laneRows, List.mem_cons, List.not_mem_nil, or_false] at hq
  obtain rfl | rfl | rfl := hq <;> exact ⟨_, _, _, reached_all 0 (by decide) (4, _) (by decide), rfl⟩

/-- END; LOOP; and SKIP with a word after it. -/
theorem witness_ProgramControl :
    (∃ s c, reached s er 5 1 c ∧ unfailed (engOf s er)) ∧ (∃ s c, reached s er 5 3 c) ∧
    ∃ s c x w k, reached s er 5 2 c ∧ (engOf s er).run = some x ∧ x.loops = [] ∧ x.fails = [] ∧ x.uses = [] ∧
      x.img.words[c.pc + 1]? = some w ∧ wordOk x.img (c.pc + 1) w = true ∧ firstSlot w 0 = some k :=
  ⟨⟨_, _, reached_all 0 (by decide) (5, 1) (by decide), _, rfl, rfl, by decide⟩,
   ⟨_, _, reached_all 0 (by decide) (5, 3) (by decide)⟩,
   withEng up (engOn { runOf (some (curOf 5 2)) with img := ⟨0, 64, [wordOf 5 2, wordOf 5 1], [], [], [], []⟩ }),
   curOf 5 2, _, wordOf 5 1, 5, reached_of rfl (by decide +kernel), rfl, rfl, rfl, rfl, rfl, by decide +kernel, by decide +kernel⟩

theorem witness_ProgramWaits :
    (∀ o ∈ [4, 5], ∃ s c, reached s er 5 o c ∧ bitsAt (wCtrl c.word) 12 1 = 0) ∧
    (∃ s c, reached s er 5 6 c ∧ (engOf s er).doomed c.cyc = false) ∧
    ∃ (s : State) (x : Run) (w : Wait) (k : Cur), (s.eng 0 0).run = some x ∧ x.wait = some w ∧ x.cur = some k ∧ w.quiesce = false := by
  refine ⟨fun o ho => ?_, ⟨_, _, reached_all 0 (by decide) (5, 6) (by decide), rfl⟩,
    withEng up (engOn { runOf (some (curOf 5 4)) with wait := some ⟨true, 1, false⟩ }), _, _, _, rfl, rfl, rfl, rfl⟩
  simp only [List.mem_cons, List.not_mem_nil, or_false] at ho
  obtain rfl | rfl := ho <;> exact ⟨_, _, reached_all 0 (by decide) (5, _) (by decide), by decide +kernel⟩

/-- A pass of BF16 by BF16 from scratchpad streams, its accumulator stream 1, and a set that fits it. -/
def pd0 : W64 := BitVec.ofNat 64 (9 + 9 * 16 + 2 ^ 42)
def streamS (op : Nat) : State :=
  let z : StatSet := ⟨true, 9, 9, 0, [], []⟩
  withEng up { engOn { runOf (some (curOf 0 op)) with
    img := ⟨0, 64, [], [], [pd0], [], []⟩
    streams := AStream.zero :: List.replicate 15 { AStream.zero with kind := 1 } } with set0 := z, set1 := z }

theorem witness_ArrayOperations :
    (∃ s c, reached s er 0 2 c) ∧ (∃ s c x, reached s er 0 1 c ∧ direct (engOf s er) (arrayAs c) 0 ∧ (engOf s er).run = some x) ∧
    (∃ s c, reached s er 0 3 c ∧ streamLegal (engOf s er) c (settledSet (engOf s er) (engOf s er).active)) ∧
    ∃ s c, reached s er 0 4 c ∧ streamLegal (engOf s er) c (settledSet (engOf s er) (1 - (engOf s er).active)) :=
  ⟨⟨_, _, reached_all 0 (by decide) (0, 2) (by decide)⟩,
   ⟨_, _, _, reached_all 0 (by decide) (0, 1) (by decide), ⟨rfl, rfl, _, rfl, by decide⟩, rfl⟩,
   ⟨streamS 3, curOf 0 3, reached_of rfl (by decide +kernel), by decide +kernel, by decide +kernel, by decide +kernel,
     by decide +kernel, by decide +kernel, by decide +kernel⟩,
   ⟨streamS 4, curOf 0 4, reached_of rfl (by decide +kernel), by decide +kernel, by decide +kernel, by decide +kernel,
     by decide +kernel, by decide +kernel, by decide +kernel⟩⟩

/-! ### A map of engines without the fuses -/

/-- A spare map with its entries set: engine l of the list holds physical engine l. -/
def mapOf (d : Nat) (ls : List Nat) : SMap Nat := ls.foldl (fun m l => mset spareDefault m (d * 64 + l) l) []

theorem mapOf_from (d : Nat) (ls : List Nat) : ∀ m : SMap Nat, mwf spareDefault m = true →
    mwf spareDefault (ls.foldl (fun m l => mset spareDefault m (d * 64 + l) l) m) = true ∧
    ∀ l, l ∈ ls ∨ mget spareDefault m (d * 64 + l) = l →
      mget spareDefault (ls.foldl (fun m l => mset spareDefault m (d * 64 + l) l) m) (d * 64 + l) = l := by
  induction ls with
  | nil => intro m hm; exact ⟨hm, fun l h => h.elim (by simp) id⟩
  | cons x xs ih =>
    intro m hm
    have h1 := mwf_mset hm (d * 64 + x) x
    refine ⟨(ih _ h1).1, fun l h => (ih _ h1).2 l ?_⟩
    by_cases hx : l = x
    · right; subst hx; exact mget_mset_same hm _ _
    · rcases h with h | h
      · left; simpa [hx] using h
      · right; rw [mget_mset_other hm (by omega)]; exact h

theorem mapOf_canon (d : Nat) (ls : List Nat) : mwf spareDefault (mapOf d ls) = true := (mapOf_from d ls [] rfl).1

/-- The state with every logical engine of die d on its own place. -/
def withMap (s : State) (d : Nat) : State := { s with flt := { s.flt with spare := mapOf d (List.range 48) } }

theorem withMap_canon {s : State} (h : s.Canonical) (d : Nat) : (withMap s d).Canonical :=
  ⟨h.1, h.2, h.3, h.4, h.5, ⟨h.6.1, h.6.2, h.6.3, mapOf_canon _ _, h.6.5, h.6.6, h.6.7, h.6.8⟩, h.7, h.8, h.9, h.10, h.11, h.12, h.13⟩

theorem withMap_phys (s : State) (d l : Nat) (h : l < 48) : (withMap s d).physOf d l = l :=
  (mapOf_from d (List.range 48) [] rfl).2 l (Or.inl (List.mem_range.2 h))

theorem withMap_log (s : State) (d p : Nat) (h : 48 ≤ p) : (withMap s d).logOf d p = none := by
  simp only [State.logOf, List.find?_eq_none, List.mem_range, decide_eq_true_eq]
  intro l hl e
  rw [withMap_phys s d l hl] at e
  omega

/-! ### Engines, their programs, and the lofts -/

/-- Compute die 0 ON, its engine 0 in power state w. -/
def dieS (w : Nat) : State := (up.setDieState 0 2).setPwr 0 0 w

theorem witness_EngineControls :
    (∃ s : State, s.Canonical ∧ s.dieState 0 = dieOn ∧ s.pwr 0 0 = 2 ∧ (s.eng 0 0).run = none ∧ (s.eng 0 0).iq = [] ∧
      s.fld (Reg.ENG_PWR 0 0) 1 1 = 0) ∧
    (∃ s : State, s.Canonical ∧ s.dieState 0 = dieOn ∧ s.logOf 0 50 = none) ∧
    (∃ s : State, s.Canonical ∧ s.dieState 0 = dieOn ∧ s.pwr 0 0 = 3) ∧
    ∃ s : State, s.Canonical ∧ (s.eng 0 0).run ≠ none ∧ (s.eng 0 0).outs = [] := by
  have h2 : canon (dieS 2) = true := by decide +kernel
  have h3 : canon (dieS 3) = true := by decide +kernel
  refine ⟨⟨dieS 2, canon_sound h2, by decide +kernel, by decide +kernel, rfl, rfl, by decide +kernel⟩,
    ⟨withMap (dieS 2) 0, withMap_canon (canon_sound h2) 0, ?_, withMap_log _ 0 50 (by decide)⟩,
    ⟨dieS 3, canon_sound h3, by decide +kernel, by decide +kernel⟩,
    atOp 0 5 1, atOp_canon 0 5 1, by decide +kernel, rfl⟩
  have h : (dieS 2).dieState 0 = dieOn := by decide +kernel
  exact h

def img1 : Image := ⟨0, 80, [wordOf 5 1], [], [], [], []⟩

/-- An image of one word that ends the program: header, word. -/
def imgBytes : List Byte :=
  ([0x4B54 + 2 ^ 16, 1, 0, 0, 80].flatMap fun w => natBytes 4 w) ++ List.replicate 44 0 ++
    (natBytes 16 (wordOf 5 1).toNat)

/-- Engine 0 of die 0 ON with a launch that waits, of a resident image or of one in the program cache. -/
def launchS (f : FetchState) (cache : List Byte) : State :=
  let e : Engine := { Engine.zero with
    iq := [{ launch0 with fetch := f }], resident := if f = .ready then [⟨0, 0, 2, img1, 0⟩] else [] }
  let s := withEng (dieS 2) e
  { s with lofts := { s.lofts with pcache := [⟨0, 0, cache, 0⟩] } }

theorem launchS_canon : canon (launchS .ready []) = true ∧ canon (launchS .fetching imgBytes) = true ∧
    canon (launchS .fetching []) = true := by decide +kernel

theorem launchS_next : (launchS .ready []).nextLaunch 0 0 = some launch0 := by
  have h : (launchS .ready []).launchEligible 0 0 launch0 = true := by
    have a : (decide ((launchS .ready []).qState 8 ≠ qHalted) || ((launchS .ready []).qx 8).disabling) = true := by
      decide +kernel
    have b : (launchS .ready []).ctxHeld 0 0 0 = false := by decide +kernel
    have c : ∀ g, (launchS .ready []).oldGroupLeft 3 0 g 8 = false := fun g => by
      have e : (launchS .ready []).cq.cmds = [] := rfl
      simp [State.oldGroupLeft, e]
    simp only [State.launchEligible, show launch0.q = 8 from rfl, show launch0.ctx = 0 from rfl, show launch0.bay = 3 from rfl,
      a, b, c, Bool.not_false, Bool.and_self]
  have i : ((launchS .ready []).eng 0 0).iq = [launch0] := rfl
  simp [State.nextLaunch, i, h]

theorem witness_ProgramStarts :
    (∃ (s : State) (l : Launch) (x : Resident), s.Canonical ∧ s.engineUp 0 0 = true ∧ (s.eng 0 0).run = none ∧
      (s.eng 0 0).testing = false ∧ s.fld (Reg.CLR_STATUS 0) 0 2 ≠ 1 ∧ s.nextLaunch 0 0 = some l ∧ l.bay < 16 ∧ l.fetch = .ready ∧
      (s.eng 0 0).resident.find? (fun y => decide (y.handle = l.handle)) = some x) ∧
    (∀ b ∈ [true, false], ∃ (s : State) (l : Launch) (x : Cached), s.Canonical ∧ s.engineUp 0 0 = true ∧
      (s.eng 0 0).iq.filter (fun y => decide (y.handle = 0) && decide (y.fetch ≠ .ready)) = [l] ∧ s.cached 0 0 = some x ∧
      (parseImage x.bytes).isSome = b ∧ (s.eng 0 0).resident = []) ∧
    ∃ (s : State) (x : Run) (c : Cur), (s.eng 0 0).run = some x ∧ x.cur = some c ∧ x.start.toNat + 64000 ≤ s.now ∧
      ∀ f ∈ x.fails, c.cyc < f.cyc := by
  refine ⟨⟨launchS .ready [], launch0, _, canon_sound launchS_canon.1, by decide +kernel, rfl, rfl, by decide +kernel, launchS_next, by decide,
    rfl, rfl⟩, fun b hb => ?_, { atOp 0 5 1 with ktime := 64000 }, _, _, rfl, rfl, by decide +kernel, by decide +kernel⟩
  simp only [List.mem_cons, List.not_mem_nil, or_false] at hb
  obtain rfl | rfl := hb
  · exact ⟨launchS .fetching imgBytes, _, _, canon_sound launchS_canon.2.1, by decide +kernel, rfl, rfl, by decide +kernel, rfl⟩
  · exact ⟨launchS .fetching [], _, _, canon_sound launchS_canon.2.2, by decide +kernel, rfl, rfl, by decide +kernel, rfl⟩

/-- Engine 0 of die 0 with an LFTR of 4 bytes on tag 0 for bay 3, which holds the die, and a SIGE. -/
def xferS : State :=
  withEng bayS { Engine.zero with xfers := [⟨0, 5, 0, 0, 0, 4, 0, 0, 0, 3, 1⟩], siges := [⟨2, 3, 1, 5⟩] }

theorem witness_EngineTransfers :
    (∃ (s : State) (x : Xfer), s.Canonical ∧ (s.eng 0 0).xfers.find? (fun x => decide (x.tag = 0)) = some x ∧ x.op = 5 ∧
      s.dieState 0 = dieOn ∧ s.loftRefuses 0 (some x.bay) x.src x.len = none ∧ ∀ b ∈ s.loftGet 0 x.src x.len, b ≠ none) ∧
    (∃ (s : State) (g : SigePost) (rest : List SigePost), s.Canonical ∧ (s.eng 0 0).siges = g :: rest ∧
      ¬ ∃ x ∈ (s.eng 0 0).xfers ++ (s.eng 0 0).unacked, x.prog = g.prog ∧ x.issue ≤ g.cyc ∧ (x.op = 6 ∨ x.op = 7)) ∧
    ∃ s : State, s.Canonical ∧ s.dieState 0 = dieOn ∧ s.fld (Reg.SPAD_OWN 0 0 0) 13 1 = 1 ∧ (s.eng 0 0).bankBusy 0 = false ∧
      (s.eng 0 0).runsFor (s.fld (Reg.SPAD_OWN 0 0 0) 0 5) (s.fld (Reg.SPAD_OWN 0 0 0) 8 5) = false := by
  have h : canon xferS = true := by decide +kernel
  have h2 : canon ((dieS 2).setFld (Reg.SPAD_OWN 0 0 0) 13 1 1) = true := by decide +kernel
  exact ⟨⟨xferS, _, canon_sound h, rfl, rfl, by decide +kernel, by decide +kernel, by decide +kernel⟩,
    ⟨xferS, _, _, canon_sound h, rfl, by decide +kernel⟩,
    _, canon_sound h2, by decide +kernel, by decide +kernel, by decide +kernel, by decide +kernel⟩

/-- Die 0 ON in a clear or out of one. -/
def clearS (v : Nat) : State := bayS.setReg (Reg.CLR_STATUS 0) v

theorem witness_ClearAndLoft :
    (∃ s : State, s.Canonical ∧ s.dieState 0 = dieOn ∧ s.fld (Reg.CLR_STATUS 0) 0 2 ≠ 1 ∧ s.dieQuiet 0 = true ∧
      s.loftRefuses 0 (some 3) 64 8 = none) ∧
    (∃ s : State, s.Canonical ∧ s.dieState 0 = dieOn ∧ s.fld (Reg.CLR_STATUS 0) 0 2 ≠ 1 ∧ s.dieQuiet 0 = false) ∧
    (∃ s : State, s.Canonical ∧ s.dieState 0 = dieOn ∧ s.fld (Reg.CLR_STATUS 0) 0 2 = 1 ∧ s.fld (Reg.CLR_STATUS 0) 3 1 = 0 ∧
      (∀ b < 16, s.bayState b ≠ bayScrubbing) ∧ bitsAt s.sec.clearing 0 1 = 0 ∧ s.loftRefuses 0 (some 3) 64 8 = some St.DOMAIN_CLOSED) ∧
    ∃ s : State, s.Canonical ∧ s.dieState 0 = dieOn ∧ s.fld (Reg.LOFT_PATROL 0) 0 1 = 1 ∧ s.fld (Reg.CLR_STATUS 0) 0 2 ≠ 1 := by
  have h0 : canon (clearS 0) = true := by decide +kernel
  have h1 : canon (clearS 1) = true := by decide +kernel
  have h2 : canon xferS = true := by decide +kernel
  have h3 : canon (bayS.setFld (Reg.LOFT_PATROL 0) 0 1 1) = true := by decide +kernel
  exact ⟨⟨_, canon_sound h0, by decide +kernel, by decide +kernel, by decide +kernel, by decide +kernel⟩,
    ⟨_, canon_sound h2, by decide +kernel, by decide +kernel, by decide +kernel⟩,
    ⟨_, canon_sound h1, by decide +kernel, by decide +kernel, by decide +kernel, by decide +kernel, by decide +kernel,
      by decide +kernel⟩,
    _, canon_sound h3, by decide +kernel, by decide +kernel, by decide +kernel⟩

/-! ### Formats and accumulation -/

theorem witness_FormatRounding :
    (∃ f ∈ [fp64, fp32, bf16, fp16, e4m3, e5m2, e3m2, e2m3, e2m1], ∃ (md : Rnd) (x : Nat), x < 2 ^ (1 + f.eb + f.mb) ∧
      (∃ b r, md = .sr b r) ∧ ∀ b r, md = .sr b r → r < 2 ^ b) ∧
    ∃ m j : Nat, 2 ^ j ≤ m ∧ m < 2 ^ (j + 1) := by
  refine ⟨⟨e2m1, by decide, .sr 8 255, 15, by decide, ⟨8, 255, rfl⟩, ?_⟩, 7, 2, by decide, by decide⟩
  intro b r h
  cases h
  decide

/-- A row of a pass, and values that sum below 2^127. -/
def passOf (acc drain : Nat) : PassRow :=
  ⟨0, [], [], StatSet.empty, BitVec.ofNat 64 (9 + 9 * 16 + acc * 2 ^ 12 + drain * 2 ^ 14), 0, 0, some 5, some 0, 0, 0, [], false⟩

theorem witness_Accumulation :
    (∃ ps qs : List Machine.Num, ps.Perm qs ∧ ps ≠ qs) ∧
    (∃ xs ys : List Int, xs.Perm ys ∧ xs ≠ ys ∧ (xs.map Int.natAbs).sum < 2 ^ 127 ∧
      (xs.map Int.natAbs).sum + (ys.map Int.natAbs).sum < 2 ^ 127) ∧
    ∀ acc < 3, ∀ drain < 4, ∃ (e : Engine) (p : PassRow) (a col : Nat), e.Canonical ∧ p.acc = some a ∧ col < 32 ∧
      pdAcc p.pd = acc ∧ pdDrain p.pd = drain := by
  have h : ∀ acc < 3, ∀ drain < 4, pdAcc (passOf acc drain).pd = acc ∧ pdDrain (passOf acc drain).pd = drain := by
    decide +kernel
  exact ⟨⟨[.fin false 1 0, .nan], [.nan, .fin false 1 0], .swap _ _ _, by decide⟩,
    ⟨[1, -2], [-2, 1], .swap _ _ _, by decide, by decide, by decide⟩,
    fun acc ha drain hd => ⟨Engine.zero, passOf acc drain, 5, 31, ⟨rfl, rfl, rfl, rfl, ⟨rfl, rfl⟩, ⟨rfl, rfl⟩, rfl, rfl⟩, rfl,
      by decide, (h acc ha drain hd).1, (h acc ha drain hd).2⟩⟩

/-! ### Command queues -/

/-- Registers written in turn. -/
def sets (s : State) (l : List (Nat × Nat)) : State := l.foldl (fun t e => t.setReg e.1 e.2) s

/-- Queue 8 of bay 3 in state st: 64 slots, 64 records, priority 6, ring and records in host memory, role 0. -/
def queueS (st : Nat) : State :=
  sets bayS [(Reg.Q_CFG 8, 6 + 6 * 2 ^ 5 + 3 * 2 ^ 10 + 6 * 2 ^ 15), (Reg.Q_STATUS 8, st), (Reg.Q_ROLE 1, 0)]

theorem queueS_canon : ∀ st < 6, canon (queueS st) = true := by decide +kernel

/-- A doorbell that moves nowhere, one that overruns the ring, and one that is taken. -/
theorem witness_QueueHostWrites :
    (∃ s : State, s.Canonical ∧ s.apexUp = true ∧ s.qState 8 = 1 ∧ sub32 0 (s.reg (Reg.Q_TAIL 8)) = 0 ∧
      s.qSlots 8 < sub32 65 (s.reg (Reg.Q_HEAD 8)) ∧ sub32 64 (s.reg (Reg.Q_HEAD 8)) ≤ s.qSlots 8 ∧
      sub32 64 (s.reg (Reg.Q_TAIL 8)) < 2 ^ 31) ∧
    (∃ s : State, s.Canonical ∧ s.apexUp = false) ∧
    ∃ s : State, s.Canonical ∧ s.apexUp = true ∧ s.reg Reg.JNL_POS = 2 ∧ s.reg Reg.JNL_ACK = 1 ∧ s.reg (Reg.Q_CPL_TAIL 8) = 1 ∧
      s.qAdmin 8 = false ∧ s.fld (Reg.BAY_CONSENT (s.qBay 8)) 1 1 = 1 := by
  have h0 : canon State.reset = true := by decide +kernel
  have h1 : canon (sets (queueS 1) [(Reg.JNL_POS, 2), (Reg.JNL_ACK, 1), (Reg.Q_CPL_TAIL 8, 1), (Reg.BAY_CONSENT 3, 2)]) = true := by
    decide +kernel
  exact ⟨⟨_, canon_sound (queueS_canon 1 (by decide)), by decide +kernel, by decide +kernel, by decide +kernel, by decide +kernel,
      by decide +kernel, by decide +kernel⟩,
    ⟨_, canon_sound h0, by decide +kernel⟩,
    _, canon_sound h1, by decide +kernel, by decide +kernel, by decide +kernel, by decide +kernel, by decide +kernel,
    by decide +kernel⟩

/-- Every state of a queue, with and without a configuration that may run, and a command stopped at a breakpoint. -/
theorem witness_QueueStates :
    (∀ st < 6, ∃ s : State, s.Canonical ∧ s.apexUp = true ∧ s.qState 8 = st ∧ ∀ c ∈ s.qCmds 8, c.unstarted = false) ∧
    (∃ s : State, s.Canonical ∧ s.apexUp = true ∧ s.qState 8 = 0 ∧ enables s 8) ∧
    (∃ s : State, s.Canonical ∧ s.apexUp = true ∧ s.qState 8 = 0 ∧ ¬ enables s 8) ∧
    ∃ (s : State) (c : Cmd), s.Canonical ∧ s.apexUp = true ∧ s.qState 8 = 5 ∧ s.qCmds 8 = [c] ∧ c.phase = .stopped ∧ c.op ≠ 0x30 ∧
      s.fld (Reg.Q_CFG 8) 19 1 = 0 ∧ c.signals St.CANCELLED = false ∧ (s.qx 8).disabling = false := by
  have h : ∀ st < 6, (queueS st).apexUp = true ∧ (queueS st).qState 8 = st := by decide +kernel
  have hu : canon up = true := by decide +kernel
  have hb : canon (withCmd (queueS 5) { cmdOf 0 [] with phase := .stopped }) = true := by decide +kernel
  refine ⟨fun st hs => ⟨_, canon_sound (queueS_canon st hs), (h st hs).1, (h st hs).2, fun c hc => ?_⟩,
    ⟨_, canon_sound (queueS_canon 0 (by decide)), (h 0 (by decide)).1, (h 0 (by decide)).2, by decide +kernel, by decide +kernel,
      by decide +kernel, by decide +kernel, fun _ => by decide +kernel⟩,
    ⟨_, canon_sound hu, by decide +kernel, by decide +kernel, fun e => absurd e.slots (by decide +kernel)⟩,
    _, _, canon_sound hb, by decide +kernel, by decide +kernel, rfl, rfl, by decide +kernel, by decide +kernel, by decide +kernel,
    by decide +kernel⟩
  have e : (queueS st).qCmds 8 = [] := rfl
  rw [e] at hc
  exact absurd hc (by simp)

/-- A packet to fetch, and one that has been read. -/
def fetchS (f : Option Nat) : State :=
  let s := (queueS 1).setReg (Reg.Q_TAIL 8) 1
  { s with cq := { s.cq with queues := if f = none then [] else [(8, { QueueX.zero with fetch := f })] } }

theorem witness_PacketIntake :
    (∃ s : State, s.Canonical ∧ s.apexUp = true ∧ s.fetchable 8 = true ∧ s.jnlFree = true ∧
      ∀ p, p < 512 → p % 8 = 0 → s.fetchable p = true → p = 8) ∧
    ∃ (s s1 : State) (ws : List W32), s.Canonical ∧ (s.qx 8).fetch = some 0 ∧ accepts s 8 ∧ s.packet 8 0 ws 0 = (s1, .words ws) ∧
      1 + wordField ws 0 8 3 ≤ sub32 (s.reg (Reg.Q_TAIL 8)) 0 := by
  have h0 : canon (fetchS none) = true := by decide +kernel
  have h1 : canon (fetchS (some 0)) = true := by decide +kernel
  have h2 : (fetchS (some 0)).fld (Reg.Q_CFG 8) 18 1 = 0 := by decide +kernel
  have h3 : (fetchS (some 0)).fld (Reg.Q_CFG 8) 20 1 = 0 := by decide +kernel
  have h4 : (fetchS (some 0)).ccBytes ((fetchS (some 0)).slotAddr 8 0) 64 = none := by decide +kernel
  refine ⟨⟨_, canon_sound h0, by decide +kernel, by decide +kernel, by decide +kernel, by decide +kernel⟩,
    fetchS (some 0), (fetchS (some 0)).count64 (Reg.HL_RX_BYTES 0) 256, packetOf 0 [], canon_sound h1, by decide +kernel,
    ⟨by decide +kernel, by decide +kernel, by decide +kernel, by decide +kernel, by decide +kernel⟩, ?_, by decide +kernel⟩
  simp only [State.packet, h2, h3, h4]
  simp [show (packetOf 0 []).length = 64 by decide]

/-- A command that may start, and one whose work has ended. -/
theorem witness_CommandRuns :
    (∃ (s : State) (c : Cmd), s.Canonical ∧ s.findCmd 8 0 = some c ∧ s.apexUp = true ∧ startable s c) ∧
    (∃ (s : State) (c : Cmd), s.Canonical ∧ s.findCmd 8 0 = some c ∧ ¬ startable s c) ∧
    (∃ (s : State) (c : Cmd), s.Canonical ∧ s.findCmd 8 0 = some c ∧ c.phase = .finished St.OK 0 0 ∧ s.apexUp = true ∧
      c.sigRemote = false ∧ s.fld (Reg.Q_CFG 8) 19 1 = 0 ∧ (s.qx 8).disabling = false) ∧
    ∃ (s : State) (r : CmdRef) (c : Cmd), s.findCmd r.q.val r.seq.toNat = some c ∧ c.phase ≠ .started := by
  have h0 : canon (withCmd (queueS 1) { cmdOf 0 [] with phase := .accepted }) = true := by decide +kernel
  have h1 : canon (withCmd (queueS 1) { cmdOf 0 [] with phase := .finished St.OK 0 0 }) = true := by decide +kernel
  refine ⟨⟨_, _, canon_sound h0, rfl, by decide +kernel, by decide +kernel, by decide +kernel, rfl, by decide +kernel,
      by decide +kernel, fun h => absurd h (by decide +kernel), fun b hb => ?_⟩,
    ⟨_, _, canon_sound h1, rfl, fun h => absurd h.phase (by decide +kernel)⟩,
    ⟨_, _, canon_sound h1, rfl, rfl, by decide +kernel, by decide +kernel, by decide +kernel, by decide +kernel⟩,
    withCmd up { cmdOf 0 [] with phase := .accepted }, ref, _, rfl, by decide⟩
  cases hb
  decide +kernel

/-- An accepted command of header words `ws`. -/
def waitCmd (ws : List W32) (ph : CmdPhase) : Cmd := { cmdOf 0 [] with words := ws, phase := ph }

/-- Words of a packet that waits for event 5 to reach 2, and would itself raise it. -/
def waitWords : List W32 := [0, 0, 1, 1 + 5 * 16, 1, 0, 0, 0, 5 + 2 * 2 ^ 16, 0]

/-- Bay 3's fabric: three devices on axis 0, port P0 ACTIVE, its slot 0 given to the job. -/
def fabS : State :=
  sets (queueS 1) ([20, 21, 22, 23].flatMap (fun e => [(Reg.FAB_DIMS e, 2 + 3 * 2 ^ 24)]) ++
    [(Reg.PORT_STATUS 20 0, 5), (Reg.PORT_STATUS 20 1, 5), (Reg.SLOT 20 0 0, 2 ^ 16), (Reg.SLOT 20 1 0, 2 ^ 16)])

/-- A finished command of bay 3 with a signal for bay 0 of device 1. -/
def signalCmd : Cmd := waitCmd [0, 0, 0, 1 + 4, 1, 0, 1] (.finished St.OK 0 0)
def signalS : State := withCmd fabS signalCmd

theorem signalS_reaches : reaches signalS 3 signalCmd.sigDev :=
  ⟨by decide +kernel, ⟨0, 0, false, false, by decide +kernel, by decide +kernel⟩, by decide +kernel⟩

def scanS : State := (withCmd (queueS 1) (waitCmd waitWords .accepted)).setReg Reg.CMD_DEP_SCAN 1 |>.setReg (Reg.EVT 3 5) 0
def endS : State := withCmd (queueS 1) (waitCmd waitWords (.signalling 0))

theorem unscheduled_of {s : State} (h : s.flt.ckpts = []) (b : Nat) : unscheduled s b := fun k _ => by
  simp [State.ckpt, h, ckptDefault]

theorem witness_DependenciesAndSignals :
    (∃ (s : State) (c : Cmd), s.Canonical ∧ s.apexUp = true ∧ s.findCmd 8 0 = some c ∧ c.unstarted = true ∧
      (s.oldest c.q).map (·.seq) = some c.seq ∧ (∃ w ∈ c.waits, s.evt (c.bay.getD 0) w.1 < w.2) ∧
      s.fld Reg.CMD_WAIT_DEFAULT 0 24 ≠ 0xFFFFFF ∧ c.timeout = 0) ∧
    (∃ (s : State) (c : Cmd), s.Canonical ∧ s.apexUp = true ∧ s.fld Reg.CMD_DEP_SCAN 0 16 ≠ 0 ∧ s.waitEdges 3 = [(8, 5, 8)] ∧
      s.oldest 8 = some c ∧ ∀ b < 16, b ≠ 3 → s.waitEdges b = []) ∧
    (∃ s : State, s.Canonical ∧ s.apexUp = true ∧ s.bayState 3 = 2 ∧ unscheduled s 3) ∧
    (∃ (s : State) (c : Cmd), s.Canonical ∧ s.findCmd 8 0 = some c ∧ s.apexUp = true ∧ c.phase = .signalling 0 ∧ c.bay = some 3 ∧
      unscheduled s 3) ∧
    (∃ (s : State) (c : Cmd), s.Canonical ∧ s.findCmd 8 0 = some c ∧ s.apexUp = true ∧ c.phase = .finished St.OK 0 0 ∧
      c.sigRemote = true ∧ c.signals St.OK = true ∧ c.sigSent = false ∧ c.bay = some 3 ∧ reaches s 3 c.sigDev ∧ noneDone s) ∧
    ∃ s : State, s.Canonical ∧ s.lwBad 3 0 1 = true ∧ s.lwBad 3 0 (1 + 2 ^ 16) = false := by
  have h1 : canon scanS = true := by decide +kernel
  have h2 : canon endS = true := by decide +kernel
  have h3 : canon signalS = true := by decide +kernel
  have h4 : canon (queueS 1) = true := by decide +kernel
  exact ⟨⟨scanS, waitCmd waitWords .accepted, canon_sound h1, by decide +kernel, by decide +kernel, by decide +kernel,
      by decide +kernel, by decide +kernel, by decide +kernel, by decide +kernel⟩,
    ⟨scanS, waitCmd waitWords .accepted, canon_sound h1, by decide +kernel, by decide +kernel, by decide +kernel, by decide +kernel,
      by decide +kernel⟩,
    ⟨queueS 1, canon_sound h4, by decide +kernel, by decide +kernel, unscheduled_of (by decide +kernel) 3⟩,
    ⟨endS, waitCmd waitWords (.signalling 0), canon_sound h2, by decide +kernel, by decide +kernel, by decide +kernel,
      by decide +kernel, unscheduled_of (by decide +kernel) 3⟩,
    ⟨signalS, signalCmd, canon_sound h3, by decide +kernel, by decide +kernel, by decide +kernel, by decide +kernel,
      by decide +kernel, by decide +kernel, by decide +kernel, signalS_reaches, fun r hr =>
        absurd (show signalS.fab.reqs = [] by decide +kernel) (List.ne_nil_of_mem hr)⟩,
    queueS 1, canon_sound h4, by decide +kernel, by decide +kernel⟩

/-- A COPY or FILL of n bytes into the scratchpad of engine 0 of die d, or of HBM. -/
def fillCmd (op d n : Nat) : Cmd := cmdOf op [(0, if d = 31 then 0 else 8), (1, if d = 31 then 0 else d * 2 ^ 11), (6, n)]

theorem begun_withMap {s : State} {r : CmdRef} {op : Nat} {c : Cmd} (h : begun s r op c) (d : Nat) : begun (withMap s d) r op c :=
  ⟨h.1, h.2, h.3, h.4⟩

theorem due_withMap {s : State} {r : CmdRef} {op : Nat} {c : Cmd} (h : due s r op c) (d : Nat) : due (withMap s d) r op c :=
  ⟨h.1, h.2, h.3, h.4, h.5⟩

theorem withMap_refuses (s : State) (d k : Nat) : (withMap s d).dieRefuses k = s.dieRefuses k := rfl
theorem withMap_share (s : State) (d b k : Nat) : (withMap s d).share b k = s.share b k := rfl

theorem witness_CopyAndFill :
    (∀ op ∈ [2, 3], ∃ s c, due s ref op c ∧ c.copyLen = 0) ∧
    (∀ op ∈ [2, 3], ∃ s c, due s ref op c ∧ c.copyLen ≠ 0 ∧ c.src.space ≠ 2 ∧ c.dst.space ≠ 2) ∧
    (∀ op ∈ [2, 3], ∃ s c, due s ref op c ∧ c.copyLen ≠ 0 ∧ c.dst.space = 2 ∧ s.dieRefuses c.dst.die ≠ none) ∧
    ∃ s c, begun s ref 3 c ∧ c.paused = false ∧ c.dst.space = 2 ∧ s.dieRefuses c.dst.die = none ∧
      s.physOf c.dst.die c.dst.log ≠ 0x3F ∧ s.mgmt.restarting = false := by
  refine ⟨fun op ho => ⟨withCmd up (fillCmd op 31 0), fillCmd op 31 0, due_of ?_, ?_⟩, fun op ho => ⟨withCmd up (fillCmd op 31 4), fillCmd op 31 4, due_of ?_, ?_⟩,
    fun op ho => ⟨withCmd up (fillCmd op 5 4), fillCmd op 5 4, due_of ?_, ?_⟩,
    withMap (withCmd bayS { fillCmd 3 0 4 with ran := true }) 0, { fillCmd 3 0 4 with ran := true }, begun_withMap (begun_of (by decide +kernel)) 0, rfl,
    by decide +kernel, ?_, ?_, rfl⟩
  case _ => revert op; decide +kernel
  case _ => revert op; decide +kernel
  case _ => revert op; decide +kernel
  case _ => revert op; decide +kernel
  case _ => revert op; decide +kernel
  case _ => revert op; decide +kernel
  case _ =>
    rw [withMap_refuses]
    decide +kernel
  case _ =>
    rw [show ({ fillCmd 3 0 4 with ran := true } : Cmd).dst.log = 0 by decide +kernel,
      show ({ fillCmd 3 0 4 with ran := true } : Cmd).dst.die = 0 by decide +kernel, withMap_phys _ _ _ (by decide)]
    decide

theorem witness_PlainCommands :
    (∀ op ∈ [0, 7, 4, 5, 6], ∃ s c, s.Canonical ∧ due s ref op c) ∧
    (∃ s c, due s ref 4 c ∧ ∃ x ∈ (s.qCmds c.q).takeWhile (fun x : Cmd => decide (x.seq ≠ c.seq)), x.live = true) ∧
    ∃ s c, s.Canonical ∧ due s ref 6 c ∧ s.dieRefuses (c.p 0 0 5) = none := by
  have h : ∀ op ∈ [0, 7, 4, 5, 6], canon (withCmd bayS (cmdOf op [])) = true ∧ due (withCmd bayS (cmdOf op [])) ref op (cmdOf op []) :=
    fun op ho => ⟨by revert op; decide +kernel, due_of (by revert op; decide +kernel)⟩
  exact ⟨fun op ho => ⟨_, _, canon_sound (h op ho).1, (h op ho).2⟩,
    ⟨{ up with cq := { up.cq with cmds := [{ cmdOf 0 [] with seq := 1 }, cmdOf 4 []] } }, cmdOf 4 [], due_of (by decide +kernel),
      by decide +kernel⟩,
    _, _, canon_sound (h 6 (by decide)).1, (h 6 (by decide)).2, by decide +kernel⟩

/-- A TILE_LAUNCH on engine 0 of a die. -/
def tileCmd (d : Nat) (a : AdmState) : Cmd := { cmdOf 1 [(19, d), (20, 1)] with adm := a }

theorem witness_LaunchesAndAdmission :
    (∃ s c st, s.Canonical ∧ due s ref 1 c ∧ s.dieRefuses (launchDie c) = some st) ∧
    (∀ a ∈ [AdmState.none, .granted], ∃ s c, s.Canonical ∧ due s ref 1 c ∧ s.dieRefuses (launchDie c) = none ∧ s.launchHole c = none ∧
      c.adm = a ∧ (launchEngines c).length ≠ 0 ∧ s.share (c.bay.getD 0) 2 < (launchEngines c).length ∧
      ∀ l ∈ launchEngines c, ∀ m ∈ launchEngines c, s.physOf (launchDie c) l = s.physOf (launchDie c) m → l = m) ∧
    (∀ n ∈ [0, 1], ∃ (s : State) (c : Cmd) (a : AdmReq), s.Canonical ∧ s.findCmd 8 0 = some c ∧ s.findAdm 8 0 = some a ∧
      (n = 1 → ∀ k ∈ a.needs, s.ahead a k.1 = 0 ∧ k.2 ≤ s.available a.bay k.1 c) ∧
      (n = 0 → ¬ ∀ k ∈ a.needs, s.ahead a k.1 = 0 ∧ k.2 ≤ s.available a.bay k.1 c)) ∧
    ∃ (s : State) (c : Cmd), s.Canonical ∧ s.findCmd 8 0 = some c ∧ s.findAdm 8 0 = none ∧ c.adm = .expired ∧ (c.bay.getD 0) < 16 := by
  have h1 : canon (withCmd bayS (tileCmd 5 .none)) = true := by decide +kernel
  have h2 : ∀ a ∈ [AdmState.none, .granted], canon (withCmd bayS (tileCmd 0 a)) = true ∧
      (due (withCmd bayS (tileCmd 0 a)) ref 1 (tileCmd 0 a)) ∧ launchEngines (tileCmd 0 a) = [0] ∧ launchDie (tileCmd 0 a) = 0 ∧
      (tileCmd 0 a).adm = a ∧ (withCmd bayS (tileCmd 0 a)).share 3 2 < 1 ∧ (withCmd bayS (tileCmd 0 a)).dieRefuses 0 = none :=
    fun a ha => ⟨by revert a; decide +kernel, due_of (by revert a; decide +kernel), by revert a; decide +kernel,
      by revert a; decide +kernel, rfl, by revert a; decide +kernel, by revert a; decide +kernel⟩
  let adm (n : Nat) : State :=
    let s := withCmd (bayS.setReg (Reg.SHARE 3 0) 4) { cmdOf 0x18 [] with adm := .waiting }
    { s with cq := { s.cq with adms := [⟨3, 8, 0, [(0, 5 - n)], 6, 0⟩] } }
  have h3 : ∀ n ∈ [0, 1], canon (adm n) = true := by decide +kernel
  have h4 : canon (withCmd bayS { cmdOf 0x18 [] with adm := .expired }) = true := by decide +kernel
  refine ⟨⟨_, tileCmd 5 .none, 1793, canon_sound h1, due_of (by decide +kernel), by decide +kernel⟩, fun a ha => ?_, fun n hn => ?_,
    _, _, canon_sound h4, rfl, rfl, rfl, by decide⟩
  · obtain ⟨a1, a2, a3, a4, a5, a6, a7⟩ := h2 a ha
    refine ⟨withMap (withCmd bayS (tileCmd 0 a)) 0, tileCmd 0 a, withMap_canon (canon_sound a1) 0,
      due_withMap a2 0, ?_, ?_, a5, ?_, ?_, ?_⟩
    · rw [withMap_refuses, a4]; exact a7
    · have p := withMap_phys (withCmd bayS (tileCmd 0 a)) 0 0 (by decide)
      simp [State.launchHole, a3, a4, p]
    · rw [a3]; decide
    · rw [withMap_share, a3]; exact a6
    · rw [a3]; intro l hl m hm _; simp_all
  · refine ⟨adm n, _, _, canon_sound (h3 n hn), rfl, rfl, ?_, ?_⟩ <;> revert n <;> decide +kernel

/-! ### Bays -/

/-- A BAY_CREATE of bay 5: OPEN, die 1, group 1, CLK_MIN 0, CLK_MAX 18, a cap of 100 W. -/
def createCmd (dies : Nat) : Cmd := cmdOf 0x40 [(0, 5 + 2 ^ 4), (1, dies), (2, 2), (3, 18 * 2 ^ 21), (4, 100)]
def createS (dies : Nat) : State := withCmd (bayS.setReg Reg.DEV_BAY_POWER_BUDGET 1000) (createCmd dies)

theorem foldl_max_le {k : Nat} (l : List Nat) : ∀ a ≤ k, (∀ x ∈ l, x ≤ k) → l.foldl max a ≤ k := by
  induction l with
  | nil => intro a ha _; exact ha
  | cons y r ih => intro a ha h; exact ih _ (Nat.max_le.2 ⟨ha, h y (by simp)⟩) fun x hx => h x (by simp [hx])

/-- A port has 64 slots. -/
theorem passSlots_le (s : State) : s.passSlots ≤ 64 := by
  refine foldl_max_le _ 0 (Nat.zero_le _) fun x hx => ?_
  obtain ⟨p, -, rfl⟩ := List.mem_map.1 hx
  exact Nat.le_trans (List.length_filter_le _ _) (by simp)

/-- No check of R205 fails where none but that of the slots does, and none are asked for or held. -/
theorem creates {s : State} {c : Cmd} {gs ds : List Nat}
    (h : (!(ds.any fun d => decide (s.fld Reg.DEV_QUARANTINE d 1 = 1)) &&
      !decide (ds.length < if c.p 0 5 1 = 1 then c.p 1 20 5 else ds.length) && !(ds.any fun d => (s.bayOfDie d).isSome) &&
      !decide (gs.length < if c.p 0 6 1 = 1 then c.p 3 0 6 else gs.length) && !(gs.any fun g => (s.bayOfGroup g).isSome) &&
      !decide (c.p 0 4 1 = 0 ∧ gs.any fun g => !s.tagsOn g) && decide (c.p 5 0 24 ≤ sumOver s.usable gs) &&
      decide (c.p 6 0 7 + sumOver (fun x => s.share x 3) (s.otherBays (c.p 0 0 4)) = 0) &&
      decide ((if c.p 0 5 1 = 1 then c.p 1 20 5 else ds.length) * clockPower (c.p 3 16 5) ≤ c.p 4 0 16) &&
      decide (c.p 4 0 16 ≤ (if c.p 0 5 1 = 1 then c.p 1 20 5 else ds.length) * 130) &&
      decide (c.p 4 0 16 + sumOver (fun x => s.fld (Reg.BAY_POWER x) 0 16) (s.otherBays (c.p 0 0 4)) ≤
        s.fld Reg.DEV_BAY_POWER_BUDGET 0 16)) = true) : s.createFails c gs ds = none := by
  have hp := passSlots_le s
  simp only [Bool.and_eq_true, Bool.not_eq_true', decide_eq_true_eq, decide_eq_false_iff_not] at h
  obtain ⟨⟨⟨⟨⟨⟨⟨⟨⟨⟨a, b⟩, c'⟩, d⟩, e⟩, f⟩, g⟩, i⟩, j⟩, k⟩, l⟩ := h
  unfold State.createFails
  simp only [a, c', e, Bool.false_eq_true, or_false, if_neg b, if_neg d, if_neg f, ↓reduceIte]
  rw [if_neg (by omega), if_neg (by omega), if_neg (by omega), if_neg (by omega)]

def rolesCmd (w : Nat) : Cmd := cmdOf 0x42 [(0, 3 + w), (16, 1)]

theorem witness_BayMaking :
    (∃ s c, s.Canonical ∧ due s ref 0x40 c ∧ s.bayState (bayOf c) = 0 ∧ s.fld Reg.GR_STATUS 3 1 = 0 ∧
      s.createFails c (s.pickGroups c) (s.pickDies c (s.pickGroups c)) = none) ∧
    (∃ s c, s.Canonical ∧ due s ref 0x40 c ∧ s.bayState (bayOf c) = 0 ∧ s.fld Reg.GR_STATUS 3 1 = 0 ∧
      (s.createFails c (s.pickGroups c) (s.pickDies c (s.pickGroups c))).isSome = true) ∧
    (∃ s c, s.Canonical ∧ due s ref 0x40 c ∧ s.bayState (bayOf c) ≠ 0) ∧
    (∀ w ∈ [0, 2 ^ 8], ∃ s c, s.Canonical ∧ due s ref 0x42 c ∧ s.bayState (bayOf c) = 2 ∧ c.p 0 8 1 = w / 2 ^ 8 ∧
      s.rolesBad c (bayOf c) (c.p 0 4 3) = false) ∧
    ∃ s c, s.Canonical ∧ begun s ref 0x42 c ∧ s.mgmt.restarting = false ∧ s.rolesPending c (bayOf c) (c.p 0 4 3) = false := by
  have h1 : canon (createS 2) = true := by decide +kernel
  have h2 : canon (createS 1) = true := by decide +kernel
  have h3 : canon (withCmd bayS (cmdOf 0x40 [(0, 3)])) = true := by decide +kernel
  have h4 : ∀ w ∈ [0, 2 ^ 8], canon (withCmd bayS (rolesCmd w)) = true := by decide +kernel
  have h5 : canon (withCmd bayS { rolesCmd 0 with ran := true }) = true := by decide +kernel
  refine ⟨⟨createS 2, createCmd 2, canon_sound h1, due_of (by decide +kernel), by decide +kernel, by decide +kernel,
      creates (by decide +kernel)⟩,
    ⟨createS 1, createCmd 1, canon_sound h2, due_of (by decide +kernel), by decide +kernel, by decide +kernel, by decide +kernel⟩,
    ⟨withCmd bayS (cmdOf 0x40 [(0, 3)]), cmdOf 0x40 [(0, 3)], canon_sound h3, due_of (by decide +kernel), by decide +kernel⟩,
    fun w hw => ⟨withCmd bayS (rolesCmd w), rolesCmd w, canon_sound (h4 w hw), due_of ?_, ?_, ?_, ?_⟩,
    withCmd bayS { rolesCmd 0 with ran := true }, { rolesCmd 0 with ran := true }, canon_sound h5, begun_of (by decide +kernel),
      by decide +kernel, by decide +kernel⟩ <;> revert w <;> decide +kernel

/-- Bay 3 in state st, with one admin command that targets it. -/
def endCmd (op : Nat) : Cmd := { cmdOf op [(0, 3)] with bay := none }
def endingS (op st : Nat) : State :=
  withCmd ((bayS.setFld (Reg.BAY_STATE 3) 0 3 st).setReg (Reg.Q_CFG 8) (2 ^ 14)) (endCmd op)

theorem distinct_of {s : State} {c : Cmd} (h : s.cq.cmds = [c]) : distinct s := by simp [distinct, h]

theorem witness_BayEnding :
    (∀ op ∈ [0x43, 0x44], ∀ st < 6, ∃ s c, s.Canonical ∧ s.mgmt.restarting = false ∧ distinct s ∧ due s ref op c ∧
      s.bayState (bayOf c) = st ∧ s.cq.cmds = [c] ∧ c.bay = none ∧ s.qAdmin c.q = true) ∧
    (∃ s : State, s.Canonical ∧ s.bayState 3 = 3 ∧ s.outstanding 3 = false ∧ distinct s) ∧
    ∃ s : State, s.Canonical ∧ distinct s ∧ s.mgmt.restarting = false ∧ s.bayState 3 = 5 ∧ (s.bayX 3).erasing = true ∧
      (s.bayX 3).clearing = 0 := by
  have h1 : ∀ op ∈ [0x43, 0x44], ∀ st < 6, canon (endingS op st) = true ∧ (endingS op st).bayState 3 = st := by decide +kernel
  have h2 : ∀ op ∈ [0x43, 0x44], due (endingS op 1) ref op (endCmd op) := fun op ho => due_of (by revert op; decide +kernel)
  have h3 : ∀ op ∈ [0x43, 0x44], ∀ st < 6, due (endingS op st) ref op (endCmd op) := fun op ho st hs =>
    due_of (by revert op st; decide +kernel)
  have h4 : ∀ op ∈ [0x43, 0x44], ∀ st < 6, (endingS op st).qAdmin 8 = true := by decide +kernel
  have h5 : canon { endingS 0x44 5 with cq := { (endingS 0x44 5).cq with bays := [(3, { BayX.zero with erasing := true })] } } = true := by
    decide +kernel
  refine ⟨fun op ho st hs => ⟨_, endCmd op, canon_sound (h1 op ho st hs).1, rfl, distinct_of rfl, h3 op ho st hs, ?_, rfl, rfl,
      h4 op ho st hs⟩,
    ⟨_, canon_sound (h1 0x43 (by decide) 3 (by decide)).1, (h1 0x43 (by decide) 3 (by decide)).2, by decide +kernel, distinct_of rfl⟩,
    _, canon_sound h5, distinct_of rfl, rfl, ?_, by decide +kernel, by decide +kernel⟩
  · have e : bayOf (endCmd op) = 3 := by revert op; decide +kernel
    rw [e]; exact (h1 op ho st hs).2
  · decide +kernel

/-- A phase command of action a, and bay 3's timer 0 armed or not, overrun or not. -/
def phaseS (a : Nat) (armed : Bool) (past : Nat) : State :=
  let s := withCmd (bayS.setFld (Reg.PH_STATE 3 0) 1 1 past) (cmdOf 0x48 [(0, a * 2 ^ 6), (2, 10)])
  { s with
    ktime := 10
    cq := { s.cq with phases := if armed then [(192, { PhaseTimer.zero with armed := true, budget := 10 })] else [] } }

theorem witness_PhasesAndPower :
    (∀ a < 3, ∀ armed ∈ [true, false], ∀ past < 2, ∃ s c, s.Canonical ∧ due s ref 0x48 c ∧ c.bay = some 3 ∧ c.p 0 6 2 = a ∧
      (s.phase 3 (c.p 0 0 6)).armed = armed ∧ s.fld (Reg.PH_STATE 3 (c.p 0 0 6)) 1 1 = past) ∧
    (∃ s : State, s.Canonical ∧ (s.phase 3 0).armed = true ∧ (s.phase 3 0).budget ≠ 0 ∧
      (s.phase 3 0).start + (s.phase 3 0).budget ≤ s.now) ∧
    ∃ s : State, s.Canonical ∧ s.fld Reg.THERM_STATUS 13 1 = 0 ∧ s.bayState 3 = 2 ∧ s.fld (Reg.BAY_CLK 3) 0 5 < s.fld (Reg.BAY_CLK 3) 10 5 ∧
      s.fld (Reg.BAY_POWER 3) 0 16 < 40 := by
  have h1 : ∀ a < 3, ∀ armed ∈ [true, false], ∀ past < 2, canon (phaseS a armed past) = true ∧
      ((phaseS a armed past).phase 3 0).armed = armed ∧ (phaseS a armed past).fld (Reg.PH_STATE 3 0) 1 1 = past := by decide +kernel
  have h2 : ∀ a < 3, ∀ armed ∈ [true, false], ∀ past < 2, due (phaseS a armed past) ref 0x48 (cmdOf 0x48 [(0, a * 2 ^ 6), (2, 10)]) :=
    fun a ha armed hb past ho => due_of (by revert a armed past; decide +kernel)
  have h3 : ∀ a < 3, (cmdOf 0x48 [(0, a * 2 ^ 6), (2, 10)]).p 0 0 6 = 0 ∧ (cmdOf 0x48 [(0, a * 2 ^ 6), (2, 10)]).p 0 6 2 = a := by
    decide +kernel
  have h4 : canon (bayS.setReg (Reg.BAY_CLK 3) (1 + 18 * 2 ^ 5 + 9 * 2 ^ 10)) = true := by decide +kernel
  refine ⟨fun a ha armed hb past ho => ⟨_, _, canon_sound (h1 a ha armed hb past ho).1, h2 a ha armed hb past ho, rfl, (h3 a ha).2, ?_, ?_⟩,
    ⟨_, canon_sound (h1 0 (by decide) true (by decide) 0 (by decide)).1, (h1 0 (by decide) true (by decide) 0 (by decide)).2.1,
      by decide +kernel, by decide +kernel⟩,
    _, canon_sound h4, by decide +kernel, by decide +kernel, by decide +kernel, by decide +kernel⟩
  · rw [(h3 a ha).1]; exact (h1 a ha armed hb past ho).2.1
  · rw [(h3 a ha).1]; exact (h1 a ha armed hb past ho).2.2

/-! ### Memory tiers -/

/-- An object of one slab at slab 16 of bay 3: in T2, or T3 behind link 0 and fetched. -/
def objOf (home : Nat) : Obj :=
  ⟨3, 16, 1, home, decide (home = 1), false, false, 0, false, 0, 0, 0, 0, 0, 0, none, .user⟩

/-- Bay 3 with that object, its slab `x` and the physical slabs in use. -/
def memS (o : Obj) (x : Slab) (use : SMap Nat) : State :=
  { bayS with mem := { bayS.mem with objs := [o], slabs := if x = Slab.none then [] else [(slabKey 3 16, x)], use := use } }

def t2Slab (zero moving : Bool) : Slab := { Slab.none with home := some 0, zero := zero, moving := moving }

/-- MEM_MAP of one slab at slab 40, or past the object at slab 16; MEM_UNMAP and MIGRATE of the object. -/
def mapCmd (n home : Nat) : Cmd := { cmdOf 0x10 [(0, home), (1, n * 65536), (3, 1)] with adm := .granted }
def onObj (op : Nat) : Cmd := { cmdOf op [(1, 16 * 65536)] with adm := .granted }
def mapS (c : Cmd) : State := withCmd (memS (objOf 0) (t2Slab false false) [(0, 4)]) c

theorem split3 {α β γ : Type} {x : α × β × γ} {z : γ} (h : x.2.2 = z) : x = (x.1, x.2.1, z) := by subst h; rfl

theorem isSome_out {α : Type} {x : Option α} (h : x.isSome = true) : ∃ y, x = some y := Option.isSome_iff_exists.1 h

theorem witness_MappedMemory :
    (∃ s c, s.Canonical ∧ due s ref 0x10 c ∧ c.bay = some 3 ∧ collides s (mapObj c)) ∧
    (∃ s c, s.Canonical ∧ due s ref 0x10 c ∧ ¬ collides s (mapObj c) ∧ foreignGroup s 3 (mapObj c).groups) ∧
    (∀ home ∈ [0, 1], ∃ s c, s.Canonical ∧ due s ref 0x10 c ∧ c.bay = some 3 ∧ ¬ collides s (mapObj c) ∧
      ¬ foreignGroup s 3 (mapObj c).groups ∧ (mapObj c).plain = false ∧ (mapObj c).home = home ∧ c.adm = .granted ∧
      (mapObj c).base + (mapObj c).n ≤ 2 ^ 41 ∧ ∃ u, s.placeAll (mapObj c) (mapObj c).n 0 = some u) ∧
    (∃ s c, s.Canonical ∧ due s ref 0x11 c ∧ objectAt s c = none) ∧
    ∃ s c, s.Canonical ∧ due s ref 0x11 c ∧ c.bay = some 3 ∧ objectAt s c = some (objOf 0) ∧ s.objCopies (objOf 0) = [] ∧
      s.objBusy (objOf 0) = false := by
  have h1 : ∀ n ∈ [16, 40], ∀ home ∈ [0, 1], canon (mapS (mapCmd n home)) = true := by decide +kernel
  have h2 : canon (mapS { cmdOf 0x10 [(1, 40 * 65536), (3, 1), (8, 2)] with adm := .granted }) = true := by decide +kernel
  have h3 : canon (mapS (onObj 0x11)) = true := by decide +kernel
  have h4 : canon (withCmd bayS (onObj 0x11)) = true := by decide +kernel
  have h5 : ∀ n ∈ [16, 40], ∀ home ∈ [0, 1], due (mapS (mapCmd n home)) ref 0x10 (mapCmd n home) := fun n hn home hh =>
    due_of (by revert n home; decide +kernel)
  have h6 : ∀ home ∈ [0, 1], (mapObj (mapCmd 40 home)).plain = false ∧ (mapObj (mapCmd 40 home)).home = home ∧
      (mapObj (mapCmd 40 home)).base + (mapObj (mapCmd 40 home)).n ≤ 2 ^ 41 ∧
      ((mapS (mapCmd 40 home)).placeAll (mapObj (mapCmd 40 home)) (mapObj (mapCmd 40 home)).n 0).isSome = true ∧
      (mapObj (mapCmd 40 home)).groups = 0 ∧ (mapObj (mapCmd 40 home)).base = 40 ∧ (mapObj (mapCmd 40 home)).bay = 3 := by
    decide +kernel
  refine ⟨⟨_, _, canon_sound (h1 16 (by decide) 0 (by decide)), h5 16 (by decide) 0 (by decide), rfl, objOf 0, .head _,
      by decide +kernel, by decide +kernel, by decide +kernel⟩,
    ⟨_, { cmdOf 0x10 [(1, 40 * 65536), (3, 1), (8, 2)] with adm := .granted }, canon_sound h2, due_of (by decide +kernel), ?_, 1,
      by decide +kernel, by decide +kernel⟩,
    fun home hh => ⟨_, _, canon_sound (h1 40 (by decide) home hh), h5 40 (by decide) home hh, rfl, ?_, ?_, (h6 home hh).1,
      (h6 home hh).2.1, rfl, (h6 home hh).2.2.1, isSome_out (h6 home hh).2.2.2.1⟩,
    ⟨_, onObj 0x11, canon_sound h4, due_of (by decide +kernel), by decide +kernel⟩,
    _, onObj 0x11, canon_sound h3, due_of (by decide +kernel), rfl, by decide +kernel, by decide +kernel, by decide +kernel⟩
  · rintro ⟨x, hx, -, -, h⟩
    simp only [show (mapS { cmdOf 0x10 [(1, 40 * 65536), (3, 1), (8, 2)] with adm := .granted }).mem.objs = [objOf 0] from rfl,
      List.mem_singleton] at hx
    subst hx
    exact absurd h (by decide +kernel)
  · rintro ⟨x, hx, -, -, h⟩
    simp only [show (mapS (mapCmd 40 home)).mem.objs = [objOf 0] from rfl, List.mem_singleton] at hx
    subst hx
    rw [(h6 home hh).2.2.2.2.2.1] at h
    exact absurd h (by decide)
  · rintro ⟨g, hg, -⟩
    rw [(h6 home hh).2.2.2.2.1] at hg
    exact absurd hg (by revert g; decide +kernel)

/-- A MIGRATE of the object at slab 16 to group 8. -/
def moveHome : NewHome := ⟨0, false, false, 0, 0, 0, 256⟩
def moveCmd (ran : Bool) : Cmd := { cmdOf 0x12 [(1, 16 * 65536), (8, 256)] with adm := .granted, ran := ran }
def moveS (ran : Bool) : State :=
  withCmd (memS (if ran then { objOf 0 with migr := 1, alt := some moveHome } else objOf 0) (t2Slab false ran) [(0, 4)]) (moveCmd ran)

def schedCmd (del : Nat) : Cmd := { cmdOf 0x13 [(0, del * 16), (1, 1), (2, 16 * 65536)] with adm := .granted }

/-- Queue 8 with a schedule list in HBM: one step of one slab at slab 50. -/
def listS (c : Cmd) (bytes : SMap Byte) : State :=
  let s := withCmd (queueS 1) c
  { s with mem := { s.mem with objs := [objOf 0], slabs := [(slabKey 3 16, t2Slab false false)], use := [(0, 4)], hbm := bytes } }

/-- A schedule of one step of slab 16, a T3 object or none there. -/
def windowS (objs : List Obj) : State :=
  { bayS with mem := { bayS.mem with objs := objs, scheds := [(48, ⟨false, 0, 1, 0, [(16 * 65536, 1)], 1, []⟩)] } }

theorem witness_MigrationAndPrefetch :
    (∃ s c, s.Canonical ∧ s.mgmt.restarting = false ∧ due s ref 0x12 c ∧ c.bay = some 3 ∧ objectAt s c = some (objOf 0) ∧
      (objOf 0).migr = 0 ∧ migrateHome c = moveHome ∧ c.adm = .granted ∧ ¬ foreignGroup s 3 moveHome.groups ∧
      (s.unflipped (objOf 0)).head? = some 16 ∧ (s.slab 3 16).home = some 0 ∧ (s.slab 3 16).copy = none ∧ s.qState c.q ≠ 3) ∧
    (∃ s c o, s.Canonical ∧ s.mgmt.restarting = false ∧ begun s ref 0x12 c ∧ s.migrating c = some o ∧ o.alt = some moveHome ∧
      (s.unflipped o).head? = some 16 ∧ (s.slab 3 16).moving = true ∧ (s.slab 3 16).home = some 0 ∧ (s.slab 3 16).zero = false ∧
      (s.slab 3 16).copy = none ∧ s.hbmRefuses (groupOf 0) = none ∧ (∀ i < 512, poisoned s (0 * 512 + i) = false) ∧
      mget useDefault s.mem.use 0 ≠ 0 ∧ ∃ dst, s.placeSlab 3 moveHome.groups (16 - o.base) = some dst) ∧
    (∀ del < 2, ∃ s c u bs, s.Canonical ∧ due s ref 0x13 c ∧ 6 ≤ s.qPrio c.q ∧ c.p 0 4 1 = del ∧ c.adm = .granted ∧
      s.vaRead (.cmd c.q c.seq) 3 (c.p64 2) (16 * c.p 1 0 11) = (u, bs, .ok) ∧
      ∀ p ∈ parseSteps (c.p 1 0 11) bs, p.1 % 65536 = 0 ∧ p.2 ≠ 0) ∧
    (∃ s c, due s ref 0x13 c ∧ s.qPrio c.q < 6) ∧
    (∃ (s : State) (x : Sched), s.Canonical ∧ s.sched 3 0 = some x ∧ (∀ j ∈ s.windowSlabs 3 x, s.objAt 3 j = none) ∧
      ∀ i ∈ s.schedWindow 3 x, stepSlabs (x.steps.getD i (0, 0)) ≠ []) ∧
    ∃ (s : State) (x : Sched) (loc : Nat), s.Canonical ∧ s.sched 3 0 = some x ∧ s.windowSlabs 3 x = [16] ∧ s.objAt 3 16 = some (objOf 1) ∧
      (objOf 1).home = 1 ∧ (objOf 1).fill = true ∧ (s.slab 3 16).copy = none ∧ s.windowCopies 3 0 = [] ∧ 0 < x.reserve ∧
      s.anyFree 3 = some loc := by
  have h1 : ∀ ran ∈ [true, false], canon (moveS ran) = true := by decide +kernel
  have h2 : ∀ del < 2, canon (listS (schedCmd del) [(2, 0x32), (8, 1)]) = true ∧
      ((listS (schedCmd del) [(2, 0x32), (8, 1)]).vaRead (.cmd 8 0) 3 ((schedCmd del).p64 2) (16 * (schedCmd del).p 1 0 11)).2.2 = .ok ∧
      (schedCmd del).p 0 4 1 = del ∧
      ∀ p ∈ parseSteps ((schedCmd del).p 1 0 11)
        ((listS (schedCmd del) [(2, 0x32), (8, 1)]).vaRead (.cmd 8 0) 3 ((schedCmd del).p64 2) (16 * (schedCmd del).p 1 0 11)).2.1,
        p.1 % 65536 = 0 ∧ p.2 ≠ 0 := by decide +kernel
  have h3 : ∀ o ∈ [[], [objOf 1]], canon (windowS o) = true := by decide +kernel
  refine ⟨⟨moveS false, moveCmd false, canon_sound (h1 _ (by decide)), by decide +kernel, due_of (by decide +kernel), rfl,
      by decide +kernel, rfl, by decide +kernel, rfl, ?_, by decide +kernel, by decide +kernel, by decide +kernel, by decide +kernel⟩,
    ⟨moveS true, moveCmd true, { objOf 0 with migr := 1, alt := some moveHome }, canon_sound (h1 _ (by decide)), by decide +kernel,
      begun_of (by decide +kernel), by decide +kernel, rfl, by decide +kernel, by decide +kernel, by decide +kernel, by decide +kernel,
      by decide +kernel, by decide +kernel, by decide +kernel, by decide +kernel, isSome_out (by decide +kernel)⟩,
    fun del hd => ⟨listS (schedCmd del) [(2, 0x32), (8, 1)], schedCmd del, _, _, canon_sound (h2 del hd).1, due_of ?_, ?_, (h2 del hd).2.2.1,
      rfl, split3 (h2 del hd).2.1, (h2 del hd).2.2.2⟩,
    ⟨withCmd bayS (schedCmd 0), schedCmd 0, due_of (by decide +kernel), by decide +kernel⟩,
    ⟨windowS [], _, canon_sound (h3 _ (by decide)), rfl, by decide +kernel, by decide +kernel⟩, ?_⟩
  · rintro ⟨g, hg, h⟩
    have e : ∀ g ∈ maskList 32 moveHome.groups, g ∈ (moveS false).groups 3 := by decide +kernel
    exact h (e g hg)
  · revert del; decide +kernel
  · revert del; decide +kernel
  · obtain ⟨loc, hl⟩ := isSome_out (x := (windowS [objOf 1]).anyFree 3) (by decide +kernel)
    exact ⟨windowS [objOf 1], _, loc, canon_sound (h3 _ (by decide)), rfl, by decide +kernel, by decide +kernel, rfl, rfl,
      by decide +kernel, by decide +kernel, by decide, hl⟩

/-- The object at slab 16 in T2, its tags checked or not, its first line poisoned or not. -/
def hbmS (zero : Bool) (tags : Nat) (bad : Bool) : State :=
  let s := memS (objOf 0) (t2Slab zero false) [(0, 4)]
  { s.setFld (Reg.HBM_TAG_EN 20) 0 1 tags with mem := { s.mem with poison := if bad then [(0, true)] else [] } }

theorem inT2_of {s : State} {b n loc : Nat} {o : Obj} (h : (decide (s.objAt b n = some o) && decide (n < 2 ^ 41 - 2 ^ 14) &&
    decide ((s.slab b n).home = some loc) && decide (s.hbmRefuses (groupOf loc) = none)) = true) : inT2 s b n loc o := by
  simp only [Bool.and_eq_true, decide_eq_true_eq] at h
  exact ⟨h.1.1.1, h.1.1.2, h.1.2, h.2⟩

theorem witness_HbmAccesses :
    (∃ s : State, s.Canonical ∧ s.objAt 3 5 = none) ∧
    (∀ zero ∈ [true, false], ∀ tags < 2, ∀ bad ∈ [true, false], ∃ s : State, s.Canonical ∧ inT2 s 3 16 0 (objOf 0) ∧
      (s.slab 3 16).zero = zero ∧ s.tagsOn 0 = decide (tags = 1) ∧ poisoned s 0 = bad ∧ (objOf 0).readOnly .bay = false ∧
      (s.slab 3 16).moving = false) ∧
    (∃ s : State, s.Canonical ∧ inT2 s 3 16 0 { objOf 0 with ro := true } ∧ ({ objOf 0 with ro := true } : Obj).readOnly .bay = true) ∧
    ∃ s : State, s.Canonical ∧ s.bayState 3 ≠ 0 ∧ unscheduled s 3 ∧ s.wmSource 3 (s.fld (Reg.WM_CFG 3 0) 0 3) < 2 ^ 64 ∧
      s.wmSource 3 (s.fld (Reg.WM_CFG 3 0) 0 3) ≤ s.reg (Reg.WM_THRESH 3 0) := by
  have h1 : ∀ zero ∈ [true, false], ∀ tags < 2, ∀ bad ∈ [true, false], canon (hbmS zero tags bad) = true ∧
      ((hbmS zero tags bad).slab 3 16).zero = zero ∧ (hbmS zero tags bad).tagsOn 0 = decide (tags = 1) ∧
      poisoned (hbmS zero tags bad) 0 = bad ∧ ((hbmS zero tags bad).slab 3 16).moving = false := by decide +kernel
  have h2 : ∀ zero ∈ [true, false], ∀ tags < 2, ∀ bad ∈ [true, false], inT2 (hbmS zero tags bad) 3 16 0 (objOf 0) :=
    fun zero hz tags ht bad hb => inT2_of (by revert zero tags bad; decide +kernel)
  have h3 : canon (memS { objOf 0 with ro := true } (t2Slab false false) [(0, 4)]) = true := by decide +kernel
  exact ⟨⟨hbmS false 0 false, canon_sound (h1 _ (by decide) _ (by decide) _ (by decide)).1, by decide +kernel⟩,
    fun zero hz tags ht bad hb => ⟨_, canon_sound (h1 zero hz tags ht bad hb).1, h2 zero hz tags ht bad hb, (h1 zero hz tags ht bad hb).2.1,
      (h1 zero hz tags ht bad hb).2.2.1, (h1 zero hz tags ht bad hb).2.2.2.1, by decide, (h1 zero hz tags ht bad hb).2.2.2.2⟩,
    ⟨_, canon_sound h3, inT2_of (by decide +kernel), by decide⟩,
    memS { objOf 0 with ro := true } (t2Slab false false) [(0, 4)], canon_sound h3, by decide +kernel,
    unscheduled_of (by decide +kernel) 3, by decide +kernel, by decide +kernel⟩

/-- A T3 access of slab 16 of bay 3: a fill into the copy at slab 5, or a direct read, waited for by a command. -/
def accOf (fill : Bool) : T3Acc := ⟨3, 16, 0, 16 * 65536, 65536, fill, [.cmd 8 0], none, [], [], [], true⟩
def copyOf (dirty filling : Bool) : T2Copy := ⟨5, dirty, false, filling, false, 0, 0, none, none⟩
def t3S (st : Nat) (accs : List T3Acc) (dirty : Bool) : State :=
  let s := memS (objOf 1) { Slab.none with copy := some (copyOf dirty true) } [(5, 4)]
  { s.setFld (Reg.BAY_STATE 3) 0 3 st with mem := { s.mem with t3 := accs } }

theorem witness_LowerTierAnswers :
    (∀ st ∈ [0, 1, 2, 3, 4, 5], ∃ s : State, s.Canonical ∧ s.mem.t3.find? (fun x => x.same 3 16 (16 * 65536) true) = none ∧
      s.bayState 3 = st) ∧
    (∃ (s : State) (x : T3Acc) (c : T2Copy) (w : Waiter), s.Canonical ∧ s.mem.t3.find? (fun x => x.same 3 16 (16 * 65536) true) = some x ∧
      s.mem.devWrites = [] ∧ (s.slab 3 16).copy = some c ∧ 16 * 65536 % 128 = 0 ∧ x.landed.length < 511 ∧ w ∈ x.waiters ∧
      ∀ i j, w ≠ .sched i j) ∧
    ∃ (s : State) (c : T2Copy), s.Canonical ∧ (s.slab 3 16).copy = some c ∧ c.dirty = true ∧ c.filling = true := by
  have h1 : ∀ st ∈ [0, 1, 2, 3, 4, 5], canon (t3S st [] false) = true ∧ (t3S st [] false).bayState 3 = st := by decide +kernel
  have h2 : canon (t3S 2 [accOf true] false) = true ∧ canon (t3S 2 [] true) = true := by decide +kernel
  exact ⟨fun st hs => ⟨_, canon_sound (h1 st hs).1, rfl, (h1 st hs).2⟩,
    ⟨t3S 2 [accOf true] false, accOf true, copyOf false true, .cmd 8 0, canon_sound h2.1, by decide +kernel, by decide +kernel,
      by decide +kernel, by decide, by decide, by decide, fun i j h => by cases h⟩,
    t3S 2 [] true, copyOf true true, canon_sound h2.2, by decide +kernel, rfl, rfl⟩

/-! ### The key-value cache -/

/-- Registers of a pool of BF16 rows of 64 elements, one layer and group; a rejected one with `bad`. -/
def poolRegs (bad : Bool) : List (Nat × Nat) :=
  [(Reg.KVP_CFG0 3 0, 1 + 9 * 2 ^ 15 + 9 * 2 ^ 19), (Reg.KVP_CFG1 3 0, if bad then 0 else 64)]

/-- A sequence of one block in slab 7: number 5, state st, LENGTH 3. -/
def seqOf (st : Nat) : KvSeq := ⟨3, 0, 5, st, 3, 0, if st = 3 then [] else [[7]], 1, 1, 32 * 65536, []⟩

/-- Bay 3 with that pool, sequences, a swap object at slab 32 and a list in HBM at slab 16. -/
def kvS (bad : Bool) (c : Cmd) (seqs : List KvSeq) (bytes : SMap Byte) : State :=
  let s := withCmd (sets (queueS 1) (poolRegs bad)) c
  let o : Obj := { objOf 1 with base := 32, n := 2, fill := false, layout := 4 }
  { s with
    mem := { s.mem with objs := [objOf 0, o], slabs := [(slabKey 3 16, t2Slab false false)], use := [(0, 4), (7, 4)], hbm := bytes }
    kv := ⟨seqs, []⟩ }

def kvCmd (op mode : Nat) : Cmd :=
  { cmdOf op [(0, mode * 4), (1, if op = 0x1A ∨ op = 0x1B then 5 else 1), (2, if op = 0x1A then 32 * 65536 else 16 * 65536),
      (5, 1), (6, 16 * 65536)] with adm := .granted }

/-- CREATE sequence 5 for 16 positions; sequence 5 and a number of positions. -/
def createList : SMap Byte := [(0, 5), (1, 0x40), (4, 16)]
def keepList (n : Nat) : SMap Byte := if n = 0 then [(0, 5)] else [(0, 5), (4, BitVec.ofNat 8 n)]

theorem oneEntry_of {s : State} {c : Cmd} {va : Nat} {e : Nat × Nat} (h : ((s.kvList c va 1).2.1 = [e] ∧ (s.kvList c va 1).2.2 = .ok)) :
    oneEntry s (s.kvList c va 1).1 c va 1 e := by
  have := split3 h.2
  rw [h.1] at this
  exact this

theorem poolOf_eq {s u : State} {b n : Nat} (h : u.reg (Reg.KVP_CFG0 b n) = s.reg (Reg.KVP_CFG0 b n))
    (g : u.reg (Reg.KVP_CFG1 b n) = s.reg (Reg.KVP_CFG1 b n)) : u.poolOf b n = s.poolOf b n := by
  simp only [State.poolOf, State.fld, h, g]

theorem witness_KvBlocks :
    (∀ w ∈ kvRows, ∃ s c, s.Canonical ∧ due s ref w.2.1 c ∧ c.bay = some 3 ∧ (∀ m, w.2.2.1 = some m → c.p 0 2 1 = m) ∧
      s.poolValid 3 (c.p 0 0 2) = false) ∧
    (∃ s u c, s.Canonical ∧ due s ref 0x18 c ∧ c.bay = some 3 ∧ s.poolValid 3 0 = true ∧ u.poolOf 3 0 = s.poolOf 3 0 ∧
      oneEntry s u c (c.p64 2) (c.p 1 0 11) (0x4005, 16) ∧ u.kvSeq 3 0 5 = none ∧ c.adm = .granted ∧
      ∃ w, u.growSeq (s.poolOf 3 0) ⟨3, 0, 5, 1, 0, 0, [], 1, 0, 0, []⟩ 2 = some w) ∧
    (∀ n ∈ [0, 2], ∃ s u c, s.Canonical ∧ due s ref 0x19 c ∧ c.bay = some 3 ∧ s.poolValid 3 0 = true ∧ u.poolOf 3 0 = s.poolOf 3 0 ∧
      oneEntry s u c (c.p64 2) (c.p 1 0 11) (5, n) ∧ u.kvSeq 3 0 5 = some (seqOf 1) ∧ (seqOf 1).nblk = (seqOf 1).blocks.length) ∧
    (∃ s u c, s.Canonical ∧ due s ref 0x1C c ∧ c.p 0 2 1 = 1 ∧ s.poolValid 3 0 = true ∧ u.poolOf 3 0 = s.poolOf 3 0 ∧
      oneEntry s u c (c.p64 6) (c.p 5 0 11) (5, 2) ∧ u.kvSeq 3 0 5 = some (seqOf 1) ∧ (seqOf 1).len + 2 ≤ (seqOf 1).nblk * 16) ∧
    (∃ a d : List (Nat × Nat), (bf16.decode (a.getD 31 (0, 0)).1).isNan = false ∧ (bf16.decode (d.getD 31 (0, 0)).1).isNan = false) ∧
    ∃ l : List (Nat × Nat), (l.map (·.1)).Pairwise (· < ·) ∧ l ≠ [] := by
  have h1 : ∀ op ∈ [0x18, 0x19, 0x1A, 0x1B, 0x1C], ∀ mode < 2, canon (kvS true (kvCmd op mode) [] []) = true ∧
      (kvCmd op mode).p 0 2 1 = mode ∧ (kvCmd op mode).p 0 0 2 = 0 := by decide +kernel
  have h2 : ∀ op ∈ [0x18, 0x19, 0x1A, 0x1B, 0x1C], ∀ mode < 2, due (kvS true (kvCmd op mode) [] []) ref op (kvCmd op mode) :=
    fun op ho mode hm => due_of (by revert op mode; decide +kernel)
  have h3 : ∀ op ∈ [0x18, 0x19, 0x1A, 0x1B, 0x1C], (kvS true (kvCmd op 0) [] []).poolValid 3 0 = false ∧
      (kvS true (kvCmd op 1) [] []).poolValid 3 0 = false := by decide +kernel
  refine ⟨fun w hw => ?_, ?_, fun n hn => ?_, ?_, ⟨[], [], by decide +kernel, by decide +kernel⟩, [(0, 1), (1, 0)], by decide, by decide⟩
  · simp only [kvRows, List.mem_cons, List.not_mem_nil, or_false] at hw
    obtain rfl | rfl | rfl | rfl | rfl | rfl := hw
    · exact ⟨_, _, canon_sound (h1 0x18 (by decide) 0 (by decide)).1, h2 0x18 (by decide) 0 (by decide), rfl, (fun m h => by cases h),
        by rw [(h1 0x18 (by decide) 0 (by decide)).2.2]; exact (h3 0x18 (by decide)).1⟩
    · exact ⟨_, _, canon_sound (h1 0x19 (by decide) 0 (by decide)).1, h2 0x19 (by decide) 0 (by decide), rfl, (fun m h => by cases h),
        by rw [(h1 0x19 (by decide) 0 (by decide)).2.2]; exact (h3 0x19 (by decide)).1⟩
    · exact ⟨_, _, canon_sound (h1 0x1A (by decide) 0 (by decide)).1, h2 0x1A (by decide) 0 (by decide), rfl, (fun m h => by cases h),
        by rw [(h1 0x1A (by decide) 0 (by decide)).2.2]; exact (h3 0x1A (by decide)).1⟩
    · exact ⟨_, _, canon_sound (h1 0x1B (by decide) 0 (by decide)).1, h2 0x1B (by decide) 0 (by decide), rfl, (fun m h => by cases h),
        by rw [(h1 0x1B (by decide) 0 (by decide)).2.2]; exact (h3 0x1B (by decide)).1⟩
    · exact ⟨_, _, canon_sound (h1 0x1C (by decide) 0 (by decide)).1, h2 0x1C (by decide) 0 (by decide), rfl,
        (fun m h => by cases h; exact (h1 0x1C (by decide) 0 (by decide)).2.1),
        by rw [(h1 0x1C (by decide) 0 (by decide)).2.2]; exact (h3 0x1C (by decide)).1⟩
    · exact ⟨_, _, canon_sound (h1 0x1C (by decide) 1 (by decide)).1, h2 0x1C (by decide) 1 (by decide), rfl,
        (fun m h => by cases h; exact (h1 0x1C (by decide) 1 (by decide)).2.1),
        by rw [(h1 0x1C (by decide) 1 (by decide)).2.2]; exact (h3 0x1C (by decide)).2⟩
  · have c1 : canon (kvS false (kvCmd 0x18 0) [] createList) = true := by decide +kernel
    have n1 : (kvCmd 0x18 0).p 1 0 11 = 1 := by decide +kernel
    refine ⟨kvS false (kvCmd 0x18 0) [] createList, ((kvS false (kvCmd 0x18 0) [] createList).kvList (kvCmd 0x18 0) (16 * 65536) 1).1,
      kvCmd 0x18 0, canon_sound c1, due_of (by decide +kernel), rfl, by decide +kernel,
      poolOf_eq (by decide +kernel) (by decide +kernel), ?_, by decide +kernel, rfl, isSome_out (by decide +kernel)⟩
    rw [n1, show (kvCmd 0x18 0).p64 2 = 16 * 65536 by decide +kernel]
    exact oneEntry_of (by decide +kernel)
  · have c1 : canon (kvS false (kvCmd 0x19 0) [seqOf 1] (keepList n)) = true := by revert n; decide +kernel
    have n1 : (kvCmd 0x19 0).p 1 0 11 = 1 := by decide +kernel
    refine ⟨kvS false (kvCmd 0x19 0) [seqOf 1] (keepList n),
      ((kvS false (kvCmd 0x19 0) [seqOf 1] (keepList n)).kvList (kvCmd 0x19 0) (16 * 65536) 1).1, kvCmd 0x19 0, canon_sound c1,
      due_of ?_, rfl, ?_, poolOf_eq ?_ ?_, ?_, ?_, by decide⟩
    · revert n; decide +kernel
    · revert n; decide +kernel
    · revert n; decide +kernel
    · revert n; decide +kernel
    · rw [n1, show (kvCmd 0x19 0).p64 2 = 16 * 65536 by decide +kernel]
      exact oneEntry_of (by revert n; decide +kernel)
    · revert n; decide +kernel
  · have c1 : canon (kvS false (kvCmd 0x1C 1) [seqOf 1] (keepList 2)) = true := by decide +kernel
    have n1 : (kvCmd 0x1C 1).p 5 0 11 = 1 := by decide +kernel
    refine ⟨kvS false (kvCmd 0x1C 1) [seqOf 1] (keepList 2),
      ((kvS false (kvCmd 0x1C 1) [seqOf 1] (keepList 2)).kvList (kvCmd 0x1C 1) (16 * 65536) 1).1, kvCmd 0x1C 1, canon_sound c1,
      due_of (by decide +kernel), by decide +kernel, by decide +kernel, poolOf_eq (by decide +kernel) (by decide +kernel), ?_,
      by decide +kernel, by decide⟩
    rw [n1, show (kvCmd 0x1C 1).p64 6 = 16 * 65536 by decide +kernel]
    exact oneEntry_of (by decide +kernel)

/-- A PAGE_SWAP_IN of which the slab's data have landed, or whose access has failed. -/
def swapInS (a : T3Acc) : State :=
  let s := kvS false { kvCmd 0x1B 0 with ran := true } [seqOf 4] []
  { s with mem := { s.mem with t3 := [a] } }

def swapAcc (res : Option Nat) (data : List PByte) : T3Acc := ⟨3, 32, 0, 32 * 65536, 65536, false, [.cmd 8 0], res, data, [], [], false⟩

theorem anyPoison_replicate (n : Nat) : anyPoison (List.replicate n (some 0)) = false := by
  induction n with
  | zero => rfl
  | succ n ih => simp only [anyPoison, List.replicate_succ, List.any_cons] at *; simp

theorem witness_KvMoves :
    (∀ op ∈ [0x1A, 0x1B], ∀ st ∈ [1, 3], ∃ s c x, s.Canonical ∧ s.mgmt.restarting = false ∧ due s ref op c ∧ c.bay = some 3 ∧
      s.poolValid 3 (c.p 0 0 2) = true ∧ s.kvSeq 3 (c.p 0 0 2) (c.p 1 0 14) = some x ∧ x.state = st ∧ s.kv.wins = [] ∧
      (∃ o, s.swapObj 3 (if op = 0x1A then c.p64 2 else x.swapVa) 1 = some o) ∧ c.adm = .granted ∧
      ∃ w, s.growSeq (s.poolOf 3 0) x (x.nblk + 1) = some w) ∧
    (∃ s c x, s.Canonical ∧ begun s ref 0x1A c ∧ s.poolValid 3 (c.p 0 0 2) = true ∧ s.kvSeq 3 (c.p 0 0 2) (c.p 1 0 14) = some x) ∧
    (∃ s c x a, begun s ref 0x1B c ∧ s.kvSeq 3 0 5 = some x ∧
      s.mem.t3.filter (fun a => decide (a.bay = 3) && !a.fill && a.waits (.cmd c.q c.seq)) = [a] ∧ a.res = none ∧
      anyPoison a.data = false ∧ a.data.length = 65536) ∧
    (∃ s c x a st, begun s ref 0x1B c ∧ s.kvSeq 3 0 5 = some x ∧
      s.mem.t3.filter (fun a => decide (a.bay = 3) && !a.fill && a.waits (.cmd c.q c.seq)) = [a] ∧ a.res = some st) ∧
    (∃ s c, s.Canonical ∧ due s ref 0x1C c ∧ c.bay = some 3 ∧ c.p 0 2 1 = 0 ∧ s.poolValid 3 (c.p 0 0 2) = true ∧
      (s.poolOf 3 (c.p 0 0 2)).layers ≤ c.p 4 0 8) ∧
    ∃ s u c, s.Canonical ∧ due s ref 0x1C c ∧ c.bay = some 3 ∧ c.p 0 2 1 = 0 ∧ s.poolValid 3 (c.p 0 0 2) = true ∧
      c.p 4 0 8 < (s.poolOf 3 (c.p 0 0 2)).layers ∧ c.p 4 8 6 < (s.poolOf 3 (c.p 0 0 2)).groups ∧ c.p 0 11 1 = 0 ∧
      oneEntry s u c (c.p64 6) (c.p 5 0 11) (5, 0) ∧ u.poolOf 3 0 = s.poolOf 3 0 ∧ u.kvSeq 3 0 5 = some (seqOf 1) ∧
      ∃ st d0 d1, u.winCheck c (s.poolOf 3 0) 0 = some (st, d0, d1) := by
  have h1 : ∀ op ∈ [0x1A, 0x1B], ∀ st ∈ [1, 3], canon (kvS false (kvCmd op 0) [seqOf st] []) = true ∧
      (kvS false (kvCmd op 0) [seqOf st] []).poolValid 3 ((kvCmd op 0).p 0 0 2) = true ∧
      (kvS false (kvCmd op 0) [seqOf st] []).kvSeq 3 ((kvCmd op 0).p 0 0 2) ((kvCmd op 0).p 1 0 14) = some (seqOf st) ∧
      ((kvS false (kvCmd op 0) [seqOf st] []).swapObj 3 (if op = 0x1A then (kvCmd op 0).p64 2 else (seqOf st).swapVa) 1).isSome = true ∧
      ((kvS false (kvCmd op 0) [seqOf st] []).growSeq ((kvS false (kvCmd op 0) [seqOf st] []).poolOf 3 0) (seqOf st)
        ((seqOf st).nblk + 1)).isSome = true ∧ (seqOf st).state = st := by decide +kernel
  have h2 : ∀ op ∈ [0x1A, 0x1B], ∀ st ∈ [1, 3], due (kvS false (kvCmd op 0) [seqOf st] []) ref op (kvCmd op 0) :=
    fun op ho st hs => due_of (by revert op st; decide +kernel)
  have h3 : canon (kvS false { kvCmd 0x1A 0 with ran := true } [seqOf 2] []) = true := by decide +kernel
  let c4 : Cmd := { kvCmd 0x1C 0 with words := packetOf 0x1C [(4, 1)] }
  have h4 : canon (kvS false c4 [seqOf 1] (keepList 0)) = true := by decide +kernel
  let c5 : Cmd := { kvCmd 0x1C 0 with words := packetOf 0x1C [(2, 1), (5, 1), (6, 16 * 65536)] }
  have h5 : canon (kvS false c5 [seqOf 1] (keepList 0)) = true := by decide +kernel
  have n5 : c5.p 5 0 11 = 1 := by decide +kernel
  have e5 : c5.p64 6 = 16 * 65536 := by decide +kernel
  refine ⟨fun op ho st hs => ⟨_, _, seqOf st, canon_sound (h1 op ho st hs).1, by rfl, h2 op ho st hs, rfl, (h1 op ho st hs).2.1,
      (h1 op ho st hs).2.2.1, (h1 op ho st hs).2.2.2.2.2, rfl, isSome_out (h1 op ho st hs).2.2.2.1, rfl,
      isSome_out (h1 op ho st hs).2.2.2.2.1⟩,
    ⟨_, { kvCmd 0x1A 0 with ran := true }, seqOf 2, canon_sound h3, begun_of (by decide +kernel), by decide +kernel, by decide +kernel⟩,
    ⟨swapInS (swapAcc none (List.replicate 65536 (some 0))), { kvCmd 0x1B 0 with ran := true }, seqOf 4, _, begun_of (by decide +kernel),
      by decide +kernel, rfl, rfl, ?_, List.length_replicate⟩,
    ⟨swapInS (swapAcc (some St.LOWER_TIER_FAIL) []), { kvCmd 0x1B 0 with ran := true }, seqOf 4, _, St.LOWER_TIER_FAIL,
      begun_of (by decide +kernel), by decide +kernel, rfl, rfl⟩,
    ⟨kvS false c4 [seqOf 1] (keepList 0), c4, canon_sound h4, due_of (by decide +kernel), rfl, by decide +kernel, by decide +kernel,
      by decide +kernel⟩,
    kvS false c5 [seqOf 1] (keepList 0), ((kvS false c5 [seqOf 1] (keepList 0)).kvList c5 (16 * 65536) 1).1, c5, canon_sound h5,
    due_of (by decide +kernel), rfl, by decide +kernel, by decide +kernel, by decide +kernel, by decide +kernel, by decide +kernel, ?_,
    poolOf_eq (by decide +kernel) (by decide +kernel), by decide +kernel, ?_⟩
  · exact anyPoison_replicate 65536
  · rw [n5, e5]
    exact oneEntry_of (by decide +kernel)
  · have h : (((kvS false c5 [seqOf 1] (keepList 0)).kvList c5 (16 * 65536) 1).1.winCheck c5
        ((kvS false c5 [seqOf 1] (keepList 0)).poolOf 3 0) 0).isSome = true := by decide +kernel
    obtain ⟨⟨a, b, d⟩, h⟩ := isSome_out h
    exact ⟨a, b, d, h⟩

/-! ### Generator models -/

/-- The hypotheses on a command that is due, computed. -/
def dueB (s : State) (op : Nat) (c : Cmd) : Bool :=
  s.apexUp && decide (s.findCmd 8 0 = some c) && decide (c.phase = .started) && decide (c.ran = false) && decide (c.op = op)

theorem due_iff {s : State} {op : Nat} {c : Cmd} (h : dueB s op c = true) : due s ref op c := due_of h

def begunB (s : State) (op : Nat) (c : Cmd) : Bool :=
  decide (s.findCmd 8 0 = some c) && decide (c.phase = .started) && decide (c.ran = true) && decide (c.op = op)

theorem begun_iff {s : State} {op : Nat} {c : Cmd} (h : begunB s op c = true) : begun s ref op c := begun_of h

/-- A unit of one slab, at epoch 1, whose staging set is at the epoch given. -/
def unitR (stg : Nat) (act : Option (List Nat × Nat)) : RtUnit :=
  ⟨0, 1, 0, 0, [1], 1, 0, 0, stg, decide (stg ≠ 0), false, act, none, []⟩

def modelR (u : RtUnit) (ad : List RtUnit) (g : Option RtStage) (arm : Option RtBar) : RtModel := ⟨[u], ad, g, none, arm, none, some 6⟩

/-- Model 0 of bay 3 in a state: its area is at slab 64, its events at 100, DONE 5 and GATE 6 of its one layer. -/
def rtS (st : Nat) (x : Option RtModel) : State :=
  sets { bayS with rt := ⟨match x with | none => [] | some y => [(12, some y)], []⟩ }
    [(Reg.RT_STATE 3 0, st), (Reg.RT_CFG0 3 0, 100 * 256), (Reg.RT_AREA_VA 3 0, 64 * 65536), (Reg.EVT 3 100, 5), (Reg.EVT 3 101, 6),
     (Reg.EVT 3 102, 5)]

def idleR : RtModel := modelR (unitR 0 none) [] none none

/-- A command of model 0 with OPTION bits in its first parameter word, in a state with or without the model. -/
def rtCmd (op opt : Nat) : Cmd := cmdOf op [(0, opt)]
def rtOf (op opt st : Nat) : State := withCmd (rtS st (some idleR)) (rtCmd op opt)
def rtNone (op opt : Nat) : State := withCmd (rtS 0 none) (rtCmd op opt)

/-- A state in which ENABLE finds a layer table of one slab. -/
def enableS : State :=
  let s := memS (objOf 0) (t2Slab false false) [(0, 4)]
  sets { s with mem := { s.mem with hbm := [(0, 1)] } }
    [(Reg.RT_LAYER_TAB 3 0, 16 * 65536), (Reg.RT_EPOCH_VA 3 0, 16 * 65536), (Reg.RT_AREA_VA 3 0, 64 * 65536), (Reg.SHARE 3 1, 1000)]

theorem witness_GeneratorModels :
    (∀ op ∈ [0x20, 0x21, 0x22, 0x23, 0x24], ∀ opt ∈ [0, 4, 8, 12, 32, 64], canon (rtNone op opt) = true ∧
      dueB (rtNone op opt) op (rtCmd op opt) = true ∧ (rtCmd op opt).p 0 0 2 = 0 ∧ (rtNone op opt).model 3 0 = none) ∧
    (∀ st < 6, canon (rtOf 0x20 0 st) = true ∧ (rtOf 0x20 0 st).rtSt 3 0 = st ∧ (rtOf 0x20 0 st).model 3 0 = some idleR) ∧
    (∀ op ∈ [0x20, 0x21, 0x22, 0x23, 0x24], ∀ opt ∈ [0, 4, 8, 12, 32, 64], dueB (rtOf op opt 1) op (rtCmd op opt) = true) ∧
    (canon enableS = true ∧ enableS.rtSt 3 0 = 0 ∧ enableS.rt.enabling = [] ∧ enableS.fld (Reg.RT_CFG1 3 0) 0 13 = 0 ∧
      enableS.fld (Reg.RT_CFG0 3 0) 8 10 + 2 * (enableS.fld (Reg.RT_CFG0 3 0) 0 8 + 1) ≤ 1023) := by
  refine ⟨by decide +kernel, by decide +kernel, by decide +kernel, by decide +kernel⟩

/-- The state after the layer table has been read, and its entry. -/
def enabledU : State :=
  ((enableS.onRt fun r => { r with enabling := r.enabling ++ [12] }).vaRead .dev 3 (16 * 65536) 16).1
def enabledE : List (Nat × Nat × Nat × Nat) := [(1, 0, 0, 0)]

theorem split3' {α β γ : Type} {x : α × β × γ} {z : γ} (h : x.2.2 = z) : x = (x.1, x.2.1, z) := by subst h; rfl

theorem enable_fits : modelFits enableS enabledU 3 0 enabledE where
  off := by decide +kernel
  events := by decide +kernel
  adapters := by decide +kernel
  table := ⟨_, split3' (by decide +kernel), by decide +kernel⟩
  entries := by decide +kernel
  aperture := by decide +kernel
  apart := by decide +kernel
  epochs := by decide +kernel
  count := by decide +kernel
  nobody := by decide +kernel

theorem witness_modelEnabled : enableS.Canonical ∧ modelFits enableS enabledU 3 0 enabledE ∧
    modelNeed enabledU 3 0 enabledE ≤ enabledU.share 3 1 ∧
    modelNeed enabledU 3 0 enabledE ≤ enabledU.reclaimable 3 + enabledU.lentBy 3 1 ∧
    ((enabledU.takeUnits 3 1 (modelNeed enabledU 3 0 enabledE)).placeUnits 3 (enabledU.areaSlab 3 0) 0 enabledE).isSome = true :=
  ⟨canon_sound witness_GeneratorModels.2.2.2.1, enable_fits, by decide +kernel, by decide +kernel, by decide +kernel⟩

/-- A stage of one entry for the layer, of a command (8, 0). -/
def entryR (len : Nat) : RtEntry := ⟨0, 0, 0, 1, len, []⟩
def stageR (fabric : Bool) (len : Nat) : RtStage := ⟨8, 0, 2, [entryR len], fabric, [], 0, [16 * 65536]⟩
def stageM (g : Option RtStage) : RtModel := modelR (unitR 0 none) [] g none

/-- A state with the area of model 0 mapped at slab 64, and a staging with its command or none. -/
def stageS (g : Option RtStage) : State :=
  let s := rtS 2 (some (stageM g))
  { s with mem := { s.mem with objs := [{ objOf 0 with base := 64, owner := .rethatch 0 }], use := [(1, 4)] } }
def stageCmd (t : Nat) : Cmd := { cmdOf 0x20 [(0, if t = 0 then 0 else 4), (5, t)] with ran := true }
def waitS (t : Nat) : State := withCmd (stageS (some (stageR true 128))) (stageCmd t)

theorem witness_StagingCommands :
    (canon (stageS none) = true ∧ begunB (withCmd (stageS none) (stageCmd 0)) 0x20 (stageCmd 0) = true ∧
      (stageS none).apexUp = true ∧ (stageS none).model 3 0 = some (stageM none)) ∧
    ((stageS none).areaModel 3 5 = none ∧ (stageS none).areaModel 3 64 = some 0 ∧ (stageS none).findCmd 8 0 = none ∧
      (stageM none).unitAt (64 - (stageS none).areaSlab 3 0) = some (false, 0, unitR 0 none)) ∧
    (∀ t < 2, canon (waitS t) = true ∧ (waitS t).apexUp = true ∧ (waitS t).findCmd 8 0 = some (stageCmd t) ∧
      (stageCmd t).op = 0x20 ∧ (stageCmd t).p 0 0 2 = 0 ∧ (waitS t).model 3 0 = some (stageM (some (stageR true 128))) ∧
      (stageM (some (stageR true 128))).missing false (stageR true 128) ≠ [] ∧
      decide ((waitS t).now < (stageCmd t).startAt + (stageCmd t).p 5 0 24 * 1000000) = decide (t = 1)) := by
  refine ⟨by decide +kernel, by decide +kernel, by decide +kernel⟩

/-- A model whose layer has a recorded set, active or staged, and a poisoned line in each. -/
def badM (u : RtUnit) : RtModel := modelR u [] none none
def badS (st opt : Nat) (u : RtUnit) : State :=
  let s := sets (rtS st (some (badM u))) [(Reg.RT_RECHECK 3 0, 1)]
  withCmd { s with mem := { s.mem with slabs := [(slabKey 3 64, t2Slab false false)], use := [(0, 4), (1, 4)], poison := [(0, true), (512, true)] } }
    (rtCmd 0x21 opt)

def actU : RtUnit := unitR 0 (some ([], 128))
def stgU : RtUnit := { unitR 2 none with stg := some ([], 128) }

theorem witness_Verifications :
    (∀ opt ∈ [0, 4], dueB (rtOf 0x21 opt 3) 0x21 (rtCmd 0x21 opt) = true ∧ canon (rtOf 0x21 opt 3) = true ∧
      (rtCmd 0x21 opt).p 0 2 2 = opt / 4 ∧ (rtOf 0x21 opt 3).recorded 3 0 (decide (opt = 4)) idleR = []) ∧
    (dueB (badS 3 0 actU) 0x21 (rtCmd 0x21 0) = true ∧ canon (badS 3 0 actU) = true ∧
      ((badS 3 0 actU).recheck 3 0 false (badM actU) []).2 = ([(false, 0)], none) ∧
      ((badS 3 0 actU).recheck 3 0 false (badM actU) []).1.model 3 0 = some (badM actU)) ∧
    (dueB (badS 3 4 stgU) 0x21 (rtCmd 0x21 4) = true ∧ canon (badS 3 4 stgU) = true ∧
      ((badS 3 4 stgU).recheck 3 0 true (badM stgU) []).2 = ([(false, 0)], none) ∧
      ((badS 3 4 stgU).recheck 3 0 true (badM stgU) []).1.model 3 0 = some (badM stgU) ∧
      ((badS 3 4 stgU).recheck 3 0 true (badM stgU) []).1.rtSt 3 0 = 3) ∧
    ((rtOf 0x21 0 1).reg (Reg.RT_RECHECK 3 0) = 0 ∧ canon (badS 1 0 (unitR 0 none)) = true ∧
      (badS 1 0 (unitR 0 none)).reg (Reg.RT_RECHECK 3 0) ≠ 0 ∧ (badS 1 0 (unitR 0 none)).rtSt 3 0 = 1 ∧
      (badS 1 0 (unitR 0 none)).recorded 3 0 false (badM (unitR 0 none)) = []) := by
  refine ⟨by decide +kernel, by decide +kernel, by decide +kernel, by decide +kernel⟩

/-- A model with a barrier of command (8, 0) that holds its gate at step 9. -/
def barR (rolling : Bool) : RtBar := ⟨8, 0, true, rolling, [9], [], [0], 0, 2, []⟩
def armM (st : Nat) : RtModel := { idleR with arm := some (barR (decide (st = 5))) }
def armS (st t : Nat) : State := withCmd (rtS st (some (armM st))) { cmdOf 0x22 [(6, t)] with ran := true }

theorem witness_BarriersAndGates :
    (∀ o ∈ [0, 32], dueB (rtOf 0x22 o 3) 0x22 (rtCmd 0x22 o) = true ∧ canon (rtOf 0x22 o 3) = true ∧
      (rtCmd 0x22 o).p 0 5 1 = o / 32 ∧ (rtOf 0x22 o 3).rtSettle = rtOf 0x22 o 3) ∧
    (rtOf 0x22 0 3).rtDone 3 0 0 < (rtOf 0x22 0 3).rtGate 3 0 0 ∧
    (∀ st ∈ [3, 5], ∀ o ∈ [0, 64], dueB (rtOf 0x23 o st) 0x23 (rtCmd 0x23 o) = true ∧ canon (rtOf 0x23 o st) = true ∧
      (rtCmd 0x23 o).p 0 6 1 = o / 64 ∧ (rtOf 0x23 o st).rtSettle = rtOf 0x23 o st ∧ (rtOf 0x23 o st).rtSt 3 0 = st ∧
      ∀ y ∈ (rtOf 0x23 o st).cq.cmds, y.op ≠ 0x24) ∧
    (∀ st ∈ [4, 5], ∀ t < 2, canon (armS st t) = true ∧ (armS st t).rtSettle = armS st t ∧ (armS st t).apexUp = true ∧
      (armS st t).model 3 0 = some (armM st) ∧ (armS st t).rtSt 3 0 = st ∧ ((armS st t).cq.cmds.map fun c => c.p 6 0 24) = [t]) ∧
    (unitOf (rtOf 0x22 0 3) 3 0 false 0 = some (unitR 0 none) ∧ (rtOf 0x22 0 3).reg (Reg.RT_EPOCH_VA 3 0) / 65536 < (rtOf 0x22 0 3).areaSlab 3 0 ∧
      (rtOf 0x22 0 3).fld (Reg.RT_CFG0 3 0) 8 10 + 2 * idleR.layers.length ≤ 1023 ∧ (rtOf 0x22 0 3).rtDone 3 0 0 < evtTop) := by
  refine ⟨by decide +kernel, by decide +kernel, by decide +kernel, by decide +kernel, by decide +kernel⟩

theorem witness_still : stillModel (rtOf 0x22 0 3) 3 0 ∧ unscheduled (rtOf 0x22 0 3) 3 :=
  ⟨⟨idleR, rfl, rfl, rfl, by decide +kernel⟩, unscheduled_of rfl 3⟩

/-! ### The fabric -/

/-- Port 0 in state st with its first `lanes` lanes and a LANE_CORR_MAX of 5, in a ring of three devices. -/
def portS (st lanes : Nat) (x : PortX) : State :=
  let s := sets bayS ([20, 21, 22, 23].map (fun e => (Reg.FAB_DIMS e, 2 + 3 * 2 ^ 24)) ++
    [(Reg.PORT_STATUS 20 0, st), (Reg.PORT_LANES 20 0, 2 ^ lanes - 1), (Reg.LANE_CORR_MAX 20 0, 5), (Reg.PORT_STATUS 20 1, 5),
     (Reg.BAY_SEC 3, 7 * 2 ^ 16), (Reg.SLOT 20 0 0, 2 ^ 16 + 7), (Reg.SLOT 20 1 0, 2 ^ 16 + 7), (Reg.SHARE 3 3, 1)])
  s.setPortX 0 x

theorem witness_PortTraining :
    (∀ st < 8, canon (portS st 16 .zero) = true ∧ (portS st 16 .zero).portState 0 = st) ∧
    (portS 0 16 .zero).dieState 20 = dieOn ∧ up.dieState 20 ≠ dieOn ∧ canon up = true ∧ (portS 0 16 .zero).fabClock = true ∧
    (maskCount 16 (goodLanes 0xFF) = 8 ∧ maskCount 16 (goodLanes 0x7F) = 4) ∧
    (portS 4 16 .zero).neighbour 0 = some 1 := by
  refine ⟨by decide +kernel, by decide +kernel, by decide +kernel, by decide +kernel, by decide +kernel, by decide +kernel,
    by decide +kernel⟩

/-- A packet from device 1 for device `dst`, of a class and type, without payload, for bay 3 and job 7. -/
def pktHdr (dst cls type addr seq : Nat) : PktHdr :=
  ⟨type, cls, 0, false, false, true, 0, dst, 3, 3, 1, 0, 7, 0, 0, addr, seq⟩
def pktOf (h : PktHdr) : List Byte := (h.bytes ++ List.replicate 16 0).map (BitVec.ofNat 8)
def reqHdr : PktHdr := pktHdr 0 0 0 (16 * 65536) 0

theorem pkt_parses : ∀ dst < 3, ∀ cls < 4, parseHdr ((pktOf (pktHdr dst cls 0 0 0)).map BitVec.toNat) = (pktHdr dst cls 0 0 0, true) ∧
    (pktHdr dst cls 0 0 0).ok = true := by decide +kernel

/-- A request of bay 3 to device 1 that a step of a command waits for. -/
def fabReq (kind tries : Nat) (st : FabSt) : FabReq := ⟨3, 0, 0, 1, 3, kind, 16 * 65536, [], 32, true, tries, 0, .step 9 9, st⟩
def askS (s : State) (r : FabReq) : State := { s with fab := { s.fab with reqs := [r] } }
def lostX (retry : List (Nat × List Byte)) : PortX := ⟨[], retry, 0, 0, 0, 0, true, false⟩
def ownHdr : PktHdr := { pktHdr 1 0 0 0 0 with src := 0 }
def lostS : State := askS (portS 6 16 (lostX [(1, pktOf ownHdr)])) (fabReq 0 0 .sent)

theorem witness_LinkTraffic :
    (∀ n ∈ [0, 15], canon (portS 5 16 ⟨[], [], 0, 0, 9, n, false, false⟩) = true ∧
      ((portS 5 16 ⟨[], [], 0, 0, 9, n, false, false⟩).portX 0).replays = n ∧ (portS 5 16 ⟨[], [], 0, 0, 9, n, false, false⟩).portState 0 = 5) ∧
    (∀ l ∈ [4, 16], canon (portS 6 l .zero) = true ∧ (portS 6 l .zero).portState 0 = 6 ∧ (portS 6 l .zero).fabClock = true ∧
      decide (maskCount 16 (goodLanes ((portS 6 l .zero).reg (Reg.PORT_LANES 20 0) &&& 0xFFFF)) < 8) = decide (l = 4)) ∧
    (bitsAt ((portS 5 16 .zero).reg (Reg.PORT_LANES 20 0)) 3 1 = 1 ∧ (portS 5 16 .zero).reg (Reg.LANE_CORR_MAX 20 0) < 6) ∧
    ((portS 5 16 .zero).ownDev = 0 ∧
      (portS 5 16 .zero).route 1 (some ((portS 5 16 .zero).portAxis 0)) false false = .out 0 0 false false ∧
      (portS 5 16 .zero).ownsSlot 0 7 = true) ∧
    (canon lostS = true ∧ (lostS.portX 0).lost = true ∧ lostS.portState 0 ≠ portActive ∧ lostS.fab.reqs = [fabReq 0 0 .sent] ∧
      parseHdr ((pktOf ownHdr).map BitVec.toNat) = (ownHdr, true) ∧ ownHdr.src = lostS.ownDev ∧
      (lostS.setPortFld 0 3 1 1).route ownHdr.dst none ownHdr.dl ownHdr.det = .unreachable 0 ∧
      (fabReq 0 0 .sent).is ownHdr.sbay ownHdr.key ownHdr.seq = true) ∧
    (canon (portS 6 16 (lostX [])) = true ∧ (portS 6 16 (lostX [])).portX 0 = lostX []) := by
  refine ⟨by decide +kernel, by decide +kernel, by decide +kernel, by decide +kernel, by decide +kernel, by decide +kernel⟩

theorem witness_linkQuiet : noneDone lostS ∧ noneDone (portS 6 16 (lostX [])) :=
  ⟨fun r hr => by have : r = fabReq 0 0 .sent := List.mem_singleton.1 hr
                  subst this; rfl, fun r hr => by cases hr⟩

/-- Bay 3 without a key opens a packet without payload; device 1's requests of it are new. -/
def destS : State :=
  let s := portS 5 16 .zero
  { s with mem := { s.mem with objs := [objOf 0], slabs := [(slabKey 3 16, t2Slab false false)], use := [(0, 4)] } }

theorem dest_carries : carries destS 0 (pktOf reqHdr) reqHdr [] where
  hdr := by decide +kernel
  ok := by decide +kernel
  dst := by decide +kernel
  die := by decide +kernel
  bay := by decide +kernel
  job := by decide +kernel
  opened := ⟨[], by decide +kernel, rfl⟩
  live := by decide +kernel

def rspS (r : FabReq) : State := askS destS r
def rspHdr (type addr : Nat) : PktHdr := pktHdr 0 1 type addr 0

theorem witness_RemoteAccesses :
    canon destS = true ∧ destS.bayState 4 ≠ bayRunning ∧ destS.landing 3 reqHdr.addr 0 = none ∧
    (destS.vaWriteM .dev .device .good 3 reqHdr.addr []).2 = .ok ∧ ((destS.vaReadM .dev .good 3 reqHdr.addr 32).2.2 = .ok) ∧
    (∀ st ∈ [FabSt.sent, FabSt.backoff], ∀ k < 3, canon (rspS (fabReq k 0 st)) = true ∧ (rspS (fabReq k 0 st)).fab.reqs = [fabReq k 0 st] ∧
      (fabReq k 0 st).is 3 0 0 = true) ∧
    (∀ t ∈ [2, 3, 4], parseHdr ((pktOf (rspHdr t (2 ^ 16))).map BitVec.toNat) = (rspHdr t (2 ^ 16), true) ∧ (rspHdr t (2 ^ 16)).ok = true ∧
      (rspHdr t (2 ^ 16)).dst = destS.ownDev ∧ destS.openPkt 3 (rspHdr t (2 ^ 16)) (pktOf (rspHdr t (2 ^ 16))) = some []) ∧
    (rspS (fabReq 0 0 .sent)).fld (Reg.FAB_RETRY 20) 0 4 = 8 := by
  refine ⟨by decide +kernel, by decide +kernel, by decide +kernel, by decide +kernel, by decide +kernel, by decide +kernel,
    by decide +kernel, by decide +kernel⟩

def isFresh : Replay → Bool
  | .fresh => true
  | _ => false

theorem newSeq_of {s : State} {p : Nat} {h : PktHdr} (e : isFresh (s.replay (portDie p) h.dbay h) = true) : newSeq s p h := by
  generalize hx : s.replay (portDie p) h.dbay h = x at e
  cases x <;> first | exact .inl hx | exact absurd e Bool.false_ne_true

theorem witness_remoteFresh : newSeq destS 0 reqHdr ∧ reaches (rspS (fabReq 0 0 .backoff)) 3 1 ∧ noneWaiting (rspS (fabReq 0 0 .sent)) ∧
    noneDone (rspS (fabReq 0 0 .sent)) := by
  refine ⟨newSeq_of (by decide +kernel), ⟨by decide +kernel, ⟨0, 0, false, false, by decide +kernel, by decide +kernel⟩, by decide +kernel⟩,
    fun r hr => ?_, fun r hr => ?_⟩ <;>
  · have : r = fabReq 0 0 .sent := List.mem_singleton.1 hr
    subst this; first | rfl | exact fun h => nomatch h

/-! ### Collectives -/

/-- A group's entry in HBM: a tree of this device and device 1, whose root this is, or whose parent that is. -/
def groupBytes (root : Bool) : SMap Byte :=
  [(0, 4), (2, if root then 7 else 1)] ++ (if root then [(8, 1), (11, 3)] else [(4, 1), (7, 3)]) ++ [(40, if root then 2 else 1)]

/-- RIDGE or VALLEY of COLL_ID 9 with that entry, its table at slab 16; its group busy or not. -/
def collCmd (op : Nat) : Cmd := { cmdOf op [(1, 9), (6, 0)] with adm := .granted }
def collS (op busy : Nat) (bytes : SMap Byte) : State :=
  let s := withCmd (sets destS [(Reg.CG_BUSY 3, busy), (Reg.CG_TABLE_VA 3, 16 * 65536)]) (collCmd op)
  { s with mem := { s.mem with hbm := bytes } }

/-- The state after the entry is read, and the entry. -/
def readS (op : Nat) (bytes : SMap Byte) : State × List PByte × Acc := (collS op 0 bytes).vaRead (.cmd 8 0) 3 (16 * 65536) 64
def entryC (op : Nat) (bytes : SMap Byte) : GroupEntry := groupEntry ((readS op bytes).2.1.map fun y => (pbyte y).toNat)

theorem witness_Collectives :
    (∀ op ∈ [0x28, 0x29], ∀ busy < 2, canon (collS op busy []) = true ∧ dueB (collS op busy []) op (collCmd op) = true ∧
      bitsAt ((collS op busy []).reg (Reg.CG_BUSY 3)) 0 1 = busy ∧ (collCmd op).adm = .granted) ∧
    (∀ op ∈ [0x28, 0x29], (readS op []).2.2 = .ok ∧ (readS op []).1.findCmd 8 0 = some (collCmd op) ∧
      (entryC op []).bad (readS op []).1.ownDev = true) ∧
    (∀ op ∈ [0x28, 0x29], ∀ root ∈ [true, false], canon (collS op 0 (groupBytes root)) = true ∧
      (readS op (groupBytes root)).2.2 = .ok ∧ (readS op (groupBytes root)).1.findCmd 8 0 = some (collCmd op) ∧
      (entryC op (groupBytes root)).bad (readS op (groupBytes root)).1.ownDev = false ∧
      (entryC op (groupBytes root)).root = root ∧ (entryC op (groupBytes root)).peers = [(1, 3)] ∧
      (readS op (groupBytes root)).1.collPort (1, 3) = some 0 ∧ (readS op (groupBytes root)).1.dieRefuses 20 = none ∧
      collFieldBad (decide (op = 0x28)) false root 0 0 0 = none ∧
      (readS op (groupBytes root)).1.featMissing (entryC op (groupBytes root)).feat [(1, 3)] = none ∧
      (readS op (groupBytes root)).1.fab.early = [] ∧ (readS op (groupBytes root)).1.fab.colls = [] ∧
      (readS op (groupBytes root)).1.fab.reqs = []) := by
  refine ⟨by decide +kernel, by decide +kernel, by decide +kernel⟩

/-- A member of a tree with device 1 as its parent or its only child, and other children. -/
def collX (ridge parent : Bool) (kids : List (Nat × Nat)) (limit : Option Nat) : Coll :=
  ⟨8, 0, 3, 0, 4, 9, ridge, 0, 0, false, 0, 0, 0, 0, if parent then some (1, 3) else none, kids, 2, 20, limit, 0, [], [], [], [], [], [], none, []⟩
def joinCmd (c : Coll) : Cmd := { cmdOf (if c.ridge then 0x28 else 0x29) [(1, 9)] with adm := .granted, ran := true }
def joinS (c : Coll) : State := { destS with fab := { destS.fab with colls := [c] }, cq := { destS.cq with cmds := [joinCmd c] } }

def collHdr (kind : Nat) : PktHdr := pktHdr 0 2 6 (4 + kind * 2 ^ 16 + 9 * 2 ^ 19) 0
def joined (c : Coll) (kind : Nat) : State :=
  ((joinS c).recordSeq 20 3 (collHdr kind) (some St.OK)).answer 0 (collHdr kind) (.answered St.OK [])

theorem carries_with {s : State} {p : Nat} {bs : List Byte} {h : PktHdr} {pl : List Byte} (x : carries s p bs h pl) (f : FabState)
    (q : CmdState) : carries { s with fab := f, cq := q } p bs h pl :=
  ⟨x.hdr, x.ok, x.dst, x.die, x.bay, x.job, x.opened, x.live⟩

theorem dest_collects : ∀ kind < 4, carries destS 0 (pktOf (collHdr kind)) (collHdr kind) [] := fun kind hk =>
  have h : ∀ kind < 4, parseHdr ((pktOf (collHdr kind)).map BitVec.toNat) = (collHdr kind, true) ∧ (collHdr kind).ok = true ∧
      (collHdr kind).dst = destS.ownDev ∧ destS.dieState (portDie 0) = dieOn ∧ destS.bayState (collHdr kind).dbay = bayRunning ∧
      (collHdr kind).job = destS.bayJob (collHdr kind).dbay ∧
      destS.openPkt (collHdr kind).dbay (collHdr kind) (pktOf (collHdr kind)) = some [] ∧
      genLive (destS.txGen (collHdr kind).dbay) (collHdr kind).key = true := by decide +kernel
  have k := h kind hk
  ⟨k.1, k.2.1, k.2.2.1, k.2.2.2.1, k.2.2.2.2.1, k.2.2.2.2.2.1, ⟨[], k.2.2.2.2.2.2.1, rfl⟩, k.2.2.2.2.2.2.2⟩

theorem coll_kind : ∀ kind < 4, (collHdr kind).cls = 2 ∧ (collHdr kind).type = 6 ∧ bitsAt (collHdr kind).addr 16 2 = kind := by
  decide +kernel

theorem coll_arrives {c : Coll} {kind : Nat} (hk : kind < 4) (hf : isFresh ((joinS c).replay 20 3 (collHdr kind)) = true)
    (hc : (joinS c).dieRefuses c.home = none) (ho : (joinS c).fab.colls = [c]) :
    arrives (joinS c) (joined c kind) 0 (pktOf (collHdr kind)) kind (collHdr kind) [] where
  packet := carries_with (dest_collects kind hk) { destS.fab with colls := [c] } { destS.cq with cmds := [joinCmd c] }
  coll := coll_kind kind hk
  fresh := newSeq_of hf
  home := fun x hx => by
    have : x ∈ (joinS c).fab.colls := List.mem_of_find?_eq_some hx
    rw [ho, List.mem_singleton] at this
    exact this ▸ hc
  late := fun _ l hl => by cases hl
  after := rfl

theorem member_of {u : State} {h : PktHdr} {c : Coll} {x : Nat × Nat} (e : (decide (u.collOf h = some c) && decide (c.id = hdrId h) &&
    decide (u.collPeer c h = some x) && decide (u.fab.colls = [c])) = true) : member u h c x := by
  simp only [Bool.and_eq_true, decide_eq_true_eq] at e
  obtain ⟨⟨⟨a, b⟩, d⟩, f⟩ := e
  exact ⟨a, b, d, fun y hy _ _ => by rw [f] at hy; exact List.mem_singleton.1 hy⟩

def rootX : Coll := collX false false [(1, 3)] none
def wideX : Coll := collX false false [(1, 3), (2, 3)] none
def leafX : Coll := collX true true [(2, 3)] none

/-- The arrivals of which the rules speak: a READY before its member starts, one that differs, and one that agrees; a chunk
that cannot be read; DONE from the only child or from one of two; and ABORT. -/
theorem witness_collArrivals :
    (∀ c ∈ [rootX, wideX, leafX], canon (joinS c) = true ∧ ∀ kind < 4, isFresh ((joinS c).replay 20 3 (collHdr kind)) = true ∧
      (joinS c).dieRefuses c.home = none ∧ (joined c kind).collOf (collHdr kind) = some c ∧ c.id = hdrId (collHdr kind) ∧
      (joined c kind).collPeer c (collHdr kind) = some (1, 3) ∧ (joined c kind).fab.colls = [c] ∧
      (joined c kind).findCmd 8 0 = some (joinCmd c) ∧ (joined c kind).dieState c.home = dieOn ∧ (joined c kind).reqsOf c.owner = []) := by
  decide +kernel

theorem witness_collMembers : (∀ c ∈ [rootX, wideX, leafX], ∀ kind < 4,
      arrives (joinS c) (joined c kind) 0 (pktOf (collHdr kind)) kind (collHdr kind) [] ∧ member (joined c kind) (collHdr kind) c (1, 3)) ∧
    (∀ kind < 4, idleColl (joined rootX kind) rootX ∧ idleColl (joined wideX kind) wideX ∧ idleColl (joined leafX kind) leafX) ∧
    leafX.agrees (hdrId (collHdr 0)) 0 0 = true ∧ rootX.agrees (hdrId (collHdr 0)) 0 0 = false ∧
    (joined rootX 2).collOwnDone rootX = true ∧ rootX.kids = [(1, 3)] ∧ wideX.kids.length = 2 ∧
    idleColl (joined leafX 0) { leafX with heard := (joined leafX 0).now, ready := leafX.ready ++ [(1, 3)] } ∧
    leafX.dones.length ≠ leafX.kids.length := by
  refine ⟨fun c hc kind hk => ?_, fun kind hk => ?_, by decide +kernel, by decide +kernel, by decide +kernel, by decide +kernel,
    by decide +kernel, ⟨fun k hk => absurd hk (by simp [Coll.chunks, leafX, collX]), rfl, rfl, by decide +kernel⟩, by decide +kernel⟩
  · have h := (witness_collArrivals c hc).2 kind hk
    refine ⟨coll_arrives hk h.1 h.2.1 rfl, member_of ?_⟩
    rw [decide_eq_true h.2.2.1, decide_eq_true h.2.2.2.1, decide_eq_true h.2.2.2.2.1, decide_eq_true h.2.2.2.2.2.1]
    rfl
  · refine ⟨⟨fun k hk => absurd hk (by simp [Coll.chunks, rootX, collX]), rfl, rfl, ?_⟩,
      ⟨fun k hk => absurd hk (by simp [Coll.chunks, wideX, collX]), rfl, rfl, ?_⟩,
      ⟨fun k hk => absurd hk (by simp [Coll.chunks, leafX, collX]), rfl, rfl, ?_⟩⟩
    · exact ((witness_collArrivals rootX (by decide)).2 kind hk).2.2.2.2.2.2.2.2
    · exact ((witness_collArrivals wideX (by decide)).2 kind hk).2.2.2.2.2.2.2.2
    · exact ((witness_collArrivals leafX (by decide)).2 kind hk).2.2.2.2.2.2.2.2

/-- A READY before its member starts, the packets that are for nobody, and the time limit of a collective. -/
def otherX : Coll := { rootX with gtag := 5 }
def limitS (l : Option Nat) : State := joinS { rootX with limit := l }

theorem witness_collTimes :
    (arrives (joinS otherX) (joined otherX 0) 0 (pktOf (collHdr 0)) 0 (collHdr 0) [] ∧ (joined otherX 0).collOf (collHdr 0) = none ∧
      (joined otherX 0).collLateOf (collHdr 0) = none ∧ (joined otherX 0).fab.early = []) ∧
    (∀ l ∈ [none, some 0, some 5], canon (limitS l) = true ∧ (limitS l).fab.colls = [{ rootX with limit := l }] ∧
      (limitS l).silentPeer { rootX with limit := l } = some (1, 3) ∧ (limitS l).findCmd 8 0 = some (joinCmd rootX) ∧ (limitS l).now = 0) ∧
    (∀ dst < 3, ∀ cls < 4, (parseHdr ((pktOf (pktHdr dst cls 0 0 0)).map BitVec.toNat)).1 = pktHdr dst cls 0 0 0) ∧ destS.ownDev = 0 := by
  refine ⟨⟨coll_arrives (by decide) (by decide +kernel) (by decide +kernel) rfl, by decide +kernel, rfl, by decide +kernel⟩,
    by decide +kernel, fun dst hd cls hc => congrArg Prod.fst (pkt_parses dst hd cls hc).1, by decide +kernel⟩

/-! ### Global time -/

/-- A device whose parent in time is behind port 0 and whose alternate parent is behind port `alt`, or none. -/
def timeS (role st alt exch : Nat) : State :=
  let s := portS 5 16 { PortX.zero with auth := true }
  let t := sets s [(Reg.TIME_CFG, role + (if alt = 0 then 0 else alt * 32 + 256)), (Reg.TIME_STATUS, st)]
  { t with fab := { t.fab with exch := exch } }

theorem witness_GlobalTime :
    (∀ role < 3, ∀ st < 4, canon (timeS role st 0 0) = true ∧ (timeS role st 0 0).timeRole = role ∧ (timeS role st 0 0).timeState = st) ∧
    (∀ st < 4, ∀ exch ∈ [0, 15], (timeS 1 st 0 exch).timePort 0 = true ∧ (timeS 1 st 0 exch).portState 0 = portActive ∧
      ((timeS 1 st 0 exch).portX 0).auth = true ∧ (timeS 1 st 0 exch).fab.exch = exch ∧ (timeS 1 st 0 exch).anyBayUp = true) ∧
    ((timeS 1 0 0 0).setFld (Reg.BAY_STATE 3) 0 3 0).anyBayUp = false ∧ ((timeS 1 0 0 0).setFld (Reg.BAY_STATE 3) 0 3 0).timeState = 0 ∧
    (timeS 1 0 0 0).fab.locked = false ∧
    (∀ alt ∈ [0, 1], let s := (timeS 1 2 alt 0).setReg (Reg.PORT_STATUS 20 0) 6
      canon s = true ∧ s.altInUse = false ∧ s.portState (s.fld Reg.TIME_CFG 2 3) ≠ portActive ∧ s.fld Reg.TIME_CFG 8 1 = alt ∧
        s.portState (s.fld Reg.TIME_CFG 5 3) = if alt = 1 then portActive else portRetrain) ∧
    up.now % 1000000000 < 100000 := by
  refine ⟨by decide +kernel, by decide +kernel, by decide +kernel, by decide +kernel, by decide +kernel, by decide +kernel,
    by decide +kernel⟩

/-! ### Trust -/

/-- An admin command to bay 3 in state st, which awaits a seal under a nonce or none; entropy is good or not. -/
def sealS (st : Nat) (nonce : Option (List Nat)) (trng : Nat) (c : Cmd) : State :=
  let s := withCmd (sets bayS [(Reg.BAY_STATE 3, st), (Reg.Q_CFG 8, 2 ^ 14), (Reg.GR_STATUS, trng * 16)]) c
  { s with sec := { s.sec with keys := match nonce with | none => [] | some n => [(3, { BayKeys.none with nonce := some n })] } }

def adminCmd (op w : Nat) : Cmd := { cmdOf op [(0, w)] with bay := none }

/-- ATTEST of operation k on bay 3. -/
def attestCmd (k : Nat) : Cmd := adminCmd 0x38 (k + 3 * 16)
def attestS (k st e : Nat) : State := sealS st none e (attestCmd k)

theorem witness_SealsAndAttestation :
    (∀ st < 6, canon (sealS st none 1 (adminCmd 0x41 3)) = true ∧ dueB (sealS st none 1 (adminCmd 0x41 3)) 0x41 (adminCmd 0x41 3) = true ∧
      (adminCmd 0x41 3).p 0 0 4 = 3 ∧ (sealS st none 1 (adminCmd 0x41 3)).bayState 3 = st) ∧
    (canon (sealS 1 (some [1]) 1 (adminCmd 0x41 3)) = true ∧ ((sealS 1 (some [1]) 1 (adminCmd 0x41 3)).bayKeys 3).nonce = some [1] ∧
      [1] ≠ (adminCmd 0x41 3).pbytes 3 8) ∧
    (let s := sealS 1 (some ((adminCmd 0x41 3).pbytes 3 8)) 1 (adminCmd 0x41 3);
      canon s = true ∧ dueB s 0x41 (adminCmd 0x41 3) = true ∧ (s.bayKeys 3).nonce = some ((adminCmd 0x41 3).pbytes 3 8)) ∧
    (∀ k < 5, ∀ st < 6, canon (attestS k st 1) = true ∧ dueB (attestS k st 1) 0x38 (attestCmd k) = true ∧
      (attestCmd k).p 0 0 4 = k ∧ (attestCmd k).p 0 4 4 = 3 ∧ (attestCmd k).bay = none ∧ (attestS k st 1).bayState 3 = st) ∧
    (canon (attestS 1 1 0) = true ∧ dueB (attestS 1 1 0) 0x38 (attestCmd 1) = true ∧ (attestS 1 1 0).trngOk = false ∧
      (attestS 1 1 1).trngOk = true) ∧
    ((sets bayS [(Reg.HL_STATUS 0, 1)]).linkUp 0 = true ∧ (sets bayS [(Reg.HL_STATUS 0, 1)]).ccActive = false) ∧
    (∀ s : State, (s.bayKeys 3).jmk = none → s.tenantOk (attestCmd 2) = false) := by
  refine ⟨by decide +kernel, by decide +kernel, by decide +kernel, by decide +kernel, by decide +kernel, by decide +kernel, fun s h => ?_⟩
  have e : (attestCmd 2).p 0 4 4 = 3 := by decide +kernel
  simp [State.tenantOk, e, h]

theorem noEcdh {d : Nat} {k : PubKey} (h : onCurve k.1 k.2 = false) : p384Ecdh d k = none :=
  if_neg fun e => Bool.false_ne_true (h.symm.trans e)

theorem unwrap_off {s : State} {c : Cmd} (h : onCurve (c.pkey 16).1 (c.pkey 16).2 = false) : s.unwrap c = none := by
  unfold State.unwrap
  rw [noEcdh h]

/-- No key wraps a seal that names the point (0, 0). -/
theorem witness_noUnwrap : (sealS 1 (some ((adminCmd 0x41 3).pbytes 3 8)) 1 (adminCmd 0x41 3)).unwrap (adminCmd 0x41 3) = none :=
  unwrap_off (by decide +kernel)

/-- Bay 3 RUNNING and sealed, with or without consent to scan debug; the apex die runs, entropy is good or not. -/
def tamperS (sealed trng consent : Nat) : State :=
  sets bayS [(Reg.BAY_SEC 3, sealed), (Reg.GR_STATUS, trng * 16), (Reg.BAY_CONSENT 3, consent)]
def heldS : State := { tamperS 0 0 0 with pins := { up.pins with hold := true } }
def scrubbed : State := { tamperS 0 0 0 with sec := { up.sec with scrub := true } }

theorem witness_Tampering :
    (∀ k < 2, ∀ e < 2, ∀ n ∈ [0, 8], canon (tamperS k e n) = true ∧ (tamperS k e n).trngOk = decide (e = 1) ∧
      (tamperS k e n).fld (Reg.BAY_SEC 3) 0 2 = k ∧ (tamperS k e n).bayOfDie 0 = some 3 ∧ (tamperS k e n).bayOfDie 1 = none ∧
      (tamperS k e n).fld (Reg.BAY_CONSENT 3) 3 1 = n / 8 ∧ (tamperS k e n).apexUp = true ∧ (tamperS k e n).sec.scrub = false ∧
      (tamperS k e n).dieState 0 = dieOn ∧ (tamperS k e n).pins.hold = false ∧ (tamperS k e n).sec.passes = 0) ∧
    (canon heldS = true ∧ heldS.pins.hold = true ∧ heldS.apexUp = false ∧ canon scrubbed = true ∧ scrubbed.sec.scrub = true) ∧
    ¬ ∃ b, b < 16 ∧ (tamperS 0 1 0).fld (Reg.BAY_SEC b) 0 2 = 1 := by
  refine ⟨by decide +kernel, by decide +kernel, ?_⟩
  rintro ⟨b, hb, h⟩
  revert b; decide +kernel

/-- A device whose island runs its own image or its ROM, with a connection of endpoint 0. -/
def spdmS (rom : Bool) (trng stage : Nat) (session : Option Nat) (live : Bool) (deferred : Option (Nat × SpdmReq)) : State :=
  { up.setReg Reg.GR_STATUS (trng * 16) with
    mgmt := { up.mgmt with rom := rom }, sec := { up.sec with spdm := [⟨0, stage, session, live, 0, none, deferred⟩] } }

theorem witness_SpdmRequests :
    (∀ rom ∈ [true, false], ∀ e < 2, ∀ k < 4, canon (spdmS rom e k none false none) = true ∧ (spdmS rom e k none false none).epUp 0 = true ∧
      (spdmS rom e k none false none).grithalReady = !rom ∧ (spdmS rom e k none false none).trngOk = decide (e = 1) ∧
      ((spdmS rom e k none false none).spdm 0).stage = k ∧ ((spdmS rom e k none false none).spdm 0).session = none) ∧
    (spdmS false 1 3 none false none).epUp 2 = false ∧
    (∀ live ∈ [true, false], ((spdmS false 1 3 (some 5) live none).spdm 0).session = some 5 ∧
      ((spdmS false 1 3 (some 5) live none).spdm 0).live = live) ∧
    (∀ n < 2, ((spdmS false 1 3 none false (some (n, .getVersion))).spdm 0).deferred = some (n, .getVersion)) ∧
    (onCurve 0 0 = false ∧ onCurve p384Gx p384Gy = true ∧ (BitVec.ofNat 384 p384Gx).toNat = p384Gx ∧
      (BitVec.ofNat 384 p384Gy).toNat = p384Gy) ∧
    ((spdmS false 1 3 none false none).measBlocks 0x7F = none ∧ ∃ bs, (spdmS false 1 3 none false none).measBlocks 1 = some bs) := by
  refine ⟨by decide +kernel, by decide +kernel, by decide +kernel, by decide +kernel, by decide +kernel, by decide +kernel,
    isSome_out (by decide +kernel)⟩

/-! ### Die power and faults -/

/-- Die d in a state, with an operation; compute die 1 and edge die 23 belong to no bay. -/
def powS (d st op : Nat) : State :=
  let s := (sets up [(Reg.BAY_STATE 3, 2), (Reg.BAY_DIES 3, 1)]).setDieState d st
  { s with flt := { s.flt with dieOps := if op = 0 then [] else [(d, ⟨op, false, 0⟩)] } }

theorem powS_canon : ∀ d ∈ [0, 1, 23], ∀ st < 5, ∀ op < 6, canon (powS d st op) = true := by decide +kernel

theorem witness_DiePower :
    (∀ d ∈ [0, 1, 23], ∀ st < 5, (powS d st 0).apexUp = true ∧ (powS d st 0).dieState d = st) ∧ (powS 24 0 0).apexUp = false ∧
    (∀ w ∈ [(1, 2), (2, 4), (3, 3), (3, 4), (4, 0), (5, 2)], (powS 1 w.2 0).opAllowed 1 w.1 = true ∧ (powS 1 w.2 0).operatorMay 1 w.1 = true ∧
      (powS 0 w.2 0).opAllowed 0 w.1 = true ∧ (powS 0 w.2 0).operatorMay 0 w.1 = false) ∧
    ((powS 23 2 0).opAllowed 23 5 = true ∧ (powS 23 2 0).operatorMay 23 5 = false ∧ (powS 1 2 0).opAllowed 1 2 = false) ∧
    ((powS 1 3 0).dieIdle 1 = true ∧ ((powS 1 3 0).dieOp 1).loss = false ∧ ((powS 1 3 0).dieOp 1).start + 10000 ≥ (powS 1 3 0).now) ∧
    (∀ op ∈ [1, 2, 4, 5], ((powS 1 1 op).dieOp 1).op = op ∧ ((powS 23 1 op).dieOp 23).op = op ∧ (powS 23 1 op).handlingOf 23 = none) := by
  refine ⟨by decide +kernel, by decide +kernel, by decide +kernel, by decide +kernel, by decide +kernel, by decide +kernel⟩

/-- A die that has drained for longer than its limit, and one with a request of the mesh outstanding. -/
def slowS : State := { powS 1 3 0 with ktime := 20000 }
def busyS : State := { powS 1 3 0 with mesh := { up.mesh with reqs := [⟨1, 2, 0, 0, 0, none, 0⟩] } }

theorem witness_dieDrains : (canon slowS = true ∧ slowS.dieState 1 = dieClosed ∧ (slowS.dieOp 1).start + 10000 ≤ slowS.now ∧
      (slowS.dieOp 1).loss = false) ∧ canon busyS = true ∧ busyS.dieIdle 1 = false := by
  refine ⟨by decide +kernel, by decide +kernel, by decide +kernel⟩

/-- A test of engine 0 of die 0, which logical index 0 or none maps to; spares at 50 and 51. -/
def testOf (log : Nat) : EngTest := ⟨0, 0, log, none, [], 0, false⟩
def testS (log : Nat) : State := { bayS with flt := { bayS.flt with tests := [testOf log] } }

/-- Edge die 20 that has not come back, with handling of a level. -/
def goneS (kt level : Nat) : State :=
  let s := (powS 20 1 5)
  { s with ktime := BitVec.ofNat 64 kt, flt := { s.flt with handling := [⟨20, level, 0, 0, false⟩] } }

theorem witness_FaultHandling :
    (∀ d ∈ [1, 23], ∀ st < 5, (powS d st 0).dieState d = st ∧ (powS d st 0).domainLive d = decide (2 ≤ st)) ∧
    (∀ n < 2, bayS.dieState 0 = dieOn ∧ bayS.reg (Reg.ERC 0) ≤ bayS.ercThr 0 n) ∧
    (∀ log ∈ [0, 0x3F], canon (testS log) = true ∧ (testS log).flt.tests = [testOf log] ∧ ((testS log).eng 0 0).iq = []) ∧
    ((powS 1 2 0).flt.tests = []) ∧
    (∀ level < 6, canon (goneS 1000000 level) = true ∧ (goneS 1000000 level).dieState 20 ≠ dieOn ∧
      ((goneS 1000000 level).dieOp 20).start + 1000000 ≤ (goneS 1000000 level).now ∧
      (goneS 1000000 level).handlingOf 20 = some ⟨20, level, 0, 0, false⟩) := by
  refine ⟨by decide +kernel, by decide +kernel, by decide +kernel, by decide +kernel, by decide +kernel⟩

theorem phys_setSpare {s : State} (h : mwf spareDefault s.flt.spare = true) (d l l' p : Nat) :
    (s.setSpare d l p).physOf d l' = if l' = l then p else s.physOf d l' := by
  simp only [State.physOf, State.setSpare]
  by_cases e : l' = l
  · subst e; rw [if_pos rfl]; exact mget_mset_same h _ _
  · rw [if_neg e]; exact mget_mset_other h (by omega) _

/-- The state with every logical engine of die 0 on its own place and engine 50 good. -/
def withSpare (s : State) : State := { withMap s 0 with flt := { (withMap s 0).flt with failed := mset failedDefault [] 50 false } }

theorem withSpare_canon {s : State} (k : s.Canonical) : (withSpare s).Canonical :=
  have h := withMap_canon k 0
  ⟨h.1, h.2, h.3, h.4, h.5, ⟨h.6.1, h.6.2, h.6.3, h.6.4, mwf_mset mwf_nil _ _, h.6.6, h.6.7, h.6.8⟩, h.7, h.8, h.9, h.10, h.11, h.12,
    h.13⟩

theorem withSpare_spares (s : State) : 50 ∈ (((withSpare s).setFailed 0 0).setSpare 0 0 0x3F).spares 0 := by
  have a : (((withSpare s).setFailed 0 0).setSpare 0 0 0x3F).engFailed 0 50 = false := by
    refine (mget_mset_other (mwf_mset mwf_nil _ _) (by decide) true).trans ?_
    exact mget_mset_same mwf_nil 50 false
  have b : (((withSpare s).setFailed 0 0).setSpare 0 0 0x3F).logOf 0 50 = none := by
    simp only [State.logOf, List.find?_eq_none, List.mem_range, decide_eq_true_eq]
    intro l hl e
    rw [phys_setSpare (mapOf_canon 0 _)] at e
    have k : ((withSpare s).setFailed 0 0).physOf 0 l = l := withMap_phys s 0 l hl
    rw [k] at e
    split at e <;> omega
  refine List.mem_filter.2 ⟨by decide, ?_⟩
  rw [a, b]
  rfl

/-- The test of an engine that a spare can take over from: physical engine 50 is good and mapped nowhere. -/
theorem witness_spareEngine : (withSpare (testS 0)).Canonical ∧ (withSpare (testS 0)).flt.tests = [testOf 0] ∧
    ∃ q rest, (((withSpare (testS 0)).setFailed 0 0).setSpare 0 0 0x3F).spares 0 = q :: rest := by
  refine ⟨withSpare_canon (canon_sound (witness_FaultHandling.2.2.1 0 (by decide)).1), rfl, ?_⟩
  have m := withSpare_spares (testS 0)
  generalize (((withSpare (testS 0)).setFailed 0 0).setSpare 0 0 0x3F).spares 0 = l at m
  cases l with
  | nil => cases m
  | cons q rest => exact ⟨q, rest, rfl⟩

/-! ### Power and reset -/

/-- Reset and test inputs, rails and the island's memory of a device whose flash slots are in states. -/
def pinS (p : Pins) (a : Nat) : State := { State.reset with pins := p, mgmt := { State.reset.mgmt with slotA := ⟨a, 0, 1, 0, true, []⟩ } }
def heldP : Pins := { Pins.reset with booting := false, hold := true }
def calmP : Pins := { Pins.reset with booting := false }

theorem witness_PowerAndReset :
    (∀ low ∈ [true, false], ∀ test ∈ [true, false], canon (pinS { heldP with resetLow := low, testEn := test } 2) = true) ∧
    ((pinS .reset 2).pins.booting = true ∧ (pinS .reset 2).pins.hold = false ∧
      (pinS .reset 2).bootOrder.find? (fun k => (pinS .reset 2).accepts ((pinS .reset 2).slot k)) = some 0) ∧
    (canon (pinS .reset 0) = true ∧ ∀ k ∈ (pinS .reset 0).bootOrder, (pinS .reset 0).accepts ((pinS .reset 0).slot k) = false) ∧
    (∀ p ∈ [heldP, calmP, { calmP with trip := true }], canon (pinS p 2) = true ∧ (pinS p 2).clamped = false) ∧
    ((∀ k < 7, (sets up [(Reg.PWR_STATUS, 0x7F)]).fld Reg.PWR_STATUS k 1 = 1) ∧ ∀ k < 7, (sets up [(Reg.PWR_STATUS, 0)]).fld Reg.PWR_STATUS k 1 ≠ 1) ∧
    (∀ role < 3, ∀ st < 4, (timeS role st 0 0).timeRole = role ∧ (timeS role st 0 0).timeState = st) ∧
    ((sets up [(Reg.THERM_STATUS, 2 ^ 32 - 1)]).clamped = true ∧ canon (sets up [(Reg.THERM_STATUS, 2 ^ 32 - 1)]) = true) := by
  refine ⟨by decide +kernel, by decide +kernel, by decide +kernel, by decide +kernel, by decide +kernel, by decide +kernel,
    by decide +kernel⟩

/-! ### Mirrors -/

/-- MIRROR_CFG of an operation, for one slab of slab 16, a region at slab `at_`, and device 1's bay 3. -/
def mirCmd (op at_ : Nat) : Cmd :=
  { cmdOf 0x31 [(0, op), (1, 1 + 3 * 2 ^ 24), (2, at_ * 65536), (4, 1), (5, 7), (6, 1), (16, 16 * 65536), (18, 1)] with adm := .granted }
def mirX (sync : Option (Nat × Nat)) (step : Nat) (failed : Option Nat) : MirSrc :=
  ⟨1, 3, 40 * 65536, 1, 7, [(16, 1)], 1, [], [], [], [], sync, step, failed⟩
def mirH (frozen : Option Nat) : MirHost := ⟨1, 3, 40 * 65536, 1, 7, [], frozen⟩
def mirO : Obj := mirObj 3 (mirCmd 1 40)

/-- Bay 3 with a mapped slab, a mirror source or host or neither, and commands. -/
def mirS (src : Option MirSrc) (host : Option MirHost) (cmds : List Cmd) : State :=
  { destS with
    cq := { destS.cq with cmds := cmds }
    mem := { destS.mem with objs := objOf 0 :: (if host.isSome then [mirO] else []) }
    flt := { destS.flt with
      mirSrc := match src with | none => [] | some x => [(3, some x)]
      mirHost := match host with | none => [] | some x => [(3, some x)] } }

theorem witness_MirrorCommands :
    (∀ op < 6, canon (mirS none none [mirCmd op 40]) = true ∧ dueB (mirS none none [mirCmd op 40]) 0x31 (mirCmd op 40) = true ∧
      (mirCmd op 40).p 0 0 3 = op ∧ (mirS none none []).mirSrc 3 = none ∧ (mirS none none []).mirHost 3 = none) ∧
    ((∀ x ∈ mirRanges (mirCmd 0 40), (mirS none none []).mirRangeOk 3 x = true) ∧
      sumOver (fun x : Nat × Nat => x.2) (mirRanges (mirCmd 0 40)) = (mirCmd 0 40).p 4 0 24) ∧
    ((mirS none none []).evt 3 7 = 0 ∧ (mirCmd 1 40).p64 2 + 2 * (mirCmd 1 40).p 4 0 24 * 65536 ≤ apertureBase ∧
      (∀ x ∈ (mirS none none []).mem.objs, x.bay = 3 → rangesOverlap x.base x.n 40 2 = false) ∧
      ¬ (∀ x ∈ (mirS none none []).mem.objs, x.bay = 3 → rangesOverlap x.base x.n 16 2 = false)) ∧
    (2 * 1 + (mirS none none []).newTables mirO ≤ sumOver (mirS none none []).usable ((mirS none none []).groups 3) / 4 ∧
      ((mirS none none []).placeAll mirO mirO.n 0).isSome = true) ∧
    (∀ op ∈ [0, 2, 4], ∀ f ∈ [none, some 5], canon (mirS (some (mirX none 0 f)) none [mirCmd op 40]) = true ∧
      dueB (mirS (some (mirX none 0 f)) none [mirCmd op 40]) 0x31 (mirCmd op 40) = true ∧
      (mirS (some (mirX none 0 f)) none []).mirSrc 3 = some (mirX none 0 f)) ∧
    (∀ op ∈ [1, 3, 5], ∀ f ∈ [none, some 5], canon (mirS none (some (mirH f)) [mirCmd op 40]) = true ∧
      dueB (mirS none (some (mirH f)) [mirCmd op 40]) 0x31 (mirCmd op 40) = true ∧
      (mirS none (some (mirH f)) []).mirHost 3 = some (mirH f)) ∧
    ((mirS none (some (mirH none)) []).mem.objs.find? (fun w => decide (w.bay = 3) && decide (w.owner = .mirror)) = some mirO) := by
  refine ⟨by decide +kernel, by decide +kernel, by decide +kernel, by decide +kernel, by decide +kernel, by decide +kernel,
    by decide +kernel⟩

/-- A SYNC that another command stops, one whose signal has been answered, and a RESTORE whose writes end, fail, or go on. -/
def syncCmd : Cmd := { mirCmd 2 40 with seq := 1, ran := true }
def stopS : State := mirS (some (mirX (some (8, 1)) 2 none)) none [mirCmd 4 40, syncCmd]
def askedS (op : Nat) (src : Option MirSrc) (host : Option MirHost) (st : FabSt) : State :=
  let s := mirS src host [{ mirCmd op 40 with ran := true }]
  { s with fab := { s.fab with reqs := [{ fabReq 2 0 st with owner := .step 8 0 }] } }

theorem witness_mirrorRuns :
    (canon stopS = true ∧ dueB stopS 0x31 (mirCmd 4 40) = true ∧ stopS.mirSrc 3 = some (mirX (some (8, 1)) 2 none) ∧
      stopS.findCmd 8 1 = some syncCmd) ∧
    (let s := askedS 2 (some (mirX (some (8, 0)) 2 none)) none (.ended St.OK 0 0 []);
      canon s = true ∧ begunB s 0x31 { mirCmd 2 40 with ran := true } = true ∧ s.flt.mirSrc = [(3, some (mirX (some (8, 0)) 2 none))]) ∧
    (∀ st ∈ [FabSt.ended St.OK 0 0 [], .ended St.LOWER_TIER_FAIL 1 2 [], .sent], canon (askedS 3 none (some (mirH (some 0))) st) = true ∧
      begunB (askedS 3 none (some (mirH (some 0))) st) 0x31 { mirCmd 3 40 with ran := true } = true ∧
      (askedS 3 none (some (mirH (some 0))) st).reqsOf (.step 8 0) = [{ fabReq 2 0 st with owner := .step 8 0 }]) ∧
    (firstFailed [{ fabReq 2 0 (.ended St.LOWER_TIER_FAIL 1 2 []) with owner := .step 8 0 }] = some (St.LOWER_TIER_FAIL, 1, 2) ∧
      firstFailed [{ fabReq 2 0 .sent with owner := .step 8 0 }] = none) ∧
    ((∀ y ∈ mirRanges (mirCmd 3 40), y.1 % 65536 = 0) ∧ sumOver (fun y : Nat × Nat => y.2) (mirRanges (mirCmd 3 40)) = 1) := by
  refine ⟨by decide +kernel, by decide +kernel, by decide +kernel, by decide +kernel, by decide +kernel⟩

/-! ### Checkpoints -/

/-- CKPT of an operation and slot: a table of n objects and a manifest at slab 16; SCHED sets a schedule or removes it. -/
def ckptCmd (op n w : Nat) : Cmd :=
  { cmdOf 0x30 [(0, op + w * 16), (1, 2 ^ 16), (2, 16 * 65536), (4, n), (5, 16 * 65536), (7, 9), (8, 7)] with adm := .granted }

/-- Bay 3, with a job key or none, and that command; the byte `x` begins its table. -/
def ckptS (key : Option (List Nat)) (c : Cmd) (x : SMap Byte) : State :=
  let s := withCmd destS c
  { s with
    mem := { s.mem with hbm := x, objs := [objOf 0, { objOf 1 with base := 32, fill := false }] }
    sec := { s.sec with keys := match key with | none => [] | some k => [(3, { BayKeys.none with jmk := some k })] } }

/-- A table of one object: slab 16, one slab, for T3 at slab 32, or for T3 at slab 16. -/
def tableBytes (t3 : Byte) : SMap Byte := [(2, 16), (8, 1), (18, t3)]

/-- The state after the table has been read, and its objects. -/
def tableS (key : Option (List Nat)) (n : Nat) (x : SMap Byte) : State × List PByte × Acc :=
  (ckptS key (ckptCmd 0 n 0) x).vaReadM (.cmd 8 0) .good 3 (16 * 65536) (32 * n)
def tableObjs (n : Nat) (x : SMap Byte) : List (Nat × Nat × Nat) := ckptObjs n ((tableS none n x).2.1.map fun y => (pbyte y).toNat)

theorem pubScalar_some {s : State} {b : Nat} (h : (s.bayKeys b).jmk.isNone = false) : s.pubScalar b ≠ none := by
  show (if (s.bayKeys b).jmk.isNone = true then none else some _) ≠ none
  rw [if_neg (fun e => Bool.false_ne_true (h.symm.trans e))]
  exact fun e => nomatch e

theorem witness_Checkpoints :
    (∀ op < 3, ∀ w < 2, canon (ckptS none (ckptCmd op 0 w) []) = true ∧ dueB (ckptS none (ckptCmd op 0 w) []) 0x30 (ckptCmd op 0 w) = true ∧
      (ckptCmd op 0 w).p 0 0 2 = op ∧ (ckptCmd op 0 w).p 0 4 1 = w) ∧
    (∀ n < 2, ∀ t3 ∈ [16, 32], (tableS none n (tableBytes t3)).2.2 = .ok ∧
      (tableS none n (tableBytes t3)).1.findCmd 8 0 = some (ckptCmd 0 n 0) ∧
      (ckptS none (ckptCmd 0 n 0) (tableBytes t3)).pubScalar 3 = none ∧
      ((ckptS (some [1]) (ckptCmd 0 n 0) (tableBytes t3)).bayKeys 3).jmk.isNone = false ∧
      (tableS (some [1]) n (tableBytes t3)).2.2 = .ok) ∧
    (tableObjs 1 (tableBytes 32) = [(16 * 65536, 1, 32 * 65536)] ∧ tableObjs 1 (tableBytes 16) = [(16 * 65536, 1, 16 * 65536)]) ∧
    (destS.flt.ckpts = [] ∧ (tableS none 1 (tableBytes 32)).1.flt.ckpts = [] ∧ (tableS (some [1]) 0 []).1.flt.ckpts = []) ∧
    (∀ t3 ∈ [16, 32], (ckptS (some [1]) (ckptCmd 0 1 0) (tableBytes (BitVec.ofNat 8 t3))).wholeT2 3 (16 * 65536) 1 = true ∧
      (ckptS (some [1]) (ckptCmd 0 1 0) []).directT3 3 (t3 * 65536) = decide (t3 = 32)) := by
  refine ⟨by decide +kernel, by decide +kernel, by decide +kernel, by decide +kernel, by decide +kernel⟩

theorem witness_checkpointKeys : (ckptS (some [1]) (ckptCmd 0 1 0) (tableBytes 32)).pubScalar 3 ≠ none ∧
    ckptLegal (ckptS (some [1]) (ckptCmd 0 1 0) (tableBytes 32)) 3 [(16 * 65536, 1, 32 * 65536)] ∧
    ¬ ckptLegal (ckptS (some [1]) (ckptCmd 0 1 0) (tableBytes 16)) 3 [(16 * 65536, 1, 16 * 65536)] ∧ unscheduled destS 3 := by
  refine ⟨pubScalar_some rfl, fun o ho => ?_, fun h => ?_, unscheduled_of rfl 3⟩
  · rw [List.mem_singleton.1 ho]
    decide +kernel
  · exact absurd (h _ (List.mem_singleton.2 rfl)) (by decide +kernel)

/-- A RESTORE that finds no manifest at slab 16, and a TAKE that has lost its run or has a run of no objects. -/
def restoreS : State := ckptS none (ckptCmd 1 0 0) []
def headR : State × List PByte × Acc := restoreS.vaReadKeep (.cmd 8 0) .good 3 (16 * 65536) 128
def restR : State × List PByte × Acc := headR.1.vaReadM (.cmd 8 0) .good 3 (16 * 65536) (manifestLen 0)
def takeS (runs : List CkptRun) : State :=
  let s := ckptS (some [1]) { ckptCmd 0 0 0 with ran := true } []
  { s with flt := { s.flt with runs := runs } }

theorem witness_restores :
    ckptRead restoreS restR.1 (ckptCmd 1 0 0) .good 0 (restR.2.1.map fun y => (pbyte y).toNat) ∧
    restR.1.ckptSigned 3 0 (restR.2.1.map fun y => (pbyte y).toNat) = false ∧
    (∀ r ∈ [[], [⟨8, 0, [], 0, [], [], true⟩]], canon (takeS r) = true ∧
      begunB (takeS r) 0x30 { ckptCmd 0 0 0 with ran := true } = true ∧ (takeS r).run? { ckptCmd 0 0 0 with ran := true } = r.head?) := by
  refine ⟨⟨⟨headR.1, headR.2.1, restR.2.1, ?_, by decide +kernel, ?_, rfl⟩, by decide +kernel⟩, by decide +kernel, by decide +kernel⟩
  · exact split3 (show headR.2.2 = .ok by decide +kernel)
  · exact split3 (show restR.2.2 = .ok by decide +kernel)

/-! ### Host links -/

/-- Host link 0 in a status, and pins that may block it. -/
def linkS (st : Nat) (p : Pins) : State := { sets bayS [(Reg.HL_STATUS 0, st)] with pins := p }

theorem witness_HostLinkAccesses :
    (∀ st < 2, ∀ p ∈ [calmP, heldP, { calmP with stopped := true }, { calmP with perst := 1 }, { calmP with noClock := 4 }, .reset],
      canon (linkS st p) = true ∧ (linkS st p).linkUp 0 = decide (st = 1)) ∧
    (bitsAt calmP.perst 0 1 = 0 ∧ bitsAt calmP.noClock 2 1 = 0 ∧ calmP.stopped = false) := by
  refine ⟨by decide +kernel, by decide +kernel⟩

theorem witness_quietLink : quietLink (linkS 1 calmP) 0 ∧ noneDirty (linkS 1 calmP) :=
  ⟨⟨fun a ha => absurd (show a ∈ [] from ha) (by simp), fun e he => absurd (show e ∈ [] from he) (by simp),
    fun e he => absurd (show e ∈ [] from he) (by simp)⟩,
    fun e he => absurd (show e ∈ [] from he) (by simp), fun e he => absurd (show e ∈ [] from he) (by simp)⟩

/-- BAR2 of link 0 as a window on slab 16 of bay 3, OPEN and in state `st`, enabled or not; line 0 poisoned or not, the object read-only
or not, the apex die restarting or not. -/
def barS (en st : Nat) (bad ro restart : Bool) : State :=
  let s := sets (memS { objOf 0 with ro := ro } (t2Slab false false) [(0, 4)])
    [(Reg.HL_STATUS 0, 1), (Reg.HL_BAR2_CFG 0, en + 3 * 2), (Reg.HL_BAR2_BASE 0, 16 * 65536), (Reg.BAY_STATE 3, st + 8)]
  { s with mem := { s.mem with poison := if bad then [(0, true)] else [] }, mgmt := { s.mgmt with restarting := restart } }

theorem bar2Open_of {s : State} {n off size : Nat} (h : (s.linkUp n && !s.pins.hold && !s.pins.booting && !s.pins.stopped &&
    !s.mgmt.restarting && decide (off + size ≤ (s.link n).bar2Size) && decide (s.fld (Reg.HL_BAR2_CFG n) 0 1 = 1) &&
    decide (s.bayState (s.fld (Reg.HL_BAR2_CFG n) 1 4) = 2) && !s.baySealed (s.fld (Reg.HL_BAR2_CFG n) 1 4)) = true) :
    bar2Open s n off size := by
  simp only [Bool.and_eq_true, Bool.not_eq_true', decide_eq_true_eq] at h
  obtain ⟨⟨⟨⟨⟨⟨⟨⟨a, b⟩, c⟩, d⟩, e⟩, f⟩, g⟩, i⟩, j⟩ := h
  exact ⟨a, ⟨b, c, d, e⟩, f, g, i, j⟩

/-- The last line of slab 16, the byte after it, and the last line of the window. -/
theorem witness_bar2 :
    (∀ bad ∈ [true, false], ∀ ro ∈ [true, false], canon (barS 1 2 bad ro false) = true ∧ poisoned (barS 1 2 bad ro false) 0 = bad ∧
      (barS 1 2 bad ro false).mirFull 3 16 = false ∧ ((barS 1 2 bad ro false).slab 3 16).zero = false ∧
      ((barS 1 2 bad ro false).slab 3 16).moving = false ∧ ({ objOf 0 with ro := ro } : Obj).readOnly .bay = ro) ∧
    (∀ off ∈ [0, 65408, 2 ^ 30 - 128], bar2Open (barS 1 2 false false false) 0 off 128) ∧
    (∀ bad ∈ [true, false], ∀ ro ∈ [true, false], inT2 (barS 1 2 bad ro false) 3 16 0 { objOf 0 with ro := ro }) ∧
    ((barS 1 2 false false false).objAt 3 17 = none ∧ (barS 1 2 false false false).fld (Reg.HL_BAR2_CFG 0) 1 4 = 3 ∧
      (barS 1 2 false false false).reg (Reg.HL_BAR2_BASE 0) = 16 * 65536) ∧
    (∀ en < 2, ∀ st ∈ [0, 2], ∀ r ∈ [true, false], canon (barS en st false false r) = true ∧
      (barS en st false false r).fld (Reg.HL_BAR2_CFG 0) 0 1 = en ∧ (barS en st false false r).bayState 3 = st) := by
  refine ⟨by decide +kernel, fun off ho => bar2Open_of ?_, fun bad hb ro hr => inT2_of ?_, by decide +kernel, by decide +kernel⟩
  · revert off; decide +kernel
  · revert bad ro; decide +kernel

/-- H0 runs CXL or not; line 5 is in a state; an entry of the eviction buffer, an access that waits, a line being flushed. -/
def ccS (active st flush : Nat) (ev : List CEvict) (ws : List CWait) (fl : List Nat) : State :=
  let s := sets up [(Reg.CC_STATUS, active + flush * 2), (Reg.CC_WIN_CFG 0, 1 + 2 ^ 12)]
  { s with hosts := { s.hosts with
      cc := if st = 0 then [] else [(5, ⟨st, List.replicate 64 7, 1⟩)], evict := ev, waits := ws, flush := fl } }
def evictOf (fwd waited : Bool) : CEvict := ⟨5, List.replicate 64 9, fwd, waited⟩

theorem witness_CoherentCache :
    (∀ a < 2, ∀ st < 4, canon (ccS a st 0 [] [] []) = true ∧ (ccS a st 0 [] [] []).ccActive = decide (a = 1) ∧
      ((ccS a st 0 [] [] []).ccLine 5).st = st ∧ (ccS a st 0 [] [] []).flushing = false) ∧
    (∀ f ∈ [true, false], ∀ w ∈ [true, false], canon (ccS 1 0 0 [evictOf f w] [] []) = true ∧
      (ccS 1 0 0 [evictOf f w] [] []).hosts.evict.find? (fun e => decide (e.line = 5)) = some (evictOf f w) ∧
      (ccS 1 0 0 [evictOf f w] [] []).hosts.evict.find? (fun e => decide (e.line = 5) && !e.fwd) = (if f then none else some (evictOf f w)) ∧
      (ccS 1 0 0 [evictOf f w] [] []).hosts.evict.find? (fun e => decide (e.line = 5) && !e.waited) = (if w then none else some (evictOf f w)) ∧
      (ccS 1 0 0 [evictOf f w] [] []).hosts.flush = [] ∧ (ccS 1 0 0 [evictOf f w] [] []).hosts.waits = []) ∧
    (∀ w ∈ [true, false], ∀ i ∈ [true, false], canon (ccS 1 0 0 [] [⟨5, 60, [1, 2, 3, 4], w, i⟩] []) = true) ∧
    (canon (ccS 1 0 1 [] [] [5]) = true ∧ (ccS 1 0 1 [] [] [5]).flushing = true ∧ ((ccS 1 0 1 [] [] [5]).ccLine 5).st = 0) ∧
    (∀ st < 4, (ccS 1 st 0 [] [] []).fld (Reg.CC_WIN_CFG 0) 0 1 = 1 ∧ (ccS 1 st 0 [] [] []).hosts.cc.length ≤ 32 ∧
      (ccS 1 st 0 [] [] []).reg (Reg.CC_WIN_BASE 0) ≤ 5 * 64 ∧ 5 * 64 < (ccS 1 st 0 [] [] []).fld (Reg.CC_WIN_CFG 0) 12 20 * 4096) := by
  refine ⟨by decide +kernel, by decide +kernel, by decide +kernel, by decide +kernel, by decide +kernel⟩

theorem witness_unbuffered : unbuffered (ccS 1 3 0 [] [] []) 5 := fun e he => absurd (show e ∈ [] from he) (by simp)

/-! ### Management -/

/-- The management island: what it runs, its power and reset, its image, and the pins of the device. -/
def islandS (m r b : Bool) (p : Pins) : State :=
  { sets up [(Reg.MI_EID, 9)] with mgmt := { up.mgmt with up := m, rom := r, loadBuf := if b then [1] else [] }, pins := p }

theorem witness_IslandAndSensors :
    (∀ a ∈ [true, false], ∀ l ∈ [true, false], ∀ b ∈ [true, false],
      canon (islandS false true b { heldP with aonLost := a, mgmtLow := l }) = true) ∧
    (∀ m ∈ [true, false], ∀ r ∈ [true, false], ∀ b ∈ [true, false], canon (islandS m r b calmP) = true ∧
      (islandS m r b calmP).epUp 0 = m ∧ (islandS m r b calmP).mgmt.rom = r) ∧
    ((islandS true false true calmP).busAddr = 0x60 ∧ (islandS true false true calmP).eid 0 ≠ 0 ∧
      (islandS true false true calmP).sensor 1 ≤ 2650) ∧
    ((islandS true false true calmP).reading 0x80 = some (islandS true false true calmP).deviceState ∧
      (islandS true false true calmP).reading 0x7F = none) ∧
    (∀ n ∈ [1, 4], ∀ ep ∈ [0, 2], canon { islandS true false true calmP with
        mgmt := { (islandS true false true calmP).mgmt with events := [⟨3, ep, 0, 1, 5, n⟩] } } = true) := by
  refine ⟨by decide +kernel, by decide +kernel, by decide +kernel, ⟨rfl, by decide +kernel⟩, by decide +kernel⟩

/-- A message of two packets that endpoint 0 is reassembling, its port in I3C or SMBus, with an alert or none. -/
def mctpS (i3c alert : Nat) (rs : List Reasm) : State :=
  let s := islandS true false true calmP
  { sets s [(Reg.MI_STATUS, i3c)] with mgmt := { s.mgmt with reasm := rs, alert := alert } }
def reasmR (seen : List Nat) (n : Nat) : Reasm := ⟨0, 7, 8, seen, List.replicate n 5⟩

theorem witness_MctpPackets :
    (∀ i < 2, ∀ a < 2, canon (mctpS i a []) = true ∧ (mctpS i a []).epUp 0 = true ∧ (mctpS i a []).inI3c 0 = decide (i = 1) ∧
      bitsAt (mctpS i a []).mgmt.alert 0 1 = a ∧ (mctpS i a []).mgmt.up = true ∧ reasmOf (mctpS i a []) 0 7 8 = none) ∧
    (∀ seen ∈ [[0], [0, 1], [3]], ∀ n ∈ [1, 64], canon (mctpS 1 0 [reasmR seen n]) = true ∧
      reasmOf (mctpS 1 0 [reasmR seen n]) 0 7 8 = some (reasmR seen n) ∧ (reasmR seen n).seen.getLast? ≠ none) ∧
    (islandS false true false calmP).epUp 0 = false ∧ (mctpS 1 0 []).eid 0 = 9 ∧ 5 ∈ mctpTypes := by
  refine ⟨by decide +kernel, by decide +kernel, by decide +kernel, by decide +kernel, by decide +kernel⟩

/-- Packets that are taken: the first of a message, and the one that follows sequence number 3. -/
theorem witness_mctpTaken : mctpTaken (mctpS 1 0 []) 0 false 7 9 8 0 true ∧ mctpTaken (mctpS 1 0 [reasmR [3] 1]) 0 false 7 0 8 0 false ∧
    mctpTaken (mctpS 1 0 []) 0 false 7 9 8 0 false := by
  have e : ∀ r ∈ (mctpS 1 0 []).mgmt.reasm, False := fun r hr => absurd (show r ∈ [] from hr) (by simp)
  refine ⟨⟨by decide +kernel, .inr (.inl (by decide +kernel)), .inr (by decide +kernel), fun r hr => (e r hr).elim⟩,
    ⟨by decide +kernel, .inr (.inl (by decide +kernel)), .inl rfl, fun r hr _ => ?_⟩,
    ⟨by decide +kernel, .inr (.inl (by decide +kernel)), .inr (by decide +kernel), fun r hr => (e r hr).elim⟩⟩
  rw [List.mem_singleton.1 (show r ∈ [reasmR [3] 1] from hr)]
  decide

/-- A device with flash slots A and B, which runs A, on an update or an activation. -/
def flashS (a b : FwSlot) (update : Nat) (restarting measured fail : Bool) (kt : Nat) : State :=
  let s := islandS true false true calmP
  { s with ktime := BitVec.ofNat 64 kt, mgmt := { s.mgmt with
      slotA := a, slotB := b, update := update, restarting := restarting, measured := measured, fwFail := fail } }
def slotOf (st tries : Nat) (signed : Bool) : FwSlot := ⟨st, tries, 1, 0, signed, [1, 2]⟩

theorem witness_FirmwareActivation :
    (∀ u < 4, canon (flashS (slotOf 2 0 true) (slotOf 0 0 false) u false false false 0) = true ∧
      (flashS (slotOf 2 0 true) (slotOf 0 0 false) u false false false 0).updatable 0 = true ∧
      (flashS (slotOf 2 0 true) (slotOf 0 0 false) u false false false 0).mgmt.update = u) ∧
    (flashS (slotOf 2 0 true) (slotOf 0 0 false) 0 true false false 0).updatable 0 = false ∧
    (∀ st < 3, ∀ tries < 2, canon (flashS (slotOf 2 0 true) (slotOf st tries true) 0 false false false 0) = true ∧
      (flashS (slotOf 2 0 true) (slotOf st tries true) 0 false false false 0).apexUp = true ∧
      (flashS (slotOf 2 0 true) (slotOf st tries true) 0 false false false 0).runSlot = 0) ∧
    (∀ m ∈ [true, false], ∀ f ∈ [true, false], ∀ ok ∈ [true, false], ∀ kt ∈ [0, 300000000],
      canon (flashS (slotOf 2 0 true) (slotOf 1 0 ok) 0 true m f kt) = true ∧
      (flashS (slotOf 2 0 true) (slotOf 1 0 ok) 0 true m f kt).accepts (slotOf 1 0 ok) = ok ∧
      decide (300000000 ≤ (flashS (slotOf 2 0 true) (slotOf 1 0 ok) 0 true m f kt).now) = decide (kt ≠ 0)) ∧
    (let s := flashS (slotOf 1 1 true) (slotOf 2 0 true) 0 false false false 600000000000;
      canon s = true ∧ (s.slot s.runSlot).st = fwTrial ∧ s.deviceFault = false ∧ s.apexUp = true ∧
      s.mgmt.trialAt + s.fld Reg.FW_TRIAL_S 0 16 * 1000000000 ≤ s.now) := by
  refine ⟨by decide +kernel, by decide +kernel, by decide +kernel, by decide +kernel, by decide +kernel⟩

theorem witness_pldmNew : pldmNew (flashS (slotOf 2 0 true) (slotOf 1 1 true) 0 false false false 0) 0 7 5 0 ∧
    pldmNew (flashS (slotOf 2 0 true) (slotOf 1 1 true) 0 false false false 0) 0 7 2 0 :=
  ⟨⟨by decide +kernel, rfl, fun k hk => absurd (show k ∈ [] from hk) (by simp)⟩,
    by decide +kernel, rfl, fun k hk => absurd (show k ∈ [] from hk) (by simp)⟩

/-- A management command of endpoint 2, host link 0, and of endpoint 0. -/
def hdrOf (ep : Nat) (version : Nat) : MgmtHdr := ⟨BitVec.ofNat 2 ep, 7, BitVec.ofNat 8 version, 3, none⟩

/-- A device whose island answers, bay 3 in state `st`, port 0 in state `port`; its flash slot A in state `slot`. -/
def mgmtS (st port slot : Nat) (rom restart : Bool) (kept : List Kept) : State :=
  let s := sets bayS [(Reg.HL_STATUS 0, 1), (Reg.BAY_STATE 3, st), (Reg.PORT_STATUS 20 0, port), (Reg.SLOT 20 0 5, 2 ^ 16 + 7),
    (Reg.BAY_SEC 3, 7 * 2 ^ 16)]
  { s with mgmt := { s.mgmt with rom := rom, restarting := restart, cmds := kept, slotA := ⟨slot, 0, 1, 3, true, []⟩ } }
def keptOf : Kept := ⟨2, 7, 3, .mgmt 2 7 1 0 [], 0⟩

theorem mgmtNew_of {s : State} {h : MgmtHdr} (e : (s.epUp h.ep.toNat && !s.mgmt.rom && decide (s.mgmt.cmds = [])) = true) : mgmtNew s h := by
  simp only [Bool.and_eq_true, Bool.not_eq_true', decide_eq_true_eq] at e
  obtain ⟨⟨a, b⟩, c⟩ := e
  exact ⟨a, b, fun k hk => absurd (c ▸ hk) (by simp)⟩

theorem witness_ManagementCommandSet :
    (∀ rom ∈ [true, false], ∀ r ∈ [true, false], ∀ k ∈ [[], [keptOf]], canon (mgmtS 2 0 2 rom r k) = true ∧
      (mgmtS 2 0 2 rom r k).epUp 2 = true ∧ (mgmtS 2 0 2 rom r k).mgmt.rom = rom ∧ (mgmtS 2 0 2 rom r k).apexUp = !r) ∧
    ((mgmtS 2 0 2 false false []).authorised (hdrOf 2 1) = true ∧ (mgmtS 2 0 2 false false []).authorised (hdrOf 0 1) = false ∧
      up.epUp 2 = false) ∧
    ((mgmtS 2 0 2 false false [keptOf]).mgmt.cmds.find? (fun k => decide (k.ep = (hdrOf 2 1).ep.toNat) &&
      decide (k.src = (hdrOf 2 1).src.toNat) && decide (k.key = (hdrOf 2 1).reqId.toNat)) = some keptOf) ∧
    (∀ st < 6, canon (mgmtS st 0 2 false false []) = true ∧ (mgmtS st 0 2 false false []).anyBayUp = decide (st = 1 ∨ st = 2) ∧
      (mgmtS st 0 2 false false []).bayState 3 = st) ∧
    (∀ port < 8, canon (mgmtS 2 port 2 false false []) = true ∧ (mgmtS 2 port 2 false false []).portsDown = decide (port = 0) ∧
      (mgmtS 2 port 2 false false []).portUp 0 = true ∧ (mgmtS 2 port 2 false false []).portUp 6 = false) ∧
    ((mgmtS 2 0 2 false false []).fld (Reg.SLOT 20 0 5) 16 1 = 1 ∧ (mgmtS 2 0 2 false false []).bayJob 3 = 7 ∧
      (mgmtS 2 0 2 false false []).fld (Reg.SLOT 20 0 5) 0 16 = 7 ∧ (mgmtS 2 0 2 false false []).fld (Reg.SLOT 20 0 6) 16 1 = 0) ∧
    (∀ slot ∈ [1, 2], canon (mgmtS 2 0 slot false false []) = true ∧
      ((mgmtS 2 0 slot false false []).slot (mgmtS 2 0 slot false false []).runSlot).st = slot ∧
      (mgmtS 2 0 slot false false []).mgmt.svnMin = 0 ∧ (mgmtS 2 0 slot false false []).mgmt.slotB.st = 0 ∧
      (mgmtS 2 0 slot false false []).mgmt.slotA.svn = 3) ∧
    ((mgmtS 2 0 2 false false []).dieState 0 = dieOn ∧ (mgmtS 2 0 2 false false []).sec.scrub = false) := by
  refine ⟨by decide +kernel, by decide +kernel, by decide +kernel, by decide +kernel, by decide +kernel, by decide +kernel,
    by decide +kernel, by decide +kernel⟩

theorem witness_mgmtRuns : mgmtRuns (mgmtS 2 0 2 false false []) (hdrOf 2 1) 0x32 true ∧ mgmtNew (mgmtS 2 0 2 false false []) (hdrOf 2 2) ∧
    mgmtNew (mgmtS 2 0 2 false true []) (hdrOf 2 1) ∧ mgmtNew (mgmtS 2 0 2 false false []) (hdrOf 0 1) ∧
    mayPower (powS 1 2 0) (.link 0) 1 1 ∧ ¬ mayPower (powS 0 2 0) (.link 0) 0 1 := by
  refine ⟨{ mgmtNew_of (by decide +kernel) with version := rfl, authority := .inr (by decide +kernel), die := fun _ => by decide +kernel },
    mgmtNew_of (by decide +kernel), mgmtNew_of (by decide +kernel), mgmtNew_of (by decide +kernel),
    ⟨by decide +kernel, .inl (by decide), fun l _ => by decide +kernel⟩, fun h => absurd (h.2.2 0 rfl) (by decide +kernel)⟩

/-! ### Registers and the mesh -/

/-- Host link 0 up, with nothing held, a low half of a write or the high half of a read; queue 8 of bay 3 DISABLED. -/
def accessS (st : Nat) (l : HostLink) : State :=
  let s := sets (queueS 0) [(Reg.HL_STATUS 0, st)]
  { s with hosts := { s.hosts with h0 := l } }
def freeL : HostLink := HostLink.reset

theorem linkFree_of {s : State} {n : Nat} (h : (s.linkUp n && decide ((s.link n).held = none)) = true) : linkFree s n := by
  simp only [Bool.and_eq_true, decide_eq_true_eq] at h
  exact ⟨h.1, h.2⟩

/-- Offsets that hold no register: in the identification page, in the gap above the edge dies, and the last of BAR0. -/
theorem witness_UnassignedOffsets :
    (∀ st < 2, canon (accessS st freeL) = true ∧ (accessS st freeL).barUp = true ∧ (accessS st freeL).linkUp 0 = decide (st = 1)) ∧
    linkFree (accessS 1 freeL) 0 ∧ mayAccess (accessS 1 freeL) (.link 0) ∧ mayAccess (accessS 1 freeL) .firmware ∧
    (∀ a ∈ [0x3FF0, 0x1400000, 0x3FFFFF8], findReg a = none ∧ findReg (a + 4) = none ∧ (accessS 1 freeL).serves a = true ∧
      (accessS 1 freeL).serves (a + 4) = true) := by
  refine ⟨by decide +kernel, linkFree_of (by decide +kernel), ⟨by decide +kernel, fun n h => ?_⟩, ⟨by decide +kernel, fun n h => ?_⟩,
    by decide +kernel⟩
  · injection h with h
    exact linkFree_of (h ▸ by decide +kernel)
  · exact nomatch h

/-- Rows of the register tables, one of each access code. -/
def rowRw : RegRow := ⟨.apex, "CMD_DEP_SCAN", 0x240004, 0x0, 1, 0x0, 1, 32, .rw, 0xFFFF, 0x64⟩
def rowRwl : RegRow := ⟨.apex, "Q_CFG", 0x200000, 0x200, 512, 0x0, 1, 32, .rwl, 0x1FFFFF, 0x0⟩
def rowW1c : RegRow := ⟨.apex, "TAMPER_STATUS", 0x100400, 0x0, 1, 0x0, 1, 32, .w1c, 0xF, 0x0⟩
def rowRc : RegRow := ⟨.all, "MESH_STALE_CNT", 0x2000, 0x0, 1, 0x0, 1, 32, .rc, 0x0, 0x0⟩
def rowWide : RegRow := ⟨.apex, "JNL_MIRROR_BASE", 0x300010, 0x0, 1, 0x0, 1, 64, .rw, 0xFFFFFFFFFFE00000, 0x0⟩

theorem witness_findRegs : findReg 0x240004 = some (24, rowRw, 0x240004) ∧ findReg 0x201000 = some (24, rowRwl, 0x201000) ∧
    findReg 0x100400 = some (24, rowW1c, 0x100400) ∧ findReg 0x2000 = some (24, rowRc, 0x2000) ∧
    findReg 0x300010 = some (24, rowWide, 0x300010) ∧ findReg 0x300014 = some (24, rowWide, 0x300010) := by
  refine ⟨by decide +kernel, by decide +kernel, by decide +kernel, by decide +kernel, by decide +kernel, by decide +kernel⟩

theorem witness_RegisterAccesses :
    (∀ v < 2, plainReg (accessS 1 freeL) (.link 0) 0x240004 24 rowRw v) ∧ plainReg (accessS 1 freeL) .firmware 0x201000 24 rowRwl 1 ∧
    plainReg (accessS 1 freeL) (.link 0) 0x100400 24 rowW1c 15 ∧
    (∀ v ∈ [0, 0xFFFFFFFFFFE00000], plainReg (accessS 1 freeL) (.link 0) 0x300010 24 rowWide v) ∧
    (∀ a ∈ [0x240004, 0x2000, 0x300010, 0x300014], (accessS 1 freeL).serves a = true) ∧
    (accessS 1 freeL).withheld 24 rowRc = false ∧ sealedOwner (accessS 1 freeL) 0x201000 24 rowRwl ∧
    ((accessS 1 freeL).serves 0x2105000 = false ∧ up.barUp = true ∧ State.reset.barUp = false) ∧
    ∀ l ∈ [freeL, { freeL with latch := some (0x300010, 5) }, { freeL with held := some (0x300010, 2 ^ 32 - 1) }],
      canon (accessS 1 l) = true ∧ (accessS 1 l).link 0 = l := by
  refine ⟨fun v hv => ⟨witness_findRegs.1, by decide +kernel, fun u => rfl, rfl⟩,
    ⟨witness_findRegs.2.1, by decide +kernel, fun u => rfl, by decide +kernel⟩,
    ⟨witness_findRegs.2.2.1, by decide +kernel, fun u => rfl, rfl⟩,
    fun v hv => ⟨witness_findRegs.2.2.2.2.1, by decide +kernel, fun u => rfl, rfl⟩, by decide +kernel, by decide +kernel,
    ⟨3, by decide +kernel, by decide +kernel⟩, by decide +kernel, by decide +kernel⟩

/-- A packet from die 1 to die 0 under an incarnation of the destination, and one of its answer. -/
def meshP (inc age : Nat) : MeshPkt := ⟨1, 0, 6, 0, BitVec.ofNat 8 inc, none, age⟩
def meshQ : MeshPkt := ⟨0, 1, 6, 0, 0, none, 0⟩
def meshS (st : Nat) (rs : List MeshPkt) (late : Bool) : State :=
  let s := bayS.setDieState 0 st
  { s with mesh := { s.mesh with reqs := rs }, flt := { s.flt with lateDue := if late then [.drain 0] else [] } }

theorem witness_MeshRequests : ∀ st < 5, canon (meshS st [] false) = true ∧ (meshS st [] false).dieState 0 = st ∧
    (meshS st [] false).routerCopy 0 0 = (meshP 0 0).dstInc.toNat ∧ (meshS st [] false).routerCopy 0 0 ≠ (meshP 1 0).dstInc.toNat := by
  decide +kernel

theorem witness_MeshTraffic :
    (∀ l ∈ [true, false], canon (meshS 4 [] l) = true ∧ decide (LateKey.drain 0 ∈ (meshS 4 [] l).flt.lateDue) = l ∧
      (meshS 4 [] l).dieState 0 = dieDrained) ∧
    (∀ rs ∈ [[], [meshQ]], canon (meshS 2 rs false) = true ∧ (meshS 2 rs false).routerCopy 0 1 = 0 ∧
      (meshS 2 rs false).mesh.reqs.find? (fun x => decide (x.src = (meshP 0 0).dst) && decide (x.dst = (meshP 0 0).src) &&
        decide (x.id = (meshP 0 0).id)) = rs.head?) ∧
    ((meshS 2 [] false).incarn 1 = 0 ∧ (meshS 2 [] false).routerCopy 5 1 = 0 ∧
      ((meshS 2 [] false).bumpIncarn 1).incarn 1 = 1 ∧ canon ((meshS 2 [] false).bumpIncarn 1) = true) := by
  refine ⟨by decide +kernel, by decide +kernel, by decide +kernel⟩

/-- The canonical form holds at reset and after the boot, with commands waiting or not. -/
theorem witness_StepsKeepCanonical : ∀ w ∈ [[], [Instr.ppsEdge]], { up with pending := w }.Canonical := fun w hw =>
  canon_sound (by revert w; decide +kernel)

/-! ### Ill-formed commands are refused, and commands at the edge are not -/

def longPkt : List Byte := List.replicate 4148 0
def shortPkt : List Byte := List.replicate 44 0

theorem test_wf_accesses :
    Instr.wf (.registerWrite .firmware 8 8 0) = true ∧ Instr.wf (.registerWrite .firmware 8 2 0) = false ∧
    Instr.wf (.registerWrite .firmware 4 8 0) = false ∧ Instr.wf (.registerReadClear 0 4 4) = true ∧
    Instr.wf (.registerReadClear 0 4 16) = false ∧ Instr.wf (.registerReadClear 0 2 4) = false := by decide +kernel

theorem test_wf_clocks : Instr.wf (.engineClockChange 0 2100) = true ∧ Instr.wf (.engineClockChange 0 2150) = false ∧
    Instr.wf (.engineClockChange 0 1150) = false ∧ Instr.wf (.engineClockChange 0 1925) = false := by decide +kernel

theorem test_wf_requests :
    Instr.wf (.loftRequest 0 none 63 1 none .good) = true ∧ Instr.wf (.loftRequest 0 none 63 2 none .good) = false ∧
    Instr.wf (.loftRequest 0 none 0 0 none .good) = false ∧ Instr.wf (.loftRequest 0 none 0 2 (some [some 0]) .good) = false ∧
    Instr.wf (.hbmRequest 0 127 1 none .good) = true ∧ Instr.wf (.hbmRequest 0 127 2 none .good) = false ∧
    Instr.wf (.hbmRequest 0 0 0 none .good) = false ∧ Instr.wf (.hbmRequest 0 0 2 (some [some 0]) .good) = false := by decide +kernel

theorem test_wf_blocks :
    Instr.wf (.ringReadComplete 0 (List.replicate 128 0) 0) = true ∧ Instr.wf (.ringReadComplete 0 (List.replicate 144 0) 0) = false ∧
    Instr.wf (.ringReadComplete 0 [0] 0) = false ∧ Instr.wf (.stagingLanding 0 0 [1]) = true ∧ Instr.wf (.stagingLanding 0 0 []) = false ∧
    Instr.wf (.stagingLanding 0 0 (List.replicate 4097 0)) = false ∧ Instr.wf (.t3Response 0 0 65535 false [some 0] false false 0) = true ∧
    Instr.wf (.t3Response 0 0 65535 false [some 0, some 0] false false 0) = false ∧
    Instr.wf (.t3Response 0 0 0 false [] false false 0) = false ∧ Instr.wf (.t3Response 0 0 0 true [some 0] false false 0) = false := by
  decide +kernel

theorem test_wf_packets : ∀ bs ∈ [longPkt, shortPkt, List.replicate 50 0], Instr.wf (.collReady 0 bs) = false ∧
    Instr.wf (.collData 0 bs false .good .good) = false ∧ Instr.wf (.collDone 0 bs) = false ∧ Instr.wf (.collAbort 0 bs) = false ∧
    Instr.wf (.packetReceive 0 bs) = false ∧ Instr.wf (.remoteRequest 0 bs false .good) = false ∧
    Instr.wf (.remoteResponse 0 bs) = false := by decide +kernel

theorem test_wf_packetTaken : packetOk (List.replicate 4144 0) = true ∧ packetOk (List.replicate 48 0) = true := by decide +kernel

theorem test_wf_host :
    Instr.wf (.bar2Access 0 0 1 (some [0]) .good) = true ∧ Instr.wf (.bar2Access 0 0 2 (some [0]) .good) = false ∧
    Instr.wf (.bar2Access 0 0 0 none .good) = false ∧ Instr.wf (.mctpPacket 0 true 0 0 0 0 true true []) = false ∧
    Instr.wf (.h2dGo 0 [] true) = true ∧ Instr.wf (.h2dGo 0 [0] true) = false ∧
    Instr.wf (.sensorRefresh 0 0 0 (List.replicate 25 0) (List.replicate 8 0)) = true ∧
    Instr.wf (.sensorRefresh 0 0 0 (List.replicate 24 0) (List.replicate 8 0)) = false ∧
    Instr.wf (.sensorRefresh 0 0 0 (List.replicate 25 0) (List.replicate 9 0)) = false := by decide +kernel

/-! ### Examples that the spec computes -/

/-- 01, under R36: the block of physical engine 50 of C07. -/
theorem test_engineBlock : engBlock 7 50 = 0x27B2000 := by decide

/-- 03, Table 03-11: 448 × 448 and 2^-9 × 2^-9 in the window of base -48, their cancelled sum, and its FP32 value; and the FP32
sum of 200,704 and 2^-18. -/
theorem test_exactDotProduct :
    (exaTerm ((e4m3.decode 0x7E).mul (e4m3.decode 0x7E)) (-48)).1 = some (0x31000 * 2 ^ 48) ∧
    (exaTerm ((e4m3.decode 0xFE).mul (e4m3.decode 0x7E)) (-48)).1 = some (-(0x31000 * 2 ^ 48)) ∧
    (exaTerm ((e4m3.decode 0x01).mul (e4m3.decode 0x01)) (-48)) = (some 0x40000000, false) ∧
    exaBits (exaAdd (some (0x31000 * 2 ^ 48 + 0x40000000)) (some (-(0x31000 * 2 ^ 48) + 0x40000000))) = 0x80000000 ∧
    exaEncode 0 .rne false (exaNum (some 0x80000000) (-48) (.fin false 1 0) (.fin false 1 0)) = 0x37000000 ∧
    fp32.decode (fp32.addOp .rne 0x48440000 0x36800000) = fp32.decode 0x48440000 := by decide +kernel

/-- 03, Tables 03-12 and 03-13: the K-16 column under two window bases. -/
theorem test_windowBases :
    exaTerm (.fin false 9 (-20)) (-18) = (some 2, true) ∧ exaTerm (.fin false 9 (-20)) (-20) = (some 9, false) ∧
    exaTerm (.fin false 36 0) (-18) = (some 9437184, false) ∧
    exaEncode 0 .rne false (exaNum (some 37748744) (-18) (.fin false 1 (-1)) (.fin false 4 0)) = 0x43900002 := by decide +kernel

/-- 11: BF16 under SR with 16 bits rounds 1 + 2^-9 up when the draw is at least 49,152. -/
theorem test_stochasticRounding :
    bf16.round (.sr 16 49151) false (fp32.decode 0x3F804000) = 0x3F80 ∧ bf16.round (.sr 16 49152) false (fp32.decode 0x3F804000) = 0x3F81 := by
  decide +kernel

/-- 09: 80 layers, 8 groups, E4M3, ROW_ELEMS 128: ROW_STRIDE 128, PB 2,048, BLOCK_SLABS 43. -/
theorem test_kvPool : let s := sets up [(Reg.KVP_CFG0 3 0, 1 + 79 * 2 + 7 * 2 ^ 9 + 3 * 2 ^ 15 + 3 * 2 ^ 19 + 2 ^ 25), (Reg.KVP_CFG1 3 0, 128)];
    (s.poolOf 3 0).stride = 128 ∧ (s.poolOf 3 0).pb = 2048 ∧ (s.poolOf 3 0).slabs = 43 := by decide +kernel

end Sys2Proof.Tests
end

section
/-! Accesses of the control space that meet no register (R6): what a host link's latch and held half leave unchanged, what an
access does for a link that holds no half, and what each width of access does at an offset without a register. -/

namespace Sys2Proof.Machine

open Claims

section Lemmas

variable {s : State}

/-! ### The halves that a host link holds -/

@[simp] theorem State.setLink_serves (s : State) (n : Nat) (l : HostLink) (a : Nat) : (s.setLink n l).serves a = s.serves a := rfl

@[simp] theorem State.dropLatch_serves (s : State) (n a : Nat) : (s.dropLatch n).serves a = s.serves a :=
  s.setLink_serves n _ a

@[simp] theorem State.link_setLink_same (s : State) (n : Nat) (l : HostLink) : (s.setLink n l).link n = l := by
  by_cases h : n = 0 <;> simp [State.link, State.setLink, h]

theorem State.dropLatch_held (s : State) (n : Nat) : ((s.dropLatch n).link n).held = (s.link n).held := by
  simp [State.dropLatch]

theorem State.applyHeld_of_held_none {n : Nat} (h : (s.link n).held = none) : s.applyHeld n = s := by
  simp [State.applyHeld, h]

theorem State.joined_of_held_none {n : Nat} (h : (s.link n).held = none) (a size v : Nat) : s.joined n a size v = none := by
  simp [State.joined, h]

theorem State.onlyHalves_refl (s : State) : onlyHalves s s := rfl

theorem State.setLink_onlyHalves (s : State) (n : Nat) (l : HostLink) : onlyHalves (s.setLink n l) s := by
  by_cases h : n = 0 <;> simp [onlyHalves, State.setLink, State.onHosts, h]

theorem State.dropLatch_onlyHalves (s : State) (n : Nat) : onlyHalves (s.dropLatch n) s := s.setLink_onlyHalves n _

/-! ### Accesses while no half of a write is held -/

/-- The state that a write by `by_` finds: a link's own access ends its latch (R37). -/
def State.unlatched (s : State) : Agent → State
  | .firmware => s
  | .link n => s.dropLatch n.val

theorem State.unlatched_onlyHalves (s : State) (by_ : Agent) : onlyHalves (s.unlatched by_) s := by
  cases by_ with
  | firmware => exact s.onlyHalves_refl
  | link n => exact s.dropLatch_onlyHalves n.val

/-- A naturally aligned write of 32 or 64 bits; any other has no effect (R37). -/
def State.writeAligned (s : State) (by_ : Agent) (a size v : Nat) : State :=
  if size = 4 ∧ a % 4 = 0 then s.write32 by_ a (v % 2 ^ 32)
  else if size = 8 ∧ a % 8 = 0 then s.write64 by_ a v
  else s

/-- A naturally aligned read of 32 or 64 bits; any other gives all ones (R37). -/
def State.readAligned (s : State) (n : Nat) (latch : Option (Nat × Nat)) (a size : Nat) : Nat × State :=
  if size = 4 ∧ a % 4 = 0 then s.read32 n latch a
  else if size = 8 ∧ a % 8 = 0 then s.read64 n a
  else (allOnes32, s)

theorem State.writeAligned_four {a : Nat} (ha : a % 4 = 0) (s : State) (by_ : Agent) (v : Nat) :
    s.writeAligned by_ a 4 v = s.write32 by_ a (v % 2 ^ 32) := by
  simp [State.writeAligned, ha]

theorem State.writeAligned_eight {a : Nat} (ha : a % 8 = 0) (s : State) (by_ : Agent) (v : Nat) :
    s.writeAligned by_ a 8 v = s.write64 by_ a v := by
  simp [State.writeAligned, ha]

theorem State.readAligned_four {a : Nat} (ha : a % 4 = 0) (s : State) (n : Nat) (latch : Option (Nat × Nat)) :
    s.readAligned n latch a 4 = s.read32 n latch a := by
  simp [State.readAligned, ha]

theorem State.readAligned_eight {a : Nat} (ha : a % 8 = 0) (s : State) (n : Nat) (latch : Option (Nat × Nat)) :
    s.readAligned n latch a 8 = s.read64 n a := by
  simp [State.readAligned, ha]

/-- The completion of a read by link n, after what the access itself does. -/
def State.answerRead (n a size : Nat) (r : Nat × State) : State := r.2.emit (.readData n a size r.1)

theorem State.barWrite_of_mayAccess {by_ : Agent} (h : mayAccess s by_) (a size v : Nat) :
    s.barWrite by_ a size v = (s.unlatched by_).writeAligned by_ a size v := by
  cases by_ with
  | firmware => simp [State.barWrite, State.unlatched, State.writeAligned, h.awake]
  | link n =>
    obtain ⟨hup, hheld⟩ := h.link n rfl
    rw [← s.dropLatch_held] at hheld
    simp [State.barWrite, State.unlatched, State.writeAligned, h.awake, hup, State.joined_of_held_none hheld,
      State.applyHeld_of_held_none hheld]

theorem State.barRead_of_linkFree {n : Nat} (hup : s.barUp = true) (h : linkFree s n) (a size : Nat) :
    s.barRead n a size = State.answerRead n a size ((s.dropLatch n).readAligned n (s.link n).latch a size) := by
  have hheld := (s.dropLatch_held n).trans h.held
  simp [State.barRead, State.answerRead, State.readAligned, hup, h.up, State.applyHeld_of_held_none hheld]

/-! ### Offsets without a register -/

theorem State.write32_of_no_register {a : Nat} (h : findReg a = none) (s : State) (by_ : Agent) (v : Nat) :
    s.write32 by_ a v = s := by
  simp [State.write32, h]

theorem State.write64_of_no_register {a : Nat} (h : findReg a = none) (h4 : findReg (a + 4) = none) (s : State) (by_ : Agent)
    (v : Nat) : s.write64 by_ a v = s := by
  simp [State.write64, h, State.write32_of_no_register h, State.write32_of_no_register h4]

theorem State.read32_of_no_register {a : Nat} (h : findReg a = none) (hs : s.serves a = true) (n : Nat)
    (latch : Option (Nat × Nat)) : s.read32 n latch a = (0, s) := by
  simp [State.read32, h, hs]

theorem State.read64_of_no_register {a : Nat} (h : findReg a = none) (h4 : findReg (a + 4) = none) (hs : s.serves a = true)
    (hs4 : s.serves (a + 4) = true) (n : Nat) : s.read64 n a = (0, s) := by
  simp [State.read64, State.read64At, State.readTwo, readHigh, addHigh, h, State.read32_of_no_register h hs,
    State.read32_of_no_register h4 hs4]

/-! ### The commands REGISTER_WRITE and REGISTER_READ_CLEAR -/

theorem exec_registerWrite (by_ : Agent) (addr : BitVec 26) (size : Nat) (data : W64) (s : State) :
    exec (.registerWrite by_ addr size data) s = .next (s.barWrite by_ addr.toNat size data.toNat) := rfl

theorem exec_registerReadClear (link : LinkId) (addr : BitVec 26) (size : Nat) (s : State) :
    exec (.registerReadClear link addr size) s = .next (s.barRead link.val addr.toNat size) := rfl

/-- A write that changes nothing itself leaves all but what the host links hold. -/
theorem registerWrite_of_no_effect {by_ : Agent} {addr : BitVec 26} {size : Nat} {data : W64} (h : mayAccess s by_)
    (hw : (s.unlatched by_).writeAligned by_ addr.toNat size data.toNat = s.unlatched by_) :
    completes s (.registerWrite by_ addr size data) fun t => onlyHalves t s :=
  ⟨s.unlatched by_, by rw [exec_registerWrite, State.barWrite_of_mayAccess h, hw], s.unlatched_onlyHalves by_⟩

/-- A read that finds `v` and changes nothing itself gives `v`, and leaves all but what the host links hold. -/
theorem registerReadClear_of_no_effect {link : LinkId} {addr : BitVec 26} {size v : Nat} (hup : s.barUp = true)
    (h : linkFree s link.val)
    (hr : (s.dropLatch link.val).readAligned link.val (s.link link.val).latch addr.toNat size = (v, s.dropLatch link.val)) :
    readGives s link addr size v fun t => onlyHalves { t with out := s.out } s :=
  ⟨State.answerRead link.val addr.toNat size (v, s.dropLatch link.val),
    by rw [exec_registerReadClear, State.barRead_of_linkFree hup h, hr], rfl, s.dropLatch_onlyHalves link.val⟩

end Lemmas

/-- Settles O54: at either width the access finds no register, so a read finds 0 and a write changes nothing; what remains of it
is the end of its own link's latch. -/
theorem unassignedOffsets : Obligations.UnassignedOffsets := by
  intro s link by_ addr data _ hup hlink a
  constructor
  · intro ha hnone hs
    constructor
    · refine registerReadClear_of_no_effect hup hlink ?_
      rw [State.readAligned_four ha, State.read32_of_no_register hnone ((s.dropLatch_serves _ a).trans hs)]
    · refine fun hmay => registerWrite_of_no_effect hmay ?_
      rw [State.writeAligned_four ha, State.write32_of_no_register hnone]
  · intro ha hnone hnone4 hs hs4
    constructor
    · refine registerReadClear_of_no_effect hup hlink ?_
      rw [State.readAligned_eight ha, State.read64_of_no_register hnone hnone4 ((s.dropLatch_serves _ a).trans hs)
        ((s.dropLatch_serves _ (a + 4)).trans hs4)]
    · refine fun hmay => registerWrite_of_no_effect hmay ?_
      rw [State.writeAligned_eight ha, State.write64_of_no_register hnone hnone4]

end Sys2Proof.Machine
end

section
/-! Requests on the mesh (R32): how the state of a die decides the answer to a request, and what MESH_REQUEST does for each answer. -/

namespace Sys2Proof.Machine

open Claims

section Lemmas

variable {s : State}

/-! ### The answer by the die's state -/

/-- The state by which the router of die d answers: a restarting management island answers as the apex die in reset. -/
def State.answerState (s : State) (d : Nat) : Nat := if d = 24 ∧ s.mgmt.restarting = true then dieInReset else s.dieState d

theorem State.dieRefuses_eq (s : State) (d : Nat) :
    s.dieRefuses d = if s.answerState d = dieOn then none
      else if s.answerState d = dieInReset then some St.TARGET_RESET else some St.DOMAIN_CLOSED := by
  unfold State.dieRefuses State.answerState
  by_cases hr : d = 24 ∧ s.mgmt.restarting = true
  · simp [hr, dieInReset, dieOn]
  · simp [hr]

theorem State.dieRefuses_of_on {d : Nat} (h : s.answerState d = dieOn) : s.dieRefuses d = none := by
  rw [State.dieRefuses_eq, if_pos h]

theorem State.dieRefuses_of_inReset {d : Nat} (h : s.answerState d = dieInReset) : s.dieRefuses d = some St.TARGET_RESET := by
  simp [State.dieRefuses_eq, h, dieInReset, dieOn]

theorem State.dieRefuses_of_closed {d : Nat} (hon : s.answerState d ≠ dieOn) (hreset : s.answerState d ≠ dieInReset) :
    s.dieRefuses d = some St.DOMAIN_CLOSED := by
  rw [State.dieRefuses_eq, if_neg hon, if_neg hreset]

/-! ### The router's verdict and the command MESH_REQUEST -/

theorem State.meshVerdict_of_other_incarnation {p : MeshPkt} (h : p.dstInc.toNat ≠ s.routerCopy p.dst.val p.dst.val) :
    s.meshVerdict p = some St.TARGET_RESET := if_pos h

theorem State.meshVerdict_of_current_incarnation {p : MeshPkt} (h : p.dstInc.toNat = s.routerCopy p.dst.val p.dst.val) :
    s.meshVerdict p = s.dieRefuses p.dst.val := if_neg (not_not_intro h)

theorem exec_meshRequest_of_refused {p : MeshPkt} {st : Nat} (h : s.meshVerdict p = some st) :
    exec (.meshRequest p) s = .next (s.emit (.meshEnd p.src.val p.id st)) := by
  change Host.Outcome.next (s.meshRequest p) = _
  rw [State.meshRequest, h]

theorem exec_meshRequest_of_served {p : MeshPkt} (h : s.meshVerdict p = none) :
    exec (.meshRequest p) s =
      .next ((s.onMesh fun m => { m with reqs := m.reqs ++ [p] }).emit (.meshDeliver p.dst.val p.id)) := by
  change Host.Outcome.next (s.meshRequest p) = _
  rw [State.meshRequest, h]

end Lemmas

/-- Settles O56: the verdict compares incarnations before it looks at the state, and a current request is answered by the state. -/
theorem meshRequests : Obligations.MeshRequests := by
  intro s p _
  refine ⟨fun hother => ?_, fun hcur hon => ?_, fun hcur hreset => ?_, fun hcur hon hreset => ?_⟩
  · exact exec_meshRequest_of_refused (State.meshVerdict_of_other_incarnation hother)
  · have hserved := (State.meshVerdict_of_current_incarnation hcur).trans (State.dieRefuses_of_on hon)
    exact ⟨_, exec_meshRequest_of_served hserved, rfl⟩
  · exact exec_meshRequest_of_refused
      ((State.meshVerdict_of_current_incarnation hcur).trans (State.dieRefuses_of_inReset hreset))
  · exact exec_meshRequest_of_refused
      ((State.meshVerdict_of_current_incarnation hcur).trans (State.dieRefuses_of_closed hon hreset))

end Sys2Proof.Machine
end

section
/-! The random lane (R64, R65, R160): how a slot operation issues in CHECK mode, and what a claim of the lane does when it meets
an earlier consumer's cycles and when it meets none. -/

namespace Sys2Proof.Machine

open Claims

section Lemmas

variable {s : State} {r : EngRef} {e e1 : Engine} {c : Cur} {x : Run} {a b : Nat}

/-! ### The running program and the stores of an engine -/

theorem sameStores_refl (e : Engine) : sameStores e e := by constructor <;> rfl

theorem withRun_sameStores (h : sameStores e e1) (f : Run → Run) : sameStores (e.withRun f) e1 := { h with }

theorem fail_sameStores (h : sameStores e e1) (f : Failure) : sameStores (e.fail f) e1 := withRun_sameStores h _

theorem Engine.withRun_run_of_running (h : e.run = some x) (f : Run → Run) : (e.withRun f).run = some (f x) := by
  simp [Engine.withRun, h]

theorem Engine.fail_run_of_running (h : e.run = some x) (f : Failure) :
    (e.fail f).run = some { x with fails := x.fails ++ [f] } := Engine.withRun_run_of_running h _

theorem failed_of_mem_fails {f : Failure} (h : e.run = some x) (hf : f ∈ x.fails) : failed e f := ⟨x, h, hf⟩

theorem failures_of_running (h : e.run = some x) : failures e = x.fails := by simp [failures, h]

/-! ### Slot operations in CHECK mode (R74) -/

/-- The engine with no operation behind a debug stall. -/
def Engine.unwaited (e : Engine) : Engine := e.withRun fun x => { x with waited := 0 }

theorem unwaited_sameStores (h : sameStores e e1) : sameStores e.unwaited e1 := withRun_sameStores h _

theorem Engine.unwaited_run_of_running (h : e.run = some x) : e.unwaited.run = some { x with waited := 0 } :=
  Engine.withRun_run_of_running h _

theorem Engine.stallWaits_of_running (h : e.run = some x) : e.stallWaits = decide (x.waited ≠ 0) := by
  simp [Engine.stallWaits, h]

theorem Engine.unwaited_stallWaits (e : Engine) : e.unwaited.stallWaits = false := by
  cases h : e.run <;> simp [Engine.unwaited, Engine.stallWaits, Engine.withRun, h]

theorem issueOp_of_check (h : e.run = some x) (hdebug : x.debug = false) (fuel : Nat) (f : Engine → Cur → Engine) (c : Cur) :
    issueOp fuel f e c = (f e c).unwaited := by
  unfold issueOp
  simp [h, hdebug, Engine.unwaited]

theorem slotStep_of_check {slot op : Nat} (hc : e.issuing slot op = some c) (h : e.run = some x) (hdebug : x.debug = false)
    (hwaited : x.waited = 0) (held : Nat) (f : Engine → Cur → Engine) :
    slotStep slot op held .none f e = advance (f e c).unwaited := by
  simp [slotStep, hc, Engine.stallWaits_of_running h, hwaited, meetEcc, issueOp_of_check h hdebug, Engine.unwaited_stallWaits]

theorem State.engineDo_congr {d p : Nat} {f g : Engine → Engine} (h : f (s.eng d p) = g (s.eng d p)) :
    s.engineDo d p f = s.engineDo d p g := by
  simp only [State.engineDo, h]

/-- A command whose meaning is a slot operation issues that operation where the sequencer has reached it. -/
theorem issues_of_slotOp {i : Instr} {slot op : Nat} {f : Owners → Engine → Cur → Engine} {P : Engine → Prop}
    (hexec : exec i s = .next (s.slotOp r slot op f)) (h : reached s r slot op c)
    (hP : P (f (s.owners r.die.val r.eng.val) (engOf s r) c).unwaited) : issues s i r P := by
  obtain ⟨hc, hecc, x, hx, hdebug, hwaited⟩ := h
  refine ⟨_, hexec.trans (congrArg _ (State.engineDo_congr ?_)), hP⟩
  rw [hecc]
  exact slotStep_of_check hc hx hdebug hwaited _ _

/-! ### Claims of the random lane -/

/-- The engine with the lane taken for the cycles `[a, b]`, its blocks counted. -/
def Engine.takeLane (a b : Nat) (e : Engine) : Engine :=
  { (e.withRun fun x => { x with lanes := x.lanes ++ [(a, b)] }) with outs := e.outs ++ [.rng (8 * (b + 1 - a))] }

/-- A consumer of `ws` has the lane in a cycle of `[a, b]` (R65). -/
abbrev laneTaken (ws : List (Nat × Nat)) (a b : Nat) : Prop := ∃ w ∈ ws, w.1 ≤ b ∧ a ≤ w.2

theorem laneTaken_iff {ws : List (Nat × Nat)} :
    laneTaken ws a b ↔ (ws.filter fun w => decide (w.1 ≤ b) && decide (a ≤ w.2)).isEmpty = false := by
  simp [laneTaken]

theorem takeLane_sameStores (h : sameStores e e1) : sameStores (e.takeLane a b) e1 := { h with }

theorem Engine.takeLane_run_of_running (h : e.run = some x) :
    (e.takeLane a b).run = some { x with lanes := x.lanes ++ [(a, b)] } := Engine.withRun_run_of_running h _

theorem claimLane_of_free (h : e.run = some x) (hfree : ¬ laneTaken x.lanes a b) (c : Cur) :
    claimLane a b e c = e.takeLane a b := by
  rw [laneTaken_iff, Bool.not_eq_false] at hfree
  simp only [claimLane, h, hfree, if_true, Engine.takeLane]

theorem claimLane_of_taken (h : e.run = some x) (htaken : laneTaken x.lanes a b) (c : Cur) :
    ∃ f, f.status = St.LANE_BUSY ∧ claimLane a b e c = (e.fail f).takeLane a b := by
  rw [laneTaken_iff] at htaken
  simp only [claimLane, h, htaken, Bool.false_eq_true, if_false]
  exact ⟨_, rfl, rfl⟩

/-- `e1` is the engine `e` of the program `x` with the lane claimed for the cycles `[a, b]`. -/
def laneClaimed (e : Engine) (x : Run) (a b : Nat) (e1 : Engine) : Prop :=
  sameStores e1 e ∧ (∃ y, e1.run = some y ∧ y.lanes = x.lanes ++ [(a, b)]) ∧
    (if laneTaken x.lanes a b then ∃ f, failed e1 f ∧ f.status = St.LANE_BUSY else failures e1 = x.fails)

theorem laneClaimed_claimLane (h : e.run = some x) (a b : Nat) (c : Cur) :
    laneClaimed e x a b (claimLane a b e c).unwaited := by
  by_cases hw : laneTaken x.lanes a b
  · obtain ⟨f, hstatus, heq⟩ := claimLane_of_taken h hw c
    have hrun := Engine.unwaited_run_of_running
      (Engine.takeLane_run_of_running (a := a) (b := b) (Engine.fail_run_of_running h f))
    rw [heq]
    refine ⟨unwaited_sameStores (takeLane_sameStores (fail_sameStores (sameStores_refl e) f)), ⟨_, hrun, rfl⟩, ?_⟩
    rw [if_pos hw]
    exact ⟨f, failed_of_mem_fails hrun (List.mem_append_right _ (List.mem_singleton_self f)), hstatus⟩
  · have hrun := Engine.unwaited_run_of_running (Engine.takeLane_run_of_running (a := a) (b := b) h)
    rw [claimLane_of_free h hw]
    refine ⟨unwaited_sameStores (takeLane_sameStores (sameStores_refl e)), ⟨_, hrun, rfl⟩, ?_⟩
    rw [if_neg hw]
    exact (failures_of_running hrun :)

/-! ### RDRAIN, RVEC and RRAW (Table 05-10) -/

/-- RVEC claims a second cycle for the stochastic roundings that draw 17 to 24 bits a lane (Table 02-9). -/
theorem opRvec_eq_claimLane (e : Engine) (c : Cur) :
    opRvec e c = claimLane c.cyc (if cvtWide e c then c.cyc + 1 else c.cyc) e c := by
  simp [opRvec, cvtWide]

theorem rdrain_issues (h : reached s r 4 1 c) (hx : (engOf s r).run = some x) :
    issues s (.rdrain r) r (laneClaimed (engOf s r) x (c.cyc + 70) (c.cyc + 70 + bitsAt (wArray c.word) 12 16)) :=
  issues_of_slotOp (f := fun _ => opRdrain) rfl h (laneClaimed_claimLane hx _ _ c)

theorem rvec_issues (h : reached s r 4 2 c) (hx : (engOf s r).run = some x) :
    issues s (.rvec r) r (laneClaimed (engOf s r) x c.cyc (if cvtWide (engOf s r) c then c.cyc + 1 else c.cyc)) := by
  refine issues_of_slotOp (f := fun _ => opRvec) rfl h ?_
  rw [opRvec_eq_claimLane]
  exact laneClaimed_claimLane hx _ _ c

theorem rraw_issues (h : reached s r 4 3 c) (hx : (engOf s r).run = some x) :
    issues s (.rraw r) r (laneClaimed (engOf s r) x c.cyc (c.cyc + 1)) :=
  issues_of_slotOp (f := fun _ => opRraw) rfl h (laneClaimed_claimLane hx _ _ c)

end Lemmas

/-- Settles O4: each of the three operations is one claim of the lane, which fails the program just where it meets cycles that
an earlier consumer has. -/
theorem randomLane : Obligations.RandomLane := by
  intro s r c q hq e h x hx
  simp only [laneRows, List.mem_cons, List.not_mem_nil, or_false] at hq
  obtain rfl | rfl | rfl := hq
  · exact rdrain_issues h hx
  · exact rvec_issues h hx
  · exact rraw_issues h hx

end Sys2Proof.Machine
end
